-- ==== Sys2Proof/Word.lean ====
section
/-! DEFINITION. The word types of GB7 (R3, R4, R46) and indexed register files as plain data. -/

namespace Sys2Proof

/-- A byte of memory (R4). -/
abbrev Byte := BitVec 8
/-- An instruction word, a PC or a 32-bit lane (R46). -/
abbrev W32 := BitVec 32
/-- A scalar register, an address register, a token or a Z cell. -/
abbrev W64 := BitVec 64
/-- A line of a stream register or a Z operand: 2,048 bits (R16, R227). -/
abbrev Line := BitVec 2048

/-- A register file of `n` cells. -/
abbrev File (α : Type) (n : Nat) := Vector α n

/-- Register file with every cell `a`. -/
def File.all (n : Nat) (a : α) : File α n := Vector.replicate n a

/-- The cell a file holds at `i`. -/
def File.at (f : File α n) (i : Fin n) : α := f[i.val]'i.isLt

/-- The file with cell `i` replaced. -/
def File.put (f : File α n) (i : Fin n) (a : α) : File α n := f.set i.val a i.isLt

/-- The file with cell `i` changed by `g`. -/
def File.mod (f : File α n) (i : Fin n) (g : α → α) : File α n := f.put i (g (f.at i))

@[simp] theorem File.at_put_self (f : File α n) (i : Fin n) (a : α) : (f.put i a).at i = a := by
  simp [File.at, File.put]

@[simp] theorem File.at_put_ne (f : File α n) {i j : Fin n} (h : i ≠ j) (a : α) :
    (f.put i a).at j = f.at j := by
  have hv : i.val ≠ j.val := fun e => h (Fin.ext e)
  simp [File.at, File.put, hv]

theorem File.at_put (f : File α n) (i j : Fin n) (a : α) :
    (f.put i a).at j = if i = j then a else f.at j := by
  by_cases h : i = j
  · subst h; simp
  · simp [h]

@[simp] theorem File.at_all (a : α) (i : Fin n) : (File.all n a).at i = a := by
  simp [File.at, File.all]

theorem File.at_mod (f : File α n) (i j : Fin n) (g : α → α) :
    (f.mod i g).at j = if i = j then g (f.at i) else f.at j := by
  simp [File.mod, File.at_put]

@[simp] theorem File.at_mod_self (f : File α n) (i : Fin n) (g : α → α) :
    (f.mod i g).at i = g (f.at i) := by
  simp [File.mod]

end Sys2Proof
end

