-- ==== Sys2Proof/Syntax.lean ====
section
/-! DEFINITION. The syntax of GB7: the operands of words (R37, R49 to R62) and the one inductive `Instr`
with a constructor for every row of the opcode table. -/

namespace Sys2Proof

/-- The four sequencers of a core (R11). -/
inductive Seq where
  | ctl | ld | ex | st
deriving DecidableEq, Repr

/-- The ring field of a word, bits 31:28 (R12, R39). -/
structure Ring where
  wb : Bool
  wa : Bool
  sb : Bool
  sa : Bool
deriving DecidableEq, Repr

/-- Package number of a core (R9). -/
abbrev CoreId := Fin 768

/-- A wait field of a command or of `mwait`: absent, or a mark (R49). -/
abbrev Wait := Option (Fin 32)

/-- The three wait fields of a command or of `mwait` (R49, R52). -/
structure Waits where
  w1 : Wait
  w2 : Wait
  w3 : Wait
deriving DecidableEq, Repr

/-- Conditions, codes 0 to 10 (R53). -/
inductive Cond where
  | eq | ne | lt | le | gt | ge | lo | ls | hi | hs | un
deriving DecidableEq, Repr

/-- Scopes, codes 0 to 4 (R53, R95). -/
inductive Scope where
  | cr | cl | dl | pk | sy
deriving DecidableEq, Repr

/-- Types, codes 0 to 11 (R53). -/
inductive Ty where
  | f32 | bf16 | i32 | i16 | i8 | n64 | n32 | n16 | n8 | mx8 | mx6 | mx4
deriving DecidableEq, Repr

/-- Sizes of scalar accesses, codes 0 to 6 (R53). -/
inductive Size where
  | n8 | n16 | n32 | n64 | i8 | i16 | i32
deriving DecidableEq, Repr

/-- What a `br` tests: a predicate, or the branch-outcome queue (R52). -/
inductive BrCond where
  | p (n : Fin 8)
  | bq
deriving DecidableEq, Repr

/-- Operations of `pset` (R163). -/
inductive PsetOp where
  | and | or | xor | andn | orn
deriving DecidableEq, Repr

/-- Frame sizes 8, 12, 16, 20 and 24 of `enter` (R55). -/
inductive FrameSize where
  | f8 | f12 | f16 | f20 | f24
deriving DecidableEq, Repr

/-- Targets of `send` and `bqp` (R194). -/
inductive Target where
  | ld | ex | st
deriving DecidableEq, Repr

/-- Operations of `amo` (R57). -/
inductive AmoOp where
  | add | min | max | minn | maxn | and | or | xor | swap
deriving DecidableEq, Repr

/-- Operations of `famo` (R314). -/
inductive FamoOp where
  | amo (o : AmoOp)
  | cas
deriving DecidableEq, Repr

/-- Operations of `upd` (R221). -/
inductive UpdOp where
  | add | min | max | and | or | xor
deriving DecidableEq, Repr

/-- Operations of `bk` (R284). -/
inductive BkOp where
  | add | min | max | and | or | xor | swap | cas | sadd | mul | rq
deriving DecidableEq, Repr

/-- EX operands (R60). -/
inductive Opnd where
  | zh (n : Fin 32)
  | zv (n : Fin 32)
  | zd (n : Fin 32)
  | q (n : Fin 16)
  | b (n : Fin 8)
  | zero
  | lane
deriving DecidableEq, Repr

/-- Functions of `funa` (R250). -/
inductive FunaOp where
  | abs | neg | floor | ceil | trunc | rint
deriving DecidableEq, Repr

/-- Conversions of `cvt` (R258). -/
inductive CvtOp where
  | f2blo | f2bhi | b2flo | b2fhi | f2i | i2f | f2n | n2f
deriving DecidableEq, Repr

/-- Operations of `mlog` (R265). -/
inductive MlogOp where
  | and | or | xor | andn | orn | not
deriving DecidableEq, Repr

/-- Named control registers (R62, R122, R124, R289, R310). -/
inductive CReg where
  | fpmode | fpflags | ooxCount | ooxTrap | staleCount | trapCause | trapPc | trapInfo | trapVec | trapResume
  | ctxid | coreid | genno | marks | spillBase | spillSize | raceMode | pinBase | asid | xlatFva | tokPend
  | l2Err | fabErr | fabDie
deriving DecidableEq, Repr

/-- The six ports of a router (R296). -/
inductive Port where
  | xp | xm | yp | ym | zp | zm
deriving DecidableEq, Repr

/-- What a flit carries: its header (R300), the two words of the record header and the data bytes (R305); `iv` is the IV under which it has been
encrypted last (R303), `via` the port by which it came to the die that holds it (R299). -/
structure Flit where
  hdr : W64
  h0 : W64
  h1 : W64
  data : List Byte
  iv : BitVec 96 := 0
  via : Option Port := none
deriving DecidableEq, Repr

/-- The processors that Brock releases and watches (R362, R363, R365). -/
inductive Proc where
  | management | memory | frontEnd
  | die (n : Fin 4)
deriving DecidableEq, Repr

/-- Where an uncorrectable error is consumed (R209, R328). -/
inductive ErrSource where
  | l2 | hbm | tier2 | scratchpad | z | accumulator | warren | l1
deriving DecidableEq, Repr

/-- The array instances whose corrected errors are counted (R369). -/
inductive ErrInst where
  | scratchpad (c : CoreId)
  | z (c : CoreId)
  | l1 (c : CoreId)
  | sett (g : Fin 64)
  | bank (d : Fin 4) (b : Fin 64)
  | hbm (n : Fin 8)
  | tier2 (n : Fin 8)
deriving DecidableEq, Repr

/-- What a patrol scrub finds in a sector (R369). -/
inductive ScrubResult where
  | clean | corrected | uncorrectable
deriving DecidableEq, Repr

/-- The governed rails of the compute dies (R373). -/
inductive Rail where
  | vcore (d : Fin 4)
  | vsram (d : Fin 4)
deriving DecidableEq, Repr

/-- The registers a host write can name when the write has no row of its own (R349, R364). -/
inductive HostReg where
  | mailbox
  | partition (v : Fin 16)
  | doorbell (v : Fin 16) (j : Nat)
  | bar2
  | msixMask (f : Fin 17) (n : Fin 2048)
deriving DecidableEq, Repr

/-- What a step of an agent works on, and the part of that work that it performs: the one of this number among those left, all of them where there
is none (R99, R102, R214). -/
structure Work (α : Type) where
  item : α
  part : Option Nat
deriving DecidableEq, Repr

/-- One constructor for each row of the opcode table. A constructor of a word carries its ring field first; a constructor of a step
of another agent (R12 to R378) carries what names the step. -/
inductive Instr where
  /-- `NOP`, R146. -/
  | nop (y : Ring)
  /-- `HALT`, R146. -/
  | halt (y : Ring)
  /-- `PBR`, R147. -/
  | pbr (y : Ring) (b : Fin 4) (o : BitVec 20)
  /-- `BR`, R147. -/
  | br (y : Ring) (b : Fin 4) (n : Bool) (p : BrCond)
  /-- `LOOP`, R148. -/
  | loop (y : Ring) (c : Fin 4) (l : Fin 8)
  /-- `LOOP_I`, R148. -/
  | loopI (y : Ring) (c : Fin 4) (n : BitVec 19)
  /-- `LB`, R149. -/
  | lb (y : Ring) (c : Fin 4) (o : BitVec 20)
  /-- `LX`, R150. -/
  | lx (y : Ring) (c : Fin 4) (n : Bool) (p : Fin 8) (o : BitVec 15)
  /-- `BUDGET`, R151. -/
  | budget (y : Ring) (e : Fin 8)
  /-- `MWAIT`, R152. -/
  | mwait (y : Ring) (w : Waits)
  /-- `GEN`, R153. -/
  | gen (y : Ring)
  /-- `PHASE`, R154. -/
  | phase (y : Ring)
  /-- `SEG`, R155. -/
  | seg (y : Ring) (n : BitVec 16) (crc : W32)
  /-- `RECV`, R158. -/
  | recv (y : Ring) (d : Fin 16)
  /-- `ADD`, R159. -/
  | add (y : Ring) (d : Fin 32) (a : Fin 32) (b : Fin 32)
  /-- `ADD_S`, R159. -/
  | addS (y : Ring) (d : Fin 32) (a : Fin 32) (b : Fin 32)
  /-- `SUB`, R159. -/
  | sub (y : Ring) (d : Fin 32) (a : Fin 32) (b : Fin 32)
  /-- `SUB_S`, R159. -/
  | subS (y : Ring) (d : Fin 32) (a : Fin 32) (b : Fin 32)
  /-- `AND`, R159. -/
  | and (y : Ring) (d : Fin 32) (a : Fin 32) (b : Fin 32)
  /-- `OR`, R159. -/
  | or (y : Ring) (d : Fin 32) (a : Fin 32) (b : Fin 32)
  /-- `XOR`, R159. -/
  | xor (y : Ring) (d : Fin 32) (a : Fin 32) (b : Fin 32)
  /-- `SHL`, R159. -/
  | shl (y : Ring) (d : Fin 32) (a : Fin 32) (b : Fin 32)
  /-- `SHR`, R159. -/
  | shr (y : Ring) (d : Fin 32) (a : Fin 32) (b : Fin 32)
  /-- `SRA`, R159. -/
  | sra (y : Ring) (d : Fin 32) (a : Fin 32) (b : Fin 32)
  /-- `MUL`, R159. -/
  | mul (y : Ring) (d : Fin 32) (a : Fin 32) (b : Fin 32)
  /-- `MUL_S`, R159. -/
  | mulS (y : Ring) (d : Fin 32) (a : Fin 32) (b : Fin 32)
  /-- `MULH`, R159. -/
  | mulh (y : Ring) (d : Fin 32) (a : Fin 32) (b : Fin 32)
  /-- `MULHN`, R159. -/
  | mulhn (y : Ring) (d : Fin 32) (a : Fin 32) (b : Fin 32)
  /-- `DIV`, R159. -/
  | div (y : Ring) (d : Fin 32) (a : Fin 32) (b : Fin 32)
  /-- `DIVN`, R159. -/
  | divn (y : Ring) (d : Fin 32) (a : Fin 32) (b : Fin 32)
  /-- `REM`, R159. -/
  | rem (y : Ring) (d : Fin 32) (a : Fin 32) (b : Fin 32)
  /-- `REMN`, R159. -/
  | remn (y : Ring) (d : Fin 32) (a : Fin 32) (b : Fin 32)
  /-- `MIN`, R159. -/
  | min (y : Ring) (d : Fin 32) (a : Fin 32) (b : Fin 32)
  /-- `MAX`, R159. -/
  | max (y : Ring) (d : Fin 32) (a : Fin 32) (b : Fin 32)
  /-- `MINN`, R159. -/
  | minn (y : Ring) (d : Fin 32) (a : Fin 32) (b : Fin 32)
  /-- `MAXN`, R159. -/
  | maxn (y : Ring) (d : Fin 32) (a : Fin 32) (b : Fin 32)
  /-- `CLZ`, R159. -/
  | clz (y : Ring) (d : Fin 32) (a : Fin 32)
  /-- `POPC`, R159. -/
  | popc (y : Ring) (d : Fin 32) (a : Fin 32)
  /-- `ADDI`, R160. -/
  | addi (y : Ring) (d : Fin 32) (a : Fin 32) (m : BitVec 12)
  /-- `ANDI`, R160. -/
  | andi (y : Ring) (d : Fin 32) (a : Fin 32) (m : BitVec 12)
  /-- `ORI`, R160. -/
  | ori (y : Ring) (d : Fin 32) (a : Fin 32) (m : BitVec 12)
  /-- `XORI`, R160. -/
  | xori (y : Ring) (d : Fin 32) (a : Fin 32) (m : BitVec 12)
  /-- `SHLI`, R160. -/
  | shli (y : Ring) (d : Fin 32) (a : Fin 32) (m : Fin 64)
  /-- `SHRI`, R160. -/
  | shri (y : Ring) (d : Fin 32) (a : Fin 32) (m : Fin 64)
  /-- `SRAI`, R160. -/
  | srai (y : Ring) (d : Fin 32) (a : Fin 32) (m : Fin 64)
  /-- `LI`, R161. -/
  | li (y : Ring) (d : Fin 32) (m : BitVec 17)
  /-- `LIH`, R161. -/
  | lih (y : Ring) (d : Fin 32) (m : BitVec 16)
  /-- `CMP`, R162. -/
  | cmp (y : Ring) (p : Fin 8) (a : Fin 32) (b : Fin 32) (c : Cond)
  /-- `CMPI`, R162. -/
  | cmpi (y : Ring) (p : Fin 8) (c : Cond) (a : Fin 32) (m : BitVec 10)
  /-- `PSET`, R163. -/
  | pset (y : Ring) (p : Fin 8) (a : Fin 8) (b : Fin 8) (o : PsetOp)
  /-- `SEL`, R164. -/
  | sel (y : Ring) (d : Fin 32) (a : Fin 32) (b : Fin 32) (p : Fin 8) (n : Bool)
  /-- `EXT`, R165. -/
  | ext (y : Ring) (d : Fin 32) (a : Fin 32) (p : Fin 64) (w : Fin 64)
  /-- `INS`, R165. -/
  | ins (y : Ring) (d : Fin 32) (a : Fin 32) (p : Fin 64) (w : Fin 64)
  /-- `PBRR`, R166. -/
  | pbrr (y : Ring) (b : Fin 4) (a : Fin 32)
  /-- `CALL`, R167. -/
  | call (y : Ring) (b : Fin 4)
  /-- `ENTER`, R168. -/
  | enter (y : Ring) (n : FrameSize)
  /-- `RET`, R169. -/
  | ret (y : Ring)
  /-- `RELC`, R170. -/
  | relc (y : Ring)
  /-- `TJOIN`, R171. -/
  | tjoin (y : Ring)
  /-- `TEND`, R172. -/
  | tend (y : Ring)
  /-- `XLAT`, R180. -/
  | xlat (y : Ring) (t : Fin 16) (a : Fin 32) (b : Fin 32) (r : Bool) (w : Bool)
  /-- `XLAT_R`, R181. -/
  | xlatR (y : Ring) (t : Fin 16) (a : Fin 32) (b : Fin 32) (r : Bool) (w : Bool) (c : Fin 32)
  /-- `XLAT_WALK_COMPLETE`, R132. -/
  | xlatWalkComplete (c : CoreId) (x : Fin 4)
  /-- `XREL`, R182. -/
  | xrel (y : Ring) (t : Fin 16)
  /-- `XINFO`, R183. -/
  | xinfo (y : Ring) (d : Fin 32) (t : Fin 16) (m : Fin 8)
  /-- `BIND`, R185. -/
  | bind (y : Ring) (t : Fin 16) (k : Fin 16) (x : Fin 32) (v : Fin 32)
  /-- `UNBIND`, R185. -/
  | unbind (y : Ring) (t : Fin 16)
  /-- `LDS`, R186. -/
  | lds (y : Ring) (d : Fin 32) (k : Fin 16) (x : Fin 32) (z : Size) (v : Fin 32)
  /-- `LDS_DATA_RETURN`, R187. -/
  | ldsDataReturn (c : CoreId) (x : Fin 4) (k : Work Nat)
  /-- `STS`, R186. -/
  | sts (y : Ring) (d : Fin 32) (k : Fin 16) (x : Fin 32) (z : Size) (v : Fin 32)
  /-- `STS_ACCEPTED`, R187. -/
  | stsAccepted (c : CoreId) (x : Fin 4) (k : Work Nat)
  /-- `AMO`, R188. -/
  | amo (y : Ring) (d : Fin 32) (k : Fin 16) (x : Fin 32) (z : Size) (v : Fin 32) (b : Fin 32) (o : AmoOp) (c : Scope)
  /-- `CAS`, R188. -/
  | cas (y : Ring) (d : Fin 32) (k : Fin 16) (x : Fin 32) (z : Size) (v : Fin 32) (b : Fin 32) (n : Fin 32) (c : Scope)
  /-- `ACQ`, R190. -/
  | acq (y : Ring) (c : Scope) (k : Fin 16) (x : Fin 32) (v : Fin 32)
  /-- `REL`, R190. -/
  | rel (y : Ring) (c : Scope) (k : Fin 16) (x : Fin 32) (v : Fin 32)
  /-- `FENCE`, R191. -/
  | fence (y : Ring) (c : Scope)
  /-- `FENCE_ACQ`, R191. -/
  | fenceAcq (y : Ring) (c : Scope)
  /-- `FENCE_REL`, R191. -/
  | fenceRel (y : Ring) (c : Scope)
  /-- `FENCE_ALL`, R191. -/
  | fenceAll (y : Ring)
  /-- `WADR`, R192. -/
  | wadr (y : Ring) (d : Fin 32) (k : Fin 16) (x : Fin 32) (z : Size) (v : Fin 32)
  /-- `WADR_WAKE`, R192. -/
  | wadrWake (c : CoreId) (x : Fin 4)
  /-- `WFE`, R193. -/
  | wfe (y : Ring)
  /-- `SEV`, R193. -/
  | sev (y : Ring) (c : Scope)
  /-- `SEND`, R194. -/
  | send (y : Ring) (g : Target) (a : Fin 32)
  /-- `BQP`, R194. -/
  | bqp (y : Ring) (g : Target) (n : Bool) (p : Fin 8)
  /-- `WIN`, R195. -/
  | win (y : Ring) (w : Fin 16) (a : Fin 32) (n : BitVec 12)
  /-- `TRAP`, R173. -/
  | trap (y : Ring) (n : BitVec 8)
  /-- `RETT`, R175. -/
  | rett (y : Ring)
  /-- `ECALL`, R174. -/
  | ecall (y : Ring) (n : BitVec 8)
  /-- `BRK`, R173. -/
  | brk (y : Ring) (n : BitVec 8)
  /-- `MFC`, R176. -/
  | mfc (y : Ring) (d : Fin 32) (c : CReg)
  /-- `MTC`, R176. -/
  | mtc (y : Ring) (a : Fin 32) (c : CReg)
  /-- `BK`, R284. -/
  | bk (y : Ring) (d : Fin 32) (k : Fin 16) (x : Fin 32) (m : Fin 32) (w : Waits) (o : BkOp) (t : Ty) (f : Bool)
  /-- `BKRED`, R287. -/
  | bkred (y : Ring) (d : Fin 32) (k : Fin 16) (x : Fin 32) (m : Fin 32) (w : Waits) (t : Ty) (u : Ty)
  /-- `WQ_PUSH`, R292. -/
  | wqPush (y : Ring) (d : Fin 32) (m : Fin 32) (w : Waits) (p : Fin 8) (q : Fin 64)
  /-- `WQ_POP`, R292. -/
  | wqPop (y : Ring) (d : Fin 32) (m : Fin 32) (w : Waits) (p : Fin 8) (q : Fin 64)
  /-- `WQ_PEEK`, R292. -/
  | wqPeek (y : Ring) (d : Fin 32) (m : Fin 32) (w : Waits) (p : Fin 8) (q : Fin 64)
  /-- `XALL`, R315. -/
  | xall (y : Ring) (d : Fin 32) (k : Fin 16) (x : Fin 32) (m : Fin 32) (w : Waits) (t : Fin 16) (g : Fin 64)
  /-- `FRED`, R318. -/
  | fred (y : Ring) (d : Fin 32) (k : Fin 16) (x : Fin 32) (m : Fin 32) (w : Waits) (t : Ty) (u : Ty)
  /-- `FPUT`, R313. -/
  | fput (y : Ring) (d : Fin 32) (k : Fin 16) (x : Fin 32) (m : Fin 32) (w : Waits)
  /-- `FGET`, R313. -/
  | fget (y : Ring) (d : Fin 32) (k : Fin 16) (x : Fin 32) (m : Fin 32) (w : Waits)
  /-- `FAMO`, R314. -/
  | famo (y : Ring) (d : Fin 32) (k : Fin 16) (x : Fin 32) (m : Fin 32) (w : Waits) (o : FamoOp) (c : Scope) (z : Bool)
  /-- `FBAR`, R319. -/
  | fbar (y : Ring) (m : Fin 32) (w : Waits) (g : Fin 64)
  /-- `LDQ`, R217. -/
  | ldq (y : Ring) (q : Fin 16) (k : Fin 16) (x : Fin 16) (v : Fin 1024)
  /-- `STQ`, R218. -/
  | stq (y : Ring) (q : Fin 16) (k : Fin 16) (x : Fin 16) (v : Fin 1024)
  /-- `STREL`, R219. -/
  | strel (y : Ring) (q : Fin 16) (k : Fin 16) (x : Fin 16) (c : Scope) (v : Fin 128)
  /-- `PF`, R220. -/
  | pf (y : Ring) (k : Fin 16) (x : Fin 16) (v : Fin 1024)
  /-- `UPD`, R221. -/
  | upd (y : Ring) (q : Fin 16) (k : Fin 16) (x : Fin 16) (o : UpdOp) (t : Ty) (v : Fin 8)
  /-- `LDST_WORD_COMPLETE`, R212. -/
  | ldstWordComplete (c : CoreId) (t : Bool) (k : Work Nat)
  /-- `HELD_COMPLETION_POST`, R13. -/
  | heldCompletionPost (c : CoreId) (t : Bool) (a : Bool)
  /-- `AADD`, R216. -/
  | aadd (y : Ring) (d : Fin 16) (a : Fin 16) (b : Fin 16)
  /-- `AADDI`, R216. -/
  | aaddi (y : Ring) (d : Fin 16) (a : Fin 16) (m : BitVec 14)
  /-- `ALI`, R216. -/
  | ali (y : Ring) (d : Fin 16) (m : BitVec 18)
  /-- `ACMP`, R216. -/
  | acmp (y : Ring) (p : Fin 8) (a : Fin 16) (b : Fin 16) (c : Cond)
  /-- `LDSP`, R223. -/
  | ldsp (y : Ring) (l : Fin 16) (k : Fin 16) (x : Fin 16) (a : Fin 16) (m : Fin 32) (w : Waits) (f : Fin 1024)
  /-- `STSP`, R223. -/
  | stsp (y : Ring) (l : Fin 16) (k : Fin 16) (x : Fin 16) (a : Fin 16) (m : Fin 32) (w : Waits) (f : Fin 1024)
  /-- `GTH`, R224. -/
  | gth (y : Ring) (l : Fin 16) (k : Fin 16) (x : Fin 16) (a : Fin 16) (m : Fin 32) (w : Waits) (n : Bool) (f : Fin 8)
  /-- `SCT`, R224. -/
  | sct (y : Ring) (l : Fin 16) (k : Fin 16) (x : Fin 16) (a : Fin 16) (m : Fin 32) (w : Waits) (n : Bool) (f : Fin 8)
  /-- `ENGINE_COMMAND_START`, R20. -/
  | engineCommandStart (c : CoreId) (u : Nat)
  /-- `COPY_COMMAND_COMPLETE`, R223. -/
  | copyCommandComplete (c : CoreId) (u : Work Nat)
  /-- `GATHER_COMMAND_COMPLETE`, R224. -/
  | gatherCommandComplete (c : CoreId) (u : Work Nat)
  /-- `FADD_F32`, R248. -/
  | faddF32 (y : Ring) (d : Opnd) (a : Opnd) (b : Opnd)
  /-- `FADD_BF16`, R248. -/
  | faddBf16 (y : Ring) (d : Opnd) (a : Opnd) (b : Opnd)
  /-- `FSUB_F32`, R248. -/
  | fsubF32 (y : Ring) (d : Opnd) (a : Opnd) (b : Opnd)
  /-- `FSUB_BF16`, R248. -/
  | fsubBf16 (y : Ring) (d : Opnd) (a : Opnd) (b : Opnd)
  /-- `FMUL_F32`, R248. -/
  | fmulF32 (y : Ring) (d : Opnd) (a : Opnd) (b : Opnd)
  /-- `FMUL_BF16`, R248. -/
  | fmulBf16 (y : Ring) (d : Opnd) (a : Opnd) (b : Opnd)
  /-- `FMA_F32`, R248. -/
  | fmaF32 (y : Ring) (d : Opnd) (a : Opnd) (b : Opnd)
  /-- `FMA_BF16`, R248. -/
  | fmaBf16 (y : Ring) (d : Opnd) (a : Opnd) (b : Opnd)
  /-- `FMS_F32`, R248. -/
  | fmsF32 (y : Ring) (d : Opnd) (a : Opnd) (b : Opnd)
  /-- `FMS_BF16`, R248. -/
  | fmsBf16 (y : Ring) (d : Opnd) (a : Opnd) (b : Opnd)
  /-- `FNMA_F32`, R248. -/
  | fnmaF32 (y : Ring) (d : Opnd) (a : Opnd) (b : Opnd)
  /-- `FNMA_BF16`, R248. -/
  | fnmaBf16 (y : Ring) (d : Opnd) (a : Opnd) (b : Opnd)
  /-- `FMAX_F32`, R249. -/
  | fmaxF32 (y : Ring) (d : Opnd) (a : Opnd) (b : Opnd)
  /-- `FMAX_BF16`, R249. -/
  | fmaxBf16 (y : Ring) (d : Opnd) (a : Opnd) (b : Opnd)
  /-- `FMIN_F32`, R249. -/
  | fminF32 (y : Ring) (d : Opnd) (a : Opnd) (b : Opnd)
  /-- `FMIN_BF16`, R249. -/
  | fminBf16 (y : Ring) (d : Opnd) (a : Opnd) (b : Opnd)
  /-- `FCMP_F32`, R252. -/
  | fcmpF32 (y : Ring) (c : Cond) (m : Fin 8) (a : Opnd) (b : Opnd)
  /-- `FCMP_BF16`, R252. -/
  | fcmpBf16 (y : Ring) (c : Cond) (m : Fin 8) (a : Opnd) (b : Opnd)
  /-- `FSEL_F32`, R253. -/
  | fselF32 (y : Ring) (d : Opnd) (a : Opnd) (b : Opnd)
  /-- `FSEL_BF16`, R253. -/
  | fselBf16 (y : Ring) (d : Opnd) (a : Opnd) (b : Opnd)
  /-- `FUNA_F32`, R250. -/
  | funaF32 (y : Ring) (d : Opnd) (a : Opnd) (o : FunaOp)
  /-- `EXP2_F32`, R251. -/
  | exp2F32 (y : Ring) (d : Opnd) (a : Opnd)
  /-- `LG2_F32`, R251. -/
  | lg2F32 (y : Ring) (d : Opnd) (a : Opnd)
  /-- `RCP_F32`, R251. -/
  | rcpF32 (y : Ring) (d : Opnd) (a : Opnd)
  /-- `RSQ_F32`, R251. -/
  | rsqF32 (y : Ring) (d : Opnd) (a : Opnd)
  /-- `IADD_I32`, R254. -/
  | iaddI32 (y : Ring) (d : Opnd) (a : Opnd) (b : Opnd)
  /-- `IADD_I16`, R254. -/
  | iaddI16 (y : Ring) (d : Opnd) (a : Opnd) (b : Opnd)
  /-- `IADD_I8`, R254. -/
  | iaddI8 (y : Ring) (d : Opnd) (a : Opnd) (b : Opnd)
  /-- `IADD_I32_S`, R254. -/
  | iaddI32S (y : Ring) (d : Opnd) (a : Opnd) (b : Opnd)
  /-- `IADD_I16_S`, R254. -/
  | iaddI16S (y : Ring) (d : Opnd) (a : Opnd) (b : Opnd)
  /-- `IADD_I8_S`, R254. -/
  | iaddI8S (y : Ring) (d : Opnd) (a : Opnd) (b : Opnd)
  /-- `IADD_N32_S`, R254. -/
  | iaddN32S (y : Ring) (d : Opnd) (a : Opnd) (b : Opnd)
  /-- `IADD_N16_S`, R254. -/
  | iaddN16S (y : Ring) (d : Opnd) (a : Opnd) (b : Opnd)
  /-- `IADD_N8_S`, R254. -/
  | iaddN8S (y : Ring) (d : Opnd) (a : Opnd) (b : Opnd)
  /-- `ISUB_I32`, R254. -/
  | isubI32 (y : Ring) (d : Opnd) (a : Opnd) (b : Opnd)
  /-- `ISUB_I16`, R254. -/
  | isubI16 (y : Ring) (d : Opnd) (a : Opnd) (b : Opnd)
  /-- `ISUB_I8`, R254. -/
  | isubI8 (y : Ring) (d : Opnd) (a : Opnd) (b : Opnd)
  /-- `ISUB_I32_S`, R254. -/
  | isubI32S (y : Ring) (d : Opnd) (a : Opnd) (b : Opnd)
  /-- `ISUB_I16_S`, R254. -/
  | isubI16S (y : Ring) (d : Opnd) (a : Opnd) (b : Opnd)
  /-- `ISUB_I8_S`, R254. -/
  | isubI8S (y : Ring) (d : Opnd) (a : Opnd) (b : Opnd)
  /-- `ISUB_N32_S`, R254. -/
  | isubN32S (y : Ring) (d : Opnd) (a : Opnd) (b : Opnd)
  /-- `ISUB_N16_S`, R254. -/
  | isubN16S (y : Ring) (d : Opnd) (a : Opnd) (b : Opnd)
  /-- `ISUB_N8_S`, R254. -/
  | isubN8S (y : Ring) (d : Opnd) (a : Opnd) (b : Opnd)
  /-- `IMUL_I32`, R254. -/
  | imulI32 (y : Ring) (d : Opnd) (a : Opnd) (b : Opnd)
  /-- `IMUL_I16`, R254. -/
  | imulI16 (y : Ring) (d : Opnd) (a : Opnd) (b : Opnd)
  /-- `IMUL_I8`, R254. -/
  | imulI8 (y : Ring) (d : Opnd) (a : Opnd) (b : Opnd)
  /-- `IMAC_I32`, R254. -/
  | imacI32 (y : Ring) (d : Opnd) (a : Opnd) (b : Opnd)
  /-- `IMAC_I16`, R254. -/
  | imacI16 (y : Ring) (d : Opnd) (a : Opnd) (b : Opnd)
  /-- `IMAC_I8`, R254. -/
  | imacI8 (y : Ring) (d : Opnd) (a : Opnd) (b : Opnd)
  /-- `IAND`, R254. -/
  | iand (y : Ring) (d : Opnd) (a : Opnd) (b : Opnd)
  /-- `IOR`, R254. -/
  | ior (y : Ring) (d : Opnd) (a : Opnd) (b : Opnd)
  /-- `IXOR`, R254. -/
  | ixor (y : Ring) (d : Opnd) (a : Opnd) (b : Opnd)
  /-- `ISHL_I32`, R254. -/
  | ishlI32 (y : Ring) (d : Opnd) (a : Opnd) (b : Opnd)
  /-- `ISHL_I16`, R254. -/
  | ishlI16 (y : Ring) (d : Opnd) (a : Opnd) (b : Opnd)
  /-- `ISHL_I8`, R254. -/
  | ishlI8 (y : Ring) (d : Opnd) (a : Opnd) (b : Opnd)
  /-- `ISHR_I32`, R254. -/
  | ishrI32 (y : Ring) (d : Opnd) (a : Opnd) (b : Opnd)
  /-- `ISHR_I16`, R254. -/
  | ishrI16 (y : Ring) (d : Opnd) (a : Opnd) (b : Opnd)
  /-- `ISHR_I8`, R254. -/
  | ishrI8 (y : Ring) (d : Opnd) (a : Opnd) (b : Opnd)
  /-- `ISRA_I32`, R254. -/
  | israI32 (y : Ring) (d : Opnd) (a : Opnd) (b : Opnd)
  /-- `ISRA_I16`, R254. -/
  | israI16 (y : Ring) (d : Opnd) (a : Opnd) (b : Opnd)
  /-- `ISRA_I8`, R254. -/
  | israI8 (y : Ring) (d : Opnd) (a : Opnd) (b : Opnd)
  /-- `IMIN_I32`, R254. -/
  | iminI32 (y : Ring) (d : Opnd) (a : Opnd) (b : Opnd)
  /-- `IMIN_I16`, R254. -/
  | iminI16 (y : Ring) (d : Opnd) (a : Opnd) (b : Opnd)
  /-- `IMIN_I8`, R254. -/
  | iminI8 (y : Ring) (d : Opnd) (a : Opnd) (b : Opnd)
  /-- `IMIN_N32`, R254. -/
  | iminN32 (y : Ring) (d : Opnd) (a : Opnd) (b : Opnd)
  /-- `IMIN_N16`, R254. -/
  | iminN16 (y : Ring) (d : Opnd) (a : Opnd) (b : Opnd)
  /-- `IMIN_N8`, R254. -/
  | iminN8 (y : Ring) (d : Opnd) (a : Opnd) (b : Opnd)
  /-- `IMAX_I32`, R254. -/
  | imaxI32 (y : Ring) (d : Opnd) (a : Opnd) (b : Opnd)
  /-- `IMAX_I16`, R254. -/
  | imaxI16 (y : Ring) (d : Opnd) (a : Opnd) (b : Opnd)
  /-- `IMAX_I8`, R254. -/
  | imaxI8 (y : Ring) (d : Opnd) (a : Opnd) (b : Opnd)
  /-- `IMAX_N32`, R254. -/
  | imaxN32 (y : Ring) (d : Opnd) (a : Opnd) (b : Opnd)
  /-- `IMAX_N16`, R254. -/
  | imaxN16 (y : Ring) (d : Opnd) (a : Opnd) (b : Opnd)
  /-- `IMAX_N8`, R254. -/
  | imaxN8 (y : Ring) (d : Opnd) (a : Opnd) (b : Opnd)
  /-- `ICMP_I32`, R252. -/
  | icmpI32 (y : Ring) (c : Cond) (m : Fin 8) (a : Opnd) (b : Opnd)
  /-- `ICMP_I16`, R252. -/
  | icmpI16 (y : Ring) (c : Cond) (m : Fin 8) (a : Opnd) (b : Opnd)
  /-- `ICMP_I8`, R252. -/
  | icmpI8 (y : Ring) (c : Cond) (m : Fin 8) (a : Opnd) (b : Opnd)
  /-- `MOV`, R256. -/
  | mov (y : Ring) (d : Opnd) (a : Opnd)
  /-- `MOV_MASKED`, R256. -/
  | movMasked (y : Ring) (d : Opnd) (a : Opnd) (m : Fin 8)
  /-- `BCST`, R256. -/
  | bcst (y : Ring) (d : Opnd) (a : Opnd) (c : Fin 64)
  /-- `PERM`, R256. -/
  | perm (y : Ring) (d : Opnd) (a : Opnd) (b : Opnd)
  /-- `ROT`, R256. -/
  | rot (y : Ring) (d : Opnd) (a : Opnd) (c : Fin 64)
  /-- `RED_F32`, R257. -/
  | redF32 (y : Ring) (d : Opnd) (a : Opnd)
  /-- `RED_I32`, R257. -/
  | redI32 (y : Ring) (d : Opnd) (a : Opnd)
  /-- `SCAN_F32`, R257. -/
  | scanF32 (y : Ring) (d : Opnd) (a : Opnd)
  /-- `CVT`, R258. -/
  | cvt (y : Ring) (d : Opnd) (a : Opnd) (o : CvtOp)
  /-- `QMAX`, R259. -/
  | qmax (y : Ring) (l : Fin 7) (a : Opnd)
  /-- `QCVT`, R260. -/
  | qcvt (y : Ring) (d : Opnd) (a : Opnd) (l : Fin 7)
  /-- `DEQ`, R261. -/
  | deq (y : Ring) (d : Opnd) (a : Opnd) (l : Fin 7)
  /-- `ZLD`, R262. -/
  | zld (y : Ring) (d : Opnd) (n : Fin 16) (x : Fin 1024)
  /-- `ZST`, R262. -/
  | zst (y : Ring) (d : Opnd) (n : Fin 16) (x : Fin 1024)
  /-- `MSET`, R264. -/
  | mset (y : Ring) (d : Fin 8) (f : Fin 128) (c : Fin 128)
  /-- `MLOG`, R265. -/
  | mlog (y : Ring) (o : MlogOp) (d : Fin 8) (a : Fin 8) (b : Fin 8)
  /-- `ZLI`, R255. -/
  | zli (y : Ring) (d : Opnd) (m : BitVec 14)
  /-- `LSE`, R268. -/
  | lse (y : Ring)
  /-- `LSR`, R268. -/
  | lsr (y : Ring)
  /-- `MMA`, R269. -/
  | mma (y : Ring) (c : Fin 64) (a : Fin 16) (b : Fin 16) (l : Fin 7) (u : Bool) (v : Bool)
  /-- `MMAZ`, R269. -/
  | mmaz (y : Ring) (c : Fin 64) (a : Fin 16) (b : Fin 16) (l : Fin 7) (u : Bool) (v : Bool)
  /-- `MMOV`, R270. -/
  | mmov (y : Ring) (c : Fin 64) (a : Fin 16) (l : Fin 7)
  /-- `MCLR`, R271. -/
  | mclr (y : Ring) (c : Fin 64)
  /-- `DSET`, R266. -/
  | dset (y : Ring) (a : Fin 16) (b : Fin 8)
  /-- `FMTSET`, R267. -/
  | fmtset (y : Ring) (a : Fin 16) (b : Fin 8)
  /-- `FMTSET_FBASE`, R267. -/
  | fmtsetFbase (y : Ring) (b : Fin 8)
  /-- `EX_RESULT_LANDS`, R230. -/
  | exResultLands (c : CoreId)
  /-- `LEASE_GRANT`, R17. -/
  | leaseGrant (g : Fin 64)
  /-- `SETT_OPERANDS_READ`, R240. -/
  | settOperandsRead (g : Work (Fin 64))
  /-- `SETT_COMMAND_FINISH`, R236. -/
  | settCommandFinish (g : Work (Fin 64))
  /-- `BANK_COMMAND_COMPLETE`, R284. -/
  | bankCommandComplete (c : CoreId) (u : Work Nat)
  /-- `BKRED_CONTRIBUTION`, R287. -/
  | bkredContribution (c : CoreId) (u : Work Nat)
  /-- `WARREN_COMMAND_PERFORMED`, R292. -/
  | warrenCommandPerformed (c : CoreId) (u : Nat)
  /-- `XALL_START`, R317. -/
  | xallStart (d : Fin 4) (u : Work Nat)
  /-- `XALL_COMPLETE`, R317. -/
  | xallComplete (d : Fin 4) (u : Work Nat)
  /-- `FPUT_COMPLETE`, R313. -/
  | fputComplete (d : Fin 4) (u : Work Nat)
  /-- `FGET_COMPLETE`, R313. -/
  | fgetComplete (d : Fin 4) (u : Work Nat)
  /-- `FAMO_COMPLETE`, R314. -/
  | famoComplete (d : Fin 4) (u : Nat)
  /-- `FRED_COMPLETE`, R318. -/
  | fredComplete (d : Fin 4) (u : Work Nat)
  /-- `FBAR_START`, R319. -/
  | fbarStart (d : Fin 4) (u : Nat)
  /-- `FBAR_COMPLETE`, R319. -/
  | fbarComplete (d : Fin 4) (u : Nat)
  /-- `TRAP_TAKEN`, R120. -/
  | trapTaken (c : CoreId)
  /-- `STALL_BUDGET`, R117. -/
  | stallBudget (c : CoreId) (q : Seq) (x : Fin 4)
  /-- `UNCORRECTABLE_ERROR_CONSUMED`, R209. -/
  | uncorrectableErrorConsumed (c : CoreId) (r : ErrSource) (a : Nat) (n : W32)
  /-- `MACHINE_CHECK_CORE_CLEAR`, R345. -/
  | machineCheckCoreClear (c : CoreId)
  /-- `PHASE_REPLAY`, R209. -/
  | phaseReplay (c : CoreId)
  /-- `TILE_RUN_RETIRE`, R24. -/
  | tileRunRetire (c : CoreId)
  /-- `LAUNCH_COMPLETE`, R327. -/
  | launchComplete (q : Fin 4096)
  /-- `TILE_RUN_DISPATCH`, R333. -/
  | tileRunDispatch (p : Fin 16)
  /-- `SHADOW_BANK_FILL`, R337. -/
  | shadowBankFill (c : CoreId)
  /-- `OPERATOR_PINNING`, R335. -/
  | operatorPinning (q : Fin 4096)
  /-- `SHADOW_BANK_SWAP`, R337. -/
  | shadowBankSwap (c : CoreId)
  /-- `ECALL_RECORD_ACCEPTED`, R174. -/
  | ecallRecordAccepted (c : CoreId)
  /-- `COMPLETION_RECORD_WRITE`, R329. -/
  | completionRecordWrite (q : Fin 4096)
  /-- `HOLDOFF_TIMER_EXPIRY`, R330. -/
  | holdoffTimerExpiry (q : Fin 4096)
  /-- `DOORBELL_TAIL`, R325. -/
  | doorbellTail (v : Fin 16) (j : Nat) (n : W32)
  /-- `COMPLETION_HEAD`, R325. -/
  | completionHead (v : Fin 16) (j : Nat) (n : W32)
  /-- `PACKET_NOP`, R327. -/
  | packetNop (q : Fin 4096)
  /-- `LAUNCH`, R327. -/
  | launch (q : Fin 4096)
  /-- `PUSH`, R327. -/
  | push (q : Fin 4096)
  /-- `SIGNAL`, R327. -/
  | signal (q : Fin 4096)
  /-- `TIMER_TICK`, R332. -/
  | timerTick
  /-- `RLOG_RD`, R350. -/
  | rlogRd (v : Fin 16) (n : W32)
  /-- `PREQ_RD`, R350. -/
  | preqRd (v : Fin 16) (n : W32)
  /-- `PRESP`, R357. -/
  | presp (v : Fin 16) (n : W64)
  /-- `EV_RD`, R352. -/
  | evRd (n : W32)
  /-- `EV_BASE`, R352. -/
  | evBase (n : W64)
  /-- `EVENT_RECORD_WRITE`, R352. -/
  | eventRecordWrite
  /-- `REGISTER_WRITE`, R5. -/
  | registerWrite (r : HostReg) (o : Nat) (z : Bool) (n : W64)
  /-- `CONFIGURE_QUEUE`, R324. -/
  | configureQueue
  /-- `SET_ROOT`, R125. -/
  | setRoot
  /-- `FLUSH_ASID`, R131. -/
  | flushAsid
  /-- `REVOKE`, R139. -/
  | revoke
  /-- `QUIESCED`, R140. -/
  | quiesced (k : Nat)
  /-- `RESUME`, R141. -/
  | resume
  /-- `PREEMPT_NODE`, R340. -/
  | preemptNode
  /-- `PREEMPT_FORCED`, R341. -/
  | preemptForced
  /-- `HOLD_REACHES_CORE`, R341. -/
  | holdReachesCore (c : CoreId)
  /-- `PREEMPTED`, R341. -/
  | preempted (p : Fin 16)
  /-- `RESTORE`, R344. -/
  | restore
  /-- `RESTORED`, R344. -/
  | restored (p : Fin 16)
  /-- `SET_PARTITION`, R346. -/
  | setPartition
  /-- `SET_PARTITION_REMOVE`, R348. -/
  | setPartitionRemove
  /-- `SET_COMMONS`, R278. -/
  | setCommons
  /-- `SET_WARREN`, R290. -/
  | setWarren
  /-- `SET_FABRIC_GEOMETRY`, R295. -/
  | setFabricGeometry
  /-- `SET_FABRIC_GROUP`, R311. -/
  | setFabricGroup
  /-- `SET_FABRIC_LINK`, R297. -/
  | setFabricLink
  /-- `READ_SCREE`, R368. -/
  | readScree
  /-- `SCREE_RELEASE`, R366. -/
  | screeRelease
  /-- `READ_HEALTH`, R372. -/
  | readHealth
  /-- `SET_POWER_CAP`, R374. -/
  | setPowerCap
  /-- `RECOVERY_COMMIT`, R366. -/
  | recoveryCommit
  /-- `FLIT_RECEIVE`, R301. -/
  | flitReceive (d : Fin 4) (p : Port) (f : Flit) (at_ : List Nat) (noise : List Byte)
  /-- `NAK_RECEIVE`, R301. -/
  | nakReceive (d : Fin 4) (p : Port) (a : BitVec 12)
  /-- `LOSS_OF_LOCK`, R302. -/
  | lossOfLock (d : Fin 4) (p : Port)
  /-- `LANE_FAILURE`, R298. -/
  | laneFailure (d : Fin 4) (p : Port) (n : Fin 64)
  /-- `RETRAIN_COMPLETE`, R302. -/
  | retrainComplete (d : Fin 4) (p : Port)
  /-- `RETRAIN_TIMEOUT`, R302. -/
  | retrainTimeout (d : Fin 4) (p : Port)
  /-- `LINK_STATE_UPDATE`, R297. -/
  | linkStateUpdate
  /-- `PATH_SILENCE_EXPIRY`, R297. -/
  | pathSilenceExpiry (d : Fin 4) (t : Fin 64)
  /-- `KEY_CONTROL`, R303. -/
  | keyControl (d : Fin 4) (p : Port) (w : W32)
  /-- `KEY_LOW`, R304. -/
  | keyLow (d : Fin 4) (p : Port)
  /-- `KEY_EXHAUSTED`, R304. -/
  | keyExhausted (d : Fin 4) (p : Port)
  /-- `KEY_EXHAUSTION_TIMEOUT`, R304. -/
  | keyExhaustionTimeout (d : Fin 4) (p : Port)
  /-- `FABRIC_READ`, R305. -/
  | fabricRead (d : Fin 4) (k : Work Nat)
  /-- `FABRIC_WRITE`, R305. -/
  | fabricWrite (d : Fin 4) (k : Work Nat)
  /-- `FABRIC_ATOMIC`, R305. -/
  | fabricAtomic (d : Fin 4) (k : Nat)
  /-- `FABRIC_BANK_UPDATE`, R305. -/
  | fabricBankUpdate (d : Fin 4) (k : Nat)
  /-- `WINDOW_READ`, R305. -/
  | windowRead (d : Fin 4) (k : Work Nat)
  /-- `WINDOW_WRITE`, R196. -/
  | windowWrite (d : Fin 4) (k : Work Nat)
  /-- `READY`, R317. -/
  | ready (d : Fin 4) (k : Nat)
  /-- `XALL_PIECE`, R316. -/
  | xallPiece (d : Fin 4) (k : Work Nat)
  /-- `FRED_CONTRIBUTION`, R318. -/
  | fredContribution (d : Fin 4) (k : Nat)
  /-- `FBAR_ARRIVAL`, R319. -/
  | fbarArrival (d : Fin 4) (k : Nat)
  /-- `RESPONSE`, R306. -/
  | response (d : Fin 4) (k : Nat)
  /-- `HOST_MEM_READ`, R355. -/
  | hostMemRead (a : Nat) (n : Nat)
  /-- `HOST_MEM_WRITE`, R355. -/
  | hostMemWrite (a : Nat) (b : List Byte)
  /-- `FLR_VF`, R358. -/
  | flrVf (v : Fin 16)
  /-- `FLR_PF`, R358. -/
  | flrPf
  /-- `POWER_GOOD`, R375. -/
  | powerGood
  /-- `COLD_RESET`, R365. -/
  | coldReset
  /-- `OAM_RESET_PIN`, R365. -/
  | oamResetPin
  /-- `WATCHDOG_REPORT`, R365. -/
  | watchdogReport (p : Proc)
  /-- `WATCHDOG_EXPIRY`, R365. -/
  | watchdogExpiry (p : Proc)
  /-- `STAGE_READY`, R363. -/
  | stageReady (d : Fin 4)
  /-- `STAGE_TIMEOUT`, R363. -/
  | stageTimeout
  /-- `GET_MEASUREMENTS`, R363. -/
  | getMeasurements
  /-- `CORRECTED_ERROR`, R369. -/
  | correctedError (n : ErrInst)
  /-- `ERROR_WINDOW_END`, R370. -/
  | errorWindowEnd
  /-- `PATROL_SCRUB`, R369. -/
  | patrolScrub (n : ErrInst) (a : Nat) (r : ScrubResult)
  /-- `RAIL_ADJUST`, R373. -/
  | railAdjust (r : Rail) (m : Nat)
  /-- `THERMAL_THROTTLE`, R374. -/
  | thermalThrottle (n : Fin 36) (t : BitVec 16)
  /-- `POWER_CAP_REACHED`, R374. -/
  | powerCapReached (w : BitVec 16)
  /-- `THERMAL_TRIP`, R374. -/
  | thermalTrip (n : Fin 36) (t : BitVec 16)
  /-- `UNKNOWN_PACKET_TYPE`, R336. -/
  | unknownPacketType (q : Fin 4096)
  /-- `MSIX_VECTOR_UNMASK`, R330. -/
  | msixVectorUnmask (f : Fin 17) (n : Fin 2048)
  /-- `HOST_WRITE_INVALIDATION`, R106. -/
  | hostWriteInvalidation (a : Nat) (b : List Byte)
deriving DecidableEq, Repr

/-- The sequencers whose opcode map holds the instruction; none for a step of another agent. -/
def Instr.streams : Instr → List Seq
  | .nop _ => [.ctl, .ld, .ex, .st]
  | .halt _ => [.ctl, .ld, .ex, .st]
  | .pbr _ _ _ => [.ctl, .ld, .ex, .st]
  | .br _ _ _ _ => [.ctl, .ld, .ex, .st]
  | .loop _ _ _ => [.ctl, .ld, .ex, .st]
  | .loopI _ _ _ => [.ctl, .ld, .ex, .st]
  | .lb _ _ _ => [.ctl, .ld, .ex, .st]
  | .lx _ _ _ _ _ => [.ctl, .ld, .ex, .st]
  | .budget _ _ => [.ctl, .ld, .ex, .st]
  | .mwait _ _ => [.ctl, .ld, .ex, .st]
  | .gen _ => [.ctl, .ld, .ex, .st]
  | .phase _ => [.ctl, .ld, .ex, .st]
  | .seg _ _ _ => [.ctl, .ld, .ex, .st]
  | .recv _ _ => [.ld, .ex, .st]
  | .add _ _ _ _ => [.ctl]
  | .addS _ _ _ _ => [.ctl]
  | .sub _ _ _ _ => [.ctl]
  | .subS _ _ _ _ => [.ctl]
  | .and _ _ _ _ => [.ctl]
  | .or _ _ _ _ => [.ctl]
  | .xor _ _ _ _ => [.ctl]
  | .shl _ _ _ _ => [.ctl]
  | .shr _ _ _ _ => [.ctl]
  | .sra _ _ _ _ => [.ctl]
  | .mul _ _ _ _ => [.ctl]
  | .mulS _ _ _ _ => [.ctl]
  | .mulh _ _ _ _ => [.ctl]
  | .mulhn _ _ _ _ => [.ctl]
  | .div _ _ _ _ => [.ctl]
  | .divn _ _ _ _ => [.ctl]
  | .rem _ _ _ _ => [.ctl]
  | .remn _ _ _ _ => [.ctl]
  | .min _ _ _ _ => [.ctl]
  | .max _ _ _ _ => [.ctl]
  | .minn _ _ _ _ => [.ctl]
  | .maxn _ _ _ _ => [.ctl]
  | .clz _ _ _ => [.ctl]
  | .popc _ _ _ => [.ctl]
  | .addi _ _ _ _ => [.ctl]
  | .andi _ _ _ _ => [.ctl]
  | .ori _ _ _ _ => [.ctl]
  | .xori _ _ _ _ => [.ctl]
  | .shli _ _ _ _ => [.ctl]
  | .shri _ _ _ _ => [.ctl]
  | .srai _ _ _ _ => [.ctl]
  | .li _ _ _ => [.ctl]
  | .lih _ _ _ => [.ctl]
  | .cmp _ _ _ _ _ => [.ctl]
  | .cmpi _ _ _ _ _ => [.ctl]
  | .pset _ _ _ _ _ => [.ctl]
  | .sel _ _ _ _ _ _ => [.ctl]
  | .ext _ _ _ _ _ => [.ctl]
  | .ins _ _ _ _ _ => [.ctl]
  | .pbrr _ _ _ => [.ctl]
  | .call _ _ => [.ctl]
  | .enter _ _ => [.ctl]
  | .ret _ => [.ctl]
  | .relc _ => [.ctl]
  | .tjoin _ => [.ctl]
  | .tend _ => [.ctl]
  | .xlat _ _ _ _ _ _ => [.ctl]
  | .xlatR _ _ _ _ _ _ _ => [.ctl]
  | .xlatWalkComplete _ _ => []
  | .xrel _ _ => [.ctl]
  | .xinfo _ _ _ _ => [.ctl]
  | .bind _ _ _ _ _ => [.ctl]
  | .unbind _ _ => [.ctl]
  | .lds _ _ _ _ _ _ => [.ctl]
  | .ldsDataReturn _ _ _ => []
  | .sts _ _ _ _ _ _ => [.ctl]
  | .stsAccepted _ _ _ => []
  | .amo _ _ _ _ _ _ _ _ _ => [.ctl]
  | .cas _ _ _ _ _ _ _ _ _ => [.ctl]
  | .acq _ _ _ _ _ => [.ctl]
  | .rel _ _ _ _ _ => [.ctl]
  | .fence _ _ => [.ctl]
  | .fenceAcq _ _ => [.ctl]
  | .fenceRel _ _ => [.ctl]
  | .fenceAll _ => [.ctl]
  | .wadr _ _ _ _ _ _ => [.ctl]
  | .wadrWake _ _ => []
  | .wfe _ => [.ctl]
  | .sev _ _ => [.ctl]
  | .send _ _ _ => [.ctl]
  | .bqp _ _ _ _ => [.ctl]
  | .win _ _ _ _ => [.ctl]
  | .trap _ _ => [.ctl]
  | .rett _ => [.ctl]
  | .ecall _ _ => [.ctl]
  | .brk _ _ => [.ctl]
  | .mfc _ _ _ => [.ctl]
  | .mtc _ _ _ => [.ctl]
  | .bk _ _ _ _ _ _ _ _ _ => [.ctl, .st]
  | .bkred _ _ _ _ _ _ _ _ => [.ctl, .st]
  | .wqPush _ _ _ _ _ _ => [.ctl, .st]
  | .wqPop _ _ _ _ _ _ => [.ctl]
  | .wqPeek _ _ _ _ _ _ => [.ctl]
  | .xall _ _ _ _ _ _ _ _ => [.ctl]
  | .fred _ _ _ _ _ _ _ _ => [.ctl]
  | .fput _ _ _ _ _ _ => [.ctl]
  | .fget _ _ _ _ _ _ => [.ctl]
  | .famo _ _ _ _ _ _ _ _ _ => [.ctl]
  | .fbar _ _ _ _ => [.ctl]
  | .ldq _ _ _ _ _ => [.ld]
  | .stq _ _ _ _ _ => [.st]
  | .strel _ _ _ _ _ _ => [.st]
  | .pf _ _ _ _ => [.ld]
  | .upd _ _ _ _ _ _ _ => [.st]
  | .ldstWordComplete _ _ _ => []
  | .heldCompletionPost _ _ _ => []
  | .aadd _ _ _ _ => [.ld, .st]
  | .aaddi _ _ _ _ => [.ld, .st]
  | .ali _ _ _ => [.ld, .st]
  | .acmp _ _ _ _ _ => [.ld, .st]
  | .ldsp _ _ _ _ _ _ _ _ => [.ld]
  | .stsp _ _ _ _ _ _ _ _ => [.st]
  | .gth _ _ _ _ _ _ _ _ _ => [.ld]
  | .sct _ _ _ _ _ _ _ _ _ => [.st]
  | .engineCommandStart _ _ => []
  | .copyCommandComplete _ _ => []
  | .gatherCommandComplete _ _ => []
  | .faddF32 _ _ _ _ => [.ex]
  | .faddBf16 _ _ _ _ => [.ex]
  | .fsubF32 _ _ _ _ => [.ex]
  | .fsubBf16 _ _ _ _ => [.ex]
  | .fmulF32 _ _ _ _ => [.ex]
  | .fmulBf16 _ _ _ _ => [.ex]
  | .fmaF32 _ _ _ _ => [.ex]
  | .fmaBf16 _ _ _ _ => [.ex]
  | .fmsF32 _ _ _ _ => [.ex]
  | .fmsBf16 _ _ _ _ => [.ex]
  | .fnmaF32 _ _ _ _ => [.ex]
  | .fnmaBf16 _ _ _ _ => [.ex]
  | .fmaxF32 _ _ _ _ => [.ex]
  | .fmaxBf16 _ _ _ _ => [.ex]
  | .fminF32 _ _ _ _ => [.ex]
  | .fminBf16 _ _ _ _ => [.ex]
  | .fcmpF32 _ _ _ _ _ => [.ex]
  | .fcmpBf16 _ _ _ _ _ => [.ex]
  | .fselF32 _ _ _ _ => [.ex]
  | .fselBf16 _ _ _ _ => [.ex]
  | .funaF32 _ _ _ _ => [.ex]
  | .exp2F32 _ _ _ => [.ex]
  | .lg2F32 _ _ _ => [.ex]
  | .rcpF32 _ _ _ => [.ex]
  | .rsqF32 _ _ _ => [.ex]
  | .iaddI32 _ _ _ _ => [.ex]
  | .iaddI16 _ _ _ _ => [.ex]
  | .iaddI8 _ _ _ _ => [.ex]
  | .iaddI32S _ _ _ _ => [.ex]
  | .iaddI16S _ _ _ _ => [.ex]
  | .iaddI8S _ _ _ _ => [.ex]
  | .iaddN32S _ _ _ _ => [.ex]
  | .iaddN16S _ _ _ _ => [.ex]
  | .iaddN8S _ _ _ _ => [.ex]
  | .isubI32 _ _ _ _ => [.ex]
  | .isubI16 _ _ _ _ => [.ex]
  | .isubI8 _ _ _ _ => [.ex]
  | .isubI32S _ _ _ _ => [.ex]
  | .isubI16S _ _ _ _ => [.ex]
  | .isubI8S _ _ _ _ => [.ex]
  | .isubN32S _ _ _ _ => [.ex]
  | .isubN16S _ _ _ _ => [.ex]
  | .isubN8S _ _ _ _ => [.ex]
  | .imulI32 _ _ _ _ => [.ex]
  | .imulI16 _ _ _ _ => [.ex]
  | .imulI8 _ _ _ _ => [.ex]
  | .imacI32 _ _ _ _ => [.ex]
  | .imacI16 _ _ _ _ => [.ex]
  | .imacI8 _ _ _ _ => [.ex]
  | .iand _ _ _ _ => [.ex]
  | .ior _ _ _ _ => [.ex]
  | .ixor _ _ _ _ => [.ex]
  | .ishlI32 _ _ _ _ => [.ex]
  | .ishlI16 _ _ _ _ => [.ex]
  | .ishlI8 _ _ _ _ => [.ex]
  | .ishrI32 _ _ _ _ => [.ex]
  | .ishrI16 _ _ _ _ => [.ex]
  | .ishrI8 _ _ _ _ => [.ex]
  | .israI32 _ _ _ _ => [.ex]
  | .israI16 _ _ _ _ => [.ex]
  | .israI8 _ _ _ _ => [.ex]
  | .iminI32 _ _ _ _ => [.ex]
  | .iminI16 _ _ _ _ => [.ex]
  | .iminI8 _ _ _ _ => [.ex]
  | .iminN32 _ _ _ _ => [.ex]
  | .iminN16 _ _ _ _ => [.ex]
  | .iminN8 _ _ _ _ => [.ex]
  | .imaxI32 _ _ _ _ => [.ex]
  | .imaxI16 _ _ _ _ => [.ex]
  | .imaxI8 _ _ _ _ => [.ex]
  | .imaxN32 _ _ _ _ => [.ex]
  | .imaxN16 _ _ _ _ => [.ex]
  | .imaxN8 _ _ _ _ => [.ex]
  | .icmpI32 _ _ _ _ _ => [.ex]
  | .icmpI16 _ _ _ _ _ => [.ex]
  | .icmpI8 _ _ _ _ _ => [.ex]
  | .mov _ _ _ => [.ex]
  | .movMasked _ _ _ _ => [.ex]
  | .bcst _ _ _ _ => [.ex]
  | .perm _ _ _ _ => [.ex]
  | .rot _ _ _ _ => [.ex]
  | .redF32 _ _ _ => [.ex]
  | .redI32 _ _ _ => [.ex]
  | .scanF32 _ _ _ => [.ex]
  | .cvt _ _ _ _ => [.ex]
  | .qmax _ _ _ => [.ex]
  | .qcvt _ _ _ _ => [.ex]
  | .deq _ _ _ _ => [.ex]
  | .zld _ _ _ _ => [.ex]
  | .zst _ _ _ _ => [.ex]
  | .mset _ _ _ _ => [.ex]
  | .mlog _ _ _ _ _ => [.ex]
  | .zli _ _ _ => [.ex]
  | .lse _ => [.ex]
  | .lsr _ => [.ex]
  | .mma _ _ _ _ _ _ _ => [.ex]
  | .mmaz _ _ _ _ _ _ _ => [.ex]
  | .mmov _ _ _ _ => [.ex]
  | .mclr _ _ => [.ex]
  | .dset _ _ _ => [.ex]
  | .fmtset _ _ _ => [.ex]
  | .fmtsetFbase _ _ => [.ex]
  | .exResultLands _ => []
  | .leaseGrant _ => []
  | .settOperandsRead _ => []
  | .settCommandFinish _ => []
  | .bankCommandComplete _ _ => []
  | .bkredContribution _ _ => []
  | .warrenCommandPerformed _ _ => []
  | .xallStart _ _ => []
  | .xallComplete _ _ => []
  | .fputComplete _ _ => []
  | .fgetComplete _ _ => []
  | .famoComplete _ _ => []
  | .fredComplete _ _ => []
  | .fbarStart _ _ => []
  | .fbarComplete _ _ => []
  | .trapTaken _ => []
  | .stallBudget _ _ _ => []
  | .uncorrectableErrorConsumed _ _ _ _ => []
  | .machineCheckCoreClear _ => []
  | .phaseReplay _ => []
  | .tileRunRetire _ => []
  | .launchComplete _ => []
  | .tileRunDispatch _ => []
  | .shadowBankFill _ => []
  | .operatorPinning _ => []
  | .shadowBankSwap _ => []
  | .ecallRecordAccepted _ => []
  | .completionRecordWrite _ => []
  | .holdoffTimerExpiry _ => []
  | .doorbellTail _ _ _ => []
  | .completionHead _ _ _ => []
  | .packetNop _ => []
  | .launch _ => []
  | .push _ => []
  | .signal _ => []
  | .timerTick => []
  | .rlogRd _ _ => []
  | .preqRd _ _ => []
  | .presp _ _ => []
  | .evRd _ => []
  | .evBase _ => []
  | .eventRecordWrite => []
  | .registerWrite _ _ _ _ => []
  | .configureQueue => []
  | .setRoot => []
  | .flushAsid => []
  | .revoke => []
  | .quiesced _ => []
  | .resume => []
  | .preemptNode => []
  | .preemptForced => []
  | .holdReachesCore _ => []
  | .preempted _ => []
  | .restore => []
  | .restored _ => []
  | .setPartition => []
  | .setPartitionRemove => []
  | .setCommons => []
  | .setWarren => []
  | .setFabricGeometry => []
  | .setFabricGroup => []
  | .setFabricLink => []
  | .readScree => []
  | .screeRelease => []
  | .readHealth => []
  | .setPowerCap => []
  | .recoveryCommit => []
  | .flitReceive _ _ _ _ _ => []
  | .nakReceive _ _ _ => []
  | .lossOfLock _ _ => []
  | .laneFailure _ _ _ => []
  | .retrainComplete _ _ => []
  | .retrainTimeout _ _ => []
  | .linkStateUpdate => []
  | .pathSilenceExpiry _ _ => []
  | .keyControl _ _ _ => []
  | .keyLow _ _ => []
  | .keyExhausted _ _ => []
  | .keyExhaustionTimeout _ _ => []
  | .fabricRead _ _ => []
  | .fabricWrite _ _ => []
  | .fabricAtomic _ _ => []
  | .fabricBankUpdate _ _ => []
  | .windowRead _ _ => []
  | .windowWrite _ _ => []
  | .ready _ _ => []
  | .xallPiece _ _ => []
  | .fredContribution _ _ => []
  | .fbarArrival _ _ => []
  | .response _ _ => []
  | .hostMemRead _ _ => []
  | .hostMemWrite _ _ => []
  | .flrVf _ => []
  | .flrPf => []
  | .powerGood => []
  | .coldReset => []
  | .oamResetPin => []
  | .watchdogReport _ => []
  | .watchdogExpiry _ => []
  | .stageReady _ => []
  | .stageTimeout => []
  | .getMeasurements => []
  | .correctedError _ => []
  | .errorWindowEnd => []
  | .patrolScrub _ _ _ => []
  | .railAdjust _ _ => []
  | .thermalThrottle _ _ => []
  | .powerCapReached _ => []
  | .thermalTrip _ _ => []
  | .unknownPacketType _ => []
  | .msixVectorUnmask _ _ => []
  | .hostWriteInvalidation _ _ => []

/-- True of an instruction that a sequencer issues as a word. -/
def Instr.isWord (i : Instr) : Bool := !i.streams.isEmpty

end Sys2Proof
end

