-- ==== Sys2Proof/WellFormed.lean ====
section
/-! DEFINITION. The checks that R52 to R61 and the instruction chapters put on the operands of a word beyond the widths of its fields. -/

namespace Sys2Proof

/-- Some wait field names a mark (R52). -/
def Waits.any (w : Waits) : Bool := w.w1.isSome || w.w2.isSome || w.w3.isSome

/-- A wait field names mark m (R20). -/
def Waits.names (w : Waits) (m : Fin 32) : Bool := w.w1 == some m || w.w2 == some m || w.w3 == some m

/-- Integer types of at most 32 bits (R221, R284). -/
def Ty.isInt : Ty → Bool
  | .i32 | .i16 | .i8 | .n32 | .n16 | .n8 => true
  | _ => false

/-- Floating-point types (R53). -/
def Ty.isFloat : Ty → Bool
  | .f32 | .bf16 => true
  | _ => false

/-- Block-scaled types (R53). -/
def Ty.isMx : Ty → Bool
  | .mx8 | .mx6 | .mx4 => true
  | _ => false

/-- Types that `upd` allows with an operation (R221). -/
def UpdOp.allows (o : UpdOp) (t : Ty) : Bool :=
  match o with
  | .add | .min | .max => t.isInt || t.isFloat
  | .and | .or | .xor => t.isInt

/-- Types that `bk` allows with an operation (R284). -/
def BkOp.allows (o : BkOp) (t : Ty) : Bool :=
  match o with
  | .add | .min | .max | .swap | .cas | .mul => t.isInt || t.isFloat
  | .and | .or | .xor => t.isInt
  | .sadd => t.isFloat
  | .rq => t.isMx

/-- Source and destination types of `bkred` and `fred` (R287). -/
def redPair (t u : Ty) : Bool := t != .n64 && u != .n64 && t.isInt == u.isInt

/-- Sizes of `sts` (R53). -/
def Size.stores : Size → Bool
  | .n8 | .n16 | .n32 | .n64 => true
  | _ => false

/-- Sizes of `amo` and `cas` (R57). -/
def Size.atomic : Size → Bool
  | .n32 | .n64 => true
  | _ => false

/-- Conditions of `cmp`, `cmpi`, `acmp` and `icmp` (R53). -/
def Cond.intOk (c : Cond) : Bool := c != .un

/-- Conditions of `fcmp` (R53). -/
def Cond.fcmpOk : Cond → Bool
  | .eq | .ne | .lt | .le | .gt | .ge | .un => true
  | _ => false

/-- Operands an EX word may read: not q8 to q15 (R60). -/
def Opnd.src : Opnd → Bool
  | .q n => n.val < 8
  | _ => true

/-- Operands an EX word may write: the Z array and q8 to q15 (R60). -/
def Opnd.dst : Opnd → Bool
  | .zh _ | .zv _ | .zd _ => true
  | .q n => 8 ≤ n.val
  | _ => false

/-- Operands of the Z array (R60). -/
def Opnd.isZ : Opnd → Bool
  | .zh _ | .zv _ | .zd _ => true
  | _ => false

/-- An even register number (R238, R282). -/
def evenReg (n : Nat) : Bool := n % 2 == 0

/-- Registers of a command of the L2 in stream q: an even pair; in ST a0 to a15 (R58, R282). -/
def l2Regs (q : Seq) (d x : Fin 32) : Bool := evenReg d.val && (q != .st || (d.val < 16 && x.val < 16))

/-- The operands obey the rules of the instruction in stream q. -/
def Instr.operandsOk (q : Seq) : Instr → Bool
  | .nop _ => true
  | .halt _ => true
  | .pbr _ _ _ => true
  | .br _ _ _ p => q != .ctl || p != .bq
  | .loop _ _ l => 1 ≤ l.val && l.val ≤ 6
  | .loopI _ _ n => n != 0
  | .lb _ _ _ => true
  | .lx _ _ _ _ _ => true
  | .budget _ _ => true
  | .mwait _ w => w.any
  | .gen _ => true
  | .phase _ => true
  | .seg _ _ _ => true
  | .recv _ d => q != .ex || d.val < 8
  | .add _ _ _ _ => true
  | .addS _ _ _ _ => true
  | .sub _ _ _ _ => true
  | .subS _ _ _ _ => true
  | .and _ _ _ _ => true
  | .or _ _ _ _ => true
  | .xor _ _ _ _ => true
  | .shl _ _ _ _ => true
  | .shr _ _ _ _ => true
  | .sra _ _ _ _ => true
  | .mul _ _ _ _ => true
  | .mulS _ _ _ _ => true
  | .mulh _ _ _ _ => true
  | .mulhn _ _ _ _ => true
  | .div _ _ _ _ => true
  | .divn _ _ _ _ => true
  | .rem _ _ _ _ => true
  | .remn _ _ _ _ => true
  | .min _ _ _ _ => true
  | .max _ _ _ _ => true
  | .minn _ _ _ _ => true
  | .maxn _ _ _ _ => true
  | .clz _ _ _ => true
  | .popc _ _ _ => true
  | .addi _ _ _ _ => true
  | .andi _ _ _ _ => true
  | .ori _ _ _ _ => true
  | .xori _ _ _ _ => true
  | .shli _ _ _ _ => true
  | .shri _ _ _ _ => true
  | .srai _ _ _ _ => true
  | .li _ _ _ => true
  | .lih _ _ _ => true
  | .cmp _ _ _ _ c => c.intOk
  | .cmpi _ _ c _ _ => c.intOk
  | .pset _ _ _ _ _ => true
  | .sel _ _ _ _ _ _ => true
  | .ext _ _ _ p w => p.val + w.val < 64
  | .ins _ _ _ p w => p.val + w.val < 64
  | .pbrr _ _ _ => true
  | .call _ _ => true
  | .enter _ _ => true
  | .ret _ => true
  | .relc _ => true
  | .tjoin _ => true
  | .tend _ => true
  | .xlat _ _ _ _ r w => r || w
  | .xlatR _ _ _ _ r w _ => r || w
  | .xlatWalkComplete _ _ => true
  | .xrel _ _ => true
  | .xinfo _ _ _ _ => true
  | .bind _ _ _ _ _ => true
  | .unbind _ _ => true
  | .lds _ _ _ _ _ _ => true
  | .ldsDataReturn _ _ _ => true
  | .sts _ _ _ _ z _ => z.stores
  | .stsAccepted _ _ _ => true
  | .amo _ _ _ _ z _ _ _ _ => z.atomic
  | .cas _ _ _ _ z _ _ _ _ => z.atomic
  | .acq _ _ _ _ _ => true
  | .rel _ _ _ _ _ => true
  | .fence _ _ => true
  | .fenceAcq _ _ => true
  | .fenceRel _ _ => true
  | .fenceAll _ => true
  | .wadr _ _ _ _ _ _ => true
  | .wadrWake _ _ => true
  | .wfe _ => true
  | .sev _ _ => true
  | .send _ _ _ => true
  | .bqp _ _ _ _ => true
  | .win _ _ _ _ => true
  | .trap _ _ => true
  | .rett _ => true
  | .ecall _ _ => true
  | .brk _ _ => true
  | .mfc _ _ _ => true
  | .mtc _ _ _ => true
  | .bk _ d _ x m w o t f => l2Regs q d x && !w.names m && o.allows t && !(o == .rq && f)
  | .bkred _ d _ x m w t u => l2Regs q d x && !w.names m && redPair t u
  | .wqPush _ d m w _ _ => l2Regs q d 0 && !w.names m
  | .wqPop _ d m w _ _ => l2Regs q d 0 && !w.names m
  | .wqPeek _ d m w _ _ => l2Regs q d 0 && !w.names m
  | .xall _ d _ _ m w _ _ => evenReg d.val && !w.names m
  | .fred _ d _ _ m w t u => evenReg d.val && !w.names m && redPair t u
  | .fput _ d _ _ m w => evenReg d.val && !w.names m
  | .fget _ d _ _ m w => evenReg d.val && !w.names m
  | .famo _ d _ _ m w _ c _ => evenReg d.val && !w.names m && c != .cr && c != .cl
  | .fbar _ m w _ => !w.names m
  | .ldq _ e _ _ _ => e.val < 8
  | .stq _ e _ _ _ => 8 ≤ e.val
  | .strel _ e _ _ _ _ => 8 ≤ e.val
  | .pf _ _ _ _ => true
  | .upd _ e _ _ o t _ => 8 ≤ e.val && o.allows t
  | .ldstWordComplete _ _ _ => true
  | .heldCompletionPost _ _ _ => true
  | .aadd _ _ _ _ => true
  | .aaddi _ _ _ _ => true
  | .ali _ _ _ => true
  | .acmp _ _ _ _ c => c.intOk
  | .ldsp _ _ _ _ _ m w _ => !w.names m
  | .stsp _ _ _ _ _ m w _ => !w.names m
  | .gth _ _ _ _ _ m w _ f => !w.names m && f.val != 7
  | .sct _ _ _ _ _ m w _ f => !w.names m && f.val != 7
  | .engineCommandStart _ _ => true
  | .copyCommandComplete _ _ => true
  | .gatherCommandComplete _ _ => true
  | .faddF32 _ d a b => d.dst && a.src && b.src
  | .faddBf16 _ d a b => d.dst && a.src && b.src
  | .fsubF32 _ d a b => d.dst && a.src && b.src
  | .fsubBf16 _ d a b => d.dst && a.src && b.src
  | .fmulF32 _ d a b => d.dst && a.src && b.src
  | .fmulBf16 _ d a b => d.dst && a.src && b.src
  | .fmaF32 _ d a b => d.isZ && a.src && b.src
  | .fmaBf16 _ d a b => d.isZ && a.src && b.src
  | .fmsF32 _ d a b => d.isZ && a.src && b.src
  | .fmsBf16 _ d a b => d.isZ && a.src && b.src
  | .fnmaF32 _ d a b => d.isZ && a.src && b.src
  | .fnmaBf16 _ d a b => d.isZ && a.src && b.src
  | .fmaxF32 _ d a b => d.dst && a.src && b.src
  | .fmaxBf16 _ d a b => d.dst && a.src && b.src
  | .fminF32 _ d a b => d.dst && a.src && b.src
  | .fminBf16 _ d a b => d.dst && a.src && b.src
  | .fcmpF32 _ c _ a b => c.fcmpOk && a.src && b.src
  | .fcmpBf16 _ c _ a b => c.fcmpOk && a.src && b.src
  | .fselF32 _ d a b => d.dst && a.src && b.src
  | .fselBf16 _ d a b => d.dst && a.src && b.src
  | .funaF32 _ d a _ => d.dst && a.src
  | .exp2F32 _ d a => d.dst && a.src
  | .lg2F32 _ d a => d.dst && a.src
  | .rcpF32 _ d a => d.dst && a.src
  | .rsqF32 _ d a => d.dst && a.src
  | .iaddI32 _ d a b => d.dst && a.src && b.src
  | .iaddI16 _ d a b => d.dst && a.src && b.src
  | .iaddI8 _ d a b => d.dst && a.src && b.src
  | .iaddI32S _ d a b => d.dst && a.src && b.src
  | .iaddI16S _ d a b => d.dst && a.src && b.src
  | .iaddI8S _ d a b => d.dst && a.src && b.src
  | .iaddN32S _ d a b => d.dst && a.src && b.src
  | .iaddN16S _ d a b => d.dst && a.src && b.src
  | .iaddN8S _ d a b => d.dst && a.src && b.src
  | .isubI32 _ d a b => d.dst && a.src && b.src
  | .isubI16 _ d a b => d.dst && a.src && b.src
  | .isubI8 _ d a b => d.dst && a.src && b.src
  | .isubI32S _ d a b => d.dst && a.src && b.src
  | .isubI16S _ d a b => d.dst && a.src && b.src
  | .isubI8S _ d a b => d.dst && a.src && b.src
  | .isubN32S _ d a b => d.dst && a.src && b.src
  | .isubN16S _ d a b => d.dst && a.src && b.src
  | .isubN8S _ d a b => d.dst && a.src && b.src
  | .imulI32 _ d a b => d.dst && a.src && b.src
  | .imulI16 _ d a b => d.dst && a.src && b.src
  | .imulI8 _ d a b => d.dst && a.src && b.src
  | .imacI32 _ d a b => d.isZ && a.src && b.src
  | .imacI16 _ d a b => d.isZ && a.src && b.src
  | .imacI8 _ d a b => d.isZ && a.src && b.src
  | .iand _ d a b => d.dst && a.src && b.src
  | .ior _ d a b => d.dst && a.src && b.src
  | .ixor _ d a b => d.dst && a.src && b.src
  | .ishlI32 _ d a b => d.dst && a.src && b.src
  | .ishlI16 _ d a b => d.dst && a.src && b.src
  | .ishlI8 _ d a b => d.dst && a.src && b.src
  | .ishrI32 _ d a b => d.dst && a.src && b.src
  | .ishrI16 _ d a b => d.dst && a.src && b.src
  | .ishrI8 _ d a b => d.dst && a.src && b.src
  | .israI32 _ d a b => d.dst && a.src && b.src
  | .israI16 _ d a b => d.dst && a.src && b.src
  | .israI8 _ d a b => d.dst && a.src && b.src
  | .iminI32 _ d a b => d.dst && a.src && b.src
  | .iminI16 _ d a b => d.dst && a.src && b.src
  | .iminI8 _ d a b => d.dst && a.src && b.src
  | .iminN32 _ d a b => d.dst && a.src && b.src
  | .iminN16 _ d a b => d.dst && a.src && b.src
  | .iminN8 _ d a b => d.dst && a.src && b.src
  | .imaxI32 _ d a b => d.dst && a.src && b.src
  | .imaxI16 _ d a b => d.dst && a.src && b.src
  | .imaxI8 _ d a b => d.dst && a.src && b.src
  | .imaxN32 _ d a b => d.dst && a.src && b.src
  | .imaxN16 _ d a b => d.dst && a.src && b.src
  | .imaxN8 _ d a b => d.dst && a.src && b.src
  | .icmpI32 _ c _ a b => c.intOk && a.src && b.src
  | .icmpI16 _ c _ a b => c.intOk && a.src && b.src
  | .icmpI8 _ c _ a b => c.intOk && a.src && b.src
  | .mov _ d a => d.dst && a.src
  | .movMasked _ d a _ => d.dst && a.src
  | .bcst _ d a _ => d.dst && a.src
  | .perm _ d a b => d.dst && a.src && b.src
  | .rot _ d a _ => d.dst && a.src
  | .redF32 _ d a => d.dst && a.src
  | .redI32 _ d a => d.dst && a.src
  | .scanF32 _ d a => d.dst && a.src
  | .cvt _ d a _ => d.dst && a.src
  | .qmax _ _ a => a.src
  | .qcvt _ d a _ => d.dst && a.src
  | .deq _ d a _ => d.dst && a.src
  | .zld _ d n _ => d.isZ && evenReg n.val
  | .zst _ d n _ => d.isZ && evenReg n.val
  | .mset _ _ f c => f.val < 64 && f.val + c.val ≤ 64
  | .mlog _ o _ _ b => o != .not || b.val == 0
  | .zli _ d _ => d.dst
  | .lse _ => true
  | .lsr _ => true
  | .mma _ _ a b _ _ _ => evenReg a.val && evenReg b.val
  | .mmaz _ _ a b _ _ _ => evenReg a.val && evenReg b.val
  | .mmov _ _ a _ => evenReg a.val
  | .mclr _ _ => true
  | .dset _ _ _ => true
  | .fmtset _ _ _ => true
  | .fmtsetFbase _ _ => true
  | .exResultLands _ => true
  | .leaseGrant _ => true
  | .settOperandsRead _ => true
  | .settCommandFinish _ => true
  | .bankCommandComplete _ _ => true
  | .bkredContribution _ _ => true
  | .warrenCommandPerformed _ _ => true
  | .xallStart _ _ => true
  | .xallComplete _ _ => true
  | .fputComplete _ _ => true
  | .fgetComplete _ _ => true
  | .famoComplete _ _ => true
  | .fredComplete _ _ => true
  | .fbarStart _ _ => true
  | .fbarComplete _ _ => true
  | .trapTaken _ => true
  | .stallBudget _ _ _ => true
  | .uncorrectableErrorConsumed _ _ _ _ => true
  | .machineCheckCoreClear _ => true
  | .phaseReplay _ => true
  | .tileRunRetire _ => true
  | .launchComplete _ => true
  | .tileRunDispatch _ => true
  | .shadowBankFill _ => true
  | .operatorPinning _ => true
  | .shadowBankSwap _ => true
  | .ecallRecordAccepted _ => true
  | .completionRecordWrite _ => true
  | .holdoffTimerExpiry _ => true
  | .doorbellTail _ _ _ => true
  | .completionHead _ _ _ => true
  | .packetNop _ => true
  | .launch _ => true
  | .push _ => true
  | .signal _ => true
  | .timerTick => true
  | .rlogRd _ _ => true
  | .preqRd _ _ => true
  | .presp _ _ => true
  | .evRd _ => true
  | .evBase _ => true
  | .eventRecordWrite => true
  | .registerWrite _ _ _ _ => true
  | .configureQueue => true
  | .setRoot => true
  | .flushAsid => true
  | .revoke => true
  | .quiesced _ => true
  | .resume => true
  | .preemptNode => true
  | .preemptForced => true
  | .holdReachesCore _ => true
  | .preempted _ => true
  | .restore => true
  | .restored _ => true
  | .setPartition => true
  | .setPartitionRemove => true
  | .setCommons => true
  | .setWarren => true
  | .setFabricGeometry => true
  | .setFabricGroup => true
  | .setFabricLink => true
  | .readScree => true
  | .screeRelease => true
  | .readHealth => true
  | .setPowerCap => true
  | .recoveryCommit => true
  | .flitReceive _ _ _ _ _ => true
  | .nakReceive _ _ _ => true
  | .lossOfLock _ _ => true
  | .laneFailure _ _ _ => true
  | .retrainComplete _ _ => true
  | .retrainTimeout _ _ => true
  | .linkStateUpdate => true
  | .pathSilenceExpiry _ _ => true
  | .keyControl _ _ _ => true
  | .keyLow _ _ => true
  | .keyExhausted _ _ => true
  | .keyExhaustionTimeout _ _ => true
  | .fabricRead _ _ => true
  | .fabricWrite _ _ => true
  | .fabricAtomic _ _ => true
  | .fabricBankUpdate _ _ => true
  | .windowRead _ _ => true
  | .windowWrite _ _ => true
  | .ready _ _ => true
  | .xallPiece _ _ => true
  | .fredContribution _ _ => true
  | .fbarArrival _ _ => true
  | .response _ _ => true
  | .hostMemRead _ _ => true
  | .hostMemWrite _ _ => true
  | .flrVf _ => true
  | .flrPf => true
  | .powerGood => true
  | .coldReset => true
  | .oamResetPin => true
  | .watchdogReport _ => true
  | .watchdogExpiry _ => true
  | .stageReady _ => true
  | .stageTimeout => true
  | .getMeasurements => true
  | .correctedError _ => true
  | .errorWindowEnd => true
  | .patrolScrub _ _ _ => true
  | .railAdjust _ _ => true
  | .thermalThrottle _ _ => true
  | .powerCapReached _ => true
  | .thermalTrip _ _ => true
  | .unknownPacketType _ => true
  | .msixVectorUnmask _ _ => true
  | .hostWriteInvalidation _ _ => true

/-- An instruction that stream q can hold: the stream has it and its operands obey the rules. -/
def Instr.wf (q : Seq) (i : Instr) : Bool := i.streams.contains q && i.operandsOk q

end Sys2Proof
end

