-- ==== Sys2Proof/Decode.lean ====
section
/-! DEFINITION. Decoding of the words of each sequencer (R46 to R63) and the encoder written from the same tables. -/

namespace Sys2Proof

/-- Bits lo + len - 1 down to lo of a word. -/
def fld (w lo len : Nat) : Nat := w / 2 ^ lo % 2 ^ len

/-- Bit lo of a word. -/
def flag (w lo : Nat) : Bool := fld w lo 1 == 1

/-- A field as a bounded number. -/
def fin (len w lo : Nat) : Fin (2 ^ len) := ⟨fld w lo len, Nat.mod_lt _ (Nat.two_pow_pos len)⟩

/-- A field as bits. -/
def bvf (len w lo : Nat) : BitVec len := BitVec.ofNat len (fld w lo len)

/-- A word read by a sequencer, or the number of the check of R63 that fails. -/
inductive Decoded where
  | ok (i : Instr)
  | bad (check : Nat)
deriving DecidableEq, Repr

/-- Check 3 of R63 on one condition. -/
def need (b : Bool) (r : Decoded) : Decoded := if b then r else .bad 3

/-- Check 3 of R63 on a code field. -/
def withCode (o : Option α) (f : α → Decoded) : Decoded :=
  match o with
  | some a => f a
  | none => .bad 3

/-- The ring field (R39). -/
def Ring.ofWord (w : Nat) : Ring := ⟨flag w 31, flag w 30, flag w 29, flag w 28⟩

/-- The ring field as bits 31:28 (R39). -/
def Ring.code (y : Ring) : Nat := y.wb.toNat * 8 + y.wa.toNat * 4 + y.sb.toNat * 2 + y.sa.toNat

/-- A 6-bit wait field; one with V = 0 must hold 0 (R49). -/
def Wait.ofCode (n : Nat) : Option Wait :=
  if n = 0 then some none else if 32 ≤ n then some (some ⟨n % 32, Nat.mod_lt _ (by decide)⟩) else none

/-- A wait field as 6 bits (R49). -/
def Wait.code : Wait → Nat
  | none => 0
  | some m => 32 + m.val

/-- The three wait fields from bit lo upward (R49, R52). -/
def Waits.ofWord (w lo : Nat) (f : Waits → Decoded) : Decoded :=
  withCode (Wait.ofCode (fld w (lo + 12) 6)) fun a =>
  withCode (Wait.ofCode (fld w (lo + 6) 6)) fun b =>
  withCode (Wait.ofCode (fld w lo 6)) fun c => f ⟨a, b, c⟩

/-- The three wait fields as 18 bits (R49). -/
def Waits.code (w : Waits) : Nat := Wait.code w.w1 * 4096 + Wait.code w.w2 * 64 + Wait.code w.w3

/-- Code of a `Cond` (R53). -/
def Cond.code : Cond → Nat
  | .eq => 0
  | .ne => 1
  | .lt => 2
  | .le => 3
  | .gt => 4
  | .ge => 5
  | .lo => 6
  | .ls => 7
  | .hi => 8
  | .hs => 9
  | .un => 10

/-- The `Cond` of a code, none for a code that is not listed (R53). -/
def Cond.ofCode : Nat → Option Cond
  | 0 => some .eq
  | 1 => some .ne
  | 2 => some .lt
  | 3 => some .le
  | 4 => some .gt
  | 5 => some .ge
  | 6 => some .lo
  | 7 => some .ls
  | 8 => some .hi
  | 9 => some .hs
  | 10 => some .un
  | _ => none

/-- Code of a `Scope` (R53). -/
def Scope.code : Scope → Nat
  | .cr => 0
  | .cl => 1
  | .dl => 2
  | .pk => 3
  | .sy => 4

/-- The `Scope` of a code, none for a code that is not listed (R53). -/
def Scope.ofCode : Nat → Option Scope
  | 0 => some .cr
  | 1 => some .cl
  | 2 => some .dl
  | 3 => some .pk
  | 4 => some .sy
  | _ => none

/-- Code of a `Ty` (R53). -/
def Ty.code : Ty → Nat
  | .f32 => 0
  | .bf16 => 1
  | .i32 => 2
  | .i16 => 3
  | .i8 => 4
  | .n64 => 5
  | .n32 => 6
  | .n16 => 7
  | .n8 => 8
  | .mx8 => 9
  | .mx6 => 10
  | .mx4 => 11

/-- The `Ty` of a code, none for a code that is not listed (R53). -/
def Ty.ofCode : Nat → Option Ty
  | 0 => some .f32
  | 1 => some .bf16
  | 2 => some .i32
  | 3 => some .i16
  | 4 => some .i8
  | 5 => some .n64
  | 6 => some .n32
  | 7 => some .n16
  | 8 => some .n8
  | 9 => some .mx8
  | 10 => some .mx6
  | 11 => some .mx4
  | _ => none

/-- Code of a `Size` (R53). -/
def Size.code : Size → Nat
  | .n8 => 0
  | .n16 => 1
  | .n32 => 2
  | .n64 => 3
  | .i8 => 4
  | .i16 => 5
  | .i32 => 6

/-- The `Size` of a code, none for a code that is not listed (R53). -/
def Size.ofCode : Nat → Option Size
  | 0 => some .n8
  | 1 => some .n16
  | 2 => some .n32
  | 3 => some .n64
  | 4 => some .i8
  | 5 => some .i16
  | 6 => some .i32
  | _ => none

/-- Code of a `PsetOp` (R163). -/
def PsetOp.code : PsetOp → Nat
  | .and => 0
  | .or => 1
  | .xor => 2
  | .andn => 3
  | .orn => 4

/-- The `PsetOp` of a code, none for a code that is not listed (R163). -/
def PsetOp.ofCode : Nat → Option PsetOp
  | 0 => some .and
  | 1 => some .or
  | 2 => some .xor
  | 3 => some .andn
  | 4 => some .orn
  | _ => none

/-- Code of a `FrameSize` (R55). -/
def FrameSize.code : FrameSize → Nat
  | .f8 => 0
  | .f12 => 1
  | .f16 => 2
  | .f20 => 3
  | .f24 => 4

/-- The `FrameSize` of a code, none for a code that is not listed (R55). -/
def FrameSize.ofCode : Nat → Option FrameSize
  | 0 => some .f8
  | 1 => some .f12
  | 2 => some .f16
  | 3 => some .f20
  | 4 => some .f24
  | _ => none

/-- Code of a `AmoOp` (R57). -/
def AmoOp.code : AmoOp → Nat
  | .add => 0
  | .min => 1
  | .max => 2
  | .minn => 3
  | .maxn => 4
  | .and => 5
  | .or => 6
  | .xor => 7
  | .swap => 8

/-- The `AmoOp` of a code, none for a code that is not listed (R57). -/
def AmoOp.ofCode : Nat → Option AmoOp
  | 0 => some .add
  | 1 => some .min
  | 2 => some .max
  | 3 => some .minn
  | 4 => some .maxn
  | 5 => some .and
  | 6 => some .or
  | 7 => some .xor
  | 8 => some .swap
  | _ => none

/-- Code of a `UpdOp` (R58). -/
def UpdOp.code : UpdOp → Nat
  | .add => 0
  | .min => 1
  | .max => 2
  | .and => 3
  | .or => 4
  | .xor => 5

/-- The `UpdOp` of a code, none for a code that is not listed (R58). -/
def UpdOp.ofCode : Nat → Option UpdOp
  | 0 => some .add
  | 1 => some .min
  | 2 => some .max
  | 3 => some .and
  | 4 => some .or
  | 5 => some .xor
  | _ => none

/-- Code of a `BkOp` (R284). -/
def BkOp.code : BkOp → Nat
  | .add => 0
  | .min => 1
  | .max => 2
  | .and => 3
  | .or => 4
  | .xor => 5
  | .swap => 6
  | .cas => 7
  | .sadd => 8
  | .mul => 9
  | .rq => 10

/-- The `BkOp` of a code, none for a code that is not listed (R284). -/
def BkOp.ofCode : Nat → Option BkOp
  | 0 => some .add
  | 1 => some .min
  | 2 => some .max
  | 3 => some .and
  | 4 => some .or
  | 5 => some .xor
  | 6 => some .swap
  | 7 => some .cas
  | 8 => some .sadd
  | 9 => some .mul
  | 10 => some .rq
  | _ => none

/-- Code of a `FunaOp` (R250). -/
def FunaOp.code : FunaOp → Nat
  | .abs => 0
  | .neg => 1
  | .floor => 2
  | .ceil => 3
  | .trunc => 4
  | .rint => 5

/-- The `FunaOp` of a code, none for a code that is not listed (R250). -/
def FunaOp.ofCode : Nat → Option FunaOp
  | 0 => some .abs
  | 1 => some .neg
  | 2 => some .floor
  | 3 => some .ceil
  | 4 => some .trunc
  | 5 => some .rint
  | _ => none

/-- Code of a `CvtOp` (R258). -/
def CvtOp.code : CvtOp → Nat
  | .f2blo => 0
  | .f2bhi => 1
  | .b2flo => 2
  | .b2fhi => 3
  | .f2i => 4
  | .i2f => 5
  | .f2n => 6
  | .n2f => 7

/-- The `CvtOp` of a code, none for a code that is not listed (R258). -/
def CvtOp.ofCode : Nat → Option CvtOp
  | 0 => some .f2blo
  | 1 => some .f2bhi
  | 2 => some .b2flo
  | 3 => some .b2fhi
  | 4 => some .f2i
  | 5 => some .i2f
  | 6 => some .f2n
  | 7 => some .n2f
  | _ => none

/-- Code of a `MlogOp` (R265). -/
def MlogOp.code : MlogOp → Nat
  | .and => 0
  | .or => 1
  | .xor => 2
  | .andn => 3
  | .orn => 4
  | .not => 5

/-- The `MlogOp` of a code, none for a code that is not listed (R265). -/
def MlogOp.ofCode : Nat → Option MlogOp
  | 0 => some .and
  | 1 => some .or
  | 2 => some .xor
  | 3 => some .andn
  | 4 => some .orn
  | 5 => some .not
  | _ => none

/-- Code of a `Target` (R55). -/
def Target.code : Target → Nat
  | .ld => 1
  | .ex => 2
  | .st => 3

/-- The `Target` of a code, none for a code that is not listed (R55). -/
def Target.ofCode : Nat → Option Target
  | 1 => some .ld
  | 2 => some .ex
  | 3 => some .st
  | _ => none

/-- Code of a `CReg` (R62, R122, R124, R289, R310). -/
def CReg.code : CReg → Nat
  | .fpmode => 1
  | .fpflags => 2
  | .ooxCount => 16
  | .ooxTrap => 17
  | .staleCount => 18
  | .trapCause => 32
  | .trapPc => 33
  | .trapInfo => 34
  | .trapVec => 35
  | .trapResume => 36
  | .ctxid => 48
  | .coreid => 49
  | .genno => 50
  | .marks => 51
  | .spillBase => 64
  | .spillSize => 65
  | .raceMode => 80
  | .pinBase => 96
  | .asid => 97
  | .xlatFva => 98
  | .tokPend => 99
  | .l2Err => 112
  | .fabErr => 113
  | .fabDie => 114

/-- The `CReg` of a code, none for a code that is not listed (R62, R122, R124, R289, R310). -/
def CReg.ofCode : Nat → Option CReg
  | 1 => some .fpmode
  | 2 => some .fpflags
  | 16 => some .ooxCount
  | 17 => some .ooxTrap
  | 18 => some .staleCount
  | 32 => some .trapCause
  | 33 => some .trapPc
  | 34 => some .trapInfo
  | 35 => some .trapVec
  | 36 => some .trapResume
  | 48 => some .ctxid
  | 49 => some .coreid
  | 50 => some .genno
  | 51 => some .marks
  | 64 => some .spillBase
  | 65 => some .spillSize
  | 80 => some .raceMode
  | 96 => some .pinBase
  | 97 => some .asid
  | 98 => some .xlatFva
  | 99 => some .tokPend
  | 112 => some .l2Err
  | 113 => some .fabErr
  | 114 => some .fabDie
  | _ => none

/-- Code of a `br` test (R52). -/
def BrCond.code : BrCond → Nat
  | .p n => n.val
  | .bq => 8

/-- The `br` test of a code (R52). -/
def BrCond.ofCode (n : Nat) : Option BrCond :=
  if h : n < 8 then some (.p ⟨n, h⟩) else if n = 8 then some .bq else none

/-- Code of a `famo` operation (R314). -/
def FamoOp.code : FamoOp → Nat
  | .amo o => o.code
  | .cas => 9

/-- The `famo` operation of a code (R314). -/
def FamoOp.ofCode (n : Nat) : Option FamoOp := if n = 9 then some .cas else (AmoOp.ofCode n).map .amo

/-- An EX operand as 7 bits (R60). -/
def Opnd.code : Opnd → Nat
  | .zh n => n.val
  | .zv n => 32 + n.val
  | .zd n => 64 + n.val
  | .q n => 96 + n.val
  | .b n => 112 + n.val
  | .zero => 120
  | .lane => 121

/-- The EX operand of 7 bits; indices 26 to 31 of direction 0b11 are illegal (R60). -/
def Opnd.ofCode (n : Nat) : Option Opnd :=
  if n < 32 then some (.zh (fin 5 n 0))
  else if n < 64 then some (.zv (fin 5 n 0))
  else if n < 96 then some (.zd (fin 5 n 0))
  else if n < 112 then some (.q (fin 4 n 0))
  else if n < 120 then some (.b (fin 3 n 0))
  else if n = 120 then some .zero
  else if n = 121 then some .lane
  else none

/-- A format level 0 to 6; level 7 is illegal (R61). -/
def levelOf (n : Nat) : Option (Fin 7) := if h : n < 7 then some ⟨n, h⟩ else none

/-- True of the first words of two-word forms (R48). -/
def twoWord (q : Seq) (w : Nat) : Bool :=
  let m := fld w 22 6
  m == 0x0B ||
  match q with
  | .ctl => m == 0x2C || m == 0x2D || m == 0x3A || m == 0x3B
  | .ld => m == 0x0E || m == 0x0F
  | .st => m == 0x0E || m == 0x0F || m == 0x16
  | .ex => false

/-- The common control group (R52). -/
def decodeCommon (q : Seq) (w v : Nat) : Decoded :=
  let y := Ring.ofWord w
  match fld w 22 6 with
  | 0x00 => need (fld w 0 22 = 0) (.ok (.nop y))
  | 0x01 => need (fld w 0 22 = 0) (.ok (.halt y))
  | 0x02 => .ok (.pbr y (fin 2 w 20) (bvf 20 w 0))
  | 0x03 => need (fld w 0 15 = 0) (withCode (BrCond.ofCode (fld w 15 4)) fun p =>
      need (q ≠ .ctl ∨ p ≠ .bq) (.ok (.br y (fin 2 w 20) (flag w 19) p)))
  | 0x04 =>
    if flag w 19 then need (fld w 0 19 ≠ 0) (.ok (.loopI y (fin 2 w 20) (bvf 19 w 0)))
    else need (fld w 0 16 = 0 ∧ fld w 16 3 ≠ 0 ∧ fld w 16 3 ≠ 7) (.ok (.loop y (fin 2 w 20) (fin 3 w 16)))
  | 0x05 => .ok (.lb y (fin 2 w 20) (bvf 20 w 0))
  | 0x06 => need (fld w 18 1 = 0) (.ok (.lx y (fin 2 w 20) (flag w 19) (fin 3 w 15) (bvf 15 w 0)))
  | 0x07 => need (fld w 3 19 = 0) (.ok (.budget y (fin 3 w 0)))
  | 0x08 => need (fld w 18 4 = 0) (Waits.ofWord w 0 fun a => need a.any (.ok (.mwait y a)))
  | 0x09 => need (fld w 0 22 = 0) (.ok (.gen y))
  | 0x0A => need (fld w 0 22 = 0) (.ok (.phase y))
  | 0x0B => need (fld w 20 2 = 0) (.ok (.seg y (bvf 16 w 0) (BitVec.ofNat 32 (fld w 16 4 * 2 ^ 28 + fld v 0 28))))
  | 0x0C => need (fld w 4 18 = 0 ∧ q ≠ .ctl ∧ (q ≠ .ex ∨ fld w 0 4 < 8)) (.ok (.recv y (fin 4 w 0)))
  | _ => .bad 2

/-- The `alu` major of CTL (R56). -/
def decodeAlu (w : Nat) : Decoded :=
  let y := Ring.ofWord w
  let d := fin 5 w 17
  let a := fin 5 w 12
  let b := fin 5 w 7
  match fld w 0 7 with
  | 0x00 => .ok (.add y d a b)
  | 0x01 => .ok (.sub y d a b)
  | 0x02 => .ok (.and y d a b)
  | 0x03 => .ok (.or y d a b)
  | 0x04 => .ok (.xor y d a b)
  | 0x05 => .ok (.shl y d a b)
  | 0x06 => .ok (.shr y d a b)
  | 0x07 => .ok (.sra y d a b)
  | 0x08 => .ok (.mul y d a b)
  | 0x09 => .ok (.mulh y d a b)
  | 0x0A => .ok (.mulhn y d a b)
  | 0x0B => .ok (.div y d a b)
  | 0x0C => .ok (.divn y d a b)
  | 0x0D => .ok (.rem y d a b)
  | 0x0E => .ok (.remn y d a b)
  | 0x0F => .ok (.min y d a b)
  | 0x10 => .ok (.max y d a b)
  | 0x11 => .ok (.minn y d a b)
  | 0x12 => .ok (.maxn y d a b)
  | 0x40 => .ok (.addS y d a b)
  | 0x41 => .ok (.subS y d a b)
  | 0x48 => .ok (.mulS y d a b)
  | 0x13 => need (fld w 7 5 = 0) (.ok (.clz y d a))
  | 0x14 => need (fld w 7 5 = 0) (.ok (.popc y d a))
  | _ => .bad 3

/-- The second word of a command: the waits and the function bits (R49). The produced mark must not stand among the waits (R20). -/
def second (v : Nat) (m : Fin 32) (f : Waits → Decoded) : Decoded :=
  Waits.ofWord v 10 fun a => need (!a.names m) (f a)

/-- The L2 commands of CTL and ST (R57, R282 to R292). -/
def decodeL2 (q : Seq) (w v : Nat) : Decoded :=
  let y := Ring.ofWord w
  let d := fin 5 w 14
  let k := fin 4 w 10
  let x := fin 5 w 5
  let m := fin 5 w 0
  let lim := fld w 14 1 = 0 ∧ (q ≠ .st ∨ fld w 18 1 = 0 ∧ fld w 9 1 = 0)
  match fld w 19 3 with
  | 0 => need lim (second v m fun a => withCode (BkOp.ofCode (fld v 6 4)) fun o =>
      withCode (Ty.ofCode (fld v 2 4)) fun t =>
      need (fld v 0 1 = 0 ∧ o.allows t ∧ ¬ (o = .rq ∧ flag v 1)) (.ok (.bk y d k x m a o t (flag v 1))))
  | 1 => need lim (second v m fun a => withCode (Ty.ofCode (fld v 6 4)) fun t =>
      withCode (Ty.ofCode (fld v 2 4)) fun u =>
      need (fld v 0 2 = 0 ∧ redPair t u) (.ok (.bkred y d k x m a t u)))
  | 2 => need (lim ∧ fld w 5 9 = 0 ∧ fld v 9 1 = 0) (second v m fun a => .ok (.wqPush y d m a (fin 3 v 6) (fin 6 v 0)))
  | 3 => need (lim ∧ q = .ctl ∧ fld w 5 9 = 0 ∧ fld v 9 1 = 0) (second v m fun a => .ok (.wqPop y d m a (fin 3 v 6) (fin 6 v 0)))
  | 4 => need (lim ∧ q = .ctl ∧ fld w 5 9 = 0 ∧ fld v 9 1 = 0) (second v m fun a => .ok (.wqPeek y d m a (fin 3 v 6) (fin 6 v 0)))
  | _ => .bad 3

/-- The fabric commands of CTL (R57, R312 to R319). -/
def decodeFab (w v : Nat) : Decoded :=
  let y := Ring.ofWord w
  let d := fin 5 w 14
  let k := fin 4 w 10
  let x := fin 5 w 5
  let m := fin 5 w 0
  let even := fld w 14 1 = 0
  match fld w 19 3 with
  | 0 => need even (second v m fun a => .ok (.xall y d k x m a (fin 4 v 6) (fin 6 v 0)))
  | 1 => need even (second v m fun a => withCode (Ty.ofCode (fld v 6 4)) fun t =>
      withCode (Ty.ofCode (fld v 2 4)) fun u =>
      need (fld v 0 2 = 0 ∧ redPair t u) (.ok (.fred y d k x m a t u)))
  | 2 => need (even ∧ fld v 0 10 = 0) (second v m fun a => .ok (.fput y d k x m a))
  | 3 => need (even ∧ fld v 0 10 = 0) (second v m fun a => .ok (.fget y d k x m a))
  | 4 => need (even ∧ fld v 0 2 = 0) (second v m fun a => withCode (FamoOp.ofCode (fld v 6 4)) fun o =>
      withCode (Scope.ofCode (fld v 3 3)) fun c =>
      need (c ≠ .cr ∧ c ≠ .cl) (.ok (.famo y d k x m a o c (flag v 2))))
  | 5 => need (fld w 5 14 = 0 ∧ fld v 6 4 = 0) (second v m fun a => .ok (.fbar y m a (fin 6 v 0)))
  | _ => .bad 3

/-- The opcode map of CTL above the common group (R55). -/
def decodeCtl (w v : Nat) : Decoded :=
  let y := Ring.ofWord w
  let d := fin 5 w 17
  let a := fin 5 w 12
  let k := fin 4 w 13
  let x := fin 5 w 8
  let z := Size.ofCode (fld w 5 3)
  let e := fin 5 w 0
  match fld w 22 6 with
  | 0x0D => decodeAlu w
  | 0x0E => .ok (.addi y d a (bvf 12 w 0))
  | 0x0F => .ok (.andi y d a (bvf 12 w 0))
  | 0x10 => .ok (.ori y d a (bvf 12 w 0))
  | 0x11 => .ok (.xori y d a (bvf 12 w 0))
  | 0x12 => need (fld w 6 6 = 0) (.ok (.shli y d a (fin 6 w 0)))
  | 0x13 => need (fld w 6 6 = 0) (.ok (.shri y d a (fin 6 w 0)))
  | 0x14 => need (fld w 6 6 = 0) (.ok (.srai y d a (fin 6 w 0)))
  | 0x15 => .ok (.li y d (bvf 17 w 0))
  | 0x16 => need (fld w 16 1 = 0) (.ok (.lih y d (bvf 16 w 0)))
  | 0x17 => need (fld w 0 3 = 0 ∧ fld w 17 2 = 0) (withCode (Cond.ofCode (fld w 3 4)) fun c =>
      need (c ≠ .un) (.ok (.cmp y (fin 3 w 19) a (fin 5 w 7) c)))
  | 0x18 => withCode (Cond.ofCode (fld w 15 4)) fun c =>
      need (c ≠ .un) (.ok (.cmpi y (fin 3 w 19) c (fin 5 w 10) (bvf 10 w 0)))
  | 0x19 => need (fld w 0 10 = 0) (withCode (PsetOp.ofCode (fld w 10 3)) fun o =>
      .ok (.pset y (fin 3 w 19) (fin 3 w 16) (fin 3 w 13) o))
  | 0x1A => need (fld w 0 3 = 0) (.ok (.sel y d a (fin 5 w 7) (fin 3 w 4) (flag w 3)))
  | 0x1B => need (fld w 6 6 + fld w 0 6 < 64) (.ok (.ext y d a (fin 6 w 6) (fin 6 w 0)))
  | 0x1C => need (fld w 6 6 + fld w 0 6 < 64) (.ok (.ins y d a (fin 6 w 6) (fin 6 w 0)))
  | 0x1D => need (fld w 17 3 = 0 ∧ fld w 0 12 = 0) (.ok (.pbrr y (fin 2 w 20) a))
  | 0x1E => need (fld w 0 20 = 0) (.ok (.call y (fin 2 w 20)))
  | 0x1F => need (fld w 3 19 = 0) (withCode (FrameSize.ofCode (fld w 0 3)) fun n => .ok (.enter y n))
  | 0x20 => need (fld w 0 22 = 0) (.ok (.ret y))
  | 0x21 => need (fld w 0 22 = 0) (.ok (.relc y))
  | 0x22 => need (fld w 0 22 = 0) (.ok (.tjoin y))
  | 0x23 => need (fld w 0 22 = 0) (.ok (.tend y))
  | 0x24 => need (fld w 17 1 = 0 ∧ fld w 0 5 = 0 ∧ fld w 5 2 ≠ 0)
      (.ok (.xlat y (fin 4 w 18) a (fin 5 w 7) (flag w 6) (flag w 5)))
  | 0x25 => need (fld w 17 1 = 0 ∧ fld w 5 2 ≠ 0)
      (.ok (.xlatR y (fin 4 w 18) a (fin 5 w 7) (flag w 6) (flag w 5) e))
  | 0x26 => need (fld w 0 18 = 0) (.ok (.xrel y (fin 4 w 18)))
  | 0x27 => need (fld w 4 9 = 0 ∧ fld w 3 1 = 0) (.ok (.xinfo y d k (fin 3 w 0)))
  | 0x28 => need (fld w 17 1 = 0 ∧ fld w 5 3 = 0) (.ok (.bind y (fin 4 w 18) k x e))
  | 0x29 => need (fld w 0 18 = 0) (.ok (.unbind y (fin 4 w 18)))
  | 0x2A => withCode z fun z => .ok (.lds y d k x z e)
  | 0x2B => withCode z fun z => need z.stores (.ok (.sts y d k x z e))
  | 0x2C => withCode z fun z => need (z.atomic ∧ fld v 0 11 = 0 ∧ fld v 18 5 = 0)
      (withCode (AmoOp.ofCode (fld v 14 4)) fun o => withCode (Scope.ofCode (fld v 11 3)) fun c =>
        .ok (.amo y d k x z e (fin 5 v 23) o c))
  | 0x2D => withCode z fun z => need (z.atomic ∧ fld v 0 11 = 0 ∧ fld v 14 4 = 0)
      (withCode (Scope.ofCode (fld v 11 3)) fun c => .ok (.cas y d k x z e (fin 5 v 23) (fin 5 v 18) c))
  | 0x2E => need (fld w 20 2 = 0 ∧ fld w 5 3 = 0) (withCode (Scope.ofCode (fld w 17 3)) fun c => .ok (.acq y c k x e))
  | 0x2F => need (fld w 20 2 = 0 ∧ fld w 5 3 = 0) (withCode (Scope.ofCode (fld w 17 3)) fun c => .ok (.rel y c k x e))
  | 0x30 => need (fld w 5 17 = 0) (match fld w 3 2 with
      | 0 => withCode (Scope.ofCode (fld w 0 3)) fun c => .ok (.fence y c)
      | 1 => withCode (Scope.ofCode (fld w 0 3)) fun c => .ok (.fenceAcq y c)
      | 2 => withCode (Scope.ofCode (fld w 0 3)) fun c => .ok (.fenceRel y c)
      | _ => need (fld w 0 3 = 0) (.ok (.fenceAll y)))
  | 0x31 => withCode z fun z => .ok (.wadr y d k x z e)
  | 0x32 => need (fld w 0 22 = 0) (.ok (.wfe y))
  | 0x33 => need (fld w 3 19 = 0) (withCode (Scope.ofCode (fld w 0 3)) fun c => .ok (.sev y c))
  | 0x34 => need (fld w 17 3 = 0 ∧ fld w 0 12 = 0) (withCode (Target.ofCode (fld w 20 2)) fun g => .ok (.send y g a))
  | 0x35 => need (fld w 18 1 = 0 ∧ fld w 0 15 = 0) (withCode (Target.ofCode (fld w 20 2)) fun g =>
      .ok (.bqp y g (flag w 19) (fin 3 w 15)))
  | 0x36 => need (fld w 17 1 = 0) (.ok (.win y (fin 4 w 18) a (bvf 12 w 0)))
  | 0x37 => need (fld w 8 11 = 0) (match fld w 19 3 with
      | 0 => .ok (.trap y (bvf 8 w 0))
      | 1 => need (fld w 0 8 = 0) (.ok (.rett y))
      | 2 => .ok (.ecall y (bvf 8 w 0))
      | 3 => .ok (.brk y (bvf 8 w 0))
      | _ => .bad 3)
  | 0x38 => need (fld w 10 7 = 0) (withCode (CReg.ofCode (fld w 0 10)) fun c => .ok (.mfc y d c))
  | 0x39 => need (fld w 17 5 = 0 ∧ fld w 10 2 = 0) (withCode (CReg.ofCode (fld w 0 10)) fun c => .ok (.mtc y a c))
  | 0x3A => decodeL2 .ctl w v
  | 0x3B => decodeFab w v
  | _ => .bad 2

/-- The engine commands of LD and ST (R222). -/
def decodeLe (w v : Nat) (f : Ring → Fin 16 → Fin 16 → Fin 16 → Fin 16 → Fin 32 → Waits → Decoded) : Decoded :=
  need (fld w 5 1 = 0) (second v (fin 5 w 0) fun a =>
    f (Ring.ofWord w) (fin 4 w 18) (fin 4 w 14) (fin 4 w 10) (fin 4 w 6) (fin 5 w 0) a)

/-- The opcode maps of LD and ST above the common group (R58). -/
def decodeLdSt (st : Bool) (w v : Nat) : Decoded :=
  let y := Ring.ofWord w
  let q := fin 4 w 18
  let k := fin 4 w 14
  let x := fin 4 w 10
  match fld w 22 6 with
  | 0x0D =>
    if st then need (8 ≤ q.val) (.ok (.stq y q k x (fin 10 w 0)))
    else need (q.val < 8) (.ok (.ldq y q k x (fin 10 w 0)))
  | 0x0E => decodeLe w v fun y l k x a m ws =>
      if st then .ok (.stsp y l k x a m ws (fin 10 v 0)) else .ok (.ldsp y l k x a m ws (fin 10 v 0))
  | 0x0F => decodeLe w v fun y l k x a m ws => need (fld v 4 6 = 0 ∧ fld v 0 3 ≠ 7)
      (if st then .ok (.sct y l k x a m ws (flag v 3) (fin 3 v 0)) else .ok (.gth y l k x a m ws (flag v 3) (fin 3 v 0)))
  | 0x10 =>
    if st then withCode (UpdOp.ofCode (fld w 7 3)) fun o => withCode (Ty.ofCode (fld w 3 4)) fun t =>
      need (8 ≤ q.val ∧ o.allows t) (.ok (.upd y q k x o t (fin 3 w 0)))
    else need (fld w 18 4 = 0) (.ok (.pf y k x (fin 10 w 0)))
  | 0x11 => need (fld w 0 10 = 0) (.ok (.aadd y q k x))
  | 0x12 => .ok (.aaddi y q k (bvf 14 w 0))
  | 0x13 => .ok (.ali y q (bvf 18 w 0))
  | 0x14 => need (fld w 0 7 = 0) (withCode (Cond.ofCode (fld w 7 4)) fun c =>
      need (c ≠ .un) (.ok (.acmp y (fin 3 w 19) (fin 4 w 15) (fin 4 w 11) c)))
  | 0x15 =>
    if st then withCode (Scope.ofCode (fld w 7 3)) fun c => need (8 ≤ q.val) (.ok (.strel y q k x c (fin 7 w 0)))
    else .bad 2
  | 0x16 => if st then decodeL2 .st w v else .bad 2
  | _ => .bad 2

/-- A destination and one source of EX (R60, R61). -/
def ex1 (w : Nat) (f : Opnd → Opnd → Decoded) : Decoded :=
  withCode (Opnd.ofCode (fld w 14 7)) fun d => withCode (Opnd.ofCode (fld w 7 7)) fun a =>
    need (d.dst && a.src) (f d a)

/-- A destination and two sources of EX (R60, R61). -/
def ex2 (w : Nat) (f : Opnd → Opnd → Opnd → Decoded) : Decoded :=
  ex1 w fun d a => withCode (Opnd.ofCode (fld w 0 7)) fun b => need b.src (f d a b)

/-- As `ex2` for the words whose destination is also the addend (R247). -/
def ex3 (w : Nat) (f : Opnd → Opnd → Opnd → Decoded) : Decoded :=
  ex2 w fun d a b => need d.isZ (f d a b)

/-- As `ex1` with B zero (R61). -/
def ex1z (w : Nat) (f : Opnd → Opnd → Decoded) : Decoded := ex1 w fun d a => need (fld w 0 7 = 0) (f d a)

/-- A condition, a lane mask and two sources of EX (R61). -/
def exCmp (ok : Cond → Bool) (w : Nat) (f : Cond → Fin 8 → Opnd → Opnd → Decoded) : Decoded :=
  withCode (Cond.ofCode (fld w 17 4)) fun c => withCode (Opnd.ofCode (fld w 7 7)) fun a =>
    withCode (Opnd.ofCode (fld w 0 7)) fun b => need (ok c && a.src && b.src) (f c (fin 3 w 14) a b)

/-- The opcode map of EX above the common group (R59, R61). -/
def decodeEx (w : Nat) : Decoded :=
  let y := Ring.ofWord w
  match fld w 21 7 with
  | 0x1A => ex2 w fun d a b => .ok (.faddF32 y d a b)
  | 0x1B => ex2 w fun d a b => .ok (.faddBf16 y d a b)
  | 0x1C => ex2 w fun d a b => .ok (.fsubF32 y d a b)
  | 0x1D => ex2 w fun d a b => .ok (.fsubBf16 y d a b)
  | 0x1E => ex2 w fun d a b => .ok (.fmulF32 y d a b)
  | 0x1F => ex2 w fun d a b => .ok (.fmulBf16 y d a b)
  | 0x20 => ex3 w fun d a b => .ok (.fmaF32 y d a b)
  | 0x21 => ex3 w fun d a b => .ok (.fmaBf16 y d a b)
  | 0x22 => ex3 w fun d a b => .ok (.fmsF32 y d a b)
  | 0x23 => ex3 w fun d a b => .ok (.fmsBf16 y d a b)
  | 0x24 => ex3 w fun d a b => .ok (.fnmaF32 y d a b)
  | 0x25 => ex3 w fun d a b => .ok (.fnmaBf16 y d a b)
  | 0x26 => ex2 w fun d a b => .ok (.fmaxF32 y d a b)
  | 0x27 => ex2 w fun d a b => .ok (.fmaxBf16 y d a b)
  | 0x28 => ex2 w fun d a b => .ok (.fminF32 y d a b)
  | 0x29 => ex2 w fun d a b => .ok (.fminBf16 y d a b)
  | 0x2C => ex2 w fun d a b => .ok (.fselF32 y d a b)
  | 0x2D => ex2 w fun d a b => .ok (.fselBf16 y d a b)
  | 0x33 => ex2 w fun d a b => .ok (.iaddI32 y d a b)
  | 0x34 => ex2 w fun d a b => .ok (.iaddI16 y d a b)
  | 0x35 => ex2 w fun d a b => .ok (.iaddI8 y d a b)
  | 0x36 => ex2 w fun d a b => .ok (.iaddI32S y d a b)
  | 0x37 => ex2 w fun d a b => .ok (.iaddI16S y d a b)
  | 0x38 => ex2 w fun d a b => .ok (.iaddI8S y d a b)
  | 0x39 => ex2 w fun d a b => .ok (.iaddN32S y d a b)
  | 0x3A => ex2 w fun d a b => .ok (.iaddN16S y d a b)
  | 0x3B => ex2 w fun d a b => .ok (.iaddN8S y d a b)
  | 0x3C => ex2 w fun d a b => .ok (.isubI32 y d a b)
  | 0x3D => ex2 w fun d a b => .ok (.isubI16 y d a b)
  | 0x3E => ex2 w fun d a b => .ok (.isubI8 y d a b)
  | 0x3F => ex2 w fun d a b => .ok (.isubI32S y d a b)
  | 0x40 => ex2 w fun d a b => .ok (.isubI16S y d a b)
  | 0x41 => ex2 w fun d a b => .ok (.isubI8S y d a b)
  | 0x42 => ex2 w fun d a b => .ok (.isubN32S y d a b)
  | 0x43 => ex2 w fun d a b => .ok (.isubN16S y d a b)
  | 0x44 => ex2 w fun d a b => .ok (.isubN8S y d a b)
  | 0x45 => ex2 w fun d a b => .ok (.imulI32 y d a b)
  | 0x46 => ex2 w fun d a b => .ok (.imulI16 y d a b)
  | 0x47 => ex2 w fun d a b => .ok (.imulI8 y d a b)
  | 0x48 => ex3 w fun d a b => .ok (.imacI32 y d a b)
  | 0x49 => ex3 w fun d a b => .ok (.imacI16 y d a b)
  | 0x4A => ex3 w fun d a b => .ok (.imacI8 y d a b)
  | 0x4B => ex2 w fun d a b => .ok (.iand y d a b)
  | 0x4C => ex2 w fun d a b => .ok (.ior y d a b)
  | 0x4D => ex2 w fun d a b => .ok (.ixor y d a b)
  | 0x4E => ex2 w fun d a b => .ok (.ishlI32 y d a b)
  | 0x4F => ex2 w fun d a b => .ok (.ishlI16 y d a b)
  | 0x50 => ex2 w fun d a b => .ok (.ishlI8 y d a b)
  | 0x51 => ex2 w fun d a b => .ok (.ishrI32 y d a b)
  | 0x52 => ex2 w fun d a b => .ok (.ishrI16 y d a b)
  | 0x53 => ex2 w fun d a b => .ok (.ishrI8 y d a b)
  | 0x54 => ex2 w fun d a b => .ok (.israI32 y d a b)
  | 0x55 => ex2 w fun d a b => .ok (.israI16 y d a b)
  | 0x56 => ex2 w fun d a b => .ok (.israI8 y d a b)
  | 0x57 => ex2 w fun d a b => .ok (.iminI32 y d a b)
  | 0x58 => ex2 w fun d a b => .ok (.iminI16 y d a b)
  | 0x59 => ex2 w fun d a b => .ok (.iminI8 y d a b)
  | 0x5A => ex2 w fun d a b => .ok (.iminN32 y d a b)
  | 0x5B => ex2 w fun d a b => .ok (.iminN16 y d a b)
  | 0x5C => ex2 w fun d a b => .ok (.iminN8 y d a b)
  | 0x5D => ex2 w fun d a b => .ok (.imaxI32 y d a b)
  | 0x5E => ex2 w fun d a b => .ok (.imaxI16 y d a b)
  | 0x5F => ex2 w fun d a b => .ok (.imaxI8 y d a b)
  | 0x60 => ex2 w fun d a b => .ok (.imaxN32 y d a b)
  | 0x61 => ex2 w fun d a b => .ok (.imaxN16 y d a b)
  | 0x62 => ex2 w fun d a b => .ok (.imaxN8 y d a b)
  | 0x68 => ex2 w fun d a b => .ok (.perm y d a b)
  | 0x2A => exCmp Cond.fcmpOk w fun c m a b => .ok (.fcmpF32 y c m a b)
  | 0x2B => exCmp Cond.fcmpOk w fun c m a b => .ok (.fcmpBf16 y c m a b)
  | 0x63 => exCmp Cond.intOk w fun c m a b => .ok (.icmpI32 y c m a b)
  | 0x64 => exCmp Cond.intOk w fun c m a b => .ok (.icmpI16 y c m a b)
  | 0x65 => exCmp Cond.intOk w fun c m a b => .ok (.icmpI8 y c m a b)
  | 0x2F => ex1z w fun d a => .ok (.exp2F32 y d a)
  | 0x30 => ex1z w fun d a => .ok (.lg2F32 y d a)
  | 0x31 => ex1z w fun d a => .ok (.rcpF32 y d a)
  | 0x32 => ex1z w fun d a => .ok (.rsqF32 y d a)
  | 0x6A => ex1z w fun d a => .ok (.redF32 y d a)
  | 0x6B => ex1z w fun d a => .ok (.redI32 y d a)
  | 0x6C => ex1z w fun d a => .ok (.scanF32 y d a)
  | 0x2E => ex1 w fun d a => withCode (FunaOp.ofCode (fld w 0 7)) fun o => .ok (.funaF32 y d a o)
  | 0x66 => ex1 w fun d a =>
      if fld w 0 7 = 0 then .ok (.mov y d a) else need (fld w 3 4 = 1) (.ok (.movMasked y d a (fin 3 w 0)))
  | 0x67 => ex1 w fun d a => need (fld w 6 1 = 0) (.ok (.bcst y d a (fin 6 w 0)))
  | 0x69 => ex1 w fun d a => need (fld w 6 1 = 0) (.ok (.rot y d a (fin 6 w 0)))
  | 0x6D => ex1 w fun d a => withCode (CvtOp.ofCode (fld w 0 7)) fun o => .ok (.cvt y d a o)
  | 0x6E => withCode (Opnd.ofCode (fld w 7 7)) fun a => withCode (levelOf (fld w 14 3)) fun l =>
      need (fld w 17 4 = 0 ∧ fld w 0 7 = 0 ∧ a.src) (.ok (.qmax y l a))
  | 0x6F => ex1 w fun d a => withCode (levelOf (fld w 0 3)) fun l => need (fld w 3 4 = 0) (.ok (.qcvt y d a l))
  | 0x70 => ex1 w fun d a => withCode (levelOf (fld w 0 3)) fun l => need (fld w 3 4 = 0) (.ok (.deq y d a l))
  | 0x71 => withCode (Opnd.ofCode (fld w 14 7)) fun d => need (d.isZ ∧ fld w 10 1 = 0) (.ok (.zld y d (fin 4 w 10) (fin 10 w 0)))
  | 0x72 => withCode (Opnd.ofCode (fld w 14 7)) fun d => need (d.isZ ∧ fld w 10 1 = 0) (.ok (.zst y d (fin 4 w 10) (fin 10 w 0)))
  | 0x73 => need (fld w 17 4 = 0 ∧ fld w 7 7 < 64 ∧ fld w 7 7 + fld w 0 7 ≤ 64)
      (.ok (.mset y (fin 3 w 14) (fin 7 w 7) (fin 7 w 0)))
  | 0x74 => need (fld w 10 4 = 0 ∧ fld w 3 4 = 0) (withCode (MlogOp.ofCode (fld w 17 4)) fun o =>
      need (o ≠ .not ∨ fld w 0 3 = 0) (.ok (.mlog y o (fin 3 w 14) (fin 3 w 7) (fin 3 w 0))))
  | 0x75 => withCode (Opnd.ofCode (fld w 14 7)) fun d => need d.dst (.ok (.zli y d (bvf 14 w 0)))
  | 0x76 => need (fld w 0 21 = 0) (.ok (.lse y))
  | 0x77 => need (fld w 0 21 = 0) (.ok (.lsr y))
  | 0x78 => withCode (levelOf (fld w 4 3)) fun l => need (fld w 2 2 = 0 ∧ fld w 11 1 = 0 ∧ fld w 7 1 = 0)
      (.ok (.mma y (fin 6 w 15) (fin 4 w 11) (fin 4 w 7) l (flag w 1) (flag w 0)))
  | 0x79 => withCode (levelOf (fld w 4 3)) fun l => need (fld w 2 2 = 0 ∧ fld w 11 1 = 0 ∧ fld w 7 1 = 0)
      (.ok (.mmaz y (fin 6 w 15) (fin 4 w 11) (fin 4 w 7) l (flag w 1) (flag w 0)))
  | 0x7A => withCode (levelOf (fld w 4 3)) fun l => need (fld w 7 4 = 0 ∧ fld w 0 4 = 0 ∧ fld w 11 1 = 0)
      (.ok (.mmov y (fin 6 w 15) (fin 4 w 11) l))
  | 0x7B => need (fld w 0 15 = 0) (.ok (.mclr y (fin 6 w 15)))
  | 0x7C => need (fld w 15 6 = 0 ∧ fld w 10 1 = 0 ∧ fld w 0 7 = 0) (.ok (.dset y (fin 4 w 11) (fin 3 w 7)))
  | 0x7D => need (fld w 15 6 = 0 ∧ fld w 10 1 = 0 ∧ fld w 1 6 = 0)
      (if flag w 0 then need (fld w 11 4 = 0) (.ok (.fmtsetFbase y (fin 3 w 7))) else .ok (.fmtset y (fin 4 w 11) (fin 3 w 7)))
  | _ => .bad 2

/-- Check 4 of R63 on the second word. -/
def ring2 (v : Nat) (r : Decoded) : Decoded :=
  match r with
  | .ok j => if fld v 28 4 = 0 then .ok j else .bad 4
  | .bad n => .bad n

/-- What sequencer q reads in the word w followed by the word v: none where the stream ends (R63, checks 1 to 4). -/
def decode (q : Seq) (w : Nat) (v : Option Nat) : Decoded :=
  let body := fun (u : Nat) =>
    if fld w 22 6 < 13 then decodeCommon q w u
    else match q with
      | .ctl => decodeCtl w u
      | .ld => decodeLdSt false w u
      | .st => decodeLdSt true w u
      | .ex => decodeEx w
  if twoWord q w then
    match v with
    | none => .bad 1
    | some u => ring2 u (body u)
  else body 0

/-- Bytes to a word, the byte at the lowest offset being bits 7:0 (R4, R46). -/
def wordOfBytes : List Byte → Nat
  | [] => 0
  | b :: r => b.toNat + 256 * wordOfBytes r

/-- A word as 4 bytes (R4, R46). -/
def bytesOfWord (w : Nat) : List Byte :=
  [BitVec.ofNat 8 w, BitVec.ofNat 8 (w / 256), BitVec.ofNat 8 (w / 65536), BitVec.ofNat 8 (w / 16777216)]

/-- What sequencer q reads at the start of a code extent's remaining bytes: an instruction with its length in bytes, or the check that
fails (R63). Total on any bytes. DESIGN CHOICE (notes/assumptions/50.md): a word that begins inside the extent and is cut off by its end fails check 1. -/
def decodeBytes (q : Seq) (bs : List Byte) : Decoded × Nat :=
  if bs.length < 4 then (.bad 1, 0)
  else
    let w := wordOfBytes (bs.take 4)
    let r := decode q w (if bs.length < 8 then none else some (wordOfBytes ((bs.drop 4).take 4)))
    (r, if twoWord q w then 8 else 4)

/-- The order in which the streams are tried where no stream is given: the model's choice (notes/assumptions/16.md). -/
def streamOrder : List Seq := [.ctl, .ex, .st, .ld]

/-- The first stream of a list that reads an instruction in the bytes, with the instruction. -/
def firstStream (bs : List Byte) : List Seq → Option (Seq × Instr)
  | [] => none
  | q :: r =>
    match (decodeBytes q bs).1 with
    | .ok j => some (q, j)
    | .bad _ => firstStream bs r

/-- The bytes of a numbered instruction of the opcode table, bits above nbits zero, two words long. -/
def tableBytes (nbits w : Nat) : List Byte :=
  bytesOfWord (w % 2 ^ nbits % 2 ^ 32) ++ bytesOfWord (w % 2 ^ nbits / 2 ^ 32 % 2 ^ 32)

/-- The instruction the decoder reads from bits numbered as the opcode table numbers them. -/
def decodeTableWord (nbits w : Nat) : Option Instr := (firstStream (tableBytes nbits w) streamOrder).map (·.2)

/-- A word of CTL, LD or ST and of the common group: ring field, 6-bit major, payload (R49, R50, R52). -/
def w6 (y : Ring) (maj rest : Nat) : Nat := y.code * 2 ^ 28 + maj * 2 ^ 22 + rest

/-- A word of EX: ring field, 7-bit major, payload (R51). -/
def w7 (y : Ring) (maj rest : Nat) : Nat := y.code * 2 ^ 28 + maj * 2 ^ 21 + rest

/-- A C3 payload (R49). -/
def c3 (d a b : Fin 32) (f : Nat) : Nat := d.val * 2 ^ 17 + a.val * 2 ^ 12 + b.val * 2 ^ 7 + f

/-- A CM payload (R49). -/
def cm (d : Fin 32) (k : Fin 16) (x : Fin 32) (z : Nat) (v : Fin 32) : Nat :=
  d.val * 2 ^ 17 + k.val * 2 ^ 13 + x.val * 2 ^ 8 + z * 2 ^ 5 + v.val

/-- A CE payload (R49). -/
def ce (o : Nat) (d : Fin 32) (k : Nat) (x : Nat) (m : Fin 32) : Nat :=
  o * 2 ^ 19 + d.val * 2 ^ 14 + k * 2 ^ 10 + x * 2 ^ 5 + m.val

/-- The second word of a command (R49). -/
def snd2 (a : Waits) (f : Nat) : Nat := a.code * 2 ^ 10 + f

/-- An LE payload (R50). -/
def le (l k x a : Fin 16) (m : Fin 32) : Nat := l.val * 2 ^ 18 + k.val * 2 ^ 14 + x.val * 2 ^ 10 + a.val * 2 ^ 6 + m.val

/-- An LM payload (R50). -/
def lm (q k x : Nat) (v : Nat) : Nat := q * 2 ^ 18 + k * 2 ^ 14 + x * 2 ^ 10 + v

/-- An E3 payload (R51). -/
def e3 (d a b : Nat) : Nat := d * 2 ^ 14 + a * 2 ^ 7 + b

/-- An EM payload (R51). -/
def em (c a b l f : Nat) : Nat := c * 2 ^ 15 + a * 2 ^ 11 + b * 2 ^ 7 + l * 2 ^ 4 + f

/-- The major of `l2` as stream q has it (R57). -/
def l2Major : Seq → Nat
  | .st => 0x16
  | _ => 0x3A

/-- The words of an instruction in stream q (R46 to R62); none for a step of another agent. -/
def encode (q : Seq) : Instr → List Nat
  | .nop y => [w6 y 0x00 0]
  | .halt y => [w6 y 0x01 0]
  | .pbr y b o => [w6 y 0x02 (b.val * 2 ^ 20 + o.toNat)]
  | .br y b n p => [w6 y 0x03 (b.val * 2 ^ 20 + n.toNat * 2 ^ 19 + p.code * 2 ^ 15)]
  | .loop y c l => [w6 y 0x04 (c.val * 2 ^ 20 + l.val * 2 ^ 16)]
  | .loopI y c n => [w6 y 0x04 (c.val * 2 ^ 20 + 2 ^ 19 + n.toNat)]
  | .lb y c o => [w6 y 0x05 (c.val * 2 ^ 20 + o.toNat)]
  | .lx y c n p o => [w6 y 0x06 (c.val * 2 ^ 20 + n.toNat * 2 ^ 19 + p.val * 2 ^ 15 + o.toNat)]
  | .budget y e => [w6 y 0x07 e.val]
  | .mwait y a => [w6 y 0x08 a.code]
  | .gen y => [w6 y 0x09 0]
  | .phase y => [w6 y 0x0A 0]
  | .seg y n crc => [w6 y 0x0B (crc.toNat / 2 ^ 28 * 2 ^ 16 + n.toNat), crc.toNat % 2 ^ 28]
  | .recv y d => [w6 y 0x0C d.val]
  | .add y d a b => [w6 y 0x0D (c3 d a b 0x00)]
  | .sub y d a b => [w6 y 0x0D (c3 d a b 0x01)]
  | .and y d a b => [w6 y 0x0D (c3 d a b 0x02)]
  | .or y d a b => [w6 y 0x0D (c3 d a b 0x03)]
  | .xor y d a b => [w6 y 0x0D (c3 d a b 0x04)]
  | .shl y d a b => [w6 y 0x0D (c3 d a b 0x05)]
  | .shr y d a b => [w6 y 0x0D (c3 d a b 0x06)]
  | .sra y d a b => [w6 y 0x0D (c3 d a b 0x07)]
  | .mul y d a b => [w6 y 0x0D (c3 d a b 0x08)]
  | .mulh y d a b => [w6 y 0x0D (c3 d a b 0x09)]
  | .mulhn y d a b => [w6 y 0x0D (c3 d a b 0x0A)]
  | .div y d a b => [w6 y 0x0D (c3 d a b 0x0B)]
  | .divn y d a b => [w6 y 0x0D (c3 d a b 0x0C)]
  | .rem y d a b => [w6 y 0x0D (c3 d a b 0x0D)]
  | .remn y d a b => [w6 y 0x0D (c3 d a b 0x0E)]
  | .min y d a b => [w6 y 0x0D (c3 d a b 0x0F)]
  | .max y d a b => [w6 y 0x0D (c3 d a b 0x10)]
  | .minn y d a b => [w6 y 0x0D (c3 d a b 0x11)]
  | .maxn y d a b => [w6 y 0x0D (c3 d a b 0x12)]
  | .addS y d a b => [w6 y 0x0D (c3 d a b 0x40)]
  | .subS y d a b => [w6 y 0x0D (c3 d a b 0x41)]
  | .mulS y d a b => [w6 y 0x0D (c3 d a b 0x48)]
  | .clz y d a => [w6 y 0x0D (c3 d a 0 0x13)]
  | .popc y d a => [w6 y 0x0D (c3 d a 0 0x14)]
  | .addi y d a m => [w6 y 0x0E (d.val * 2 ^ 17 + a.val * 2 ^ 12 + m.toNat)]
  | .andi y d a m => [w6 y 0x0F (d.val * 2 ^ 17 + a.val * 2 ^ 12 + m.toNat)]
  | .ori y d a m => [w6 y 0x10 (d.val * 2 ^ 17 + a.val * 2 ^ 12 + m.toNat)]
  | .xori y d a m => [w6 y 0x11 (d.val * 2 ^ 17 + a.val * 2 ^ 12 + m.toNat)]
  | .shli y d a m => [w6 y 0x12 (d.val * 2 ^ 17 + a.val * 2 ^ 12 + m.val)]
  | .shri y d a m => [w6 y 0x13 (d.val * 2 ^ 17 + a.val * 2 ^ 12 + m.val)]
  | .srai y d a m => [w6 y 0x14 (d.val * 2 ^ 17 + a.val * 2 ^ 12 + m.val)]
  | .li y d m => [w6 y 0x15 (d.val * 2 ^ 17 + m.toNat)]
  | .lih y d m => [w6 y 0x16 (d.val * 2 ^ 17 + m.toNat)]
  | .cmp y p a b c => [w6 y 0x17 (p.val * 2 ^ 19 + a.val * 2 ^ 12 + b.val * 2 ^ 7 + c.code * 2 ^ 3)]
  | .cmpi y p c a m => [w6 y 0x18 (p.val * 2 ^ 19 + c.code * 2 ^ 15 + a.val * 2 ^ 10 + m.toNat)]
  | .pset y p a b o => [w6 y 0x19 (p.val * 2 ^ 19 + a.val * 2 ^ 16 + b.val * 2 ^ 13 + o.code * 2 ^ 10)]
  | .sel y d a b p n => [w6 y 0x1A (d.val * 2 ^ 17 + a.val * 2 ^ 12 + b.val * 2 ^ 7 + p.val * 2 ^ 4 + n.toNat * 2 ^ 3)]
  | .ext y d a p w => [w6 y 0x1B (d.val * 2 ^ 17 + a.val * 2 ^ 12 + p.val * 2 ^ 6 + w.val)]
  | .ins y d a p w => [w6 y 0x1C (d.val * 2 ^ 17 + a.val * 2 ^ 12 + p.val * 2 ^ 6 + w.val)]
  | .pbrr y b a => [w6 y 0x1D (b.val * 2 ^ 20 + a.val * 2 ^ 12)]
  | .call y b => [w6 y 0x1E (b.val * 2 ^ 20)]
  | .enter y n => [w6 y 0x1F n.code]
  | .ret y => [w6 y 0x20 0]
  | .relc y => [w6 y 0x21 0]
  | .tjoin y => [w6 y 0x22 0]
  | .tend y => [w6 y 0x23 0]
  | .xlat y t a b r w => [w6 y 0x24 (t.val * 2 ^ 18 + a.val * 2 ^ 12 + b.val * 2 ^ 7 + r.toNat * 2 ^ 6 + w.toNat * 2 ^ 5)]
  | .xlatR y t a b r w c =>
    [w6 y 0x25 (t.val * 2 ^ 18 + a.val * 2 ^ 12 + b.val * 2 ^ 7 + r.toNat * 2 ^ 6 + w.toNat * 2 ^ 5 + c.val)]
  | .xrel y t => [w6 y 0x26 (t.val * 2 ^ 18)]
  | .xinfo y d t m => [w6 y 0x27 (d.val * 2 ^ 17 + t.val * 2 ^ 13 + m.val)]
  | .bind y t k x v => [w6 y 0x28 (t.val * 2 ^ 18 + k.val * 2 ^ 13 + x.val * 2 ^ 8 + v.val)]
  | .unbind y t => [w6 y 0x29 (t.val * 2 ^ 18)]
  | .lds y d k x z v => [w6 y 0x2A (cm d k x z.code v)]
  | .sts y d k x z v => [w6 y 0x2B (cm d k x z.code v)]
  | .amo y d k x z v b o c => [w6 y 0x2C (cm d k x z.code v), b.val * 2 ^ 23 + o.code * 2 ^ 14 + c.code * 2 ^ 11]
  | .cas y d k x z v b n c => [w6 y 0x2D (cm d k x z.code v), b.val * 2 ^ 23 + n.val * 2 ^ 18 + c.code * 2 ^ 11]
  | .acq y c k x v => [w6 y 0x2E (c.code * 2 ^ 17 + k.val * 2 ^ 13 + x.val * 2 ^ 8 + v.val)]
  | .rel y c k x v => [w6 y 0x2F (c.code * 2 ^ 17 + k.val * 2 ^ 13 + x.val * 2 ^ 8 + v.val)]
  | .fence y c => [w6 y 0x30 c.code]
  | .fenceAcq y c => [w6 y 0x30 (2 ^ 3 + c.code)]
  | .fenceRel y c => [w6 y 0x30 (2 * 2 ^ 3 + c.code)]
  | .fenceAll y => [w6 y 0x30 (3 * 2 ^ 3)]
  | .wadr y d k x z v => [w6 y 0x31 (cm d k x z.code v)]
  | .wfe y => [w6 y 0x32 0]
  | .sev y c => [w6 y 0x33 c.code]
  | .send y g a => [w6 y 0x34 (g.code * 2 ^ 20 + a.val * 2 ^ 12)]
  | .bqp y g n p => [w6 y 0x35 (g.code * 2 ^ 20 + n.toNat * 2 ^ 19 + p.val * 2 ^ 15)]
  | .win y w a n => [w6 y 0x36 (w.val * 2 ^ 18 + a.val * 2 ^ 12 + n.toNat)]
  | .trap y n => [w6 y 0x37 n.toNat]
  | .rett y => [w6 y 0x37 (2 ^ 19)]
  | .ecall y n => [w6 y 0x37 (2 * 2 ^ 19 + n.toNat)]
  | .brk y n => [w6 y 0x37 (3 * 2 ^ 19 + n.toNat)]
  | .mfc y d c => [w6 y 0x38 (d.val * 2 ^ 17 + c.code)]
  | .mtc y a c => [w6 y 0x39 (a.val * 2 ^ 12 + c.code)]
  | .bk y d k x m a o t f => [w6 y (l2Major q) (ce 0 d k.val x.val m), snd2 a (o.code * 2 ^ 6 + t.code * 2 ^ 2 + f.toNat * 2)]
  | .bkred y d k x m a t u => [w6 y (l2Major q) (ce 1 d k.val x.val m), snd2 a (t.code * 2 ^ 6 + u.code * 2 ^ 2)]
  | .wqPush y d m a p e => [w6 y (l2Major q) (ce 2 d 0 0 m), snd2 a (p.val * 2 ^ 6 + e.val)]
  | .wqPop y d m a p e => [w6 y (l2Major q) (ce 3 d 0 0 m), snd2 a (p.val * 2 ^ 6 + e.val)]
  | .wqPeek y d m a p e => [w6 y (l2Major q) (ce 4 d 0 0 m), snd2 a (p.val * 2 ^ 6 + e.val)]
  | .xall y d k x m a t g => [w6 y 0x3B (ce 0 d k.val x.val m), snd2 a (t.val * 2 ^ 6 + g.val)]
  | .fred y d k x m a t u => [w6 y 0x3B (ce 1 d k.val x.val m), snd2 a (t.code * 2 ^ 6 + u.code * 2 ^ 2)]
  | .fput y d k x m a => [w6 y 0x3B (ce 2 d k.val x.val m), snd2 a 0]
  | .fget y d k x m a => [w6 y 0x3B (ce 3 d k.val x.val m), snd2 a 0]
  | .famo y d k x m a o c z =>
    [w6 y 0x3B (ce 4 d k.val x.val m), snd2 a (o.code * 2 ^ 6 + c.code * 2 ^ 3 + z.toNat * 2 ^ 2)]
  | .fbar y m a g => [w6 y 0x3B (ce 5 0 0 0 m), snd2 a g.val]
  | .ldq y e k x v => [w6 y 0x0D (lm e.val k.val x.val v.val)]
  | .stq y e k x v => [w6 y 0x0D (lm e.val k.val x.val v.val)]
  | .strel y e k x c v => [w6 y 0x15 (lm e.val k.val x.val (c.code * 2 ^ 7 + v.val))]
  | .pf y k x v => [w6 y 0x10 (lm 0 k.val x.val v.val)]
  | .upd y e k x o t v => [w6 y 0x10 (lm e.val k.val x.val (o.code * 2 ^ 7 + t.code * 2 ^ 3 + v.val))]
  | .aadd y d a b => [w6 y 0x11 (lm d.val a.val b.val 0)]
  | .aaddi y d a m => [w6 y 0x12 (d.val * 2 ^ 18 + a.val * 2 ^ 14 + m.toNat)]
  | .ali y d m => [w6 y 0x13 (d.val * 2 ^ 18 + m.toNat)]
  | .acmp y p a b c => [w6 y 0x14 (p.val * 2 ^ 19 + a.val * 2 ^ 15 + b.val * 2 ^ 11 + c.code * 2 ^ 7)]
  | .ldsp y l k x a m w f => [w6 y 0x0E (le l k x a m), snd2 w f.val]
  | .stsp y l k x a m w f => [w6 y 0x0E (le l k x a m), snd2 w f.val]
  | .gth y l k x a m w n f => [w6 y 0x0F (le l k x a m), snd2 w (n.toNat * 2 ^ 3 + f.val)]
  | .sct y l k x a m w n f => [w6 y 0x0F (le l k x a m), snd2 w (n.toNat * 2 ^ 3 + f.val)]
  | .faddF32 y d a b => [w7 y 0x1A (e3 d.code a.code b.code)]
  | .faddBf16 y d a b => [w7 y 0x1B (e3 d.code a.code b.code)]
  | .fsubF32 y d a b => [w7 y 0x1C (e3 d.code a.code b.code)]
  | .fsubBf16 y d a b => [w7 y 0x1D (e3 d.code a.code b.code)]
  | .fmulF32 y d a b => [w7 y 0x1E (e3 d.code a.code b.code)]
  | .fmulBf16 y d a b => [w7 y 0x1F (e3 d.code a.code b.code)]
  | .fmaF32 y d a b => [w7 y 0x20 (e3 d.code a.code b.code)]
  | .fmaBf16 y d a b => [w7 y 0x21 (e3 d.code a.code b.code)]
  | .fmsF32 y d a b => [w7 y 0x22 (e3 d.code a.code b.code)]
  | .fmsBf16 y d a b => [w7 y 0x23 (e3 d.code a.code b.code)]
  | .fnmaF32 y d a b => [w7 y 0x24 (e3 d.code a.code b.code)]
  | .fnmaBf16 y d a b => [w7 y 0x25 (e3 d.code a.code b.code)]
  | .fmaxF32 y d a b => [w7 y 0x26 (e3 d.code a.code b.code)]
  | .fmaxBf16 y d a b => [w7 y 0x27 (e3 d.code a.code b.code)]
  | .fminF32 y d a b => [w7 y 0x28 (e3 d.code a.code b.code)]
  | .fminBf16 y d a b => [w7 y 0x29 (e3 d.code a.code b.code)]
  | .fselF32 y d a b => [w7 y 0x2C (e3 d.code a.code b.code)]
  | .fselBf16 y d a b => [w7 y 0x2D (e3 d.code a.code b.code)]
  | .iaddI32 y d a b => [w7 y 0x33 (e3 d.code a.code b.code)]
  | .iaddI16 y d a b => [w7 y 0x34 (e3 d.code a.code b.code)]
  | .iaddI8 y d a b => [w7 y 0x35 (e3 d.code a.code b.code)]
  | .iaddI32S y d a b => [w7 y 0x36 (e3 d.code a.code b.code)]
  | .iaddI16S y d a b => [w7 y 0x37 (e3 d.code a.code b.code)]
  | .iaddI8S y d a b => [w7 y 0x38 (e3 d.code a.code b.code)]
  | .iaddN32S y d a b => [w7 y 0x39 (e3 d.code a.code b.code)]
  | .iaddN16S y d a b => [w7 y 0x3A (e3 d.code a.code b.code)]
  | .iaddN8S y d a b => [w7 y 0x3B (e3 d.code a.code b.code)]
  | .isubI32 y d a b => [w7 y 0x3C (e3 d.code a.code b.code)]
  | .isubI16 y d a b => [w7 y 0x3D (e3 d.code a.code b.code)]
  | .isubI8 y d a b => [w7 y 0x3E (e3 d.code a.code b.code)]
  | .isubI32S y d a b => [w7 y 0x3F (e3 d.code a.code b.code)]
  | .isubI16S y d a b => [w7 y 0x40 (e3 d.code a.code b.code)]
  | .isubI8S y d a b => [w7 y 0x41 (e3 d.code a.code b.code)]
  | .isubN32S y d a b => [w7 y 0x42 (e3 d.code a.code b.code)]
  | .isubN16S y d a b => [w7 y 0x43 (e3 d.code a.code b.code)]
  | .isubN8S y d a b => [w7 y 0x44 (e3 d.code a.code b.code)]
  | .imulI32 y d a b => [w7 y 0x45 (e3 d.code a.code b.code)]
  | .imulI16 y d a b => [w7 y 0x46 (e3 d.code a.code b.code)]
  | .imulI8 y d a b => [w7 y 0x47 (e3 d.code a.code b.code)]
  | .imacI32 y d a b => [w7 y 0x48 (e3 d.code a.code b.code)]
  | .imacI16 y d a b => [w7 y 0x49 (e3 d.code a.code b.code)]
  | .imacI8 y d a b => [w7 y 0x4A (e3 d.code a.code b.code)]
  | .iand y d a b => [w7 y 0x4B (e3 d.code a.code b.code)]
  | .ior y d a b => [w7 y 0x4C (e3 d.code a.code b.code)]
  | .ixor y d a b => [w7 y 0x4D (e3 d.code a.code b.code)]
  | .ishlI32 y d a b => [w7 y 0x4E (e3 d.code a.code b.code)]
  | .ishlI16 y d a b => [w7 y 0x4F (e3 d.code a.code b.code)]
  | .ishlI8 y d a b => [w7 y 0x50 (e3 d.code a.code b.code)]
  | .ishrI32 y d a b => [w7 y 0x51 (e3 d.code a.code b.code)]
  | .ishrI16 y d a b => [w7 y 0x52 (e3 d.code a.code b.code)]
  | .ishrI8 y d a b => [w7 y 0x53 (e3 d.code a.code b.code)]
  | .israI32 y d a b => [w7 y 0x54 (e3 d.code a.code b.code)]
  | .israI16 y d a b => [w7 y 0x55 (e3 d.code a.code b.code)]
  | .israI8 y d a b => [w7 y 0x56 (e3 d.code a.code b.code)]
  | .iminI32 y d a b => [w7 y 0x57 (e3 d.code a.code b.code)]
  | .iminI16 y d a b => [w7 y 0x58 (e3 d.code a.code b.code)]
  | .iminI8 y d a b => [w7 y 0x59 (e3 d.code a.code b.code)]
  | .iminN32 y d a b => [w7 y 0x5A (e3 d.code a.code b.code)]
  | .iminN16 y d a b => [w7 y 0x5B (e3 d.code a.code b.code)]
  | .iminN8 y d a b => [w7 y 0x5C (e3 d.code a.code b.code)]
  | .imaxI32 y d a b => [w7 y 0x5D (e3 d.code a.code b.code)]
  | .imaxI16 y d a b => [w7 y 0x5E (e3 d.code a.code b.code)]
  | .imaxI8 y d a b => [w7 y 0x5F (e3 d.code a.code b.code)]
  | .imaxN32 y d a b => [w7 y 0x60 (e3 d.code a.code b.code)]
  | .imaxN16 y d a b => [w7 y 0x61 (e3 d.code a.code b.code)]
  | .imaxN8 y d a b => [w7 y 0x62 (e3 d.code a.code b.code)]
  | .perm y d a b => [w7 y 0x68 (e3 d.code a.code b.code)]
  | .fcmpF32 y c m a b => [w7 y 0x2A (e3 (c.code * 8 + m.val) a.code b.code)]
  | .fcmpBf16 y c m a b => [w7 y 0x2B (e3 (c.code * 8 + m.val) a.code b.code)]
  | .icmpI32 y c m a b => [w7 y 0x63 (e3 (c.code * 8 + m.val) a.code b.code)]
  | .icmpI16 y c m a b => [w7 y 0x64 (e3 (c.code * 8 + m.val) a.code b.code)]
  | .icmpI8 y c m a b => [w7 y 0x65 (e3 (c.code * 8 + m.val) a.code b.code)]
  | .exp2F32 y d a => [w7 y 0x2F (e3 d.code a.code 0)]
  | .lg2F32 y d a => [w7 y 0x30 (e3 d.code a.code 0)]
  | .rcpF32 y d a => [w7 y 0x31 (e3 d.code a.code 0)]
  | .rsqF32 y d a => [w7 y 0x32 (e3 d.code a.code 0)]
  | .redF32 y d a => [w7 y 0x6A (e3 d.code a.code 0)]
  | .redI32 y d a => [w7 y 0x6B (e3 d.code a.code 0)]
  | .scanF32 y d a => [w7 y 0x6C (e3 d.code a.code 0)]
  | .funaF32 y d a o => [w7 y 0x2E (e3 d.code a.code o.code)]
  | .mov y d a => [w7 y 0x66 (e3 d.code a.code 0)]
  | .movMasked y d a m => [w7 y 0x66 (e3 d.code a.code (8 + m.val))]
  | .bcst y d a c => [w7 y 0x67 (e3 d.code a.code c.val)]
  | .rot y d a c => [w7 y 0x69 (e3 d.code a.code c.val)]
  | .cvt y d a o => [w7 y 0x6D (e3 d.code a.code o.code)]
  | .qmax y l a => [w7 y 0x6E (e3 l.val a.code 0)]
  | .qcvt y d a l => [w7 y 0x6F (e3 d.code a.code l.val)]
  | .deq y d a l => [w7 y 0x70 (e3 d.code a.code l.val)]
  | .zld y d n x => [w7 y 0x71 (d.code * 2 ^ 14 + n.val * 2 ^ 10 + x.val)]
  | .zst y d n x => [w7 y 0x72 (d.code * 2 ^ 14 + n.val * 2 ^ 10 + x.val)]
  | .mset y d f c => [w7 y 0x73 (d.val * 2 ^ 14 + f.val * 2 ^ 7 + c.val)]
  | .mlog y o d a b => [w7 y 0x74 (e3 (o.code * 8 + d.val) a.val b.val)]
  | .zli y d m => [w7 y 0x75 (d.code * 2 ^ 14 + m.toNat)]
  | .lse y => [w7 y 0x76 0]
  | .lsr y => [w7 y 0x77 0]
  | .mma y c a b l u v => [w7 y 0x78 (em c.val a.val b.val l.val (u.toNat * 2 + v.toNat))]
  | .mmaz y c a b l u v => [w7 y 0x79 (em c.val a.val b.val l.val (u.toNat * 2 + v.toNat))]
  | .mmov y c a l => [w7 y 0x7A (em c.val a.val 0 l.val 0)]
  | .mclr y c => [w7 y 0x7B (em c.val 0 0 0 0)]
  | .dset y a b => [w7 y 0x7C (em 0 a.val b.val 0 0)]
  | .fmtset y a b => [w7 y 0x7D (em 0 a.val b.val 0 0)]
  | .fmtsetFbase y b => [w7 y 0x7D (em 0 0 b.val 0 1)]
  | .xlatWalkComplete _ _ => []
  | .ldsDataReturn _ _ _ => []
  | .stsAccepted _ _ _ => []
  | .wadrWake _ _ => []
  | .ldstWordComplete _ _ _ => []
  | .heldCompletionPost _ _ _ => []
  | .engineCommandStart _ _ => []
  | .copyCommandComplete _ _ => []
  | .gatherCommandComplete _ _ => []
  | .exResultLands _ => []
  | .leaseGrant _ => []
  | .settOperandsRead _ => []
  | .settCommandFinish _ => []
  | .bankCommandComplete _ _ => []
  | .bkredContribution _ _ => []
  | .warrenCommandPerformed _ _ => []
  | .xallStart _ _ => []
  | .xallComplete _ _ => []
  | .fputComplete _ _ => []
  | .fgetComplete _ _ => []
  | .famoComplete _ _ => []
  | .fredComplete _ _ => []
  | .fbarStart _ _ => []
  | .fbarComplete _ _ => []
  | .trapTaken _ => []
  | .stallBudget _ _ _ => []
  | .uncorrectableErrorConsumed _ _ _ _ => []
  | .machineCheckCoreClear _ => []
  | .phaseReplay _ => []
  | .tileRunRetire _ => []
  | .launchComplete _ => []
  | .tileRunDispatch _ => []
  | .shadowBankFill _ => []
  | .operatorPinning _ => []
  | .shadowBankSwap _ => []
  | .ecallRecordAccepted _ => []
  | .completionRecordWrite _ => []
  | .holdoffTimerExpiry _ => []
  | .doorbellTail _ _ _ => []
  | .completionHead _ _ _ => []
  | .packetNop _ => []
  | .launch _ => []
  | .push _ => []
  | .signal _ => []
  | .timerTick => []
  | .rlogRd _ _ => []
  | .preqRd _ _ => []
  | .presp _ _ => []
  | .evRd _ => []
  | .evBase _ => []
  | .eventRecordWrite => []
  | .registerWrite _ _ _ _ => []
  | .configureQueue => []
  | .setRoot => []
  | .flushAsid => []
  | .revoke => []
  | .quiesced _ => []
  | .resume => []
  | .preemptNode => []
  | .preemptForced => []
  | .holdReachesCore _ => []
  | .preempted _ => []
  | .restore => []
  | .restored _ => []
  | .setPartition => []
  | .setPartitionRemove => []
  | .setCommons => []
  | .setWarren => []
  | .setFabricGeometry => []
  | .setFabricGroup => []
  | .setFabricLink => []
  | .readScree => []
  | .screeRelease => []
  | .readHealth => []
  | .setPowerCap => []
  | .recoveryCommit => []
  | .flitReceive _ _ _ _ _ => []
  | .nakReceive _ _ _ => []
  | .lossOfLock _ _ => []
  | .laneFailure _ _ _ => []
  | .retrainComplete _ _ => []
  | .retrainTimeout _ _ => []
  | .linkStateUpdate => []
  | .pathSilenceExpiry _ _ => []
  | .keyControl _ _ _ => []
  | .keyLow _ _ => []
  | .keyExhausted _ _ => []
  | .keyExhaustionTimeout _ _ => []
  | .fabricRead _ _ => []
  | .fabricWrite _ _ => []
  | .fabricAtomic _ _ => []
  | .fabricBankUpdate _ _ => []
  | .windowRead _ _ => []
  | .windowWrite _ _ => []
  | .ready _ _ => []
  | .xallPiece _ _ => []
  | .fredContribution _ _ => []
  | .fbarArrival _ _ => []
  | .response _ _ => []
  | .hostMemRead _ _ => []
  | .hostMemWrite _ _ => []
  | .flrVf _ => []
  | .flrPf => []
  | .powerGood => []
  | .coldReset => []
  | .oamResetPin => []
  | .watchdogReport _ => []
  | .watchdogExpiry _ => []
  | .stageReady _ => []
  | .stageTimeout => []
  | .getMeasurements => []
  | .correctedError _ => []
  | .errorWindowEnd => []
  | .patrolScrub _ _ _ => []
  | .railAdjust _ _ => []
  | .thermalThrottle _ _ => []
  | .powerCapReached _ => []
  | .thermalTrip _ _ => []
  | .unknownPacketType _ => []
  | .msixVectorUnmask _ _ => []
  | .hostWriteInvalidation _ _ => []

end Sys2Proof
end

