-- ==== Sys2Proof/Config.lean ====
section
/-! DEFINITION. What is fixed for the machine (R2, R9, R199, R354) and the free values: constants without a body for what the manual
leaves open, applied to a counter of the state or to the bytes concerned. -/

namespace Sys2Proof

/-- What the machine does next: a sequencer (of CTL, a context) takes one turn at its next word, or a step of another agent falls. -/
inductive Turn where
  | issue (core : CoreId) (q : Seq) (x : Fin 4)
  | event (e : Instr)
deriving DecidableEq, Repr

namespace Config

/-- The turn an agent takes where the agenda names none; none: no agent moves in this step. Which agent moves, and what the outside
world presents, is left open (R28, R100, R347). DESIGN CHOICE, notes/assumptions/1.md. -/
opaque freeTurn : Nat → Option Turn

/-- A free number for each value of the counter `State.draws`; notes/assumptions/3.md. -/
opaque freeNat : Nat → Nat

/-- A free 64-bit value for each value of the counter `State.draws`; notes/assumptions/3.md. -/
opaque freeWord : Nat → W64

/-- A free byte for each value of the counter `State.draws` and each place; notes/assumptions/3.md. -/
opaque freeByte : Nat → Nat → Byte

/-- SHAKE256 with 64 bytes of output (R2, R362): an uninterpreted function of the bytes; notes/assumptions/14.md. -/
opaque shake256 : List Byte → BitVec 512

/-- The Ed448 signature (second list) over the bytes of the first list verifies under the firmware key (R362); notes/assumptions/14.md. -/
opaque ed448Ok : List Byte → List Byte → Bool

/-- The AES-256-GCM tag of a save area under the partition key (R342): an uninterpreted function of the bytes; notes/assumptions/14.md. -/
opaque gcmTag : Nat → List Byte → BitVec 128

/-- AES-256-GCM on a link (R303), uninterpreted, by the number of the link direction, whose key it stands for, and the IV: the 224 bytes of
ciphertext of a plaintext, the tag of additional data and ciphertext, and the plaintext of a ciphertext; notes/assumptions/14.md. -/
opaque linkCipher : Nat → BitVec 96 → List Byte → BitVec 1792
opaque linkTag : Nat → BitVec 96 → List Byte → BitVec 128
opaque linkPlain : Nat → BitVec 96 → List Byte → BitVec 1792

/-- The signature of a list of bytes under the package's Ed448 identity key (R363); notes/assumptions/14.md. -/
opaque identitySign : List Byte → List Byte

/-- The fused threshold, in mV, below which the L2 uses DEC-TED, about 620 (R280, R373); notes/assumptions/14.md. -/
opaque l2Threshold : Nat

/-- Budget of an entry that the wait-budget table does not hold (R151). -/
def budgetDefault : BitVec 24 := 0xFFFFFF

/-- Entries of a pin table (R135). -/
def pinEntries : Nat := 1024

/-- Runs an extent may have (R132). -/
def maxRuns : Nat := 64

/-- Bytes of an operator record (R334). -/
def recordBytes : Nat := 1024

/-- First and last byte of HBM (R354). -/
def hbmBase : Nat := 0x008000000000
def hbmEnd : Nat := 0x00FFFFFFFFFF

/-- First and last byte of the second tier (R354). -/
def tier2Base : Nat := 0x010000000000
def tier2End : Nat := 0x01FFFFFFFFFF

/-- First and last byte of the Commons range (R279). -/
def commonsBase : Nat := 0xF000000000000
def commonsEnd : Nat := 0xF00000FFFFFFF

/-- Bytes of the unified array, and of one slab (R199). -/
def slabBytes : Nat := 8192
def slabs : Nat := 40

end Config

end Sys2Proof
end

