-- ==== Sys2Proof/Machine/State.lean ====
section
/-! DEFINITION. The state of the package: every register, counter, queue, table, cache and engine of the spec, as plain data, and the
machine right after a cold reset (`State.reset`). -/

namespace Sys2Proof.Machine

/-- Why the machine stops. -/
inductive Fault where
  /-- Raised by `execHostMemRead` and `execHostMemWrite` at a device physical address past 3 × 2^39 - 1, which CXL.mem does not expose
  (R355). Safe: the machine stops where no byte exists. -/
  | noSuchDpa
  /-- Raised by the front end where a packet, a completion record or an operator record lies at a device address outside the rows of R354
  (`State.packetTurn`, `execCompletionRecordWrite`, `execShadowBankFill`). Safe: the machine stops where no byte
  exists. -/
  | noSuchRing
deriving DecidableEq, Repr

/-- Why an instruction has no meaning. -/
inductive Refusal where
  /-- Raised by an arm of `exec` that has no meaning yet. Safe: the machine stops. -/
  | notModelled (mnemonic : String)
deriving DecidableEq, Repr

/-- Bytes by address in canonical form: addresses strictly rising, no entry equal to what an unlisted address reads as. -/
abbrev Bytes := List Host.Cell

/-! ## What every instruction stream has (R107, R109, R117, R147, R148, R155, R211, R226) -/

/-- A segment (R155). `obsCrc` is the signature state before the final exclusive-or (R156). -/
structure Seg where
  isOpen : Bool
  expCount : BitVec 16
  expCrc : W32
  obsCount : W32
  obsCrc : W32
deriving DecidableEq, Repr

/-- A delivered cause that waits for the stream's next instruction boundary, with the PC of its word (R107, R213). -/
structure Due where
  cause : BitVec 8
  pc : W32
deriving DecidableEq, Repr

/-- Program flow of a CTL context, LD, EX or ST. `wait` is the code of the blocking wait that holds the next word (R117), `posted` says
that the next word's ring bits have acted already (R41), `atPhase` that the stream stands at its `phase` (R154). -/
structure Flow where
  pc : W32
  p : BitVec 8
  bt : File W32 4
  lc : File W32 4
  bound : File (Option (Fin 8)) 4
  budget : BitVec 24
  stall : Nat
  wait : Option Nat
  halted : Bool
  posted : Bool
  atPhase : Option Ring
  seg : Seg
  interval : BitVec 16
  due : List Due
deriving DecidableEq, Repr

/-! ## CTL (R109 to R116) -/

/-- Where a pending result goes: nowhere, s1 to s7 of a context, s1 to s7 of c0 and of the hidden bank (R120), those of the hidden bank alone, a
cell of the window file (R111, R145, R187). -/
inductive Dest where
  | none
  | glob (x : Fin 4) (r : Fin 7)
  | bank (r : Fin 7)
  | saved (r : Fin 7)
  | cell (n : Fin 512)
deriving DecidableEq, Repr

/-- What an outstanding access of a context does to the bytes it reads (R186, R188). -/
inductive LoadOp where
  | load (signed : Bool)
  | amo (o : AmoOp) (b : W64) (c : Scope)
  | cas (b n : W64) (c : Scope)
deriving DecidableEq, Repr

/-- A load or atomic awaiting data (R187); `gone` says that its tail has ended. -/
structure CtlLoad where
  uid : Nat
  pc : W32
  dest : Dest
  tok : W64
  off : Nat
  size : Nat
  op : LoadOp
  gone : Bool
deriving DecidableEq, Repr

/-- A store not yet accepted (R187); `gone` as above. -/
structure CtlStore where
  uid : Nat
  pc : W32
  tok : W64
  off : Nat
  size : Nat
  data : W64
  gone : Bool
deriving DecidableEq, Repr

/-- Results of Warren and `famo` commands a context or ST still waits for (R292, R314). `banked` says that the predicate belongs to the
hidden bank as well (R120). -/
structure ResPend where
  uid : Nat
  d1 : Dest
  d2 : Dest
  pred : Option (Fin 8)
  banked : Bool
deriving DecidableEq, Repr

/-- An `xlat` or `xlat.r` that holds its context (R41). `req` is the page request it waits on, `bypass` the page whose walk starts at the
root (R133), `away` says that it waits on a page request at the host of another package (R138). -/
structure PendXlat where
  t : Fin 16
  base : Nat
  len : Nat
  r : Bool
  w : Bool
  die : Option (Fin 64)
  pc : W32
  req : Option (BitVec 16)
  bypass : Option Nat
  refused : Bool
  words : List Nat
  away : Bool
deriving DecidableEq, Repr

/-- A waiting `wadr` (R192): its access, whether its first read has been counted, and whether it is to read again. -/
structure Wadr where
  uid : Nat
  tok : W64
  off : Nat
  counted : Bool
  awake : Bool
deriving DecidableEq, Repr

/-- The link that `call` leaves for `enter` (R112, R167): the return PC and the caller's window base, absent for a context without frame. -/
structure CallLink where
  retPc : W32
  base : Option (Fin 512)
  handler : Bool
deriving DecidableEq, Repr

/-- What a degraded `relc` snapshots (R115). -/
structure Degraded where
  s : File W64 7
  p : BitVec 8
  bt : File W32 4
  lc : File W32 4
  bound : File (Option (Fin 8)) 4
deriving DecidableEq, Repr

/-- Whether a context is a tail (R114, R115). -/
inductive TailMode where
  | no
  | tail
  | degraded (d : Degraded)
deriving DecidableEq, Repr

/-- A CTL context (R109, R110). `fix` is the work fixed by a waiting `fence.all` (R191), `acc` the access of a `rel` or `acq` that holds
it, with its token (R190), `ties` the token indices and generations whose writes a held `rel` covers (R184, R197), `born` the first work item
a tail may have made (R114). -/
structure Ctx where
  live : Bool
  flow : Flow
  s : File W64 7
  latch : Bool
  link : Option CallLink
  mode : TailMode
  xl : Option PendXlat
  wadr : Option Wadr
  loads : List CtlLoad
  stores : List CtlStore
  res : List ResPend
  fix : Option Nat
  acc : Option (Nat × W64)
  ties : Option (List (Nat × Nat))
  born : Nat
deriving DecidableEq, Repr

/-- A frame of the window file with its hidden cells (R111, R112). `owner` is the context that runs or will run it; `ended` marks the
frame of a tail that has issued `tend`; `spilled` holds its cells while they stand in the spill region; `entry` marks the entry frame of
the trap handler (R175). -/
structure Frame where
  base : Fin 512
  size : Nat
  retPc : W32
  caller : Option (Fin 512)
  owner : Fin 4
  ended : Bool
  spilled : Option (List W64)
  entry : Bool
deriving DecidableEq, Repr

/-- A binding of a token register (R184). -/
structure Binding where
  index : BitVec 10
  objTok : W64
  objOff : W64
deriving DecidableEq, Repr

/-- A window on a remote scratchpad (R195, R196): its target die, cluster and core, its allowance, and the units of posted writes that
are outstanding. -/
inductive Window where
  | closed
  | dead
  | opened (die : Fin 64) (cluster : Fin 4) (core : Fin 64) (allowance : Nat)
deriving DecidableEq, Repr

/-- Named control registers (R62, R122, R124, R289, R310). The ones that follow from other state have no field here. -/
structure Cregs where
  fpmode : BitVec 2
  fpflags : BitVec 7
  ooxCount : W32
  ooxTrap : Bool
  staleCount : W32
  trapCause : BitVec 8
  trapPc : W32
  trapInfo : W64
  trapVec : W32
  trapResume : W32
  genno : BitVec 16
  marks : W32
  raceMode : Bool
  pinBase : BitVec 52
  asid : BitVec 11
  xlatFva : W64
  tokPend : BitVec 2
  l2Err : W32
  fabErr : W32
deriving DecidableEq, Repr

/-- The hidden bank of handler mode and the stream that trapped (R120, R167); `posted`, `halted`, `fix`, `acc` and `ties` are those of c0 (R25,
R41, R190, R191). -/
structure Handler where
  s : File W64 7
  p : BitVec 8
  link : Option CallLink
  posted : Bool
  halted : Bool
  fix : Option Nat
  acc : Option (Nat × W64)
  ties : Option (List (Nat × Nat))
  q : Seq
  x : Fin 4
deriving DecidableEq, Repr

/-- A trap raised (R119 to R121). -/
structure Trap where
  cause : BitVec 8
  q : Seq
  x : Fin 4
  pc : W32
  resume : W32
  info : W64
deriving DecidableEq, Repr

/-! ## LD, ST and EX (R211, R226) -/

/-- What an outstanding memory word of LD or ST does (R217 to R222). `eng` is the word of an engine command: it completes with its mark. -/
inductive LsOp where
  | ldq (q : Fin 16) (slot : Nat)
  | stq (v : Line)
  | strel (c : Scope) (v : Line)
  | upd (o : UpdOp) (t : Ty) (v : Line)
  | eng (cmd : Nat)
deriving DecidableEq, Repr

/-- A memory word of LD or ST that has not posted yet (R212, R213). -/
structure LsPend where
  uid : Nat
  pc : W32
  sb : Bool
  sa : Bool
  tok : W64
  off : Nat
  op : LsOp
  done : Bool
deriving DecidableEq, Repr

/-- LD or ST (R211), with its loop-index registers ix1 to ix6 (R22). `heldSb` and `heldSa` are completion posts held at a full counter
(R13). -/
structure LSeq where
  flow : Flow
  a : File W64 16
  ix : File W64 6
  pend : List LsPend
  heldSb : Bool
  heldSa : Bool
  res : List ResPend
deriving DecidableEq, Repr

/-- A slot of a stream register: bound, or full with its line (R205); `seen` is the replacement up to which the line carries order
(R93, R179). -/
structure StreamSlot where
  uid : Nat
  data : Option Line
  seen : Nat
deriving DecidableEq, Repr

/-- Where an EX result lands (R230, R233). `spad` is the scratchpad write of `zst`, by its distance from the start of the core's own
scratchpad in local space. -/
inductive ExDest where
  | z (o : Opnd) (zb : Fin 16)
  | stream (q : Fin 16) (slot : Nat)
  | mask (n : Fin 8)
  | sc
  | dsc (n : Fin 16)
  | fmt (n : Fin 16)
  | fbase
  | spad (a : Nat)
deriving DecidableEq, Repr

/-- A result in flight, or in a landing slot: the EX cycle, or the remaining count, at whose end it lands (R229 to R233). `oox` is set for
a `zst` with bytes out of extent: its PC, and whether OUT_OF_EXTENT is due (R43, R203). `zb` is `zbase` at the word's issue (R233). -/
structure InFlight where
  uid : Nat
  land : Nat
  dest : ExDest
  zb : Fin 16
  lanes : W64
  flags : BitVec 7
  value : Line
  oox : Option (W32 × Bool)
deriving DecidableEq, Repr

/-- EX (R226), with its loop-index registers ix1 to ix6 (R22). -/
structure Ex where
  flow : Flow
  ix : File W64 6
  z : File W64 1024
  zbase : Fin 16
  fbase : BitVec 4
  lm : File W64 8
  b : File W64 8
  dsc : File W64 16
  fmt : File W32 16
  sc : File (BitVec 16) 4
  cycle : Nat
  flight : List InFlight
  slots : File (Option InFlight) 16
deriving DecidableEq, Repr

/-! ## Engines (R19, R206, R222, R236, R282, R292, R312) -/

/-- A run of an extent (R132). -/
structure Run where
  pa : Nat
  len : Nat
  ty : Fin 4
  ns : Bool
deriving DecidableEq, Repr

/-- The operands of an engine command as read at issue. -/
inductive CmdBody where
  | copy (toMem : Bool) (tok : W64) (off : W64) (loc : W64) (shape : W64) (f : Nat)
  | gather (toMem : Bool) (tok : W64) (off : W64) (loc : W64) (count : W64) (wide : Bool) (esz : Nat)
  | bank (o : BkOp) (t : Ty) (fetch : Bool) (tok : W64) (off : W64) (src v : W64)
  | reduce (t u : Ty) (tok : W64) (off : W64) (src v : W64)
  | push (q : Fin 64) (key payload : W64)
  | pop (q : Fin 64)
  | peek (q : Fin 64)
  | xall (tok : W64) (off : W64) (src : W64) (loc : W64) (srcOff : W64) (g : Fin 64)
  | fred (t u : Ty) (tok : W64) (off : W64) (src : W64) (g : Fin 64)
  | fput (tok : W64) (off : W64) (loc : W64) (n : W64)
  | fget (tok : W64) (off : W64) (loc : W64) (n : W64)
  | famo (o : FamoOp) (c : Scope) (wide : Bool) (tok : W64) (off : W64) (a b : W64)
  | fbar (g : Fin 64)
  | mma (clear : Bool) (acc : Nat) (pa pa' pb pb' : W64) (at' bt' : Bool) (fmt : W32)
  | mmov (acc : Nat) (pd pd' : W64) (fmt : W32)
  | mclr (acc : Nat)
deriving DecidableEq, Repr

/-- An engine or Sett command with what it carries from its issue (R20, R21). `marked` says that its mark is complete; `stage` counts its
progress, `opA`, `opB` hold bytes read, `wins` is its view of the windows (R196), `parts` the parts of its destination that have been
contributed or acknowledged, `flags` what it is to be charged with (bit 0 out of extent, 1 stale, 2 lost, 3 failed, 4 race), `bad` the
poisoned sector it met. -/
structure Cmd where
  uid : Nat
  core : CoreId
  q : Seq
  x : Fin 4
  pc : W32
  gen : BitVec 16
  mark : Option (Fin 32)
  waits : Waits
  started : Bool
  marked : Bool
  stage : Nat
  opA : List Byte
  opB : List Byte
  wins : File Window 16
  parts : List (Nat × Bool)
  flags : Nat
  bad : Option Nat
  body : CmdBody
deriving DecidableEq, Repr

/-- An entry of a copy log: the operands of a copy or gather command and the parities at its issue (R208). -/
structure LogEntry where
  body : CmdBody
  parity : BitVec 4
deriving DecidableEq, Repr

/-- The snapshot of a committed phase (R208). -/
structure Snapshot where
  ctl : Flow
  ld : Flow
  exf : Flow
  st : Flow
  la : File W64 16
  sa : File W64 16
  s : File W64 7
  cells : File W64 512
  frames : List Frame
  ex : Ex
  rings : File (Fin 64) 8
deriving DecidableEq, Repr

/-- State of a line of the L1 (R199, R204). An update-only line holds, per present element (named by its first
byte within the line), its contributions. -/
inductive L1State where
  | clean
  | dirty
  | update (o : UpdOp) (t : Ty) (e : List (Nat × List W32))
deriving DecidableEq, Repr

/-- A line of the L1 by line number, with the sectors it holds and the slab (way) it stands in (R199); the list of a core's lines runs from
the most to the least recently used. -/
structure L1Line where
  line : Nat
  secs : BitVec 4
  st : L1State
  slab : Nat
deriving DecidableEq, Repr

/-! ## Operators and tile runs (R22, R334) -/

/-- A loop level of an operator record: kind 0 undeclared, 1 T, 2 C, 3 D (R334). -/
structure Level where
  extent : Nat
  kind : Nat
  rotate : Nat
deriving DecidableEq, Repr

/-- An operator record as read (R334), after any replacement of extents made at launch. -/
structure OpRec where
  spad : Nat
  dep : Bool
  spill : Nat
  frame : Nat
  wq : Fin 64
  resident : Bool
  asid : BitVec 11
  pinbase : BitVec 52
  tvec : W32
  nphase : Nat
  allot : Nat
  code : List (Nat × Nat)
  levels : List Level
  budgets : List (BitVec 24)
  fmt : List W32
  phases : List (Nat × Nat)
  toks : List (Option (Nat × Nat × Bool × Bool))
deriving DecidableEq, Repr

/-- A tile run on a core: its operator, the launch it belongs to, its place in the enumeration, its code pins and tokens. -/
structure TileRun where
  op : OpRec
  addr : Nat
  queue : Fin 4096
  launch : Nat
  packet : W32
  tag : W32
  record : Nat
  ordinal : Nat
  ix : List Nat
  code : List (List Run)
  toks : List W64
deriving DecidableEq, Repr

/-- Whether a core is free, runs its tile run, runs a trap handler, winds down an ended tile run, stands at a machine check, or cancels a
phase (R24, R120, R209, R339, R345). -/
inductive CoreMode where
  | free
  | running
  | handler
  | ended
  | checked
  | cancelled
deriving DecidableEq, Repr

/-- A completion or event record (R328, R352), with the queue it belongs to. -/
structure Rec where
  w : File W64 8
deriving DecidableEq, Repr

/-- Phases of a core (R207 to R209). -/
structure Phases where
  parity : BitVec 4
  snap : Option Snapshot
  commits : Nat
  recoverable : Bool
  cancels : Nat
  inLog : List LogEntry
  copyLog : List LogEntry
  overflow : Bool
deriving DecidableEq, Repr

/-- A posted write through a window that has not yet been written remotely and answered (R196), with the command that made it; `counted` and
`charged` say that the command has been charged for out-of-extent bytes, and for a failed part, already (R213, R309). -/
structure Posted where
  uid : Nat
  win : Fin 16
  units : Nat
  cmd : Nat
  q : Seq
  x : Fin 4
  pc : W32
  counted : Bool
  charged : Bool
deriving DecidableEq, Repr

/-- A shadow bank (R337): the operator it holds, of which launch and which record. -/
structure Shadow where
  queue : Fin 4096
  launch : Nat
  record : Nat
  op : OpRec
deriving DecidableEq, Repr

/-- A value that CTL has replaced (R73, R177, R179, R196). -/
inductive Old where
  | fpmode (v : BitVec 2)
  | ooxTrap (v : Bool)
  | raceMode (v : Bool)
  | k (n : Fin 16) (v : W64)
  | win (n : Fin 16) (w : Window)
deriving DecidableEq, Repr

/-- What LD, EX and ST may still see of replaced values (R73, R177, R179, R196). `now` counts the replacements made so far, `vals` holds each
replaced value with the number of its replacement; `rings`, `vq` and `oq` give, for each standing ring token, value-queue entry and
branch-outcome entry, the replacement up to which it carries order (R93), the oldest first; `sync` gives the replacement up to which LD, EX
and ST (0, 1, 2) are ordered. -/
structure Prior where
  now : Nat
  vals : List (Nat × Old)
  rings : File (List Nat) 8
  vq : File (List Nat) 3
  oq : File (List Nat) 3
  sync : File Nat 3
deriving DecidableEq, Repr

/-- A line of an instruction cache, by line number, with its 128 bytes (R11). -/
structure CodeLine where
  line : Nat
  bytes : List Byte
deriving DecidableEq, Repr

/-! ## Accesses under way (R43, R99, R102, R107, R136) -/

/-- What an access is charged with: out-of-extent bytes, stale, lost, a race due, a failed request, a poisoned sector consumed. -/
structure Acct where
  oox : Bool
  stale : Bool
  lost : Bool
  race : Bool
  failed : Bool
  poison : Option Nat
deriving DecidableEq, Repr

/-- What a pin lookup gives (R136): a stale access, a held one, an extent of local runs, or an extent of another die. -/
inductive Pin where
  | stale (lost : Bool)
  | held
  | near (len : Nat) (runs : List Run)
  | far (len : Nat) (die : Fin 64)
deriving DecidableEq, Repr

/-- An access that is under way: its work item and the number of its first piece, what its one pin lookup gave (R136; none for local
space), the pin entry it looked up, the bytes read or written so far, by their position in the access (R99, R102), the sectors that the
race detector has seen and the `race.mode` that its word sees (R107, R177), and what it is to be charged with. -/
structure Access where
  uid : Nat
  base : Nat
  pin : Option Pin
  entry : BitVec 52 × Nat
  done : List (Nat × Byte)
  secs : List Nat
  mode : Option Bool
  acct : Acct
deriving DecidableEq, Repr

/-- The rest of a core's state: reservation T and spill size (R200), phases, tile run, shadow bank, the tile run the walker has assigned,
the hold of a forced pre-emption (R341), traps and records that wait (R120, R174), the address context of the last tile run (R201),
posted window writes, whether the ended tile run has been reported (R339), the instruction caches of its four sequencers (R11), the context
that had CTL's last issue slot (R28, R110), the values that cells of the window file held earlier in the tile run (R168) and the bytes that
its spill region or a frame held (R112), the pending token cause of each sequencer (R136, R143), and the accesses under way. -/
structure CoreAux where
  resv : Nat
  spill : Nat
  phases : Phases
  run : Option TileRun
  shadow : Option Shadow
  next : Option TileRun
  hold : Bool
  trap : Option Trap
  ecall : Option Rec
  lastAsid : BitVec 11
  lastPin : BitVec 52
  posted : List Posted
  fault : Option Trap
  prior : Prior
  icache : File (List CodeLine) 4
  lastCtx : Fin 4
  past : List W64
  region : List Byte
  tok : File (BitVec 2) 4
  accs : List Access
deriving DecidableEq, Repr

/-- What a core holds for its four sequencers in common. -/
structure Core where
  mode : CoreMode
  ctx : File Ctx 4
  ld : LSeq
  ex : Ex
  st : LSeq
  cells : File W64 512
  frames : List Frame
  k : File W64 16
  binds : File (Option Binding) 16
  wins : File Window 16
  cr : Cregs
  hand : Option Handler
  rings : File (Fin 64) 8
  values : File (List W64) 3
  outcomes : File (List Bool) 3
  streams : File (List StreamSlot) 16
  spad : Bytes
  l1 : List L1Line
  cmds : List Cmd
  aux : CoreAux
deriving DecidableEq, Repr

/-! ## Setts (R17, R235 to R240) -/

/-- A Sett: lessee, commands of the lease, last lessee of the group, waiting cores, queue, and the cells of its 64 tiles that differ from
+0.0, by 8,192 × tile + 64 × row + column. -/
structure Sett where
  lessee : Option CoreId
  count : Nat
  last : Fin 12
  waiting : List CoreId
  queue : List Cmd
  cells : List (Nat × W32)
deriving DecidableEq, Repr

/-! ## Translation (R125 to R143) -/

/-- An entry of a walk cache or of the leaf cache (R131): level of the entry, page number under its key, entry as read, and the place it was
read from. -/
structure TlbEntry where
  asid : BitVec 11
  level : Fin 5
  key : Nat
  merged : Bool
  pte : W64
  place : Nat
deriving DecidableEq, Repr

/-- An entry of a pin store (R137) or of an ingress MMU (R138): the pin entry it belongs to, and its runs. -/
structure PinRuns where
  base : BitVec 52
  asid : BitVec 11
  index : BitVec 10
  gen : BitVec 12
  src : Option (Fin 64)
  state : BitVec 3
  va : Nat
  len : Nat
  runs : List Run
deriving DecidableEq, Repr

/-- A translation unit: its walk caches and leaf cache, most recently used first, and its pin store. -/
structure Tu where
  walk : List TlbEntry
  leaf : List TlbEntry
  pins : List PinRuns
deriving DecidableEq, Repr

/-- An outstanding page request (R133, R356): who waits for it. `core` none: the front end's own pin of an operator. -/
structure PageReq where
  part : Fin 16
  id : BitVec 16
  core : Option (CoreId × Fin 4)
  queue : Option (Fin 4096)
  written : Bool
  asid : BitVec 11
  va : Nat
  w : Bool
  remote : Bool
deriving DecidableEq, Repr

/-- A pin entry as GB7 has last written it, by its place: its first three words (R135), and whether a REVOKE has frozen it (R142). It tells what
software has written over an entry of a resident address context. -/
structure Pinned where
  base : BitVec 52
  index : Nat
  words : File Nat 3
  frozen : Bool
deriving DecidableEq, Repr

/-- A REVOKE (R139 to R141): the runs and the pin entries it froze, whether QUIESCED has posted, and whether RESUME has released it; it is gone
once both hold. -/
structure Revoke where
  asid : BitVec 11
  va : Nat
  len : Nat
  runs : List Run
  ents : List (BitVec 52 × Nat)
  quiesced : Bool
  released : Bool
deriving DecidableEq, Repr

/-! ## Dies: L2, Warren, fabric (R276 to R319) -/

/-- An entry of a Warren queue (R290): key, payload, and the pops performed since a pop first found it the smallest and passed it over, none
where none has (R291). -/
structure WarrenEnt where
  key : W32
  payload : W64
  passed : Option Nat
deriving DecidableEq, Repr

/-- A Warren queue (R290). -/
structure WarrenQueue where
  owner : Fin 16
  cap : Nat
  ents : List WarrenEnt
deriving DecidableEq, Repr

/-- A contribution to an ordered-slot reduction: rank, the contributing command or the request that brought it, its elements; an absent
element is empty (R287). -/
structure Contribution where
  rank : Nat
  uid : Nat
  flit : Option Flit
  elems : List (List Byte)
deriving DecidableEq, Repr

/-- An open ordered-slot reduction, by the physical start of its part (R287, R288). -/
structure Reduction where
  key : Nat
  t : Ty
  u : Ty
  parties : Nat
  count : Nat
  got : List Contribution
deriving DecidableEq, Repr

/-- A request of a source die that awaits its response (R305, R306): the work item and piece it belongs to, its record, its path. `loose`
names who is charged for it where no item waits for it any more, `watch` the party whose access the race detector watches, with its scope (R107), `ing` what the
ingress MMU's one lookup gave for its access (R136, R138). A request whose work item has ended unanswered stands under the name 0 until its
answer comes (R306, R307). -/
structure Req where
  uid : Nat
  piece : Nat
  dst : Fin 64
  vc : Fin 4
  tag : BitVec 10
  epoch : Bool
  flit : Flit
  resent : Bool
  answer : Option (List Byte)
  failed : Bool
  loose : Option (CoreId × Seq × Fin 4 × W32)
  watch : Option (CoreId × Seq × Fin 4 × Scope)
  ing : Option Pin
deriving DecidableEq, Repr

/-- An entry of a deduplication table (R306). `open_` counts the parts of a contribution that are not written or discarded yet: the answer
follows when none is left (R287). -/
structure Dedupe where
  src : Fin 64
  tag : BitVec 10
  epoch : Bool
  open_ : Nat
  result : List Byte
deriving DecidableEq, Repr

/-- A contribution to an ordered-slot reduction whose pieces have not all come yet (R287, R305): source die, core, produced mark and target
word that its pieces share, how many there are, and those that have come, by number. -/
structure Gathered where
  src : Fin 64
  core : Nat
  mark : Nat
  target : W64
  total : Nat
  pieces : List (Nat × List Byte)
deriving DecidableEq, Repr

/-- State of a link (R297, R302). -/
inductive LinkState where
  | down
  | full
  | half
  | retraining
deriving DecidableEq, Repr

/-- One direction pair of a link at a die's port (R298 to R304): sequence numbers, unacknowledged flits, flits on the wire toward this
port's neighbour, flits that wait to be sent, discards in a row, whether a NAK is out, the stop bits received and sent, flit counter, fixed word of
the key, the fixed word announced by the neighbour (R303), and whether data flits are held for key exhaustion. -/
structure Link where
  state : LinkState
  lanes32 : Bool
  txSeq : BitVec 12
  rxSeq : BitVec 12
  replay : List Flit
  wire : List Flit
  waiting : List Flit
  discards : Nat
  nakSent : Bool
  stop : BitVec 4
  txStop : BitVec 4
  keyCtr : Nat
  fixed : W32
  rxFixed : W32
  keyHeld : Bool
  keyLow : Bool
deriving DecidableEq, Repr

/-- READY records that a die has received for a group (R317): source rank and descriptor, none for an invalid one. -/
structure ReadyRec where
  g : Fin 64
  rank : Nat
  desc : List Byte
deriving DecidableEq, Repr

/-- Progress of a group's barriers on a die: arrivals made, and arrivals received per rank (R319). -/
structure BarState where
  g : Fin 64
  made : Nat
  got : List (Nat × Nat)
deriving DecidableEq, Repr

/-- A compute die beside its cores: Commons owners by way (R278), L2 error protection (R280), Warren (R290), open reductions (R287),
fabric engine queue (R312), requests and tables of the fabric (R305 to R307), contributions whose
pieces are still coming, its links, its ingress MMU (R138), the destinations toward which it is silent, each with the links of the path it had
before, and the responses it holds for them (R297), the requests of which it has performed a part (R99, R214). -/
structure Die where
  commons : List (Fin 16)
  dected : Bool
  warren : File WarrenQueue 64
  reds : List Reduction
  fabQ : List Cmd
  reqs : List Req
  tags : List (Fin 64 × BitVec 10 × Bool)
  dedupe : List Dedupe
  gathered : List Gathered
  ingress : List Flit
  links : File Link 6
  ready : List ReadyRec
  bars : List BarState
  pins : List PinRuns
  silent : List (Fin 64 × List (Fin 64 × Port))
  replies : List Flit
  serving : List (Flit × Access)
deriving DecidableEq, Repr

/-- A fabric group (R311). -/
structure Group where
  owner : Fin 16
  parties : List (Fin 64)
deriving DecidableEq, Repr

/-- The fabric as every die of the package knows it: whether its geometry has been set, extents, place, link-state table (die address, port), what
the management interface has been told of links of other packages and the routers' tables do not show yet, groups (R295, R297, R311). -/
structure Fabric where
  fixed : Bool
  ex : Nat
  ey : Nat
  ez : Nat
  pa : Nat
  pb : Nat
  pz : Nat
  up : List (Fin 64 × Port)
  told : List (Fin 64 × Port)
  groups : File (Option Group) 64
deriving DecidableEq, Repr

/-! ## Front end (R324 to R346) -/

/-- An operator of a launch: its record, how many of its four code extents and sixteen tokens have been pinned or passed (R335), the page
whose walk starts at the root and whether the host has refused it (R133), its code pins and tokens, and the tile runs it has in all, those
dispatched and those retired or ended. -/
structure OpStat where
  record : Nat
  op : OpRec
  pins : Nat
  bypass : Option Nat
  refused : Bool
  code : List (List Run)
  toks : List W64
  total : Nat
  dispatched : Nat
  retired : Nat
deriving DecidableEq, Repr

/-- A packet taken into a queue's dispatch state (R325 to R327). `next` is the next record of a LAUNCH's chain, `ops` its operators that
have not retired, `aborted` says that the chain ends before its last record (R336), `stopped` that none of its operators dispatches any more
(R339). -/
structure Packet where
  uid : Nat
  n : W32
  words : File W64 8
  started : Bool
  next : Nat
  ops : List OpStat
  aborted : Bool
  stopped : Bool
deriving DecidableEq, Repr

/-- A configured command queue (R324, R325, R330 to R332), with its doorbell page. -/
structure Queue where
  num : Fin 4096
  part : Fin 16
  page : Nat
  host : Bool
  ring : Nat
  lsize : Nat
  period : Nat
  budget : Nat
  cring : Nat
  clsize : Nat
  vector : Nat
  holdoff : Nat
  thresh : Nat
  tail : W32
  head : W32
  chead : W32
  ctail : W32
  srv : Int × Int
  ready : Bool
deriving DecidableEq, Repr

/-- The moving parts of a queue: packets in progress, records that wait, records unreported and the time of the oldest (R325, R330). -/
structure QueueWork where
  packets : List Packet
  waiting : List Rec
  unreported : Nat
  oldest : Nat
deriving DecidableEq, Repr

/-- Where a partition stands in a pre-emption (R340 to R344). -/
inductive PreState where
  | none
  | node
  | forced
  | saved
  | restoring
deriving DecidableEq, Repr

/-- A partition: its clusters, ranges and settings (R346), its page (R350), its pre-emption with the time of its PREEMPT. -/
structure Part where
  clusters : BitVec 16
  ranges : List (Nat × Nat)
  raceBase : Nat
  raceK : Nat
  racePolicy : Bool
  raceMode : Bool
  watch : Bool
  saveBase : Nat
  preqBase : Nat
  rlogWr : W32
  rlogRd : W32
  preqWr : W32
  preqRd : W32
  pre : PreState
  preStart : Nat
  seqno : Nat
  rr : Nat
  nextId : BitVec 16
deriving DecidableEq, Repr

/-- A partition's context in a save area (R342, R343): clusters and groups of the partition at the save, its cores, their Sett commands and
accumulator cells, their fabric commands. The image is what was written, by place, so that an altered area is found (R344). -/
structure Saved where
  part : Fin 16
  clusters : BitVec 16
  groups : List (Fin 64 × Group)
  cores : List (CoreId × Core)
  sett : List (Fin 64 × Cmd)
  cells : List (Fin 64 × Nat × W32)
  fab : List (Fin 4 × Cmd)
  image : List (Nat × List Byte)
deriving DecidableEq, Repr

/-- Shadow state of the race detector for a sector (R107). -/
structure Shade where
  sector : Nat
  id : BitVec 12
  die : Fin 4
  interval : BitVec 16
  scope : Scope
  atomic : Bool
deriving DecidableEq, Repr

/-! ## Host interface, firmware, reliability, power (R347 to R378) -/

/-- The mailbox (R352), with the code of the command that runs while it is busy, and its event ring. -/
structure Mailbox where
  payload : Bytes
  cmd : BitVec 16
  detail : BitVec 16
  overrun : Bool
  error : Bool
  busy : Bool
  evWr : W32
  evRd : W32
  evBase : W64
  events : List Rec
deriving DecidableEq, Repr

/-- MSI-X: vectors masked, held and sent, by function (16 is the PF) (R330, R347). -/
structure Msix where
  masked : List (Fin 17 × Nat)
  held : List (Fin 17 × Nat)
  sent : List (Fin 17 × Nat)
deriving DecidableEq, Repr

/-- A copy of Scree (R367, R368): records from the newest to the oldest, write count, drop count. -/
structure ScreeCopy where
  recs : List (W64 × W64)
  count : W32
  dropped : W32
deriving DecidableEq, Repr

/-- Where Brock stands (R363, R364, R375): off; booting image n of a slot; running from a slot; in recovery mode. -/
inductive Boot where
  | off
  | booting (slot : Bool) (image : Fin 4)
  | running (slot : Bool)
  | recovery
deriving DecidableEq, Repr

/-- Brock (R362 to R366): flash slots as images (header and payload as stored), fused minimum svn, boot stage, measurement log, slots
failed in this boot, dies that reported ready, processors released with the time of their last report or release, the staging window of a
recovery image, when the booting stage was released, the last SPDM answer and its signature. -/
structure Brock where
  flash : List (List (List Byte))
  minSvn : BitVec 16
  boot : Boot
  log : List (BitVec 512)
  failed : BitVec 2
  dieReady : BitVec 4
  released : List (Proc × BitVec 48)
  staging : Bytes
  stageAt : BitVec 48
  spdm : List (BitVec 512)
  spdmSig : List Byte
deriving DecidableEq, Repr

/-- Errors (R369, R370): corrected counts of the window, windows in which an instance gained a strike, the window's number, sectors that
returned an uncorrectable error, REPLACE and its reasons, rails held at nominal. -/
structure Errors where
  counts : List (ErrInst × Nat)
  strikes : List (ErrInst × Nat)
  window : Nat
  bad : List Nat
  replace : Bool
  why : BitVec 3
  floors : BitVec 8
deriving DecidableEq, Repr

/-- Power and temperature (R371 to R374); `lowering` holds the target of a rail that the governor is lowering, VCORE of the four dies, then
VSRAM. -/
structure Power where
  vcore : File Nat 4
  vsram : File Nat 4
  lowering : File (Option Nat) 8
  temps : File (BitVec 16) 13
  watts : BitVec 16
  cap : BitVec 16
  gated : Bool
  tripped : Bool
deriving DecidableEq, Repr

/-- The unit whose word is executed (the model's own; notes/assumptions/1.md). -/
structure Unit' where
  core : CoreId
  q : Seq
  x : Fin 4
deriving DecidableEq, Repr

/-- Who performs an atomic: a work item of a core at a first piece or element, or a request that a die has taken. -/
inductive Owner where
  | item (c : CoreId) (uid base : Nat)
  | req (d : Fin 4) (f : Flit)
deriving DecidableEq, Repr

/-- An atomic whose read is made and whose write is not yet (R189, R354): its owner, its place, the bytes it has read, and whether RACE is due for
it. -/
structure Half where
  owner : Owner
  key : Nat
  old : List Byte
  race : Bool
deriving DecidableEq, Repr

/-- The hub's own state. `pinned` records pin entries as GB7 wrote them, `walked` the pages that the host has answered for a re-walk, whose
next walk bypasses the caches (R133), `halves` the atomics between their read and their write. -/
structure Hub where
  parts : File (Option Part) 16
  queues : List (Queue × QueueWork)
  timer : BitVec 48
  roots : List (BitVec 11 × Fin 4 × Nat)
  preqs : List PageReq
  walked : List (Fin 16 × BitVec 11 × Nat)
  pinned : List Pinned
  halves : List Half
  revokes : List Revoke
  saved : List Saved
  shades : List Shade
  mbox : Mailbox
  msix : Msix
  hostData : List Byte
  brock : Brock
  scree : File ScreeCopy 5
  frozen : Bool
  errors : Errors
  power : Power
  fab : Fabric
deriving DecidableEq, Repr

/-- The machine. `agenda` names the next turns where they are fixed; `draws` counts the free values drawn; `cur` is the unit whose word is
executed; `nextUid` names work items. -/
structure State where
  agenda : List Turn
  draws : Nat
  cur : Unit'
  nextUid : Nat
  mem : Bytes
  poison : List Nat
  cores : File Core 768
  setts : File Sett 64
  tus : File Tu 16
  dies : File Die 4
  hub : Hub
deriving DecidableEq, Repr

/-! ## Reset -/

/-- A closed segment (R155). -/
def Seg.reset : Seg := ⟨false, 0, 0, 0, 0⟩

/-- A stream at the start of a tile run, all its registers 0 (R109, R211). -/
def Flow.reset : Flow :=
  { pc := 0, p := 0, bt := File.all 4 0, lc := File.all 4 0, bound := File.all 4 none, budget := 0, stall := 0, wait := none,
    halted := false, posted := false, atPhase := none, seg := Seg.reset, interval := 0, due := [] }

/-- A context that does not exist (R109). -/
def Ctx.reset : Ctx :=
  { live := false, flow := Flow.reset, s := File.all 7 0, latch := false, link := none, mode := .no, xl := none, wadr := none,
    loads := [], stores := [], res := [], fix := none, acc := none, ties := none, born := 0 }

/-- LD or ST at the start of a tile run (R211). -/
def LSeq.reset : LSeq := { flow := Flow.reset, a := File.all 16 0, ix := File.all 6 0, pend := [], heldSb := false, heldSa := false, res := [] }

/-- EX at the start of a tile run but for the format table (R226). -/
def Ex.reset : Ex :=
  { flow := Flow.reset, ix := File.all 6 0, z := File.all 1024 0, zbase := 0, fbase := 0, lm := File.all 8 0, b := File.all 8 0, dsc := File.all 16 0,
    fmt := File.all 16 0, sc := File.all 4 0, cycle := 0, flight := [], slots := File.all 16 none }

/-- Control registers at reset (R62, R122, R124, R289, R310); those marked "tile run" at 0 (notes/assumptions/5.md). -/
def Cregs.reset : Cregs :=
  { fpmode := 0, fpflags := 0, ooxCount := 0, ooxTrap := false, staleCount := 0, trapCause := 0, trapPc := 0, trapInfo := 0,
    trapVec := 0, trapResume := 0, genno := 0, marks := 0xFFFFFFFF, raceMode := false, pinBase := 0, asid := 0, xlatFva := 0,
    tokPend := 0, l2Err := 0, fabErr := 0 }

/-- No phases declared (R207). -/
def Phases.reset : Phases :=
  { parity := 0, snap := none, commits := 0, recoverable := false, cancels := 0, inLog := [], copyLog := [], overflow := false }

/-- Nothing replaced. -/
def Prior.reset : Prior := ⟨0, [], File.all 8 [], File.all 3 [], File.all 3 [], File.all 3 0⟩

/-- The rest of a core at reset (R199, R337). -/
def CoreAux.reset : CoreAux :=
  { resv := 0, spill := 0, phases := Phases.reset, run := none, shadow := none, next := none, hold := false, trap := none,
    ecall := none, lastAsid := 0, lastPin := 0, posted := [], fault := none, prior := Prior.reset,
    icache := File.all 4 [], lastCtx := 3, past := [], region := [], tok := File.all 4 0, accs := [] }

/-- A core at reset: free, its L1 holding every slab with every line invalid (R199). -/
def Core.reset : Core :=
  { mode := .free, ctx := File.all 4 Ctx.reset, ld := LSeq.reset, ex := Ex.reset, st := LSeq.reset, cells := File.all 512 0,
    frames := [], k := File.all 16 0, binds := File.all 16 none, wins := File.all 16 .closed, cr := Cregs.reset, hand := none,
    rings := File.all 8 0, values := File.all 3 [], outcomes := File.all 3 [], streams := File.all 16 [], spad := [], l1 := [],
    cmds := [], aux := CoreAux.reset }

/-- A Sett at reset: no lessee, the round-robin starting after core 12g + 11 (R17). -/
def Sett.reset : Sett := { lessee := none, count := 0, last := 11, waiting := [], queue := [], cells := [] }

/-- A translation unit at reset (notes/assumptions/5.md). -/
def Tu.reset : Tu := { walk := [], leaf := [], pins := [] }

/-- A link before it is trained (R375). -/
def Link.reset : Link :=
  { state := .down, lanes32 := false, txSeq := 0, rxSeq := 0xFFF, replay := [], wire := [], waiting := [], discards := 0,
    nakSent := false, stop := 0, txStop := 0, keyCtr := 0, fixed := 0, rxFixed := 0, keyHeld := false, keyLow := false }

/-- A die at reset (notes/assumptions/5.md). -/
def Die.reset : Die :=
  { commons := [], dected := false, warren := File.all 64 ⟨0, 0, []⟩, reds := [], fabQ := [], reqs := [], tags := [], dedupe := [], gathered := [],
    ingress := [], links := File.all 6 Link.reset, ready := [], bars := [], pins := [], silent := [], replies := [], serving := [] }

/-- The fabric before SET_FABRIC (notes/assumptions/5.md). -/
def Fabric.reset : Fabric :=
  { fixed := false, ex := 2, ey := 2, ez := 1, pa := 0, pb := 0, pz := 0, up := [], told := [], groups := File.all 64 none }

/-- Brock before power-good, with empty flash slots (notes/assumptions/6.md). -/
def Brock.reset : Brock :=
  { flash := [[], []], minSvn := 0, boot := .off, log := [], failed := 0, dieReady := 0, released := [], staging := [], stageAt := 0, spdm := [],
    spdmSig := [] }

/-- Rails at nominal, cap 1,600 W (R373, R374). -/
def Power.reset : Power :=
  { vcore := File.all 4 450, vsram := File.all 4 700, lowering := File.all 8 none, temps := File.all 13 0, watts := 0, cap := 1600, gated := false,
    tripped := false }

/-- The hub at a cold reset (R352, R365). -/
def Hub.reset : Hub :=
  { parts := File.all 16 none, queues := [], timer := 0, roots := [], preqs := [], walked := [], pinned := [], halves := [], revokes := [], saved := [], shades := [],
    mbox := { payload := [], cmd := 0, detail := 0, overrun := false, error := false, busy := false, evWr := 0, evRd := 0, evBase := 0, events := [] },
    msix := ⟨[], [], []⟩, hostData := [], brock := Brock.reset, scree := File.all 5 ⟨[], 0, 0⟩, frozen := false,
    errors := { counts := [], strikes := [], window := 0, bad := [], replace := false, why := 0, floors := 0 },
    power := Power.reset, fab := Fabric.reset }

/-- The machine right after a cold reset, before power-good (R365, R375, R378): memory lists nothing. -/
def State.reset : State :=
  { agenda := [], draws := 0, cur := ⟨0, .ctl, 0⟩, nextUid := 1, mem := [], poison := [], cores := File.all 768 Core.reset,
    setts := File.all 64 Sett.reset, tus := File.all 16 Tu.reset, dies := File.all 4 Die.reset, hub := Hub.reset }

end Sys2Proof.Machine
end

