-- ==== Sys2Proof/Machine/Mem.lean ====
section
/-! DEFINITION. Bytes by address in canonical form, and values of several bytes, little-endian (R4). -/

namespace Sys2Proof.Machine

/-- What an unlisted address reads as: 0, as every byte of device memory does until a write reaches it (R378), a scratchpad byte after
clearing (R201) and a payload byte at reset (R352); for host and peer memory notes/assumptions/4.md. -/
def blank : Byte := 0

/-- The byte at an address. -/
def Bytes.get : Bytes → Nat → Byte
  | [], _ => blank
  | (a, b) :: r, x => if x < a then blank else if x = a then b else Bytes.get r x

/-- The bytes with one byte written; an entry that would hold `blank` is removed. -/
def Bytes.set : Bytes → Nat → Byte → Bytes
  | [], x, v => if v = blank then [] else [(x, v)]
  | (a, b) :: r, x, v =>
    if x < a then (if v = blank then (a, b) :: r else (x, v) :: (a, b) :: r)
    else if x = a then (if v = blank then r else (x, v) :: r)
    else (a, b) :: Bytes.set r x v

/-- Every address of the list lies above x. -/
def Bytes.above (x : Nat) : Bytes → Bool
  | [] => true
  | (a, _) :: _ => decide (x < a)

/-- The canonical form: addresses strictly rising, no entry equal to `blank`. -/
def Bytes.wf : Bytes → Bool
  | [] => true
  | (a, b) :: r => decide (b ≠ blank) && Bytes.above a r && Bytes.wf r

/-- n bytes from an address upward. -/
def Bytes.read (m : Bytes) (a : Nat) : Nat → List Byte
  | 0 => []
  | n + 1 => m.get a :: Bytes.read m (a + 1) n

/-- The bytes with a list of bytes written from an address upward. -/
def Bytes.write (m : Bytes) (a : Nat) : List Byte → Bytes
  | [] => m
  | b :: r => Bytes.write (m.set a b) (a + 1) r

/-- The bytes with those of a range removed. -/
def Bytes.clear (m : Bytes) (lo hi : Nat) : Bytes := m.filter fun c => !(lo ≤ c.1 && c.1 < hi)

/-- The number a list of bytes holds, the first byte lowest (R4). -/
def natOfBytes : List Byte → Nat
  | [] => 0
  | b :: r => b.toNat + 256 * natOfBytes r

/-- A number as n bytes, the lowest first (R4). -/
def bytesOfNat : Nat → Nat → List Byte
  | 0, _ => []
  | n + 1, v => BitVec.ofNat 8 v :: bytesOfNat n (v / 256)

/-- A number of n bytes at an address. -/
def Bytes.num (m : Bytes) (a n : Nat) : Nat := natOfBytes (m.read a n)

/-- The bytes with a number of n bytes written. -/
def Bytes.putNum (m : Bytes) (a n v : Nat) : Bytes := m.write a (bytesOfNat n v)

/-- Bits lo + len - 1 down to lo of a number. -/
def bitsOf (v lo len : Nat) : Nat := v / 2 ^ lo % 2 ^ len

/-- One bit of a number. -/
def bitOf (v n : Nat) : Bool := bitsOf v n 1 == 1

/-- Lane n of width w of a number (R66). -/
def laneOf (v n w : Nat) : Nat := bitsOf v (n * w) w

/-- A number whose lanes of width w are those of the list, lane 0 first. -/
def ofLanes (w : Nat) : List Nat → Nat
  | [] => 0
  | x :: r => x % 2 ^ w + 2 ^ w * ofLanes w r

/-- A number of n bits, read as signed. -/
def toSigned (n v : Nat) : Int := if v % 2 ^ n < 2 ^ (n - 1) then (v % 2 ^ n : Nat) else (v % 2 ^ n : Nat) - (2 ^ n : Nat)

/-- An integer modulo 2^n (R66). -/
def wrapTo (n : Nat) (v : Int) : Nat := (v % (2 ^ n : Nat)).toNat

/-- SatS (R66). -/
def satS (n : Nat) (v : Int) : Int :=
  if v < -(2 ^ (n - 1) : Nat) then -(2 ^ (n - 1) : Nat) else if (2 ^ (n - 1) : Nat) ≤ v then (2 ^ (n - 1) : Nat) - 1 else v

/-- SatN (R66). -/
def satN (n : Nat) (v : Int) : Int := if v < 0 then 0 else if (2 ^ n : Nat) ≤ v then (2 ^ n : Nat) - 1 else v

end Sys2Proof.Machine
end

