-- ==== Sys2Proof/Machine/Num.lean ====
section
/-! DEFINITION. Number formats (R67 to R81): floating-point values, exact arithmetic and the one rounding, MXINT codes and XS10 scales. -/

namespace Sys2Proof.Machine

/-- Flag bits of `fpflags` (R72). -/
def flNX : BitVec 7 := 1
def flUF : BitVec 7 := 2
def flOF : BitVec 7 := 4
def flDZ : BitVec 7 := 8
def flNV : BitVec 7 := 16
def flQNAN : BitVec 7 := 32
def flQSAT : BitVec 7 := 64

/-- Rounding modes, in the order of `fpmode` (R62). -/
inductive RMode where
  | rne | rz | ru | rd
deriving DecidableEq, Repr

/-- The mode of an `fpmode` value (R62). -/
def RMode.of (v : BitVec 2) : RMode :=
  match v.toNat with
  | 0 => .rne
  | 1 => .rz
  | 2 => .ru
  | _ => .rd

/-- A value of FP32 or BF16: a NaN, an infinity, or (-1)^neg × m × 2^e (R67, R68). -/
inductive FV where
  | nan (signalling : Bool)
  | inf (neg : Bool)
  | fin (neg : Bool) (m : Nat) (e : Int)
deriving DecidableEq, Repr

/-- Precision of a floating-point format: 24 bits for FP32, 8 for BF16. The width is 8 more (R67, R68). -/
abbrev Prec := Nat
def pF32 : Prec := 24
def pBF16 : Prec := 8

/-- The value that a pattern of the format holds (R67, R68). -/
def fpVal (p : Prec) (v : Nat) : FV :=
  let neg := bitOf v (p + 7)
  let ex := bitsOf v (p - 1) 8
  let fr := bitsOf v 0 (p - 1)
  if ex = 255 then (if fr = 0 then .inf neg else .nan (!bitOf v (p - 2)))
  else if ex = 0 then .fin neg fr (-126 - ((p - 1 : Nat) : Int))
  else .fin neg (2 ^ (p - 1) + fr) ((ex : Int) - 127 - ((p - 1 : Nat) : Int))

/-- The canonical NaN (R69). -/
def fpNaN (p : Prec) : Nat := 255 * 2 ^ (p - 1) + 2 ^ (p - 2)

/-- An infinity (R69). -/
def fpInf (p : Prec) (neg : Bool) : Nat := neg.toNat * 2 ^ (p + 7) + 255 * 2 ^ (p - 1)

/-- A zero (R69). -/
def fpZero (p : Prec) (neg : Bool) : Nat := neg.toNat * 2 ^ (p + 7)

/-- The largest finite value (R69). -/
def fpMax (p : Prec) (neg : Bool) : Nat := fpInf p neg - 1

/-- The number of bits of a number. -/
def bitLen (m : Nat) : Nat := if m = 0 then 0 else Nat.log2 m + 1

/-- Whether a magnitude is rounded up: the quotient, the remainder, half a unit, and whether the exact value lies above (R70). -/
def roundUp (mode : RMode) (neg : Bool) (mant rem half : Nat) (sticky : Bool) : Bool :=
  let inexact := rem != 0 || sticky
  match mode with
  | .rne => decide (half < rem) || (rem == half && half != 0 && (sticky || mant % 2 == 1))
  | .rz => false
  | .ru => !neg && inexact
  | .rd => neg && inexact

/-- Rounds a magnitude in [m, m + 1) × 2^e, equal to m × 2^e where sticky is false, to the format: pattern and flags (R70, R72). Where
sticky is true, m must have more than p + 1 bits. -/
def roundMag (p : Prec) (mode : RMode) (neg : Bool) (m : Nat) (e : Int) (sticky : Bool) : Nat × BitVec 7 :=
  if m = 0 && !sticky then (fpZero p neg, 0)
  else
    let top := e + (bitLen m : Int) - 1
    let emin := -126 - ((p - 1 : Nat) : Int)
    let round := fun (q : Int) =>
      let sh := (q - e).toNat
      if q ≤ e then (m * 2 ^ (e - q).toNat, false)
      else
        let mant := m / 2 ^ sh
        let rem := m % 2 ^ sh
        (mant + (roundUp mode neg mant rem (2 ^ (sh - 1)) sticky).toNat, rem != 0 || sticky)
    let q0 := top - ((p - 1 : Nat) : Int)
    let q := if q0 < emin then emin else q0
    let (mant, nx) := round q
    let tooBig := decide (128 - q ≤ (bitLen mant : Int) - 1)
    if tooBig then
      let big := match mode with
        | .rne => fpInf p neg
        | .rz => fpMax p neg
        | .ru => if neg then fpMax p neg else fpInf p neg
        | .rd => if neg then fpInf p neg else fpMax p neg
      (big, flOF ||| flNX)
    else
      let tiny := if -126 ≤ top then false else if top < -127 then true else decide ((round q0).1 < 2 ^ p)
      let bits := (q - emin).toNat * 2 ^ (p - 1) + mant
      (neg.toNat * 2 ^ (p + 7) + bits, (if nx then flNX else 0) ||| (if tiny && nx then flUF else 0))

/-- Rounds v × 2^e; a zero takes the sign given. -/
def roundInt (p : Prec) (mode : RMode) (zeroNeg : Bool) (v : Int) (e : Int) : Nat × BitVec 7 :=
  if v = 0 then (fpZero p zeroNeg, 0) else roundMag p mode (decide (v < 0)) v.natAbs e false

/-- Rounds num / den × 2^e (den positive). -/
def roundRat (p : Prec) (mode : RMode) (neg : Bool) (num den : Nat) (e : Int) : Nat × BitVec 7 :=
  let sh := bitLen den + p + 4
  roundMag p mode neg (num * 2 ^ sh / den) (e - sh) (num * 2 ^ sh % den != 0)

/-- NV where an input is a signalling NaN (R71). -/
def snanFlag (l : List FV) : BitVec 7 := if l.any (fun v => v == .nan true) then flNV else 0

/-- True of a NaN. -/
def FV.isNaN : FV → Bool
  | .nan _ => true
  | _ => false

/-- A value with its sign inverted. -/
def FV.flip : FV → FV
  | .nan b => .nan b
  | .inf s => .inf (!s)
  | .fin s m e => .fin (!s) m e

/-- The sign of a value. -/
def FV.neg : FV → Bool
  | .nan _ => false
  | .inf s => s
  | .fin s _ _ => s

/-- The integer of a signed magnitude. -/
def sgn (neg : Bool) (m : Nat) : Int := if neg then -(m : Int) else (m : Int)

/-- The sum of two finite values, exactly: an integer and the power of two it counts. -/
def addExact (s1 : Bool) (m1 : Nat) (e1 : Int) (s2 : Bool) (m2 : Nat) (e2 : Int) : Int × Int :=
  let e := if e1 ≤ e2 then e1 else e2
  (sgn s1 (m1 * 2 ^ (e1 - e).toNat) + sgn s2 (m2 * 2 ^ (e2 - e).toNat), e)

/-- x + y of values that are not NaN, rounded once (R70, R248). -/
def addVal (p : Prec) (mode : RMode) (x y : FV) : Nat × BitVec 7 :=
  match x, y with
  | .inf a, .inf b => if a = b then (fpInf p a, 0) else (fpNaN p, flNV)
  | .inf a, _ => (fpInf p a, 0)
  | _, .inf b => (fpInf p b, 0)
  | .fin a m e, .fin b n f =>
    let (v, g) := addExact a m e b n f
    roundInt p mode (if m = 0 && n = 0 && a == b then a else mode == .rd) v g
  | _, _ => (fpNaN p, 0)

/-- The product of two values that are not NaN; none for 0 × ∞. -/
def mulVal (x y : FV) : Option FV :=
  match x, y with
  | .inf a, .inf b => some (.inf (a != b))
  | .inf a, .fin b m _ => if m = 0 then none else some (.inf (a != b))
  | .fin a m _, .inf b => if m = 0 then none else some (.inf (a != b))
  | .fin a m e, .fin b n f => some (.fin (a != b) (m * n) (e + f))
  | _, _ => none

/-- a + b (R248). -/
def fpAdd (p : Prec) (mode : RMode) (a b : Nat) : Nat × BitVec 7 :=
  let x := fpVal p a
  let y := fpVal p b
  if x.isNaN || y.isNaN then (fpNaN p, snanFlag [x, y]) else addVal p mode x y

/-- a - b (R248). -/
def fpSub (p : Prec) (mode : RMode) (a b : Nat) : Nat × BitVec 7 :=
  let x := fpVal p a
  let y := fpVal p b
  if x.isNaN || y.isNaN then (fpNaN p, snanFlag [x, y]) else addVal p mode x y.flip

/-- The product rounded once. -/
def roundVal (p : Prec) (mode : RMode) : FV → Nat × BitVec 7
  | .nan _ => (fpNaN p, 0)
  | .inf s => (fpInf p s, 0)
  | .fin s m e => if m = 0 then (fpZero p s, 0) else roundMag p mode s m e false

/-- a × b (R248). -/
def fpMul (p : Prec) (mode : RMode) (a b : Nat) : Nat × BitVec 7 :=
  let x := fpVal p a
  let y := fpVal p b
  if x.isNaN || y.isNaN then (fpNaN p, snanFlag [x, y])
  else match mulVal x y with
    | none => (fpNaN p, flNV)
    | some v => roundVal p mode v

/-- ±(a × b) ± d with one rounding: `fma`, `fms` (d subtracted) and `fnma` (the product subtracted) (R248). -/
def fpFma (p : Prec) (mode : RMode) (negProd negAdd : Bool) (a b d : Nat) : Nat × BitVec 7 :=
  let x := fpVal p a
  let y := fpVal p b
  let z := fpVal p d
  if x.isNaN || y.isNaN || z.isNaN then (fpNaN p, snanFlag [x, y, z])
  else match mulVal x y with
    | none => (fpNaN p, flNV)
    | some v => addVal p mode (if negProd then v.flip else v) (if negAdd then z.flip else z)

/-- x < y of finite or infinite values, zeros equal. -/
def FV.lt (x y : FV) : Bool :=
  match x, y with
  | .inf a, .inf b => a && !b
  | .inf a, .fin _ _ _ => a
  | .fin _ _ _, .inf b => !b
  | .fin a m e, .fin b n f => decide ((addExact a m e (!b) n f).1 < 0)
  | _, _ => false

/-- x = y of finite or infinite values, zeros equal. -/
def FV.eqv (x y : FV) : Bool := !x.isNaN && !y.isNaN && !x.lt y && !y.lt x

/-- The larger or smaller operand; -0.0 counts as less than +0.0 (R249). -/
def fpMinMax (p : Prec) (wantMax : Bool) (a b : Nat) : Nat × BitVec 7 :=
  let x := fpVal p a
  let y := fpVal p b
  if x.isNaN || y.isNaN then (fpNaN p, snanFlag [x, y])
  else
    let less := x.lt y || (x.eqv y && x.neg && !y.neg)
    (if less == wantMax then b else a, 0)

/-- A condition on two floating-point values (R252), with NV for a signalling NaN. -/
def fpCmp (p : Prec) (c : Cond) (a b : Nat) : Bool × BitVec 7 :=
  let x := fpVal p a
  let y := fpVal p b
  let un := x.isNaN || y.isNaN
  let r := match c with
    | .eq => x.eqv y
    | .ne => !x.eqv y
    | .lt => x.lt y
    | .le => !un && !y.lt x
    | .gt => y.lt x
    | .ge => !un && !x.lt y
    | .un => un
    | _ => false
  (r, snanFlag [x, y])

/-- A finite magnitude rounded to an integer in a mode, and whether it is inexact. -/
def roundToInt (mode : RMode) (neg : Bool) (m : Nat) (e : Int) : Nat × Bool :=
  if 0 ≤ e then (m * 2 ^ e.toNat, false)
  else
    let sh := (-e).toNat
    let q := m / 2 ^ sh
    let rem := m % 2 ^ sh
    (q + (roundUp mode neg q rem (2 ^ (sh - 1)) false).toNat, rem != 0)

/-- The functions of `funa` (R250). -/
def fpFuna (o : FunaOp) (mode : RMode) (a : Nat) : Nat × BitVec 7 :=
  let x := fpVal pF32 a
  let integral := fun (md : RMode) (flagged : Bool) =>
    match x with
    | .fin s m e =>
      let (v, nx) := roundToInt md s m e
      ((roundMag pF32 .rne s v 0 false).1, if flagged && nx then flNX else 0)
    | _ => (a, 0)
  if x.isNaN then (fpNaN pF32, snanFlag [x])
  else match o with
    | .abs => (a % 2 ^ 31, 0)
    | .neg => (if bitOf a 31 then a % 2 ^ 31 else a % 2 ^ 31 + 2 ^ 31, 0)
    | .floor => integral .rd false
    | .ceil => integral .ru false
    | .trunc => integral .rz false
    | .rint => integral mode true

/-! ## Functions of one operand (R251) -/

/-- The largest r with r × r ≤ n, deciding bits k - 1 down to 0. -/
def isqrtAux (n : Nat) : Nat → Nat → Nat
  | 0, r => r
  | k + 1, r => isqrtAux n k (if (r + 2 ^ k) * (r + 2 ^ k) ≤ n then r + 2 ^ k else r)

/-- The integer square root. -/
def isqrt (n : Nat) : Nat := isqrtAux n (bitLen n / 2 + 1) 0

/-- Bits of the fixed-point numbers in which `exp2` and `lg2` are formed (notes/assumptions/17.md). -/
def fixBits : Nat := 320

/-- The sum of 2^fixBits / (k × 2^k) over the n terms from k: ln 2 in fixed point. -/
def ln2Aux : Nat → Nat → Nat
  | 0, _ => 0
  | n + 1, k => 2 ^ fixBits / (k * 2 ^ k) + ln2Aux n (k + 1)

/-- ln 2 in fixed point. -/
def ln2Fix : Nat := ln2Aux 330 1

/-- The sum of the terms y^k / k! from a term on, in fixed point. -/
def expAux (y : Nat) : Nat → Nat → Nat → Nat
  | 0, _, _ => 0
  | n + 1, k, t => t + expAux y n (k + 1) (t * y / 2 ^ fixBits / (k + 1))

/-- 2^f for f in fixed point below 1, in fixed point. -/
def exp2Fix (f : Nat) : Nat := expAux (f * ln2Fix / 2 ^ fixBits) 90 0 (2 ^ fixBits)

/-- The sum of the terms t / k over odd k, t falling by z² each time, in fixed point. -/
def atanhAux (z2 : Nat) : Nat → Nat → Nat → Nat
  | 0, _, _ => 0
  | n + 1, k, t => t / k + atanhAux z2 n (k + 2) (t * z2 / 2 ^ fixBits)

/-- log2 of m / 2^s, at least 1 and below 2, in fixed point. -/
def log2Fix (m s : Nat) : Nat :=
  let z := (m - 2 ^ s) * 2 ^ fixBits / (m + 2 ^ s)
  2 * atanhAux (z * z / 2 ^ fixBits) 120 1 z * 2 ^ fixBits / ln2Fix

/-- 2^a (R251). -/
def fpExp2 (mode : RMode) (a : Nat) : Nat × BitVec 7 :=
  match fpVal pF32 a with
  | .nan s => (fpNaN pF32, if s then flNV else 0)
  | .inf s => (if s then 0 else fpInf pF32 false, 0)
  | .fin s m e =>
    if m = 0 then (0x3F800000, 0)
    else if 9 ≤ e + (bitLen m : Int) then
      (if s then roundMag pF32 mode false (2 ^ 40) (-400) true else roundMag pF32 mode false (2 ^ 40) 200 true)
    else
      let v : Int := sgn s (if 0 ≤ e then m * 2 ^ e.toNat * 2 ^ fixBits else m * 2 ^ fixBits / 2 ^ (-e).toNat)
      let n := v / (2 ^ fixBits : Nat)
      let f := (v % (2 ^ fixBits : Nat)).toNat
      if f = 0 then roundMag pF32 mode false 1 n false
      else roundMag pF32 mode false (exp2Fix f) (n - fixBits) true

/-- log2 a (R251). -/
def fpLg2 (mode : RMode) (a : Nat) : Nat × BitVec 7 :=
  match fpVal pF32 a with
  | .nan s => (fpNaN pF32, if s then flNV else 0)
  | .inf s => if s then (fpNaN pF32, flNV) else (fpInf pF32 false, 0)
  | .fin s m e =>
    if m = 0 then (fpInf pF32 true, flDZ)
    else if s then (fpNaN pF32, flNV)
    else
      let sh := bitLen m - 1
      let n := e + sh
      if m = 2 ^ sh then roundInt pF32 mode false n 0
      else
        let v := n * (2 ^ fixBits : Nat) + (log2Fix m sh : Int)
        if v < 0 then roundMag pF32 mode true (v.natAbs - 1) (-(fixBits : Int)) true
        else roundMag pF32 mode false v.natAbs (-(fixBits : Int)) true

/-- 1 / a (R251). -/
def fpRcp (mode : RMode) (a : Nat) : Nat × BitVec 7 :=
  match fpVal pF32 a with
  | .nan s => (fpNaN pF32, if s then flNV else 0)
  | .inf s => (fpZero pF32 s, 0)
  | .fin s m e => if m = 0 then (fpInf pF32 s, flDZ) else roundRat pF32 mode s 1 m (-e)

/-- 1 / √a (R251). -/
def fpRsq (mode : RMode) (a : Nat) : Nat × BitVec 7 :=
  match fpVal pF32 a with
  | .nan s => (fpNaN pF32, if s then flNV else 0)
  | .inf s => if s then (fpNaN pF32, flNV) else (0, 0)
  | .fin s m e =>
    if m = 0 then (fpInf pF32 s, flDZ)
    else if s then (fpNaN pF32, flNV)
    else
      let odd := e % 2 == 1
      let m := if odd then m * 2 else m
      let e := if odd then e - 1 else e
      let r := isqrt (2 ^ 120 / m)
      roundMag pF32 mode false r (-(e / 2) - 60) (r * r * m != 2 ^ 120)

/-! ## Conversions (R258) -/

/-- FP32 to BF16. -/
def fpNarrow (mode : RMode) (a : Nat) : Nat × BitVec 7 :=
  match fpVal pF32 a with
  | .nan s => (fpNaN pBF16, if s then flNV else 0)
  | v => roundVal pBF16 mode v

/-- BF16 to FP32. -/
def fpWiden (a : Nat) : Nat × BitVec 7 :=
  match fpVal pBF16 a with
  | .nan s => (fpNaN pF32, if s then flNV else 0)
  | _ => (a % 2 ^ 16 * 2 ^ 16, 0)

/-- FP32 to an integer of the range lo to hi, as 32 bits. -/
def fpToInt (mode : RMode) (lo hi : Int) (a : Nat) : Nat × BitVec 7 :=
  match fpVal pF32 a with
  | .nan _ => (0, flNV)
  | .inf s => (wrapTo 32 (if s then lo else hi), flNV)
  | .fin s m e =>
    let (v, nx) := roundToInt mode s m e
    let r := sgn s v
    if r < lo then (wrapTo 32 lo, flNV) else if hi < r then (wrapTo 32 hi, flNV) else (wrapTo 32 r, if nx then flNX else 0)

/-! ## MXINT and XS10 (R76 to R81) -/

/-- The width of an MXINT type (R76). -/
def mxWidth : Ty → Nat
  | .mx8 => 8
  | .mx6 => 6
  | _ => 4

/-- The value of a scale code: zero, a NaN block, or num × 2^e (R78). -/
inductive Scale where
  | zero
  | nan
  | val (num : Nat) (e : Int)
deriving DecidableEq, Repr

/-- The scale of a container; bits 15:10 are ignored (R78). -/
def scaleOf (c : Nat) : Scale :=
  let ex := bitsOf c 2 8
  let m := bitsOf c 0 2
  if ex = 255 then .nan
  else if ex = 0 then (if m = 0 then .zero else .val m (-129))
  else .val (4 + m) ((ex : Int) - 129)

/-- Dequantisation of a code of width w, to a format (R79). -/
def mxDeq (p : Prec) (mode : RMode) (w : Nat) (code : Int) (s : Scale) : Nat × BitVec 7 :=
  match s with
  | .nan => (fpNaN p, 0)
  | .zero => (0, 0)
  | .val n e => roundInt p mode false (code * n) (e - ((w - 2 : Nat) : Int))

/-- m × 2^e ≤ n × 2^f. -/
def dyLe (m : Nat) (e : Int) (n : Nat) (f : Int) : Bool :=
  let g := if e ≤ f then e else f
  decide (m * 2 ^ (e - g).toNat ≤ n * 2 ^ (f - g).toNat)

/-- m × 2^e ≤ lim × value(c) for width w (R80). -/
def mxFits (w m : Nat) (e : Int) (c : Nat) : Bool :=
  match scaleOf c with
  | .val n f => dyLe m e ((2 ^ (w - 1) - 1) * n) (f - ((w - 2 : Nat) : Int))
  | _ => false

/-- The smallest code of lo to hi that fits, hi fitting; by halving. -/
def mxLeast (w m : Nat) (e : Int) : Nat → Nat → Nat → Nat
  | 0, lo, _ => lo
  | n + 1, lo, hi =>
    if hi ≤ lo then lo
    else
      let mid := (lo + hi) / 2
      if mxFits w m e mid then mxLeast w m e n lo mid else mxLeast w m e n (mid + 1) hi

/-- The larger of two magnitudes. -/
def dyMax (x y : Nat × Int) : Nat × Int := if dyLe x.1 x.2 y.1 y.2 then y else x

/-- The magnitude of a finite value. -/
def FV.mag : FV → Nat × Int
  | .fin _ m e => (m, e)
  | _ => (0, 0)

/-- The scale code of R80 for a block, and its flags. -/
def mxScale (w : Nat) (xs : List FV) : Nat × BitVec 7 :=
  if xs.any (fun v => match v with | .fin _ _ _ => false | _ => true) then (0x3FF, flQNAN)
  else
    let m := xs.foldl (fun acc v => dyMax acc v.mag) (0, 0)
    if m.1 = 0 then (0, 0)
    else if !mxFits w m.1 m.2 0x3FB then (0x3FB, flQSAT)
    else (mxLeast w m.1 m.2 11 1 0x3FB, 0)

/-- num / den rounded to the nearest integer, ties to even. -/
def divRne (num den : Nat) : Nat :=
  let q := num / den
  let r := num % den
  if den < 2 * r then q + 1 else if den = 2 * r && q % 2 == 1 then q + 1 else q

/-- The code of R81 for a value against a scale code, and its flags. -/
def mxCode (w : Nat) (c : Nat) (x : FV) : Int × BitVec 7 :=
  match scaleOf c with
  | .zero => (0, 0)
  | .nan => (0, 0)
  | .val n e =>
    match x with
    | .nan _ => (0, flQNAN)
    | .inf s => (sgn s (2 ^ (w - 1) - 1), flQSAT)
    | .fin s m f =>
      let g := f - e + ((w - 2 : Nat) : Int)
      let v := if 0 ≤ g then divRne (m * 2 ^ g.toNat) n else divRne m (n * 2 ^ (-g).toNat)
      if 2 ^ (w - 1) - 1 < v then (sgn s (2 ^ (w - 1) - 1), flQSAT) else (sgn s v, 0)

/-- An element's code as stored: 8 bits for widths 8 and 6 (bits 7:6 copy bit 5), 4 bits for width 4 (R77). -/
def mxStore (w : Nat) (v : Int) : Nat := if w = 4 then wrapTo 4 v else wrapTo 8 v

/-- An element's code as read; bits 7:6 of an MXINT6 container are ignored (R77). -/
def mxLoad (w : Nat) (b : Nat) : Int := toSigned w b

/-! ## Integer lanes (R254) -/

/-- A condition on two integers of width w (R53, R162). -/
def intCmp (w : Nat) (c : Cond) (a b : Nat) : Bool :=
  let x := toSigned w a
  let y := toSigned w b
  let u := a % 2 ^ w
  let v := b % 2 ^ w
  match c with
  | .eq => u == v
  | .ne => u != v
  | .lt => decide (x < y)
  | .le => decide (x ≤ y)
  | .gt => decide (y < x)
  | .ge => decide (y ≤ x)
  | .lo => decide (u < v)
  | .ls => decide (u ≤ v)
  | .hi => decide (v < u)
  | .hs => decide (v ≤ u)
  | .un => false

end Sys2Proof.Machine
end

