-- ==== Sys2Proof/Machine/Ops.lean ====
section
/-! DEFINITION. The named operations over cores, registers, counters, marks and records, and the two shared operations of every
instruction: taking a trap (R119 to R121) and issuing a word (R13, R63, R117). -/

namespace Sys2Proof.Machine

/-! ## Cause codes -/

/-- Cause codes (R119). -/
def cILLEGAL : BitVec 8 := 0x01
def cTAIL : BitVec 8 := 0x02
def cFRAME : BitVec 8 := 0x03
def cSPILL : BitVec 8 := 0x04
def cSTALL : BitVec 8 := 0x05
def cSOFTWARE : BitVec 8 := 0x06
def cBREAK : BitVec 8 := 0x07
def cPERM : BitVec 8 := 0x10
def cRESERVED : BitVec 8 := 0x11
def cRANGE : BitVec 8 := 0x12
def cFRAGMENT : BitVec 8 := 0x13
def cREFUSED : BitVec 8 := 0x14
def cSTALE : BitVec 8 := 0x18
def cLOST : BitVec 8 := 0x19
def cEXTENT : BitVec 8 := 0x1A
def cRACE : BitVec 8 := 0x1B

/-! ## Places in the package (R9, R10) -/

def dieOf (c : CoreId) : Fin 4 := ⟨c.val / 192, by omega⟩
def clusterOf (c : CoreId) : Fin 16 := ⟨c.val / 48, by omega⟩
def inCluster (c : CoreId) : Nat := c.val % 48
def settOf (c : CoreId) : Fin 64 := ⟨c.val / 12, by omega⟩
def inGroup (c : CoreId) : Fin 12 := ⟨c.val % 12, Nat.mod_lt _ (by decide)⟩

/-- The core of a package number, none past 767. -/
def coreAt (n : Nat) : Option CoreId := if h : n < 768 then some ⟨n, h⟩ else none

/-! ## Cores -/

def State.core (s : State) (c : CoreId) : Core := s.cores.at c
def State.setCore (s : State) (c : CoreId) (k : Core) : State := { s with cores := s.cores.put c k }
def State.modCore (s : State) (c : CoreId) (f : Core → Core) : State := s.setCore c (f (s.core c))
def State.modHub (s : State) (f : Hub → Hub) : State := { s with hub := f s.hub }
def State.modDie (s : State) (d : Fin 4) (f : Die → Die) : State := { s with dies := s.dies.mod d f }
def State.modSett (s : State) (g : Fin 64) (f : Sett → Sett) : State := { s with setts := s.setts.mod g f }
def State.modTu (s : State) (t : Fin 16) (f : Tu → Tu) : State := { s with tus := s.tus.mod t f }
def Core.modAux (k : Core) (f : CoreAux → CoreAux) : Core := { k with aux := f k.aux }
def Core.modCr (k : Core) (f : Cregs → Cregs) : Core := { k with cr := f k.cr }
def Core.modEx (k : Core) (f : Ex → Ex) : Core := { k with ex := f k.ex }
def Core.modCtx (k : Core) (x : Fin 4) (f : Ctx → Ctx) : Core := { k with ctx := k.ctx.mod x f }

/-- LD or ST of a core. -/
def Core.lseq (k : Core) (st : Bool) : LSeq := if st then k.st else k.ld
def Core.modLseq (k : Core) (st : Bool) (f : LSeq → LSeq) : Core := if st then { k with st := f k.st } else { k with ld := f k.ld }

/-- The flow of a stream of a core. -/
def Core.flow (k : Core) (q : Seq) (x : Fin 4) : Flow :=
  match q with
  | .ctl => (k.ctx.at x).flow
  | .ld => k.ld.flow
  | .ex => k.ex.flow
  | .st => k.st.flow

def Core.modFlow (k : Core) (q : Seq) (x : Fin 4) (f : Flow → Flow) : Core :=
  match q with
  | .ctl => k.modCtx x fun c => { c with flow := f c.flow }
  | .ld => { k with ld := { k.ld with flow := f k.ld.flow } }
  | .ex => { k with ex := { k.ex with flow := f k.ex.flow } }
  | .st => { k with st := { k.st with flow := f k.st.flow } }

/-- The core, and the flow, of the unit whose word is executed. -/
def State.me (s : State) : Core := s.core s.cur.core
def State.modMe (s : State) (f : Core → Core) : State := s.modCore s.cur.core f
def State.myFlow (s : State) : Flow := s.me.flow s.cur.q s.cur.x
def State.modMyFlow (s : State) (f : Flow → Flow) : State := s.modMe fun k => k.modFlow s.cur.q s.cur.x f
def State.myCtx (s : State) : Ctx := s.me.ctx.at s.cur.x
def State.modMyCtx (s : State) (f : Ctx → Ctx) : State := s.modMe fun k => k.modCtx s.cur.x f

/-- A fresh name for a work item. -/
def State.uid (s : State) : Nat × State := (s.nextUid, { s with nextUid := s.nextUid + 1 })

/-- A free number, word, and byte string of n bytes; each advances the counter of draws (notes/assumptions/3.md). -/
def State.freeNat (s : State) : Nat × State := (Config.freeNat s.draws, { s with draws := s.draws + 1 })
def State.freeWord (s : State) : W64 × State := (Config.freeWord s.draws, { s with draws := s.draws + 1 })
def State.freeWords (s : State) (n : Nat) : List W64 × State :=
  ((List.range n).map fun i => Config.freeWord (s.draws + i), { s with draws := s.draws + n })
def State.freeBytes (s : State) (n : Nat) : List Byte × State :=
  ((List.range n).map (Config.freeByte s.draws), { s with draws := s.draws + 1 })

/-! ## Registers of CTL (R109 to R111, R145) -/

/-- The frames of a context, the running one first. -/
def Core.framesOf (k : Core) (x : Fin 4) : List Frame := k.frames.filter fun f => f.owner == x && !f.ended

/-- A context runs a tail, true or degraded (R114, R115); the handler that runs in c0 is none. -/
def Core.isTail (k : Core) (x : Fin 4) : Bool := (k.ctx.at x).mode != .no && !(k.mode == .handler && x == 0)

/-- The cell that register sN of a context maps to, for N from 8 (R111). -/
def Core.cellOf (k : Core) (x : Fin 4) (n : Nat) : Option (Fin 512) :=
  match k.framesOf x with
  | [] => none
  | f :: r =>
    let j := n - 8
    if j < f.size then some (f.base + Fin.ofNat 512 j)
    else if k.isTail x || f.caller.isNone then none
    else match r with
      | [] => none
      | g :: _ => if j - f.size < g.size then some (g.base + Fin.ofNat 512 (j - f.size)) else none

/-- Where a write to register sN of a context goes (R111, R145). -/
def Core.destOf (k : Core) (x : Fin 4) (n : Fin 32) : Dest :=
  if n.val = 0 then .none
  else if h : n.val < 8 then .glob x ⟨n.val - 1, by omega⟩
  else match k.cellOf x n.val with
    | none => .none
    | some c => .cell c

/-- The value of register sN of a context (R111, R145). -/
def Core.readS (k : Core) (x : Fin 4) (n : Fin 32) : W64 :=
  match k.destOf x n with
  | .glob x r => (k.ctx.at x).s.at r
  | .cell c => k.cells.at c
  | _ => 0

/-- Writes a cell of the window file; what it held stays among the values that the cells of a new frame may hold (R168). -/
def Core.setCell (k : Core) (n : Fin 512) (v : W64) : Core :=
  { k with cells := k.cells.put n v,
           aux := { k.aux with past := if k.aux.past.contains (k.cells.at n) then k.aux.past else k.cells.at n :: k.aux.past } }

/-- Writes a place of a result (R187, R292). -/
def Core.writeDest (k : Core) (d : Dest) (v : W64) : Core :=
  match d with
  | .none => k
  | .glob x r => k.modCtx x fun c => { c with s := c.s.put r v }
  | .bank r =>
    let k := k.modCtx 0 fun c => { c with s := c.s.put r v }
    { k with hand := k.hand.map fun h => { h with s := h.s.put r v } }
  | .saved r => { k with hand := k.hand.map fun h => { h with s := h.s.put r v } }
  | .cell c => k.setCell c v

/-- The place of a pending load when a later word writes a place: the newer value stands there (R187), while the hidden bank still receives the
older one (R120, R175). -/
def Dest.yield (d e : Dest) : Dest :=
  match d, e with
  | .bank r, .glob x t => if x == 0 && r == t then .saved r else d
  | _, _ => if d == e then .none else d

/-- A word writes a place, or issues an access that will: no earlier load of the core writes it any more (R187). -/
def Core.supersede (k : Core) (e : Dest) : Core :=
  if (List.finRange 4).all fun x => (k.ctx.at x).loads.all fun l => l.dest.yield e == l.dest then k
  else { k with ctx := k.ctx.map fun c => { c with loads := c.loads.map fun l => { l with dest := l.dest.yield e } } }

/-- Writes register sN of a context. -/
def Core.writeS (k : Core) (x : Fin 4) (n : Fin 32) (v : W64) : Core := (k.supersede (k.destOf x n)).writeDest (k.destOf x n) v

/-- Predicate n of a flow; p0 is always true (R109). -/
def Flow.pred (f : Flow) (n : Fin 8) : Bool := n == 0 || f.p.getLsbD n.val

/-- Writes predicate n; a write to p0 is discarded (R145). -/
def Flow.setPred (f : Flow) (n : Fin 8) (v : Bool) : Flow :=
  if n == 0 then f
  else { f with p := if v then f.p ||| (1 <<< n.val) else f.p &&& ~~~((1 : BitVec 8) <<< n.val) }

/-- Registers of the unit whose word is executed. -/
def State.readS (s : State) (n : Fin 32) : W64 := s.me.readS s.cur.x n
def State.writeS (s : State) (n : Fin 32) (v : W64) : State := s.modMe fun k => k.writeS s.cur.x n v
def State.isSt (s : State) : Bool := s.cur.q == .st
def State.readA (s : State) (n : Fin 16) : W64 := (s.me.lseq s.isSt).a.at n
def State.writeA (s : State) (n : Fin 16) (v : W64) : State := s.modMe fun k => k.modLseq s.isSt fun l => { l with a := l.a.put n v }
def State.readP (s : State) (n : Fin 8) : Bool := s.myFlow.pred n
def State.writeP (s : State) (n : Fin 8) (v : Bool) : State := s.modMyFlow fun f => f.setPred n v

/-- Places that pending results of a context will write: those of Warren and `famo` commands (R292, R314), and all (R144, R187). -/
def Ctx.results (c : Ctx) : List Dest := c.res.flatMap fun r => [r.d1, r.d2]
def Ctx.pending (c : Ctx) : List Dest := c.loads.map (·.dest) ++ c.results

/-- Places that pending results of the core's CTL will write. -/
def Core.pending (k : Core) : List Dest :=
  (k.ctx.at 0).pending ++ (k.ctx.at 1).pending ++ (k.ctx.at 2).pending ++ (k.ctx.at 3).pending
def Core.results (k : Core) : List Dest :=
  (k.ctx.at 0).results ++ (k.ctx.at 1).results ++ (k.ctx.at 2).results ++ (k.ctx.at 3).results

/-- Register sN of a context is one of a list of places. -/
def Core.isAmong (k : Core) (x : Fin 4) (n : Fin 32) (l : List Dest) : Bool :=
  match k.destOf x n with
  | .none => false
  | .glob x r => l.contains (.glob x r) || (x == 0 && l.contains (.bank r))
  | d => l.contains d

/-- Some register of the list, which a word reads, awaits a result (R144, R187). -/
def State.busyS (s : State) (l : List (Fin 32)) : Bool := l.any fun n => s.me.isAmong s.cur.x n s.me.pending

/-- Some register of the list, which a word writes, awaits the result of a Warren or `famo` command (R292, R314): a word that writes it waits,
as one that writes the register of a pending load does not (R187). -/
def State.busyD (s : State) (l : List (Fin 32)) : Bool := l.any fun n => s.me.isAmong s.cur.x n s.me.results

/-- A predicate of CTL's context or of ST awaits a Warren result (R292); LD and EX have none that could. -/
def State.busyP (s : State) (l : List (Fin 8)) : Bool :=
  let r := match s.cur.q with | .ctl => s.myCtx.res | .st => s.me.st.res | _ => []
  l.any fun n => n != 0 && r.any fun p => p.pred == some n

/-! ## Ring counters (R12 to R14) -/

/-- Counters, in the order of the table of R12: tq_cl, tq_le, tq_es, tq_sc, tq_lc, tq_el, tq_se, tq_cs. -/
def ringWb : Seq → Fin 8
  | .ctl => 3 | .ld => 0 | .ex => 1 | .st => 2
def ringWa : Seq → Fin 8
  | .ctl => 4 | .ld => 5 | .ex => 6 | .st => 7
def ringSb : Seq → Fin 8
  | .ctl => 7 | .ld => 4 | .ex => 5 | .st => 6
def ringSa : Seq → Fin 8
  | .ctl => 0 | .ld => 1 | .ex => 2 | .st => 3

/-- The code of the first ring wait of a word that is not met (R117). -/
def Core.ringWait (k : Core) (q : Seq) (y : Ring) : Option Nat :=
  if y.wb && k.rings.at (ringWb q) == 0 then some (ringWb q).val
  else if y.wa && k.rings.at (ringWa q) == 0 then some (ringWa q).val
  else none

/-- The code of the first post of a word that a full counter holds (R13, R117). -/
def Core.postWait (k : Core) (q : Seq) (y : Ring) : Option Nat :=
  if y.sa && k.rings.at (ringSa q) == 63 then some (8 + (ringSa q).val)
  else if y.sb && k.rings.at (ringSb q) == 63 then some (8 + (ringSb q).val)
  else none

/-- The code of the held completion post that a memory word of LD or ST waits for (R13). -/
def Core.heldWait (k : Core) (q : Seq) (y : Ring) : Option Nat :=
  let l := k.lseq (q == .st)
  if y.sa && l.heldSa then some (8 + (ringSa q).val)
  else if y.sb && l.heldSb then some (8 + (ringSb q).val)
  else none

/-- LD, EX and ST as 0, 1, 2; none for CTL. -/
def follower : Seq → Option (Fin 3)
  | .ctl => none | .ld => some 0 | .ex => some 1 | .st => some 2

/-- The replacement by CTL up to which a sequencer is ordered (R177); CTL is ordered after all of its own. -/
def Core.order (k : Core) (q : Seq) : Nat :=
  match follower q with
  | none => k.aux.prior.now
  | some i => k.aux.prior.sync.at i

/-- A sequencer is ordered after every replacement by CTL of a value it reads (R177). -/
def Core.synced (k : Core) (q : Seq) : Bool := decide (k.aux.prior.now ≤ k.order q)

/-- A sequencer takes an item that carries order up to a replacement (R93, R177). -/
def Core.follow (k : Core) (q : Seq) (n : Nat) : Core :=
  match follower q with
  | none => k
  | some i => k.modAux fun a => { a with prior := { a.prior with sync := a.prior.sync.mod i (max n) } }

/-- The order that the next of n standing items carries; an item without an entry stands since before the first replacement. -/
def orderOf (n : Nat) (l : List Nat) : Nat := if l.length < n then 0 else l.headD 0

/-- The order of what stands behind it. -/
def orderRest (n : Nat) (l : List Nat) : List Nat := if l.length < n then l else l.tail

/-- A sequencer takes one from a counter, and posts one (R13); tokens count as taken in the order posted. -/
def Core.take (k : Core) (q : Seq) (n : Fin 8) : Core :=
  let l := k.aux.prior.rings.at n
  let m := (k.rings.at n).val
  let k := { k with rings := k.rings.mod n (· - 1) }
  (k.modAux fun a => { a with prior := { a.prior with rings := a.prior.rings.put n (orderRest m l) } }).follow q (orderOf m l)
def Core.post (k : Core) (q : Seq) (n : Fin 8) : Core :=
  let l := k.aux.prior.rings.at n
  let m := (k.rings.at n).val
  let k := { k with rings := k.rings.mod n (· + 1) }
  k.modAux fun a => { a with prior := { a.prior with rings := a.prior.rings.put n (List.replicate (m - l.length) 0 ++ l ++ [k.order q]) } }

/-- The counters a word waits on are decremented (R13). -/
def Core.takeRing (k : Core) (q : Seq) (y : Ring) : Core :=
  let k := if y.wb then k.take q (ringWb q) else k
  if y.wa then k.take q (ringWa q) else k

/-- The counters a word posts to are incremented (R13). -/
def Core.postRing (k : Core) (q : Seq) (y : Ring) : Core :=
  let k := if y.sb then k.post q (ringSb q) else k
  if y.sa then k.post q (ringSa q) else k

/-- CTL replaces a value that LD, EX and ST read (R73, R177, R179, R196). -/
def Core.replaced (k : Core) (o : Old) : Core :=
  k.modAux fun a =>
    let p := a.prior
    { a with prior := { p with
      now := p.now + 1,
      vals := (p.now + 1, o) :: p.vals.filter fun e => (List.finRange 3).any fun i => decide (p.sync.at i < e.1) } }

/-- The order of a sequencer with what the tokens that its next word waits on carry: the word takes them at its issue (R13, R73). -/
def Core.orderWith (k : Core) (q : Seq) (y : Ring) (posted : Bool) : Nat :=
  let tok := fun (n : Fin 8) => orderOf (k.rings.at n).val (k.aux.prior.rings.at n)
  let m := k.order q
  if posted then m
  else
    let m := if y.wb then max m (tok (ringWb q)) else m
    if y.wa then max m (tok (ringWa q)) else m

/-- One of a value and of those it replaced, as a party ordered up to a replacement may see it (R177). -/
def State.seenFrom (s : State) (c : CoreId) (n : Nat) (old : Old → Option α) (now : α) : α × State :=
  if (s.core c).aux.prior.now ≤ n then (now, s)
  else
    let l := ((s.core c).aux.prior.vals.filter fun e => n < e.1).filterMap fun e => old e.2
    if l.isEmpty then (now, s)
    else
      let (n, s) := s.freeNat
      ((now :: l).getD (n % (l.length + 1)) now, s)

/-- What a sequencer of a core sees of a value. -/
def State.seenBy (s : State) (c : CoreId) (q : Seq) (old : Old → Option α) (now : α) : α × State := s.seenFrom c ((s.core c).order q) old now

/-- What the word that is executed sees of a value; `y` is its ring field. -/
def State.seen (s : State) (y : Ring) (old : Old → Option α) (now : α) : α × State :=
  s.seenFrom s.cur.core (s.me.orderWith s.cur.q y s.myFlow.posted) old now

/-- A 32-bit counter that saturates (R43, R136, R289, R310). -/
def satInc (v : W32) : W32 := if v = 0xFFFFFFFF then v else v + 1

/-! ## Marks (R20) -/

/-- Mark m of the core is complete. -/
def Core.markDone (k : Core) (m : Fin 32) : Bool := k.cr.marks.getLsbD m.val

/-- Makes mark m complete, or pending. -/
def Core.setMark (k : Core) (m : Fin 32) (v : Bool) : Core :=
  k.modCr fun c => { c with marks := if v then c.marks ||| (1 <<< m.val) else c.marks &&& ~~~((1 : W32) <<< m.val) }

/-- The marks of the three wait fields. -/
def Waits.list (w : Waits) : List (Fin 32) := [w.w1, w.w2, w.w3].filterMap id

/-- Every mark waited on is complete. -/
def Core.waitsDone (k : Core) (w : Waits) : Bool := (Waits.list w).all k.markDone

/-- The Sett commands of a core. -/
def State.settCmds (s : State) (c : CoreId) : List Cmd := (s.setts.at (settOf c)).queue.filter fun d => d.core == c

/-- The fabric commands of a core. -/
def State.fabCmds (s : State) (c : CoreId) : List Cmd := (s.dies.at (dieOf c)).fabQ.filter fun d => d.core == c

/-- Every command of a core that has not finished. -/
def State.allCmds (s : State) (c : CoreId) : List Cmd := (s.core c).cmds ++ s.settCmds c ++ s.fabCmds c

/-- The command that produces a pending mark. -/
def State.producer (s : State) (c : CoreId) (m : Fin 32) : Option Cmd :=
  (s.allCmds c).find? fun d => d.mark == some m && !d.marked

/-! ## Scree and records (R328, R367) -/

/-- A record for the Scree copy of a unit and for the hub copy (R367, R368). -/
def State.scree (s : State) (unit : Fin 5) (code : Nat) (detail : W64) : State :=
  let r : W64 × W64 := (BitVec.ofNat 64 (code * 2 ^ 56 + unit.val * 2 ^ 52 + s.hub.timer.toNat), detail)
  let add := fun (c : ScreeCopy) =>
    if s.hub.frozen then { c with dropped := if c.dropped = 0xFFFFFFFF then c.dropped else c.dropped + 1 }
    else { c with recs := (r :: c.recs).take 4096, count := c.count + 1 }
  s.modHub fun h =>
    let a := h.scree.mod unit add
    { h with scree := if unit = 4 then a else a.mod 4 add }

/-- A record from its eight words. -/
def mkRec (w0 w1 w2 w3 w4 w5 w6 w7 : Nat) : Rec :=
  ⟨((((((((File.all 8 0).put 0 (BitVec.ofNat 64 w0)).put 1 (BitVec.ofNat 64 w1)).put 2 (BitVec.ofNat 64 w2)).put 3
    (BitVec.ofNat 64 w3)).put 4 (BitVec.ofNat 64 w4)).put 5 (BitVec.ofNat 64 w5)).put 6 (BitVec.ofNat 64 w6)).put 7
    (BitVec.ofNat 64 w7)⟩

/-- Changes a configured queue and its moving parts. -/
def State.modQueue (s : State) (q : Fin 4096) (f : Queue × QueueWork → Queue × QueueWork) : State :=
  s.modHub fun h => { h with queues := h.queues.map fun e => if e.1.num = q then f e else e }

/-- A configured queue. -/
def State.queue (s : State) (q : Fin 4096) : Option (Queue × QueueWork) := s.hub.queues.find? fun e => e.1.num == q

/-- A completion record waits to be written to a queue's ring (R329). -/
def State.postRec (s : State) (q : Fin 4096) (r : Rec) : State :=
  s.modQueue q fun e => (e.1, { e.2 with waiting := e.2.waiting ++ [r] })

/-- An event waits for the event ring (R352). -/
def State.postEvent (s : State) (kind reason : Nat) (place what : Nat) : State :=
  s.modHub fun h => { h with mbox := { h.mbox with
    events := h.mbox.events ++ [mkRec (0xFFF * 2 ^ 16 + reason * 2 ^ 8 + kind) 0 place what 0 0 0 0] } }

/-- The partition that holds a core's cluster (R353). -/
def State.partOf (s : State) (c : CoreId) : Option (Fin 16) :=
  (List.finRange 16).find? fun p =>
    match s.hub.parts.at p with
    | some t => t.clusters.getLsbD (clusterOf c).val
    | none => false

/-- A record about a tile run (R328). -/
def runRec (c : CoreId) (r : TileRun) (part : Nat) (kind reason x place what : Nat) : Rec :=
  mkRec (r.tag.toNat * 2 ^ 32 + part * 2 ^ 28 + r.queue.val * 2 ^ 16 + reason * 2 ^ 8 + kind)
    (x * 2 ^ 58 + c.val * 2 ^ 48 + r.record * 2 ^ 32 + r.packet.toNat) place what 0 0 0 0

/-- Posts a record about the tile run of a core to its queue. -/
def State.postRun (s : State) (c : CoreId) (kind reason x place what : Nat) : State :=
  match (s.core c).aux.run with
  | none => s
  | some r =>
    let part := match s.queue r.queue with
      | some e => e.1.part.val
      | none => 0
    s.postRec r.queue (runRec c r part kind reason x place what)

/-! ## Setts: the end of a lease (R17) -/

/-- Ends the lease that a core holds on its Sett, if it does. -/
def State.endLease (s : State) (c : CoreId) : State :=
  s.modSett (settOf c) fun t =>
    if t.lessee = some c then { t with lessee := none, count := 0, last := inGroup c } else t

/-- A core no longer waits for the lease. -/
def State.dropWait (s : State) (c : CoreId) : State :=
  s.modSett (settOf c) fun t => { t with waiting := t.waiting.filter fun d => d != c }

/-! ## The scratchpad of a core (R199, R202, R207) -/

/-- The physical scratchpad offset of a local offset, through the parity of the phase buffer that holds it (R207). -/
def Core.spadMap (k : Core) (o : Nat) : Nat :=
  match k.aux.run with
  | none => o
  | some r =>
    ((List.range r.op.nphase).zip r.op.phases).foldl (fun acc (n, (b, h)) =>
      let par := (k.aux.phases.parity.getLsbD n).toNat
      if b ≤ o && o < b + h then o + par * h
      else if b + h ≤ o && o < b + 2 * h then o - h + (1 - par) * h
      else acc) o

/-- The byte at a local offset of a core's own scratchpad, none at or past T (R200). -/
def Core.spadGet (k : Core) (o : Nat) : Option Byte :=
  if o < k.aux.resv then some (k.spad.get (k.spadMap o)) else none

/-- The hidden cells of a frame, as bytes that a read of the spill region may give (R112). -/
def CallLink.bytes (l : CallLink) : List Byte := bytesOfNat 8 l.retPc.toNat ++ bytesOfNat 8 ((l.base.map (·.val)).getD 0)

/-- An offset lies in a spill region (R112). -/
def Core.inSpill (k : Core) (o : Nat) : Bool := k.aux.resv - k.aux.spill ≤ o && o < k.aux.resv

/-- Bytes join those that a read of the spill region may give. -/
def Core.noteRegion (k : Core) (l : List Byte) : Core :=
  k.modAux fun a => { a with region := l.foldl (fun r b => if r.contains b then r else b :: r) a.region }

/-- The scratchpad with a byte written; nothing at or past T. What a byte of the spill region held stays among the bytes that a read of the region
may give (R112). -/
def Core.spadSet (k : Core) (o : Nat) (v : Byte) : Core :=
  if o < k.aux.resv then
    { (if k.inSpill o then k.noteRegion [(k.spadGet o).getD 0] else k) with spad := k.spad.set (k.spadMap o) v }
  else k

/-- The local-space address of a core's scratchpad (R202). -/
def spadBase (c : CoreId) : Nat := inCluster c * 2 ^ 19

/-- What the spilled frames of a list hold becomes open, their hidden cells included (R112): the return PC, and the base of the caller where
the frame has one. -/
def smearFrames : List Frame → State → List Frame × State
  | [], s => ([], s)
  | f :: r, s =>
    let (f, s) := match f.spilled with
      | none => (f, s)
      | some l =>
        let (ws, s) := s.freeWords l.length
        let (pc, s) := s.freeWord
        let (cb, s) := s.freeWord
        ({ f with spilled := some ws, retPc := pc.setWidth 32 &&& 0xFFFFFFFC, caller := f.caller.map fun _ => Fin.ofNat 512 cb.toNat }, s)
    let (r, s) := smearFrames r s
    (f :: r, s)

/-- The spill region of a core is touched: what its spilled frames hold becomes open (R112). -/
def State.smearSpill (s : State) (d : CoreId) : State :=
  let (l, s) := smearFrames (s.core d).frames s
  s.modCore d fun k => { k with frames := l }

/-! ## Landing (R227 to R233) -/

/-- The physical row of a logical row (R66). -/
def zRow (zb : Fin 16) (n : Nat) : Nat := if n < 16 then n else 16 + (n - 16 + zb.val) % 16

/-- The cell that position r of a Z operand holds (R227), by 32 × row + column. -/
def zCell (o : Opnd) (zb : Fin 16) (r : Nat) : Fin 1024 :=
  match o with
  | .zh n => Fin.ofNat 1024 (zRow zb n.val * 32 + r)
  | .zv n => Fin.ofNat 1024 (zRow zb r * 32 + n.val)
  | .zd n => Fin.ofNat 1024 (zRow zb r * 32 + (r + n.val) % 32)
  | _ => 0

/-- A cell with its two 32-bit lanes replaced where the mask says so. -/
def mergeCell (old new : W64) (lo hi : Bool) : W64 :=
  let a := if lo then new.toNat % 2 ^ 32 else old.toNat % 2 ^ 32
  let b := if hi then new.toNat / 2 ^ 32 else old.toNat / 2 ^ 32
  BitVec.ofNat 64 (a + b * 2 ^ 32)

/-- Writes a line to a Z operand under a lane mask (R227, R256). -/
def zWrite (z : File W64 1024) (o : Opnd) (zb : Fin 16) (lanes : W64) (v : Line) : Nat → File W64 1024
  | 0 => z
  | n + 1 =>
    let z := zWrite z o zb lanes v n
    let c := zCell o zb n
    z.put c (mergeCell (z.at c) (BitVec.ofNat 64 (laneOf v.toNat n 64)) (lanes.getLsbD (2 * n)) (lanes.getLsbD (2 * n + 1)))

/-- The line that a Z operand holds (R227). -/
def zRead (z : File W64 1024) (o : Opnd) (zb : Fin 16) : Line :=
  BitVec.ofNat 2048 (ofLanes 64 ((List.range 32).map fun r => (z.at (zCell o zb r)).toNat))

/-- A line arrives in its slot, from LD or EX: it carries the order of its producer (R93, R205). -/
def Core.fillSlot (k : Core) (p : Seq) (q : Fin 16) (slot : Nat) (v : Line) : Core :=
  { k with streams := k.streams.mod q fun l => l.map fun t => if t.uid = slot then { t with data := some v, seen := k.order p } else t }

/-- A result lands: its flags are set and its destination written (R72, R231, R233). -/
def Core.landOne (k : Core) (f : InFlight) : Core :=
  let k := k.modCr fun c => { c with fpflags := c.fpflags ||| f.flags, ooxCount := if f.oox.isSome then satInc c.ooxCount else c.ooxCount }
  let k := match f.oox with
    | some (pc, true) => k.modFlow .ex 0 fun g => { g with due := g.due ++ [⟨cEXTENT, pc⟩] }
    | _ => k
  let v := f.value.toNat
  match f.dest with
  | .z o zb => k.modEx fun e => { e with z := zWrite e.z o zb f.lanes f.value 32 }
  | .stream q slot => k.fillSlot .ex q slot f.value
  | .mask n => k.modEx fun e => { e with lm := e.lm.put n (BitVec.ofNat 64 v) }
  | .sc => k.modEx fun e => { e with sc := (((e.sc.put 0 (BitVec.ofNat 16 (laneOf v 0 16))).put 1 (BitVec.ofNat 16 (laneOf v 1 16))).put 2
      (BitVec.ofNat 16 (laneOf v 2 16))).put 3 (BitVec.ofNat 16 (laneOf v 3 16)) }
  | .dsc n => k.modEx fun e => { e with dsc := e.dsc.put n (BitVec.ofNat 64 v) }
  | .fmt n => k.modEx fun e => { e with fmt := e.fmt.put n (BitVec.ofNat 32 v) }
  | .fbase => k.modEx fun e => { e with fbase := BitVec.ofNat 4 v }
  | .spad a => (List.range 256).foldl (fun k i => k.spadSet ((a + i) % 2 ^ 32) (BitVec.ofNat 8 (laneOf v i 8))) k

/-- The EX cycle in which the next word of EX issues (R230). -/
def Ex.next (e : Ex) : Nat := e.cycle + 1

/-- The results of a list land in issue order. -/
def Core.landAll (k : Core) (l : List InFlight) : Core := l.foldl Core.landOne k

/-- The results due at the end of EX cycle n land (R230, R231). -/
def Core.landDue (k : Core) (n : Nat) : Core :=
  let due := k.ex.flight.filter fun f => f.land ≤ n
  (k.modEx fun e => { e with flight := e.flight.filter fun f => !(f.land ≤ n) }).landAll due

/-- One EX cycle passes: what is due at its end lands (R230). -/
def Core.exTick (k : Core) : Core := (k.modEx fun e => { e with cycle := e.next }).landDue k.ex.next

/-- A result that writes the spill region. -/
def Core.landsInSpill (k : Core) (f : InFlight) : Bool :=
  match f.dest with
  | .spad a => (List.range 256).any fun i => k.inSpill ((a + i) % 2 ^ 32)
  | _ => false

/-- An EX cycle of a core; a row written to the spill region leaves what it held open (R112, R230). -/
def State.exTick (s : State) (c : CoreId) : State :=
  let k := s.core c
  let touch := k.ex.flight.any fun f => f.land ≤ k.ex.next && k.landsInSpill f
  let s := s.modCore c Core.exTick
  if touch then s.smearSpill c else s

/-- EX stops: pending scratchpad writes are performed, every other result in flight moves into a landing slot with its remaining count
(R232); where EX stands already, its slots keep what they hold. -/
def Core.stopEx (k : Core) : Core :=
  let isPad := fun (f : InFlight) => match f.dest with | .spad _ => true | _ => false
  let rest := (k.ex.flight.filter fun f => !isPad f).map fun f => { f with land := f.land - k.ex.cycle }
  let k := k.landAll (k.ex.flight.filter isPad)
  k.modEx fun e => { e with
    flight := [],
    slots := Vector.ofFn fun n => (((List.finRange 16).filterMap fun m => e.slots.at m) ++ rest)[n.val]? }

/-- EX of a core stops (R112, R232). -/
def State.stopEx (s : State) (c : CoreId) : State :=
  let touch := (s.core c).ex.flight.any (s.core c).landsInSpill
  let s := s.modCore c Core.stopEx
  if touch then s.smearSpill c else s

/-- EX resumes: the count of EX cycles restarts, and the slots land after their counts (R232). -/
def Core.resumeEx (k : Core) : Core :=
  k.modEx fun e => { e with
    cycle := 0, flight := (List.finRange 16).filterMap fun n => e.slots.at n, slots := File.all 16 none }

/-! ## Segments (R155 to R157) -/

/-- One bit of the reflected CRC-32C (R156). -/
def crcBit (c : W32) : W32 := if c.getLsbD 0 then (c >>> 1) ^^^ 0x82F63B78 else c >>> 1

/-- One byte of the signature state (R156). -/
def crcByte (c : W32) (b : Byte) : W32 :=
  let x := c ^^^ (b.setWidth 32)
  crcBit (crcBit (crcBit (crcBit (crcBit (crcBit (crcBit (crcBit x)))))))

/-- One issue of words observed by an open segment (R156). -/
def Seg.observe (g : Seg) (ws : List Nat) : Seg :=
  if g.isOpen then
    { g with obsCount := g.obsCount + 1,
             obsCrc := (ws.flatMap fun w => bytesOfNat 4 w).foldl crcByte g.obsCrc }
  else g

/-- The observed signature (R156). -/
def Seg.signature (g : Seg) : W32 := ~~~g.obsCrc

/-- The closing of a segment finds a difference (R155). -/
def Seg.mismatch (g : Seg) : Bool := g.isOpen && (g.obsCount.toNat != g.expCount.toNat || g.signature != g.expCrc)

/-! ## Traps (R119 to R121) -/

/-- The sequencer's number in `trap.info` (R121). -/
def Seq.num : Seq → Nat
  | .ctl => 0 | .ld => 1 | .ex => 2 | .st => 3

/-- The `trap.info` of a cause other than STALL_BUDGET (R121). -/
def trapInfo (q : Seq) (x : Fin 4) (detail item : Nat) : W64 :=
  BitVec.ofNat 64 (item * 2 ^ 16 + detail * 2 ^ 4 + Seq.num q * 4 + (if q = .ctl then x.val else 0))

/-! ## Packets (R326) -/

def Packet.word (p : Packet) (n : Fin 8) : Nat := (p.words.at n).toNat
def Packet.ty (p : Packet) : Nat := bitsOf (p.word 0) 0 8
def Packet.barrier (p : Packet) : Bool := bitOf (p.word 0) 8
def Packet.notify (p : Packet) : Bool := bitOf (p.word 0) 9
def Packet.tag (p : Packet) : Nat := bitsOf (p.word 0) 32 32
/-- Records of the chain of a LAUNCH. -/
def Packet.count (p : Packet) : Nat := bitsOf (p.word 2) 0 12 + 1
/-- The replacements of the extents of levels 1 to 6, 0 for none. -/
def Packet.extents (p : Packet) : List Nat :=
  [bitsOf (p.word 4) 0 32, bitsOf (p.word 4) 32 32, bitsOf (p.word 5) 0 32, bitsOf (p.word 5) 32 32, bitsOf (p.word 6) 0 32,
   bitsOf (p.word 6) 32 32]

/-- Tile runs of an operator are still to be dispatched. -/
def OpStat.more (o : OpStat) : Bool := decide (o.dispatched < o.total)

/-- A packet is work (R332): a LAUNCH with tile runs to dispatch or records to read, any other packet until it completes. -/
def Packet.isWork (p : Packet) : Bool :=
  !p.started || p.ty != 1 || (!p.stopped && (decide (p.next < p.count) || p.ops.any OpStat.more))

/-! ## Deadline servers (R331, R332) -/

/-- A queue has work (R332). -/
def hasWork (e : Queue × QueueWork) : Bool := e.1.tail != e.1.head || e.2.packets.any Packet.isWork

/-- The rule for becoming ready at a time (R332). -/
def Queue.becomeReady (q : Queue) (t : Int) : Queue :=
  if 0 < q.budget && decide ((q.srv.1 - t) * q.budget ≤ q.srv.2 * q.period) then { q with srv := (t + q.period, q.budget) } else q

/-- A queue that gains work becomes ready; one without work leaves the heap (R332). -/
def State.settle (s : State) (q : Fin 4096) : State :=
  let t : Int := s.hub.timer.toNat
  s.modQueue q fun e =>
    let work := hasWork e
    ({ (if work && !e.1.ready then e.1.becomeReady t else e.1) with ready := work }, e.2)

/-- Every operator of a launch stops dispatching and its chain ends (R336, R339); its queue may have run out of work (R332). -/
def State.stopChain (s : State) (q : Fin 4096) (launch : Nat) : State :=
  (s.modQueue q fun e => (e.1, { e.2 with packets := e.2.packets.map fun p =>
    if p.uid = launch then { p with stopped := true } else p })).settle q

/-- Ends the tile run of a core with a fault completion (R120, R339). -/
def State.endRun (s : State) (c : CoreId) (t : Trap) : State :=
  let s := s.postRun c 1 t.cause.toNat t.x.val t.pc.toNat t.info.toNat
  let s := match (s.core c).aux.run with
    | some r => s.stopChain r.queue r.launch
    | none => s
  s.modCore c fun k => ({ k with mode := .ended }).modAux fun a => { a with fault := some t }

/-- A request of an ended work item: one that is answered is forgotten, another stands under the name 0, so that it is still resent and its tag
not used anew before its answer has come (R306, R307). -/
def Req.ended (r : Req) : Option Req := if r.answer.isSome then none else some { r with uid := 0, loose := none }

/-- Work items have ended: their requests, and their accesses under way, are waited for no more. -/
def Die.endReqs (e : Die) (gone : Nat → Bool) : Die := { e with reqs := e.reqs.filterMap fun r => if gone r.uid then r.ended else some r }
def Core.endAccesses (k : Core) (gone : Nat → Bool) : Core := k.modAux fun a => { a with accs := a.accs.filter fun b => !gone b.uid }

/-- Every waiting `wadr` of the core is given up: it issues anew after the handler (R192). -/
def State.dropWadr (s : State) (c : CoreId) : State :=
  let uids := (List.finRange 4).filterMap fun x => (((s.core c).ctx.at x).wadr).map (·.uid)
  let s := s.modDie (dieOf c) fun e => e.endReqs uids.contains
  s.modCore c fun k => (List.finRange 4).foldl (fun k x => k.modCtx x fun d => { d with wadr := none }) (k.endAccesses uids.contains)

/-- No stream of the core stands at its `phase` any more. -/
def Core.leavePhase (k : Core) : Core :=
  let f := fun (f : Flow) => { f with atPhase := none }
  (((k.modFlow .ctl 0 f).modFlow .ld 0 f).modFlow .ex 0 f).modFlow .st 0 f

/-- Another context of CTL is held by an outstanding `xlat` that a trap must wait for (R120). -/
def Core.xlatOutstanding (k : Core) (t : Trap) : Bool :=
  (List.finRange 4).any fun x => !(t.q == .ctl && t.x == x) && (k.ctx.at x).live && (k.ctx.at x).xl.isSome

/-- A pending result of c0 when handler mode begins: it belongs to the hidden bank too (R120). -/
def Dest.toBank : Dest → Dest
  | .glob _ r => .bank r
  | d => d

/-- A pending result of c0 when handler mode ends (R175). -/
def Dest.fromBank : Dest → Dest
  | .bank r | .saved r => .glob 0 r
  | d => d

/-- Step 4 of R120, with EX's results in landing slots and the core's lease ended. -/
def State.enterTrap (s : State) (c : CoreId) (t : Trap) : State :=
  let s := ((s.endLease c).dropWait c).dropWadr c
  let s := (s.stopEx c).modCore c fun k => k.leavePhase.modAux fun a => { a with trap := none }
  let k := s.core c
  let vec := k.cr.trapVec
  if k.mode = .handler || vec = 0 then s.endRun c t
  else
    let c0 := k.ctx.at 0
    s.modCore c fun k =>
      let k := k.modCr fun r => { r with trapCause := t.cause, trapPc := t.pc &&& 0xFFFFFFFC, trapInfo := t.info,
                                         trapResume := t.resume &&& 0xFFFFFFFC }
      let k := { k with mode := .handler, hand := some ⟨c0.s, c0.flow.p, c0.link, c0.flow.posted, c0.flow.halted, c0.fix, c0.acc, c0.ties, t.q, t.x⟩ }
      k.modCtx 0 fun d => { d with
        loads := d.loads.map fun l => { l with dest := l.dest.toBank },
        res := d.res.map fun r => { r with d1 := r.d1.toBank, d2 := r.d2.toBank, banked := true },
        link := some ⟨c0.flow.pc, ((k.framesOf 0).head?).map (·.base), true⟩, fix := none, acc := none, ties := none,
        flow := { d.flow with pc := vec, stall := 0, wait := none, halted := false, posted := false, atPhase := none } }

/-- TAKING A TRAP (R120): the core stops. Where another context still waits for its `xlat`, the rest follows when that has ended. -/
def State.takeTrap (s : State) (c : CoreId) (t : Trap) : State :=
  if (s.core c).xlatOutstanding t then s.modCore c fun k => k.modAux fun a => { a with trap := some t } else s.enterTrap c t

/-- A precise trap of the word being executed (R64, R119). -/
def State.trapHere (s : State) (cause : BitVec 8) (detail item : Nat) : State :=
  let pc := s.myFlow.pc
  s.takeTrap s.cur.core ⟨cause, s.cur.q, s.cur.x, pc, pc, trapInfo s.cur.q s.cur.x detail item⟩

/-! ## Blocking waits (R117, R118, R121) -/

/-- What a stall report says of the producer: aux, pstate, punit. -/
structure Producer where
  aux : Nat
  state : Nat
  unit : Nat
deriving DecidableEq, Repr

/-- The ring neighbour that posts a counter (R12). -/
def ringPoster (n : Nat) : Seq :=
  match n with
  | 0 => .ctl | 1 => .ld | 2 => .ex | 3 => .st | 4 => .ld | 5 => .ex | 6 => .st | _ => .ctl

/-- The ring neighbour that waits on a counter (R12). A stall report of a held post names it as the producer, since it is what the post waits
for: DESIGN CHOICE (notes/assumptions/52.md). -/
def ringWaiter (n : Nat) : Seq :=
  match n with
  | 0 => .ld | 1 => .ex | 2 => .st | 3 => .ctl | 4 => .ctl | 5 => .ld | 6 => .ex | _ => .st

/-- A sequencer as producer (R121). For CTL the PC and state are those of c0: DESIGN CHOICE (notes/assumptions/52.md). -/
def Core.asProducer (k : Core) (q : Seq) : Producer :=
  let f := k.flow q 0
  ⟨f.pc.toNat, if f.halted then 2 else if k.mode == .handler then 3 else if f.wait.isSome then 1 else 0, Seq.num q⟩

/-- The number of the engine that runs a command (R121). -/
def CmdBody.engine : CmdBody → Nat
  | .copy .. => 4
  | .gather .. => 5
  | .bank .. | .reduce .. => 6
  | .push .. | .pop .. | .peek .. => 7
  | .xall .. | .fred .. | .fput .. | .fget .. | .famo .. | .fbar .. => 8
  | .mma .. | .mmov .. | .mclr .. => 9

/-- A command as producer (R121). -/
def Cmd.asProducer (d : Cmd) : Producer := ⟨d.pc.toNat, if d.started then 5 else 4, d.body.engine⟩

/-- The producer that a stall report names for a wait code of a unit (R121). -/
def State.producerOf (s : State) (c : CoreId) (q : Seq) (x : Fin 4) (code : Nat) : Producer :=
  let k := s.core c
  if code < 8 then k.asProducer (ringPoster code)
  else if code < 16 then k.asProducer (ringWaiter (code - 8))
  else if code < 32 then
    k.asProducer (if code < 24 then (if q == .ld then .ex else .ld) else (if q == .st then .ex else .st))
  else if code = 0x20 || code = 0x21 then k.asProducer .ctl
  else if code < 0x28 then k.asProducer (match (code - 0x22) % 3 with | 0 => .ld | 1 => .ex | _ => .st)
  else if code = 0x28 || code = 0x29 then ⟨0, 6, 0⟩
  else if code = 0x2A then
    match (s.setts.at (settOf c)).lessee with
    | some l => ⟨l.val, 0, 9⟩
    | none => ⟨0, 6, 9⟩
  else if code = 0x2B then
    match (List.finRange 4).find? fun y => y != x && (k.ctx.at y).live && (k.ctx.at y).mode == .tail with
    | some y => ⟨(k.ctx.at y).flow.pc.toNat, if k.mode == .handler then 3 else if (k.ctx.at y).flow.wait.isSome then 1 else 0, 0⟩
    | none => ⟨0, 6, 0⟩
  else if code = 0x2C then ⟨0, 6, 8⟩
  else match s.producer c (Fin.ofNat 32 (code - 0x40)) with
    | some d => d.asProducer
    | none => ⟨0, 6, 0⟩

/-- The STALL_BUDGET trap of a held word (R117, R121). -/
def State.stallTrap (s : State) (c : CoreId) (q : Seq) (x : Fin 4) (code : Nat) : State :=
  let p := s.producerOf c q x code
  let pc := ((s.core c).flow q x).pc
  let info := BitVec.ofNat 64 (p.aux * 2 ^ 32 + code * 2 ^ 16 + p.state * 2 ^ 12 + p.unit * 2 ^ 8 + Seq.num q * 4 +
    (if q = .ctl then x.val else 0))
  s.takeTrap c ⟨cSTALL, q, x, pc, pc, info⟩

/-- The pin entry of a token of a core, read as it stands in memory (R135): its three words. -/
def State.pinWord (s : State) (base : BitVec 52) (index : Nat) (n : Nat) : Nat := s.mem.num (base.toNat + 32 * index + 8 * n) 8

/-- Fields of a token (R134). -/
def tokValid (t : W64) : Bool := t.getLsbD 63
def tokWatch (t : W64) : Bool := t.getLsbD 62
def tokLen (t : W64) : Nat := bitsOf t.toNat 32 30 + 1
def tokRsv (t : W64) : Bool := t.getLsbD 31
def tokDie (t : W64) : Fin 64 := Fin.ofNat 64 (bitsOf t.toNat 25 6)
def tokRemote (t : W64) : Bool := t.getLsbD 24
def tokRd (t : W64) : Bool := t.getLsbD 23
def tokWr (t : W64) : Bool := t.getLsbD 22
def tokGen (t : W64) : Nat := bitsOf t.toNat 10 12
def tokIndex (t : W64) : Nat := bitsOf t.toNat 0 10

/-- State and generation of a pin entry (R135). -/
def State.pinState (s : State) (base : BitVec 52) (index : Nat) : Nat := bitsOf (s.pinWord base index 2) 0 3
def State.pinGen (s : State) (base : BitVec 52) (index : Nat) : Nat := bitsOf (s.pinWord base index 2) 16 12

/-- An access through a token is held at a FROZEN entry, or at the FROZEN copy of an ingress MMU (R136, R138). -/
def State.frozenTok (s : State) (k : Core) (t : W64) : Bool :=
  tokValid t && !tokRsv t && s.pinGen k.cr.pinBase (tokIndex t) == tokGen t &&
  (s.pinState k.cr.pinBase (tokIndex t) == 2 || (tokRemote t && (List.finRange 4).any fun d => (s.dies.at d).pins.any fun p =>
    p.base == k.cr.pinBase && p.index.toNat == tokIndex t && p.gen.toNat == tokGen t && p.state == 2))

/-- The tokens that a command names. -/
def Cmd.toks (d : Cmd) : List W64 :=
  match d.body with
  | .copy _ t .. | .gather _ t .. | .bank _ _ _ t .. | .reduce _ _ t .. | .fred _ _ t .. | .fput t .. | .fget t .. | .famo _ _ _ t .. => [t]
  | .xall t _ u .. => [t, u]
  | _ => []

/-- Some access of the core is held at a FROZEN entry (R118). -/
def State.heldFrozen (s : State) (c : CoreId) : Bool :=
  let k := s.core c
  let toks := (List.finRange 4).flatMap (fun x =>
      let d := k.ctx.at x
      d.loads.map (·.tok) ++ d.stores.map (·.tok) ++ d.acc.toList.map (·.2) ++ d.wadr.toList.map (·.tok)) ++
    (k.ld.pend ++ k.st.pend).filterMap (fun p => match p.op with | .eng _ => none | _ => if p.done then none else some p.tok) ++
    ((s.allCmds c).filter (·.started)).flatMap Cmd.toks
  toks.any fun t => s.frozenTok k t

/-- A page request of the core is outstanding (R42), at the host of this package or at that of another one (R138). -/
def State.pageOutstanding (s : State) (c : CoreId) : Bool :=
  (s.hub.preqs.any fun r => match r.core with | some (d, _) => d == c | none => false) ||
  (List.finRange 4).any fun x => match ((s.core c).ctx.at x).xl with | some p => p.away | none => false

/-- Data flits of a link are held for key exhaustion: from counter 2^40 - 1 on (R304). -/
def Link.exhausted (l : Link) : Bool := l.keyHeld || decide (2 ^ 40 - 1 ≤ l.keyCtr)

/-- A link of the package is held for key exhaustion (R304). -/
def State.keyHeld (s : State) : Bool :=
  (List.finRange 4).any fun d => (List.finRange 6).any fun p => (((s.dies.at d).links.at p)).exhausted

/-- The stall counters of a unit pause (R118). -/
def State.paused (s : State) (c : CoreId) (q : Seq) (x : Fin 4) : Bool :=
  let k := s.core c
  s.heldFrozen c || s.pageOutstanding c || s.keyHeld || k.aux.hold || (k.mode == .handler && !(q == .ctl && x == 0))

/-- One stalled cycle of a unit held by a blocking wait; at the budget, STALL_BUDGET (R117). -/
def State.stallCycle (s : State) (c : CoreId) (q : Seq) (x : Fin 4) (code : Nat) : State :=
  let s := s.modCore c fun k => k.modFlow q x fun f => { f with wait := some code }
  if s.paused c q x then s
  else
    let f := (s.core c).flow q x
    let s := s.modCore c fun k => k.modFlow q x fun f => { f with stall := f.stall + 1 }
    if f.budget.toNat ≤ f.stall + 1 then s.stallTrap c q x code else s

/-! ## The turn of a context (R28, R110) -/

/-- The queue toward a sequencer, by 0 LD, 1 EX, 2 ST. -/
def queueOf : Seq → Fin 3
  | .ex => 1
  | .st => 2
  | _ => 0

/-- Tails of the core that have not ended. -/
def Core.tailsLive (k : Core) : Bool := (k.ctx.at 1).live || (k.ctx.at 2).live || (k.ctx.at 3).live

/-- A stream register's next line is present (R16). -/
def Core.lineReady (k : Core) (q : Fin 16) : Bool :=
  match k.streams.at q with
  | [] => false
  | t :: _ => t.data.isSome

/-- A stream register has a free slot (R16, R205). -/
def Core.slotFree (k : Core) (q : Fin 16) : Bool := (k.streams.at q).length < 8

/-- The blocking wait of a code holds a stream in this state. -/
def State.stillHeld (s : State) (c : CoreId) (q : Seq) (x : Fin 4) (code : Nat) : Bool :=
  let k := s.core c
  let t := s.setts.at (settOf c)
  if (k.flow q x).atPhase.isSome then true
  else if code < 8 then k.rings.at (Fin.ofNat 8 code) == 0
  else if code < 16 then
    let l := k.lseq (q == .st)
    k.rings.at (Fin.ofNat 8 (code - 8)) == 63 || ((q == .ld || q == .st) &&
      ((code == 8 + (ringSa q).val && l.heldSa) || (code == 8 + (ringSb q).val && l.heldSb)))
  else if code < 32 then
    let r := Fin.ofNat 16 (code - 16)
    if q == .ex then (if r.val < 8 then !k.lineReady r else !k.slotFree r)
    else if q == .st then !k.lineReady r
    else !k.slotFree r
  else if code = 0x20 then (k.values.at (queueOf q)).isEmpty
  else if code = 0x21 then (k.outcomes.at (queueOf q)).isEmpty
  else if code < 0x25 then decide (16 ≤ (k.values.at (Fin.ofNat 3 (code - 0x22))).length)
  else if code < 0x28 then decide (32 ≤ (k.outcomes.at (Fin.ofNat 3 (code - 0x25))).length)
  else if code = 0x28 then !(k.ctx.at x).latch
  else if code = 0x29 then match (k.ctx.at x).wadr with | some w => !w.awake | none => false
  else if code = 0x2A then t.lessee != some c || decide (16 ≤ t.queue.length)
  else if code = 0x2B then k.tailsLive
  else if code = 0x2C then decide (32 ≤ (s.dies.at (dieOf c)).fabQ.length)
  else !k.markDone (Fin.ofNat 32 (code - 0x40))

/-- A context of CTL is ready (R110): it exists, has not halted, and neither a blocking wait nor R41 holds it. -/
def State.ready (s : State) (c : CoreId) (x : Fin 4) : Bool :=
  let d := (s.core c).ctx.at x
  d.live && !d.flow.halted && d.xl.isNone && (match d.flow.wait with | some code => !s.stillHeld c .ctl x code | none => true)

/-- CTL's issue slot may go to a context (R28, R110): in round-robin order no ready context stands between the one that had the last slot and
it. In handler mode c0 alone issues (R120). -/
def State.slotOf (s : State) (c : CoreId) (x : Fin 4) : Bool :=
  let n := (s.core c).aux.lastCtx
  (s.core c).mode == .handler ||
  (List.finRange 4).all fun y => !(decide ((y - n - 1).val < (x - n - 1).val) && s.ready c y)

/-- The context of the unit has had CTL's issue slot. -/
def State.hadSlot (s : State) : State :=
  if s.cur.q == .ctl then s.modMe fun k => k.modAux fun a => { a with lastCtx := s.cur.x } else s

/-! ## Issuing a word -/

/-- What the body of an instruction does at its turn: it issues and goes to the next word, or to a PC, or what its issue brings about follows; it is held by a blocking wait, or
by an interlock or another hold that is no blocking wait (with what the hold itself changes); it raises a precise trap with detail and
item; it completes and raises a delivered trap; or the state has moved on by other means (a machine check). -/
inductive Act where
  | go (s : State)
  | jump (s : State) (pc : W32)
  | goThen (s : State) (f : State → State)
  | wait (code : Nat)
  | waitIn (s : State) (code : Nat)
  | hold (s : State)
  | trap (cause : BitVec 8) (detail item : Nat)
  | trapIn (s : State) (cause : BitVec 8) (detail item : Nat)
  | deliver (s : State) (cause : BitVec 8) (item : Nat)
  | moved (s : State)

/-- What the issue of a word depends on beside its body: its ring field, its words, whether its posts act at completion (R13), whether it
may issue in a tail or in handler mode (R63), whether it is `enter` (R113), whether it is `xlat`
(R41), and whether no segment observes it (R156). -/
structure WordInfo where
  y : Ring
  words : List Nat
  memory : Bool
  noTail : Bool
  noHandler : Bool
  isEnter : Bool
  isXlat : Bool
  quiet : Bool

/-- A word with its ring field and words and nothing special. -/
def plainWord (y : Ring) (ws : List Nat) : WordInfo := ⟨y, ws, false, false, false, false, false, false⟩

/-- The ring field is zero. -/
def ringNone (y : Ring) : Bool := !y.wb && !y.wa && !y.sb && !y.sa

/-- A unit whose turn it is. -/
def State.atTurn (s : State) (c : CoreId) (q : Seq) (x : Fin 4) : State := { s with cur := ⟨c, q, if q = .ctl then x else 0⟩ }

/-- The stream of a unit may issue: the core runs, EX, LD and ST only outside handler mode, CTL's other contexts likewise; it has not
halted; no hold of a pre-emption, no waiting trap, no outstanding `xlat` stops it (R25, R41, R120, R341); and CTL's issue slot is its own
(R28, R110). -/
def State.mayIssue (s : State) : Bool :=
  let k := s.me
  let c := s.myCtx
  let f := s.myFlow
  !f.halted && !k.aux.hold && k.aux.trap.isNone &&
  (k.mode == .running || (k.mode == .handler && s.cur.q == .ctl && s.cur.x == 0)) &&
  (s.cur.q != .ctl || (c.live && c.xl.isNone && s.slotOf s.cur.core s.cur.x))

/-- The word issues: its ring field acts, the segment observes it, its stall counter clears, and it goes to a PC (R13, R117, R156); a context
of CTL has had its issue slot (R28). -/
def State.issued (s : State) (i : WordInfo) (pc : W32) : State :=
  let handler := s.me.mode == .handler
  let s := if s.cur.q == .ex then s.exTick s.cur.core else s
  s.modMe fun k =>
    let f := k.flow s.cur.q s.cur.x
    let k := if f.posted then k else k.takeRing s.cur.q i.y
    let k := if f.posted || i.memory then k else k.postRing s.cur.q i.y
    let k := if s.cur.q == .ctl then k.modAux fun a => { a with lastCtx := s.cur.x } else k
    k.modFlow s.cur.q s.cur.x fun f =>
      { f with pc := pc, stall := 0, wait := none, posted := false, atPhase := none,
               seg := if handler || i.quiet then f.seg else f.seg.observe i.words }

/-- The PC after the word. -/
def State.nextPc (s : State) (i : WordInfo) : W32 := s.myFlow.pc + BitVec.ofNat 32 (4 * i.words.length)

/-- The first delivered cause that waits for the unit is taken at this boundary (R107, R213). -/
def State.takeDue (s : State) (d : Due) : State :=
  let pc := s.myFlow.pc
  let s := s.modMyFlow fun f => { f with due := f.due.tail }
  s.takeTrap s.cur.core ⟨d.cause, s.cur.q, s.cur.x, d.pc, pc, trapInfo s.cur.q s.cur.x 0 0⟩

/-- A tail, or a handler, refuses the word: one of R63's check 5, or a word with ring operations (R25, R114, R120). -/
def State.barred (s : State) (i : WordInfo) : Bool :=
  s.cur.q == .ctl && ((s.me.isTail s.cur.x && (i.noTail || !ringNone i.y)) || (s.me.mode == .handler && (i.noHandler || !ringNone i.y)))

/-- A call or the entry of a handler has left a link, and the word is not the `enter` it asks for (R113). -/
def State.enterDue (s : State) (i : WordInfo) : Bool := s.cur.q == .ctl && s.myCtx.link.isSome && !i.isEnter

/-- The blocking wait of the word's ring field: a counter at 0, a full counter, or a completion post that is held (R13, R117). A word whose
ring field has acted waits for none. -/
def State.ringHold (s : State) (i : WordInfo) : Option Nat :=
  if s.myFlow.posted then none
  else match s.me.ringWait s.cur.q i.y with
    | some c => some c
    | none => if i.memory then s.me.heldWait s.cur.q i.y else s.me.postWait s.cur.q i.y

/-- Nothing stands before the word: its unit may issue, no delivered cause waits, no check of R63 and no ring wait stops it. -/
def State.clear (s : State) (i : WordInfo) : Bool :=
  s.mayIssue && s.myFlow.due.isEmpty && !s.barred i && !s.enterDue i && (s.ringHold i).isNone

/-- The word is held by what is no blocking wait; a context of CTL gives up its issue slot of this cycle (R110, R117). -/
def State.heldOff (s : State) : State := (s.modMyFlow fun f => { f with wait := none }).hadSlot

/-- What becomes of the machine with what the body of a word did. -/
def State.act (s : State) (i : WordInfo) : Act → State
  | .go t => t.issued i (s.nextPc i)
  | .jump t pc => t.issued i pc
  | .goThen t f => f (t.issued i (s.nextPc i))
  | .wait code => s.stallCycle s.cur.core s.cur.q s.cur.x code
  | .waitIn t code => t.stallCycle s.cur.core s.cur.q s.cur.x code
  | .hold t => t.heldOff
  | .trap cause detail item => s.trapHere cause detail item
  | .trapIn t cause detail item => t.trapHere cause detail item
  | .deliver t cause item =>
    (t.issued i (s.nextPc i)).takeTrap s.cur.core
      ⟨cause, s.cur.q, s.cur.x, s.myFlow.pc, s.nextPc i, trapInfo s.cur.q s.cur.x 0 item⟩
  | .moved t => t

/-- ISSUING A WORD. A delivered cause that waits, the checks of R63 that depend on the context, the expectation of `enter`, the ring waits
and held posts, then the body (R13, R63, R107, R113, R117). -/
def State.runWord (s : State) (i : WordInfo) (body : State → Act) : State :=
  if !s.mayIssue then s
  else match s.myFlow.due with
  | d :: _ => s.takeDue d
  | [] =>
    if s.barred i then s.trapHere cTAIL 0 0
    else if s.enterDue i then (s.modMyCtx fun c => { c with link := none }).trapHere cFRAME 1 0
    else match s.ringHold i with
    | some code => s.stallCycle s.cur.core s.cur.q s.cur.x code
    | none => s.act i (body s)

/-- A word's meaning as an outcome: the machine goes on. -/
def State.word (s : State) (i : WordInfo) (body : State → Act) : Host.Outcome State Fault Refusal := .next (s.runWord i body)

/-- The words of an instruction in the stream that executes it. -/
def State.wordsOf (s : State) (j : Instr) : List Nat := Sys2Proof.encode s.cur.q j

/-- The information of a word with nothing special, and of a memory word of LD or ST, whose posts act at completion (R13). -/
def State.plain (s : State) (y : Ring) (j : Instr) : WordInfo := plainWord y (s.wordsOf j)
def State.memWord (s : State) (y : Ring) (j : Instr) : WordInfo := { s.plain y j with memory := true }

end Sys2Proof.Machine
end

