-- ==== Sys2Proof/Machine/Net.lean ====
section
/-! DEFINITION. The fabric as a carrier: coordinates and paths (R295 to R297), flits and links (R298 to R304), records and tags (R305 to
R309). -/

namespace Sys2Proof

open Machine

/-- The number of a port (R352). -/
def Port.num : Port → Fin 6
  | .xp => 0 | .xm => 1 | .yp => 2 | .ym => 3 | .zp => 4 | .zm => 5

def Flit.seq (f : Flit) : BitVec 12 := BitVec.ofNat 12 (bitsOf f.hdr.toNat 52 12)
def Flit.ack (f : Flit) : BitVec 12 := BitVec.ofNat 12 (bitsOf f.hdr.toNat 40 12)
def Flit.stop (f : Flit) : BitVec 4 := BitVec.ofNat 4 (bitsOf f.hdr.toNat 36 4)
def Flit.vc (f : Flit) : Nat := bitsOf f.hdr.toNat 34 2
def Flit.kind (f : Flit) : Nat := bitsOf f.hdr.toNat 32 2
def Flit.dst (f : Flit) : Nat := bitsOf f.hdr.toNat 26 6
def Flit.src (f : Flit) : Nat := bitsOf f.hdr.toNat 20 6
def Flit.dirs (f : Flit) : Nat := bitsOf f.hdr.toNat 0 3

/-- A flit with sequence number, acknowledgement and stop bits (R300, R301). -/
def Flit.stamp (f : Flit) (seq ack : BitVec 12) (stop : BitVec 4) : Flit :=
  { f with hdr := BitVec.ofNat 64 (seq.toNat * 2 ^ 52 + ack.toNat * 2 ^ 40 + stop.toNat * 2 ^ 36 + f.hdr.toNat % 2 ^ 36) }

/-- Fields of a record header (R305). -/
def Flit.ctx (f : Flit) : Fin 4 := Fin.ofNat 4 (bitsOf f.h0.toNat 40 2)
def Flit.core (f : Flit) : Nat := bitsOf f.h0.toNat 32 8
def Flit.op (f : Flit) : Nat := bitsOf f.h0.toNat 24 8
def Flit.count (f : Flit) : Nat := bitsOf f.h0.toNat 16 8
def Flit.rkind (f : Flit) : Nat := bitsOf f.h0.toNat 11 5
def Flit.epoch (f : Flit) : Bool := bitOf f.h0.toNat 10
def Flit.tag (f : Flit) : BitVec 10 := BitVec.ofNat 10 (bitsOf f.h0.toNat 0 10)
def Flit.tgt (f : Flit) (lo len : Nat) : Nat := bitsOf f.h1.toNat lo len

end Sys2Proof

namespace Sys2Proof.Machine

/-! ## Coordinates and paths -/

/-- Coordinates of a die in the torus (R295). -/
structure Xyz where
  x : Nat
  y : Nat
  z : Nat
deriving DecidableEq, Repr

/-- Dies of the fabric (R295). -/
def Fabric.size (f : Fabric) : Nat := f.ex * f.ey * f.ez

/-- Coordinates of a die address, and the address of coordinates (R295). -/
def Fabric.coords (f : Fabric) (a : Nat) : Xyz := ⟨a % f.ex, a / f.ex % f.ey, a / (f.ex * f.ey)⟩
def Fabric.addr (f : Fabric) (c : Xyz) : Nat := c.x + f.ex * (c.y + f.ey * c.z)

/-- Coordinates and address of a die of the package (R295). -/
def Fabric.place (f : Fabric) (d : Fin 4) : Xyz := ⟨2 * f.pa + d.val % 2, 2 * f.pb + d.val / 2, f.pz⟩
def Fabric.dieAddr (f : Fabric) (d : Fin 4) : Fin 64 := Fin.ofNat 64 (f.addr (f.place d))

/-- The die of the package that has an address. -/
def Fabric.dieOf (f : Fabric) (a : Nat) : Option (Fin 4) := (List.finRange 4).find? fun d => (f.dieAddr d).val == a

/-- A coordinate, and the extent, of a dimension: 0 X, 1 Y, 2 Z. -/
def Xyz.get (c : Xyz) (k : Fin 3) : Nat := if k = 0 then c.x else if k = 1 then c.y else c.z
def Xyz.put (c : Xyz) (k : Fin 3) (v : Nat) : Xyz := if k = 0 then { c with x := v } else if k = 1 then { c with y := v } else { c with z := v }
def Fabric.extent (f : Fabric) (k : Fin 3) : Nat := if k = 0 then f.ex else if k = 1 then f.ey else f.ez

/-- The port that leads in a direction of a dimension from a coordinate (R296). -/
def portOf (k : Fin 3) (c : Nat) (minus : Bool) : Port :=
  if k = 0 then (if (c % 2 == 0) != minus then .xp else .xm)
  else if k = 1 then (if (c % 2 == 0) != minus then .yp else .ym)
  else if minus then .zm else .zp

/-- The links of n steps in a direction of a dimension, and where they end. -/
def Fabric.walk (f : Fabric) (k : Fin 3) (minus : Bool) : Nat → Xyz → List (Fin 64 × Port) × Xyz
  | 0, c => ([], c)
  | n + 1, c =>
    let e := f.extent k
    let v := if minus then (c.get k + e - 1) % e else (c.get k + 1) % e
    let r := f.walk k minus n (c.put k v)
    ((Fin.ofNat 64 (f.addr c), portOf k (c.get k) minus) :: r.1, r.2)

/-- A path: the direction bits dx, dy, dz and its links. -/
structure Path where
  dirs : Nat
  links : List (Fin 64 × Port)
deriving DecidableEq, Repr

/-- One dimension of a path: the preferred direction, else the opposite one (R297). -/
def Fabric.leg (f : Fabric) (k : Fin 3) (c : Xyz) (t : Nat) : Option (Bool × List (Fin 64 × Port) × Xyz) :=
  let e := f.extent k
  let up := (t + e - c.get k) % e
  let dn := (c.get k + e - t) % e
  if up = 0 then some (false, [], c)
  else
    let plus := f.walk k false up c
    let minus := f.walk k true dn c
    let ok := fun (l : List (Fin 64 × Port)) => l.all f.up.contains
    let first := decide (up ≤ dn)
    if first && ok plus.1 then some (false, plus.1, plus.2)
    else if ok minus.1 then some (true, minus.1, minus.2)
    else if ok plus.1 then some (false, plus.1, plus.2)
    else none

/-- The path from a die address to another, none where it is unreachable (R297). -/
def Fabric.path (f : Fabric) (src dst : Nat) : Option Path :=
  let t := f.coords dst
  match f.leg 0 (f.coords src) t.x with
  | none => none
  | some (dx, l0, c1) =>
    match f.leg 1 c1 t.y with
    | none => none
    | some (dy, l1, c2) =>
      match f.leg 2 c2 t.z with
      | none => none
      | some (dz, l2, _) => some ⟨dx.toNat + 2 * dy.toNat + 4 * dz.toNat, l0 ++ l1 ++ l2⟩

/-- The port by which a flit leaves a die toward its destination, none at the destination (R297). -/
def Fabric.out (f : Fabric) (here dst dirs : Nat) : Option Port :=
  let c := f.coords here
  let t := f.coords dst
  if c.x != t.x then some (portOf 0 c.x (bitOf dirs 0))
  else if c.y != t.y then some (portOf 1 c.y (bitOf dirs 1))
  else if c.z != t.z then some (portOf 2 c.z (bitOf dirs 2))
  else none

/-- The package sibling that a UCIe port reaches (R296). -/
def sibling (d : Fin 4) : Port → Option (Fin 4)
  | .xp => some (Fin.ofNat 4 (if d.val % 2 = 0 then d.val + 1 else d.val - 1))
  | .yp => some (Fin.ofNat 4 ((d.val + 2) % 4))
  | _ => none

/-- A port can take part in the fabric (R296). -/
def Fabric.portOk (f : Fabric) (p : Port) : Bool :=
  match p with
  | .xp | .yp => true
  | .xm => f.ex != 2
  | .ym => f.ey != 2
  | .zp | .zm => f.ez != 1

/-! ## Flits (R300) -/

def hdrWord (vc kind dst src len dirs : Nat) : W64 :=
  BitVec.ofNat 64 (vc * 2 ^ 34 + kind * 2 ^ 32 + dst * 2 ^ 26 + src * 2 ^ 20 + len * 2 ^ 12 + dirs)

/-! ## Links (R299 to R302, R304) -/

def State.link (s : State) (d : Fin 4) (p : Port) : Link := (s.dies.at d).links.at p.num
def State.modLink (s : State) (d : Fin 4) (p : Port) (f : Link → Link) : State :=
  s.modDie d fun e => { e with links := e.links.mod p.num f }

/-- A link carries flits. -/
def Link.isUp (l : Link) : Bool := l.state == .full || l.state == .half

/-- A sequenced flit may be sent now (R299, R301, R304). -/
def Link.maySend (l : Link) (f : Flit) : Bool :=
  l.isUp && decide (l.replay.length < 1024) && !(l.exhausted && f.kind != 3) && !l.stop.getLsbD f.vc

/-- The IV of a link direction's next sequenced flit (R303). -/
def Link.iv (l : Link) : BitVec 96 := BitVec.ofNat 96 (l.fixed.toNat * 2 ^ 64 + l.keyCtr % 2 ^ 40)

/-- Sends waiting flits while the link takes them; a flit for the outside leaves the package at once. -/
def Link.pump (toWire : Bool) : Nat → Link → Link
  | 0, l => l
  | n + 1, l =>
    match l.waiting.findIdx? l.maySend with
    | none => l
    | some i =>
      match l.waiting[i]? with
      | none => l
      | some f =>
        let g := { f.stamp l.txSeq l.rxSeq l.txStop with iv := l.iv, via := none }
        Link.pump toWire n { l with
          waiting := l.waiting.eraseIdx i, txSeq := l.txSeq + 1, keyCtr := l.keyCtr + 1, replay := l.replay ++ [g],
          wire := if toWire then l.wire ++ [g] else l.wire }

/-- The ports in the order of their numbers. -/
def allPorts : List Port := [.xp, .xm, .yp, .ym, .zp, .zm]

/-- The stop bits that each port of a die sends back, by the flits of each VC that the die holds from it (R299). -/
def Die.setStops (e : Die) : Die :=
  let flits := e.ingress ++ (List.finRange 6).flatMap fun n => (e.links.at n).waiting
  let held := fun (p : Port) (v : Nat) => (flits.filter fun f => f.via == some p && f.vc == v).length
  let bit := fun (p : Port) (l : Link) (v : Nat) =>
    if 48 ≤ held p v then true else if held p v < 32 then false else l.txStop.getLsbD v
  { e with links := allPorts.foldl (fun ls p => ls.mod p.num fun l =>
    { l with txStop := BitVec.ofNat 4 ((bit p l 0).toNat + 2 * (bit p l 1).toNat + 4 * (bit p l 2).toNat + 8 * (bit p l 3).toNat) }) e.links }
def State.setStops (s : State) (d : Fin 4) : State := s.modDie d Die.setStops

/-- A port of a die sends what it may. -/
def State.pump (s : State) (d : Fin 4) (p : Port) : State :=
  (s.modLink d p fun l => Link.pump (sibling d p).isSome l.waiting.length l).setStops d

/-- A flit at a die goes on toward its destination, or has arrived: a response is left for `RESPONSE`, any other record for the ingress. -/
def State.forward (s : State) (d : Fin 4) (f : Flit) : State :=
  let fab := s.hub.fab
  match fab.out (fab.dieAddr d).val f.dst f.dirs with
  | none => s.modDie d fun e => { e with ingress := e.ingress ++ [f] }
  | some p => (s.modLink d p fun l => { l with waiting := l.waiting ++ [f] }).pump d p

/-! ## Records (R305 to R309) -/

/-- A request as its source makes it; `watch` is the party whose access the race detector watches, with its scope (R107). -/
structure Ask where
  piece : Nat
  dst : Fin 64
  vc : Fin 4
  kind : Nat
  op : Nat
  core : Nat
  ctx : Nat
  target : Nat
  count : Nat
  data : List Byte
  watch : Option (CoreId × Seq × Fin 4 × Scope)
deriving DecidableEq, Repr

/-- The first word of a record header (R305). -/
def rec0 (ctx core op count kind : Nat) (epoch : Bool) (tag : Nat) : W64 :=
  BitVec.ofNat 64 (ctx * 2 ^ 40 + core * 2 ^ 32 + op * 2 ^ 24 + count * 2 ^ 16 + kind * 2 ^ 11 + epoch.toNat * 2 ^ 10 + tag)

/-- The flit of a request (R300, R305). -/
def Ask.flit (a : Ask) (src dirs : Nat) (tag : BitVec 10) (epoch : Bool) : Flit :=
  { hdr := hdrWord a.vc.val 0 a.dst.val src (16 + a.data.length) dirs,
    h0 := rec0 a.ctx a.core a.op a.count a.kind epoch tag.toNat, h1 := BitVec.ofNat 64 a.target, data := a.data }

/-- Flits of the package that have not reached the die they go to: on wires, in replay buffers, waiting, at an ingress. -/
def State.flying (s : State) : List Flit :=
  (List.finRange 4).flatMap fun d =>
    let e := s.dies.at d
    e.ingress ++ (List.finRange 6).flatMap fun p =>
      let l := e.links.at p
      l.wire ++ l.replay ++ l.waiting

/-- A tag free toward a destination, with the epoch it takes; which one is left open. A tag whose request was resent is used again only
when no copy of it stands anywhere (R306, notes/assumptions/15.md). -/
def State.pickTag (s : State) (d : Fin 4) (dst : Fin 64) : Option (BitVec 10 × Bool) × State :=
  let e := s.dies.at d
  let src := (s.hub.fab.dieAddr d).val
  let copies := (s.flying.filter fun f => f.src == src && f.dst == dst.val && f.rkind != 10).map Flit.tag
  let used := (e.reqs.filter fun r => r.dst == dst && r.answer.isNone).map (·.tag) ++ copies
  let free := (List.range 1024).filter fun n => !used.contains (BitVec.ofNat 10 n)
  let (n, s) := s.freeNat
  match free[n % free.length]? with
  | none => (none, s)
  | some t =>
    let tag := BitVec.ofNat 10 t
    let epoch := match e.tags.find? fun x => x.1 == dst && x.2.1 == tag with
      | some x => !x.2.2
      | none => true
    (some (tag, epoch), s.modDie d fun e =>
      { e with tags := (dst, tag, epoch) :: e.tags.filter fun x => !(x.1 == dst && x.2.1 == tag) })

/-- A die sends no new record to a destination while it keeps silent toward it (R297). -/
def Die.silentTo (e : Die) (dst : Fin 64) : Bool := e.silent.any fun x => x.1 == dst

/-- A die sends a request of a work item. A destination without a path fails at once (R309); toward a destination kept silent after a
path change the request waits (R297); with every tag in use nothing is sent yet (R306). -/
def State.ask (s : State) (d : Fin 4) (uid : Nat) (a : Ask) : State :=
  let fab := s.hub.fab
  let src := (fab.dieAddr d).val
  let mk := fun (tag : BitVec 10) (epoch : Bool) (flit : Flit) (bad : Bool) (s : State) =>
    s.modDie d fun e => { e with reqs := e.reqs ++ [⟨uid, a.piece, a.dst, a.vc, tag, epoch, flit, false, if bad then some [] else none, bad, none, a.watch, none⟩] }
  match fab.path src a.dst.val with
  | none => mk 0 false (a.flit src 0 0 false) true s
  | some p =>
    match s.pickTag d a.dst with
    | (none, s) => s
    | (some (tag, epoch), s) =>
      let flit := a.flit src p.dirs tag epoch
      let s := mk tag epoch flit false s
      if (s.dies.at d).silentTo a.dst then s else s.forward d flit

/-- The requests of a work item on a die, in the order sent. -/
def State.reqsOf (s : State) (d : Fin 4) (uid : Nat) : List Req := (s.dies.at d).reqs.filter fun r => r.uid == uid

/-- Sends those of the pieces that have no request yet. -/
def State.askAll (s : State) (d : Fin 4) (uid : Nat) (l : List Ask) : State :=
  l.foldl (fun s a => if (s.reqsOf d uid).any fun r => r.piece == a.piece then s else s.ask d uid a) s

/-- The answer to a piece, once it has come: its bytes, whose first holds the flags of the answer. -/
def State.answerOf (s : State) (d : Fin 4) (uid piece : Nat) : Option Req :=
  (s.reqsOf d uid).find? fun r => r.piece == piece && r.answer.isSome

/-- Every piece has its answer. -/
def State.allAnswered (s : State) (d : Fin 4) (uid : Nat) (l : List Ask) : Bool :=
  l.all fun a => (s.answerOf d uid a.piece).isSome

/-- The requests of a finished work item are waited for no more. -/
def State.dropReqs (s : State) (d : Fin 4) (uid : Nat) : State :=
  if (s.dies.at d).reqs.all fun r => r.uid != uid then s else s.modDie d fun e => e.endReqs (· == uid)

/-- A die's flit that asks on behalf of a work item still unanswered. -/
def State.asksFor (s : State) (d : Fin 4) (uid : Nat) (f : Flit) : Bool :=
  f.src == (s.hub.fab.dieAddr d).val && f.rkind != 10 && (s.reqsOf d uid).any fun r =>
    r.answer.isNone && r.dst.val == f.dst && r.tag == f.tag && r.epoch == f.epoch

/-- Every unanswered request of a work item waits at an ingress of the package. -/
def State.landed (s : State) (d : Fin 4) (uid : Nat) : Bool :=
  (s.reqsOf d uid).all fun r => r.answer.isSome || (List.finRange 4).any fun e => (s.dies.at e).ingress.any fun f =>
    f.src == (s.hub.fab.dieAddr d).val && f.rkind != 10 && r.dst.val == f.dst && r.tag == f.tag && r.epoch == f.epoch

/-- The mark of a piece of a contribution (notes/assumptions/18.md). -/
def Flit.redMark (f : Flit) : Nat := (f.data.getD 6 0).toNat

/-- A gathered contribution is that of a piece. -/
def Gathered.isOf (g : Gathered) (f : Flit) : Bool :=
  g.src.val == f.src && g.core == f.core && g.mark == Flit.redMark f && g.target == f.h1

/-- The requests of a work item that is to be presented again are withdrawn from where they are held, with the pieces of a contribution
that have come already (R143). A tag whose request no destination has taken has not been used (R306). -/
def State.withdraw (s : State) (d : Fin 4) (uid : Nat) : State :=
  let mine := s.reqsOf d uid
  let unused := fun (x : Fin 64 × BitVec 10 × Bool) => mine.any fun r => r.answer.isNone && r.dst == x.1 && r.tag == x.2.1
  let s : State := { s with dies := s.dies.map fun e => { e with
    ingress := e.ingress.filter fun f => !s.asksFor d uid f,
    gathered := e.gathered.filter (fun g => !mine.any fun r => g.isOf r.flit),
    serving := e.serving.filter fun x => !s.asksFor d uid x.1 } }
  s.modDie d fun e => { e with
    reqs := e.reqs.filter fun r => r.uid != uid,
    tags := e.tags.map fun x => if unused x then (x.1, x.2.1, !x.2.2) else x }

/-- The flags of an answer: stale, lost, poisoned, out of extent, a race; bit 4 says that a count of discarded parts follows
(notes/assumptions/18.md). -/
def Acct.flags (a : Acct) : Byte :=
  BitVec.ofNat 8 (a.stale.toNat + 2 * a.lost.toNat + 4 * a.poison.isSome.toNat + 8 * a.oox.toNat + 32 * a.race.toNat)

/-- The response to a request (R305): the flags of the answer stand in the op field (notes/assumptions/18.md). -/
def Flit.response (f : Flit) (src dirs : Nat) (result : List Byte) : Flit :=
  let data := result.drop 1
  { hdr := hdrWord 1 0 f.src src (16 + data.length) dirs,
    h0 := rec0 f.ctx.val f.core (result.headD 0).toNat data.length 10 f.epoch f.tag.toNat, h1 := f.h1, data := data }

/-- A die sends a response, unless it keeps silent toward the destination (R297); to one without a path nothing goes. -/
def State.sendReply (s : State) (d : Fin 4) (f : Flit) : State :=
  match s.hub.fab.path (s.hub.fab.dieAddr d).val f.dst with
  | none => s
  | some p =>
    if (s.dies.at d).silentTo (Fin.ofNat 64 f.dst) then s.modDie d fun e => { e with replies := e.replies ++ [f] }
    else s.forward d { f with hdr := BitVec.ofNat 64 (f.hdr.toNat / 8 * 8 + p.dirs) }

/-- A die answers a request on VC 1 (R305, R306). -/
def State.respond (s : State) (d : Fin 4) (f : Flit) (result : List Byte) : State :=
  s.sendReply d (Flit.response f (s.hub.fab.dieAddr d).val 0 result)

/-- The deduplication entry of a request that its destination has taken (R306): it keeps up to 16 bytes of the result. -/
def State.noteTaken (s : State) (d : Fin 4) (f : Flit) (parts : Nat) (result : List Byte) : State :=
  let src := Fin.ofNat 64 f.src
  s.modDie d fun e => { e with dedupe :=
    ⟨src, f.tag, f.epoch, parts, result.take 17⟩ :: e.dedupe.filter fun x => !(x.src == src && x.tag == f.tag) }

/-- A request has been performed: its result is stored and answered (R306). -/
def State.answer (s : State) (d : Fin 4) (f : Flit) (result : List Byte) : State := (s.noteTaken d f 0 result).respond d f result

/-- A part of a contribution that a die has taken is written, or discarded: with the last part the answer goes, which counts the discarded
parts (R287, R288). -/
def State.partDone (s : State) (d : Fin 4) (f : Flit) (bad : Bool) : State :=
  let src := Fin.ofNat 64 f.src
  match (s.dies.at d).dedupe.find? fun x => x.src == src && x.tag == f.tag && x.epoch == f.epoch with
  | none => s
  | some x =>
    let n := natOfBytes (x.result.drop 1) + bad.toNat
    let r : List Byte := (x.result.headD 0 &&& 32 ||| (if n = 0 then 0 else 16)) :: bytesOfNat 4 n
    if x.open_ ≤ 1 then s.answer d f r else s.noteTaken d f (x.open_ - 1) r

end Sys2Proof.Machine
end

