-- ==== Sys2Proof/Machine/Errors.lean ====
section
/-! DEFINITION. Uncorrectable errors: predictive failure (R370), machine checks (R345) and phase cancels (R209). -/

namespace Sys2Proof.Machine

/-! ## Homes (R276, R279) -/

/-- The place lies in peer memory, whose home is the peer (R276). -/
def atPeer (key : Nat) : Bool := decide (2 ^ 53 ≤ key)

/-- The home bank of a place (R276, R279). -/
def bankOf (key : Nat) : Nat :=
  if Config.commonsBase ≤ key && key ≤ Config.commonsEnd then bitsOf key 7 6 else bitsOf key 7 6 ^^^ bitsOf key 15 6

/-- The home die of a place (R276, R279); for peer memory, the die by which the package reaches its home. Which one that is is left open;
DESIGN CHOICE, notes/assumptions/58.md. -/
def homeDie (key : Nat) : Fin 4 :=
  if Config.commonsBase ≤ key && key ≤ Config.commonsEnd then Fin.ofNat 4 (bitsOf key 26 2) else Fin.ofNat 4 (bitsOf key 13 2)

/-- The die of a place as a unit of Scree. -/
def homeUnit (key : Nat) : Fin 5 := Fin.ofNat 5 (homeDie key).val

/-! ## Predictive failure (R370) -/

/-- Sets REPLACE for a reason (bit of `why`), with its event, and its record for the unit at which it arose: the array, module or sector in
the low half of the detail, the cause in the high half (R367, notes/assumptions/42.md). -/
def State.setReplace (s : State) (unit : Fin 5) (bit : Fin 3) (addr what : Nat) : State :=
  if s.hub.errors.why.getLsbD bit.val then s
  else
    let s := s.modHub fun h => { h with errors := { h.errors with replace := true, why := h.errors.why ||| (1 <<< bit.val) } }
    (s.postEvent 10 bit.val addr what).scree unit 0x14 (BitVec.ofNat 64 (bit.val * 2 ^ 32 + what % 2 ^ 32))

/-- A physical sector returned an uncorrectable error (R370). -/
def State.badSector (s : State) (sector : Nat) : State :=
  if s.hub.errors.bad.contains sector then s.setReplace (homeUnit (sector * 32)) 2 (sector * 32 % 2 ^ 52) sector
  else s.modHub fun h => { h with errors := { h.errors with bad := sector :: h.errors.bad } }

/-! ## Machine checks -/

/-- The unit that keeps the Scree record of a core. -/
def screeUnit (c : CoreId) : Fin 5 := Fin.ofNat 5 (dieOf c).val

/-- A started command goes on; an unstarted one is discarded with its mark complete (R345). -/
def State.discardUnstarted (s : State) (c : CoreId) : State :=
  let gone := (s.allCmds c).filter fun d => !d.started
  let keep := fun (d : Cmd) => d.core != c || d.started
  let s := s.modCore c fun k =>
    gone.foldl (fun k d => match d.mark with | some m => k.setMark m true | none => k) { k with cmds := k.cmds.filter keep }
  let s := s.modSett (settOf c) fun t => { t with queue := t.queue.filter keep }
  s.modDie (dieOf c) fun e => { e with fabQ := e.fabQ.filter keep }

/-- MACHINE CHECK of a core (R345): `what` as R328 gives it, the physical address, and the data words of a segment mismatch. -/
def State.machineCheck (s : State) (c : CoreId) (what addr d0 d1 d2 : Nat) : State :=
  let s := match (s.core c).aux.run with
    | none => s
    | some r =>
      let part := match s.queue r.queue with | some e => e.1.part.val | none => 0
      let rec0 := runRec c r part 4 0 0 addr what
      let w := ((rec0.w.put 4 (BitVec.ofNat 64 d0)).put 5 (BitVec.ofNat 64 d1)).put 6 (BitVec.ofNat 64 d2)
      (s.postRec r.queue ⟨w⟩).stopChain r.queue r.launch
  let s := ((s.endLease c).dropWait c).scree (screeUnit c) 0x11 (BitVec.ofNat 64 what)
  let s := s.discardUnstarted c
  s.modCore c fun k => (({ k with mode := .checked }).modEx fun e => { e with flight := [] }).modAux fun a => { a with trap := none }

/-- Source codes of R328. The table lists neither the Warren, which takes the code of the L2, nor the L1, which takes that of the scratchpad in
whose array it lies: DESIGN CHOICE (notes/assumptions/42.md). -/
def errSource : ErrSource → Nat
  | .l2 => 0 | .hbm => 1 | .tier2 => 2 | .scratchpad => 3 | .l1 => 3 | .z => 4 | .accumulator => 5 | .warren => 0

/-- The source of an error met at a place of memory. -/
def sourceOf (key : Nat) : ErrSource :=
  if Config.hbmBase ≤ key && key ≤ Config.hbmEnd then .hbm
  else if Config.tier2Base ≤ key && key ≤ Config.tier2End then .tier2
  else .l2

/-- `what` of a machine check (R328). -/
def checkWhat (src : Nat) (synd : W32) (die bank : Nat) : Nat := synd.toNat * 2 ^ 32 + src * 2 ^ 12 + die * 2 ^ 8 + bank

/-- An uncorrectable error is consumed by a core (R209): in a recoverable phase that has not been cancelled yet the phase is cancelled,
otherwise, or where the error lies in a next half, the core meets a machine check. `what` is that of R328. -/
def State.consumeError (s : State) (c : CoreId) (what addr : Nat) (nextHalf : Bool) : State :=
  let k := s.core c
  let p := k.aux.phases
  if k.mode == .free || k.mode == .checked then s
  else if p.recoverable && p.snap.isSome && p.cancels == 0 && !nextHalf && (k.mode == .running || k.mode == .handler) then
    let s := s.scree (screeUnit c) 0x12 (BitVec.ofNat 64 (p.commits * 2 ^ 32 + c.val))
    s.modCore c fun k => (({ k with mode := .cancelled }).modEx fun e => { e with flight := [], slots := File.all 16 none }).modAux fun a =>
      { a with trap := none, phases := { a.phases with cancels := a.phases.cancels + 1 } }
  else s.machineCheck c what addr 0 0 0

/-- `what` for an error at a place of memory, with its syndrome (R328). -/
def placeWhat (src : ErrSource) (key : Nat) (synd : W32) : Nat := checkWhat (errSource src) synd (homeDie key).val (bankOf key)

/-- A core consumes a poisoned sector; the syndrome is left open (R281). -/
def State.consumePoison (s : State) (c : CoreId) (sector : Nat) : State :=
  let (w, s) := s.freeWord
  let key := sector * 32
  (s.badSector sector).consumeError c (placeWhat (sourceOf key) key (w.setWidth 32)) (key % 2 ^ 52) false

end Sys2Proof.Machine
end

