-- ==== Sys2Proof/Machine/Line.lean ====
section
/-! DEFINITION. Physical memory as the cores and the home banks see it: memory types (R126, R354), the L1 of each core with its
update-only lines (R199, R204, R277, R105), and poisoned sectors (R281). -/

namespace Sys2Proof.Machine

/-! ## Elements -/

/-- Bits of an element of a type (R53, R74, R285). -/
def tyBits : Ty → Nat
  | .f32 | .i32 | .n32 => 32
  | .bf16 | .i16 | .n16 => 16
  | .i8 | .n8 | .mx8 | .mx6 => 8
  | .n64 => 64
  | .mx4 => 4

/-- A type is a signed integer. -/
def tySigned : Ty → Bool
  | .i32 | .i16 | .i8 => true
  | _ => false

/-- The precision of a floating-point type. -/
def tyPrec : Ty → Prec
  | .bf16 => pBF16
  | _ => pF32

/-- The smaller or larger of two integers of a width. -/
def intMinMax (w : Nat) (signed wantMax : Bool) (a b : Nat) : Nat :=
  let lt := if signed then decide (toSigned w a < toSigned w b) else decide (a % 2 ^ w < b % 2 ^ w)
  if lt == wantMax then b % 2 ^ w else a % 2 ^ w

/-- One combination of an update (R89, R221). -/
def updCombine (o : UpdOp) (t : Ty) (a b : Nat) : Nat :=
  let w := tyBits t
  match o with
  | .add => if t.isFloat then (fpAdd (tyPrec t) .rne a b).1 else (a + b) % 2 ^ w
  | .min => if t.isFloat then (fpMinMax (tyPrec t) false a b).1 else intMinMax w (tySigned t) false a b
  | .max => if t.isFloat then (fpMinMax (tyPrec t) true a b).1 else intMinMax w (tySigned t) true a b
  | .and => (a &&& b) % 2 ^ w
  | .or => (a ||| b) % 2 ^ w
  | .xor => (a ^^^ b) % 2 ^ w

/-! ## Physical places -/

/-- Where a byte of a memory type lies: device memory, host memory and peer memory are apart (R126, R354). -/
def memKey (ty pa : Nat) : Nat := (if ty < 2 then 0 else ty - 1) * 2 ^ 52 + pa % 2 ^ 52

/-- The 128-byte line and the 32-byte sector of a place (R199, R281). -/
def lineOf (key : Nat) : Nat := key / 128
def sectorOf (key : Nat) : Nat := key / 32

/-- The cores in ascending order. -/
def coreIds : List CoreId := (List.range 768).filterMap coreAt

/-! ## L1 lines (R199, R204, R277) -/

/-- The line a core's L1 holds. -/
def Core.l1Find (k : Core) (line : Nat) : Option L1Line := k.l1.find? fun l => l.line == line

/-- The L1 without a line. -/
def Core.l1Drop (k : Core) (line : Nat) : Core := { k with l1 := k.l1.filter fun l => l.line != line }

/-- The line is update-only. -/
def L1Line.isUpdate (l : L1Line) : Bool := match l.st with | .update .. => true | _ => false

/-- Values combined in some order and grouping (R89): any two of them are combined until one is left. -/
def combineAll (o : UpdOp) (t : Ty) : Nat → List Nat → State → Nat × State
  | 0, l, s => (l.headD 0, s)
  | n + 1, l, s =>
    if l.length ≤ 1 then (l.headD 0, s)
    else
      let (i, s) := s.freeNat
      let (j, s) := s.freeNat
      let i := i % l.length
      let l' := l.eraseIdx i
      let j := j % l'.length
      combineAll o t n (updCombine o t (l.getD i 0) (l'.getD j 0) :: l'.eraseIdx j) s

/-- One element of a core's update-only line merges into memory as one atomic read-modify-write (R105); in a poisoned sector nothing is
written and the core receives the error (R281). -/
def State.mergeElement (s : State) (c : CoreId) (o : UpdOp) (t : Ty) (key : Nat) (vs : List W32) : State :=
  let n := tyBits t / 8
  if s.poison.contains (sectorOf key) then s.consumePoison c (sectorOf key)
  else
    let (v, s) := combineAll o t vs.length (s.mem.num key n :: vs.map (·.toNat)) s
    { s with mem := s.mem.putNum key n v }

/-- The clean and dirty copies of a line are dropped from every L1, dirty data having been written back (R277). -/
def State.dropCopies (s : State) (line : Nat) : State :=
  { s with cores := s.cores.map fun k =>
      if k.l1.any fun l => l.line == line && !l.isUpdate then
        { k with l1 := k.l1.filter fun l => !(l.line == line && !l.isUpdate) }
      else k }

/-- A core's update-only line merges at its home and leaves the L1 (R105, R204). -/
def State.mergeLine (s : State) (c : CoreId) (line : Nat) : State :=
  match (s.core c).l1Find line with
  | some ⟨_, _, .update o t es, _⟩ =>
    let s := (s.dropCopies line).modCore c fun k => k.l1Drop line
    es.foldl (fun s e => s.mergeElement c o t (line * 128 + e.1) e.2) s
  | _ => s

/-- The update-only lines that some cores hold for a line merge, one holder at a time in an order left open (R277); the first argument
bounds their number. -/
def State.mergeHolders (line : Nat) : Nat → List CoreId → State → State
  | 0, _, s => s
  | k + 1, hs, s =>
    let (n, s) := s.freeNat
    match hs[n % hs.length]? with
    | none => s
    | some c => State.mergeHolders line k (hs.erase c) (s.mergeLine c line)

/-- The update-only lines of every core for a line merge (R277). -/
def State.mergeAll (s : State) (line : Nat) : State :=
  let hs := ((coreIds.zip s.cores.toList).filter fun e => e.2.l1.any fun l => l.line == line && l.isUpdate).map (·.1)
  State.mergeHolders line hs.length hs s

/-- Every update-only line of a core merges (R105, R191, R201). -/
def State.mergeCore (s : State) (c : CoreId) : State :=
  ((s.core c).l1.filter L1Line.isUpdate).foldl (fun s l => s.mergeLine c l.line) s

/-- A read that reaches the home: every update-only line merges, dirty copies are written back (R105, R277). -/
def State.homeRead (s : State) (line : Nat) : State := s.mergeAll line

/-- A write or atomic that reaches the home: every other copy is recalled (R277). -/
def State.homeWrite (s : State) (line : Nat) : State := (s.mergeAll line).dropCopies line

/-- The ways of a core's L1 (R199, R200). -/
def Core.ways (k : Core) : Nat := Config.slabs - k.aux.resv / Config.slabBytes

/-- Lines of the set of a line, and the least recently used of them. -/
def Core.l1Victim (k : Core) (line : Nat) : Option L1Line :=
  let same := k.l1.filter fun l => l.line % 64 == line % 64
  if k.ways ≤ same.length then same.getLast? else none

/-- The lowest slab of the L1 in which no line of the set of a line stands (R199). Which invalid way a new line takes is left open;
DESIGN CHOICE, notes/assumptions/57.md. -/
def Core.l1Slab (k : Core) (line : Nat) : Nat :=
  ((List.range k.ways).find? fun w => !(k.l1.any fun l => l.line % 64 == line % 64 && l.slab == w)).getD 0

/-- Puts a line at the front of a core's L1: in the slab it stands in already, else in a free one; the least recently used line of a full
set is replaced, an update-only one merging (R199). -/
def State.l1Put (s : State) (c : CoreId) (line : Nat) (secs : BitVec 4) (st : L1State) : State :=
  let old := (s.core c).l1Find line
  let s := s.modCore c fun k => k.l1Drop line
  let s := match (s.core c).l1Victim line with
    | none => s
    | some v => (s.mergeLine c v.line).modCore c fun k => k.l1Drop v.line
  s.modCore c fun k => { k with l1 := ⟨line, secs, st, (old.map (·.slab)).getD (k.l1Slab line)⟩ :: k.l1 }

/-- A read of sectors of a line through a core's L1 (R199, R204). -/
def State.l1Read (s : State) (c : CoreId) (line : Nat) (secs : BitVec 4) : State :=
  let s := s.mergeLine c line
  match (s.core c).l1Find line with
  | some l =>
    if l.secs &&& secs = secs then s.l1Put c line l.secs l.st else (s.homeRead line).l1Put c line 15 l.st
  | none => (s.homeRead line).l1Put c line 15 .clean

/-- A write of sectors of a line through a core's L1: it allocates its sectors without reading them (R199). -/
def State.l1Write (s : State) (c : CoreId) (line : Nat) (secs : BitVec 4) : State :=
  let s := s.mergeLine c line
  match (s.core c).l1Find line with
  | some ⟨_, have_, .dirty, _⟩ => s.l1Put c line (have_ ||| secs) .dirty
  | some l => (s.homeWrite line).l1Put c line (l.secs ||| secs) .dirty
  | none => (s.homeWrite line).l1Put c line secs .dirty

/-- A contribution enters an update-only line (R204): the first byte of the element within the line, value. -/
def addContribution (o : UpdOp) (t : Ty) (es : List (Nat × List W32)) (i : Nat) (v : W32) : List (Nat × List W32) :=
  if es.any fun e => e.1 == i then
    es.map fun e => if e.1 == i then
      (if t.isFloat then (i, e.2 ++ [v])
       else (i, [BitVec.ofNat 32 (updCombine o t (e.2.headD 0).toNat v.toNat)])) else e
  else es ++ [(i, [v])]

/-- Contributions to elements of one line (R204). -/
def State.l1Update (s : State) (c : CoreId) (o : UpdOp) (t : Ty) (line : Nat) (vs : List (Nat × W32)) : State :=
  let add := fun es => vs.foldl (fun es e => addContribution o t es e.1 e.2) es
  match (s.core c).l1Find line with
  | some ⟨_, _, .update o' t' es, _⟩ =>
    if o' = o && t' = t then s.l1Put c line 0 (.update o t (add es))
    else (s.mergeLine c line).l1Put c line 0 (.update o t (add []))
  | _ => (s.modCore c fun k => k.l1Drop line).l1Put c line 0 (.update o t (add []))

/-! ## Poison (R281) -/

/-- Some place of a list lies in a poisoned sector: the first such sector. -/
def State.poisoned (s : State) (keys : List Nat) : Option Nat := (keys.map sectorOf).find? fun x => s.poison.contains x

/-- A write of every byte of a sector clears its poison (R281). -/
def State.cleanse (s : State) (keys : List Nat) : State :=
  if s.poison.isEmpty then s
  else { s with poison := s.poison.filter fun x => !((List.range 32).all fun i => keys.contains (x * 32 + i)) }

end Sys2Proof.Machine
end

