-- ==== Sys2Proof/Machine/Check.lean ====
section
/-! DEFINITION. The race detector (R107, R108), the counts of R43 and R136, and local space (R202, R112). -/

namespace Sys2Proof.Machine

/-! ## Race detection (R107) -/

/-- Who makes an access: the sequencer and context that issued or commanded it. -/
structure Who where
  core : CoreId
  q : Seq
  x : Fin 4
deriving DecidableEq, Repr

/-- Identity of a party within its die (R107). -/
def Who.id (w : Who) : BitVec 12 := BitVec.ofNat 12 (w.core.val % 192 * 16 + Seq.num w.q * 4 + (if w.q = .ctl then w.x.val else 0))

/-- The sequencer of a number (R121). -/
def seqOf (n : Nat) : Seq :=
  match n % 4 with
  | 0 => .ctl | 1 => .ld | 2 => .ex | _ => .st

/-- The current interval of a shadow writer (R107). -/
def State.intervalOf (s : State) (a : Shade) : BitVec 16 :=
  match coreAt (a.die.val * 192 + a.id.toNat / 16) with
  | none => 0
  | some c => ((s.core c).flow (seqOf (bitsOf a.id.toNat 2 2)) (Fin.ofNat 4 (bitsOf a.id.toNat 0 2))).interval

/-- The scope of one core's party covers another core (R95). -/
def covers (c : Scope) (a b : CoreId) : Bool :=
  match c with
  | .cr => a == b
  | .cl => clusterOf a == clusterOf b
  | .dl => dieOf a == dieOf b
  | .pk | .sy => true

/-- An access to a sector conflicts with its shadow (R107). -/
def State.conflicts (s : State) (w : Who) (sh : Shade) (atomic : Bool) (scope : Scope) : Bool :=
  let both := match coreAt (sh.die.val * 192 + sh.id.toNat / 16) with
    | none => false
    | some c => atomic && sh.atomic && covers scope w.core c && covers sh.scope c w.core
  sh.id != w.id && s.intervalOf sh == sh.interval && !both

/-- A record of the race log (R108, R346). -/
def State.raceLog (s : State) (w : Who) (sector : Nat) (sh : Shade) (scope : Scope) (write : Bool) : State :=
  match s.partOf w.core with
  | none => s
  | some p => match s.hub.parts.at p with
    | none => s
    | some t =>
      if t.raceBase = 0 || (t.racePolicy && (t.rlogWr - t.rlogRd).toNat ≥ 2 ^ t.raceK) then s
      else
        let a := memKey 0 (t.raceBase + 16 * (t.rlogWr.toNat % 2 ^ t.raceK))
        let v := Scope.code scope * 2 ^ 13 + write.toNat * 2 ^ 12 + w.id.toNat + Scope.code sh.scope * 2 ^ 28 + sh.id.toNat * 2 ^ 16 +
          sh.interval.toNat * 2 ^ 32 + (dieOf w.core).val * 2 ^ 48
        let s := s.homeWrite (lineOf a)
        let s := { s with mem := (s.mem.putNum a 8 (sector * 32 % 2 ^ 52)).putNum (a + 8) 8 v }
        s.modHub fun h => { h with parts := h.parts.put p (some { t with rlogWr := t.rlogWr + 1 }) }

/-- What the race detector has seen of an access: the sectors, and the `race.mode` that its word sees, once it matters: one value for all of
the word (R177). -/
structure Seen where
  mode : Option Bool
  secs : List Nat
deriving DecidableEq, Repr

/-- Nothing seen yet. -/
def Seen.none : Seen := ⟨Option.none, []⟩

/-- What a watched access gives: the state after, whether RACE is due, and what has been seen. -/
structure Watched where
  s : State
  race : Bool
  seen : Seen

/-- The `race.mode` that a word sees: the value seen already, or one of those that it may see now (R177). -/
def State.raceMode (s : State) (w : Who) (mode : Option Bool) : Bool × State :=
  match mode with
  | some m => (m, s)
  | none => s.seenBy w.core w.q (fun o => match o with | .raceMode v => some v | _ => none) (s.core w.core).cr.raceMode

/-- A watched write replaces the shadow of a sector (R107). -/
def State.shade (s : State) (w : Who) (sector : Nat) (atomic : Bool) (scope : Scope) : State :=
  let now := ((s.core w.core).flow w.q w.x).interval
  s.modHub fun h => { h with shades := ⟨sector, w.id, dieOf w.core, now, scope, atomic⟩ :: h.shades.filter fun a => a.sector != sector }

/-- A watched access to a sector (R107). -/
def State.watchSector (r : Watched) (w : Who) (sector : Nat) (write atomic : Bool) (scope : Scope) : Watched :=
  let seen := { r.seen with secs := sector :: r.seen.secs }
  let after := fun (s : State) => if write then s.shade w sector atomic scope else s
  match r.s.hub.shades.find? fun a => a.sector == sector with
  | none => ⟨after r.s, r.race, seen⟩
  | some a =>
    if r.s.conflicts w a atomic scope then
      let (mode, s) := r.s.raceMode w r.seen.mode
      ⟨after (if mode then s else s.raceLog w sector a scope write), r.race || mode, { seen with mode := some mode }⟩
    else ⟨after r.s, r.race, seen⟩

/-- A watched access to places of memory, after what has been seen of it already; a sector is watched once in an access. -/
def State.watchIn (s : State) (w : Who) (on : Bool) (keys : List Nat) (write atomic : Bool) (scope : Scope) (seen : Seen) : Watched :=
  if !on then ⟨s, false, seen⟩
  else keys.foldl (fun r k => if r.seen.secs.contains (sectorOf k) then r else State.watchSector r w (sectorOf k) write atomic scope)
    ⟨s, false, seen⟩

/-- A watched access to places of memory. -/
def State.watch (s : State) (w : Who) (on : Bool) (keys : List Nat) (write atomic : Bool) (scope : Scope) : Bool × State :=
  let r := s.watchIn w on keys write atomic scope Seen.none
  (r.race, r.s)

/-! ## Counts (R43, R136, R213, R309) -/

/-- Nothing to charge. -/
def Acct.none : Acct := ⟨false, false, false, false, false, Option.none⟩

/-- The charges of two parts of one access. -/
def Acct.join (a b : Acct) : Acct :=
  ⟨a.oox || b.oox, a.stale || b.stale, a.lost || b.lost, a.race || b.race, a.failed || b.failed,
    match a.poison with | some x => some x | Option.none => b.poison⟩

/-- The counts of an access (R43, R136, R309). -/
def Cregs.charge (r : Cregs) (a : Acct) : Cregs :=
  { r with
    ooxCount := if a.oox then satInc r.ooxCount else r.ooxCount,
    staleCount := if a.stale then satInc r.staleCount else r.staleCount,
    fabErr := if a.failed then satInc r.fabErr else r.fabErr,
    tokPend := if a.stale then r.tokPend ||| (if a.lost then 2 else 1) else r.tokPend }

/-- The counts of an access on a core, and the cause that then waits for its sequencer's next synchronisation point (R136, R143). -/
def Core.owes (k : Core) (q : Seq) (a : Acct) : Core :=
  let k := k.modCr fun r => r.charge a
  if a.stale then k.modAux fun x => { x with tok := x.tok.mod (Fin.ofNat 4 (Seq.num q)) (· ||| (if a.lost then 2 else 1)) } else k

/-- A finished access of a word at a PC is charged to its sequencer: counts, delivered causes, errors (R43, R107, R136, R213). -/
def State.charge (s : State) (w : Who) (pc : W32) (a : Acct) : State :=
  let (on, s) := if a.oox then s.seenBy w.core w.q (fun o => match o with | .ooxTrap v => some v | _ => none) (s.core w.core).cr.ooxTrap
    else (false, s)
  let trap := a.oox && on
  let s := s.modCore w.core fun k => (k.owes w.q a).modFlow w.q w.x fun f =>
    { f with due := f.due ++ (if trap then [⟨cEXTENT, pc⟩] else []) ++ (if a.race then [⟨cRACE, pc⟩] else []) }
  match a.poison with
  | Option.none => s
  | some x => s.consumePoison w.core x

/-- An access of a context is charged; the context of an ended tail has no boundary at which a cause could be taken. -/
def State.chargeCtl (s : State) (c : CoreId) (x : Fin 4) (pc : W32) (gone : Bool) (a : Acct) : State :=
  if gone then
    let s := s.modCore c fun k => k.owes .ctl a
    match a.poison with
    | none => s
    | some z => s.consumePoison c z
  else s.charge ⟨c, .ctl, x⟩ pc a

/-- A work item was made by a context that has ended, though its number may live again (R104, R114). -/
def Core.goneItem (k : Core) (x : Fin 4) (uid : Nat) : Bool := !(k.ctx.at x).live || decide (uid < (k.ctx.at x).born)

/-- A finished work item of a sequencer, or of a context of CTL, is charged to it; an ended tail has no boundary any more. -/
def State.chargeAt (s : State) (c : CoreId) (q : Seq) (x : Fin 4) (pc : W32) (uid : Nat) (a : Acct) : State :=
  if q == .ctl then s.chargeCtl c x pc ((s.core c).goneItem x uid) a else s.charge ⟨c, q, x⟩ pc a

/-! ## Local space (R202, R207) -/

/-- A core runs a tile run of the address context of another core (R202). -/
def State.sameContext (s : State) (c d : CoreId) : Bool :=
  let a := (s.core c).cr
  let b := (s.core d).cr
  (s.core d).aux.run.isSome && a.asid == b.asid && a.pinBase == b.pinBase

/-- What a local-space address reaches (R195, R196, R202). -/
inductive Loc where
  | spad (d : CoreId) (o : Nat)
  | win (n : Fin 16) (o : Nat)
  | nothing
deriving DecidableEq, Repr

def localOf (c : CoreId) (a : Nat) : Loc :=
  if a < 0x1800000 then
    match coreAt ((clusterOf c).val * 48 + a / 2 ^ 19) with
    | some d => .spad d (a % 2 ^ 19)
    | none => .nothing
  else if 0x2000000 ≤ a && a < 0x12000000 then .win (Fin.ofNat 16 ((a - 0x2000000) / 2 ^ 24)) ((a - 0x2000000) % 2 ^ 24)
  else .nothing

/-- The core at a place named by a window: die address, cluster, core (R195). -/
def State.winCore (s : State) (die : Fin 64) (cl : Fin 4) (co : Fin 64) : Option CoreId :=
  match s.hub.fab.dieOf die.val with
  | none => none
  | some d => if co.val < 48 then coreAt (d.val * 192 + cl.val * 48 + co.val) else none

/-- The bytes that a read of a core's spill region may give (R7, R112): those that the region holds or held in this tile run, those of the cells
and hidden cells of its frames, and 0. -/
def Core.spillBytes (k : Core) : List Byte :=
  0 :: k.aux.region ++ ((List.range k.aux.spill).map fun i => (k.spadGet (k.aux.resv - k.aux.spill + i)).getD 0) ++
    (k.cells.toList ++ k.aux.past ++ k.frames.flatMap fun f => f.spilled.getD []).flatMap (fun v => bytesOfNat 8 v.toNat) ++
    k.frames.flatMap fun f => CallLink.bytes ⟨f.retPc, f.caller, f.entry⟩

/-- Reads a scratchpad byte of a core for another party: a byte of the spill region is one of those, which one is left open, and what the
spilled frames hold is open after that (R112). -/
def State.spadRead (s : State) (d : CoreId) (o : Nat) : Byte × State :=
  let k := s.core d
  if k.inSpill o then
    let (n, s) := s.freeNat
    (k.spillBytes.getD (n % k.spillBytes.length) 0, s.smearSpill d)
  else ((k.spadGet o).getD 0, s)

/-- Writes a scratchpad byte of a core for another party. -/
def State.spadWrite (s : State) (d : CoreId) (o : Nat) (v : Byte) : State :=
  let t := s.modCore d fun k => k.spadSet o v
  if (s.core d).inSpill o then t.smearSpill d else t

end Sys2Proof.Machine
end

