-- ==== Sys2Proof/Machine/Walk.lean ====
section
/-! DEFINITION. Translation: walks and their caches (R125 to R131), extents (R132), pin tables and the pin store (R134 to R138). -/

namespace Sys2Proof.Machine

/-! ## Physical ranges (R127, R279, R354) -/

/-- The partition that owns the Commons block of a place, if the block is Commons (R279). -/
def State.commonsOwner (s : State) (pa : Nat) : Option (Fin 16) :=
  if Config.commonsBase ≤ pa && pa ≤ Config.commonsEnd then
    (s.dies.at (Fin.ofNat 4 ((pa - Config.commonsBase) / 2 ^ 26))).commons[(pa - Config.commonsBase) / 2 ^ 23 % 8]?
  else none

/-- A frame of type 0 or 1 lies in a row of the physical map (R354). -/
def inRow (ty pa len : Nat) : Bool :=
  if ty = 0 then Config.hbmBase ≤ pa && pa + len ≤ Config.hbmEnd + 1
  else Config.tier2Base ≤ pa && pa + len ≤ Config.tier2End + 1

/-- Bytes of device memory lie within the physical ranges of a partition, Commons blocks included (R127). -/
def State.inPart (s : State) (p : Fin 16) (ty pa len : Nat) : Bool :=
  match s.hub.parts.at p with
  | none => false
  | some t =>
    let unit := min len (2 ^ 21)
    (List.range (max 1 (len / 2 ^ 21))).all fun i =>
      let a := pa + i * 2 ^ 21
      if ty = 0 && Config.commonsBase ≤ a then s.commonsOwner a == some p
      else inRow ty a unit && t.ranges.any fun r => r.1 ≤ a && a + unit ≤ r.1 + r.2

/-! ## Walking (R125 to R131) -/

/-- What a walk is for: its partition, address space and rights, and the pages whose walk bypasses the caches (R133). -/
structure Walker where
  part : Fin 16
  asid : BitVec 11
  w : Bool
  x : Bool
  bypass : List Nat
deriving DecidableEq, Repr

/-- A leaf: its entry for the address, its cache entry, and whether the leaf cache gave it (R128, R131). -/
structure Leaf where
  pte : Nat
  entry : TlbEntry
  hit : Bool
deriving DecidableEq, Repr

/-- The level of a leaf. -/
def Leaf.level (l : Leaf) : Nat := l.entry.level.val

/-- What a walk finds. -/
inductive Walked where
  | leaf (l : Leaf)
  | absent
  | fail (cause : BitVec 8) (level : Nat)
deriving DecidableEq, Repr

/-- Fields of an entry (R126). -/
def pteV (e : Nat) : Bool := bitOf e 0
def pteL (e : Nat) : Bool := bitOf e 1
def pteW (e : Nat) : Bool := bitOf e 2
def pteX (e : Nat) : Bool := bitOf e 3
def pteU (e : Nat) : Bool := bitOf e 4
def pteG (e : Nat) : Bool := bitOf e 5
def pteCH (e : Nat) : Bool := bitOf e 8
def pteTy (e : Nat) : Nat := bitsOf e 9 3
def pteFrame (e : Nat) : Nat := bitsOf e 12 40 * 4096
/-- An entry without its A and D bits. -/
def pteSame (e : Nat) : Nat := e - bitsOf e 6 2 * 64

/-- The lowest VA bit of the index of a level (R125). -/
def levelLow (n : Nat) : Nat := 48 - 9 * n
/-- Bytes of a leaf of a level. -/
def leafSize (n : Nat) : Nat := 2 ^ levelLow n

/-- Checks of an entry that the walk reads at a level (R127, R129), its kind once they pass: none a failure's cause, some a leaf. -/
def State.checkEntry (s : State) (w : Walker) (n e : Nat) : Option (BitVec 8) :=
  if bitsOf e 52 11 != 0 || pteTy e ≥ 4 then some cRESERVED
  else if (pteL e && n < 2) || (!pteL e && n == 4) then some cRESERVED
  else if pteL e && ((n == 2 && bitsOf e 12 18 != 0) || (n == 3 && bitsOf e 12 9 != 0)) then some cRESERVED
  else if pteL e && n < 4 && pteCH e then some cRESERVED
  else if pteTy e < 2 && !s.inPart w.part (pteTy e) (pteFrame e) (if pteL e then leafSize n else 4096) then some cRANGE
  else if pteL e && (!pteU e || (w.w && !pteW e) || (w.x && !pteX e)) then some cPERM
  else none

/-- The sixteen entries of the group of an entry merge (R128). -/
def State.groupMerges (s : State) (w : Walker) (key e : Nat) : Bool :=
  let base := key - key % 128
  let e0 := s.mem.num base 8
  pteFrame e0 % 2 ^ 16 == 0 && (List.range 16).all fun j =>
    let f := s.mem.num (base + 8 * j) 8
    pteV f && (s.checkEntry { w with w := false, x := false } 4 f).all (· == cPERM) && pteCH f &&
    bitsOf f 63 1 == bitsOf e 63 1 && pteSame (f % 4096) == pteSame (e % 4096) && pteFrame f == pteFrame e0 + j * 4096

/-- A cached entry applies to an address (R131). -/
def TlbEntry.hits (e : TlbEntry) (asid : BitVec 11) (va : Nat) : Bool :=
  (e.asid == asid || pteG e.pte.toNat) && e.key == va / 2 ^ (if e.merged then 16 else levelLow e.level.val)

/-- A cached entry as the entry of an address itself, and where that one stands (R128, R131). -/
def TlbEntry.value (e : TlbEntry) (va : Nat) : Nat := if e.merged then e.pte.toNat + bitsOf va 12 4 * 4096 else e.pte.toNat
def TlbEntry.at' (e : TlbEntry) (va : Nat) : Nat := if e.merged then e.place + 8 * bitsOf va 12 4 else e.place

/-- Two cache entries are one. -/
def TlbEntry.same (e f : TlbEntry) : Bool := f.asid == e.asid && f.level == e.level && f.key == e.key && f.merged == e.merged

/-- Puts an entry at the front of its cache: 64 entries for each level of the walk caches, 1,024 leaves (R131). -/
def Tu.cache (t : Tu) (e : TlbEntry) (leaf : Bool) : Tu :=
  if leaf then { t with leaf := (e :: t.leaf.filter fun f => !e.same f).take 1024 }
  else
    let r := t.walk.filter fun f => !e.same f
    { t with walk := (e :: r.filter fun f => f.level == e.level).take 64 ++ r.filter fun f => f.level != e.level }

/-- A walk uses a cached entry that applies: where the table has been changed it is left open whether it uses it, or the entry as it now
stands (R131). -/
def State.usable (s : State) (e : TlbEntry) (va : Nat) : Bool × State :=
  if pteSame (s.mem.num (e.at' va) 8) = pteSame (e.value va) then (true, s)
  else
    let (n, s) := s.freeNat
    (n % 2 == 0, s)

/-- The walk-cache entry at which a walk starts: the deepest that applies and is used (R131). -/
def State.walkStart (s : State) (t : Fin 16) (asid : BitVec 11) (va : Nat) : List (Fin 5) → Option TlbEntry × State
  | [] => (none, s)
  | n :: r =>
    match (s.tus.at t).walk.find? fun e => e.level == n && e.hits asid va with
    | none => s.walkStart t asid va r
    | some e =>
      let (yes, s) := s.usable e va
      if yes then (some e, s.modTu t fun u => u.cache e false) else s.walkStart t asid va r

/-- The A and D bits that every entry of a group shows (R128, R130). -/
def State.groupBits (s : State) (base : Nat) : Nat :=
  let all := fun (n : Nat) => (List.range 16).all fun j => bitOf (s.mem.num (base + 8 * j) 8) n
  (all 6).toNat * 64 + (all 7).toNat * 128

/-- The levels of a walk from a table in memory (R127); the first argument counts the levels left. -/
def State.walkFrom (s : State) (t : Fin 16) (w : Walker) (va : Nat) : Nat → Nat → Nat → Walked × State
  | 0, _, _ => (.absent, s)
  | k + 1, ty, table =>
    let n := 4 - k
    let key := memKey ty (table + 8 * bitsOf va (levelLow n) 9)
    let s := s.homeRead (lineOf key)
    let e := s.mem.num key 8
    if !pteV e then (.absent, s)
    else match s.checkEntry w n e with
    | some cause => (.fail cause n, s)
    | none =>
      if pteL e then
        let base := key - key % 128
        let c : TlbEntry := if n == 4 && pteCH e && s.groupMerges w key e then
            ⟨w.asid, 4, va / 2 ^ 16, true, BitVec.ofNat 64 (pteSame (e - bitsOf va 12 4 * 4096) + s.groupBits base), base⟩
          else ⟨w.asid, Fin.ofNat 5 n, va / leafSize n, false, BitVec.ofNat 64 e, key⟩
        (.leaf ⟨e, c, false⟩, s.modTu t fun u => u.cache c true)
      else
        let s := s.modTu t fun u => u.cache ⟨w.asid, Fin.ofNat 5 n, va / leafSize n, false, BitVec.ofNat 64 e, key⟩ false
        State.walkFrom s t w va k (pteTy e) (pteFrame e)

/-- The root pointer of an address space (R125): memory type and frame. -/
def State.root (s : State) (asid : BitVec 11) : Option (Fin 4 × Nat) := (s.hub.roots.find? fun r => r.1 == asid).map (·.2)

/-- A walk from the root (R127): an absent root pointer or a root frame outside the ranges fails at level 0. -/
def State.walkRoot (s : State) (t : Fin 16) (w : Walker) (va : Nat) : Walked × State :=
  match s.root w.asid with
  | none => (.fail cRANGE 0, s)
  | some (ty, frame) =>
    if ty.val < 2 && !s.inPart w.part ty.val frame 4096 then (.fail cRANGE 0, s)
    else s.walkFrom t w va 5 ty.val frame

/-- A walk past the leaf cache: from the deepest walk-cache entry that applies, else from the root (R131). -/
def State.walkMiss (s : State) (t : Fin 16) (w : Walker) (va : Nat) : Walked × State :=
  match s.walkStart t w.asid va [3, 2, 1, 0] with
  | (some e, s) => s.walkFrom t w va (4 - e.level.val) (pteTy e.pte.toNat) (pteFrame e.pte.toNat)
  | (none, s) => s.walkRoot t w va

/-- Walk (R127, R131): the leaf cache first, then past it; a page that the host has answered for from the root (R133). -/
def State.walk (s : State) (t : Fin 16) (w : Walker) (va : Nat) : Walked × State :=
  if w.bypass.contains (va / 4096) then s.walkRoot t w va
  else match (s.tus.at t).leaf.find? fun e => e.hits w.asid va with
  | none => s.walkMiss t w va
  | some e =>
    let (yes, s) := s.usable e va
    if yes then
      match s.checkEntry w e.level.val (e.value va) with
      | some cause => (.fail cause e.level.val, s)
      | none => (.leaf ⟨e.value va, e, true⟩, s.modTu t fun u => u.cache e true)
    else s.walkMiss t w va

/-! ## Extents (R132) -/

/-- What translating an extent gives. -/
inductive Extent where
  | ok (runs : List Run) (leaves : List Leaf)
  | absent (va : Nat)
  | fail (cause : BitVec 8) (level va : Nat)
deriving DecidableEq, Repr

/-- The runs with one more piece (R132). -/
def addRun (runs : List Run) (pa n : Nat) (ty : Fin 4) (ns : Bool) : List Run :=
  match runs.reverse with
  | [] => [⟨pa, n, ty, ns⟩]
  | r :: rest =>
    if r.pa + r.len = pa && r.ty = ty && r.ns = ns then (⟨r.pa, r.len + n, ty, ns⟩ :: rest).reverse
    else (⟨pa, n, ty, ns⟩ :: r :: rest).reverse

/-- The pages of an extent from an address on; the first argument bounds their number. -/
def State.walkPages (s : State) (t : Fin 16) (w : Walker) (stop : Nat) : Nat → Nat → List Run → List Leaf → Extent × State
  | 0, _, runs, ls => (.ok runs ls, s)
  | k + 1, va, runs, ls =>
    if stop ≤ va then (.ok runs ls, s)
    else match s.walk t w va with
    | (.absent, s) => (.absent (va - va % 4096), s)
    | (.fail cause level, s) => (.fail cause level (va - va % 4096), s)
    | (.leaf l, s) =>
      let size := leafSize l.level
      let pa := pteFrame l.pte + va % size
      let n := min (va - va % size + size) stop - va
      let ty := Fin.ofNat 4 (pteTy l.pte)
      let runs := addRun runs pa n ty (ty == 2 && bitOf l.pte 63)
      if runs.length > Config.maxRuns then (.fail cFRAGMENT 0 (va - va % 4096), s)
      else State.walkPages s t w stop k (va + n) runs (ls ++ [l])

def State.walkExtent (s : State) (t : Fin 16) (w : Walker) (base len : Nat) : Extent × State :=
  s.walkPages t w (base + len) (len / 4096 + 2) base [] []

/-- The bits that a pin sets in its leaf entries: A, and D where W was requested (R130). -/
def markBits (w : Bool) : Nat := 64 + (if w then 128 else 0)

/-- A and D in one leaf entry, or in all sixteen of a merged group, by an atomic OR at their home (R130). -/
def State.orLeaf (s : State) (w : Bool) (e : TlbEntry) : State :=
  let keys := if e.merged then (List.range 16).map fun j => e.place + 8 * j else [e.place]
  keys.foldl (fun s k =>
    let s := s.homeWrite (lineOf k)
    { s with mem := s.mem.putNum k 8 (s.mem.num k 8 ||| markBits w) }) s

/-- A and D of a leaf that is pinned; a leaf that the leaf cache gave is passed over where the cached copy shows them (R130). -/
def State.markLeaf (s : State) (t : Fin 16) (w : Bool) (l : Leaf) : State :=
  let mark := fun (e : TlbEntry) => if l.entry.same e then { e with pte := e.pte ||| BitVec.ofNat 64 (markBits w) } else e
  if l.hit && l.entry.pte.toNat &&& markBits w == markBits w then s
  else (s.orLeaf w l.entry).modTu t fun u => { u with leaf := u.leaf.map mark }

def State.markLeaves (s : State) (t : Fin 16) (w : Bool) (ls : List Leaf) : State := ls.foldl (fun s l => s.markLeaf t w l) s

/-! ## Pin tables (R135) -/

/-- The place of a pin entry. -/
def pinAt (base : BitVec 52) (index : Nat) : Nat := memKey 0 (base.toNat + 32 * index)

/-- The record of a pin entry as GB7 last wrote it. -/
def State.pinnedAt (s : State) (base : BitVec 52) (index : Nat) : Option Pinned := s.hub.pinned.find? fun p => p.base == base && p.index == index

/-- The first three words of a pin entry in memory. -/
def State.pinWords (s : State) (base : BitVec 52) (index : Nat) : File Nat 3 := Vector.ofFn fun n => s.pinWord base index n.val

/-- Software has written over a pin entry of a resident address context (R135). -/
def State.overwritten (s : State) (base : BitVec 52) (index : Nat) : Bool :=
  match s.pinnedAt base index with
  | none => false
  | some p => p.words != s.pinWords base index

/-- Records a pin entry as it now stands; `frozen` says that a REVOKE has frozen it. -/
def State.notePin (s : State) (base : BitVec 52) (index : Nat) (frozen : Bool) : State :=
  s.modHub fun h => { h with pinned := ⟨base, index, s.pinWords base index, frozen⟩ :: h.pinned.filter fun p => !(p.base == base && p.index == index) }

/-- The pin entries of a table are no longer those of a resident context, or just become so: what stands in memory is theirs (R142). -/
def State.forgetPins (s : State) (base : BitVec 52) : State := s.modHub fun h => { h with pinned := h.pinned.filter fun p => p.base != base }

/-- Writes the state of a pin entry in memory (R135). -/
def State.putPinState (s : State) (base : BitVec 52) (index st : Nat) : State :=
  let a := pinAt base index + 16
  let s := s.homeWrite (lineOf a)
  let v := s.mem.num a 8
  { s with mem := s.mem.putNum a 8 (v - v % 8 + st) }

/-- The state of a pin entry changes (R135); `frozen` for a REVOKE that freezes it. -/
def State.setPinState (s : State) (base : BitVec 52) (index st : Nat) (frozen : Bool := false) : State :=
  let t := s.putPinState base index st
  if s.overwritten base index then t else t.notePin base index frozen

/-- The lowest-numbered FREE entry of a pin table (R132). -/
def State.freePin (s : State) (base : BitVec 52) : Option Nat :=
  (List.range Config.pinEntries).find? fun i => s.pinState base i == 0

/-- A token (R134). -/
def mkToken (len : Nat) (die : Nat) (remote rd wr watch : Bool) (gen index : Nat) : W64 :=
  BitVec.ofNat 64 (2 ^ 63 + watch.toNat * 2 ^ 62 + (len - 1) * 2 ^ 32 + die * 2 ^ 25 + remote.toNat * 2 ^ 24 + rd.toNat * 2 ^ 23 +
    wr.toNat * 2 ^ 22 + gen * 2 ^ 10 + index)

/-- Takes a FREE pin entry (R132, R135): the generation it takes. -/
def State.takePin (s : State) (base : BitVec 52) (index va len : Nat) (asid : BitVec 11) (rd wr remote : Bool) (die : Nat) : Nat × State :=
  let a := pinAt base index
  let g := if s.pinGen base index = 4095 then 1 else s.pinGen base index + 1
  let s := s.homeWrite (lineOf a)
  let m := s.mem.putNum a 8 va
  let m := m.putNum (a + 8) 8 (wr.toNat * 2 ^ 49 + rd.toNat * 2 ^ 48 + asid.toNat * 2 ^ 32 + (len - 1))
  let m := m.putNum (a + 16) 8 (die * 2 ^ 32 + remote.toNat * 2 ^ 31 + g * 2 ^ 16 + 1)
  let s : State := { s with mem := m }
  (g, s.notePin base index false)

/-- A pin store that must make room drops its least recently used entry that no access is using; the first argument bounds how many. -/
def shrinkPins (used : PinRuns → Bool) : Nat → List PinRuns → List PinRuns
  | 0, l => l
  | n + 1, l =>
    if l.length ≤ 256 && (l.map fun p => p.runs.length).sum ≤ 4096 then l
    else match l.reverse.findIdx? fun p => !used p with
      | none => l
      | some i => shrinkPins used n (l.reverse.eraseIdx i).reverse

/-- The pin store of a translation unit with an entry in front: at most 256 entries and 4,096 runs (R137). -/
def pinStore (used : PinRuns → Bool) (l : List PinRuns) (p : PinRuns) : List PinRuns :=
  let l := p :: l.filter fun q => !(q.base == p.base && q.index == p.index && q.src == p.src && q.asid == p.asid)
  shrinkPins used l.length l

/-- An ingress MMU with an entry, keyed by source die, ASID and index (R138). -/
def ingressStore (l : List PinRuns) (p : PinRuns) : List PinRuns :=
  p :: l.filter fun q => !(q.src == p.src && q.asid == p.asid && q.index == p.index)

/-- The translation unit of a core's cluster. -/
def tuOf (c : CoreId) : Fin 16 := clusterOf c

/-- An access of a core of the cluster is using a pin entry (R137). -/
def State.usesPin (s : State) (t : Fin 16) (p : PinRuns) : Bool :=
  (List.range 48).any fun i => match coreAt (t.val * 48 + i) with
    | none => false
    | some c => (s.core c).aux.accs.any fun a => a.pin.isSome && a.entry == (p.base, p.index.toNat)

/-- The pin store of a translation unit with an entry in front (R137). -/
def State.storePin (s : State) (t : Fin 16) (p : PinRuns) : State := s.modTu t fun u => { u with pins := pinStore (s.usesPin t) u.pins p }

/-- Pages that the host has answered for a re-walk, and the end of their bypass (R133). -/
def State.bypassed (s : State) (part : Fin 16) (asid : BitVec 11) : List Nat :=
  (s.hub.walked.filter fun e => e.1 == part && e.2.1 == asid).map fun e => e.2.2
def State.pastBypass (s : State) (part : Fin 16) (asid : BitVec 11) (va len : Nat) : State :=
  if s.hub.walked.isEmpty then s
  else s.modHub fun h => { h with walked := h.walked.filter fun e =>
    !(e.1 == part && e.2.1 == asid && va / 4096 ≤ e.2.2 && e.2.2 ≤ (va + len - 1) / 4096) }

/-- The extent of an outstanding REVOKE overlaps an extent of its address space (R139). -/
def State.revoked (s : State) (asid : BitVec 11) (va len : Nat) : Bool :=
  s.hub.revokes.any fun r => !r.released && r.asid == asid && decide (r.va < va + len) && decide (va < r.va + r.len)

/-- A page request that stands for a core and context; `reqPage` records a new one (R133, R356). -/
def State.reqPage (s : State) (part : Fin 16) (core : Option (CoreId × Fin 4)) (queue : Option (Fin 4096)) (asid : BitVec 11) (va : Nat)
    (w remote : Bool) : BitVec 16 × State :=
  match s.hub.parts.at part with
  | none => (0, s)
  | some t =>
    (t.nextId, s.modHub fun h => { h with
      parts := h.parts.put part (some { t with nextId := t.nextId + 1 }),
      preqs := h.preqs ++ [⟨part, t.nextId, core, queue, false, asid, va, w, remote⟩] })

/-- The partition has a page-request ring (R356). -/
def State.hasRing (s : State) (part : Fin 16) : Bool :=
  match s.hub.parts.at part with
  | none => false
  | some t => t.preqBase != 0

/-- Writes one outstanding request into the ring of its partition while the ring has room (R356). -/
def State.writePreq (s : State) (r : PageReq) : State :=
  match s.hub.parts.at r.part with
  | none => s
  | some t =>
    if r.written || (t.preqWr - t.preqRd).toNat ≥ 256 then s
    else
      let a := memKey 2 (t.preqBase + 32 * (t.preqWr.toNat % 256))
      let m := s.mem.putNum a 8 r.va
      let m := m.putNum (a + 8) 8 (r.asid.toNat * 2 ^ 32 + r.remote.toNat * 2 ^ 17 + r.w.toNat * 2 ^ 16 + r.id.toNat)
      let m := (m.putNum (a + 16) 8 0).putNum (a + 24) 8 0
      let s : State := { s with mem := m }
      s.modHub fun h => { h with
        parts := h.parts.put r.part (some { t with preqWr := t.preqWr + 1 }),
        preqs := h.preqs.map fun q => if q.part == r.part && q.id == r.id then { q with written := true } else q }

/-- Sends an MSI-X interrupt of a function, or holds it while masked (R330). -/
def State.msi (s : State) (f : Fin 17) (v : Nat) : State :=
  s.modHub fun h => { h with msix :=
    if h.msix.masked.contains (f, v) then { h.msix with held := h.msix.held ++ [(f, v)] }
    else { h.msix with sent := h.msix.sent ++ [(f, v)] } }

/-- The waiting requests of a partition enter its ring in order, each with an interrupt on vector 0 (R356). -/
def State.flushPreqs (s : State) (part : Fin 16) : State :=
  (s.hub.preqs.filter fun r => r.part == part && !r.written).foldl (fun s r =>
    let t := s.writePreq r
    if t.hub.preqs = s.hub.preqs then s else t.msi (Fin.ofNat 17 part.val) 0) s

/-! ## Pin lookup (R136, R137, R142) -/

/-- Words of a pin entry. -/
def State.pinVa (s : State) (base : BitVec 52) (i : Nat) : Nat := bitsOf (s.pinWord base i 0) 0 57
def State.pinLen (s : State) (base : BitVec 52) (i : Nat) : Nat := bitsOf (s.pinWord base i 1) 0 30 + 1
def State.pinAsid (s : State) (base : BitVec 52) (i : Nat) : BitVec 11 := BitVec.ofNat 11 (bitsOf (s.pinWord base i 1) 32 11)
def State.pinWr (s : State) (base : BitVec 52) (i : Nat) : Bool := bitOf (s.pinWord base i 1) 49
def State.pinRemote (s : State) (base : BitVec 52) (i : Nat) : Bool := bitOf (s.pinWord base i 2) 31
def State.pinDie (s : State) (base : BitVec 52) (i : Nat) : Fin 64 := Fin.ofNat 64 (bitsOf (s.pinWord base i 2) 32 6)

/-- The entry becomes LOST: the access is stale and reported as lost (R136). -/
def State.losePin (s : State) (base : BitVec 52) (i : Nat) : Pin × State := (.stale true, s.setPinState base i 4)

/-- An outstanding REVOKE names an address space (R142). -/
def State.anyRevoke (s : State) (asid : BitVec 11) : Bool := s.hub.revokes.any fun r => !r.released && r.asid == asid

/-- Re-walks an entry (R137, R141, R142): it becomes ACTIVE with new runs, waits on a page request where that is allowed, or becomes
LOST. A and D stay as they are, because R130 has `xlat` and `xlat.r` set them (notes/assumptions/11.md). Runs past 64 make it LOST too: DESIGN CHOICE (notes/assumptions/56.md). -/
def State.rewalk (s : State) (c : CoreId) (part : Fin 16) (base : BitVec 52) (i : Nat) (ask : Bool) : Pin × State :=
  let t := tuOf c
  let va := s.pinVa base i
  let len := s.pinLen base i
  let asid := s.pinAsid base i
  let wr := s.pinWr base i
  match s.walkExtent t ⟨part, asid, wr, false, if ask then s.bypassed part asid else []⟩ va len with
  | (.ok runs _, s) =>
    let s := (s.pastBypass part asid va len).setPinState base i 1
    let p : PinRuns := ⟨base, asid, BitVec.ofNat 10 i, BitVec.ofNat 12 (s.pinGen base i), none, 1, va, len, runs⟩
    (.near len runs, s.storePin t p)
  | (.absent v, s) =>
    if ask && s.hasRing part then
      if s.hub.preqs.any fun r => r.core == some (c, 0) && r.va == v && r.asid == asid then (.held, s)
      else
        let (_, s) := s.reqPage part (some (c, 0)) none asid v wr false
        (.held, s.flushPreqs part)
    else s.losePin base i
  | (.fail _ _ _, s) => (s.pastBypass part asid va len).losePin base i

/-- The entry of the pin store for a token, most recently used after its use. -/
def State.storedPin (s : State) (c : CoreId) (base : BitVec 52) (i gen : Nat) : Option PinRuns :=
  (s.tus.at (tuOf c)).pins.find? fun p => p.base == base && p.index.toNat == i && p.gen.toNat == gen && p.src.isNone

/-- A lookup of an entry that software has written over: ACTIVE with its old runs, stale, or LOST, which one is left open (R135). -/
def State.pinOver (s : State) (c : CoreId) (part : Fin 16) (base : BitVec 52) (i gen : Nat) (p : Pinned) : Pin × State :=
  let (n, s) := s.freeNat
  let w2 := p.words.at 2
  if n % 3 = 0 then (.stale false, s)
  else if n % 3 = 1 then (.stale true, s)
  else if bitsOf w2 16 12 != gen then (.stale false, s)
  else if bitOf w2 31 then (.far (bitsOf (p.words.at 1) 0 30 + 1) (Fin.ofNat 64 (bitsOf w2 32 6)), s)
  else match s.storedPin c base i gen with
    | some q => (.near q.len q.runs, s)
    | none =>
      let len := bitsOf (p.words.at 1) 0 30 + 1
      match s.walkExtent (tuOf c) ⟨part, BitVec.ofNat 11 (bitsOf (p.words.at 1) 32 11), bitOf (p.words.at 1) 49, false, []⟩ (bitsOf (p.words.at 0) 0 57) len with
      | (.ok runs _, s) => (.near len runs, s)
      | (_, s) => (.stale true, s)

/-- A lookup of a remote entry passes on to the target; one that is SUSPENDED stays so until an ingress of the package has walked it (R138, R142). -/
def State.pinAway (s : State) (base : BitVec 52) (i st : Nat) : Pin × State :=
  let die := s.pinDie base i
  let now := if (s.hub.fab.dieOf die.val).isNone then 1 else st
  (.far (s.pinLen base i) die, if s.pinState base i = now then s else s.setPinState base i now)

/-- Pin lookup of a FROZEN entry whose generation matches: held while a REVOKE holds it; after RESUME re-walked without page requests (R141);
found at restore, held while a REVOKE for its ASID is outstanding and then treated as SUSPENDED, page requests included (R142;
notes/assumptions/56.md). -/
def State.pinFrozen (s : State) (c : CoreId) (part : Fin 16) (base : BitVec 52) (i : Nat) : Pin × State :=
  let asid := s.pinAsid base i
  let mine := match s.pinnedAt base i with | some p => p.frozen | none => false
  if s.revoked asid (s.pinVa base i) (s.pinLen base i) || (!mine && s.anyRevoke asid) then (.held, s)
  else if s.pinRemote base i then s.pinAway base i (if mine then 1 else 3)
  else s.rewalk c part base i (!mine)

/-- Pin lookup of a token for an access of a core (R136). -/
def State.pin (s : State) (c : CoreId) (tok : W64) (rd wr : Bool) : Pin × State :=
  let base := (s.core c).cr.pinBase
  let i := tokIndex tok
  if !tokValid tok || tokRsv tok || (rd && !tokRd tok) || (wr && !tokWr tok) then (.stale false, s)
  else match s.partOf c with
  | none => (.stale false, s)
  | some part =>
    match (if s.overwritten base i then s.pinnedAt base i else none) with
    | some p => s.pinOver c part base i (tokGen tok) p
    | none =>
      let st := s.pinState base i
      if st = 0 || s.pinGen base i != tokGen tok then (.stale false, s)
      else if st ≥ 4 then (.stale true, s)
      else if st = 2 then s.pinFrozen c part base i
      else if s.pinRemote base i then s.pinAway base i st
      else if st = 3 then s.rewalk c part base i true
      else match s.storedPin c base i (tokGen tok) with
        | some p => (.near p.len p.runs, s.storePin (tuOf c) p)
        | none => s.rewalk c part base i false

/-- The place of an offset of an extent: its key and whether its memory is cached (R137, R354). -/
def locate : List Run → Nat → Option (Nat × Bool)
  | [], _ => none
  | r :: rest, o =>
    if o < r.len then some (memKey r.ty.val (r.pa + o), r.ty.val < 2 || (r.ty.val == 2 && !r.ns)) else locate rest (o - r.len)

end Sys2Proof.Machine
end

