-- ==== Sys2Proof/Machine/Access.lean ====
section
/-! DEFINITION. Accesses: reads, writes and atomics through tokens (R43, R136, R186 to R189), and through local space (R195, R196, R202,
R203). The units of an access are performed at moments of their own (R99, R102, R214); one through a remote token or window first sends its
requests and is performed when they are answered. -/

namespace Sys2Proof.Machine

/-! ## Pieces of a remote access (R305) -/

/-- The spans of consecutive addresses of a list. -/
def spans : List Nat → List (Nat × Nat)
  | [] => []
  | a :: r =>
    match spans r with
    | [] => [(a, 1)]
    | (b, n) :: t => if a + 1 = b then (a, n + 1) :: t else (a, 1) :: (b, n) :: t

/-- A span cut into pieces of at most 208 bytes that end on 16-byte-aligned offsets. -/
def cut : Nat → Nat → Nat → List (Nat × Nat)
  | 0, _, _ => []
  | k + 1, a, n =>
    if n = 0 then []
    else if n ≤ 208 then [(a, n)]
    else
      let m := 208 - (a + 208) % 16
      (a, m) :: cut k (a + m) (n - m)

/-- The pieces of a list of addresses. -/
def pieces (l : List Nat) : List (Nat × Nat) := (spans l).flatMap fun p => cut (p.2 / 192 + 1) p.1 p.2

/-- A number for each piece, from a base on. -/
def numbered (base : Nat) (l : List α) : List (Nat × α) := (List.range l.length).zip l |>.map fun p => (base + p.1, p.2)

/-- What an access gives: the state after, the bytes read (none while it waits), its charges. -/
structure Got where
  s : State
  data : Option (List Byte)
  acct : Acct
  seen : Seen

/-- The target word of a request through a token (R305). -/
def tokTarget (tok : W64) (off : Nat) (asid : BitVec 11) : Nat :=
  tokIndex tok + tokGen tok * 2 ^ 10 + off % 2 ^ 31 * 2 ^ 22 + asid.toNat * 2 ^ 53

/-- The die of the core of a party. -/
def Who.die (w : Who) : Fin 4 := dieOf w.core

/-- The party as the race detector knows it, for an access through a watched token (R107). -/
def Who.watching (w : Who) (tok : W64) (scope : Scope) : Option (CoreId × Seq × Fin 4 × Scope) :=
  if tokWatch tok then some (w.core, w.q, w.x, scope) else none

/-- Flags of an answer (notes/assumptions/18.md). -/
def Req.flags (r : Req) : Nat := match r.answer with | some (b :: _) => b.toNat | _ => 0

/-- The byte at a place that the numbered pieces have brought. -/
def State.pieceByte (s : State) (d : Fin 4) (uid : Nat) (ps : List (Nat × Nat × Nat)) (a : Nat) : Byte :=
  match ps.find? fun p => p.2.1 ≤ a && a < p.2.1 + p.2.2 with
  | none => 0
  | some p =>
    match s.answerOf d uid p.1 with
    | some r => if r.failed then 0 else (r.answer.getD []).getD (1 + a - p.2.1) 0
    | _ => 0

/-- The charges that the answers of a work item carry: stale, lost, poisoned, out of extent, a race, failed. -/
def State.answerAcct (s : State) (d : Fin 4) (uid : Nat) (nos : List Nat) : Acct :=
  (nos.filterMap fun n => s.answerOf d uid n).foldl (fun a r =>
    a.join ⟨bitOf r.flags 3, bitOf r.flags 0, bitOf r.flags 1, bitOf r.flags 5, r.failed, if bitOf r.flags 2 then some (2 ^ 56) else none⟩) Acct.none

/-! ## Local memory by place -/

/-- The sectors of a line that a list of places touches. -/
def secMask (line : Nat) (keys : List Nat) : BitVec 4 :=
  keys.foldl (fun m k => if lineOf k = line then m ||| (1 <<< (sectorOf k % 4)) else m) 0

/-- The lines that a list of places touches. -/
def linesOf (keys : List Nat) : List Nat := keys.foldl (fun l k => if l.contains (lineOf k) then l else l ++ [lineOf k]) []

/-- Reads places through a core's L1, uncached ones past it; `sc` gives the scope of an atomic read, `seen` what the race detector has seen of
the access already. An acq is watched as a read: DESIGN CHOICE (notes/assumptions/51.md). -/
def State.readKeys (s : State) (w : Who) (watched : Bool) (ks : List (Option (Nat × Bool))) (sc : Option Scope := none)
    (seen : Seen := Seen.none) : Got :=
  let all := ks.filterMap (·.map (·.1))
  let cached := ks.filterMap fun k => match k with | some (a, true) => some a | _ => none
  let s := (linesOf cached).foldl (fun s l => s.l1Read w.core l (secMask l cached)) s
  let r := s.watchIn w watched all false sc.isSome (sc.getD .cr) seen
  ⟨r.s, some (ks.map fun k => match k with | some (a, _) => r.s.mem.get a | none => 0),
    { Acct.none with oox := ks.any (·.isNone), race := r.race, poison := r.s.poisoned all }, r.seen⟩

/-- Writes bytes to places of memory; no other effect. -/
def State.putBytes (s : State) (kv : List (Nat × Byte)) : State :=
  State.cleanse { s with mem := kv.foldl (fun (m : Bytes) (e : Nat × Byte) => m.set e.1 e.2) s.mem } (kv.map fun e => e.1)

/-- Writes places through a core's L1, uncached ones past it. -/
def State.writeKeys (s : State) (w : Who) (watched : Bool) (scope : Scope) (kv : List (Option (Nat × Bool) × Byte)) (seen : Seen := Seen.none) :
    Got :=
  let all := kv.filterMap fun e => e.1.map fun k => (k.1, e.2)
  let cached := kv.filterMap fun e => match e.1 with | some (a, true) => some a | _ => none
  let s := (linesOf cached).foldl (fun s l => s.l1Write w.core l (secMask l cached)) s
  let r := s.watchIn w watched (all.map (·.1)) true false scope seen
  ⟨r.s.putBytes all, some [], { Acct.none with oox := kv.any (·.1.isNone), race := r.race }, r.seen⟩

/-- An atomic read-modify-write of n bytes at their home (R189): the new value, none for no write. -/
def State.atomicKeys (s : State) (w : Who) (watched : Bool) (scope : Scope) (key n : Nat) (f : Nat → Option Nat)
    (seen : Seen := Seen.none) : Got :=
  let s := s.homeWrite (lineOf key)
  let keys := (List.range n).map (key + ·)
  match s.poisoned keys with
  | some x => ⟨s, some (bytesOfNat n 0), { Acct.none with poison := some x }, seen⟩
  | none =>
    let r := s.watchIn w watched keys true true scope seen
    let old := r.s.mem.num key n
    let s := match f old with
      | none => r.s
      | some v => r.s.putBytes (keys.zip (bytesOfNat n v))
    ⟨s, some (bytesOfNat n old), { Acct.none with race := r.race }, r.seen⟩

/-! ## Divided atomics (R189, R354) -/

/-- An atomic on host or peer memory that a write from outside the device may divide: on cached host memory at a scope below `.sy` (R189), on
uncached pages at any scope (R354). -/
def divides (key : Nat) (cached : Bool) (scope : Scope) : Bool := decide (2 ^ 52 ≤ key) && (!cached || scope != .sy)

/-- The owner of an atomic still stands. -/
def State.stands (s : State) : Owner → Bool
  | .item c uid _ => (s.core c).aux.accs.any fun a => a.uid == uid
  | .req d f => (s.dies.at d).ingress.contains f

/-- Some place lies in an atomic of another owner that has read and not written yet: no party of the device writes there now (R189). -/
def State.atomicHeld (s : State) (keys : List Nat) : Bool :=
  s.hub.halves.any fun h => keys.any (fun k => h.key ≤ k && k < h.key + h.old.length) && s.stands h.owner

/-- An atomic read-modify-write of n bytes of a memory that is or is not cached: one step where it is indivisible (R189), otherwise a read
and, at a later step, a write between which a write of the host may fall. -/
def State.atomicAt (s : State) (o : Owner) (w : Who) (watched : Bool) (scope : Scope) (key n : Nat) (cached : Bool) (f : Nat → Option Nat)
    (seen : Seen := Seen.none) : Got :=
  let keys := (List.range n).map (key + ·)
  match s.hub.halves.find? fun h => h.owner == o && h.key == key with
  | some h =>
    let s := s.modHub fun b => { b with halves := b.halves.filter fun g => !(g.owner == o && g.key == key) }
    let s := match f (natOfBytes h.old) with
      | none => s
      | some v => s.putBytes (keys.zip (bytesOfNat n v))
    ⟨s, some h.old, { Acct.none with race := h.race }, seen⟩
  | none =>
    if s.atomicHeld keys then ⟨s, none, Acct.none, seen⟩
    else if !divides key cached scope then s.atomicKeys w watched scope key n f seen
    else
      let s := s.homeWrite (lineOf key)
      match s.poisoned keys with
      | some x => ⟨s, some (bytesOfNat n 0), { Acct.none with poison := some x }, seen⟩
      | none =>
        let r := s.watchIn w watched keys true true scope seen
        ⟨r.s.modHub fun b => { b with halves := b.halves ++ [⟨o, key, keys.map r.s.mem.get, r.race⟩] }, none, Acct.none, r.seen⟩

/-! ## The parts of an access (R99, R102, R214, R223, R224) -/

/-- How an access falls into parts: whole; byte by byte; by aligned 16-byte units, a byte outside a whole one by itself; by 64-byte sectors;
by elements of n bytes, one that crosses a unit as the last two give. -/
inductive Grain where
  | whole
  | bytes
  | units
  | sectors
  | elems (n : Nat)
deriving DecidableEq, Repr

/-- The part that a byte belongs to, by its position and its place, among the positions and places of the access. -/
def Grain.part (g : Grain) (all : List (Nat × Nat)) (p : Nat × Nat) : Nat × Nat :=
  let unit := if (List.range 16).all fun i => all.any fun e => e.2 == p.2 / 16 * 16 + i then (2, p.2 / 16) else (1, p.1)
  match g with
  | .whole => (0, 0)
  | .bytes => (1, p.1)
  | .units => unit
  | .sectors => (3, p.2 / 64)
  | .elems n => if all.all fun e => e.1 / n != p.1 / n || e.2 / 16 == p.2 / 16 then (4, p.1 / n) else unit

/-- Which of several bytes that an access gives one place stands: any of them (R223), or the one of the highest position (R224). -/
inductive Clash where
  | any
  | last
deriving DecidableEq, Repr

/-- What of an access a step performs: everything that is left of it, or one part of it, the n-th of those left. `ready` says which
positions can be performed, `clash` what becomes of bytes that share a place, none where no two do. -/
structure How where
  part : Option Nat
  grain : Grain
  ready : Nat → Bool
  clash : Option Clash

/-- An access without parts, performed at once. -/
def How.all : How := ⟨none, .whole, fun _ => true, none⟩

/-- An access performed by parts of a grain. -/
def How.by (u : Option Nat) (g : Grain) : How := ⟨u, g, fun _ => true, none⟩

/-- The positions that a step performs, of those left. -/
def How.pick (h : How) (all todo : List (Nat × Nat)) : List Nat :=
  match h.part with
  | none => (todo.filter fun p => h.ready p.1).map (·.1)
  | some n =>
    let gs := (todo.map (h.grain.part all)).eraseDups.filter fun g => todo.all fun p => h.grain.part all p != g || h.ready p.1
    match gs[n % gs.length]? with
    | none => []
    | some g => (todo.filter fun p => h.grain.part all p == g).map (·.1)

/-- The access under way of a work item at a first piece. -/
def Core.access (k : Core) (uid base : Nat) : Option Access := k.aux.accs.find? fun a => a.uid == uid && a.base == base

/-- An access is under way, in place of what was known of it. -/
def State.keepAccess (s : State) (c : CoreId) (a : Access) : State :=
  s.modCore c fun k => k.modAux fun x => { x with accs := a :: x.accs.filter fun b => !(b.uid == a.uid && b.base == a.base) }

/-- Accesses of a work item are no longer under way: that of a first piece, or all. -/
def State.dropAccess (s : State) (c : CoreId) (uid base : Nat) : State :=
  if ((s.core c).access uid base).isNone then s
  else s.modCore c fun k => k.modAux fun x => { x with accs := x.accs.filter fun b => !(b.uid == uid && b.base == base) }
def State.dropAccesses (s : State) (c : CoreId) (uid : Nat) : State :=
  if (s.core c).aux.accs.all fun a => a.uid != uid then s
  else s.modCore c fun k => k.endAccesses (· == uid)

/-- The `race.mode` that the word of a work item has seen (R177). -/
def Core.modeOf (k : Core) (uid : Nat) : Option Bool := (k.aux.accs.filter fun a => a.uid == uid).findSome? (·.mode)

/-- The pin lookup of an access: made once, at its first step (R136, R182). -/
def State.lookup (s : State) (c : CoreId) (uid base : Nat) (tok : W64) (rd wr : Bool) : Pin × State :=
  match ((s.core c).access uid base).bind (·.pin) with
  | some p => (p, s)
  | none => s.pin c tok rd wr

/-- An access of which nothing is done. -/
def Access.fresh (uid base : Nat) (pin : Option Pin) (entry : BitVec 52 × Nat) (mode : Option Bool) : Access :=
  ⟨uid, base, pin, entry, [], [], mode, Acct.none⟩

/-- What is known of an access that has passed its lookup. -/
def State.accessOf (s : State) (c : CoreId) (uid base : Nat) (pin : Option Pin) (tok : W64) : Access :=
  ((s.core c).access uid base).getD (Access.fresh uid base pin ((s.core c).cr.pinBase, tokIndex tok) ((s.core c).modeOf uid))

/-- An access has passed its lookup and waits for what it has asked for. -/
def State.noteAccess (s : State) (c : CoreId) (uid base : Nat) (pin : Pin) (tok : W64) : State :=
  if ((s.core c).access uid base).isSome then s else s.keepAccess c (s.accessOf c uid base (some pin) tok)

/-- The positions of an access that have a place, each with it. -/
def positions (ks : List (Option Nat)) : List (Nat × Nat) := ((List.range ks.length).zip ks).filterMap fun e => e.2.map fun k => (e.1, k)

/-- The positions that are left. -/
def Access.todo (a : Access) (ks : List (Option Nat)) : List (Nat × Nat) := (positions ks).filter fun p => !(a.done.any fun d => d.1 == p.1)

/-- The byte at a position of an access. -/
def Access.byte (a : Access) (i : Nat) : Byte := ((a.done.find? fun d => d.1 == i).map (·.2)).getD 0

/-- An access of which more has been done. -/
def Access.more (a : Access) (l : List (Nat × Byte)) (g : Got) : Access :=
  { a with done := a.done ++ l, secs := g.seen.secs, mode := g.seen.mode, acct := a.acct.join g.acct }

/-- Reads parts of an access at places: its bytes once all of them are read. -/
def State.readPart (s : State) (w : Who) (a : Access) (watched : Bool) (ks : List (Option (Nat × Bool))) (sc : Option Scope) (h : How) : Got :=
  let todo := a.todo (ks.map (·.map (·.1)))
  let now := h.pick (positions (ks.map (·.map (·.1)))) todo
  if a.done.isEmpty && now.length == todo.length then
    (s.dropAccess w.core a.uid a.base).readKeys w watched ks sc ⟨a.mode, a.secs⟩
  else
    let g := s.readKeys w watched (now.map fun i => ks.getD i none) sc ⟨a.mode, a.secs⟩
    let b := a.more (now.zip (g.data.getD [])) g
    if now.length == todo.length then
      ⟨g.s.dropAccess w.core a.uid a.base, some ((List.range ks.length).map b.byte),
        { b.acct with oox := b.acct.oox || ks.any (·.isNone) }, g.seen⟩
    else ⟨g.s.keepAccess w.core b, none, Acct.none, g.seen⟩

/-! ## Free order of a command's own writes (R223, R294) -/

/-- Each address keeps one of the values a list gives it, which one is left open. -/
def pickWrites : List (Nat × Byte) → State → List (Nat × Byte) × State
  | [], s => ([], s)
  | (a, v) :: r, s =>
    let (l, s) := pickWrites r s
    if l.any fun e => e.1 == a then
      let (n, s) := s.freeNat
      (if n % 2 = 0 then l.map fun e => if e.1 == a then (a, v) else e else l, s)
    else ((a, v) :: l, s)

/-- The bytes that a step writes of those it performs: where several share a place, the one that stands; `past` holds the positions written
already. -/
def clashed (c : Option Clash) (past : List (Nat × Nat)) (l : List (Nat × Nat × Byte)) (s : State) : List (Nat × Byte) × State :=
  match c with
  | none => (l.map (·.2), s)
  | some .any => pickWrites (l.map (·.2)) s
  | some .last => ((l.filter fun e => !((past.any fun p => e.1 < p.1 && p.2 == e.2.1) || l.any fun f => e.1 < f.1 && f.2.1 == e.2.1)).map (·.2), s)

/-- Writes parts of an access at places. -/
def State.writePart (s : State) (w : Who) (a : Access) (watched : Bool) (scope : Scope) (kv : List (Option (Nat × Bool) × Byte)) (h : How) :
    Got :=
  let ks := kv.map fun e => e.1.map (·.1)
  let todo := a.todo ks
  let all := positions ks
  let now := h.pick all todo
  let ends := now.length == todo.length && (List.range kv.length).all fun i => h.ready i
  if a.done.isEmpty && ends && h.clash.isNone then
    (s.dropAccess w.core a.uid a.base).writeKeys w watched scope kv ⟨a.mode, a.secs⟩
  else
    let (l, s) := clashed h.clash (all.filter fun p => a.done.any fun d => d.1 == p.1)
      (now.filterMap fun i => ((ks[i]?).getD none).map fun k => (i, k, (kv.getD i (none, 0)).2)) s
    let cached := fun (k : Nat) => kv.any fun e => e.1 == some (k, true)
    let g := s.writeKeys w watched scope (l.map fun e => (some (e.1, cached e.1), e.2)) ⟨a.mode, a.secs⟩
    let b := a.more (now.map fun i => (i, 0)) g
    if ends then
      ⟨g.s.dropAccess w.core a.uid a.base, some [], { b.acct with oox := b.acct.oox || kv.any (·.1.isNone) }, g.seen⟩
    else ⟨if b.done.isEmpty then g.s else g.s.keepAccess w.core b, none, Acct.none, g.seen⟩

/-! ## Through tokens -/

/-- Reads the bytes at offsets of a token (R43, R136). `uid` names the work item, `pb` its first piece. -/
def State.tokRead (s : State) (w : Who) (uid pb : Nat) (tok : W64) (offs : List Nat) (rd wr : Bool) (sc : Option Scope := none)
    (h : How := How.all) : Got :=
  match s.lookup w.core uid pb tok rd wr with
  | (.stale lost, s) =>
    ⟨s.dropAccess w.core uid pb, some (offs.map fun _ => 0), { Acct.none with stale := true, lost := lost }, Seen.none⟩
  | (.held, s) => ⟨s, none, Acct.none, Seen.none⟩
  | (.near len runs, s) =>
    let lim := min len (tokLen tok)
    s.readPart w (s.accessOf w.core uid pb (some (.near len runs)) tok) (tokWatch tok)
      (offs.map fun o => if o < lim then locate runs o else none) sc h
  | (.far len die, s) =>
    let lim := min len (tokLen tok)
    let d := w.die
    let asid := (s.core w.core).cr.asid
    let ps := numbered pb (pieces (offs.filter (· < lim)))
    let s := s.askAll d uid (ps.map fun p =>
      ⟨p.1, die, 0, 0, 0, w.core.val % 192, w.x.val, tokTarget tok p.2.1 asid, p.2.2, [], w.watching tok (sc.getD .cr)⟩)
    if ps.all fun p => (s.answerOf d uid p.1).isSome then
      ⟨s.dropAccess w.core uid pb, some (offs.map fun o => if o < lim then s.pieceByte d uid ps o else 0),
        { s.answerAcct d uid (ps.map (·.1)) with oox := offs.any fun o => decide (lim ≤ o) }, Seen.none⟩
    else ⟨s.noteAccess w.core uid pb (.far len die) tok, none, Acct.none, Seen.none⟩

/-- Every piece of a work item has its request. -/
def State.allAsked (s : State) (d : Fin 4) (uid : Nat) (nos : List Nat) : Bool := nos.all fun n => (s.reqsOf d uid).any fun r => r.piece == n

/-- The requests that no item waits for are charged together once the last of them is answered (R213). -/
def State.settleLoose (s : State) (d : Fin 4) (uid : Nat) : State :=
  let mine := s.reqsOf d uid
  match mine.head?.bind (·.loose) with
  | none => s
  | some (c, q, x, pc) =>
    if mine.all fun r => r.answer.isSome then
      (s.dropReqs d uid).chargeAt c q x pc uid (s.answerAcct d uid (mine.map (·.piece)))
    else s

/-- No item waits for the requests of a work item any more. -/
def State.loosen (s : State) (w : Who) (pc : W32) (uid : Nat) : State :=
  (s.modDie (dieOf w.core) fun e => { e with reqs := e.reqs.map fun r =>
    if r.uid == uid then { r with loose := some (w.core, w.q, w.x, pc) } else r }).settleLoose (dieOf w.core) uid

/-- Writes bytes at offsets of a token (R43, R136). Through a remote token the write of a word at a PC (none for an engine, which
waits for the answers) is done when its requests have left. -/
def State.tokWrite (s : State) (w : Who) (uid pb : Nat) (tok : W64) (kv : List (Nat × Byte)) (word : Option W32) (scope : Scope)
    (h : How := How.all) : Got :=
  match s.lookup w.core uid pb tok false true with
  | (.stale lost, s) => ⟨s.dropAccess w.core uid pb, some [], { Acct.none with stale := true, lost := lost }, Seen.none⟩
  | (.held, s) => ⟨s, none, Acct.none, Seen.none⟩
  | (.near len runs, s) =>
    let lim := min len (tokLen tok)
    let at' := kv.map fun e => (if e.1 < lim then locate runs e.1 else none, e.2)
    if !s.hub.halves.isEmpty && s.atomicHeld (at'.filterMap fun e => e.1.map (·.1)) then
      ⟨s.noteAccess w.core uid pb (.near len runs) tok, none, Acct.none, Seen.none⟩
    else s.writePart w (s.accessOf w.core uid pb (some (.near len runs)) tok) (tokWatch tok) scope at' h
  | (.far len die, s) =>
    if (List.range kv.length).any fun i => !h.ready i then ⟨s, none, Acct.none, Seen.none⟩
    else
    let lim := min len (tokLen tok)
    let d := w.die
    let asid := (s.core w.core).cr.asid
    let inside := kv.filter fun e => e.1 < lim
    let ps := numbered pb (pieces (inside.map (·.1)))
    let s := s.askAll d uid (ps.map fun p =>
      ⟨p.1, die, 0, 1, 0, w.core.val % 192, w.x.val, tokTarget tok p.2.1 asid, p.2.2,
        (inside.filter fun e => p.2.1 ≤ e.1 && e.1 < p.2.1 + p.2.2).map (·.2), w.watching tok scope⟩)
    let oox := kv.any fun e => decide (lim ≤ e.1)
    let nos := ps.map (·.1)
    match word with
    | some pc =>
      if s.allAsked d uid nos then
        ⟨(s.dropAccess w.core uid pb).loosen w pc uid, some [], { Acct.none with oox := oox }, Seen.none⟩
      else ⟨s.noteAccess w.core uid pb (.far len die) tok, none, Acct.none, Seen.none⟩
    | none =>
      if nos.all fun n => (s.answerOf d uid n).isSome then
        ⟨s.dropAccess w.core uid pb, some [], { s.answerAcct d uid nos with oox := oox }, Seen.none⟩
      else ⟨s.noteAccess w.core uid pb (.far len die) tok, none, Acct.none, Seen.none⟩

/-- One atomic read-modify-write of n bytes at an offset (R188, R189). `kind`, `op` and `operands` carry it to a remote home. -/
def State.tokAtomic (s : State) (w : Who) (uid pb : Nat) (tok : W64) (off n : Nat) (rd wr : Bool) (scope : Scope) (kind op : Nat)
    (operands : List Byte) (f : Nat → Option Nat) : Got :=
  match s.lookup w.core uid pb tok rd wr with
  | (.stale lost, s) =>
    ⟨s.dropAccess w.core uid pb, some (bytesOfNat n 0), { Acct.none with stale := true, lost := lost }, Seen.none⟩
  | (.held, s) => ⟨s, none, Acct.none, Seen.none⟩
  | (.near len runs, s) =>
    if min len (tokLen tok) < off + n then ⟨s, some (bytesOfNat n 0), { Acct.none with oox := true }, Seen.none⟩
    else match locate runs off with
    | none => ⟨s, some (bytesOfNat n 0), { Acct.none with oox := true }, Seen.none⟩
    | some (key, cached) =>
      let g := s.atomicAt (.item w.core uid pb) w (tokWatch tok) scope key n cached f
      match g.data with
      | none => { g with s := g.s.noteAccess w.core uid pb (.near len runs) tok }
      | some _ => { g with s := g.s.dropAccess w.core uid pb }
  | (.far len die, s) =>
    if min len (tokLen tok) < off + n then
      ⟨s.dropAccess w.core uid pb, some (bytesOfNat n 0), { Acct.none with oox := true }, Seen.none⟩
    else
      let d := w.die
      let s := s.askAll d uid [⟨pb, die, 0, kind, op + 16 * Nat.log2 n, w.core.val % 192, w.x.val,
        tokTarget tok off (s.core w.core).cr.asid, operands.length, operands, w.watching tok scope⟩]
      match s.answerOf d uid pb with
      | none => ⟨s.noteAccess w.core uid pb (.far len die) tok, none, Acct.none, Seen.none⟩
      | some _ => ⟨s.dropAccess w.core uid pb, some ((List.range n).map fun i => s.pieceByte d uid [(pb, 0, n)] i),
          s.answerAcct d uid [pb], Seen.none⟩

/-! ## Through local space -/

/-- What an address of local space gives a core: a scratchpad byte within reach, a place behind a window to another die, or nothing. -/
inductive Reach where
  | spad (d : CoreId) (o : Nat)
  | far (win : Fin 16) (die : Fin 64) (cl : Fin 4) (co : Fin 64) (o : Nat)
  | nothing
deriving DecidableEq, Repr

/-- Reach of an address (R196, R202). No scratchpad reaches past 2^19 bytes, so an offset from there on is out of extent at any target. -/
def State.reach (s : State) (c : CoreId) (a : Nat) : Reach :=
  let near := fun (d : CoreId) (o : Nat) =>
    if (d = c || s.sameContext c d) && o < (s.core d).aux.resv then Reach.spad d o else .nothing
  match localOf c a with
  | .spad d o => near d o
  | .nothing => .nothing
  | .win n o =>
    match (s.core c).wins.at n with
    | .closed | .dead => .nothing
    | .opened die cl co _ =>
      match s.winCore die cl co with
      | some t => if dieOf t = dieOf c then near t o else if o < 2 ^ 19 then .far n die cl co o else .nothing
      | none => if o < 2 ^ 19 then .far n die cl co o else .nothing

/-- The target word of a window access (R305). -/
def winTarget (cl : Fin 4) (co : Fin 64) (o : Nat) : Nat := o + co.val * 2 ^ 19 + cl.val * 2 ^ 25

/-- The addresses of a list that lie behind a window to another die. -/
def State.behind (s : State) (c : CoreId) (n : Fin 16) (addrs : List Nat) : List Nat :=
  addrs.filter fun a => match s.reach c a with | .far m .. => m == n | _ => false

/-- The pieces, with their places, of the addresses that lie behind windows to other dies. -/
def State.farPieces (s : State) (c : CoreId) (addrs : List Nat) : List (Nat × Nat × Reach) :=
  (List.finRange 16).flatMap fun n => (pieces (s.behind c n addrs)).map fun p => (p.1, p.2, s.reach c p.1)

/-- The place in local space of an address within reach on the die, none elsewhere. -/
def State.nearPlace (s : State) (c : CoreId) (a : Nat) : Option Nat :=
  match s.reach c a with
  | .spad .. => some a
  | _ => none

/-- What is known of an access through local space. -/
def State.localAccess (s : State) (c : CoreId) (uid pb : Nat) : Access := ((s.core c).access uid pb).getD (Access.fresh uid pb none (0, 0) none)

/-- Reads the bytes at positions of a list of addresses within reach. -/
def State.readNear (s : State) (c : CoreId) (addrs : List Nat) (now : List Nat) : List (Nat × Byte) × State :=
  now.foldl (fun (acc : List (Nat × Byte) × State) i =>
    match acc.2.reach c (addrs.getD i 0) with
    | .spad t o =>
      let (b, s) := acc.2.spadRead t o
      (acc.1 ++ [(i, b)], s)
    | _ => acc) ([], s)

/-- Reads bytes of local space for LD, ST or an engine (R196, R202, R223). -/
def State.locRead (s : State) (w : Who) (uid pb : Nat) (addrs : List Nat) (h : How := How.all) : Got :=
  let c := w.core
  let d := w.die
  let ps := numbered pb (s.farPieces c addrs)
  let s := s.askAll d uid (ps.filterMap fun p =>
    match p.2.2.2 with
    | .far _ die cl co o => some ⟨p.1, die, 0, 4, 0, c.val % 192, w.x.val, winTarget cl co o, p.2.2.1, [], none⟩
    | _ => none)
  let places := addrs.map (s.nearPlace c)
  let a := s.localAccess c uid pb
  let todo := a.todo places
  let now := h.pick (positions places) todo
  let r := s.readNear c addrs now
  let b := { a with done := a.done ++ r.1 }
  let s := r.2
  if now.length == todo.length && ps.all fun p => (s.answerOf d uid p.1).isSome then
    let tri := ps.map fun p => (p.1, p.2.1, p.2.2.1)
    let far := s.answerAcct d uid (ps.map (·.1))
    ⟨s.dropAccess c uid pb,
      some (((List.range addrs.length).zip addrs).map fun e => match s.reach c e.2 with
        | .spad .. => b.byte e.1
        | .far .. => s.pieceByte d uid tri e.2
        | .nothing => 0),
      { far with oox := far.oox || addrs.any fun x => s.reach c x == .nothing }, Seen.none⟩
  else ⟨if b.done.isEmpty then s else s.keepAccess c b, none, Acct.none, Seen.none⟩

/-- Allowance units that addresses of a window touch (R196). -/
def unitsOf (l : List Nat) : Nat := (l.foldl (fun u a => if u.contains (a / 16) then u else u ++ [a / 16]) []).length

/-- Units of the posted writes of a window that are outstanding. -/
def Core.postedUnits (k : Core) (n : Fin 16) : Nat := ((k.aux.posted.filter fun p => p.win == n).map (·.units)).sum

/-- The allowance of a window lets one posted write leave now (R196): one that needs more than the whole of it goes alone. -/
def State.roomFor (s : State) (c : CoreId) (n : Fin 16) (units : Nat) : Bool :=
  let used := (s.core c).postedUnits n
  used == 0 || (match (s.core c).wins.at n with
    | .opened _ _ _ al => decide (used + units ≤ al)
    | _ => true)

/-- A posted window write of a command leaves (R196). -/
def State.post (s : State) (w : Who) (pc : W32) (cmd : Nat) (p : Nat × Nat × Reach) (data : List Byte) : State × Bool :=
  match p.2.2 with
  | .far n die cl co o =>
    let (uid, s) := s.uid
    let s := s.ask w.die uid ⟨0, die, 0, 5, 0, w.core.val % 192, w.x.val, winTarget cl co o, data.length, data, none⟩
    if (s.reqsOf w.die uid).any (·.failed) then (s.dropReqs w.die uid, true)
    else
      (s.modCore w.core fun k => k.modAux fun a => { a with posted := a.posted ++
        [⟨uid, n, unitsOf ((List.range p.2.1).map (p.1 + ·)), cmd, w.q, w.x, pc, false, false⟩] }, false)
  | _ => (s, false)

/-- The bytes of a posted write: of several bytes that a command writes to one place one is sent, which one is left open (R223). -/
def chooseBytes (kv : List (Nat × Byte)) : List (List Nat) → State → List Byte × State
  | [], s => ([], s)
  | is :: r, s =>
    let (n, s) := if is.length ≤ 1 then (0, s) else s.freeNat
    let (l, s) := chooseBytes kv r s
    ((kv.getD (is.getD (n % is.length) 0) (0, 0)).2 :: l, s)

/-- The pieces behind windows that a command has still to write leave in their order, each window's as far as its allowance lets them and the
bytes are at hand (R196, R223): the pieces come with the positions of their bytes. The positions that have left, and whether a piece
failed. -/
def State.postPieces (w : Who) (pc : W32) (cmd : Nat) (kv : List (Nat × Byte)) (ready : Nat → Bool) :
    List ((Nat × Nat × Reach) × List (List Nat)) → List (Fin 16) → List Nat → Bool → State → List Nat × Bool × State
  | [], _, gone, bad, s => (gone, bad, s)
  | (p, is) :: r, full, gone, bad, s =>
    match p.2.2 with
    | .far n .. =>
      if !full.contains n && is.flatten.all ready && s.roomFor w.core n (unitsOf ((List.range p.2.1).map (p.1 + ·))) then
        let (data, s) := chooseBytes kv is s
        let (s, f) := s.post w pc cmd p data
        State.postPieces w pc cmd kv ready r full (gone ++ is.flatten) (bad || f) s
      else State.postPieces w pc cmd kv ready r (n :: full) gone bad s
    | _ => State.postPieces w pc cmd kv ready r full gone bad s

/-- Writes bytes to local space for a command (R196, R202, R223): within reach by the parts that `h` gives, behind windows as posted writes.
Done when the last byte is written or has left. -/
def State.locWrite (s : State) (w : Who) (pc : W32) (cmd pb : Nat) (kv : List (Nat × Byte)) (h : How := How.all) : Got :=
  let c := w.core
  let addrs := kv.map (·.1)
  let places := addrs.map (s.nearPlace c)
  let a := s.localAccess c cmd pb
  let todo := a.todo places
  let now := h.pick (positions places) todo
  let (l, s) := clashed h.clash ((positions places).filter fun p => a.done.any fun d => d.1 == p.1)
    (now.filterMap fun i => ((places[i]?).getD none).map fun k => (i, k, (kv.getD i (0, 0)).2)) s
  let s := l.foldl (fun s e => match s.reach c e.1 with | .spad t o => s.spadWrite t o e.2 | _ => s) s
  let at' := fun (x : Nat) => ((List.range kv.length).zip addrs).filterMap fun e => if e.2 == x then some e.1 else none
  let ps := (s.farPieces c addrs).map fun p => (p, (List.range p.2.1).map fun j => at' (p.1 + j))
  let left := ps.filter fun p => !(a.done.any fun d => p.2.flatten.contains d.1)
  let (gone, bad, s) := State.postPieces w pc cmd kv h.ready left [] [] false s
  let b := { a with done := a.done ++ (now ++ gone).map fun i => (i, 0),
                    acct := { a.acct with failed := a.acct.failed || bad } }
  if now.length == todo.length && left.all (fun p => p.2.flatten.all gone.contains) && (List.range kv.length).all h.ready then
    ⟨s.dropAccess c cmd pb, some [], { b.acct with oox := addrs.any fun x => s.reach c x == .nothing }, Seen.none⟩
  else ⟨if b.done.isEmpty then s else s.keepAccess c b, none, Acct.none, Seen.none⟩

/-! ## The own scratchpad (R203): EX and the Sett -/

/-- A local address reaches the own scratchpad below T. -/
def State.ownOffset (s : State) (c : CoreId) (a : Nat) : Option Nat :=
  match localOf c a with
  | .spad d o => if d = c && o < (s.core c).aux.resv then some o else none
  | _ => none

/-- Reads bytes for EX or the Sett: those elsewhere read 0 (R203). -/
def State.ownRead (s : State) (c : CoreId) (addrs : List Nat) : List Byte × Bool × State :=
  let r := addrs.foldl (fun (acc : List Byte × Bool × State) a =>
    match acc.2.2.ownOffset c a with
    | none => (0 :: acc.1, true, acc.2.2)
    | some o =>
      let (b, s) := acc.2.2.spadRead c o
      (b :: acc.1, acc.2.1, s)) ([], false, s)
  (r.1.reverse, r.2)

/-- Writes bytes for the Sett: those elsewhere are dropped (R203). -/
def State.ownWrite (s : State) (c : CoreId) (kv : List (Nat × Byte)) : Bool × State :=
  kv.foldl (fun (acc : Bool × State) e =>
    match acc.2.ownOffset c e.1 with
    | none => (true, acc.2)
    | some o => (acc.1, acc.2.spadWrite c o e.2)) (false, s)

end Sys2Proof.Machine
end

