-- ==== Sys2Proof/Machine/Common.lean ====
section
/-! DEFINITION. The common control group (R146 to R158): one meaning for every sequencer. -/

namespace Sys2Proof.Machine

/-! ## Frames and tails (R111 to R116) -/

/-- Accesses of the contexts c1 to c3 that are not performed yet. -/
def Core.tailsBusy (k : Core) : Bool :=
  [1, 2, 3].any fun x => !(k.ctx.at x).loads.isEmpty || !(k.ctx.at x).stores.isEmpty

/-- The frames of ended tails are freed (R112, R116). -/
def Core.freeTails (k : Core) : Core := { k with frames := k.frames.filter fun f => !f.ended }

/-- The join of c0 (R116, R104): held while a tail lives, then until the accesses of the ended tails are performed. -/
def State.join (s : State) (next : State → Act) : Act :=
  if s.cur.q == .ctl && s.cur.x == 0 then
    if s.me.tailsLive then .wait 0x2B
    else if s.me.tailsBusy then .hold s
    else next (s.modMe Core.freeTails)
  else next s

/-- The context awaits Warren or `famo` results (R292, R314). -/
def State.resPending (s : State) : Bool :=
  match s.cur.q with
  | .ctl => !s.myCtx.res.isEmpty
  | .st => !s.me.st.res.isEmpty
  | _ => false

/-! ## Synchronisation points (R136) -/

/-- The cause that waits for a sequencer: TOKEN_LOST before TOKEN_STALE. Each sequencer that made a stale access has its own (R143). -/
def Core.tokCause (k : Core) (q : Seq) : Option (BitVec 8) :=
  let v := k.aux.tok.at (Fin.ofNat 4 (Seq.num q))
  if v = 0 then none else some (if v.getLsbD 1 then cLOST else cSTALE)

/-- Delivery to a sequencer clears both bits of `tok.pend`. -/
def Core.clearTok (k : Core) (q : Seq) : Core :=
  (k.modCr fun r => { r with tokPend := 0 }).modAux fun a => { a with tok := a.tok.put (Fin.ofNat 4 (Seq.num q)) 0 }
def State.clearTok (s : State) : State := s.modMe fun k => k.clearTok s.cur.q

/-- A synchronisation point: the pending token cause is taken after the word. -/
def State.syncGo (s : State) : Act :=
  match s.me.tokCause s.cur.q with
  | none => .go s
  | some c => .deliver s.clearTok c 0

/-! ## Segments (R155 to R157) -/

/-- A segment that closes with a difference is a machine check of source 6 (R157, R328). -/
def State.segmentMismatch (s : State) (g : Seg) : State :=
  s.machineCheck s.cur.core (checkWhat 6 0 (dieOf s.cur.core).val 0) 0 (g.expCount.toNat + g.obsCount.toNat * 2 ^ 32)
    (g.expCrc.toNat + g.signature.toNat * 2 ^ 32) (Seq.num s.cur.q * 4 + (if s.cur.q = .ctl then s.cur.x.val else 0))

/-! ## Queues from CTL (R15) -/

/-- An entry is read from a queue of a core that holds n of them: the sequencer takes the order it carries (R93, R177). -/
def Core.takeValue (k : Core) (q : Seq) (n : Nat) : Core :=
  let l := k.aux.prior.vq.at (queueOf q)
  (k.modAux fun a => { a with prior := { a.prior with vq := a.prior.vq.put (queueOf q) (orderRest n l) } }).follow q (orderOf n l)
def Core.takeOutcome (k : Core) (q : Seq) (n : Nat) : Core :=
  let l := k.aux.prior.oq.at (queueOf q)
  (k.modAux fun a => { a with prior := { a.prior with oq := a.prior.oq.put (queueOf q) (orderRest n l) } }).follow q (orderOf n l)

/-- A signed field as a PC offset in words. -/
def wordOffset (n : Nat) (o : BitVec n) : W32 := BitVec.ofInt 32 (4 * o.toInt)

/-! ## Phases (R154, R208) -/

/-- The wait code of the counter that the sequencer's WB bit waits on (R154). -/
def phaseCode (q : Seq) : Nat := (ringWb q).val

/-- The cell of a place among cells in rising order, +0.0 where none is listed (R237). -/
def cellGet : List (Nat × W32) → Nat → W32
  | [], _ => 0
  | (a, v) :: r, x => if x < a then 0 else if x = a then v else cellGet r x

/-- The cells with one written; +0.0 is not listed. -/
def cellSet : List (Nat × W32) → Nat → W32 → List (Nat × W32)
  | [], x, v => if v = 0 then [] else [(x, v)]
  | (a, w) :: r, x, v =>
    if x < a then (if v = 0 then (a, w) :: r else (x, v) :: (a, w) :: r)
    else if x = a then (if v = 0 then r else (x, v) :: r)
    else (a, w) :: cellSet r x v

/-- A Sett's cells with the window of tiles of a core copied from its working to its committed copies, or back (R208, R209, R237). -/
def Sett.copyTiles (t : Sett) (c : CoreId) (a : Nat) (toCommitted : Bool) : Sett :=
  let w := 5 * (inGroup c).val
  let src := if toCommitted then w else w + a
  let dst := if toCommitted then w + a else w
  let isIn := fun (lo : Nat) (e : Nat × W32) => lo * 8192 ≤ e.1 && e.1 < (lo + a) * 8192
  let keep := t.cells.filter fun e => !isIn dst e
  { t with cells := (t.cells.filter (isIn src)).foldl (fun l e => cellSet l (e.1 - src * 8192 + dst * 8192) e.2) keep }

/-- The snapshot of a core (R208). -/
def Core.snapshot (k : Core) : Snapshot :=
  { ctl := (k.ctx.at 0).flow, ld := k.ld.flow, exf := k.ex.flow, st := k.st.flow, la := k.ld.a, sa := k.st.a, s := (k.ctx.at 0).s,
    cells := k.cells, frames := k.frames, ex := k.ex, rings := k.rings }

/-- The commit of a phase (R208). -/
def State.phaseCommit (s : State) (c : CoreId) : State :=
  let k := s.core c
  let (n, a) := match k.aux.run with
    | some r => (r.op.nphase, r.op.allot)
    | none => (0, 0)
  let s := if n = 0 then s else s.modSett (settOf c) fun t => t.copyTiles c a true
  s.modCore c fun k => k.modAux fun x =>
    let p := x.phases
    let clean := (List.finRange 16).all (fun q => (k.streams.at q).isEmpty) && (List.finRange 3).all (fun q =>
      (k.values.at q).isEmpty && (k.outcomes.at q).isEmpty) && !k.tailsLive && !p.overflow
    { x with phases :=
      { parity := p.parity ^^^ BitVec.ofNat 4 (2 ^ n - 1), snap := some k.snapshot, commits := p.commits + 1, recoverable := clean,
        cancels := 0, inLog := p.copyLog, copyLog := [], overflow := false } }

/-- The four units that meet at a `phase`. -/
def phaseUnits : List Seq := [.ctl, .ld, .ex, .st]

/-- The token cause that waits for a sequencer becomes a delivered cause of its `phase` word (R136). -/
def Core.duePhase (k : Core) (q : Seq) : Core :=
  match k.tokCause q with
  | none => k
  | some cause => (k.clearTok q).modFlow q 0 fun f => { f with due := f.due ++ [⟨cause, f.pc - 4⟩] }

/-- The four `phase` words issue together and the phase commits; the token causes that wait for LD, EX and ST are delivered after them, the
first of them at once (R136, R143, R154). -/
def State.phaseAll (s : State) (c : CoreId) : State :=
  let cur := s.cur
  let s := phaseUnits.foldl (fun s q =>
    match ((s.core c).flow q 0).atPhase with
    | none => s
    | some y =>
      let t := { s with cur := ⟨c, q, 0⟩ }
      let i := plainWord y (t.wordsOf (.phase y))
      t.issued i (t.nextPc i)) s
  let s := { s.phaseCommit c with cur := cur }
  match [Seq.ld, .ex, .st].find? fun q => ((s.core c).tokCause q).isSome with
  | none => s
  | some q =>
    let s := s.modCore c fun k => ((k.duePhase .ld).duePhase .ex).duePhase .st
    let t : State := { s with cur := ⟨c, q, 0⟩ }
    match t.myFlow.due with
    | [] => s
    | d :: _ =>
      let u : State := { t.takeDue d with cur := cur }
      u

/-! ## Meanings -/

/-- `nop` (R146). -/
def execNop (y : Ring) (s : State) : Host.Outcome State Fault Refusal :=
  s.word (plainWord y (s.wordsOf (.nop y))) fun s => .go s

/-- `halt` (R146, R25). -/
def execHalt (y : Ring) (s : State) : Host.Outcome State Fault Refusal :=
  s.word { plainWord y (s.wordsOf (.halt y)) with noTail := true, noHandler := true, quiet := true } fun s =>
    s.join fun s =>
      if s.resPending then .hold s
      else match s.me.tokCause s.cur.q with
      | some c => .trapIn s.clearTok c 0 0
      | none =>
        let g := s.myFlow.seg
        let t := s.modMyFlow fun f => { f with halted := true, seg := { f.seg with isOpen := false } }
        .goThen t fun t =>
          let pc := s.myFlow.pc
          let t := t.modMyFlow fun f => { f with pc := pc }
          if g.mismatch then t.segmentMismatch g else t

/-- `pbr` (R147). -/
def execPbr (y : Ring) (b : Fin 4) (o : BitVec 20) (s : State) : Host.Outcome State Fault Refusal :=
  s.word (plainWord y (s.wordsOf (.pbr y b o))) fun s =>
    .go (s.modMyFlow fun f => { f with bt := f.bt.put b (f.pc + wordOffset 20 o) })

/-- A conditional jump to a branch target (R147). -/
def State.branch (s : State) (b : Fin 4) (c : Bool) : Act := if c then .jump s (s.myFlow.bt.at b) else .go s

/-- `br` (R147). -/
def execBr (y : Ring) (b : Fin 4) (n : Bool) (p : BrCond) (s : State) : Host.Outcome State Fault Refusal :=
  s.word (plainWord y (s.wordsOf (.br y b n p))) fun s =>
    match p with
    | .p k => if s.busyP [k] then .hold s else s.branch b (s.readP k != n)
    | .bq =>
      match s.me.outcomes.at (queueOf s.cur.q) with
      | [] => .wait 0x21
      | v :: r => (s.modMe fun k => ({ k with outcomes := k.outcomes.put (queueOf s.cur.q) r }).takeOutcome s.cur.q (r.length + 1)).branch b (v != n)

/-- The extent of a loop level of the tile run, 1 where the table does not declare it (R148). -/
def State.levelExtent (s : State) (l : Nat) : Nat :=
  match s.me.aux.run with
  | none => 1
  | some r => match r.op.levels[l - 1]? with
    | some v => if v.kind = 0 then 1 else v.extent
    | none => 1

/-- `loop` (R148). -/
def execLoop (y : Ring) (c : Fin 4) (l : Fin 8) (s : State) : Host.Outcome State Fault Refusal :=
  s.word (plainWord y (s.wordsOf (.loop y c l))) fun s =>
    .go (s.modMyFlow fun f => { f with lc := f.lc.put c (BitVec.ofNat 32 (s.levelExtent l.val)), bound := f.bound.put c (some l) })

/-- `loop.i` (R148). -/
def execLoopI (y : Ring) (c : Fin 4) (n : BitVec 19) (s : State) : Host.Outcome State Fault Refusal :=
  s.word (plainWord y (s.wordsOf (.loopI y c n))) fun s =>
    .go (s.modMyFlow fun f => { f with lc := f.lc.put c (n.setWidth 32), bound := f.bound.put c none })

/-- The rotation that an `lb` of EX on a counter brings (R149, R234). -/
def State.rotation (s : State) (c : Fin 4) : Nat :=
  match s.me.aux.run, s.myFlow.bound.at c with
  | some r, some l => match r.op.levels[l.val - 1]? with
    | some v => if v.kind = 0 then 0 else v.rotate
    | none => 0
  | _, _ => 0

/-- `lb` (R149). -/
def execLb (y : Ring) (c : Fin 4) (o : BitVec 20) (s : State) : Host.Outcome State Fault Refusal :=
  s.word (plainWord y (s.wordsOf (.lb y c o))) fun s =>
    let v := s.myFlow.lc.at c
    let pc := s.myFlow.pc
    let m := s.rotation c
    let t := if s.cur.q == .ex then s.modMe fun k => k.modEx fun e => { e with zbase := e.zbase + Fin.ofNat 16 m } else s
    if 1 < v.toNat then .jump (t.modMyFlow fun f => { f with lc := f.lc.put c (v - 1) }) (pc + wordOffset 20 o)
    else .go (t.modMyFlow fun f => { f with lc := f.lc.put c 0 })

/-- `lx` (R150). -/
def execLx (y : Ring) (c : Fin 4) (n : Bool) (p : Fin 8) (o : BitVec 15) (s : State) : Host.Outcome State Fault Refusal :=
  s.word (plainWord y (s.wordsOf (.lx y c n p o))) fun s =>
    if s.busyP [p] then .hold s
    else if s.readP p != n then
      .jump (s.modMyFlow fun f => { f with lc := f.lc.put c 0 }) (s.myFlow.pc + wordOffset 15 o)
    else .go s

/-- An entry of the wait-budget table (R151). -/
def State.budgetEntry (s : State) (e : Fin 8) : BitVec 24 :=
  match s.me.aux.run with
  | none => Config.budgetDefault
  | some r => match r.op.budgets[e.val]? with
    | some v => if v = 0 then Config.budgetDefault else v
    | none => Config.budgetDefault

/-- `budget` (R151). -/
def execBudget (y : Ring) (e : Fin 8) (s : State) : Host.Outcome State Fault Refusal :=
  s.word (plainWord y (s.wordsOf (.budget y e))) fun s => .go (s.modMyFlow fun f => { f with budget := s.budgetEntry e })

/-- The lowest-numbered pending mark of a list. -/
def Core.lowestPending (k : Core) (l : List (Fin 32)) : Option (Fin 32) :=
  (List.finRange 32).find? fun m => l.contains m && !k.markDone m

/-- `mwait` (R152). -/
def execMwait (y : Ring) (w : Waits) (s : State) : Host.Outcome State Fault Refusal :=
  s.word (plainWord y (s.wordsOf (.mwait y w))) fun s =>
    match s.me.lowestPending (Waits.list w) with
    | some m => .wait (0x40 + m.val)
    | none => .go s

/-- `gen` (R153, R21). -/
def execGen (y : Ring) (s : State) : Host.Outcome State Fault Refusal :=
  s.word (plainWord y (s.wordsOf (.gen y))) fun s =>
    let g := s.me.cr.genno
    if (s.allCmds s.cur.core).any fun d => !d.started && (g - d.gen).toNat == 32767 then .hold s
    else .go (s.modMe fun k => k.modCr fun r => { r with genno := r.genno + 1 })

/-- `phase` (R154). -/
def execPhase (y : Ring) (s : State) : Host.Outcome State Fault Refusal :=
  s.word (plainWord y (s.wordsOf (.phase y))) fun s =>
    if s.cur.q == .ctl && (s.cur.x != 0 || s.me.isTail s.cur.x || s.me.mode == .handler) then .go s
    else
      let t := s.modMyFlow fun f => { f with atPhase := some y }
      let k := t.me
      if phaseUnits.all fun q => match (k.flow q 0).atPhase with
        | none => false
        | some z => (k.postWait q z).isNone
      then .moved (t.phaseAll s.cur.core)
      else .waitIn t (phaseCode s.cur.q)

/-- `seg` (R155). -/
def execSeg (y : Ring) (n : BitVec 16) (crc : W32) (s : State) : Host.Outcome State Fault Refusal :=
  s.word { plainWord y (s.wordsOf (.seg y n crc)) with quiet := true } fun s =>
    let g := s.myFlow.seg
    let t := s.modMyFlow fun f => { f with seg := ⟨true, n, crc, 0, 0xFFFFFFFF⟩ }
    if g.mismatch then .goThen (s.modMyFlow fun f => { f with seg := { f.seg with isOpen := false } }) fun t => t.segmentMismatch g
    else t.syncGo

/-- `recv` (R158). -/
def execRecv (y : Ring) (d : Fin 16) (s : State) : Host.Outcome State Fault Refusal :=
  s.word (plainWord y (s.wordsOf (.recv y d))) fun s =>
    match s.me.values.at (queueOf s.cur.q) with
    | [] => .wait 0x20
    | v :: r =>
      let t := s.modMe fun k => ({ k with values := k.values.put (queueOf s.cur.q) r }).takeValue s.cur.q (r.length + 1)
      .go (if s.cur.q == .ex then t.modMe fun k => k.modEx fun e => { e with b := e.b.put (Fin.ofNat 8 d.val) v } else t.writeA d v)

end Sys2Proof.Machine
end

