-- ==== Sys2Proof/Machine/Flags.lean ====
section
/-! DEFINITION. The values that the scalar words compute (R159 to R165), the conditions they test (R53, R162, R216), and the flags they
leave: none of them sets a flag but the predicate it names. The flags of EX words are computed beside their results (`Num`). -/

namespace Sys2Proof.Machine

/-- Integer words of CTL: `add.s`, `sub.s` and `mul.s` clamp the exact signed result (R159). -/
def addSat (a b : W64) : W64 := BitVec.ofInt 64 (satS 64 (a.toInt + b.toInt))
def subSat (a b : W64) : W64 := BitVec.ofInt 64 (satS 64 (a.toInt - b.toInt))
def mulSat (a b : W64) : W64 := BitVec.ofInt 64 (satS 64 (a.toInt * b.toInt))

/-- Shifts by all 64 bits of the count (R159). -/
def shlVal (a b : W64) : W64 := if b.toNat ≥ 64 then 0 else a <<< b.toNat
def shrVal (a b : W64) : W64 := if b.toNat ≥ 64 then 0 else a >>> b.toNat
def sraVal (a b : W64) : W64 := if b.toNat ≥ 64 then (if a.msb then BitVec.allOnes 64 else 0) else a.sshiftRight b.toNat

/-- The upper half of the exact product (R159). -/
def mulhVal (a b : W64) : W64 := BitVec.ofInt 64 (a.toInt * b.toInt / 2 ^ 64)
def mulhnVal (a b : W64) : W64 := BitVec.ofNat 64 (a.toNat * b.toNat / 2 ^ 64)

/-- Division: by zero all ones and the dividend (R159). -/
def divVal (a b : W64) : W64 := if b = 0 then BitVec.allOnes 64 else BitVec.ofInt 64 (a.toInt.tdiv b.toInt)
def divnVal (a b : W64) : W64 := if b = 0 then BitVec.allOnes 64 else BitVec.ofNat 64 (a.toNat / b.toNat)
def remVal (a b : W64) : W64 := if b = 0 then a else BitVec.ofInt 64 (a.toInt.tmod b.toInt)
def remnVal (a b : W64) : W64 := if b = 0 then a else BitVec.ofNat 64 (a.toNat % b.toNat)

/-- Minimum and maximum (R159). -/
def minVal (a b : W64) : W64 := if b.toInt < a.toInt then b else a
def maxVal (a b : W64) : W64 := if a.toInt < b.toInt then b else a
def minnVal (a b : W64) : W64 := if b.toNat < a.toNat then b else a
def maxnVal (a b : W64) : W64 := if a.toNat < b.toNat then b else a

/-- Leading zero bits, and 1 bits (R159). -/
def clzVal (a : W64) : W64 := BitVec.ofNat 64 (64 - bitLen a.toNat)
def popcVal (a : W64) : W64 := BitVec.ofNat 64 ((List.range 64).filter fun n => a.getLsbD n).length

/-- A condition between two 64-bit values (R53, R162). -/
def condHolds (c : Cond) (a b : W64) : Bool := intCmp 64 c a.toNat b.toNat

/-- A combination of predicates (R163). -/
def psetVal (o : PsetOp) (a b : Bool) : Bool :=
  match o with
  | .and => a && b
  | .or => a || b
  | .xor => a != b
  | .andn => a && !b
  | .orn => a || !b

/-- A field taken out, and put in (R165). -/
def extVal (a : W64) (p w : Nat) : W64 := BitVec.ofNat 64 (bitsOf a.toNat p w)
def insVal (d a : W64) (p w : Nat) : W64 :=
  BitVec.ofNat 64 (d.toNat - bitsOf d.toNat p w * 2 ^ p + bitsOf a.toNat 0 w * 2 ^ p)

end Sys2Proof.Machine
end

