-- ==== Sys2Proof/Machine/Operands.lean ====
section
/-! DEFINITION. Operand forms: scalar words of CTL (R144, R145), memory operands (R38, R186, R188, R190, R217), control registers (R5,
R176), EX operands (R227, R228, R243 to R245) and the local addresses of descriptors (R238, R239). -/

namespace Sys2Proof.Machine

/-! ## Scalar words -/

/-- A word with two sources and a destination: it waits for results of its sources as an interlock (R144, R187), and for that of a Warren or
`famo` command to its destination (R292). -/
def State.alu (s : State) (d a b : Fin 32) (f : W64 → W64 → W64) : Act :=
  if s.busyS [a, b] || s.busyD [d] then .hold s else .go (s.writeS d (f (s.readS a) (s.readS b)))

/-- A word with one source and a destination. -/
def State.alu1 (s : State) (d a : Fin 32) (f : W64 → W64) : Act :=
  if s.busyS [a] || s.busyD [d] then .hold s else .go (s.writeS d (f (s.readS a)))

/-- A word that sets a predicate from two registers. -/
def State.test (s : State) (p : Fin 8) (a b : Fin 32) (f : W64 → W64 → Bool) : Act :=
  if s.busyS [a, b] || s.busyP [p] then .hold s else .go (s.writeP p (f (s.readS a) (s.readS b)))

/-! ## Memory operands -/

/-- Bytes of a size (R53). -/
def sizeBytes : Size → Nat
  | .n8 | .i8 => 1
  | .n16 | .i16 => 2
  | .n32 | .i32 => 4
  | .n64 => 8

/-- The size is a signed one. -/
def sizeSigned : Size → Bool
  | .i8 | .i16 | .i32 => true
  | _ => false

/-- An offset of a memory operand of LD or ST: x + d modulo 2^64 (R38, R213). -/
def offsetOf (x : W64) (d : Nat) : Nat := (x.toNat + d) % 2 ^ 64

/-- An offset of a memory operand of CTL (R186). A sum that wraps past 2^64 lies past every extent (R197), so it is kept unreduced. -/
def ctlOffset (x : W64) (d : Nat) : Nat := x.toNat + d

/-- An offset with its low bits cleared to a size (R188, R190, R192). -/
def alignTo (n off : Nat) : Nat := off - off % n

/-- The offsets of n bytes from an offset on. DESIGN CHOICE (notes/assumptions/33.md): bytes that run past offset 2^64 - 1 do not wrap; they
lie past the extent (R43). -/
def offs (off n : Nat) : List Nat := (List.range n).map (off + ·)

/-- A value as a register receives it (R186). -/
def extend (signed : Bool) (n v : Nat) : W64 := if signed then BitVec.ofInt 64 (toSigned (8 * n) v) else BitVec.ofNat 64 (v % 2 ^ (8 * n))

/-- Token register k as a word of CTL reads it. -/
def State.readK (s : State) (k : Fin 16) : W64 := s.me.k.at k

/-- Token register k as a word of the unit sees it (R179). -/
def State.seenK (s : State) (y : Ring) (k : Fin 16) : W64 × State :=
  s.seen y (fun o => match o with | .k n v => if n = k then some v else none | _ => none) (s.me.k.at k)

/-- Writes a token register of a core, which clears its binding (R179). -/
def Core.writeK (c : Core) (k : Fin 16) (v : W64) : Core :=
  let c := c.replaced (.k k (c.k.at k))
  { c with k := c.k.put k v, binds := c.binds.put k none }
def State.writeK (s : State) (k : Fin 16) (v : W64) : State := s.modMe fun c => c.writeK k v

/-! ## Control registers (R62, R122, R124, R176, R289, R310) -/

/-- `fab.die` of a die (R310). -/
def Fabric.dieReg (f : Fabric) (d : Fin 4) : W64 :=
  let c := f.place d
  BitVec.ofNat 64 ((f.dieAddr d).val + c.x * 2 ^ 8 + c.y * 2 ^ 16 + c.z * 2 ^ 24 + f.ex * 2 ^ 32 + f.ey * 2 ^ 40 + f.ez * 2 ^ 48)

/-- The value `mfc` reads (R176). -/
def State.readCr (s : State) (c : CReg) : W64 :=
  let k := s.me
  let r := k.cr
  match c with
  | .fpmode => r.fpmode.setWidth 64
  | .fpflags => r.fpflags.setWidth 64
  | .ooxCount => r.ooxCount.setWidth 64
  | .ooxTrap => if r.ooxTrap then 1 else 0
  | .staleCount => r.staleCount.setWidth 64
  | .trapCause => r.trapCause.setWidth 64
  | .trapPc => r.trapPc.setWidth 64
  | .trapInfo => r.trapInfo
  | .trapVec => r.trapVec.setWidth 64
  | .trapResume => r.trapResume.setWidth 64
  | .ctxid => BitVec.ofNat 64 s.cur.x.val
  | .coreid => BitVec.ofNat 64 s.cur.core.val
  | .genno => r.genno.setWidth 64
  | .marks => r.marks.setWidth 64
  | .spillBase => BitVec.ofNat 64 (spadBase s.cur.core + k.aux.resv - k.aux.spill)
  | .spillSize => BitVec.ofNat 64 k.aux.spill
  | .raceMode => if r.raceMode then 1 else 0
  | .pinBase => r.pinBase.setWidth 64
  | .asid => r.asid.setWidth 64
  | .xlatFva => r.xlatFva
  | .tokPend => r.tokPend.setWidth 64
  | .l2Err => r.l2Err.setWidth 64
  | .fabErr => r.fabErr.setWidth 64
  | .fabDie => s.hub.fab.dieReg (dieOf s.cur.core)

/-- What `mtc` makes of the control registers (R5, R6, R176): read-only ones ignore it, W1C bits are cleared, reserved bits stay 0. -/
def Cregs.write (r : Cregs) (c : CReg) (v : W64) : Cregs :=
  match c with
  | .fpmode => { r with fpmode := v.setWidth 2 }
  | .fpflags => { r with fpflags := r.fpflags &&& ~~~(v.setWidth 7) }
  | .ooxCount => { r with ooxCount := v.setWidth 32 }
  | .ooxTrap => { r with ooxTrap := v.getLsbD 0 }
  | .staleCount => { r with staleCount := v.setWidth 32 }
  | .trapVec => { r with trapVec := v.setWidth 32 &&& 0xFFFFFFFC }
  | .trapResume => { r with trapResume := v.setWidth 32 &&& 0xFFFFFFFC }
  | .raceMode => { r with raceMode := v.getLsbD 0 }
  | .tokPend => { r with tokPend := r.tokPend &&& ~~~(v.setWidth 2) }
  | .l2Err => { r with l2Err := v.setWidth 32 }
  | .fabErr => { r with fabErr := v.setWidth 32 }
  | _ => r

/-- `mtc` on a core: what LD, EX and ST may still see of the old value is kept (R73, R177). -/
def Core.writeCr (k : Core) (c : CReg) (v : W64) : Core :=
  let k := match c with
    | .fpmode => k.replaced (.fpmode k.cr.fpmode)
    | .ooxTrap => k.replaced (.ooxTrap k.cr.ooxTrap)
    | .raceMode => k.replaced (.raceMode k.cr.raceMode)
    | .tokPend => k.modAux fun a => { a with tok := a.tok.map fun b => b &&& ~~~(v.setWidth 2) }
    | _ => k
  k.modCr fun r => r.write c v

/-! ## EX operands (R227, R228, R243 to R245) -/

/-- A line from a function of its 32-bit lanes. -/
def lineOf32 (f : Nat → Nat) : Line := BitVec.ofNat 2048 (ofLanes 32 ((List.range 64).map f))

/-- Lanes of a width. -/
def lanesOf (w : Nat) (v : Line) : List Nat := (List.range (2048 / w)).map fun i => laneOf v.toNat i w

/-- A line of lanes of a width. -/
def lineFrom (w : Nat) (l : List Nat) : Line := BitVec.ofNat 2048 (ofLanes w l)

/-- Stream registers that an EX word names as sources. -/
def Opnd.sources : List Opnd → List (Fin 16)
  | [] => []
  | .q n :: r => if (Opnd.sources r).contains n then Opnd.sources r else n :: Opnd.sources r
  | _ :: r => Opnd.sources r

/-- The lowest-numbered stream register that holds an EX word (R243): the sources and the destination it names. -/
def Core.streamWait (k : Core) (srcs : List (Fin 16)) (dst : Option (Fin 16)) : Option (Fin 16) :=
  (List.finRange 16).find? fun q => (srcs.contains q && !k.lineReady q) || (dst == some q && !k.slotFree q)

/-- Pops a stream register. -/
def Core.popStream (k : Core) (q : Fin 16) : Core := { k with streams := k.streams.mod q List.tail }

/-- The kind of lane a word reads, which the source `lane` follows (R245). -/
inductive LaneKind where
  | int (w : Nat)
  | f32
  | bf16
deriving DecidableEq, Repr

/-- Width of a lane kind. -/
def LaneKind.width : LaneKind → Nat
  | .int w => w
  | .f32 => 32
  | .bf16 => 16

/-- The line that a source operand supplies at issue (R44, R227, R245). -/
def Core.source (k : Core) (o : Opnd) (lk : LaneKind) : Line :=
  let w := lk.width
  match o with
  | .q n => match k.streams.at n with
    | ⟨_, some v, _⟩ :: _ => v
    | _ => 0
  | .b n => lineFrom w (List.replicate (2048 / w) ((k.ex.b.at n).toNat % 2 ^ w))
  | .zero => 0
  | .lane => lineFrom w ((List.range (2048 / w)).map fun i =>
      match lk with
      | .int w => i % 2 ^ w
      | .f32 => (roundInt pF32 .rne false (i : Nat) 0).1
      | .bf16 => (roundInt pBF16 .rne false (i : Nat) 0).1)
  | z => zRead k.ex.z z k.ex.zbase

/-- The rounding mode that a word of EX sees (R70, R73). -/
def State.seenMode (s : State) (y : Ring) : RMode × State :=
  let (v, s) := s.seen y (fun o => match o with | .fpmode v => some v | _ => none) s.me.cr.fpmode
  (RMode.of v, s)

/-- The lowest-numbered loop counter bound to a level, 0 where none is (R66, R148). -/
def Ex.levelCount (e : Ex) (l : Nat) : Nat :=
  match (List.finRange 4).find? fun c => match e.flow.bound.at c with | some b => b.val == l | none => false with
  | some c => (e.flow.lc.at c).toNat
  | none => 0

/-- Fmt(level) (R66, R241). -/
def Ex.fmtOf (e : Ex) (l : Fin 7) : W32 := e.fmt.at (Fin.ofNat 16 (e.fbase.toNat + if l.val = 0 then 0 else e.levelCount l.val))

/-- Fields of a format entry (R241). -/
def fmtAT (f : W32) : Nat := bitsOf f.toNat 0 4
def fmtBT (f : W32) : Nat := bitsOf f.toNat 4 4
def fmtQT (f : W32) : Nat := bitsOf f.toNat 8 4
def fmtQS (f : W32) : Bool := bitOf f.toNat 12
def fmtOT (f : W32) : Nat := bitsOf f.toNat 13 2

/-- The MXINT width of a type code 9, 10 or 11. -/
def qtWidth (n : Nat) : Option Nat := if n = 9 then some 8 else if n = 10 then some 6 else if n = 11 then some 4 else none

/-! ## Descriptors (R238, R239) -/

/-- Fields of a descriptor pair. -/
def dBase (p : W64) : Nat := bitsOf p.toNat 0 32
def dRowpitch (p : W64) : Nat := bitsOf p.toNat 32 32
def dKb (p' : W64) : Nat := bitsOf p'.toNat 56 8 + 1
def dWait (p' : W64) : Bool := bitOf p'.toNat 53
def dMark (p' : W64) : Fin 32 := Fin.ofNat 32 (bitsOf p'.toNat 48 5)
def dRot (p' : W64) : Nat := bitsOf p'.toNat 44 4
def dRows (p' : W64) : Nat := bitsOf p'.toNat 32 12
def dTpitch (p' : W64) : Nat := bitsOf p'.toNat 0 32

/-- Where physical row x of block b starts (R239), modulo 2^32. -/
def rowStart (p p' : W64) (b x : Nat) : Nat :=
  (dBase p + b * dTpitch p' + x * dRowpitch p + 64 * (x * dRot p' % 16)) % 2 ^ 32

/-- Where the scales of block b start, pr physical rows lying before them (R239). -/
def scaleStart (p p' : W64) (b pr : Nat) : Nat := (dBase p + b * dTpitch p' + pr * dRowpitch p) % 2 ^ 32

end Sys2Proof.Machine
end

