-- ==== Sys2Proof/Machine/CtlAlu.lean ====
section
/-! DEFINITION. The scalar arithmetic of CTL (R159 to R165): each word waits for pending results of its registers as an interlock (R144)
and writes one register or predicate. -/

namespace Sys2Proof.Machine

/-! ## Three registers (R159) -/

/-- `add` (R159). -/
def execAdd (y : Ring) (d a b : Fin 32) (s : State) : Host.Outcome State Fault Refusal :=
  s.word (plainWord y (s.wordsOf (.add y d a b))) fun s => s.alu d a b (fun a b => a + b)

/-- `add.s` (R159). -/
def execAddS (y : Ring) (d a b : Fin 32) (s : State) : Host.Outcome State Fault Refusal :=
  s.word (plainWord y (s.wordsOf (.addS y d a b))) fun s => s.alu d a b addSat

/-- `sub` (R159). -/
def execSub (y : Ring) (d a b : Fin 32) (s : State) : Host.Outcome State Fault Refusal :=
  s.word (plainWord y (s.wordsOf (.sub y d a b))) fun s => s.alu d a b (fun a b => a - b)

/-- `sub.s` (R159). -/
def execSubS (y : Ring) (d a b : Fin 32) (s : State) : Host.Outcome State Fault Refusal :=
  s.word (plainWord y (s.wordsOf (.subS y d a b))) fun s => s.alu d a b subSat

/-- `and` (R159). -/
def execAnd (y : Ring) (d a b : Fin 32) (s : State) : Host.Outcome State Fault Refusal :=
  s.word (plainWord y (s.wordsOf (.and y d a b))) fun s => s.alu d a b (fun a b => a &&& b)

/-- `or` (R159). -/
def execOr (y : Ring) (d a b : Fin 32) (s : State) : Host.Outcome State Fault Refusal :=
  s.word (plainWord y (s.wordsOf (.or y d a b))) fun s => s.alu d a b (fun a b => a ||| b)

/-- `xor` (R159). -/
def execXor (y : Ring) (d a b : Fin 32) (s : State) : Host.Outcome State Fault Refusal :=
  s.word (plainWord y (s.wordsOf (.xor y d a b))) fun s => s.alu d a b (fun a b => a ^^^ b)

/-- `shl` (R159). -/
def execShl (y : Ring) (d a b : Fin 32) (s : State) : Host.Outcome State Fault Refusal :=
  s.word (plainWord y (s.wordsOf (.shl y d a b))) fun s => s.alu d a b shlVal

/-- `shr` (R159). -/
def execShr (y : Ring) (d a b : Fin 32) (s : State) : Host.Outcome State Fault Refusal :=
  s.word (plainWord y (s.wordsOf (.shr y d a b))) fun s => s.alu d a b shrVal

/-- `sra` (R159). -/
def execSra (y : Ring) (d a b : Fin 32) (s : State) : Host.Outcome State Fault Refusal :=
  s.word (plainWord y (s.wordsOf (.sra y d a b))) fun s => s.alu d a b sraVal

/-- `mul` (R159). -/
def execMul (y : Ring) (d a b : Fin 32) (s : State) : Host.Outcome State Fault Refusal :=
  s.word (plainWord y (s.wordsOf (.mul y d a b))) fun s => s.alu d a b (fun a b => a * b)

/-- `mul.s` (R159). -/
def execMulS (y : Ring) (d a b : Fin 32) (s : State) : Host.Outcome State Fault Refusal :=
  s.word (plainWord y (s.wordsOf (.mulS y d a b))) fun s => s.alu d a b mulSat

/-- `mulh` (R159). -/
def execMulh (y : Ring) (d a b : Fin 32) (s : State) : Host.Outcome State Fault Refusal :=
  s.word (plainWord y (s.wordsOf (.mulh y d a b))) fun s => s.alu d a b mulhVal

/-- `mulhn` (R159). -/
def execMulhn (y : Ring) (d a b : Fin 32) (s : State) : Host.Outcome State Fault Refusal :=
  s.word (plainWord y (s.wordsOf (.mulhn y d a b))) fun s => s.alu d a b mulhnVal

/-- `div` (R159). -/
def execDiv (y : Ring) (d a b : Fin 32) (s : State) : Host.Outcome State Fault Refusal :=
  s.word (plainWord y (s.wordsOf (.div y d a b))) fun s => s.alu d a b divVal

/-- `divn` (R159). -/
def execDivn (y : Ring) (d a b : Fin 32) (s : State) : Host.Outcome State Fault Refusal :=
  s.word (plainWord y (s.wordsOf (.divn y d a b))) fun s => s.alu d a b divnVal

/-- `rem` (R159). -/
def execRem (y : Ring) (d a b : Fin 32) (s : State) : Host.Outcome State Fault Refusal :=
  s.word (plainWord y (s.wordsOf (.rem y d a b))) fun s => s.alu d a b remVal

/-- `remn` (R159). -/
def execRemn (y : Ring) (d a b : Fin 32) (s : State) : Host.Outcome State Fault Refusal :=
  s.word (plainWord y (s.wordsOf (.remn y d a b))) fun s => s.alu d a b remnVal

/-- `min` (R159). -/
def execMin (y : Ring) (d a b : Fin 32) (s : State) : Host.Outcome State Fault Refusal :=
  s.word (plainWord y (s.wordsOf (.min y d a b))) fun s => s.alu d a b minVal

/-- `max` (R159). -/
def execMax (y : Ring) (d a b : Fin 32) (s : State) : Host.Outcome State Fault Refusal :=
  s.word (plainWord y (s.wordsOf (.max y d a b))) fun s => s.alu d a b maxVal

/-- `minn` (R159). -/
def execMinn (y : Ring) (d a b : Fin 32) (s : State) : Host.Outcome State Fault Refusal :=
  s.word (plainWord y (s.wordsOf (.minn y d a b))) fun s => s.alu d a b minnVal

/-- `maxn` (R159). -/
def execMaxn (y : Ring) (d a b : Fin 32) (s : State) : Host.Outcome State Fault Refusal :=
  s.word (plainWord y (s.wordsOf (.maxn y d a b))) fun s => s.alu d a b maxnVal

/-- `clz` (R159). -/
def execClz (y : Ring) (d a : Fin 32) (s : State) : Host.Outcome State Fault Refusal :=
  s.word (plainWord y (s.wordsOf (.clz y d a))) fun s => s.alu1 d a clzVal

/-- `popc` (R159). -/
def execPopc (y : Ring) (d a : Fin 32) (s : State) : Host.Outcome State Fault Refusal :=
  s.word (plainWord y (s.wordsOf (.popc y d a))) fun s => s.alu1 d a popcVal

/-! ## Immediates (R160, R161) -/

/-- `addi` (R160). -/
def execAddi (y : Ring) (d a : Fin 32) (m : BitVec 12) (s : State) : Host.Outcome State Fault Refusal :=
  s.word (plainWord y (s.wordsOf (.addi y d a m))) fun s => s.alu1 d a fun a => a + m.signExtend 64

/-- `andi` (R160). -/
def execAndi (y : Ring) (d a : Fin 32) (m : BitVec 12) (s : State) : Host.Outcome State Fault Refusal :=
  s.word (plainWord y (s.wordsOf (.andi y d a m))) fun s => s.alu1 d a fun a => a &&& m.setWidth 64

/-- `ori` (R160). -/
def execOri (y : Ring) (d a : Fin 32) (m : BitVec 12) (s : State) : Host.Outcome State Fault Refusal :=
  s.word (plainWord y (s.wordsOf (.ori y d a m))) fun s => s.alu1 d a fun a => a ||| m.setWidth 64

/-- `xori` (R160). -/
def execXori (y : Ring) (d a : Fin 32) (m : BitVec 12) (s : State) : Host.Outcome State Fault Refusal :=
  s.word (plainWord y (s.wordsOf (.xori y d a m))) fun s => s.alu1 d a fun a => a ^^^ m.setWidth 64

/-- `shli` (R160). -/
def execShli (y : Ring) (d a : Fin 32) (m : Fin 64) (s : State) : Host.Outcome State Fault Refusal :=
  s.word (plainWord y (s.wordsOf (.shli y d a m))) fun s => s.alu1 d a fun a => shlVal a (BitVec.ofNat 64 m.val)

/-- `shri` (R160). -/
def execShri (y : Ring) (d a : Fin 32) (m : Fin 64) (s : State) : Host.Outcome State Fault Refusal :=
  s.word (plainWord y (s.wordsOf (.shri y d a m))) fun s => s.alu1 d a fun a => shrVal a (BitVec.ofNat 64 m.val)

/-- `srai` (R160). -/
def execSrai (y : Ring) (d a : Fin 32) (m : Fin 64) (s : State) : Host.Outcome State Fault Refusal :=
  s.word (plainWord y (s.wordsOf (.srai y d a m))) fun s => s.alu1 d a fun a => sraVal a (BitVec.ofNat 64 m.val)

/-- `li` (R161). -/
def execLi (y : Ring) (d : Fin 32) (m : BitVec 17) (s : State) : Host.Outcome State Fault Refusal :=
  s.word (plainWord y (s.wordsOf (.li y d m))) fun s => if s.busyD [d] then .hold s else .go (s.writeS d (m.signExtend 64))

/-- `lih` (R161). -/
def execLih (y : Ring) (d : Fin 32) (m : BitVec 16) (s : State) : Host.Outcome State Fault Refusal :=
  s.word (plainWord y (s.wordsOf (.lih y d m))) fun s => s.alu1 d d fun v => (v <<< 16) ||| m.setWidth 64

/-! ## Predicates (R162 to R164) -/

/-- `cmp` (R162). -/
def execCmp (y : Ring) (p : Fin 8) (a b : Fin 32) (c : Cond) (s : State) : Host.Outcome State Fault Refusal :=
  s.word (plainWord y (s.wordsOf (.cmp y p a b c))) fun s => s.test p a b (condHolds c)

/-- `cmpi` (R162). -/
def execCmpi (y : Ring) (p : Fin 8) (c : Cond) (a : Fin 32) (m : BitVec 10) (s : State) : Host.Outcome State Fault Refusal :=
  s.word (plainWord y (s.wordsOf (.cmpi y p c a m))) fun s => s.test p a 0 fun v _ => condHolds c v (m.signExtend 64)

/-- `pset` (R163). -/
def execPset (y : Ring) (p a b : Fin 8) (o : PsetOp) (s : State) : Host.Outcome State Fault Refusal :=
  s.word (plainWord y (s.wordsOf (.pset y p a b o))) fun s =>
    if s.busyP [p, a, b] then .hold s else .go (s.writeP p (psetVal o (s.readP a) (s.readP b)))

/-- `sel` (R164). -/
def execSel (y : Ring) (d a b : Fin 32) (p : Fin 8) (n : Bool) (s : State) : Host.Outcome State Fault Refusal :=
  s.word (plainWord y (s.wordsOf (.sel y d a b p n))) fun s =>
    if s.busyP [p] then .hold s else s.alu d a b fun v w => if s.readP p != n then v else w

/-! ## Fields (R165) -/

/-- `ext` (R165): the field w of the word is the width less 1 (R55). -/
def execExt (y : Ring) (d a : Fin 32) (p w : Fin 64) (s : State) : Host.Outcome State Fault Refusal :=
  s.word (plainWord y (s.wordsOf (.ext y d a p w))) fun s => s.alu1 d a fun v => extVal v p.val (w.val + 1)

/-- `ins` (R165): the field w of the word is the width less 1 (R55). -/
def execIns (y : Ring) (d a : Fin 32) (p w : Fin 64) (s : State) : Host.Outcome State Fault Refusal :=
  s.word (plainWord y (s.wordsOf (.ins y d a p w))) fun s => s.alu d d a fun v u => insVal v u p.val (w.val + 1)

end Sys2Proof.Machine
end

