-- ==== Sys2Proof/Machine/CtlFlow.lean ====
section
/-! DEFINITION. Calls, frames and tails of CTL (R111 to R116, R166 to R172), software traps, the return from a trap and the control registers
(R173, R175 to R177). -/

namespace Sys2Proof.Machine

/-! ## The window file (R111, R112) -/

/-- The frames whose cells are in the file, and the spilled ones; the spilled ones are the oldest (R112). -/
def Core.resident (k : Core) : List Frame := k.frames.filter fun f => f.spilled.isNone
def Core.away (k : Core) : List Frame := k.frames.filter fun f => f.spilled.isSome

/-- The allocation point (R112). -/
def Core.allocPoint (k : Core) : Fin 512 :=
  match k.resident with
  | [] => 0
  | f :: _ => f.base

/-- Cells free directly below the allocation point (R112). -/
def Core.freeCells (k : Core) : Nat :=
  match k.resident.getLast? with
  | none => 512
  | some f =>
    let span := (f.base.val + f.size + 512 - k.allocPoint.val) % 512
    512 - (if span = 0 then 512 else span)

/-- The frames of a list behind those of a trap handler, whose entry frame is its last (R175). -/
def pastHandler : List Frame → List Frame
  | [] => []
  | f :: r => if f.entry then r else pastHandler r

/-- The frame of a degraded tail, which c0 runs, or ran when the handler was entered (R115). -/
def Core.degradedFrame (k : Core) : Option Frame :=
  match (k.ctx.at 0).mode with
  | .degraded _ => (if k.mode == .handler then pastHandler (k.framesOf 0) else k.framesOf 0).head?
  | _ => none

/-- The frames that may not be spilled: those of running contexts and their callers, and tails' frames, of true and degraded ones (R112). -/
def Core.fixedFrame (k : Core) (f : Frame) : Bool :=
  f.owner != 0 || f.ended || k.degradedFrame == some f || ((k.framesOf 0).take 2).any fun g => g.base == f.base && g.spilled.isNone

/-- The cells of a frame. -/
def Core.frameCells (k : Core) (f : Frame) : List W64 := (List.range f.size).map fun i => k.cells.at (f.base + Fin.ofNat 512 i)

/-- Bytes of the spill region that the spilled frames take (R112). -/
def Core.spillUsed (k : Core) : Nat := (k.away.map fun f => (f.size + 2) * 8).sum

/-- Spills the oldest frame in the file, none where that frame may not be spilled or the region cannot hold it (R112). -/
def Core.spillOne (k : Core) : Option Core :=
  match k.resident.getLast? with
  | none => none
  | some f =>
    if k.fixedFrame f || k.aux.spill < k.spillUsed + (f.size + 2) * 8 then none
    else some { k with frames := k.resident.dropLast ++ ({ f with spilled := some (k.frameCells f) } :: k.away) }

/-- Makes n cells free below the allocation point; the first argument bounds the frames spilled (R112). -/
def Core.makeRoom : Nat → Core → Nat → Option Core
  | 0, k, n => if n ≤ k.freeCells then some k else none
  | m + 1, k, n =>
    if n ≤ k.freeCells then some k
    else match k.spillOne with
      | none => none
      | some k => Core.makeRoom m k n

/-- Cells of the file from a base on written with a list. -/
def Core.putCells (k : Core) (base : Fin 512) : List W64 → Core
  | [] => k
  | v :: r => (k.setCell base v).putCells (base + 1) r

/-- Fills a frame back, if it is spilled, into the cells from the base that its callee's hidden cells record (R112). -/
def Core.fillFrame (k : Core) (f : Frame) (base : Fin 512) : Core :=
  match f.spilled with
  | none => k
  | some l =>
    let k := k.putCells base l
    { k with frames := k.frames.map fun g => if g == f then { g with base := base, spilled := none } else g }

/-- The running frame of a context. -/
def Core.frameOf (k : Core) (x : Fin 4) : Option Frame := (k.framesOf x).head?

/-- The frame returned to and its caller are in the file (R112, R169): each is filled back to the base that its callee recorded. -/
def Core.fillCallers (k : Core) (base : Option (Fin 512)) : Core :=
  match k.framesOf 0 with
  | [] => k
  | g :: r =>
    let k := k.fillFrame g (base.getD g.base)
    match r with
    | [] => k
    | h :: _ => k.fillFrame h (g.caller.getD h.base)

/-- Frees the running frame of c0; the frame returned to and its caller are in the file afterwards (R112, R169). -/
def Core.popFrame (k : Core) : Core :=
  match k.frameOf 0 with
  | none => k
  | some f => Core.fillCallers { k with frames := k.frames.filter fun g => g != f } f.caller

/-- Sizes of frames (R55, R168). -/
def frameSize : FrameSize → Nat
  | .f8 => 8 | .f12 => 12 | .f16 => 16 | .f20 => 20 | .f24 => 24

/-! ## Accesses of a context (R104, R191) -/

/-- Accesses of a context that are not performed yet. -/
def Ctx.openLoads (c : Ctx) : List CtlLoad := c.loads.filter fun l => !l.gone
def Ctx.openStores (c : Ctx) : List CtlStore := c.stores.filter fun l => !l.gone

/-- Remote writes that the context's fences wait for: its own, for c0 those of ended tails (R104), and those of LD, ST and the engines. -/
def State.looseOut (s : State) (which : Req → Bool) : Bool :=
  let c := s.cur.core
  (s.dies.at (dieOf c)).reqs.any fun r => match r.loose with
    | none => false
    | some (d, q, x, _) =>
      d == c && (q != .ctl || (if s.me.goneItem x r.uid then s.cur.x == 0 else x == s.cur.x)) && which r

/-- Those of them whose token words satisfy a condition. -/
def State.remoteOut (s : State) (which : W64 → Bool) : Bool := s.looseOut fun r => which r.flit.h1

/-- Some access that the context has made is not performed yet. -/
def State.accessesOut (s : State) : Bool :=
  !s.myCtx.openLoads.isEmpty || !s.myCtx.openStores.isEmpty || s.remoteOut fun _ => true

/-! ## Meanings -/

/-- `pbrr` (R166). -/
def execPbrr (y : Ring) (b : Fin 4) (a : Fin 32) (s : State) : Host.Outcome State Fault Refusal :=
  s.word (plainWord y (s.wordsOf (.pbrr y b a))) fun s =>
    if s.busyS [a] then .hold s
    else .go (s.modMyFlow fun f => { f with bt := f.bt.put b ((s.readS a).setWidth 32 &&& 0xFFFFFFFC) })

/-- `call` (R167). -/
def execCall (y : Ring) (b : Fin 4) (s : State) : Host.Outcome State Fault Refusal :=
  s.word { plainWord y (s.wordsOf (.call y b)) with noTail := true } fun s =>
    if s.resPending then .hold s
    else
      let base := (s.me.frameOf s.cur.x).map (·.base)
      .jump (s.modMyCtx fun c => { c with link := some ⟨c.flow.pc + 4, base, false⟩ }) (s.myFlow.bt.at b)

/-- Some cell of a frame that leaves the file awaits a result: its spill waits for it, as a word that reads the register would. DESIGN CHOICE
(notes/assumptions/53.md). -/
def Core.spillAwaits (k k' : Core) : Bool :=
  (k.resident.filter fun f => !k'.resident.contains f).any fun f =>
    (List.range f.size).any fun i => k.pending.contains (.cell (f.base + Fin.ofNat 512 i))

/-- What a cell of a new frame may hold: 0, or what some cell of the file held in this tile run (R7, R168). -/
def Core.everHeld (k : Core) : List W64 := 0 :: k.cells.toList ++ k.aux.past

/-- Values for the cells of a new frame, each left open within that set. -/
def State.freshCells (s : State) (k : Core) (n : Nat) : List W64 × State :=
  ((List.range n).map fun i => k.everHeld.getD (Config.freeNat (s.draws + i) % k.everHeld.length) 0, { s with draws := s.draws + n })

/-- `enter` (R168). -/
def execEnter (y : Ring) (n : FrameSize) (s : State) : Host.Outcome State Fault Refusal :=
  s.word { plainWord y (s.wordsOf (.enter y n)) with isEnter := true } fun s =>
    match s.myCtx.link with
    | none => .trap cFRAME 2 0
    | some l =>
      let size := frameSize n
      match Core.makeRoom 512 s.me size with
      | none => .trap cSPILL 0 0
      | some k =>
        if s.me.spillAwaits k then .hold s
        else
          let base := k.allocPoint - Fin.ofNat 512 size
          let (ws, t) := (s.modMe fun _ => k).freshCells k size
          .go ((t.modMe fun k =>
            let k := (k.putCells base ws).noteRegion l.bytes
            { k with frames := ⟨base, size, l.retPc, l.base, s.cur.x, false, none, l.handler⟩ :: k.frames }).modMyCtx fun c =>
              { c with link := none })

/-- `ret` (R169, R116). -/
def execRet (y : Ring) (s : State) : Host.Outcome State Fault Refusal :=
  s.word (plainWord y (s.wordsOf (.ret y))) fun s =>
    match s.me.frameOf s.cur.x with
    | none => .trap cFRAME 3 0
    | some f =>
      if f.caller.isNone || s.me.isTail s.cur.x then .trap cFRAME 3 0
      else if s.me.mode == .handler then
        if s.resPending then .hold s else .jump (s.modMe Core.popFrame) f.retPc
      else s.join fun s => if s.resPending then .hold s else .jump (s.modMe Core.popFrame) f.retPc

/-- The lowest of c1 to c3 that does not exist (R114). -/
def Core.freeCtx (k : Core) : Option (Fin 4) := [1, 2, 3].find? fun x => !(k.ctx.at x).live

/-- Registers s1 to s7 of the context await a result. -/
def State.globPending (s : State) : Bool := s.busyS [1, 2, 3, 4, 5, 6, 7]

/-- `relc` (R170, R114, R115): the callee's accesses are performed first, so that they are ordered before what the resumed caller does
(R104). Where the caller's own caller is spilled it stays so until the next `ret` of c0; and the open segment of c0 goes on observing while a degraded
tail runs: DESIGN CHOICE, notes/assumptions/54.md and 55.md. -/
def execRelc (y : Ring) (s : State) : Host.Outcome State Fault Refusal :=
  s.word { plainWord y (s.wordsOf (.relc y)) with noTail := true, noHandler := true } fun s =>
    match s.me.frameOf s.cur.x with
    | none => .trap cFRAME 3 0
    | some f =>
      if f.caller.isNone then .trap cFRAME 3 0
      else if s.resPending || s.globPending || s.accessesOut then .hold s
      else
        let c := s.myCtx
        match s.me.freeCtx with
        | none =>
          .go (s.modMyCtx fun c => { c with mode := .degraded ⟨c.s, c.flow.p, c.flow.bt, c.flow.lc, c.flow.bound⟩ })
        | some t =>
          let flow : Flow := { Flow.reset with
            pc := c.flow.pc + 4, p := c.flow.p, bt := c.flow.bt, lc := c.flow.lc, bound := c.flow.bound, budget := c.flow.budget }
          .jump (s.modMe fun k =>
            { k.modCtx t fun o => { Ctx.reset with
                live := true, flow := flow, s := c.s, mode := .tail, loads := o.loads, stores := o.stores, born := s.nextUid } with
              frames := k.frames.map fun g => if g == f then { g with owner := t } else g }) f.retPc

/-- `tjoin` (R171, R116). -/
def execTjoin (y : Ring) (s : State) : Host.Outcome State Fault Refusal :=
  s.word (plainWord y (s.wordsOf (.tjoin y))) fun s => s.join fun s => .go s

/-- A pending load of a context that ends: it has no register any more. -/
def Dest.orphan : Dest → Dest
  | .glob _ _ => .none
  | d => d

/-- A true tail ends: its context ceases to exist, and its accesses go on by themselves (R172). -/
def Ctx.ended (c : Ctx) : Ctx :=
  let lo := c.loads.map fun l => { l with dest := l.dest.orphan, gone := true }
  let st := c.stores.map fun l => { l with gone := true }
  { c with live := false, mode := .no, loads := lo, stores := st }

/-- `tend` (R172, R115). At the end of a degraded tail a spilled caller of the resumed frame stays so until the next `ret` of c0, and c0's
open segment has observed the tail's words: DESIGN CHOICE, notes/assumptions/54.md and 55.md. -/
def execTend (y : Ring) (s : State) : Host.Outcome State Fault Refusal :=
  s.word (plainWord y (s.wordsOf (.tend y))) fun s =>
    let c := s.myCtx
    let f := s.me.frameOf s.cur.x
    if !s.me.isTail s.cur.x then .trap cFRAME 4 0
    else if s.resPending then .hold s
    else match c.mode with
    | .no => .trap cFRAME 4 0
    | .tail =>
      .go ((s.modMe fun k => { k with frames := k.frames.map fun g => if some g = f then { g with ended := true } else g }).modMyCtx
        Ctx.ended)
    | .degraded d =>
      if s.globPending then .hold s
      else
        .jump ((s.modMe fun k => { k with frames := k.frames.filter fun g => some g != f }).modMyCtx fun c =>
          { c with s := d.s, mode := .no, flow := { c.flow with p := d.p, bt := d.bt, lc := d.lc, bound := d.bound } })
          (match f with | some g => g.retPc | none => 0)

/-- `trap` (R173). -/
def execTrap (y : Ring) (n : BitVec 8) (s : State) : Host.Outcome State Fault Refusal :=
  s.word (plainWord y (s.wordsOf (.trap y n))) fun s => .deliver s cSOFTWARE n.toNat

/-- `brk` (R173). -/
def execBrk (y : Ring) (n : BitVec 8) (s : State) : Host.Outcome State Fault Refusal :=
  s.word (plainWord y (s.wordsOf (.brk y n))) fun s => .deliver s cBREAK n.toNat

/-- Every stall counter of the core becomes 0 (R175). -/
def Core.clearStalls (k : Core) : Core :=
  let z := fun (f : Flow) => { f with stall := 0 }
  [0, 1, 2, 3].foldl (fun k x => k.modFlow .ctl x z) (((k.modFlow .ld 0 z).modFlow .ex 0 z).modFlow .st 0 z)

/-- Handler mode ends (R120, R175): the hidden bank returns to c0, the trapping stream stands at `trap.resume`, every stream is released,
and EX's landing slots land. -/
def Core.leaveHandler (k : Core) (h : Handler) (ret : W32) : Core :=
  let resume := k.cr.trapResume
  let mine := h.q == .ctl && h.x == 0
  let at0 := if mine then resume else ret
  let k := k.popFrame.modCtx 0 fun c => { c with
    s := h.s, link := h.link, fix := if at0 == ret then h.fix else none, acc := if at0 == ret then h.acc else none,
    ties := if at0 == ret then h.ties else none,
    loads := c.loads.map fun l => { l with dest := l.dest.fromBank },
    res := c.res.map fun r => { r with d1 := r.d1.fromBank, d2 := r.d2.fromBank, banked := false },
    flow := { c.flow with p := h.p, pc := at0, posted := h.posted && at0 == ret, halted := h.halted, wait := none } }
  let k := if mine then k else k.modFlow h.q h.x fun f => { f with pc := resume, posted := f.posted && f.pc == resume }
  ({ k with mode := .running, hand := none }).clearStalls.resumeEx

/-- `rett` (R175): THE RETURN FROM A TRAP. -/
def execRett (y : Ring) (s : State) : Host.Outcome State Fault Refusal :=
  s.word (plainWord y (s.wordsOf (.rett y))) fun s =>
    match s.me.hand, s.me.frameOf 0 with
    | some h, some f =>
      if s.me.mode == .handler && s.cur.x == 0 && f.entry then .moved (s.modMe fun k => k.leaveHandler h f.retPc)
      else .trap cFRAME 5 0
    | _, _ => .trap cFRAME 5 0

/-- `mfc` (R176). -/
def execMfc (y : Ring) (d : Fin 32) (c : CReg) (s : State) : Host.Outcome State Fault Refusal :=
  s.word (plainWord y (s.wordsOf (.mfc y d c))) fun s => if s.busyD [d] then .hold s else .go (s.writeS d (s.readCr c))

/-- `mtc` (R176, R177). -/
def execMtc (y : Ring) (a : Fin 32) (c : CReg) (s : State) : Host.Outcome State Fault Refusal :=
  s.word (plainWord y (s.wordsOf (.mtc y a c))) fun s =>
    if s.busyS [a] then .hold s else .go (s.modMe fun k => k.writeCr c (s.readS a))

end Sys2Proof.Machine
end

