-- ==== Sys2Proof/Machine/Overlap.lean ====
section
/-! DEFINITION. Which bytes accesses and commands touch, and what the order among a sequencer's own accesses and commands asks for (R92 to
R94); when a command may start (R20, R206, R283, R312). -/

namespace Sys2Proof.Machine

/-! ## Operands of commands (R222 to R224, R282, R285, R287, R313) -/

/-- Fields of the shape of a copy (R223). -/
def shapeRows (v : W64) : Nat := bitsOf v.toNat 20 12 + 1
def shapeLen (v : W64) : Nat := bitsOf v.toNat 0 20
def shapePitch (v : W64) : Nat := bitsOf v.toNat 32 32

/-- The memory offset and the local address of every byte of a copy (R223). -/
def copyBytes (off loc shape : W64) (f : Nat) : List (Nat × Nat) :=
  let len := shapeLen shape
  let sp := if f = 0 then len else 16 * f
  (List.range (shapeRows shape)).flatMap fun j => (List.range len).map fun b =>
    ((off.toNat + j * shapePitch shape + b) % 2 ^ 64, (loc.toNat + j * sp + b) % 2 ^ 32)

/-- The byte count of `fput` and `fget`. -/
def moveCount (n : W64) : Nat := bitsOf n.toNat 0 31

/-- Memory offsets and local addresses of a move. -/
def moveOffs (off : W64) (n : Nat) : List Nat := (List.range n).map fun b => (off.toNat + b) % 2 ^ 64
def moveLocs (loc : W64) (n : Nat) : List Nat := (List.range n).map fun i => (bitsOf loc.toNat 0 32 + i) % 2 ^ 32

/-- Source fields of the first register of the pair (R282). -/
def srcAddr (v : W64) : Nat := bitsOf v.toNat 0 32
def srcCount (v : W64) : Nat := bitsOf v.toNat 32 24

/-- Record size of a type: a block record for MXINT, else the element (R285). -/
def recSize : Ty → Nat
  | .mx8 | .mx6 => 64
  | .mx4 => 32
  | t => tyBits t / 8

/-- The type is an MXINT type. -/
def isMx : Ty → Bool
  | .mx8 | .mx6 | .mx4 => true
  | _ => false

/-- Source elements (records for MXINT) and destination elements (likewise) of e elements. -/
def srcItems (t : Ty) (e : Nat) : Nat := if isMx t then e / 32 else e

/-- The count of a reduction, rounded down to blocks where a type is MXINT (R287). -/
def redCount (t u : Ty) (src : W64) : Nat := if isMx t || isMx u then srcCount src / 32 * 32 else srcCount src

/-- Index bytes of a list, as numbers. -/
def indexList (iw : Nat) : Nat → List Byte → List Nat
  | 0, _ => []
  | n + 1, b => natOfBytes (b.take iw) :: indexList iw n (b.drop iw)

/-- The offsets that the elements of a gather reach, none for an element that holds zero (R224). -/
def gatherOffs (off esz : Nat) (idx : List (Option Nat)) : List (Option (List Nat)) :=
  idx.map fun v => v.map fun i => (List.range esz).map fun t => (off + i * esz + t) % 2 ^ 64

/-- The indices that a gather has read, as `opA` keeps them: five bytes each, 2^39 for an element that holds zero. -/
def readIndices (n : Nat) (opA : List Byte) : List (Option Nat) := (indexList 5 n opA).map fun v => if v = 2 ^ 39 then none else some v

/-- Local addresses of the elements and of the index list of a gather (R224). -/
def gatherElems (loc : W64) (n : Nat) : List Nat := (List.range n).map fun i => (loc.toNat % 2 ^ 32 + i) % 2 ^ 32
def gatherIndex (loc : W64) (n : Nat) : List Nat := (List.range n).map fun i => (bitsOf loc.toNat 32 32 + i) % 2 ^ 32

/-- What a command has still to read: offsets of a token, addresses of local space. -/
structure Reads where
  tok : W64
  mem : List Nat
  loc : List Nat

/-- The bytes of an extent of a token, where a command may read any of them. -/
def wholeToken (t : W64) : List Nat := List.range (tokLen t)

/-- What a command has still to read at its stage (R94). An `xall` reads its source once its parties agree. -/
def Cmd.reads (d : Cmd) : Reads :=
  let src := fun (v : W64) (n : Nat) => if d.stage = 0 then moveLocs v n else []
  match d.body with
  | .copy toMem tok off loc shape f =>
    let l := if d.stage = 0 then copyBytes off loc shape f else []
    if toMem then ⟨tok, [], l.map (·.2)⟩ else ⟨tok, l.map (·.1), []⟩
  | .gather toMem tok off loc count wide esz =>
    let n := bitsOf count.toNat 0 24 / esz
    let ix := if d.stage = 0 then gatherIndex loc (n * if wide then 4 else 2) else []
    if 2 ≤ d.stage then ⟨tok, [], []⟩
    else if toMem then ⟨tok, [], ix ++ gatherElems loc (n * esz)⟩
    else if d.stage = 0 then ⟨tok, wholeToken tok, ix⟩
    else ⟨tok, (gatherOffs off.toNat esz (readIndices n d.opA)).flatMap (·.getD []), []⟩
  | .bank o t _ tok off a v =>
    let e := srcCount a
    let b := if o = .rq then (if v.toNat % 2 = 0 then 4 else 2) else tyBits t / 8
    ⟨tok, if o = .rq || 2 ≤ d.stage then [] else offs (alignTo (recSize t) off.toNat) (e * recSize t), src a (e * b)⟩
  | .reduce t u tok _ a _ => ⟨tok, [], src a (srcItems t (redCount t u a) * recSize t)⟩
  | .fred t u tok _ a _ => ⟨tok, [], src a (srcItems t (redCount t u a) * recSize t)⟩
  | .fput tok _ loc n => ⟨tok, [], src loc (moveCount n)⟩
  | .fget tok off _ n => ⟨tok, if d.stage = 0 then moveOffs off (moveCount n) else [], []⟩
  | .famo _ _ wide tok off _ _ => ⟨tok, offs (alignTo (if wide then 8 else 4) off.toNat) (if wide then 8 else 4), []⟩
  | .xall _ _ t loc _ _ => ⟨t, if d.stage = 3 then wholeToken t else [], src loc 32⟩
  | _ => ⟨0, [], []⟩

/-! ## Starting (R20, R206, R283, R312) -/

/-- Commands of an engine that a core has issued and that have not completed, in the order issued. -/
def State.engineCmds (s : State) (c : CoreId) (engine : Nat) : List Cmd :=
  (if engine = 8 then s.fabCmds c else (s.core c).cmds).filter fun d => d.body.engine == engine

/-- Commands that may run at once. -/
def engineWidth (engine : Nat) : Nat := if engine = 7 then 2 else if engine = 8 then 8 else 4

/-- The queue a command stands in, in its order. -/
def State.queueOfCmd (s : State) (d : Cmd) : List Cmd :=
  if d.body.engine = 8 then (s.dies.at (dieOf d.core)).fabQ else s.engineCmds d.core d.body.engine

/-- The group of an `xall` or `fred` (R312). -/
def CmdBody.collective : CmdBody → Option (Fin 64)
  | .xall _ _ _ _ _ g => some g
  | .fred _ _ _ _ _ g => some g
  | _ => none

/-- A command's generation is older than its core's (R21). -/
def State.isOlder (s : State) (d : Cmd) : Bool :=
  let n := ((s.core d.core).cr.genno - d.gen).toNat
  1 ≤ n && n ≤ 32767

/-- A command that a forced pre-emption never starts: its core is held, its tile run has not ended, and its generation is not older than the
core's (R21, R341). -/
def State.heldBack (s : State) (d : Cmd) : Bool :=
  let k := s.core d.core
  k.aux.hold && k.mode != .ended && !d.started && !s.isOlder d

/-- A command may start now: those before it in its queue have started, its waits are complete, and its engine has room; an `xall` or
`fred` waits for the previous one on its group. One that a forced pre-emption holds back neither starts nor keeps others from it. -/
def State.mayStart (s : State) (d : Cmd) : Bool :=
  let q := s.queueOfCmd d
  let before := (q.takeWhile fun e => e.uid != d.uid).filter fun e => !s.heldBack e
  !d.started && !s.heldBack d && before.all (·.started) && (s.core d.core).waitsDone d.waits &&
  decide ((q.filter (·.started)).length < engineWidth d.body.engine) &&
  (d.body.collective.isNone || before.all fun e => e.body.collective != d.body.collective)

/-! ## Overlapping accesses (R92, R93) -/

/-- Where the bytes of an access through a token lie: at places known to the package, in memory of another package, or not known. -/
inductive Places where
  | inside (keys : List Nat)
  | away (die : Fin 64)
  | unknown

/-- The places of offsets of a token (notes/assumptions/19.md). Bytes past the extent have none. -/
def State.placesOf (s : State) (c : CoreId) (tok : W64) (os : List Nat) : Places :=
  let r := (s.core c).cr
  let of := fun (p : PinRuns) =>
    Places.inside (os.filterMap fun o => if o < min p.len (tokLen tok) then (locate p.runs o).map (·.1) else none)
  if tokRemote tok then
    match s.hub.fab.dieOf (tokDie tok).val with
    | none => .away (tokDie tok)
    | some d =>
      match (s.dies.at d).pins.find? fun p => p.src == some (s.hub.fab.dieAddr (dieOf c)) && p.asid == r.asid && p.index.toNat == tokIndex tok &&
          p.gen.toNat == tokGen tok with
      | none => .unknown
      | some p => of p
  else match s.storedPin c r.pinBase (tokIndex tok) (tokGen tok) with
    | none => .unknown
    | some p => of p

/-- Two lists of places may share a byte. -/
def Places.meet : Places → Places → Bool
  | .inside a, .inside b => a.any b.contains
  | .away a, .away b => a == b
  | .inside a, .away _ | .away _, .inside a => a.any atPeer
  | _, _ => true

/-- Two accesses of a core may overlap (R92): through one token by their offsets, otherwise by their places. -/
def State.mayOverlap (s : State) (c : CoreId) (t1 : W64) (os1 : List Nat) (t2 : W64) (os2 : List Nat) : Bool :=
  if os1.isEmpty || os2.isEmpty then false
  else if tokIndex t1 == tokIndex t2 && tokGen t1 == tokGen t2 then os1.any os2.contains
  else (s.placesOf c t1 os1).meet (s.placesOf c t2 os2)

/-- The token, as far as it names bytes, and the offsets of a request through a remote token. -/
def Req.token (r : Req) : W64 := mkToken (2 ^ 30) r.dst.val true false true false (r.flit.tgt 10 12) (r.flit.tgt 0 10)
def Req.offs (r : Req) : List Nat := Machine.offs (r.flit.tgt 22 31) r.flit.data.length

/-- A remote write of a core has left for bytes that a later access touches, and is not answered yet. The access waits for the answer, so that
it sees the write wherever R92 or R93 asks for it; DESIGN CHOICE (notes/assumptions/60.md). -/
def State.afterRemote (s : State) (c : CoreId) (uid : Nat) (tok : W64) (os : List Nat) : Bool :=
  (s.dies.at (dieOf c)).reqs.any fun r => (match r.loose with | some (d, _) => d == c | none => false) &&
    decide (r.uid < uid) && r.answer.isNone && s.mayOverlap c tok os r.token r.offs

/-- An earlier command of a sequencer, or of a context of CTL, that runs or could start has still to read bytes that a later write of it
touches, through a token or in local space: the write waits, since the command sees nothing issued later (R94). -/
def State.readFirst (s : State) (c : CoreId) (q : Seq) (x : Fin 4) (uid : Nat) (tok : W64) (os locs : List Nat) : Bool :=
  (s.allCmds c).any fun d => decide (d.uid < uid) && d.q == q && d.x == x && (d.started || s.mayStart d) &&
    (s.mayOverlap c tok os d.reads.tok d.reads.mem || locs.any d.reads.loc.contains)

end Sys2Proof.Machine
end

