-- ==== Sys2Proof/Machine/CtlMem.lean ====
section
/-! DEFINITION. Translation, scalar memory, synchronisation and queue words of CTL, and the steps that complete them (R132, R133, R174, R179 to
R197). -/

namespace Sys2Proof.Machine

/-! ## Translation (R132, R133, R180, R181) -/

/-- The fabric reach of a partition (R311). -/
def State.fabReach (s : State) (p : Fin 16) (die : Fin 64) : Bool :=
  let own := match s.hub.parts.at p with
    | none => false
    | some t => (List.finRange 4).any fun d => s.hub.fab.dieAddr d == die && bitsOf t.clusters.toNat (4 * d.val) 4 != 0
  own || (List.finRange 64).any fun g => match s.hub.fab.groups.at g with
    | some r => r.owner == p && r.parties.contains die
    | none => false

/-- The die exists in the fabric (R295). -/
def Fabric.exists? (f : Fabric) (die : Fin 64) : Bool := decide (die.val < f.size)

/-- Sets `xlat.fva`. -/
def State.setFva (s : State) (c : CoreId) (v : Nat) : State :=
  s.modCore c fun k => k.modCr fun r => { r with xlatFva := BitVec.ofNat 64 v }

/-- The operands name a legal extent (R180). -/
def extentOk (base len : Nat) : Bool := decide (base < 2 ^ 57) && decide (1 ≤ len) && decide (len ≤ 2 ^ 30) && decide (base + len ≤ 2 ^ 57)

/-- The ring field of an `xlat` acts at its first issue, once (R41); the context then waits for it. -/
def State.xlatIssue (s : State) (y : Ring) (p : PendXlat) : Act :=
  .moved (s.hadSlot.modMe fun k =>
    let k := if (k.flow s.cur.q s.cur.x).posted then k else (k.takeRing s.cur.q y).postRing s.cur.q y
    k.modCtx s.cur.x fun c =>
      { c with xl := some p, flow := { c.flow with posted := true, stall := 0, wait := none } })

/-- The issue of `xlat` and `xlat.r`: the operand checks, the target, the test of the pin table (R132, R180, R181). -/
def State.xlatBody (s : State) (y : Ring) (ws : List Nat) (t : Fin 16) (a b : Fin 32) (r w : Bool) (die : Option (Fin 64)) : Act :=
  let base := (s.readS a).toNat
  let len := (s.readS b).toNat
  let die := if die = some (s.hub.fab.dieAddr (dieOf s.cur.core)) then none else die
  let bad := s.setFva s.cur.core base
  let reach := match die with
    | none => true
    | some d => s.hub.fab.exists? d && (match s.partOf s.cur.core with | some p => s.fabReach p d | none => false)
  if !extentOk base len then .trapIn bad cPERM 0 0
  else if !reach then .trapIn bad cRANGE 0 0
  else if (s.freePin s.me.cr.pinBase).isNone then .trapIn bad cFRAGMENT 0 0
  else s.xlatIssue y ⟨t, base, len, r, w, die, s.myFlow.pc, none, none, false, ws, false⟩

/-- `xlat` (R180). -/
def execXlat (y : Ring) (t : Fin 16) (a b : Fin 32) (r w : Bool) (s : State) : Host.Outcome State Fault Refusal :=
  let ws := s.wordsOf (.xlat y t a b r w)
  s.word { plainWord y ws with isXlat := true } fun s =>
    if s.busyS [a, b] then .hold s else s.xlatBody y ws t a b r w none

/-- `xlat.r` (R181). -/
def execXlatR (y : Ring) (t : Fin 16) (a b : Fin 32) (r w : Bool) (c : Fin 32) (s : State) : Host.Outcome State Fault Refusal :=
  let ws := s.wordsOf (.xlatR y t a b r w c)
  s.word { plainWord y ws with isXlat := true } fun s =>
    if s.busyS [a, b, c] then .hold s
    else s.xlatBody y ws t a b r w (some (Fin.ofNat 64 (s.readS c).toNat))

/-- A trap waits for the last outstanding `xlat` of its core no more (R120). -/
def State.resumeTrap (s : State) (c : CoreId) : State :=
  match (s.core c).aux.trap with
  | none => s
  | some t => if (s.core c).xlatOutstanding t then s else s.enterTrap c t

/-- An `xlat` fails (R132): it traps, or, while the core stops at another trap or cancels a phase, has no effect and issues again later
(R120, R209). -/
def State.xlatFail (s : State) (c : CoreId) (x : Fin 4) (p : PendXlat) (cause : BitVec 8) (item fva : Nat) : State :=
  let s := s.modCore c fun k => k.modCtx x fun d => { d with xl := none }
  if (s.core c).aux.trap.isSome || (s.core c).mode == .cancelled then s.resumeTrap c
  else (s.setFva c fva).takeTrap c ⟨cause, .ctl, x, p.pc, p.pc, trapInfo .ctl x 0 item⟩

/-- An `xlat` ends with a token: its register is written, and the word has issued (R132, R179). -/
def State.xlatDone (s : State) (c : CoreId) (x : Fin 4) (p : PendXlat) (tok : W64) : State :=
  let s := s.modCore c fun k => (k.writeK p.t tok).modCtx x fun d => { d with xl := none }
  let cur := s.cur
  let u : State := { s with cur := ⟨c, .ctl, x⟩ }
  let s : State := { u.issued (plainWord ⟨false, false, false, false⟩ p.words) (p.pc + 4) with cur := cur }
  s.resumeTrap c

/-- Takes the pin entry of an extent and gives its token (R132, R134). -/
def State.xlatPin (s : State) (c : CoreId) (x : Fin 4) (p : PendXlat) (part : Fin 16) (die : Fin 64) (store : State → BitVec 10 → BitVec 12 → State) :
    State :=
  let k := s.core c
  match s.freePin k.cr.pinBase with
  | none => s.xlatFail c x p cFRAGMENT 0 p.base
  | some i =>
    let remote := p.die.isSome
    let (g, s) := s.takePin k.cr.pinBase i p.base p.len k.cr.asid p.r p.w remote die.val
    let s := store s (BitVec.ofNat 10 i) (BitVec.ofNat 12 g)
    let watch := match s.hub.parts.at part with | some t => t.watch | none => false
    s.xlatDone c x p (mkToken p.len die.val remote p.r p.w watch g i)

/-- A forced pre-emption abandons an `xlat` that waits for a page or a revocation; it issues again after the restore (R341). -/
def State.abandonXlat (s : State) (c : CoreId) (x : Fin 4) : State :=
  (s.modCore c fun k => k.modCtx x fun d => { d with xl := none }).resumeTrap c

/-- A walk of a pending `xlat` meets an absent page (R133, R356). -/
def State.xlatAbsent (s : State) (c : CoreId) (x : Fin 4) (p : PendXlat) (part : Fin 16) (va : Nat) : State :=
  if (s.core c).aux.hold then s.abandonXlat c x
  else if !s.hasRing part then s.xlatFail c x p cREFUSED 0 va
  else
    let (id, s) := s.reqPage part (some (c, x)) none (s.core c).cr.asid va p.w p.die.isSome
    (s.modCore c fun k => k.modCtx x fun d => { d with xl := some { p with req := some id } }).flushPreqs part

/-- A walk by an ingress MMU, which keeps no walk cache (R138). -/
def State.walkIngress (s : State) (w : Walker) (base len : Nat) : Extent × State :=
  let tus := s.tus
  let (e, s) := State.walkExtent { s with tus := File.all 16 Tu.reset } 0 w base len
  (e, { s with tus := tus })

/-- A and D through an ingress MMU. -/
def State.markIngress (s : State) (w : Bool) (ls : List Leaf) : State :=
  let tus := s.tus
  { State.markLeaves { s with tus := File.all 16 Tu.reset } 0 w ls with tus := tus }

/-- An `xlat.r` to a die outside the package: what the other package answers is left open, also that it waits on a page request at its host, while
which the core's stall counters pause (R138, notes/assumptions/29.md). An outstanding REVOKE holds it (R139). -/
def State.xlatAway (s : State) (c : CoreId) (x : Fin 4) (p : PendXlat) (part : Fin 16) (die : Fin 64) : State :=
  let (n, s) := s.freeNat
  let (m, s) := s.freeNat
  let va := p.base + m % p.len
  let page := va - va % 4096
  let away := fun (b : Bool) => s.modCore c fun k => k.modCtx x fun d => { d with xl := some { p with away := b } }
  if s.revoked (s.core c).cr.asid p.base p.len then (if (s.core c).aux.hold then s.abandonXlat c x else away false)
  else if (s.core c).aux.hold && p.away then s.abandonXlat c x
  else match n % 8 with
  | 0 => s.xlatPin c x p part die fun s _ _ => s
  | 1 => s.xlatFail c x p cPERM 0 page
  | 2 => s.xlatFail c x p cRESERVED (n / 7 % 5) page
  | 3 => s.xlatFail c x p cRANGE 0 page
  | 4 => s.xlatFail c x p cFRAGMENT 0 page
  | 5 => s.xlatFail c x p cREFUSED 0 page
  | 6 => away true
  | _ => s

/-- `XLAT_WALK_COMPLETE` (R132, R133, R139, R357): the walk of a context's `xlat` ends, waits for a page, or holds at a revocation. -/
def execXlatWalkComplete (c : CoreId) (x : Fin 4) (s : State) : Host.Outcome State Fault Refusal :=
  let k := s.core c
  match (k.ctx.at x).xl, s.partOf c with
  | some p, some part =>
    if p.req.isSome then .next s
    else if p.refused then .next (s.xlatFail c x p cREFUSED 0 (p.bypass.getD 0 * 4096))
    else
      let w : Walker := ⟨part, k.cr.asid, p.w, false, p.bypass.toList⟩
      match p.die.map fun d => (d, s.hub.fab.dieOf d.val) with
      | some (d, none) => .next (s.xlatAway c x p part d)
      | far =>
        let (e, s) := match far with
          | some _ => s.walkIngress w p.base p.len
          | none => s.walkExtent (tuOf c) w p.base p.len
        .next <| match e with
        | .absent va => s.xlatAbsent c x p part va
        | .fail cause level va => s.xlatFail c x p cause (if cause = cRESERVED then level else 0) va
        | .ok runs ls =>
          if s.revoked k.cr.asid p.base p.len then (if k.aux.hold then s.abandonXlat c x else s)
          else match far with
          | some (d, some die) =>
            let src := s.hub.fab.dieAddr (dieOf c)
            s.xlatPin c x p part d fun s i g =>
              let r : PinRuns := ⟨k.cr.pinBase, k.cr.asid, i, g, some src, 1, p.base, p.len, runs⟩
              (s.markIngress p.w ls).modDie die fun e => { e with pins := ingressStore e.pins r }
          | _ =>
            s.xlatPin c x p part 0 fun s i g =>
              let r : PinRuns := ⟨k.cr.pinBase, k.cr.asid, i, g, none, 1, p.base, p.len, runs⟩
              (s.markLeaves (tuOf c) p.w ls).storePin (tuOf c) r
  | _, _ => .next s

/-! ## xrel, xinfo, bind (R182 to R185) -/

/-- A token names its entry as it stands (R182, R183). -/
def State.currentTok (s : State) (base : BitVec 52) (t : W64) : Bool :=
  tokValid t && !tokRsv t && s.pinState base (tokIndex t) != 0 && s.pinGen base (tokIndex t) == tokGen t

/-- The bindings of token registers that hold an index are cleared (R182). -/
def Core.clearBinds (k : Core) (i : Nat) : Core :=
  { k with binds := Vector.ofFn fun n => if tokIndex (k.k.at n) == i then none else k.binds.at n }

/-- `xrel` (R182, R143). An entry that is FROZEN, here or in its ingress copy, becomes FREE at once. -/
def execXrel (y : Ring) (t : Fin 16) (s : State) : Host.Outcome State Fault Refusal :=
  s.word (plainWord y (s.wordsOf (.xrel y t))) fun s =>
    let tok := s.readK t
    let base := s.me.cr.pinBase
    let i := tokIndex tok
    if !s.currentTok base tok then .go s
    else if !s.frozenTok s.me tok &&
        (s.myCtx.openLoads.any (fun l => tokIndex l.tok == i) || s.myCtx.openStores.any fun l => tokIndex l.tok == i) then .hold s
    else
      let asid := s.me.cr.asid
      let src := s.hub.fab.dieAddr (dieOf s.cur.core)
      let u := s.setPinState base i 0
      let dropTu := fun (v : Tu) => { v with pins := v.pins.filter fun p => !(p.base == base && p.index.toNat == i) }
      let dropDie := fun (e : Die) => { e with pins := e.pins.filter fun p => !(p.src == some src && p.asid == asid && p.index.toNat == i) }
      let u : State := { u with tus := u.tus.map dropTu }
      let u := match tokRemote tok, u.hub.fab.dieOf (tokDie tok).val with
        | true, some d => u.modDie d dropDie
        | _, _ => u
      .go (u.modMe fun k => k.clearBinds i)

/-- What `xinfo` reports (R183). -/
def State.info (s : State) (tok : W64) (m : Nat) : W64 :=
  let base := s.me.cr.pinBase
  let i := tokIndex tok
  let cur := s.currentTok base tok
  match m with
  | 0 => if cur then BitVec.ofNat 64 (min (s.pinState base i) 4) else 8
  | 1 => BitVec.ofNat 64 (tokLen tok)
  | 2 => if cur then BitVec.ofNat 64 (s.pinVa base i) else 0
  | 3 =>
    if cur && !tokRemote tok then
      match (s.tus.at (tuOf s.cur.core)).pins.find? fun p => p.base == base && p.index.toNat == i && p.src.isNone with
      | some p => BitVec.ofNat 64 p.runs.length
      | none => 0
    else 0
  | 4 => BitVec.ofNat 64 ((tokRd tok).toNat + 2 * (tokWr tok).toNat + 4 * (tokRemote tok).toNat + 8 * (tokWatch tok).toNat +
      16 * (tokDie tok).val)
  | 5 => BitVec.ofNat 64 (s.pinGen base i)
  | _ => tok

/-- `xinfo` (R183). -/
def execXinfo (y : Ring) (d : Fin 32) (t : Fin 16) (m : Fin 8) (s : State) : Host.Outcome State Fault Refusal :=
  s.word (plainWord y (s.wordsOf (.xinfo y d t m))) fun s =>
    if m.val = 7 then (if s.busyS [d] then .hold s else .go (s.writeK t (s.readS d)))
    else if s.busyD [d] then .hold s else .go (s.writeS d (s.info (s.readK t) m.val))

/-- `bind` (R185). -/
def execBind (y : Ring) (t k : Fin 16) (x v : Fin 32) (s : State) : Host.Outcome State Fault Refusal :=
  s.word (plainWord y (s.wordsOf (.bind y t k x v))) fun s =>
    if s.busyS [x] then .hold s
    else
      let off := alignTo 8 (ctlOffset (s.readS x) (8 * v.val))
      let b : Binding := ⟨BitVec.ofNat 10 (tokIndex (s.readK t)), s.readK k, BitVec.ofNat 64 off⟩
      .go (s.modMe fun c => { c with binds := c.binds.put t (some b) })

/-- `unbind` (R185). -/
def execUnbind (y : Ring) (t : Fin 16) (s : State) : Host.Outcome State Fault Refusal :=
  s.word (plainWord y (s.wordsOf (.unbind y t))) fun s => .go (s.modMe fun c => { c with binds := c.binds.put t none })

/-! ## Scalar accesses (R186 to R189, R92) -/

/-- The context may have another load, or store, outstanding (R187). -/
def Ctx.loadRoom (c : Ctx) : Bool := decide (c.openLoads.length < 8)
def Ctx.storeRoom (c : Ctx) : Bool := decide (c.openStores.length < 16)

/-- A load or atomic issues (R187, R188): an earlier load of the same register writes it no more. -/
def State.issueLoad (s : State) (d : Fin 32) (k : Fin 16) (off size : Nat) (op : LoadOp) : Act :=
  if !s.myCtx.loadRoom then .hold s
  else
    let (uid, s) := s.uid
    let l : CtlLoad := ⟨uid, s.myFlow.pc, s.me.destOf s.cur.x d, s.readK k, off, size, op, false⟩
    .go ((s.modMe fun k => k.supersede l.dest).modMyCtx fun c => { c with loads := c.loads ++ [l] })

/-- `lds` (R186, R187). -/
def execLds (y : Ring) (d : Fin 32) (k : Fin 16) (x : Fin 32) (z : Size) (v : Fin 32) (s : State) : Host.Outcome State Fault Refusal :=
  s.word (plainWord y (s.wordsOf (.lds y d k x z v))) fun s =>
    if s.busyS [x] || s.busyD [d] then .hold s
    else s.issueLoad d k (ctlOffset (s.readS x) (v.val * sizeBytes z)) (sizeBytes z) (.load (sizeSigned z))

/-- `sts` (R186, R187). -/
def execSts (y : Ring) (d : Fin 32) (k : Fin 16) (x : Fin 32) (z : Size) (v : Fin 32) (s : State) : Host.Outcome State Fault Refusal :=
  s.word (plainWord y (s.wordsOf (.sts y d k x z v))) fun s =>
    if s.busyS [d, x] || !s.myCtx.storeRoom then .hold s
    else
      let (uid, s) := s.uid
      let st : CtlStore :=
        ⟨uid, s.myFlow.pc, s.readK k, ctlOffset (s.readS x) (v.val * sizeBytes z), sizeBytes z, s.readS d, false⟩
      .go (s.modMyCtx fun c => { c with stores := c.stores ++ [st] })

/-- `amo` (R188). -/
def execAmo (y : Ring) (d : Fin 32) (k : Fin 16) (x : Fin 32) (z : Size) (v b : Fin 32) (o : AmoOp) (c : Scope) (s : State) :
    Host.Outcome State Fault Refusal :=
  s.word (plainWord y (s.wordsOf (.amo y d k x z v b o c))) fun s =>
    if s.busyS [x, b] || s.busyD [d] then .hold s
    else s.issueLoad d k (alignTo (sizeBytes z) (ctlOffset (s.readS x) (v.val * sizeBytes z))) (sizeBytes z) (.amo o (s.readS b) c)

/-- `cas` (R188). -/
def execCas (y : Ring) (d : Fin 32) (k : Fin 16) (x : Fin 32) (z : Size) (v b n : Fin 32) (c : Scope) (s : State) :
    Host.Outcome State Fault Refusal :=
  s.word (plainWord y (s.wordsOf (.cas y d k x z v b n c))) fun s =>
    if s.busyS [x, b, n] || s.busyD [d] then .hold s
    else s.issueLoad d k (alignTo (sizeBytes z) (ctlOffset (s.readS x) (v.val * sizeBytes z))) (sizeBytes z)
      (.cas (s.readS b) (s.readS n) c)

/-- The value an atomic writes (R188). -/
def amoNew (o : AmoOp) (w b old : Nat) : Nat :=
  match o with
  | .add => (old + b) % 2 ^ w
  | .min => intMinMax w true false old b
  | .max => intMinMax w true true old b
  | .minn => intMinMax w false false old b
  | .maxn => intMinMax w false true old b
  | .and => (old &&& b) % 2 ^ w
  | .or => (old ||| b) % 2 ^ w
  | .xor => (old ^^^ b) % 2 ^ w
  | .swap => b % 2 ^ w

/-- What `cas` writes, none where the comparison fails (R188). -/
def casNew (w b n old : Nat) : Option Nat := if old % 2 ^ w = b % 2 ^ w then some (n % 2 ^ w) else none

/-- An access that writes. -/
def LoadOp.writes : LoadOp → Bool
  | .load _ => false
  | _ => true

/-- An access of a context waits for an earlier one of it to overlapping bytes that is not performed yet (R92), for an earlier remote write of
the core to them (R92, R93), and, where it writes, for an earlier command of the context that has still to read them (R94). -/
def State.mustWait (s : State) (c : CoreId) (x : Fin 4) (uid : Nat) (gone : Bool) (tok : W64) (off size : Nat) (writes : Bool) : Bool :=
  let d := (s.core c).ctx.at x
  let os := offs off size
  (d.loads.any fun l => l.uid < uid && l.gone == gone && s.mayOverlap c tok os l.tok (offs l.off l.size)) ||
  (d.stores.any fun l => l.uid < uid && l.gone == gone && s.mayOverlap c tok os l.tok (offs l.off l.size)) ||
  s.afterRemote c uid tok os || (writes && s.readFirst c .ctl x uid tok os [])

/-- How a scalar access falls into parts: a naturally aligned one is whole, another is performed byte by byte (R99). -/
def scalarGrain (off size : Nat) : Grain := if off % size = 0 then .whole else .bytes

/-- Operands of an atomic as they travel: the first and, for `cas`, the second. -/
def operandBytes (n : Nat) (l : List W64) : List Byte := l.flatMap fun v => bytesOfNat n v.toNat

/-- The access of a pending load or atomic (R186, R188); `u` names one of the parts that are left, none all of them. -/
def State.loadAccess (s : State) (w : Who) (l : CtlLoad) (u : Option Nat) : Got :=
  match l.op with
  | .load _ => s.tokRead w l.uid 0 l.tok (offs l.off l.size) true false none (How.by u (scalarGrain l.off l.size))
  | .amo o b sc => s.tokAtomic w l.uid 0 l.tok l.off l.size true true sc 2 (AmoOp.code o) (operandBytes l.size [b])
      fun old => some (amoNew o (8 * l.size) (b.toNat % 2 ^ (8 * l.size)) old)
  | .cas b n sc => s.tokAtomic w l.uid 0 l.tok l.off l.size true true sc 2 9 (operandBytes l.size [b, n])
      fun old => casNew (8 * l.size) b.toNat n.toNat old

/-- A signed load. -/
def LoadOp.signed : LoadOp → Bool
  | .load b => b
  | _ => false

/-- `LDS_DATA_RETURN` (R187): the k-th load or atomic of a context is performed, or a part of it, and at its end its register written. -/
def execLdsDataReturn (c : CoreId) (x : Fin 4) (k : Work Nat) (s : State) : Host.Outcome State Fault Refusal :=
  let u := k.part
  let k := k.item
  match ((s.core c).ctx.at x).loads[k]? with
  | none => .next s
  | some l =>
    if s.mustWait c x l.uid l.gone l.tok l.off l.size l.op.writes then .next s
    else
      let g := s.loadAccess ⟨c, .ctl, x⟩ l u
      match g.data with
      | none => .next g.s
      | some b =>
        let v := extend l.op.signed l.size (natOfBytes b)
        let t := g.s.modCore c fun k => (k.modCtx x fun d => { d with loads := d.loads.filter fun m => m.uid != l.uid }).writeDest l.dest v
        .next ((t.dropReqs (dieOf c) l.uid).chargeCtl c x l.pc l.gone g.acct)

/-- `STS_ACCEPTED` (R187): the k-th store of a context is performed, or a part of it. -/
def execStsAccepted (c : CoreId) (x : Fin 4) (k : Work Nat) (s : State) : Host.Outcome State Fault Refusal :=
  let u := k.part
  let k := k.item
  match ((s.core c).ctx.at x).stores[k]? with
  | none => .next s
  | some l =>
    if s.mustWait c x l.uid l.gone l.tok l.off l.size true then .next s
    else
      let g := s.tokWrite ⟨c, .ctl, x⟩ l.uid 0 l.tok ((offs l.off l.size).zip (bytesOfNat l.size l.data.toNat)) (some l.pc) .cr
        (How.by u (scalarGrain l.off l.size))
      match g.data with
      | none => .next g.s
      | some _ =>
        let t := g.s.modCore c fun k => k.modCtx x fun d => { d with stores := d.stores.filter fun m => m.uid != l.uid }
        .next (t.chargeCtl c x l.pc l.gone g.acct)

/-! ## Releases, acquires and fences (R96 to R98, R190, R191, R107) -/

/-- The interval numbers that a release or fence of CTL advances (R107). -/
def State.nextInterval (s : State) : State :=
  let up := fun (f : Flow) => { f with interval := f.interval + 1 }
  s.modMe fun k => (((k.modFlow .ctl s.cur.x up).modFlow .ld 0 up).modFlow .ex 0 up).modFlow .st 0 up

/-- Scopes in order of width (R95). -/
def Scope.atLeast (a b : Scope) : Bool := decide (Scope.code b ≤ Scope.code a)

/-- What `fence.rel` and `fence` wait for at a scope (R191, R196), after update lines have merged. -/
def State.released (s : State) (sc : Scope) : Bool :=
  let c := s.myCtx
  c.openLoads.isEmpty && c.openStores.isEmpty && !s.remoteOut (fun _ => true) &&
  (!Scope.atLeast sc .cl || s.me.aux.posted.isEmpty)

/-- Update lines of the core merge where the scope asks for it (R105, R191). -/
def State.mergeFor (s : State) (sc : Scope) : State := if Scope.atLeast sc .dl then s.mergeCore s.cur.core else s

/-- `fence` (R191, R98). -/
def execFence (y : Ring) (c : Scope) (s : State) : Host.Outcome State Fault Refusal :=
  s.word (plainWord y (s.wordsOf (.fence y c))) fun s =>
    let s := s.mergeFor c
    if s.released c then s.nextInterval.syncGo else .hold s

/-- `fence.rel` (R191, R98). -/
def execFenceRel (y : Ring) (c : Scope) (s : State) : Host.Outcome State Fault Refusal :=
  s.word (plainWord y (s.wordsOf (.fenceRel y c))) fun s =>
    let s := s.mergeFor c
    if s.released c then s.nextInterval.syncGo else .hold s

/-- `fence.acq` (R191, R98). -/
def execFenceAcq (y : Ring) (c : Scope) (s : State) : Host.Outcome State Fault Refusal :=
  s.word (plainWord y (s.wordsOf (.fenceAcq y c))) fun s =>
    if s.myCtx.openLoads.isEmpty then s.syncGo else .hold s

/-- The work of a core that was issued before a bound has finished (R191): EX results have landed, memory words are complete, engine commands
finished, the marks of Sett commands complete. -/
def State.finishedBefore (s : State) (n : Nat) : Bool :=
  let k := s.me
  (k.ex.flight.all fun f => decide (n ≤ f.uid)) &&
  ((k.ld.pend ++ k.st.pend).all fun p => p.done || decide (n ≤ p.uid)) &&
  ((s.allCmds s.cur.core).all fun d => decide (n ≤ d.uid) || (d.body.engine == 9 && d.marked))

/-- What a `fence.all` waits for as `fence.sy` does, of what was issued before a bound (R191): later words do not extend the wait. -/
def State.releasedBefore (s : State) (n : Nat) : Bool :=
  s.myCtx.openLoads.isEmpty && s.myCtx.openStores.isEmpty && !s.looseOut (fun r => decide (r.uid < n)) &&
  s.me.aux.posted.all fun p => decide (n ≤ p.cmd)

/-- A `fence.all` that stands as the next word of its context fixes the work it waits for, before its ring waits (R27, R191). -/
def State.fixWork (s : State) (i : WordInfo) : State :=
  if s.mayIssue && s.myFlow.due.isEmpty && !s.barred i && !s.enterDue i && s.myCtx.fix.isNone then
    s.modMyCtx fun c => { c with fix := some s.nextUid }
  else s

/-- `fence.all` (R191): the work it waits for is fixed at its first turn. -/
def execFenceAll (y : Ring) (s : State) : Host.Outcome State Fault Refusal :=
  let i := plainWord y (s.wordsOf (.fenceAll y))
  (s.fixWork i).word i fun s =>
    let n := s.myCtx.fix.getD s.nextUid
    let s := s.mergeFor .sy
    if s.releasedBefore n && s.finishedBefore n then (s.modMyCtx fun c => { c with fix := none }).nextInterval.syncGo
    else .hold s

/-- Binding b ties its token to the object of a token and offset (R184). -/
def Binding.isTo (b : Binding) (tok : W64) (off : Nat) : Bool :=
  tokIndex b.objTok == tokIndex tok && tokGen b.objTok == tokGen tok && b.objOff.toNat == off % 2 ^ 64

/-- The token indices and generations whose writes are bound to an object (R184). -/
def Core.tiesTo (k : Core) (tok : W64) (off : Nat) : List (Nat × Nat) :=
  (List.finRange 16).filterMap fun n => match k.binds.at n with
    | none => none
    | some b => if b.isTo tok off then some (tokIndex (k.k.at n), tokGen (k.k.at n)) else none

/-- Every write of the context, and every one carried to it, through one of some token indices and generations is visible (R96, R190). -/
def State.boundDone (s : State) (ties : List (Nat × Nat)) : Bool :=
  let hit := fun (t : W64) => ties.contains (tokIndex t, tokGen t)
  !(s.myCtx.openStores.any fun l => hit l.tok) && !(s.myCtx.openLoads.any fun l => l.op.writes && hit l.tok) &&
  !s.remoteOut fun h1 => ties.contains (bitsOf h1.toNat 0 10, bitsOf h1.toNat 10 12)

/-- The access of an `acq` or `rel` has been made, or holds the word (R190): the word is a synchronisation point. -/
def State.afterAccess (s : State) (uid : Nat) (tok : W64) (g : Got) (f : State → State) : Act :=
  match g.data with
  | none => .hold (g.s.modMyCtx fun c => { c with acc := some (uid, tok) })
  | some _ =>
    let t := (g.s.dropReqs (dieOf s.cur.core) uid).modMyCtx fun c => { c with acc := none }
    let who : Who := ⟨s.cur.core, s.cur.q, s.cur.x⟩
    let t := f (t.charge who s.myFlow.pc { g.acct with poison := none })
    match g.acct.poison with
    | none => t.syncGo
    | some z => .goThen t fun t => t.consumePoison s.cur.core z

/-- The name of the access of a held `acq` or `rel`, a fresh one at its first turn. -/
def State.accUid (s : State) : Nat × State :=
  match s.myCtx.acc with
  | some (u, _) => (u, s)
  | none => s.uid

/-- `rel` (R190, R96). While it is held it keeps the bindings it saw at first (R185, R197). -/
def execRel (y : Ring) (c : Scope) (k : Fin 16) (x v : Fin 32) (s : State) : Host.Outcome State Fault Refusal :=
  s.word (plainWord y (s.wordsOf (.rel y c k x v))) fun s =>
    let tok := s.readK k
    let off := alignTo 8 (ctlOffset (s.readS x) (8 * v.val))
    if s.busyS [x] then .hold s
    else
      let ties := s.myCtx.ties.getD (s.me.tiesTo tok off)
      let s := (s.mergeCore s.cur.core).modMyCtx fun c => { c with ties := some ties }
      if !s.boundDone ties || s.mustWait s.cur.core s.cur.x s.nextUid false tok off 8 true then .hold s
      else
        let (uid, s) := s.accUid
        let who : Who := ⟨s.cur.core, s.cur.q, s.cur.x⟩
        s.afterAccess uid tok (s.tokAtomic who uid 0 tok off 8 true true c 2 (AmoOp.code .add) (operandBytes 8 [1])
          fun old => some (amoNew .add 64 1 old)) fun t => (t.modMyCtx fun c => { c with ties := none }).nextInterval

/-- `acq` (R190, R96). -/
def execAcq (y : Ring) (c : Scope) (k : Fin 16) (x v : Fin 32) (s : State) : Host.Outcome State Fault Refusal :=
  s.word (plainWord y (s.wordsOf (.acq y c k x v))) fun s =>
    let tok := s.readK k
    let off := alignTo 8 (ctlOffset (s.readS x) (8 * v.val))
    if s.busyS [x] then .hold s
    else if s.mustWait s.cur.core s.cur.x s.nextUid false tok off 8 false then .hold s
    else
      let (uid, s) := s.accUid
      let who : Who := ⟨s.cur.core, s.cur.q, s.cur.x⟩
      s.afterAccess uid tok (s.tokRead who uid 0 tok (offs off 8) true false (some c)) id

/-! ## Waiting and events (R101, R192, R193) -/

/-- `wadr` (R192). Its first read counts; a later turn reads again once `WADR_WAKE` has come. -/
def execWadr (y : Ring) (d : Fin 32) (k : Fin 16) (x : Fin 32) (z : Size) (v : Fin 32) (s : State) : Host.Outcome State Fault Refusal :=
  s.word (plainWord y (s.wordsOf (.wadr y d k x z v))) fun s =>
    let n := sizeBytes z
    if s.busyS [d, x] then .hold s
    else
      let (w, s) := match s.myCtx.wadr with
        | some w => (w, s)
        | none =>
          let (uid, s) := s.uid
          ((⟨uid, s.readK k, alignTo n (ctlOffset (s.readS x) (v.val * n)), false, true⟩ : Wadr), s)
      if !w.awake then .wait 0x29
      else if s.mustWait s.cur.core s.cur.x s.nextUid false w.tok w.off n false then .hold s
      else
        let who : Who := ⟨s.cur.core, s.cur.q, s.cur.x⟩
        let g := s.tokRead who w.uid 0 w.tok (offs w.off n) true false
        match g.data with
        | none => .waitIn (g.s.modMyCtx fun c => { c with wadr := some w }) 0x29
        | some b =>
          let t := g.s.dropReqs (dieOf s.cur.core) w.uid
          let t := if w.counted then t else t.charge who s.myFlow.pc { g.acct with poison := none }
          let val := natOfBytes b
          if val != (s.readS d).toNat % 2 ^ (8 * n) then
            let t := (t.writeS d (extend (sizeSigned z) n val)).modMyCtx fun c => { c with wadr := none }
            match g.acct.poison with
            | none => .go t
            | some p => .goThen t fun t => t.consumePoison s.cur.core p
          else .waitIn (t.modMyCtx fun c => { c with wadr := some { w with counted := true, awake := false } }) 0x29

/-- `WADR_WAKE` (R192): the line is written or invalidated, or 4,096 cycles have passed; the watch reads again. -/
def execWadrWake (c : CoreId) (x : Fin 4) (s : State) : Host.Outcome State Fault Refusal :=
  .next (s.modCore c fun k => k.modCtx x fun d => { d with wadr := d.wadr.map fun w => { w with awake := true } })

/-- `wfe` (R193, R101). -/
def execWfe (y : Ring) (s : State) : Host.Outcome State Fault Refusal :=
  s.word (plainWord y (s.wordsOf (.wfe y))) fun s =>
    if s.myCtx.latch then .go (s.modMyCtx fun c => { c with latch := false }) else .wait 0x28

/-- Every live context of the partition within a scope of a core has its latch set (R101, R193). -/
def State.setLatches (s : State) (c : CoreId) (sc : Scope) : State :=
  let part := s.partOf c
  let set := fun (k : Core) => { k with ctx := k.ctx.map fun d => { d with latch := d.live || d.latch } }
  (coreIds.filter fun d => (s.core d).aux.run.isSome && covers sc c d && (d == c || s.partOf d == part)).foldl
    (fun s d => s.modCore d set) s

/-- `sev` (R193, R101). -/
def execSev (y : Ring) (c : Scope) (s : State) : Host.Outcome State Fault Refusal :=
  s.word (plainWord y (s.wordsOf (.sev y c))) fun s =>
    let d := s.myCtx
    if d.openStores.isEmpty && !(d.openLoads.any fun l => l.op.writes) && !s.remoteOut (fun _ => true)
    then .go (s.setLatches s.cur.core c) else .hold s

/-! ## Queues (R15, R194) -/

/-- The queue toward a target. -/
def targetQueue : Target → Fin 3
  | .ld => 0 | .ex => 1 | .st => 2

/-- CTL puts an entry into a queue; it carries the order of every replacement so far (R93, R177). -/
def Core.sendValue (k : Core) (g : Fin 3) (v : W64) : Core :=
  let n := (k.values.at g).length
  let k := { k with values := k.values.mod g (· ++ [v]) }
  k.modAux fun a => { a with prior := { a.prior with
    vq := a.prior.vq.mod g fun l => List.replicate (n - l.length) 0 ++ l ++ [a.prior.now] } }
def Core.sendOutcome (k : Core) (g : Fin 3) (v : Bool) : Core :=
  let n := (k.outcomes.at g).length
  let k := { k with outcomes := k.outcomes.mod g (· ++ [v]) }
  k.modAux fun a => { a with prior := { a.prior with
    oq := a.prior.oq.mod g fun l => List.replicate (n - l.length) 0 ++ l ++ [a.prior.now] } }

/-- `send` (R194). -/
def execSend (y : Ring) (g : Target) (a : Fin 32) (s : State) : Host.Outcome State Fault Refusal :=
  s.word (plainWord y (s.wordsOf (.send y g a))) fun s =>
    if 16 ≤ (s.me.values.at (targetQueue g)).length then .wait (0x22 + (targetQueue g).val)
    else if s.busyS [a] then .hold s
    else .go (s.modMe fun k => k.sendValue (targetQueue g) (s.readS a))

/-- `bqp` (R194). -/
def execBqp (y : Ring) (g : Target) (n : Bool) (p : Fin 8) (s : State) : Host.Outcome State Fault Refusal :=
  s.word (plainWord y (s.wordsOf (.bqp y g n p))) fun s =>
    if 32 ≤ (s.me.outcomes.at (targetQueue g)).length then .wait (0x25 + (targetQueue g).val)
    else if s.busyP [p] then .hold s
    else .go (s.modMe fun k => k.sendOutcome (targetQueue g) (s.readP p != n))

/-! ## Windows (R195, R196) -/

/-- The window that `win` sets up (R195). A target in another package lies inside the partition when its die is in the partition's
fabric reach (notes/assumptions/30.md). -/
def State.winOf (s : State) (v : W64) (n : BitVec 12) : Window :=
  let co : Fin 64 := Fin.ofNat 64 v.toNat
  let cl : Fin 4 := Fin.ofNat 4 (bitsOf v.toNat 6 2)
  let die : Fin 64 := Fin.ofNat 64 (bitsOf v.toNat 8 6)
  let part := s.partOf s.cur.core
  let inside := match s.winCore die cl co with
    | some t => s.partOf t == part
    | none => (s.hub.fab.dieOf die.val).isNone && (match part with | some p => s.fabReach p die | none => false)
  if n = 0 then .closed
  else if 47 < co.val || !s.hub.fab.exists? die || !inside then .dead
  else .opened die cl co n.toNat

/-- `win` (R195). -/
def execWin (y : Ring) (w : Fin 16) (a : Fin 32) (n : BitVec 12) (s : State) : Host.Outcome State Fault Refusal :=
  s.word (plainWord y (s.wordsOf (.win y w a n))) fun s =>
    if s.busyS [a] || s.me.aux.posted.any fun p => p.win == w then .hold s
    else
      let v := s.winOf (s.readS a) n
      .go (s.modMe fun k => { (k.replaced (.win w (k.wins.at w))) with wins := k.wins.put w v })

/-! ## ecall (R174) -/

/-- `ecall` (R174): it waits as `fence.rel.sy` does, and for the front end to have taken the core's previous record. -/
def execEcall (y : Ring) (n : BitVec 8) (s : State) : Host.Outcome State Fault Refusal :=
  s.word (plainWord y (s.wordsOf (.ecall y n))) fun s =>
    let s := s.mergeFor .sy
    if !s.released .sy || s.me.aux.ecall.isSome || s.busyS [1, 2, 3, 4] then .hold s
    else match s.me.aux.run with
    | none => .go s
    | some r =>
      let part := match s.queue r.queue with | some e => e.1.part.val | none => 0
      let base := runRec s.cur.core r part 2 0 s.cur.x.val s.myFlow.pc.toNat n.toNat
      let w := (((base.w.put 4 (s.readS 1)).put 5 (s.readS 2)).put 6 (s.readS 3)).put 7 (s.readS 4)
      .go (s.modMe fun k => k.modAux fun a => { a with ecall := some ⟨w⟩ })

end Sys2Proof.Machine
end

