-- ==== Sys2Proof/Machine/Cmds.lean ====
section
/-! DEFINITION. Engine commands in common: issue, starting, results, completion (R19 to R21, R206, R208, R222, R283, R292, R312), completion
posts of LD and ST (R13, R93), and the copy and gather engines (R222 to R224). -/

namespace Sys2Proof.Machine

/-! ## Issue -/

/-- The blocking wait of a command for its produced mark (R20) or for room in its engine's queue (R206, R283, R312), in the order of
R117. -/
def State.commandWait (s : State) (engine : Nat) (m : Fin 32) : Option Nat :=
  let c := s.cur.core
  let mine := s.engineCmds c engine
  let full := if engine = 8 then decide (32 ≤ (s.dies.at (dieOf c)).fabQ.length)
    else decide ((if engine = 7 then 8 else 16) ≤ mine.length)
  if !s.me.markDone m then some (0x40 + m.val)
  else if full then
    match mine.head? with
    | some d => some (0x40 + (d.mark.getD 0).val)
    | none => some 0x2C
  else none

/-- The windows as a word of the unit may see them: one mapping for the whole access (R196). -/
def State.seenWins (s : State) (y : Ring) : File Window 16 × State :=
  (List.finRange 16).foldl (fun r n =>
    let (w, t) := r.2.seen y (fun o => match o with | .win m v => if m = n then some v else none | _ => none) (s.me.wins.at n)
    (r.1.put n w, t)) (s.me.wins, s)

/-- A command as it stands at its issue. -/
def State.newCmd (s : State) (uid : Nat) (m : Option (Fin 32)) (w : Waits) (wins : File Window 16) (body : CmdBody) : Cmd :=
  { uid := uid, core := s.cur.core, q := s.cur.q, x := s.cur.x, pc := s.myFlow.pc, gen := s.me.cr.genno, mark := m, waits := w,
    started := false, marked := false, stage := 0, opA := [], opB := [], wins := wins, parts := [], flags := 0, bad := none, body := body }

/-- A command of a word with a ring field enters its queue: its mark becomes pending, and it carries the generation (R20, R21). -/
def State.enqueue (s : State) (y : Ring) (m : Fin 32) (w : Waits) (body : CmdBody) : Nat × State :=
  let (uid, s) := s.uid
  let (wins, s) := s.seenWins y
  let d := s.newCmd uid (some m) w wins body
  let s := s.modMe fun k => k.setMark m false
  (uid, if body.engine = 8 then s.modDie (dieOf s.cur.core) fun e => { e with fabQ := e.fabQ ++ [d] }
    else s.modMe fun k => { k with cmds := k.cmds ++ [d] })

/-- An engine command word: the blocking waits, then its interlocks and the governor's gating (R117, R374), then its issue. -/
def State.command (s : State) (engine : Nat) (m : Fin 32) (busy : Bool) (f : State → State) : Act :=
  match s.commandWait engine m with
  | some code => .wait code
  | none => if busy || s.hub.power.gated then .hold s else .go (f s)

/-- A pending result of the command of CTL or ST (R292, R314): no earlier load writes its registers any more (R187). -/
def State.awaitResult (s : State) (r : ResPend) : State :=
  let s := s.modMe fun k => (k.supersede r.d1).supersede r.d2
  if s.isSt then s.modMe fun k => { k with st := { k.st with res := k.st.res ++ [r] } }
  else s.modMyCtx fun c => { c with res := c.res ++ [r] }

/-- Register sN of CTL or aN of ST, as a command of the L2 reads it (R282). -/
def State.regOf (s : State) (n : Fin 32) : W64 := if s.isSt then s.readA (Fin.ofNat 16 n.val) else s.readS n

/-- Registers of the list, which a command reads, or writes, await a result; in ST none does. -/
def State.busyRegs (s : State) (l : List (Fin 32)) : Bool := !s.isSt && s.busyS l
def State.busyDests (s : State) (l : List (Fin 32)) : Bool := !s.isSt && s.busyD l

/-! ## Finding and changing commands -/

/-- A command of a core by its name. -/
def State.coreCmd (s : State) (c : CoreId) (u : Nat) : Option Cmd := (s.core c).cmds.find? fun d => d.uid == u

/-- A command of a die's fabric engine by its name. -/
def State.fabCmd (s : State) (d : Fin 4) (u : Nat) : Option Cmd := (s.dies.at d).fabQ.find? fun c => c.uid == u

/-- Changes the command of a name wherever it stands: at its core, in the queue of a fabric engine, or in a save area. -/
def State.modCmd (s : State) (u : Nat) (f : Cmd → Cmd) : State :=
  let g := fun (d : Cmd) => if d.uid == u then f d else d
  let core := fun (k : Core) => if k.cmds.any (fun d => d.uid == u) then { k with cmds := k.cmds.map g } else k
  let die := fun (e : Die) => { e with fabQ := e.fabQ.map g }
  let save := fun (v : Saved) => { v with cores := v.cores.map fun e => (e.1, core e.2), fab := v.fab.map fun e => (e.1, g e.2) }
  let s : State := { s with cores := s.cores.map core, dies := s.dies.map die }
  s.modHub fun h => { h with saved := h.saved.map save }

/-! ## Results and completion -/

/-- The results of a command go where its word said: a first and a second value, and a predicate (R292, R314). -/
def Core.giveResults (k : Core) (q : Seq) (x : Fin 4) (uid : Nat) (v1 v2 : Option W64) (p : Bool) : Core :=
  let l := if q == .st then k.st.res else (k.ctx.at x).res
  match l.find? fun r => r.uid == uid with
  | none => k
  | some r =>
    let k := if q == .st then { k with st := { k.st with res := k.st.res.filter fun e => e.uid != uid } }
      else k.modCtx x fun c => { c with res := c.res.filter fun e => e.uid != uid }
    let k := match v1 with | some v => k.writeDest r.d1 v | none => k
    let k := match v2 with | some v => k.writeDest r.d2 v | none => k
    match r.pred with
    | none => k
    | some n =>
      let k := k.modFlow q x fun f => f.setPred n p
      if r.banked then { k with hand := k.hand.map fun h => { h with p := (Flow.setPred { Flow.reset with p := h.p } n p).p } } else k

/-- Completion posts of LD or ST from the oldest memory word on, while words are complete: a post to a full counter is held, and no word
posts past a held post of the same counter (R13, R93). While a post is held, the word behind it that posts to the same counter, and every later
one, waits with its posts, those to the other counter too: DESIGN CHOICE (notes/assumptions/49.md). -/
def Core.drain (k : Core) (st : Bool) : Nat → Core
  | 0 => k
  | n + 1 =>
    let l := k.lseq st
    let q : Seq := if st then .st else .ld
    match l.pend with
    | [] => k
    | p :: r =>
      if !p.done || (p.sa && l.heldSa) || (p.sb && l.heldSb) then k
      else
        let k := k.modLseq st fun l => { l with pend := r }
        let k := if !p.sa then k
          else if k.rings.at (ringSa q) == 63 then k.modLseq st fun l => { l with heldSa := true } else k.post q (ringSa q)
        let k := if !p.sb then k
          else if k.rings.at (ringSb q) == 63 then k.modLseq st fun l => { l with heldSb := true } else k.post q (ringSb q)
        Core.drain k st n

/-- A memory word of LD or ST is complete. -/
def Core.wordDone (k : Core) (st : Bool) (uid : Nat) : Core :=
  let k := k.modLseq st fun l => { l with pend := l.pend.map fun p =>
    match p.op with
    | .eng u => if u == uid then { p with done := true } else p
    | _ => if p.uid == uid then { p with done := true } else p }
  k.drain st (k.lseq st).pend.length

/-- Charges of a command gathered so far. -/
def Cmd.acct (d : Cmd) : Acct := ⟨bitOf d.flags 0, bitOf d.flags 1, bitOf d.flags 2, bitOf d.flags 4, bitOf d.flags 3, d.bad⟩

/-- A command with more charges. -/
def Cmd.owe (d : Cmd) (a : Acct) : Cmd :=
  let b := d.acct.join a
  { d with flags := b.oox.toNat + 2 * b.stale.toNat + 4 * b.lost.toNat + 8 * b.failed.toNat + 16 * b.race.toNat, bad := b.poison }

/-- The charges of a command fall on the sequencer and context that commanded it (R136, R213); the context of an ended tail has no
boundary any more. -/
def State.chargeCmd (s : State) (d : Cmd) (a : Acct) : State :=
  s.chargeAt d.core d.q d.x d.pc d.uid a

/-- A command has been charged: its posted window writes add neither kind of charge again (R213, R309). -/
def State.countPosted (s : State) (c : CoreId) (uid : Nat) (a : Acct) : State :=
  if !a.oox && !a.failed then s
  else s.modCore c fun k => k.modAux fun x => { x with posted := x.posted.map fun p =>
    if p.cmd == uid then { p with counted := p.counted || a.oox, charged := p.charged || a.failed } else p }

/-- A COMMAND COMPLETES: it leaves its queue, its mark is complete, its word of LD or ST posts, and it is charged (R20, R206, R213). -/
def State.finishCmd (s : State) (d : Cmd) (a : Acct) : State :=
  let drop := fun (l : List Cmd) => l.filter fun e => e.uid != d.uid
  let s := if d.body.engine = 8 then s.modDie (dieOf d.core) fun e => { e with fabQ := drop e.fabQ } else s
  let s := s.modCore d.core fun k =>
    let k := { k with cmds := drop k.cmds }
    let k := match d.mark with | some m => k.setMark m true | none => k
    if d.q == .ld then k.wordDone false d.uid else if d.q == .st then k.wordDone true d.uid else k
  let a := d.acct.join a
  (((s.countPosted d.core d.uid a).dropReqs (dieOf d.core) d.uid).dropAccesses d.core d.uid).chargeCmd d a

/-- The party that a command acts for (R107). -/
def Cmd.who (d : Cmd) : Who := ⟨d.core, d.q, d.x⟩

/-- A command acts through the windows as it sees them (R196). Where the windows have changed since and nothing of the command has been done
yet, which mapping it sees is left open. -/
def State.viewWins (s : State) (d : Cmd) : Cmd × State :=
  let k := s.core d.core
  let now := k.wins
  if now = d.wins || d.stage ≠ 0 || (k.aux.accs.any fun a => a.uid == d.uid) || (k.aux.posted.any fun p => p.cmd == d.uid) ||
      !(s.reqsOf (dieOf d.core) d.uid).isEmpty then (d, s)
  else
    let (n, s) := s.freeNat
    let d := if n % 2 = 0 then d else { d with wins := now }
    (d, s.modCmd d.uid fun _ => d)

/-- An access made under the windows of a command. -/
def State.under (s : State) (d : Cmd) (f : State → α) (back : (State → State) → α → α) : α :=
  let now := (s.core d.core).wins
  back (fun t => t.modCore d.core fun k => { k with wins := now }) (f (s.modCore d.core fun k => { k with wins := d.wins }))

/-- Reads local space for a command. -/
def State.cmdLocRead (s : State) (d : Cmd) (pb : Nat) (addrs : List Nat) (h : How := How.all) : Got :=
  s.under d (fun s => s.locRead d.who d.uid pb addrs h) fun g r => { r with s := g r.s }

/-- Writes local space for a command (R196, R223). -/
def State.cmdLocWrite (s : State) (d : Cmd) (pb : Nat) (kv : List (Nat × Byte)) (h : How := How.all) : Got :=
  s.under d (fun s => s.locWrite d.who d.pc d.uid pb kv h) fun g r => { r with s := g r.s }

/-! ## Posted window writes (R196) -/

/-- A posted window write has been written remotely: its units are free, and its command is charged, once, for bytes out of extent, and once for
failed parts (R196, R213, R309). -/
def State.postedDone (s : State) (d : Fin 4) (r : Req) : State :=
  match coreIds.find? fun c => (s.core c).aux.posted.any fun p => p.uid == r.uid with
  | none => s
  | some c =>
    match (s.core c).aux.posted.find? fun p => p.uid == r.uid with
    | none => s
    | some p =>
      let s := (s.modCore c fun k => k.modAux fun a => { a with posted := a.posted.filter fun q => q.uid != r.uid }).dropReqs d r.uid
      let a := { Acct.none with oox := bitOf r.flags 3, failed := r.failed }
      if (s.allCmds c).any fun e => e.uid == p.cmd then s.modCmd p.cmd fun e => e.owe a
      else
        let a := { a with oox := a.oox && !p.counted, failed := a.failed && !p.charged }
        if a = Acct.none then s else (s.countPosted c p.cmd a).chargeAt c p.q p.x p.pc p.cmd a

/-! ## Copies (R222, R223) -/

/-- Local addresses that a copy or gather writes in scratchpads. -/
def CmdBody.localWrites : CmdBody → List Nat
  | .copy false _ off loc shape f => (copyBytes off loc shape f).map (·.2)
  | .gather false _ _ loc count _ esz => (List.range (bitsOf count.toNat 0 24 / esz * esz)).map fun i => (loc.toNat + i) % 2 ^ 32
  | _ => []

/-- Some byte lies in the next half of a phase buffer of the core's own scratchpad (R207, R208). -/
def State.nextHalf (s : State) (c : CoreId) (addrs : List Nat) : Bool :=
  match (s.core c).aux.run with
  | none => false
  | some r => addrs.any fun a =>
    match s.ownOffset c a with
    | none => false
    | some o => r.op.phases.any fun p => decide (p.1 + p.2 ≤ o) && decide (o < p.1 + 2 * p.2)

/-- A copy or gather that writes a next half enters the copy log, which holds 64: the phase of a log that overflows is unrecoverable, and so is the
next, whose input log is not whole (R208; notes/assumptions/33.md). -/
def State.logCopy (s : State) (body : CmdBody) : State :=
  if !s.nextHalf s.cur.core body.localWrites then s
  else s.modMe fun k => k.modAux fun a =>
    let p := a.phases
    if 64 ≤ p.copyLog.length then { a with phases := { p with overflow := true, recoverable := false } }
    else { a with phases := { p with copyLog := p.copyLog ++ [⟨body, p.parity⟩] } }

/-- A copy or gather word of LD or ST: its command, its memory word, its entry of the log (R206, R208, R212, R222). -/
def State.memCommand (s : State) (y : Ring) (m : Fin 32) (w : Waits) (body : State → CmdBody × State) : State :=
  let (b, s) := body s
  let (uid, s) := s.enqueue y m w b
  let p : LsPend := ⟨uid, s.myFlow.pc, y.sb, y.sa, 0, 0, .eng uid, false⟩
  (s.modMe fun k => k.modLseq s.isSt fun l => { l with pend := l.pend ++ [p] }).logCopy b

/-! ## Moves: copies, gathers, one-sided copies (R223, R224, R313) -/

/-- A move of bytes by an engine: the stage in which it reads, the number of its read's first piece, for each byte it writes the position that
brings it (none for a byte that is zero), whether its writes wait (R94), and its two accesses, of which a step performs all that is left or a
part. -/
structure Move where
  stage : Nat
  base : Nat
  slots : List (Option Nat)
  waits : State → Bool
  read : State → Option Nat → Got
  write : State → List Byte → Option Nat → (Nat → Bool) → Got

/-- One step of a move: with no part named it reads what is left, then writes what is left; an even part is one of its reads, an odd one of its
writes, of bytes that have been read. `opB` holds what has been read once all of it has; `fin` is what follows the last byte written. -/
def State.runMove (s : State) (d : Cmd) (u : Option Nat) (m : Move) (fin : State → Cmd → Acct → State) : State :=
  let reads := match u with | some n => n % 2 == 0 | none => true
  let writes := match u with | some n => n % 2 == 1 | none => true
  let part := u.map (· / 2)
  let (d, s) :=
    if !reads || d.stage ≠ m.stage then (d, s)
    else
      let g := m.read s part
      match g.data with
      | none => (d, g.s)
      | some b =>
        let e := { d.owe g.acct with stage := m.stage + 1, opB := b }
        (e, g.s.modCmd d.uid fun _ => e)
  let here := d.stage == m.stage
  if !writes || (here && u.isNone) || m.waits s then s
  else
    let a := if here then (s.core d.core).access d.uid m.base else none
    let byte := fun (j : Nat) => if here then (match a with | some a => a.byte j | none => 0) else d.opB.getD j 0
    let has := fun (j : Nat) => !here || (match a with | some a => a.done.any fun e => e.1 == j | none => false)
    let g := m.write s (m.slots.map fun v => match v with | some j => byte j | none => 0) part
      fun i => match m.slots.getD i none with | some j => has j | none => true
    match g.data with
    | none => g.s
    | some _ => if here then s else fin g.s d g.acct

/-- A write of a command waits for what an earlier command of its sequencer has still to read (R94). -/
def State.cmdWaits (s : State) (d : Cmd) (tok : W64) (os locs : List Nat) : Bool := s.readFirst d.core d.q d.x d.uid tok os locs

/-- A move between a token and local space, `toMem` its direction, byte by byte. -/
def Cmd.move (d : Cmd) (toMem : Bool) (tok : W64) (moffs locs : List Nat) : Move :=
  { stage := 0, base := 0, slots := (List.range moffs.length).map some,
    waits := fun s => if toMem then s.cmdWaits d tok moffs [] else s.cmdWaits d tok [] locs,
    read := fun s u => if toMem then s.cmdLocRead d 0 locs (How.by u .sectors) else s.tokRead d.who d.uid 0 tok moffs true false none (How.by u .units),
    write := fun s b u ready =>
      if toMem then s.tokWrite d.who d.uid (2 ^ 20) tok (moffs.zip b) none .cr ⟨u, .units, ready, some .any⟩
      else s.cmdLocWrite d (2 ^ 20) (locs.zip b) ⟨u, .sectors, ready, some .any⟩ }

/-- A step of a copy (R223). -/
def State.runCopy (s : State) (d : Cmd) (u : Option Nat) (toMem : Bool) (tok off loc shape : W64) (f : Nat) : State :=
  let l := copyBytes off loc shape f
  if l.isEmpty then s.finishCmd d Acct.none
  else s.runMove d u (d.move toMem tok (l.map (·.1)) (l.map (·.2))) State.finishCmd

/-! ## Gathers and scatters (R224) -/

/-- An element of a `gth` whose index bytes the element area overlaps: it holds zero, or a memory element at an offset left open (R224). -/
def smearIndex (iw : Nat) (hit : Nat → Bool) : Nat → List Nat → State → List (Option Nat) × State
  | _, [], s => ([], s)
  | j, i :: r, s =>
    let (v, s) := if hit j then
        let (n, s) := s.freeNat
        (if n % 2 = 0 then none else some (n / 2 % 2 ^ (8 * iw)), s)
      else (some i, s)
    let (r, s) := smearIndex iw hit (j + 1) r s
    (v :: r, s)

/-- The positions, among the bytes that a `gth` reads, that bring the bytes of its elements; elements that hold zero read none. -/
def gatherSlots (esz : Nat) : Nat → List (Option Nat) → List (Option Nat)
  | _, [] => []
  | j, none :: r => List.replicate esz none ++ gatherSlots esz j r
  | j, some _ :: r => (List.range esz).map (fun t => some (j + t)) ++ gatherSlots esz (j + esz) r

/-- The index list of a gather has been read, into `opA` (notes/assumptions/7.md). -/
def Cmd.indexed (d : Cmd) (toMem : Bool) (loc : W64) (iw esz n : Nat) (b : List Byte) (s : State) : Cmd × State :=
  let ix := gatherIndex loc (n * iw)
  let elems := gatherElems loc (n * esz)
  let hit := fun j => !toMem && (List.range iw).any fun t => elems.contains (ix.getD (j * iw + t) 0)
  let (is, s) := smearIndex iw hit 0 (indexList iw n b) s
  ({ d with stage := 1, opA := is.flatMap fun v => bytesOfNat 5 (match v with | none => 2 ^ 39 | some i => i) }, s)

/-- The move of the elements of a gather, once its indices are read. -/
def Cmd.gatherMove (d : Cmd) (toMem : Bool) (tok off loc : W64) (esz n : Nat) : Move :=
  let idx := readIndices n d.opA
  let moffs := (gatherOffs off.toNat esz idx).flatMap (·.getD [])
  let elems := gatherElems loc (n * esz)
  if toMem then
    { stage := 1, base := 2 ^ 20, slots := (List.range elems.length).map some, waits := fun s => s.cmdWaits d tok moffs [],
      read := fun s u => s.cmdLocRead d (2 ^ 20) elems (How.by u .sectors),
      write := fun s b u ready => s.tokWrite d.who d.uid (2 ^ 21) tok (moffs.zip b) none .cr ⟨u, .elems esz, ready, some .last⟩ }
  else
    { stage := 1, base := 2 ^ 20, slots := gatherSlots esz 0 idx, waits := fun s => s.cmdWaits d tok [] elems,
      read := fun s u => s.tokRead d.who d.uid (2 ^ 20) tok moffs true false none (How.by u (.elems esz)),
      write := fun s b u ready => s.cmdLocWrite d (2 ^ 21) (elems.zip b) ⟨u, .sectors, ready, some .any⟩ }

/-- A step of a gather or scatter: stage 0 reads the index list, stage 1 moves the elements. -/
def State.runGather (s : State) (d : Cmd) (u : Option Nat) (toMem : Bool) (tok off loc count : W64) (wide : Bool) (esz : Nat) : State :=
  let iw := if wide then 4 else 2
  let n := bitsOf count.toNat 0 24 / esz
  if n = 0 then s.finishCmd d Acct.none
  else if d.stage ≠ 0 then s.runMove d u (d.gatherMove toMem tok off loc esz n) State.finishCmd
  else
    let g := s.cmdLocRead d 0 (gatherIndex loc (n * iw)) (How.by u .sectors)
    match g.data with
    | none => g.s
    | some b =>
      let (e, s) := (d.owe g.acct).indexed toMem loc iw esz n b g.s
      let s := s.modCmd d.uid fun _ => e
      if u.isSome then s else s.runMove e none (e.gatherMove toMem tok off loc esz n) State.finishCmd

/-- A command has bytes to write through a window whose allowance has no room for the next of them: it pauses (R196, R223). -/
def State.pausedAt (s : State) (d : Cmd) (n : Fin 16) : Bool :=
  let addrs := d.body.localWrites
  let left := fun (s : State) => (s.farPieces d.core addrs).any fun p =>
    (match p.2.2 with | .far m .. => m == n | _ => false) && !s.roomFor d.core n (unitsOf ((List.range p.2.1).map (p.1 + ·))) &&
    !((s.core d.core).aux.accs.any fun a => a.uid == d.uid && a.pin.isNone && a.done.any fun e => addrs.getD e.1 0 == p.1 && a.base ≠ 0)
  d.started && s.under d left fun _ b => b

/-- The next word of a sequencer that writes through a window where an earlier command of the sequencer pauses holds at its issue (R223). -/
def State.pausedOn (s : State) (body : CmdBody) : Bool :=
  let c := s.cur.core
  match body.localWrites with
  | [] => false
  | addrs => (s.me.cmds.filter fun d => d.q == s.cur.q && decide (d.body.engine < 6)).any fun d =>
      (List.finRange 16).any fun n => !(s.behind c n addrs).isEmpty && s.pausedAt d n

/-! ## The steps of the engines -/

/-- `ENGINE_COMMAND_START` (R20): a command of a core or of its die's fabric engine starts. -/
def execEngineCommandStart (c : CoreId) (u : Nat) (s : State) : Host.Outcome State Fault Refusal :=
  match (s.allCmds c).find? fun d => d.uid == u && d.body.engine != 9 with
  | none => .next s
  | some d => .next (if s.mayStart d then s.modCmd u fun d => { d with started := true } else s)

/-- A started command runs unless its accesses are held for a forced pre-emption. -/
def State.running (s : State) (c : CoreId) (u : Nat) : Option Cmd := (s.coreCmd c u).filter fun d => d.started

/-- `COPY_COMMAND_COMPLETE` (R223): a started copy runs on, to its end or by one of the parts that are left. -/
def execCopyCommandComplete (c : CoreId) (u : Work Nat) (s : State) : Host.Outcome State Fault Refusal :=
  let n := u.part
  let u := u.item
  match s.running c u with
  | none => .next s
  | some d =>
    let (d, s) := s.viewWins d
    match d.body with
    | .copy toMem tok off loc shape f => .next (s.runCopy d n toMem tok off loc shape f)
    | _ => .next s

/-- `GATHER_COMMAND_COMPLETE` (R224): a started gather or scatter runs on, to its end or by one of the parts that are left. -/
def execGatherCommandComplete (c : CoreId) (u : Work Nat) (s : State) : Host.Outcome State Fault Refusal :=
  let n := u.part
  let u := u.item
  match s.running c u with
  | none => .next s
  | some d =>
    let (d, s) := s.viewWins d
    match d.body with
    | .gather toMem tok off loc count wide esz => .next (s.runGather d n toMem tok off loc count wide esz)
    | _ => .next s

end Sys2Proof.Machine
end

