-- ==== Sys2Proof/Machine/LdSt.lean ====
section
/-! DEFINITION. The words of LD and ST (R211 to R224) and the steps that complete them (R13, R93, R212). -/

namespace Sys2Proof.Machine

/-! ## The address group (R216) -/

/-- `aadd` (R216). -/
def execAadd (y : Ring) (d a b : Fin 16) (s : State) : Host.Outcome State Fault Refusal :=
  s.word (plainWord y (s.wordsOf (.aadd y d a b))) fun s => .go (s.writeA d (s.readA a + s.readA b))

/-- `aaddi` (R216). -/
def execAaddi (y : Ring) (d a : Fin 16) (m : BitVec 14) (s : State) : Host.Outcome State Fault Refusal :=
  s.word (plainWord y (s.wordsOf (.aaddi y d a m))) fun s => .go (s.writeA d (s.readA a + m.signExtend 64))

/-- `ali` (R216). -/
def execAli (y : Ring) (d : Fin 16) (m : BitVec 18) (s : State) : Host.Outcome State Fault Refusal :=
  s.word (plainWord y (s.wordsOf (.ali y d m))) fun s => .go (s.writeA d (m.signExtend 64))

/-- `acmp` (R216). -/
def execAcmp (y : Ring) (p : Fin 8) (a b : Fin 16) (c : Cond) (s : State) : Host.Outcome State Fault Refusal :=
  s.word (plainWord y (s.wordsOf (.acmp y p a b c))) fun s =>
    if s.busyP [p] then .hold s else .go (s.writeP p (condHolds c (s.readA a) (s.readA b)))

/-! ## Memory words: issue -/

/-- Memory words of LD, or of ST, that have not completed, engine commands apart (R211). -/
def LSeq.openWords (l : LSeq) : Nat := (l.pend.filter fun p => !p.done && (match p.op with | .eng _ => false | _ => true)).length

/-- A memory word issues: its token is read, and it waits to be performed (R211, R212). -/
def State.issueMem (s : State) (y : Ring) (k : Fin 16) (off : Nat) (op : Nat → LsOp) : State :=
  let (uid, s) := s.uid
  let (tok, s) := s.seenK y k
  let p : LsPend := ⟨uid, s.myFlow.pc, y.sb, y.sa, tok, off, op uid, false⟩
  s.modMe fun c => c.modLseq s.isSt fun l => { l with pend := l.pend ++ [p] }

/-- `ldq` (R217). -/
def execLdq (y : Ring) (q k x : Fin 16) (v : Fin 1024) (s : State) : Host.Outcome State Fault Refusal :=
  s.word { plainWord y (s.wordsOf (.ldq y q k x v)) with memory := true } fun s =>
    if !s.me.slotFree q then .wait (0x10 + q.val)
    else if 16 ≤ s.me.ld.openWords then .hold s
    else
      let t := s.issueMem y k (offsetOf (s.readA x) (256 * v.val)) fun u => .ldq q u
      .go (t.modMe fun c => { c with streams := c.streams.mod q (· ++ [⟨s.nextUid, none, 0⟩]) })

/-- A word of ST that pops a line of a stream register (R218, R219, R221). -/
def State.storeLine (s : State) (q : Fin 16) (f : Line → State → Act) : Act :=
  match s.me.streams.at q with
  | ⟨_, some v, _⟩ :: _ => if 16 ≤ s.me.st.openWords then .hold s else f v (s.modMe fun c => c.popStream q)
  | _ => .wait (0x10 + q.val)

/-- `stq` (R218). -/
def execStq (y : Ring) (q k x : Fin 16) (v : Fin 1024) (s : State) : Host.Outcome State Fault Refusal :=
  s.word { plainWord y (s.wordsOf (.stq y q k x v)) with memory := true } fun s =>
    s.storeLine q fun l s => .go (s.issueMem y k (offsetOf (s.readA x) (256 * v.val)) fun _ => .stq l)

/-- Everything a release of ST waits for at a scope (R219): earlier memory words, remote and window writes of the core; update lines have
merged before. -/
def State.stReleased (s : State) (sc : Scope) : Bool :=
  s.me.st.openWords == 0 && !((s.dies.at (dieOf s.cur.core)).reqs.any fun r => match r.loose with
    | some (d, _, _, _) => d == s.cur.core
    | none => false) && (!Scope.atLeast sc .cl || s.me.aux.posted.isEmpty)

/-- `strel` (R219). -/
def execStrel (y : Ring) (q k x : Fin 16) (c : Scope) (v : Fin 128) (s : State) : Host.Outcome State Fault Refusal :=
  s.word { plainWord y (s.wordsOf (.strel y q k x c v)) with memory := true } fun s =>
    if !s.me.lineReady q then .wait (0x10 + q.val)
    else
      let s := s.mergeFor c
      if !s.stReleased c then .hold s
      else s.storeLine q fun l s => .go (s.issueMem y k (offsetOf (s.readA x) (256 * v.val)) fun _ => .strel c l)

/-- `upd` (R221). -/
def execUpd (y : Ring) (q k x : Fin 16) (o : UpdOp) (t : Ty) (v : Fin 8) (s : State) : Host.Outcome State Fault Refusal :=
  s.word { plainWord y (s.wordsOf (.upd y q k x o t v)) with memory := true } fun s =>
    s.storeLine q fun l s =>
      .go (s.issueMem y k (alignTo (tyBits t / 8) (offsetOf (s.readA x) (256 * v.val))) fun _ => .upd o t l)

/-- The run list a lookup finds without walking, for a token that may be read (R220). -/
def State.runsAt (s : State) (c : CoreId) (tok : W64) : Option (List Run) :=
  let base := (s.core c).cr.pinBase
  let i := tokIndex tok
  if !tokValid tok || tokRsv tok || !tokRd tok || tokRemote tok || s.pinState base i != 1 || s.pinGen base i != tokGen tok then none
  else ((s.tus.at (tuOf c)).pins.find? fun p => p.base == base && p.index.toNat == i && p.gen.toNat == tokGen tok && p.src.isNone).map
    (·.runs)

/-- `pf` (R220): the line comes into the L1 clean, or the word is ignored. -/
def execPf (y : Ring) (k x : Fin 16) (v : Fin 1024) (s : State) : Host.Outcome State Fault Refusal :=
  s.word (plainWord y (s.wordsOf (.pf y k x v))) fun s =>
    let off := offsetOf (s.readA x) (128 * v.val)
    let (tok, s) := s.seenK y k
    match s.runsAt s.cur.core tok with
    | none => .go s
    | some runs =>
      if tokLen tok ≤ off then .go s
      else match locate runs off with
      | some (key, true) => if (s.me.l1Find (lineOf key)).isSome then .go s else .go (s.l1Read s.cur.core (lineOf key) 15)
      | _ => .go s

/-! ## Engine command words (R222 to R224) -/

/-- `ldsp` (R223). -/
def execLdsp (y : Ring) (l k x a : Fin 16) (m : Fin 32) (w : Waits) (f : Fin 1024) (s : State) : Host.Outcome State Fault Refusal :=
  s.word { plainWord y (s.wordsOf (.ldsp y l k x a m w f)) with memory := true } fun s =>
    s.command 4 m (s.pausedOn (.copy false 0 (s.readA x) (s.readA a) (s.readA l) f.val)) fun s => s.memCommand y m w fun s =>
      let (tok, s) := s.seenK y k
      (.copy false tok (s.readA x) (s.readA a) (s.readA l) f.val, s)

/-- `stsp` (R223). -/
def execStsp (y : Ring) (l k x a : Fin 16) (m : Fin 32) (w : Waits) (f : Fin 1024) (s : State) : Host.Outcome State Fault Refusal :=
  s.word { plainWord y (s.wordsOf (.stsp y l k x a m w f)) with memory := true } fun s =>
    s.command 4 m false fun s => s.memCommand y m w fun s =>
      let (tok, s) := s.seenK y k
      (.copy true tok (s.readA x) (s.readA a) (s.readA l) f.val, s)

/-- `gth` (R224). -/
def execGth (y : Ring) (l k x a : Fin 16) (m : Fin 32) (w : Waits) (n : Bool) (f : Fin 8) (s : State) : Host.Outcome State Fault Refusal :=
  s.word { plainWord y (s.wordsOf (.gth y l k x a m w n f)) with memory := true } fun s =>
    s.command 5 m (s.pausedOn (.gather false 0 (s.readA x) (s.readA a) (s.readA l) n (2 ^ f.val))) fun s => s.memCommand y m w fun s =>
      let (tok, s) := s.seenK y k
      (.gather false tok (s.readA x) (s.readA a) (s.readA l) n (2 ^ f.val), s)

/-- `sct` (R224). -/
def execSct (y : Ring) (l k x a : Fin 16) (m : Fin 32) (w : Waits) (n : Bool) (f : Fin 8) (s : State) : Host.Outcome State Fault Refusal :=
  s.word { plainWord y (s.wordsOf (.sct y l k x a m w n f)) with memory := true } fun s =>
    s.command 5 m false fun s => s.memCommand y m w fun s =>
      let (tok, s) := s.seenK y k
      (.gather true tok (s.readA x) (s.readA a) (s.readA l) n (2 ^ f.val), s)

/-! ## Update contributions (R204, R221) -/

/-- An element that does not lie in one cached line is merged at its home at once. -/
def State.updNow (s : State) (o : UpdOp) (t : Ty) (keys : List Nat) (v : Nat) : State × Acct :=
  let s := (linesOf keys).foldl (fun s l => s.homeWrite l) s
  match s.poisoned keys with
  | some x => (s, { Acct.none with poison := some x })
  | none =>
    let old := natOfBytes (keys.map s.mem.get)
    (s.putBytes (keys.zip (bytesOfNat keys.length (updCombine o t old v))), Acct.none)

/-- One element of an `upd` at its places, if it has all of them: its charges, none while it is between its read and its write (R354). -/
def State.updElement (s : State) (w : Who) (uid i : Nat) (o : UpdOp) (t : Ty) (ks : List (Option (Nat × Bool))) (v : Nat) : State × Option Acct :=
  match ks.mapM id with
  | none => (s, some { Acct.none with oox := true })
  | some l =>
    let keys := l.map (·.1)
    let key := keys.headD 0
    let whole := keys == (List.range keys.length).map (key + ·)
    if whole && lineOf key == lineOf (key + keys.length - 1) && l.all (·.2) then
      (s.l1Update w.core o t (lineOf key) [(key % 128, BitVec.ofNat 32 v)], some Acct.none)
    else if whole && l.all fun k => !k.2 then
      let g := s.atomicAt (.item w.core uid i) w false .cr key keys.length false fun old => some (updCombine o t old v)
      (g.s, g.data.map fun _ => g.acct)
    else
      let (s, a) := s.updNow o t keys v
      (s, some a)

/-- The elements of a line of an `upd`, each with its offset. -/
def updElements (t : Ty) (off : Nat) (v : Line) : List (Nat × Nat) :=
  let n := tyBits t / 8
  (List.range (256 / n)).map fun i => (off + i * n, laneOf v.toNat i (8 * n))

/-- An `upd` is performed, or one of its elements that are left (R136, R204, R221). Through a remote token each element travels as one bank
update. -/
def State.tokUpdate (s : State) (w : Who) (p : LsPend) (o : UpdOp) (t : Ty) (v : Line) (u : Option Nat) : Got :=
  let n := tyBits t / 8
  let es := numbered 0 (updElements t p.off v)
  match s.lookup w.core p.uid 0 p.tok false true with
  | (.stale lost, s) => ⟨s.dropAccess w.core p.uid 0, some [], { Acct.none with stale := true, lost := lost }, Seen.none⟩
  | (.held, s) => ⟨s, none, Acct.none, Seen.none⟩
  | (.near len runs, s) =>
    let lim := min len (tokLen p.tok)
    let places := fun (off : Nat) => (offs off n).map fun o => if o < lim then locate runs o else none
    let a := s.accessOf w.core p.uid 0 (some (.near len runs)) p.tok
    let r := s.watchIn w (tokWatch p.tok) (es.flatMap fun e => (places e.2.1).filterMap fun k => k.map (·.1)) true false .cr ⟨a.mode, a.secs⟩
    let left := es.filter fun e => !(a.done.any fun d => d.1 == e.1)
    let now := match u with | none => left | some k => (left[k % left.length]?).toList
    let s := r.s.keepAccess w.core { a with secs := r.seen.secs, mode := r.seen.mode }
    let (s, done, acct) := now.foldl (fun (r : State × List (Nat × Byte) × Acct) e =>
      match r.1.updElement w p.uid e.1 o t (places e.2.1) e.2.2 with
      | (s, none) => (s, r.2)
      | (s, some b) => (s, r.2.1 ++ [(e.1, 0)], r.2.2.join b)) (s, [], { a.acct with race := a.acct.race || r.race })
    let b := { a with done := a.done ++ done, secs := r.seen.secs, mode := r.seen.mode, acct := acct }
    if b.done.length == es.length then ⟨s.dropAccess w.core p.uid 0, some [], acct, r.seen⟩
    else ⟨s.keepAccess w.core b, none, Acct.none, r.seen⟩
  | (.far len die, s) =>
    let lim := min len (tokLen p.tok)
    let asid := (s.core w.core).cr.asid
    let es' := es.filter fun e => decide (e.2.1 + n ≤ lim)
    let s := s.askAll w.die p.uid (es'.map fun e =>
      ⟨e.1, die, 0, 3, UpdOp.code o + 16 * Ty.code t, w.core.val % 192, w.x.val, tokTarget p.tok e.2.1 asid, n,
        bytesOfNat n e.2.2, w.watching p.tok .cr⟩)
    let nos := es'.map (·.1)
    if s.allAsked w.die p.uid nos then
      ⟨(s.dropAccess w.core p.uid 0).loosen w p.pc p.uid, some [], { Acct.none with oox := decide (es'.length < es.length) }, Seen.none⟩
    else ⟨s.noteAccess w.core p.uid 0 (.far len die) p.tok, none, Acct.none, Seen.none⟩

/-! ## Completion -/

/-- The access of a memory word of LD or ST; `u` names one of the parts that are left, none all of them (R214, R225). -/
def State.wordAccess (s : State) (w : Who) (p : LsPend) (u : Option Nat) : Got :=
  let os := offs p.off 256
  match p.op with
  | .ldq _ _ => s.tokRead w p.uid 0 p.tok os true false none (How.by u .units)
  | .stq v => s.tokWrite w p.uid 0 p.tok (os.zip (bytesOfNat 256 v.toNat)) (some p.pc) .cr (How.by u .units)
  | .strel c v => s.tokWrite w p.uid 0 p.tok (os.zip (bytesOfNat 256 v.toNat)) none c (How.by u .units)
  | .upd o t v => s.tokUpdate w p o t v u
  | .eng _ => ⟨s, none, Acct.none, Seen.none⟩

/-- What the end of a memory word leaves in its core: the line of an `ldq`, the interval of a `strel` (R217, R219). -/
def Core.wordEffect (k : Core) (p : LsPend) (b : List Byte) : Core :=
  match p.op with
  | .ldq q slot => k.fillSlot .ld q slot (BitVec.ofNat 2048 (natOfBytes b))
  | .strel _ _ => { k with st := { k.st with flow := { k.st.flow with interval := k.st.flow.interval + 1 } } }
  | _ => k

/-- A memory word writes. -/
def LsOp.writes : LsOp → Bool
  | .ldq _ _ => false
  | _ => true

/-- A memory word waits for an earlier word of the sequencer to overlapping bytes that is not performed yet (R92), for an earlier remote write of
the core to them (R92, R93), and, where it writes, for an earlier command of the sequencer that has still to read them (R94). -/
def State.lsMustWait (s : State) (c : CoreId) (st : Bool) (p : LsPend) : Bool :=
  let os := offs p.off 256
  (((s.core c).lseq st).pend.any fun e =>
    match e.op with
    | .eng _ => false
    | _ => e.uid < p.uid && !e.done && s.mayOverlap c p.tok os e.tok (offs e.off 256)) ||
  s.afterRemote c p.uid p.tok os || (p.op.writes && s.readFirst c (if st then .st else .ld) 0 p.uid p.tok os [])

/-- `LDST_WORD_COMPLETE` (R212, R213): the k-th memory word of LD or ST that has not posted is performed, or a part of it. -/
def execLdstWordComplete (c : CoreId) (t : Bool) (k : Work Nat) (s : State) : Host.Outcome State Fault Refusal :=
  let u := k.part
  let k := k.item
  match ((s.core c).lseq t).pend[k]? with
  | none => .next s
  | some p =>
    if p.done || s.lsMustWait c t p then .next s
    else
      let w : Who := ⟨c, if t then .st else .ld, 0⟩
      let g := s.wordAccess w p u
      match g.data with
      | none => .next g.s
      | some b =>
        let wait := match p.op with | .ldq _ _ | .strel _ _ => true | _ => false
        let s := if wait then g.s.dropReqs (dieOf c) p.uid else g.s
        let s := s.modCore c fun k => (k.wordEffect p b).wordDone t p.uid
        .next (s.charge w p.pc g.acct)

/-- `HELD_COMPLETION_POST` (R13): a held completion post is applied once its counter has room, and later words post. -/
def execHeldCompletionPost (c : CoreId) (t a : Bool) (s : State) : Host.Outcome State Fault Refusal :=
  .next (s.modCore c fun k =>
    let q : Seq := if t then .st else .ld
    let l := k.lseq t
    let n := if a then ringSa q else ringSb q
    if (if a then l.heldSa else l.heldSb) && k.rings.at n != 63 then
      let k := k.modLseq t fun l => if a then { l with heldSa := false } else { l with heldSb := false }
      (k.post q n).drain t l.pend.length
    else k)

end Sys2Proof.Machine
end

