-- ==== Sys2Proof/Machine/L2Cmds.lean ====
section
/-! DEFINITION. The commands of the L2 bank ALUs and of the Warren (R282 to R293), and ordered-slot reductions (R88, R287, R288). -/

namespace Sys2Proof.Machine

/-! ## Element updates (R284, R286) -/

/-- The new target element of a `bk` (R284), none where nothing is written: target t, source x, second register v. -/
def bankNew (o : BkOp) (ty : Ty) (v t x : Nat) : Option Nat :=
  let w := tyBits ty
  let u := t % 2 ^ w
  let y := x % 2 ^ w
  let fl := ty.isFloat
  let p := tyPrec ty
  match o with
  | .add => some (updCombine .add ty u y)
  | .min => some (updCombine .min ty u y)
  | .max => some (updCombine .max ty u y)
  | .and => some (u &&& y)
  | .or => some (u ||| y)
  | .xor => some (u ^^^ y)
  | .swap => some y
  | .cas => if u = v % 2 ^ w then some y else none
  | .sadd => some (fpScaleAdd p (v % 2 ^ 32) y u)
  | .mul => some (if fl then (fpMul p .rne u y).1 else u * y % 2 ^ w)
  | .rq => none
where
  /-- t + s × x with one rounding, s an FP32 value (R284). -/
  fpScaleAdd (p : Prec) (sc x t : Nat) : Nat :=
    match fpVal pF32 sc, fpVal p x, fpVal p t with
    | a, b, c =>
      if a.isNaN || b.isNaN || c.isNaN then fpNaN p
      else match mulVal a b with
      | none => fpNaN p
      | some m => (addVal p .rne m c).1

/-- A block record of codes and scale (R285, R77, R80, R81): none of its roundings leaves a flag. -/
def mkRecord (ty : Ty) (xs : List FV) : List Byte :=
  let w := mxWidth ty
  let c := (mxScale w xs).1
  let codes := xs.map fun x => mxStore w (mxCode w c x).1
  let body := if w = 4 then bytesOfNat 16 (ofLanes 4 codes) else codes.map (BitVec.ofNat 8)
  let scale := bytesOfNat 2 c
  let n := recSize ty
  body ++ scale ++ List.replicate (n - body.length - 2) 0

/-! ## Sources in local space (R282) -/

/-- Which bytes of local space a read reaches, once its pieces are answered (R196, R202, R213). -/
def State.locHas (s : State) (w : Who) (uid pb : Nat) (addrs : List Nat) : List Bool :=
  let ps := numbered pb (s.farPieces w.core addrs)
  addrs.map fun a =>
    match s.reach w.core a with
    | .spad _ _ => true
    | .nothing => false
    | .far .. =>
      match ps.find? fun p => p.2.1 ≤ a && a < p.2.1 + p.2.2.1 with
      | none => false
      | some p => match s.answerOf w.die uid p.1 with
        | some r => match r.answer with
          | some l => !r.failed && decide (1 + a - p.2.1 < l.length)
          | none => false
        | none => false

/-- Elements of n bytes of a byte list, each with a flag byte that says whether the source reaches all of it. -/
def flagged (n : Nat) : Nat → List Byte → List Bool → List Byte
  | 0, _, _ => []
  | k + 1, b, h => (if (h.take n).all id then 1 else 0) :: b.take n ++ flagged n k (b.drop n) (h.drop n)

/-- The elements of a flagged list, none where the source does not reach one. -/
def unflagged (n : Nat) : Nat → List Byte → List (Option (List Byte))
  | 0, _ => []
  | k + 1, b => (if b.headD 0 = 1 then some ((b.drop 1).take n) else none) :: unflagged n k (b.drop (n + 1))

/-- Reads the source of a bank or fabric command: e elements of n bytes, kept in `opA` with their flags (stage 1); `u` names one of the parts that
are left, none all of them. -/
def State.readSource (s : State) (d : Cmd) (u : Option Nat) (addr n e : Nat) : Option Cmd × State :=
  if d.stage ≠ 0 then (some d, s)
  else
    let addrs := (List.range (e * n)).map fun i => (addr + i) % 2 ^ 32
    let has_ := s.under d (fun s => s.locHas d.who d.uid 0 addrs) fun _ r => r
    let g := s.cmdLocRead d 0 addrs (How.by u .sectors)
    match g.data with
    | none => (none, g.s)
    | some b =>
      let d := { d.owe g.acct with stage := 1, opA := flagged n e b has_ }
      (some d, g.s.modCmd d.uid fun _ => d)

/-! ## bk (R284, R286) -/

/-- The scope of an element update (R276, R282). -/
def bankScope (c : CoreId) (key : Nat) : Scope := if atPeer key || homeDie key ≠ dieOf c then .pk else .dl

/-- Writes whole records or elements at their home, past every L1. -/
def State.homePut (s : State) (keys : List Nat) (b : List Byte) : State :=
  ((linesOf keys).foldl (fun s l => s.homeWrite l) s).putBytes (keys.zip b)

/-- One element update at its places (R282, R284): the old bytes, none while it is between its read and its write (R354), and its
charges. -/
def State.bankElement (s : State) (ow : Owner) (w : Who) (watched : Bool) (o : BkOp) (ty : Ty) (v : Nat) (places : List (Nat × Bool))
    (x : List Byte) (seen : Seen := Seen.none) : Got :=
  let keys := places.map (·.1)
  let key := keys.headD 0
  let sc := bankScope w.core key
  let f := fun (old : Nat) => bankNew o ty v old (natOfBytes x)
  if o ≠ .rq && keys == (List.range keys.length).map (key + ·) then s.atomicAt ow w watched sc key keys.length (places.all (·.2)) f seen
  else if s.atomicHeld keys then ⟨s, none, Acct.none, seen⟩
  else
    let r := s.watchIn w watched keys true true sc seen
    let s := (linesOf keys).foldl (fun s l => s.homeWrite l) r.s
    let a := { Acct.none with race := r.race }
    if o = .rq then ⟨s.putBytes (keys.zip x), some [], a, r.seen⟩
    else match s.poisoned keys with
    | some z => ⟨s, some (keys.map fun _ => 0), { a with poison := some z }, r.seen⟩
    | none =>
      let old := keys.map s.mem.get
      let s := match f (natOfBytes old) with
        | none => s
        | some n => s.putBytes (keys.zip (bytesOfNat keys.length n))
      ⟨s, some old, a, r.seen⟩

/-- The operands of the elements of a `bk`: element index, bytes (a record for `rq`). -/
def bankItems (o : BkOp) (ty : Ty) (v e : Nat) (opA : List Byte) : List (Nat × Option (List Byte)) :=
  if o = .rq then
    let n := if v % 2 = 0 then 4 else 2
    let p := if v % 2 = 0 then pF32 else pBF16
    let xs := unflagged n e opA
    (List.range (e / 32)).map fun i =>
      (i, (((xs.drop (32 * i)).take 32).mapM id).map fun l => mkRecord ty (l.map fun b => fpVal p (natOfBytes b)))
  else (List.range e).zip (unflagged (tyBits ty / 8) e opA)

/-- Bytes of a source element of a `bk`. -/
def bankWidth (o : BkOp) (ty : Ty) (v : W64) : Nat := if o = .rq then (if v.toNat % 2 = 0 then 4 else 2) else tyBits ty / 8

/-- The elements of a `bk` are updated, with the old bytes of each (none where it was not): stage 2, in which `opB` holds them with their
flags. -/
def State.bankDone (s : State) (d : Cmd) (b : Nat) (olds : List (Option (List Byte))) (a : Acct) : Option Cmd × State :=
  let d := { d.owe a with stage := 2, opB := olds.flatMap fun x => match x with
    | none => List.replicate (b + 1) 0
    | some l => 1 :: l }
  (some d, (s.dropAccess d.core d.uid (2 ^ 20)).modCmd d.uid fun _ => d)

/-- The element updates of a `bk` that are left, or the n-th of them (R282, R284): the command once none is. -/
def State.bankUpdate (s : State) (d : Cmd) (u : Option Nat) (o : BkOp) (ty : Ty) (tok off v : W64) (e : Nat) : Option Cmd × State :=
  let w := d.who
  let b := bankWidth o ty v
  let n := recSize ty
  let at0 := alignTo n off.toNat
  let items := bankItems o ty v.toNat e d.opA
  match s.lookup d.core d.uid (2 ^ 20) tok (o != .rq) true with
  | (.held, s) => (none, s)
  | (.stale lost, s) => s.bankDone d b (items.map fun _ => none) { Acct.none with stale := true, lost := lost }
  | (.near len runs, s) =>
    let lim := min len (tokLen tok)
    let places := fun (i : Nat) => (offs (at0 + i * n) n).mapM fun q => if q < lim then locate runs q else none
    let a := s.accessOf d.core d.uid (2 ^ 20) (some (.near len runs)) tok
    let did := fun (a : Access) (i : Nat) => a.done.any fun p => p.1 == i * (n + 1)
    let todo := items.filterMap fun it => match it.2, places it.1 with
      | some x, some l => if did a it.1 then none else some (it.1, x, l)
      | _, _ => none
    let now := match u with | none => todo | some k => (todo[k % todo.length]?).toList
    let r := now.foldl (fun (r : State × Access) it =>
      let g := (r.1.keepAccess d.core r.2).bankElement (.item d.core d.uid (2 ^ 20 + it.1)) w (tokWatch tok) o ty v.toNat it.2.2 it.2.1 ⟨r.2.mode, []⟩
      let a := { r.2 with mode := g.seen.mode }
      match g.data with
      | none => (g.s, a)
      | some old => (g.s, { a with acct := a.acct.join g.acct, done := a.done ++ (it.1 * (n + 1), 0) :: numbered (it.1 * (n + 1) + 1) old })) (s, a)
    if todo.all fun it => did r.2 it.1 then
      r.1.bankDone d b (items.map fun it => if did r.2 it.1 then some ((List.range b).map fun t => r.2.byte (it.1 * (n + 1) + 1 + t)) else none)
        { r.2.acct with oox := r.2.acct.oox || items.any fun it => (places it.1).isNone }
    else (none, r.1.keepAccess d.core r.2)
  | (.far len die, s) =>
    let lim := min len (tokLen tok)
    let asid := (s.core d.core).cr.asid
    let inside := fun (i : Nat) => decide ((at0 + i * n) % 2 ^ 64 + n ≤ lim)
    let go := items.filterMap fun it => match it.2 with
      | some x => if inside it.1 then some (it.1, x) else none
      | none => none
    let vb := match o with | .cas => bytesOfNat n v.toNat | .sadd => bytesOfNat 4 v.toNat | _ => []
    let s := s.askAll w.die d.uid (go.map fun it =>
      ⟨2 ^ 20 + it.1, die, 0, 3, BkOp.code o + 16 * Ty.code ty, w.core.val % 192, w.x.val,
        tokTarget tok ((at0 + it.1 * n) % 2 ^ 64) asid, n + vb.length, it.2 ++ vb, w.watching tok .pk⟩)
    let nos := go.map fun it => 2 ^ 20 + it.1
    if nos.all fun p => (s.answerOf w.die d.uid p).isSome then
      let a := s.answerAcct w.die d.uid nos
      let olds := items.map fun it =>
        if go.any fun g => g.1 == it.1 then
          match s.answerOf w.die d.uid (2 ^ 20 + it.1) with
          | some r => if r.flags % 16 = 0 then some ((List.range b).map fun t => s.pieceByte w.die d.uid [(2 ^ 20 + it.1, 0, n)] t) else none
          | none => none
        else none
      s.bankDone d b olds { a with oox := a.oox || items.any fun it => !inside it.1 }
    else (none, s.noteAccess d.core d.uid (2 ^ 20) (.far len die) tok)

/-- A step of a `bk`: stage 0 reads the sources, stage 1 updates the elements, stage 2 writes what it fetched. -/
def State.runBank (s : State) (d : Cmd) (u : Option Nat) (o : BkOp) (ty : Ty) (fetch : Bool) (tok off src v : W64) : State :=
  let b := bankWidth o ty v
  let e := if o = .rq then srcCount src / 32 * 32 else srcCount src
  let n := recSize ty
  if e = 0 then s.finishCmd d Acct.none
  else match s.readSource d u (srcAddr src) b e with
  | (none, s) => s
  | (some d, s) =>
    let (d?, s) :=
      if d.stage = 2 then (some d, s)
      else if s.cmdWaits d tok (offs (alignTo n off.toNat) (e * n)) [] then (none, s)
      else s.bankUpdate d u o ty tok off v e
    match d? with
    | none => s
    | some d =>
      if !fetch then s.finishCmd d Acct.none
      else
        let kv := ((List.range e).zip (unflagged b e d.opB)).flatMap fun p =>
          match p.2 with
          | none => []
          | some l => ((List.range b).map fun t => (srcAddr src + p.1 * b + t) % 2 ^ 32).zip l
        if s.cmdWaits d tok [] (kv.map (·.1)) then s
        else
          let g := s.cmdLocWrite d (2 ^ 40) kv ⟨u, .sectors, fun _ => true, some .any⟩
          match g.data with
          | none => g.s
          | some _ => g.s.finishCmd d g.acct

/-- `bk` (R284, R282). -/
def execBk (y : Ring) (d : Fin 32) (k : Fin 16) (x m : Fin 32) (w : Waits) (o : BkOp) (t : Ty) (f : Bool) (s : State) :
    Host.Outcome State Fault Refusal :=
  s.word (plainWord y (s.wordsOf (.bk y d k x m w o t f))) fun s =>
    s.command 6 m (s.busyRegs [d, d + 1, x]) fun s =>
      let (tok, s) := s.seenK y k
      (s.enqueue y m w (.bank o t f tok (s.regOf x) (s.regOf d) (s.regOf (d + 1)))).2

/-- The discarded parts that an answer counts add to `l2.err` (R288). -/
def State.countDiscards (s : State) (c : CoreId) (r : Req) : State :=
  let n := match r.answer with | some (f :: l) => if bitOf f.toNat 4 then natOfBytes l else 0 | _ => 0
  s.modCore c fun k => k.modCr fun e => { e with l2Err := (List.range n).foldl (fun v _ => satInc v) e.l2Err }

/-- A contribution through a remote token is finished once its requests are answered (R287, R288). -/
def State.redAnswered (s : State) (d : Cmd) (nos : List Nat) (extra : Acct) : State :=
  let die := d.who.die
  if nos.all fun n => (s.answerOf die d.uid n).isSome then
    let s := (nos.filterMap (s.answerOf die d.uid)).foldl (fun s r => s.countDiscards d.core r) s
    s.finishCmd d (extra.join (s.answerAcct die d.uid nos))
  else s

/-- A `bkred` is done once its parts have all been written or discarded: those of its own package (stage 2), or those of which another die has
the pieces, which `parts` numbers (stage 3) (R287, R288). -/
def State.reduceDone (s : State) (d : Cmd) : State :=
  if d.stage = 2 && d.parts.all (·.2) then s.finishCmd d Acct.none
  else if d.stage = 3 then s.redAnswered d (d.parts.map (·.1)) Acct.none
  else s

/-- `BANK_COMMAND_COMPLETE` of a `bk` (R284), to its end or by one of the parts that are left, or of a `bkred` whose parts have all been written or
discarded (R287). -/
def execBankCommandComplete (c : CoreId) (u : Work Nat) (s : State) : Host.Outcome State Fault Refusal :=
  let n := u.part
  let u := u.item
  match s.running c u with
  | none => .next s
  | some d =>
    let (d, s) := s.viewWins d
    match d.body with
    | .bank o ty fetch tok off src v => .next (s.runBank d n o ty fetch tok off src v)
    | .reduce .. => .next (s.reduceDone d)
    | _ => .next s

/-! ## Ordered-slot reduction (R88, R287, R288) -/

/-- An element of a contribution as FP32 (R88). -/
def toF32 (t : Ty) (b : List Byte) : Nat := if t == .bf16 then (fpWiden (natOfBytes b)).1 else natOfBytes b

/-- The 32 elements of a block record as FP32 (R79, R285). -/
def recordF32 (t : Ty) (b : List Byte) : List Nat :=
  let w := mxWidth t
  let n := natOfBytes b
  let sc := scaleOf (bitsOf n (if w = 4 then 128 else 256) 16)
  (List.range 32).map fun j => (mxDeq pF32 .rne w (mxLoad w (laneOf n j (if w = 4 then 4 else 8))) sc).1

/-- A contribution's values, one list for each element or record; an absent one is empty. A block record for plain destinations has been
widened element by element (`sourceOfDest`). -/
def contribValues (t u : Ty) (elems : List (List Byte)) : List (List Nat) :=
  elems.map fun b => if b.isEmpty then [] else if isMx t then (if isMx u then recordF32 t b else [natOfBytes b]) else if t.isFloat then [toF32 t b]
    else [wrapTo 64 (if tySigned t then toSigned (tyBits t) (natOfBytes b) else (natOfBytes b % 2 ^ tyBits t : Nat))]

/-- Values in rank order summed (R88): FP32 in RNE, integers modulo 2^64. -/
def sumRanks (fl : Bool) : List Nat → Nat
  | [] => 0
  | a :: r => r.foldl (fun acc v => if fl then (fpAdd pF32 .rne acc v).1 else (acc + v) % 2 ^ 64) a

/-- The values of the 32-element or one-element groups of a reduction, summed in rank order, as elements of the source type group into
them. -/
def groupSums (fl : Bool) (cs : List (List (List Nat))) (i : Nat) : List Nat :=
  let mine := (cs.map fun c => c.getD i []).filter fun l => !l.isEmpty
  match mine with
  | [] => []
  | l :: _ => (List.range l.length).map fun j => sumRanks fl (mine.map fun m => m.getD j 0)

/-- Groups of n single elements: present only where all of them are. -/
def regroup (n : Nat) (l : List (List Nat)) : List (List Nat) :=
  (List.range (l.length / n)).map fun i =>
    let g := (l.drop (i * n)).take n
    if g.any (·.isEmpty) then [] else g.flatMap id

/-- A summed element or record in the destination type (R88, R285). -/
def destBytes (u : Ty) (vs : List Nat) : List Byte :=
  if isMx u then mkRecord u (vs.map (fpVal pF32))
  else vs.flatMap fun v => bytesOfNat (tyBits u / 8) (if u == .bf16 then (fpNarrow .rne v).1 else v)

/-- Elements of the destination in the order of the part: bytes of each, empty where no contribution has it. -/
def reduceBytes (t u : Ty) (cs : List Contribution) : List (List Byte) :=
  let sorted := cs.mergeSort fun a b => a.rank ≤ b.rank
  let vals := sorted.map fun c =>
    let v := contribValues t u c.elems
    if isMx u && !isMx t then regroup 32 v else v
  let n := (vals.map List.length).foldl Nat.max 0
  let sums := (List.range n).map (groupSums (t.isFloat || isMx t) vals)
  sums.map fun g => if g.isEmpty then [] else destBytes u g

/-- A contribution reaches its home bank (R287, R288): the command or request it comes from, reduction parameters, elements, and the places
of the destination elements. -/
structure Arrival where
  key : Nat
  t : Ty
  u : Ty
  parties : Nat
  rank : Nat
  uid : Nat
  flit : Option Flit
  elems : List (List Byte)
deriving DecidableEq, Repr

/-- What becomes of a contribution: it waits for a free slot, it is discarded, or it is taken. -/
inductive Taken where
  | wait
  | discarded
  | taken
deriving DecidableEq, Repr

/-- The elements a closed reduction writes: its destination lies consecutively from its key (R287). -/
def State.closeWrite (s : State) (key : Nat) (n : Nat) : List (List Byte) → State
  | [] => s
  | b :: r =>
    let s := if b.isEmpty then s else s.homePut ((List.range n).map (key + ·)) b
    State.closeWrite s (key + n) n r

/-- The answer of a reduction to a contributor: its part is written, or discarded (R287, R288). -/
def State.ackPart (s : State) (uid : Nat) (flit : Option Flit) (key : Nat) (bad : Bool) : State :=
  match flit with
  | some f => match s.hub.fab.dieOf f.dst with
    | some d => s.partDone d f bad
    | none => s
  | none =>
    let part := fun (e : Nat × Bool) => if e.1 = key then (key, true) else e
    let s := s.modCmd uid fun d => { d with parts := d.parts.map part }
    if !bad then s
    else
      let owner := coreIds.find? fun c => (s.allCmds c).any fun d => d.uid == uid
      match owner with
      | none => s
      | some c => s.modCore c fun k => k.modCr fun r => { r with l2Err := satInc r.l2Err }

/-- A home bank takes a contribution (R287, R288); the reduction closes when every rank has contributed. -/
def State.contribute (s : State) (die : Fin 4) (a : Arrival) : Taken × State :=
  let e := s.dies.at die
  let new : Contribution := ⟨a.rank, a.uid, a.flit, a.elems⟩
  if a.parties ≤ a.rank then (.discarded, s)
  else
    let red? : Option Reduction := e.reds.find? fun r => r.key == a.key
    let bad := match red? with
      | none => false
      | some r => r.t != a.t || r.u != a.u || r.parties != a.parties || r.count != a.elems.length || r.got.any fun g => g.rank == a.rank
    let full := red?.isNone && decide (16 ≤ (e.reds.filter fun r => bankOf r.key == bankOf a.key).length)
    if bad then (.discarded, s)
    else if full then (.wait, s)
    else
      let r : Reduction := match red? with
        | some r => { r with got := r.got ++ [new] }
        | none => ⟨a.key, a.t, a.u, a.parties, a.elems.length, [new]⟩
      let others := e.reds.filter fun r => r.key != a.key
      if r.got.length < r.parties then (.taken, s.modDie die fun e => { e with reds := others ++ [r] })
      else
        let s := s.modDie die fun e => { e with reds := others }
        let s := s.closeWrite r.key (recSize r.u) (reduceBytes r.t r.u r.got)
        (.taken, r.got.foldl (fun s g => s.ackPart g.uid g.flit r.key false) s)

/-- Cuts numbered places into parts: consecutive places in one stripe (R276, R287). Each part has its start, and the indices of its
destination elements. -/
def partsOf (n : Nat) : List (Nat × Option Nat) → List (Nat × List Nat)
  | [] => []
  | (i, k) :: r =>
    match k, partsOf n r with
    | none, ps => ps
    | some key, (a, is) :: ps =>
      if key + n = a && key / 8192 == a / 8192 && is.headD 0 == i + 1 then (key, i :: is) :: ps else (key, [i]) :: (a, is) :: ps
    | some key, [] => [(key, [i])]

/-- Elements of the source that go with a destination element: one, 32 of plain sources for a record, or the value that the record of a
block gives it, as FP32 (R79). -/
def sourceOfDest (t u : Ty) (elems : List (List Byte)) (is : List Nat) : List (List Byte) :=
  if isMx u && !isMx t then is.flatMap fun i => (elems.drop (32 * i)).take 32
  else if isMx t && !isMx u then is.map fun i =>
    let b := elems.getD (i / 32) []
    if b.isEmpty then [] else bytesOfNat 4 ((recordF32 t b).getD (i % 32) 0)
  else is.map fun i => elems.getD i []

/-- The arrivals of a contribution through local runs, and whether some destination element has no place. -/
def redArrivals (t u : Ty) (parties rank uid : Nat) (flit : Option Flit) (runs : List Run) (lim off e : Nat) (elems : List (List Byte)) :
    List Arrival × Bool :=
  let n := recSize u
  let at0 := alignTo n off
  let dest := (List.range (srcItems u e)).map fun i =>
    let o := (at0 + i * n) % 2 ^ 64
    let ks := (offs o n).mapM fun q => if q < lim then (locate runs q).map (·.1) else none
    (i, match ks with
      | some l => if l == (List.range n).map (l.headD 0 + ·) then l.head? else none
      | none => none)
  ((partsOf n dest).map fun p => ⟨p.1, t, u, parties, rank, uid, flit, sourceOfDest t u elems p.2⟩, dest.any fun p => p.2.isNone)

/-- The places that a contribution's part of the destination takes (R287). -/
def Arrival.places (a : Arrival) : List Nat :=
  (List.range (a.elems.length / (if isMx a.u && !isMx a.t then 32 else 1) * recSize a.u)).map (a.key + ·)

/-- A contribution is watched as an atomic write of its destination (R107; notes/assumptions/27.md). -/
def State.watchArrivals (s : State) (w : Who) (on : Bool) (as : List Arrival) : Bool × State :=
  as.foldl (fun r a =>
    let (b, s) := r.2.watch w on a.places true true (bankScope w.core a.key)
    (r.1 || b, s)) (false, s)

/-- Bytes of an element of a contribution: a source element or record; within a part whose destination is plain, a record's elements have
been widened (`sourceOfDest`). -/
def redWidth (t u : Ty) (part : Bool) : Nat := if part && isMx t && !isMx u then 4 else recSize t

/-- A contribution of a command as it travels to another die, cut into pieces of at most 208 bytes (R305, notes/assumptions/18.md): each
with rank, parties, types, produced mark, count, destination elements within the token, its own number and the number of pieces; then
elements of w bytes, each behind a flag. -/
def Cmd.redPieces (d : Cmd) (t u : Ty) (w parties rank e fits : Nat) (elems : List (List Byte)) : List (List Byte) :=
  let m := 185 / (w + 1)
  let n := max 1 ((elems.length + m - 1) / m)
  (List.range n).map fun i =>
    bytesOfNat 2 rank ++ bytesOfNat 2 parties ++ [BitVec.ofNat 8 (Ty.code t), BitVec.ofNat 8 (Ty.code u),
      BitVec.ofNat 8 ((d.mark.map (·.val)).getD 0)] ++ bytesOfNat 4 e ++ bytesOfNat 4 fits ++ bytesOfNat 4 i ++ bytesOfNat 4 n ++
    ((elems.drop (i * m)).take m).flatMap fun b => if b.isEmpty then 0 :: List.replicate w 0 else 1 :: b

/-- The requests that carry a contribution through a remote token, on a channel (R305). -/
def Cmd.redAsks (d : Cmd) (die : Fin 64) (vc : Fin 4) (target : Nat) (t u : Ty) (parties rank e fits : Nat) (elems : List (List Byte))
    (watch : Option (CoreId × Seq × Fin 4 × Scope)) : List Ask :=
  (numbered (2 ^ 20) (d.redPieces t u (redWidth t u false) parties rank e fits elems)).map fun p =>
    ⟨p.1, die, vc, 3, 0xFF, d.core.val % 192, d.x.val, target, p.2.length, p.2, watch⟩

/-- Contributes the parts of a command that have not been contributed yet. -/
def State.contributeAll (s : State) (d : Cmd) (as : List Arrival) : State :=
  as.foldl (fun s a =>
    match s.allCmds d.core |>.find? fun e => e.uid == d.uid with
    | none => s
    | some c =>
      if c.parts.any fun p => p.1 == a.key then s
      else
        let t := s.modCmd d.uid fun c => { c with parts := c.parts ++ [(a.key, false)] }
        match t.contribute (homeDie a.key) a with
        | (.wait, _) => s
        | (.taken, t) => t
        | (.discarded, t) => t.ackPart d.uid none a.key true) s

/-- Sends or makes the contribution of a `bkred` (R287): stage 1 has the source, stage 2 has contributed every part, stage 3 has sent its pieces to
another die. -/
def State.runReduce (s : State) (d : Cmd) (n : Option Nat) (t u : Ty) (tok off src v : W64) : State :=
  let rank := bitsOf v.toNat 0 16
  let parties := bitsOf v.toNat 16 16
  let e := redCount t u src
  if e = 0 then s.finishCmd d Acct.none
  else match s.readSource d n (srcAddr src) (recSize t) (srcItems t e) with
  | (none, s) => s
  | (some d, s) =>
    let elems := (unflagged (recSize t) (srcItems t e) d.opA).map fun x => x.getD []
    match s.lookup d.core d.uid (2 ^ 20) tok false true with
    | (.held, s) => s
    | (.stale lost, s) => s.finishCmd d { Acct.none with stale := true, lost := lost }
    | (.near len runs, s) =>
      let s := s.noteAccess d.core d.uid (2 ^ 20) (.near len runs) tok
      let (as, oox) := redArrivals t u parties rank d.uid none runs (min len (tokLen tok)) off.toNat e elems
      let (race, s) := if d.parts.isEmpty then s.watchArrivals d.who (tokWatch tok) as else (false, s)
      let s := s.modCmd d.uid fun c => c.owe { Acct.none with oox := oox, race := race }
      let s := s.contributeAll d as
      s.modCmd d.uid fun c => if as.all fun a => c.parts.any fun p => p.1 == a.key then { c with stage := 2 } else c
    | (.far len die, s) =>
      let s := s.noteAccess d.core d.uid (2 ^ 20) (.far len die) tok
      let n := recSize u
      let at0 := alignTo n off.toNat
      let lim := min len (tokLen tok)
      let fits := ((List.range (srcItems u e)).filter fun i => (at0 + i * n) % 2 ^ 64 + n ≤ lim).length
      let asks := d.redAsks die 0 (tokTarget tok at0 (s.core d.core).cr.asid) t u parties rank e fits elems (d.who.watching tok .pk)
      let s := s.askAll d.who.die d.uid asks
      if !s.allAsked d.who.die d.uid (asks.map (·.piece)) then s
      else s.modCmd d.uid fun c => { c.owe { Acct.none with oox := decide (fits < srcItems u e) } with
        stage := 3, parts := asks.map fun a => (a.piece, false) }

/-- `bkred` (R287, R282). -/
def execBkred (y : Ring) (d : Fin 32) (k : Fin 16) (x m : Fin 32) (w : Waits) (t u : Ty) (s : State) : Host.Outcome State Fault Refusal :=
  s.word (plainWord y (s.wordsOf (.bkred y d k x m w t u))) fun s =>
    s.command 6 m (s.busyRegs [d, d + 1, x]) fun s =>
      let (tok, s) := s.seenK y k
      (s.enqueue y m w (.reduce t u tok (s.regOf x) (s.regOf d) (s.regOf (d + 1)))).2

/-- `BKRED_CONTRIBUTION` (R287): a started `bkred` reads its source, whole or by one of the parts that are left, and makes its contribution. -/
def execBkredContribution (c : CoreId) (u : Work Nat) (s : State) : Host.Outcome State Fault Refusal :=
  let n := u.part
  let u := u.item
  match s.running c u with
  | none => .next s
  | some d =>
    let (d, s) := s.viewWins d
    match d.body with
    | .reduce t v tok off src w => .next (if 2 ≤ d.stage then s else s.runReduce d n t v tok off src w)
    | _ => .next s

/-! ## The Warren (R290 to R293) -/

/-- The place of the entry of a queue that a pop or peek names (R291): one of rank 0 to 31, which one, and the order of equal keys, are left
open. -/
def State.chooseEntry (s : State) (l : List WarrenEnt) : Option Nat × State :=
  if l.isEmpty then (none, s)
  else
    let key := fun (i : Nat) => ((l[i]?).map fun e => e.key.toNat).getD 0
    let order := (List.range l.length).mergeSort fun a b => key a ≤ key b
    let (n, s) := s.freeNat
    let least := key (order.getD (n % min 32 l.length) 0)
    let same := (List.range l.length).filter fun i => key i == least
    let (m, s) := s.freeNat
    (some (same.getD (m % same.length) 0), s)

/-- The entry of a queue that a pop removes (R291): one that a pop first found the smallest 31 pops ago, where it is still of rank 0 to 31
(notes/assumptions/61.md), otherwise one left open. -/
def State.popEntry (s : State) (l : List WarrenEnt) : Option Nat × State :=
  let due := (List.range l.length).find? fun i => match l[i]? with
    | some e => decide (31 ≤ e.passed.getD 0) && decide ((l.filter fun f => f.key.toNat < e.key.toNat).length ≤ 31)
    | none => false
  match due with
  | some i => (some i, s)
  | none => s.chooseEntry l

/-- The entries that a pop of the one at a place leaves: each that a pop has found the smallest and passed over counts it, and the smallest one
begins to (R291). -/
def popped (l : List WarrenEnt) (i : Nat) : List WarrenEnt :=
  let least := l.foldl (fun m e => min m e.key.toNat) (2 ^ 32)
  let same := fun (e : WarrenEnt) => e.key.toNat == least
  let spared := ((l[i]?).map fun e => !same e).getD false && !(l.any fun e => same e && e.passed.isSome)
  let first := if spared then l.findIdx? same else none
  (((List.range l.length).zip l).filter fun e => e.1 != i).map fun e =>
    { e.2 with passed := if first = some e.1 then some 1 else e.2.passed.map (· + 1) }

/-- A Warren command is refused (R292). -/
def State.warrenRefuses (s : State) (c : CoreId) (q : WarrenQueue) : Bool := q.cap == 0 || s.partOf c != some q.owner

/-- The results of a command are given at its mark (R292). -/
def State.finishWith (s : State) (d : Cmd) (v1 v2 : W64) (p : Bool) : State :=
  (s.modCore d.core fun k => k.giveResults d.q d.x d.uid (some v1) (some v2) p).finishCmd d Acct.none

/-- `WARREN_COMMAND_PERFORMED` (R290 to R292). -/
def execWarrenCommandPerformed (c : CoreId) (u : Nat) (s : State) : Host.Outcome State Fault Refusal :=
  match s.running c u with
  | none => .next s
  | some d =>
    let die := dieOf c
    let act := fun (q : Fin 64) (f : WarrenQueue → Host.Outcome State Fault Refusal) =>
      let w := (s.dies.at die).warren.at q
      if s.warrenRefuses c w then
        .next ((s.modCore c fun k => k.modCr fun r => { r with l2Err := satInc r.l2Err }).finishWith d 0 0 false)
      else f w
    let set := fun (s : State) (q : Fin 64) (l : List WarrenEnt) =>
      s.modDie die fun e => { e with warren := e.warren.mod q fun w => { w with ents := l } }
    match d.body with
    | .push q key payload => act q fun w =>
      if w.ents.length < w.cap then .next ((set s q (w.ents ++ [⟨key.setWidth 32, payload, none⟩])).finishWith d 0 0 true)
      else .next (s.finishWith d 0 0 false)
    | .pop q => act q fun w =>
      match s.popEntry w.ents with
      | (none, s) => .next (s.finishWith d 0 0 false)
      | (some i, s) =>
        let e := w.ents.getD i ⟨0, 0, none⟩
        .next ((set s q (popped w.ents i)).finishWith d (e.key.setWidth 64) e.payload true)
    | .peek q => act q fun w =>
      match s.chooseEntry w.ents with
      | (none, s) => .next (s.finishWith d 0 0 false)
      | (some i, s) => .next (s.finishWith d ((w.ents.getD i ⟨0, 0, none⟩).key.setWidth 64) (BitVec.ofNat 64 w.ents.length) true)
    | _ => .next s

/-- A Warren command word (R292): its results are awaited. -/
def State.warren (s : State) (y : Ring) (m : Fin 32) (w : Waits) (d1 d2 : Dest) (p : Fin 8) (body : CmdBody) : State :=
  let (uid, s) := s.enqueue y m w body
  s.awaitResult ⟨uid, d1, d2, some p, false⟩

/-- `wq.push` (R292). -/
def execWqPush (y : Ring) (d m : Fin 32) (w : Waits) (p : Fin 8) (q : Fin 64) (s : State) : Host.Outcome State Fault Refusal :=
  s.word (plainWord y (s.wordsOf (.wqPush y d m w p q))) fun s =>
    s.command 7 m (s.busyRegs [d, d + 1] || s.busyP [p]) fun s =>
      s.warren y m w .none .none p (.push q (s.regOf d) (s.regOf (d + 1)))

/-- `wq.pop` (R292). -/
def execWqPop (y : Ring) (d m : Fin 32) (w : Waits) (p : Fin 8) (q : Fin 64) (s : State) : Host.Outcome State Fault Refusal :=
  s.word (plainWord y (s.wordsOf (.wqPop y d m w p q))) fun s =>
    s.command 7 m (s.busyDests [d, d + 1] || s.busyP [p]) fun s =>
      s.warren y m w (s.me.destOf s.cur.x d) (s.me.destOf s.cur.x (d + 1)) p (.pop q)

/-- `wq.peek` (R292). -/
def execWqPeek (y : Ring) (d m : Fin 32) (w : Waits) (p : Fin 8) (q : Fin 64) (s : State) : Host.Outcome State Fault Refusal :=
  s.word (plainWord y (s.wordsOf (.wqPeek y d m w p q))) fun s =>
    s.command 7 m (s.busyDests [d, d + 1] || s.busyP [p]) fun s =>
      s.warren y m w (s.me.destOf s.cur.x d) (s.me.destOf s.cur.x (d + 1)) p (.peek q)

end Sys2Proof.Machine
end

