-- ==== Sys2Proof/Machine/FabCmds.lean ====
section
/-! DEFINITION. The commands of the fabric engine (R311 to R319) and the steps of the engine that run them. -/

namespace Sys2Proof.Machine

/-! ## Groups (R311) -/

/-- A group as a command of a core may use it: the rank of the core's die, and the parties in rank order; none where the command is
refused. -/
def State.groupFor (s : State) (c : CoreId) (g : Fin 64) : Option (Nat × List (Fin 64)) :=
  match s.hub.fab.groups.at g with
  | none => none
  | some r =>
    if s.partOf c != some r.owner then none
    else (r.parties.findIdx? fun p => p == s.hub.fab.dieAddr (dieOf c)).map fun i => (i, r.parties)

/-- The scope of a group (R311). -/
def State.groupScope (s : State) (parties : List (Fin 64)) : Scope :=
  if parties.all fun p => (s.hub.fab.dieOf p.val).isSome then .pk else .sy

/-- A refused or aborted command ends with one count in `fab.err` (R311, R317). -/
def State.refuseFab (s : State) (d : Cmd) : State := s.finishCmd d { Acct.none with failed := true }

/-- A started command of a die's fabric engine. -/
def State.fabRunning (s : State) (die : Fin 4) (u : Nat) : Option Cmd := (s.fabCmd die u).filter fun d => d.started

/-- A request of a command that no token carries. -/
def Cmd.ask (d : Cmd) (piece : Nat) (dst : Fin 64) (vc : Fin 4) (kind op target : Nat) (data : List Byte) : Ask :=
  ⟨piece, dst, vc, kind, op, d.core.val % 192, d.x.val, target, data.length, data, none⟩

/-! ## One-sided copies (R313) -/

/-- `FPUT_COMPLETE` (R313): a started `fput` runs on, to its end or by one of the parts that are left. -/
def execFputComplete (die : Fin 4) (u : Work Nat) (s : State) : Host.Outcome State Fault Refusal :=
  let k := u.part
  let u := u.item
  match s.fabRunning die u with
  | none => .next s
  | some d =>
    let (d, s) := s.viewWins d
    match d.body with
    | .fput tok off loc cnt => .next <|
      let n := moveCount cnt
      if 2 ^ 30 < n then s.refuseFab d
      else if n = 0 then s.finishCmd d Acct.none
      else s.runMove d k (d.move true tok (moveOffs off n) (moveLocs loc n)) State.finishCmd
    | _ => .next s

/-- Window writes of a command are outstanding. -/
def State.postedOf (s : State) (d : Cmd) : Bool := (s.core d.core).aux.posted.any fun p => p.cmd == d.uid

/-- `FGET_COMPLETE` (R313): a started `fget` runs on, to its end or by one of the parts that are left; stage 2 has written every byte and waits for
its window writes to be acknowledged. -/
def execFgetComplete (die : Fin 4) (u : Work Nat) (s : State) : Host.Outcome State Fault Refusal :=
  let k := u.part
  let u := u.item
  match s.fabRunning die u with
  | none => .next s
  | some d =>
    let (d, s) := s.viewWins d
    match d.body with
    | .fget tok off loc cnt => .next <|
      let n := moveCount cnt
      if 2 ^ 30 < n then s.refuseFab d
      else if n = 0 then s.finishCmd d Acct.none
      else if d.stage = 2 then (if s.postedOf d then s else s.finishCmd d Acct.none)
      else s.runMove d k (d.move false tok (moveOffs off n) (moveLocs loc n)) fun s d a =>
        if s.postedOf d then s.modCmd u fun c => { c.owe a with stage := 2 } else s.finishCmd d a
    | _ => .next s

/-- A fabric command word with a register pair (R312). -/
def State.fabWord (s : State) (y : Ring) (d x m : Fin 32) (w : Waits) (body : State → CmdBody × State) : Act :=
  s.command 8 m (s.busyS [d, d + 1, x]) fun s =>
    let (b, s) := body s
    (s.enqueue y m w b).2

/-- `fput` (R313). -/
def execFput (y : Ring) (d : Fin 32) (k : Fin 16) (x m : Fin 32) (w : Waits) (s : State) : Host.Outcome State Fault Refusal :=
  s.word (plainWord y (s.wordsOf (.fput y d k x m w))) fun s => s.fabWord y d x m w fun s =>
    (.fput (s.readK k) (s.readS x) (s.readS d) (s.readS (d + 1)), s)

/-- `fget` (R313). -/
def execFget (y : Ring) (d : Fin 32) (k : Fin 16) (x m : Fin 32) (w : Waits) (s : State) : Host.Outcome State Fault Refusal :=
  s.word (plainWord y (s.wordsOf (.fget y d k x m w))) fun s => s.fabWord y d x m w fun s =>
    (.fget (s.readK k) (s.readS x) (s.readS d) (s.readS (d + 1)), s)

/-! ## Remote atomics (R314) -/

/-- `famo` (R314): both registers of the pair await its result. -/
def execFamo (y : Ring) (d : Fin 32) (k : Fin 16) (x m : Fin 32) (w : Waits) (o : FamoOp) (c : Scope) (z : Bool) (s : State) :
    Host.Outcome State Fault Refusal :=
  s.word (plainWord y (s.wordsOf (.famo y d k x m w o c z))) fun s =>
    s.command 8 m (s.busyS [d, d + 1, x]) fun s =>
      let (uid, s) := s.enqueue y m w (.famo o c z (s.readK k) (s.readS x) (s.readS d) (s.readS (d + 1)))
      s.awaitResult ⟨uid, s.me.destOf s.cur.x d, s.me.destOf s.cur.x (d + 1), none, false⟩

/-- What a `famo` makes of its target (R188, R314). -/
def famoNew (o : FamoOp) (n : Nat) (a b : W64) (old : Nat) : Option Nat :=
  match o with
  | .amo p => some (amoNew p (8 * n) (a.toNat % 2 ^ (8 * n)) old)
  | .cas => casNew (8 * n) a.toNat b.toNat old

/-- An earlier started `famo` of the die through a remote token, not held at a FROZEN entry, has not sent its request yet: the requests leave in the
order the commands start (R308, R312). -/
def State.famoAhead (s : State) (die : Fin 4) (d : Cmd) : Bool :=
  ((s.dies.at die).fabQ.takeWhile fun e => e.uid != d.uid).any fun e => match e.body with
    | .famo _ _ _ tok _ _ _ => e.started && tokRemote tok && (s.reqsOf die e.uid).isEmpty && !s.frozenTok (s.core e.core) tok
    | _ => false

/-- `FAMO_COMPLETE` (R314). -/
def execFamoComplete (die : Fin 4) (u : Nat) (s : State) : Host.Outcome State Fault Refusal :=
  match s.fabRunning die u with
  | none => .next s
  | some d =>
    match d.body with
    | .famo o sc wide tok off a b => .next <|
      let n := if wide then 8 else 4
      let at0 := alignTo n off.toNat
      if (tokRemote tok && s.famoAhead die d) || s.cmdWaits d tok (offs at0 n) [] then s
      else
        let g := s.tokAtomic d.who u 0 tok at0 n true true sc 2 (FamoOp.code o)
          (operandBytes n (match o with | .cas => [a, b] | _ => [a])) (famoNew o n a b)
        match g.data with
        | none => g.s
        | some l => (g.s.modCore d.core fun k => k.giveResults d.q d.x u (some (BitVec.ofNat 64 (natOfBytes l))) none false).finishCmd d g.acct
    | _ => .next s

/-! ## The transposing all-to-all (R315 to R317) -/

/-- A descriptor (R315). -/
structure Desc where
  perm : List Nat
  dd : Nat
  ds : Nat
  n : Nat
  e : Nat
  ext : List Nat
deriving DecidableEq, Repr

/-- The descriptor that 32 bytes hold, none where it is invalid for P parties (R315). -/
def readDesc (p : Nat) (b : List Byte) : Option Desc :=
  let w0 := natOfBytes (b.take 8)
  let g := (List.range 4).map fun j => natOfBytes ((b.drop (8 + 4 * j)).take 4)
  let n := bitsOf w0 8 3
  let d : Desc := ⟨(List.range n).map fun j => bitsOf w0 (16 + 2 * j) 2, bitsOf w0 13 2, bitsOf w0 11 2, n, bitsOf w0 0 8, g.take n⟩
  let ok := [1, 2, 4, 8, 16].contains d.e && decide (1 ≤ n) && decide (n ≤ 4) && decide (d.ds < n) && decide (d.dd < n) &&
    (List.range n).all d.perm.contains && d.ext.all (fun x => decide (1 ≤ x) && decide (x ≤ 2 ^ 24)) && (g.drop n).all (· == 0) &&
    d.ext.getD d.ds 0 % p == 0 && d.ext.getD d.dd 0 % p == 0 && bitsOf w0 24 40 == 0 && bitsOf w0 15 1 == 0 &&
    bitsOf w0 (16 + 2 * n) (8 - 2 * n) == 0 && natOfBytes ((b.drop 24).take 8) == 0
  if ok then some d else none

/-- RowMajor of an index vector over extents, slowest first (R316). -/
def rowMajor (ext ix : List Nat) : Nat := (ext.zip ix).foldl (fun acc e => acc * e.1 + e.2) 0

/-- The index vector of a position in a row-major order. -/
def unRowMajor (ext : List Nat) (k : Nat) : List Nat :=
  (ext.foldr (fun e (r : List Nat × Nat) => (r.2 % e :: r.1, r.2 / e)) ([], k)).1

/-- Extents of the source and destination layouts of a party (R316). -/
def Desc.srcExt (d : Desc) (p : Nat) : List Nat := d.ext.set d.ds (d.ext.getD d.ds 0 / p)
def Desc.dstExt (d : Desc) (p : Nat) : List Nat :=
  d.perm.map fun j => if j = d.dd then d.ext.getD j 0 / p else d.ext.getD j 0

/-- Elements of a party's source. -/
def Desc.srcCount (d : Desc) (p : Nat) : Nat := (d.srcExt p).foldl (· * ·) 1

/-- Where element k of the source of rank r goes: the destination rank and the byte offset from the destination's start (R316). -/
def Desc.place (d : Desc) (p r k : Nat) : Nat × Nat :=
  let loc := unRowMajor (d.srcExt p) k
  let ix := loc.set d.ds (loc.getD d.ds 0 + r * (d.ext.getD d.ds 0 / p))
  let ld := d.ext.getD d.dd 0 / p
  let q := ix.getD d.dd 0 / ld
  let out := d.perm.map fun j => if j = d.dd then ix.getD j 0 - q * ld else ix.getD j 0
  (q, d.e * rowMajor (d.dstExt p) out)

/-- Elements that a source sends to a destination, as runs of consecutive element numbers cut into pieces of at most 208 bytes (R305,
R316): first element and count. -/
def Desc.pieces (d : Desc) (p r q : Nat) : List (Nat × Nat) :=
  (spans ((List.range (d.srcCount p)).filter fun k => (d.place p r k).1 == q)).flatMap fun t =>
    (cut (t.2 * d.e / 192 + 1) (t.1 * d.e) (t.2 * d.e)).map fun c => (c.1 / d.e, c.2 / d.e)

/-- Elements destined to a party from the others. -/
def Desc.expected (d : Desc) (p q : Nat) : Nat :=
  (((List.range p).filter fun r => r != q).map fun r => ((d.pieces p r q).map (·.2)).sum).sum

/-- The first READY that a die has received from a rank of a group. -/
def Die.readyOf (e : Die) (g : Fin 64) (rank : Nat) : Option ReadyRec := e.ready.find? fun r => r.g == g && r.rank == rank

/-- The READYs an `xall` has compared are used up. -/
def Die.useReady (e : Die) (g : Fin 64) (ranks : List Nat) : Die :=
  ranks.foldl (fun e r => match e.readyOf g r with | some x => { e with ready := e.ready.erase x } | none => e) e

/-- The target word of kinds 6 and 7 (R305). -/
def groupTarget (first rank : Nat) (g : Fin 64) : Nat := first % 2 ^ 32 + rank * 2 ^ 32 + g.val * 2 ^ 38

/-- Ranks other than a rank. -/
def otherRanks (p r : Nat) : List Nat := (List.range p).filter fun q => q != r

/-- `XALL_START` (R317): the command starts, reads its descriptor and sends READY to every other party. `opA` holds the descriptor, empty
where it is invalid; stage 2 has sent. -/
def State.xallStart (s : State) (d : Cmd) (u : Option Nat) (loc : W64) (g : Fin 64) : State :=
  match s.groupFor d.core g with
  | none => s.refuseFab d
  | some (rank, parties) =>
    let rd : Option Cmd × State :=
      if d.stage = 1 then (some d, s)
      else
        let r := s.cmdLocRead d 0 (moveLocs loc 32) (How.by u .sectors)
        (r.data.map fun b => { d.owe r.acct with stage := 1, opA := if (readDesc parties.length b).isSome then b else [] }, r.s)
    match rd with
    | (none, s) => s
    | (some d, s) =>
      let asks := (otherRanks parties.length rank).map fun q => d.ask (2 ^ 20 + q) (parties.getD q 0) 3 6 0 (groupTarget 0 rank g) d.opA
      let s := s.askAll d.who.die d.uid asks
      let sent := s.allAsked d.who.die d.uid (asks.map (·.piece))
      s.modCmd d.uid fun _ => if sent then { d with stage := 2 } else d

def execXallStart (die : Fin 4) (u : Work Nat) (s : State) : Host.Outcome State Fault Refusal :=
  let k := u.part
  let u := u.item
  match s.fabCmd die u with
  | none => .next s
  | some d =>
    match d.body with
    | .xall _ _ _ loc _ g => .next <|
      if !d.started && !s.mayStart d then s
      else
        let s := s.modCmd u fun d => { d with started := true }
        let (d, s) := s.viewWins { d with started := true }
        if d.stage < 2 then s.xallStart d k loc g else s
    | _ => .next s

/-- Elements of a list of numbers, as bytes of a dense source from its start. -/
def elemBytes (e : Nat) (src : List Byte) (k : Nat) : List Byte := (src.drop (k * e)).take e

/-- The own elements of a party, as a move from its source to its destination (R316): it reads all of the source. -/
def Cmd.ownMove (d : Cmd) (ds : Desc) (p rank : Nat) (tok off src so : W64) : Move :=
  let n := ds.srcCount p
  let own := (List.range n).filter fun k => (ds.place p rank k).1 == rank
  let dest := own.flatMap fun k => offs (off.toNat + (ds.place p rank k).2) ds.e
  { stage := 3, base := 2 ^ 21, slots := own.flatMap fun k => (List.range ds.e).map fun t => some (k * ds.e + t),
    waits := fun s => s.cmdWaits d tok dest [],
    read := fun s u => s.tokRead d.who d.uid (2 ^ 21) src (offs so.toNat (n * ds.e)) true false none (How.by u .units),
    write := fun s b u ready => s.tokWrite d.who d.uid (2 ^ 40) tok (dest.zip b) none .cr ⟨u, .units, ready, some .any⟩ }

/-- The pieces that a party sends to the others (R316, R317), once `opB` holds its source. -/
def Cmd.xallAsks (d : Cmd) (ds : Desc) (rank : Nat) (parties : List (Fin 64)) (g : Fin 64) : List Ask :=
  (otherRanks parties.length rank).flatMap fun q => (ds.pieces parties.length rank q).map fun c =>
    d.ask (2 ^ 50 + q * 2 ^ 32 + c.1) (parties.getD q 0) 2 7 0 (groupTarget c.1 rank g) ((d.opB.drop (c.1 * ds.e)).take (c.2 * ds.e))

/-- A step of an `xall` after its READYs (R317): it aborts, or reads its source (stage 3) and writes its own elements (stage 4), sends its pieces
(stage 5) and completes once they are acknowledged and everything for it has been written. -/
def State.xallRun (s : State) (d : Cmd) (u : Option Nat) (tok off src so : W64) (g : Fin 64) : State :=
  match s.groupFor d.core g with
  | none => s.refuseFab d
  | some (rank, parties) =>
    let p := parties.length
    let die := d.who.die
    let others := otherRanks p rank
    let lost := fun (q : Nat) => (s.hub.fab.path (s.hub.fab.dieAddr die).val (parties.getD q 0).val).isNone ||
      (s.answerOf die d.uid (2 ^ 20 + q)).any (·.failed)
    let here := fun (q : Nat) => ((s.dies.at die).readyOf g q)
    if d.stage = 2 then
      if others.any fun q => !lost q && (here q).isNone then s
      else if d.opA.isEmpty || others.any fun q => lost q || (here q).all fun r => r.desc != d.opA then
        (s.modDie die fun e => e.useReady g others).refuseFab d
      else (s.modDie die fun e => e.useReady g others).modCmd d.uid fun d => { d with stage := 3 }
    else match readDesc p d.opA with
    | none => s
    | some ds =>
      if d.stage < 5 then
        s.runMove d u (d.ownMove ds p rank tok off src so) fun s d a => s.modCmd d.uid fun c => { c.owe a with stage := 5 }
      else
        let asks := d.xallAsks ds rank parties g
        let s := s.askAll die d.uid asks
        let got := (d.parts.map (·.1)).sum
        if s.allAnswered die d.uid asks && got == ds.expected p rank then
          s.finishCmd d (s.answerAcct die d.uid (asks.map (·.piece)))
        else s

/-- `XALL_COMPLETE` (R317): an `xall` whose parties agree runs on, to its end or by one of the parts that are left. -/
def execXallComplete (die : Fin 4) (u : Work Nat) (s : State) : Host.Outcome State Fault Refusal :=
  let k := u.part
  let u := u.item
  match s.fabRunning die u with
  | none => .next s
  | some d =>
    match d.body with
    | .xall tok off src _ so g => .next (if d.stage < 2 then s else s.xallRun d k tok off src so g)
    | _ => .next s

/-- `xall` (R315). -/
def execXall (y : Ring) (d : Fin 32) (k : Fin 16) (x m : Fin 32) (w : Waits) (t : Fin 16) (g : Fin 64) (s : State) :
    Host.Outcome State Fault Refusal :=
  s.word (plainWord y (s.wordsOf (.xall y d k x m w t g))) fun s => s.fabWord y d x m w fun s =>
    (.xall (s.readK k) (s.readS x) (s.readK t) (s.readS d) (s.readS (d + 1)) g, s)

/-! ## fred (R318) -/

/-- `fred` (R318). -/
def execFred (y : Ring) (d : Fin 32) (k : Fin 16) (x m : Fin 32) (w : Waits) (t u : Ty) (s : State) : Host.Outcome State Fault Refusal :=
  s.word (plainWord y (s.wordsOf (.fred y d k x m w t u))) fun s => s.fabWord y d x m w fun s =>
    (.fred t u (s.readK k) (s.readS x) (s.readS d) (Fin.ofNat 64 (s.readS (d + 1)).toNat), s)

/-- The requests of the parts of a `fred` whose home is another die of the package: they travel on VC 2 by physical address (R305, R318). -/
def State.fredAsks (s : State) (d : Cmd) (as : List Arrival) : List Ask :=
  let away := as.filter fun a => homeDie a.key ≠ d.who.die
  let pieces := away.flatMap fun a =>
    (d.redPieces a.t a.u (redWidth a.t a.u true) a.parties a.rank a.elems.length 0 a.elems).map fun b => (a.key, b)
  (numbered (2 ^ 20) pieces).map fun p => d.ask p.1 (s.hub.fab.dieAddr (homeDie p.2.1)) 2 8 0 (p.2.1 % 2 ^ 52) p.2.2

/-- The numbers of the pieces of a contribution that a `fred` has sent. -/
def State.fredSent (s : State) (d : Cmd) : List Nat := ((s.reqsOf d.who.die d.uid).map (·.piece)).filter (2 ^ 20 ≤ ·)

/-- A `fred` that has contributed (stage 3) is finished once its parts on its die are acknowledged and its requests answered (R318). -/
def State.fredEnd (s : State) (d : Cmd) : State :=
  match s.fabCmd d.who.die d.uid with
  | none => s
  | some c => if c.stage = 3 && c.parts.all (·.2) then s.redAnswered c (s.fredSent c) Acct.none else s

/-- The contribution of a `fred` through local runs (R318): parts whose home is its die are contributed there, the others travel. Stage 2 has been
watched, once, where the command first contributes (R107); stage 3 has contributed every part. -/
def State.fredNear (s : State) (d : Cmd) (tok : W64) (as : List Arrival) (oox : Bool) : State :=
  let s :=
    if d.stage = 2 then s
    else
      let (race, s) := s.watchArrivals d.who (tokWatch tok) as
      s.modCmd d.uid fun c => { c.owe { Acct.none with race := race, oox := oox } with stage := 2 }
  let here := as.filter fun a => homeDie a.key = d.who.die
  let asks := s.fredAsks d as
  let s := (s.contributeAll d here).askAll d.who.die d.uid asks
  let sent := s.allAsked d.who.die d.uid (asks.map (·.piece))
  s.modCmd d.uid fun c => if sent && here.all fun a => c.parts.any fun p => p.1 == a.key then { c with stage := 3 } else c

/-- `FRED_COMPLETE` (R318): a started `fred` reads its source, whole or by one of the parts that are left, contributes, and completes after the
destination write. -/
def execFredComplete (die : Fin 4) (u : Work Nat) (s : State) : Host.Outcome State Fault Refusal :=
  let k := u.part
  let u := u.item
  match s.fabRunning die u with
  | none => .next s
  | some d =>
    let (d, s) := s.viewWins d
    match d.body with
    | .fred t v tok off src g => .next <|
      match s.groupFor d.core g with
      | none => s.refuseFab d
      | some (rank, parties) =>
        let e := redCount t v src
        let p := parties.length
        if e = 0 then s.finishCmd d Acct.none
        else if d.stage = 3 then s.fredEnd d
        else match s.readSource d k (srcAddr src) (recSize t) (srcItems t e) with
        | (none, s) => s
        | (some d, s) =>
          let elems := (unflagged (recSize t) (srcItems t e) d.opA).map fun x => x.getD []
          match s.lookup d.core u (2 ^ 20) tok false true with
          | (.held, s) => s
          | (.stale lost, s) => s.finishCmd d { Acct.none with stale := true, lost := lost }
          | (.near len runs, s) =>
            let s := s.noteAccess d.core u (2 ^ 20) (.near len runs) tok
            let (as, oox) := redArrivals t v p rank u none runs (min len (tokLen tok)) off.toNat e elems
            (s.fredNear d tok as oox).fredEnd d
          | (.far len dst, s) =>
            let s := s.noteAccess d.core u (2 ^ 20) (.far len dst) tok
            let n := recSize v
            let at0 := alignTo n off.toNat
            let fits := ((List.range (srcItems v e)).filter fun i => (at0 + i * n) % 2 ^ 64 + n ≤ min len (tokLen tok)).length
            let asks := d.redAsks dst 2 (tokTarget tok at0 (s.core d.core).cr.asid) t v p rank e fits elems (d.who.watching tok .pk)
            let s := s.askAll die u asks
            if !s.allAsked die u (asks.map (·.piece)) then s
            else (s.modCmd u fun c => { c.owe { Acct.none with oox := decide (fits < srcItems v e) } with stage := 3 }).fredEnd d
    | _ => .next s

/-! ## fbar (R319) -/

/-- `fbar` (R319). -/
def execFbar (y : Ring) (m : Fin 32) (w : Waits) (g : Fin 64) (s : State) : Host.Outcome State Fault Refusal :=
  s.word (plainWord y (s.wordsOf (.fbar y m w g))) fun s =>
    s.command 8 m false fun s => (s.enqueue y m w (.fbar g)).2

/-- The progress of a group's barriers on a die. -/
def Die.bar (e : Die) (g : Fin 64) : BarState := (e.bars.find? fun b => b.g == g).getD ⟨g, 0, []⟩
def Die.setBar (e : Die) (b : BarState) : Die := { e with bars := b :: e.bars.filter fun c => c.g != b.g }

/-- Arrivals received from a rank. -/
def BarState.of (b : BarState) (rank : Nat) : Nat := ((b.got.find? fun e => e.1 == rank).map (·.2)).getD 0

/-- Remote and window writes of a core that are outstanding (R319). -/
def State.coreWritesOut (s : State) (c : CoreId) : Bool :=
  ((s.dies.at (dieOf c)).reqs.any fun r => match r.loose with | some (d, _, _, _) => d == c | none => false) ||
    !(s.core c).aux.posted.isEmpty

/-- `FBAR_START` (R319): the command starts with its release, then its arrival is counted and sent. `parts` holds the arrival number;
stage 1 has made the arrival, stage 2 has sent it. -/
def execFbarStart (die : Fin 4) (u : Nat) (s : State) : Host.Outcome State Fault Refusal :=
  match s.fabCmd die u with
  | none => .next s
  | some d =>
    match d.body with
    | .fbar g => .next <|
      if !d.started && !s.mayStart d then s
      else
        let s := s.modCmd u fun d => { d with started := true }
        let d := { d with started := true }
        match s.groupFor d.core g with
        | none => s.refuseFab d
        | some (rank, parties) =>
          let s := s.mergeCore d.core
          if d.stage = 2 || s.coreWritesOut d.core then s
          else
            let b := (s.dies.at die).bar g
            let k := if d.stage = 1 then ((d.parts.head?).map (·.1)).getD 0 else b.made + 1
            let s := if d.stage = 1 then s else s.modDie die fun e => e.setBar { b with made := k }
            let asks := (otherRanks parties.length rank).map fun q =>
              d.ask (2 ^ 20 + q) (parties.getD q 0) 3 9 0 (groupTarget k rank g) []
            let s := s.askAll die u asks
            let sent := s.allAsked die u (asks.map (·.piece))
            s.modCmd u fun _ => { d with stage := if sent then 2 else 1, parts := [(k, true)] }
    | _ => .next s

/-- `FBAR_COMPLETE` (R319): every party has made the arrival. -/
def execFbarComplete (die : Fin 4) (u : Nat) (s : State) : Host.Outcome State Fault Refusal :=
  match s.fabRunning die u with
  | none => .next s
  | some d =>
    match d.body with
    | .fbar g => .next <|
      match s.groupFor d.core g with
      | none => s.refuseFab d
      | some (rank, parties) =>
        let k := ((d.parts.head?).map (·.1)).getD 0
        let b := (s.dies.at die).bar g
        if d.stage = 2 && (otherRanks parties.length rank).all fun q => decide (k ≤ b.of q) then
          s.finishCmd d (s.answerAcct die u ((otherRanks parties.length rank).map (2 ^ 20 + ·)))
        else s
    | _ => .next s

end Sys2Proof.Machine
end

