-- ==== Sys2Proof/Machine/ExOps.lean ====
section
/-! DEFINITION. Issuing a word of EX and landing its result (R226 to R233, R243 to R246). -/

namespace Sys2Proof.Machine

/-- Where a word of EX puts its result: a Z operand or a stream register, or a place of another kind. -/
inductive Place where
  | opnd (o : Opnd)
  | other (d : ExDest)
deriving DecidableEq, Repr

/-- The stream register a place names. -/
def Place.stream : Place → Option (Fin 16)
  | .opnd (.q n) => some n
  | _ => none

/-- A word of EX that has its result (R230, R243): its sources are popped, a slot of its destination stream register is bound, and the
result, with its flags, goes in flight to land some EX cycles after the word's own. -/
def State.exSend (s : State) (srcs : List Opnd) (dst : Place) (lat : Nat) (v : Line) (fl : BitVec 7) (lanes : W64) : State :=
  let zb := s.me.ex.zbase
  let s := (Opnd.sources srcs).foldl (fun s q => s.modMe fun k => k.popStream q) s
  let (uid, s) := s.uid
  let dest := match dst with
    | .opnd (.q n) => ExDest.stream n uid
    | .opnd o => .z o zb
    | .other d => d
  let s := match dst.stream with
    | some q =>
      let slot : StreamSlot := ⟨uid, none, 0⟩
      s.modMe fun k => { k with streams := k.streams.mod q (· ++ [slot]) }
    | none => s
  let r : InFlight := ⟨uid, s.me.ex.next + lat, dest, zb, lanes, fl, v, none⟩
  s.modMe fun k => k.modEx fun e => { e with flight := e.flight ++ [r] }

/-- A word of EX (R243): it waits for its stream registers, reads its operands, pops its sources, reserves its slot, and its result goes in
flight. The body gives the value, the flags and the state after any free choice, or fails the checks of R241. -/
def State.exWord (s : State) (srcs : List Opnd) (dst : Place) (lat : Nat) (f : State → Option (Line × BitVec 7 × State))
    (lanes : W64 := BitVec.allOnes 64) : Act :=
  match s.me.streamWait (Opnd.sources srcs) dst.stream with
  | some q => .wait (0x10 + q.val)
  | none =>
    match f s with
    | none => .trap cILLEGAL 3 0
    | some (v, fl, s) => .go (s.exSend srcs dst lat v fl lanes)

/-- Lanes with their flags as a line (R246). -/
def gatherLanes (w : Nat) (l : List (Nat × BitVec 7)) : Line × BitVec 7 :=
  (lineFrom w (l.map (·.1)), l.foldl (fun acc e => acc ||| e.2) 0)

/-- Lanes of a source operand as the word reads it (R244, R245). -/
def State.lanes (s : State) (o : Opnd) (lk : LaneKind) : List Nat := lanesOf lk.width (s.me.source o lk)

/-- One source, lane by lane, in the mode seen (R246). -/
def State.exOne (s : State) (y : Ring) (d a : Opnd) (lk : LaneKind) (lat : Nat) (f : RMode → Nat → Nat × BitVec 7) : Act :=
  s.exWord [a] (.opnd d) lat fun s =>
    let (m, t) := s.seenMode y
    let (v, fl) := gatherLanes lk.width ((s.lanes a lk).map (f m))
    some (v, fl, t)

/-- Two sources, lane by lane. -/
def State.exTwo (s : State) (y : Ring) (d a b : Opnd) (lk : LaneKind) (lat : Nat) (f : RMode → Nat → Nat → Nat × BitVec 7) : Act :=
  s.exWord [a, b] (.opnd d) lat fun s =>
    let (m, t) := s.seenMode y
    let (v, fl) := gatherLanes lk.width (((s.lanes a lk).zip (s.lanes b lk)).map fun e => f m e.1 e.2)
    some (v, fl, t)

/-- Two sources and the destination as addend, lane by lane (R248, R254). -/
def State.exThree (s : State) (y : Ring) (d a b : Opnd) (lk : LaneKind) (lat : Nat) (f : RMode → Nat → Nat → Nat → Nat × BitVec 7) : Act :=
  s.exWord [a, b] (.opnd d) lat fun s =>
    let (m, t) := s.seenMode y
    let l := ((s.lanes a lk).zip (s.lanes b lk)).zip (s.lanes d lk)
    let (v, fl) := gatherLanes lk.width (l.map fun e => f m e.1.1 e.1.2 e.2)
    some (v, fl, t)

/-- Two integer sources, lane by lane, with no flag (R254). -/
def State.exInt (s : State) (d a b : Opnd) (w lat : Nat) (f : Nat → Nat → Nat) : Act :=
  s.exWord [a, b] (.opnd d) lat fun s =>
    some (lineFrom w (((s.lanes a (.int w)).zip (s.lanes b (.int w))).map fun e => f e.1 e.2), 0, s)

/-- A comparison: a mask bit is set where every lane of its 32 bits satisfies the condition (R252). -/
def State.exCompare (s : State) (m : Fin 8) (a b : Opnd) (lk : LaneKind) (lat : Nat) (f : Nat → Nat → Bool × BitVec 7) : Act :=
  s.exWord [a, b] (.other (.mask m)) lat fun s =>
    let r := ((s.lanes a lk).zip (s.lanes b lk)).map fun e => f e.1 e.2
    let per := 32 / lk.width
    let bits := (List.range 64).map fun j => (((r.drop (j * per)).take per).all (·.1)).toNat
    some (BitVec.ofNat 2048 (ofLanes 1 bits), r.foldl (fun acc e => acc ||| e.2) 0, s)

/-- A selection by lm0, read at issue (R253). -/
def State.exSelect (s : State) (d a b : Opnd) (lk : LaneKind) : Act :=
  s.exWord [a, b] (.opnd d) 1 fun s =>
    let x := s.me.source a lk
    let y := s.me.source b lk
    some (lineOf32 fun j => if (s.me.ex.lm.at 0).getLsbD j then laneOf x.toNat j 32 else laneOf y.toNat j 32, 0, s)

end Sys2Proof.Machine
end

