-- ==== Sys2Proof/Machine/ExFp.lean ====
section
/-! DEFINITION. The floating-point words of EX (R248 to R253): each rounds once in the mode it sees at its issue (R246). -/

namespace Sys2Proof.Machine

/-- `fadd.f32` (R248). -/
def execFaddF32 (y : Ring) (d a b : Opnd) (s : State) : Host.Outcome State Fault Refusal :=
  s.word (plainWord y (s.wordsOf (.faddF32 y d a b))) fun s => s.exTwo y d a b .f32 3 fun m => fpAdd pF32 m

/-- `fadd.bf16` (R248). -/
def execFaddBf16 (y : Ring) (d a b : Opnd) (s : State) : Host.Outcome State Fault Refusal :=
  s.word (plainWord y (s.wordsOf (.faddBf16 y d a b))) fun s => s.exTwo y d a b .bf16 3 fun m => fpAdd pBF16 m

/-- `fsub.f32` (R248). -/
def execFsubF32 (y : Ring) (d a b : Opnd) (s : State) : Host.Outcome State Fault Refusal :=
  s.word (plainWord y (s.wordsOf (.fsubF32 y d a b))) fun s => s.exTwo y d a b .f32 3 fun m => fpSub pF32 m

/-- `fsub.bf16` (R248). -/
def execFsubBf16 (y : Ring) (d a b : Opnd) (s : State) : Host.Outcome State Fault Refusal :=
  s.word (plainWord y (s.wordsOf (.fsubBf16 y d a b))) fun s => s.exTwo y d a b .bf16 3 fun m => fpSub pBF16 m

/-- `fmul.f32` (R248). -/
def execFmulF32 (y : Ring) (d a b : Opnd) (s : State) : Host.Outcome State Fault Refusal :=
  s.word (plainWord y (s.wordsOf (.fmulF32 y d a b))) fun s => s.exTwo y d a b .f32 4 fun m => fpMul pF32 m

/-- `fmul.bf16` (R248). -/
def execFmulBf16 (y : Ring) (d a b : Opnd) (s : State) : Host.Outcome State Fault Refusal :=
  s.word (plainWord y (s.wordsOf (.fmulBf16 y d a b))) fun s => s.exTwo y d a b .bf16 4 fun m => fpMul pBF16 m

/-- `fma.f32` (R248). -/
def execFmaF32 (y : Ring) (d a b : Opnd) (s : State) : Host.Outcome State Fault Refusal :=
  s.word (plainWord y (s.wordsOf (.fmaF32 y d a b))) fun s => s.exThree y d a b .f32 4 fun m => fpFma pF32 m false false

/-- `fma.bf16` (R248). -/
def execFmaBf16 (y : Ring) (d a b : Opnd) (s : State) : Host.Outcome State Fault Refusal :=
  s.word (plainWord y (s.wordsOf (.fmaBf16 y d a b))) fun s => s.exThree y d a b .bf16 4 fun m => fpFma pBF16 m false false

/-- `fms.f32` (R248). -/
def execFmsF32 (y : Ring) (d a b : Opnd) (s : State) : Host.Outcome State Fault Refusal :=
  s.word (plainWord y (s.wordsOf (.fmsF32 y d a b))) fun s => s.exThree y d a b .f32 4 fun m => fpFma pF32 m false true

/-- `fms.bf16` (R248). -/
def execFmsBf16 (y : Ring) (d a b : Opnd) (s : State) : Host.Outcome State Fault Refusal :=
  s.word (plainWord y (s.wordsOf (.fmsBf16 y d a b))) fun s => s.exThree y d a b .bf16 4 fun m => fpFma pBF16 m false true

/-- `fnma.f32` (R248). -/
def execFnmaF32 (y : Ring) (d a b : Opnd) (s : State) : Host.Outcome State Fault Refusal :=
  s.word (plainWord y (s.wordsOf (.fnmaF32 y d a b))) fun s => s.exThree y d a b .f32 4 fun m => fpFma pF32 m true false

/-- `fnma.bf16` (R248). -/
def execFnmaBf16 (y : Ring) (d a b : Opnd) (s : State) : Host.Outcome State Fault Refusal :=
  s.word (plainWord y (s.wordsOf (.fnmaBf16 y d a b))) fun s => s.exThree y d a b .bf16 4 fun m => fpFma pBF16 m true false

/-- `fmax.f32` (R249). -/
def execFmaxF32 (y : Ring) (d a b : Opnd) (s : State) : Host.Outcome State Fault Refusal :=
  s.word (plainWord y (s.wordsOf (.fmaxF32 y d a b))) fun s => s.exTwo y d a b .f32 3 fun _ => fpMinMax pF32 true

/-- `fmax.bf16` (R249). -/
def execFmaxBf16 (y : Ring) (d a b : Opnd) (s : State) : Host.Outcome State Fault Refusal :=
  s.word (plainWord y (s.wordsOf (.fmaxBf16 y d a b))) fun s => s.exTwo y d a b .bf16 3 fun _ => fpMinMax pBF16 true

/-- `fmin.f32` (R249). -/
def execFminF32 (y : Ring) (d a b : Opnd) (s : State) : Host.Outcome State Fault Refusal :=
  s.word (plainWord y (s.wordsOf (.fminF32 y d a b))) fun s => s.exTwo y d a b .f32 3 fun _ => fpMinMax pF32 false

/-- `fmin.bf16` (R249). -/
def execFminBf16 (y : Ring) (d a b : Opnd) (s : State) : Host.Outcome State Fault Refusal :=
  s.word (plainWord y (s.wordsOf (.fminBf16 y d a b))) fun s => s.exTwo y d a b .bf16 3 fun _ => fpMinMax pBF16 false

/-- `fcmp.f32` (R252). -/
def execFcmpF32 (y : Ring) (c : Cond) (m : Fin 8) (a b : Opnd) (s : State) : Host.Outcome State Fault Refusal :=
  s.word (plainWord y (s.wordsOf (.fcmpF32 y c m a b))) fun s => s.exCompare m a b .f32 3 fun x y => fpCmp pF32 c x y

/-- `fcmp.bf16` (R252). -/
def execFcmpBf16 (y : Ring) (c : Cond) (m : Fin 8) (a b : Opnd) (s : State) : Host.Outcome State Fault Refusal :=
  s.word (plainWord y (s.wordsOf (.fcmpBf16 y c m a b))) fun s => s.exCompare m a b .bf16 3 fun x y => fpCmp pBF16 c x y

/-- `fsel.f32` (R253). -/
def execFselF32 (y : Ring) (d a b : Opnd) (s : State) : Host.Outcome State Fault Refusal :=
  s.word (plainWord y (s.wordsOf (.fselF32 y d a b))) fun s => s.exSelect d a b .f32

/-- `fsel.bf16` (R253). -/
def execFselBf16 (y : Ring) (d a b : Opnd) (s : State) : Host.Outcome State Fault Refusal :=
  s.word (plainWord y (s.wordsOf (.fselBf16 y d a b))) fun s => s.exSelect d a b .bf16

/-- `funa.f32` (R250). -/
def execFunaF32 (y : Ring) (d a : Opnd) (o : FunaOp) (s : State) : Host.Outcome State Fault Refusal :=
  s.word (plainWord y (s.wordsOf (.funaF32 y d a o))) fun s => s.exOne y d a .f32 3 fun m => fpFuna o m

/-- `exp2.f32` (R251). -/
def execExp2F32 (y : Ring) (d a : Opnd) (s : State) : Host.Outcome State Fault Refusal :=
  s.word (plainWord y (s.wordsOf (.exp2F32 y d a))) fun s => s.exOne y d a .f32 8 fun m => fpExp2 m

/-- `lg2.f32` (R251). -/
def execLg2F32 (y : Ring) (d a : Opnd) (s : State) : Host.Outcome State Fault Refusal :=
  s.word (plainWord y (s.wordsOf (.lg2F32 y d a))) fun s => s.exOne y d a .f32 8 fun m => fpLg2 m

/-- `rcp.f32` (R251). -/
def execRcpF32 (y : Ring) (d a : Opnd) (s : State) : Host.Outcome State Fault Refusal :=
  s.word (plainWord y (s.wordsOf (.rcpF32 y d a))) fun s => s.exOne y d a .f32 8 fun m => fpRcp m

/-- `rsq.f32` (R251). -/
def execRsqF32 (y : Ring) (d a : Opnd) (s : State) : Host.Outcome State Fault Refusal :=
  s.word (plainWord y (s.wordsOf (.rsqF32 y d a))) fun s => s.exOne y d a .f32 8 fun m => fpRsq m

end Sys2Proof.Machine
end

