-- ==== Sys2Proof/Machine/ExInt.lean ====
section
/-! DEFINITION. The integer and logic words of EX (R252, R254, R255): they set no flag. -/

namespace Sys2Proof.Machine

/-- Shifts of a lane of width w by an unsigned count (R254). -/
def laneShl (w a b : Nat) : Nat := if w ≤ b then 0 else a * 2 ^ b % 2 ^ w
def laneShr (w a b : Nat) : Nat := if w ≤ b then 0 else a / 2 ^ b
def laneSra (w a b : Nat) : Nat := wrapTo w (toSigned w a / (2 ^ (if w ≤ b then w else b) : Nat))

/-- Sums and differences of lanes: modulo 2^w, saturating signed, saturating unsigned (R254). -/
def laneAdd (w a b : Nat) : Nat := (a + b) % 2 ^ w
def laneSub (w a b : Nat) : Nat := (a + 2 ^ w - b % 2 ^ w) % 2 ^ w
def laneAddS (w a b : Nat) : Nat := wrapTo w (satS w (toSigned w a + toSigned w b))
def laneSubS (w a b : Nat) : Nat := wrapTo w (satS w (toSigned w a - toSigned w b))
def laneAddN (w a b : Nat) : Nat := wrapTo w (satN w ((a : Int) + b))
def laneSubN (w a b : Nat) : Nat := wrapTo w (satN w ((a : Int) - b))

/-- A product, and a product added, modulo 2^w (R254). -/
def laneMul (w a b : Nat) : Nat := a * b % 2 ^ w
def laneMac (w a b d : Nat) : Nat := (d + a * b) % 2 ^ w

/-- `iadd.i32` (R254). -/
def execIaddI32 (y : Ring) (d a b : Opnd) (s : State) : Host.Outcome State Fault Refusal :=
  s.word (plainWord y (s.wordsOf (.iaddI32 y d a b))) fun s => s.exInt d a b 32 1 (laneAdd 32)

/-- `iadd.i16` (R254). -/
def execIaddI16 (y : Ring) (d a b : Opnd) (s : State) : Host.Outcome State Fault Refusal :=
  s.word (plainWord y (s.wordsOf (.iaddI16 y d a b))) fun s => s.exInt d a b 16 1 (laneAdd 16)

/-- `iadd.i8` (R254). -/
def execIaddI8 (y : Ring) (d a b : Opnd) (s : State) : Host.Outcome State Fault Refusal :=
  s.word (plainWord y (s.wordsOf (.iaddI8 y d a b))) fun s => s.exInt d a b 8 1 (laneAdd 8)

/-- `iadd.i32.s` (R254). -/
def execIaddI32S (y : Ring) (d a b : Opnd) (s : State) : Host.Outcome State Fault Refusal :=
  s.word (plainWord y (s.wordsOf (.iaddI32S y d a b))) fun s => s.exInt d a b 32 1 (laneAddS 32)

/-- `iadd.i16.s` (R254). -/
def execIaddI16S (y : Ring) (d a b : Opnd) (s : State) : Host.Outcome State Fault Refusal :=
  s.word (plainWord y (s.wordsOf (.iaddI16S y d a b))) fun s => s.exInt d a b 16 1 (laneAddS 16)

/-- `iadd.i8.s` (R254). -/
def execIaddI8S (y : Ring) (d a b : Opnd) (s : State) : Host.Outcome State Fault Refusal :=
  s.word (plainWord y (s.wordsOf (.iaddI8S y d a b))) fun s => s.exInt d a b 8 1 (laneAddS 8)

/-- `iadd.n32.s` (R254). -/
def execIaddN32S (y : Ring) (d a b : Opnd) (s : State) : Host.Outcome State Fault Refusal :=
  s.word (plainWord y (s.wordsOf (.iaddN32S y d a b))) fun s => s.exInt d a b 32 1 (laneAddN 32)

/-- `iadd.n16.s` (R254). -/
def execIaddN16S (y : Ring) (d a b : Opnd) (s : State) : Host.Outcome State Fault Refusal :=
  s.word (plainWord y (s.wordsOf (.iaddN16S y d a b))) fun s => s.exInt d a b 16 1 (laneAddN 16)

/-- `iadd.n8.s` (R254). -/
def execIaddN8S (y : Ring) (d a b : Opnd) (s : State) : Host.Outcome State Fault Refusal :=
  s.word (plainWord y (s.wordsOf (.iaddN8S y d a b))) fun s => s.exInt d a b 8 1 (laneAddN 8)

/-- `isub.i32` (R254). -/
def execIsubI32 (y : Ring) (d a b : Opnd) (s : State) : Host.Outcome State Fault Refusal :=
  s.word (plainWord y (s.wordsOf (.isubI32 y d a b))) fun s => s.exInt d a b 32 1 (laneSub 32)

/-- `isub.i16` (R254). -/
def execIsubI16 (y : Ring) (d a b : Opnd) (s : State) : Host.Outcome State Fault Refusal :=
  s.word (plainWord y (s.wordsOf (.isubI16 y d a b))) fun s => s.exInt d a b 16 1 (laneSub 16)

/-- `isub.i8` (R254). -/
def execIsubI8 (y : Ring) (d a b : Opnd) (s : State) : Host.Outcome State Fault Refusal :=
  s.word (plainWord y (s.wordsOf (.isubI8 y d a b))) fun s => s.exInt d a b 8 1 (laneSub 8)

/-- `isub.i32.s` (R254). -/
def execIsubI32S (y : Ring) (d a b : Opnd) (s : State) : Host.Outcome State Fault Refusal :=
  s.word (plainWord y (s.wordsOf (.isubI32S y d a b))) fun s => s.exInt d a b 32 1 (laneSubS 32)

/-- `isub.i16.s` (R254). -/
def execIsubI16S (y : Ring) (d a b : Opnd) (s : State) : Host.Outcome State Fault Refusal :=
  s.word (plainWord y (s.wordsOf (.isubI16S y d a b))) fun s => s.exInt d a b 16 1 (laneSubS 16)

/-- `isub.i8.s` (R254). -/
def execIsubI8S (y : Ring) (d a b : Opnd) (s : State) : Host.Outcome State Fault Refusal :=
  s.word (plainWord y (s.wordsOf (.isubI8S y d a b))) fun s => s.exInt d a b 8 1 (laneSubS 8)

/-- `isub.n32.s` (R254). -/
def execIsubN32S (y : Ring) (d a b : Opnd) (s : State) : Host.Outcome State Fault Refusal :=
  s.word (plainWord y (s.wordsOf (.isubN32S y d a b))) fun s => s.exInt d a b 32 1 (laneSubN 32)

/-- `isub.n16.s` (R254). -/
def execIsubN16S (y : Ring) (d a b : Opnd) (s : State) : Host.Outcome State Fault Refusal :=
  s.word (plainWord y (s.wordsOf (.isubN16S y d a b))) fun s => s.exInt d a b 16 1 (laneSubN 16)

/-- `isub.n8.s` (R254). -/
def execIsubN8S (y : Ring) (d a b : Opnd) (s : State) : Host.Outcome State Fault Refusal :=
  s.word (plainWord y (s.wordsOf (.isubN8S y d a b))) fun s => s.exInt d a b 8 1 (laneSubN 8)

/-- `imul.i32` (R254). -/
def execImulI32 (y : Ring) (d a b : Opnd) (s : State) : Host.Outcome State Fault Refusal :=
  s.word (plainWord y (s.wordsOf (.imulI32 y d a b))) fun s => s.exInt d a b 32 1 (laneMul 32)

/-- `imul.i16` (R254). -/
def execImulI16 (y : Ring) (d a b : Opnd) (s : State) : Host.Outcome State Fault Refusal :=
  s.word (plainWord y (s.wordsOf (.imulI16 y d a b))) fun s => s.exInt d a b 16 1 (laneMul 16)

/-- `imul.i8` (R254). -/
def execImulI8 (y : Ring) (d a b : Opnd) (s : State) : Host.Outcome State Fault Refusal :=
  s.word (plainWord y (s.wordsOf (.imulI8 y d a b))) fun s => s.exInt d a b 8 1 (laneMul 8)

/-- `imac.i32` (R254). -/
def execImacI32 (y : Ring) (d a b : Opnd) (s : State) : Host.Outcome State Fault Refusal :=
  s.word (plainWord y (s.wordsOf (.imacI32 y d a b))) fun s => s.exThree y d a b (.int 32) 1 fun _ x y z => (laneMac 32 x y z, 0)

/-- `imac.i16` (R254). -/
def execImacI16 (y : Ring) (d a b : Opnd) (s : State) : Host.Outcome State Fault Refusal :=
  s.word (plainWord y (s.wordsOf (.imacI16 y d a b))) fun s => s.exThree y d a b (.int 16) 1 fun _ x y z => (laneMac 16 x y z, 0)

/-- `imac.i8` (R254). -/
def execImacI8 (y : Ring) (d a b : Opnd) (s : State) : Host.Outcome State Fault Refusal :=
  s.word (plainWord y (s.wordsOf (.imacI8 y d a b))) fun s => s.exThree y d a b (.int 8) 1 fun _ x y z => (laneMac 8 x y z, 0)

/-- `iand` (R254). -/
def execIand (y : Ring) (d a b : Opnd) (s : State) : Host.Outcome State Fault Refusal :=
  s.word (plainWord y (s.wordsOf (.iand y d a b))) fun s => s.exInt d a b 32 1 fun x y => x &&& y

/-- `ior` (R254). -/
def execIor (y : Ring) (d a b : Opnd) (s : State) : Host.Outcome State Fault Refusal :=
  s.word (plainWord y (s.wordsOf (.ior y d a b))) fun s => s.exInt d a b 32 1 fun x y => x ||| y

/-- `ixor` (R254). -/
def execIxor (y : Ring) (d a b : Opnd) (s : State) : Host.Outcome State Fault Refusal :=
  s.word (plainWord y (s.wordsOf (.ixor y d a b))) fun s => s.exInt d a b 32 1 fun x y => x ^^^ y

/-- `ishl.i32` (R254). -/
def execIshlI32 (y : Ring) (d a b : Opnd) (s : State) : Host.Outcome State Fault Refusal :=
  s.word (plainWord y (s.wordsOf (.ishlI32 y d a b))) fun s => s.exInt d a b 32 1 (laneShl 32)

/-- `ishl.i16` (R254). -/
def execIshlI16 (y : Ring) (d a b : Opnd) (s : State) : Host.Outcome State Fault Refusal :=
  s.word (plainWord y (s.wordsOf (.ishlI16 y d a b))) fun s => s.exInt d a b 16 1 (laneShl 16)

/-- `ishl.i8` (R254). -/
def execIshlI8 (y : Ring) (d a b : Opnd) (s : State) : Host.Outcome State Fault Refusal :=
  s.word (plainWord y (s.wordsOf (.ishlI8 y d a b))) fun s => s.exInt d a b 8 1 (laneShl 8)

/-- `ishr.i32` (R254). -/
def execIshrI32 (y : Ring) (d a b : Opnd) (s : State) : Host.Outcome State Fault Refusal :=
  s.word (plainWord y (s.wordsOf (.ishrI32 y d a b))) fun s => s.exInt d a b 32 1 (laneShr 32)

/-- `ishr.i16` (R254). -/
def execIshrI16 (y : Ring) (d a b : Opnd) (s : State) : Host.Outcome State Fault Refusal :=
  s.word (plainWord y (s.wordsOf (.ishrI16 y d a b))) fun s => s.exInt d a b 16 1 (laneShr 16)

/-- `ishr.i8` (R254). -/
def execIshrI8 (y : Ring) (d a b : Opnd) (s : State) : Host.Outcome State Fault Refusal :=
  s.word (plainWord y (s.wordsOf (.ishrI8 y d a b))) fun s => s.exInt d a b 8 1 (laneShr 8)

/-- `isra.i32` (R254). -/
def execIsraI32 (y : Ring) (d a b : Opnd) (s : State) : Host.Outcome State Fault Refusal :=
  s.word (plainWord y (s.wordsOf (.israI32 y d a b))) fun s => s.exInt d a b 32 1 (laneSra 32)

/-- `isra.i16` (R254). -/
def execIsraI16 (y : Ring) (d a b : Opnd) (s : State) : Host.Outcome State Fault Refusal :=
  s.word (plainWord y (s.wordsOf (.israI16 y d a b))) fun s => s.exInt d a b 16 1 (laneSra 16)

/-- `isra.i8` (R254). -/
def execIsraI8 (y : Ring) (d a b : Opnd) (s : State) : Host.Outcome State Fault Refusal :=
  s.word (plainWord y (s.wordsOf (.israI8 y d a b))) fun s => s.exInt d a b 8 1 (laneSra 8)

/-- `imin.i32` (R254). -/
def execIminI32 (y : Ring) (d a b : Opnd) (s : State) : Host.Outcome State Fault Refusal :=
  s.word (plainWord y (s.wordsOf (.iminI32 y d a b))) fun s => s.exInt d a b 32 1 (intMinMax 32 true false)

/-- `imin.i16` (R254). -/
def execIminI16 (y : Ring) (d a b : Opnd) (s : State) : Host.Outcome State Fault Refusal :=
  s.word (plainWord y (s.wordsOf (.iminI16 y d a b))) fun s => s.exInt d a b 16 1 (intMinMax 16 true false)

/-- `imin.i8` (R254). -/
def execIminI8 (y : Ring) (d a b : Opnd) (s : State) : Host.Outcome State Fault Refusal :=
  s.word (plainWord y (s.wordsOf (.iminI8 y d a b))) fun s => s.exInt d a b 8 1 (intMinMax 8 true false)

/-- `imin.n32` (R254). -/
def execIminN32 (y : Ring) (d a b : Opnd) (s : State) : Host.Outcome State Fault Refusal :=
  s.word (plainWord y (s.wordsOf (.iminN32 y d a b))) fun s => s.exInt d a b 32 1 (intMinMax 32 false false)

/-- `imin.n16` (R254). -/
def execIminN16 (y : Ring) (d a b : Opnd) (s : State) : Host.Outcome State Fault Refusal :=
  s.word (plainWord y (s.wordsOf (.iminN16 y d a b))) fun s => s.exInt d a b 16 1 (intMinMax 16 false false)

/-- `imin.n8` (R254). -/
def execIminN8 (y : Ring) (d a b : Opnd) (s : State) : Host.Outcome State Fault Refusal :=
  s.word (plainWord y (s.wordsOf (.iminN8 y d a b))) fun s => s.exInt d a b 8 1 (intMinMax 8 false false)

/-- `imax.i32` (R254). -/
def execImaxI32 (y : Ring) (d a b : Opnd) (s : State) : Host.Outcome State Fault Refusal :=
  s.word (plainWord y (s.wordsOf (.imaxI32 y d a b))) fun s => s.exInt d a b 32 1 (intMinMax 32 true true)

/-- `imax.i16` (R254). -/
def execImaxI16 (y : Ring) (d a b : Opnd) (s : State) : Host.Outcome State Fault Refusal :=
  s.word (plainWord y (s.wordsOf (.imaxI16 y d a b))) fun s => s.exInt d a b 16 1 (intMinMax 16 true true)

/-- `imax.i8` (R254). -/
def execImaxI8 (y : Ring) (d a b : Opnd) (s : State) : Host.Outcome State Fault Refusal :=
  s.word (plainWord y (s.wordsOf (.imaxI8 y d a b))) fun s => s.exInt d a b 8 1 (intMinMax 8 true true)

/-- `imax.n32` (R254). -/
def execImaxN32 (y : Ring) (d a b : Opnd) (s : State) : Host.Outcome State Fault Refusal :=
  s.word (plainWord y (s.wordsOf (.imaxN32 y d a b))) fun s => s.exInt d a b 32 1 (intMinMax 32 false true)

/-- `imax.n16` (R254). -/
def execImaxN16 (y : Ring) (d a b : Opnd) (s : State) : Host.Outcome State Fault Refusal :=
  s.word (plainWord y (s.wordsOf (.imaxN16 y d a b))) fun s => s.exInt d a b 16 1 (intMinMax 16 false true)

/-- `imax.n8` (R254). -/
def execImaxN8 (y : Ring) (d a b : Opnd) (s : State) : Host.Outcome State Fault Refusal :=
  s.word (plainWord y (s.wordsOf (.imaxN8 y d a b))) fun s => s.exInt d a b 8 1 (intMinMax 8 false true)

/-- `icmp.i32` (R252). -/
def execIcmpI32 (y : Ring) (c : Cond) (m : Fin 8) (a b : Opnd) (s : State) : Host.Outcome State Fault Refusal :=
  s.word (plainWord y (s.wordsOf (.icmpI32 y c m a b))) fun s => s.exCompare m a b (.int 32) 1 fun x y => (intCmp 32 c x y, 0)

/-- `icmp.i16` (R252). -/
def execIcmpI16 (y : Ring) (c : Cond) (m : Fin 8) (a b : Opnd) (s : State) : Host.Outcome State Fault Refusal :=
  s.word (plainWord y (s.wordsOf (.icmpI16 y c m a b))) fun s => s.exCompare m a b (.int 16) 1 fun x y => (intCmp 16 c x y, 0)

/-- `icmp.i8` (R252). -/
def execIcmpI8 (y : Ring) (c : Cond) (m : Fin 8) (a b : Opnd) (s : State) : Host.Outcome State Fault Refusal :=
  s.word (plainWord y (s.wordsOf (.icmpI8 y c m a b))) fun s => s.exCompare m a b (.int 8) 1 fun x y => (intCmp 8 c x y, 0)

/-- `zli` (R255). -/
def execZli (y : Ring) (d : Opnd) (m : BitVec 14) (s : State) : Host.Outcome State Fault Refusal :=
  s.word (plainWord y (s.wordsOf (.zli y d m))) fun s =>
    s.exWord [] (.opnd d) 1 fun s => some (lineOf32 fun _ => (m.signExtend 32).toNat, 0, s)

end Sys2Proof.Machine
end

