-- ==== Sys2Proof/Machine/ExMove.lean ====
section
/-! DEFINITION. Movement, reductions, scratchpad rows and masks of EX (R256, R257, R262 to R265). -/

namespace Sys2Proof.Machine

/-- A word that moves 32-bit lanes of one source (R256). -/
def State.exMove (s : State) (d a : Opnd) (lat : Nat) (f : Line → Nat → Nat) : Act :=
  s.exWord [a] (.opnd d) lat fun s =>
    let v := s.me.source a (.int 32)
    some (lineOf32 (f v), 0, s)

/-- `mov` (R256). -/
def execMov (y : Ring) (d a : Opnd) (s : State) : Host.Outcome State Fault Refusal :=
  s.word (plainWord y (s.wordsOf (.mov y d a))) fun s => s.exMove d a 1 fun v j => laneOf v.toNat j 32

/-- `mov` under a lane mask (R256): a stream register takes 0 in the other lanes. -/
def execMovMasked (y : Ring) (d a : Opnd) (m : Fin 8) (s : State) : Host.Outcome State Fault Refusal :=
  s.word (plainWord y (s.wordsOf (.movMasked y d a m))) fun s =>
    let lanes := s.me.ex.lm.at m
    s.exWord [a] (.opnd d) 1 (fun s =>
      let v := s.me.source a (.int 32)
      some (lineOf32 fun j => if lanes.getLsbD j then laneOf v.toNat j 32 else 0, 0, s)) lanes

/-- `bcst` (R256). -/
def execBcst (y : Ring) (d a : Opnd) (c : Fin 64) (s : State) : Host.Outcome State Fault Refusal :=
  s.word (plainWord y (s.wordsOf (.bcst y d a c))) fun s => s.exMove d a 1 fun v _ => laneOf v.toNat c.val 32

/-- `perm` (R256). -/
def execPerm (y : Ring) (d a b : Opnd) (s : State) : Host.Outcome State Fault Refusal :=
  s.word (plainWord y (s.wordsOf (.perm y d a b))) fun s =>
    s.exWord [a, b] (.opnd d) 2 fun s =>
      let v := s.me.source a (.int 32)
      let x := s.me.source b (.int 32)
      some (lineOf32 fun j => laneOf v.toNat (laneOf x.toNat j 32 % 64) 32, 0, s)

/-- `rot` (R256). -/
def execRot (y : Ring) (d a : Opnd) (c : Fin 64) (s : State) : Host.Outcome State Fault Refusal :=
  s.word (plainWord y (s.wordsOf (.rot y d a c))) fun s => s.exMove d a 2 fun v j => laneOf v.toNat ((j + c.val) % 64) 32

/-! ## Reductions (R86, R87, R257) -/

/-- One level of the tree of R86, with the flags of its additions. -/
def treeLevel (m : RMode) : List Nat → List Nat × BitVec 7
  | a :: b :: r =>
    let (v, f) := fpAdd pF32 m a b
    let (l, g) := treeLevel m r
    (v :: l, f ||| g)
  | l => (l, 0)

/-- n levels of the tree of R86. -/
def treeSum (m : RMode) : Nat → List Nat → Nat × BitVec 7
  | 0, l => (l.headD 0, 0)
  | n + 1, l =>
    let (l, f) := treeLevel m l
    let (v, g) := treeSum m n l
    (v, f ||| g)

/-- Prefix sums after a first sum (R87). -/
def scanFrom (m : RMode) (acc : Nat) : List Nat → List Nat × BitVec 7
  | [] => ([], 0)
  | x :: r =>
    let (v, f) := fpAdd pF32 m acc x
    let (l, g) := scanFrom m v r
    (v :: l, f ||| g)

/-- A value as an operation gives it on: a NaN as the canonical one (R71). -/
def fpQuiet (x : Nat) : Nat × BitVec 7 := if (fpVal pF32 x).isNaN then (fpNaN pF32, snanFlag [fpVal pF32 x]) else (x, 0)

/-- Inclusive prefix sums (R87); a NaN in lane 0 is the canonical one too (R71). -/
def scanSum (m : RMode) : List Nat → List Nat × BitVec 7
  | [] => ([], 0)
  | x :: r =>
    let (v, g) := fpQuiet x
    let (l, f) := scanFrom m v r
    (v :: l, g ||| f)

/-- `red.f32` (R257). -/
def execRedF32 (y : Ring) (d a : Opnd) (s : State) : Host.Outcome State Fault Refusal :=
  s.word (plainWord y (s.wordsOf (.redF32 y d a))) fun s =>
    s.exWord [a] (.opnd d) 6 fun s =>
      let (m, t) := s.seenMode y
      let (v, f) := treeSum m 6 (s.lanes a .f32)
      some (lineOf32 fun _ => v, f, t)

/-- `red.i32` (R257). -/
def execRedI32 (y : Ring) (d a : Opnd) (s : State) : Host.Outcome State Fault Refusal :=
  s.word (plainWord y (s.wordsOf (.redI32 y d a))) fun s =>
    s.exWord [a] (.opnd d) 6 fun s => some (lineOf32 fun _ => (s.lanes a (.int 32)).sum % 2 ^ 32, 0, s)

/-- `scan.f32` (R257). -/
def execScanF32 (y : Ring) (d a : Opnd) (s : State) : Host.Outcome State Fault Refusal :=
  s.word (plainWord y (s.wordsOf (.scanF32 y d a))) fun s =>
    s.exWord [a] (.opnd d) 8 fun s =>
      let (m, t) := s.seenMode y
      let (l, f) := scanSum m (s.lanes a .f32)
      some (lineFrom 32 l, f, t)

/-! ## Rows of the own scratchpad (R239, R262, R263) -/

/-- The local addresses of a row of the descriptor pair at an even register (R262). -/
def Ex.rowAddrs (e : Ex) (n : Fin 16) (x : Nat) : List Nat :=
  (List.range 256).map fun i => (rowStart (e.dsc.at n) (e.dsc.at (n + 1)) 0 x + i) % 2 ^ 32

/-- A row in flight toward the scratchpad as a `zld` may see it: each 64-byte sector of it has been written or not (R263). -/
def State.spadSectors (s : State) (c : CoreId) (f : InFlight) (a : Nat) : List Nat → State
  | [] => s
  | x :: r =>
    let (n, s) := s.freeNat
    let s := if n % 2 = 0 then s
      else s.modCore c fun k => (List.range 256).foldl (fun k i =>
        let o := (a + i) % 2 ^ 32
        if o / 64 = x then k.spadSet o (BitVec.ofNat 8 (laneOf f.value.toNat i 8)) else k) k
    s.spadSectors c f a r

/-- The core's scratchpad with each sector that a row in flight will write old or new (R263). -/
def State.raceRows (s : State) (c : CoreId) : State :=
  (s.core c).ex.flight.foldl (fun s f =>
    match f.dest with
    | .spad a => s.spadSectors c f a (((List.range 256).map fun i => (a + i) % 2 ^ 32 / 64).eraseDups)
    | _ => s) s

/-- `zld` (R262): its bytes are read in its issue cycle, those out of extent as 0 and counted once (R203). -/
def execZld (y : Ring) (d : Opnd) (n : Fin 16) (x : Fin 1024) (s : State) : Host.Outcome State Fault Refusal :=
  s.word (plainWord y (s.wordsOf (.zld y d n x))) fun s =>
    s.exWord [] (.opnd d) 6 fun s =>
      let c := s.cur.core
      let t := s.raceRows c
      let (b, oox, t) := t.ownRead c (s.me.ex.rowAddrs n x.val)
      let t := t.modCore c fun k => { k with spad := s.me.spad }
      let t := t.charge ⟨c, .ex, 0⟩ s.myFlow.pc { Acct.none with oox := oox }
      some (BitVec.ofNat 2048 (natOfBytes b), 0, t)

/-- `zst` (R262): its operand is read at issue, its bytes are written two EX cycles later, those out of extent dropped and counted once
(R203). -/
def execZst (y : Ring) (d : Opnd) (n : Fin 16) (x : Fin 1024) (s : State) : Host.Outcome State Fault Refusal :=
  s.word (plainWord y (s.wordsOf (.zst y d n x))) fun s =>
    let c := s.cur.core
    let e := s.me.ex
    let row := rowStart (e.dsc.at n) (e.dsc.at (n + 1)) 0 x.val
    let oox := (e.rowAddrs n x.val).any fun a => (s.ownOffset c a).isNone
    let (on, s) := if oox then s.seen y (fun o => match o with | .ooxTrap v => some v | _ => none) s.me.cr.ooxTrap else (false, s)
    let (uid, s) := s.uid
    let r : InFlight :=
      { uid := uid, land := e.next + 2, dest := .spad ((row + 2 ^ 32 - spadBase c) % 2 ^ 32), zb := e.zbase, lanes := BitVec.allOnes 64, flags := 0,
        value := zRead e.z d e.zbase, oox := if oox then some (s.myFlow.pc, on) else none }
    .go (s.modMe fun k => k.modEx fun e => { e with flight := e.flight ++ [r] })

/-! ## Masks (R264, R265) -/

/-- A result toward a lane mask. -/
def State.exMask (s : State) (d : Fin 8) (v : W64) : Act := s.exWord [] (.other (.mask d)) 1 fun s => some (v.setWidth 2048, 0, s)

/-- `mset` (R264). -/
def execMset (y : Ring) (d : Fin 8) (f c : Fin 128) (s : State) : Host.Outcome State Fault Refusal :=
  s.word (plainWord y (s.wordsOf (.mset y d f c))) fun s => s.exMask d (BitVec.ofNat 64 ((2 ^ c.val - 1) * 2 ^ f.val))

/-- A combination of masks (R265). -/
def mlogVal (o : MlogOp) (a b : W64) : W64 :=
  match o with
  | .and => a &&& b
  | .or => a ||| b
  | .xor => a ^^^ b
  | .andn => a &&& ~~~b
  | .orn => a ||| ~~~b
  | .not => ~~~a

/-- `mlog` (R265). -/
def execMlog (y : Ring) (o : MlogOp) (d a b : Fin 8) (s : State) : Host.Outcome State Fault Refusal :=
  s.word (plainWord y (s.wordsOf (.mlog y o d a b))) fun s => s.exMask d (mlogVal o (s.me.ex.lm.at a) (s.me.ex.lm.at b))

end Sys2Proof.Machine
end

