-- ==== Sys2Proof/Machine/ExQuant.lean ====
section
/-! DEFINITION. Conversion and quantisation words of EX, descriptors and the format table (R238, R241, R242, R258 to R261, R266, R267). -/

namespace Sys2Proof.Machine

/-- The lanes of a conversion (R258): 64 results of the code's width with their flags, and where they stand. -/
def cvtLine (o : CvtOp) (m : RMode) (f32 bf16 int : List Nat) : Line × BitVec 7 :=
  let zeros := List.replicate 64 ((0 : Nat), (0 : BitVec 7))
  match o with
  | .f2blo => gatherLanes 16 (f32.map (fpNarrow m) ++ zeros)
  | .f2bhi => gatherLanes 16 (zeros ++ f32.map (fpNarrow m))
  | .b2flo => gatherLanes 32 ((bf16.take 64).map fpWiden)
  | .b2fhi => gatherLanes 32 ((bf16.drop 64).map fpWiden)
  | .f2i => gatherLanes 32 (f32.map (fpToInt m (-(2 ^ 31)) (2 ^ 31 - 1)))
  | .i2f => gatherLanes 32 (int.map fun v => roundInt pF32 m false (toSigned 32 v) 0)
  | .f2n => gatherLanes 32 (f32.map (fpToInt m 0 (2 ^ 32 - 1)))
  | .n2f => gatherLanes 32 (int.map fun v => roundInt pF32 m false (v : Nat) 0)

/-- `cvt` (R258). -/
def execCvt (y : Ring) (d a : Opnd) (o : CvtOp) (s : State) : Host.Outcome State Fault Refusal :=
  s.word (plainWord y (s.wordsOf (.cvt y d a o))) fun s =>
    s.exWord [a] (.opnd d) 3 fun s =>
      let (m, t) := s.seenMode y
      let (v, f) := cvtLine o m (s.lanes a .f32) (s.lanes a .bf16) (s.lanes a (.int 32))
      some (v, f, t)

/-! ## Quantisation (R79 to R81, R259 to R261) -/

/-- Consecutive groups of 32 of a list. -/
def groups32 : Nat → List α → List (List α)
  | 0, _ => []
  | n + 1, l => l.take 32 :: groups32 n (l.drop 32)

/-- The values of a line as the format entry reads it: FP32 or BF16 lanes (R241, QS). -/
def State.quantLanes (s : State) (a : Opnd) (f : W32) : List FV :=
  if fmtQS f then (s.lanes a .bf16).map (fpVal pBF16) else (s.lanes a .f32).map (fpVal pF32)

/-- Scales of the blocks of a line as four containers, with their flags (R80, R259). -/
def qmaxLine (w : Nat) (xs : List FV) : Line × BitVec 7 :=
  let r := (groups32 (xs.length / 32) xs).map (mxScale w)
  (lineFrom 16 (r.map (·.1)), r.foldl (fun acc e => acc ||| e.2) 0)

/-- `qmax` (R259). -/
def execQmax (y : Ring) (l : Fin 7) (a : Opnd) (s : State) : Host.Outcome State Fault Refusal :=
  s.word (plainWord y (s.wordsOf (.qmax y l a))) fun s =>
    s.exWord [a] (.other .sc) 4 fun s =>
      let f := s.me.ex.fmtOf l
      match qtWidth (fmtQT f) with
      | none => none
      | some w => let (v, fl) := qmaxLine w (s.quantLanes a f); some (v, fl, s)

/-- Codes of a line against four containers, with the containers in bytes 248 to 255, and the flags (R81, R260). -/
def qcvtLine (w : Nat) (sc : Nat → Nat) (xs : List FV) : Line × BitVec 7 :=
  let r := ((List.range xs.length).zip xs).map fun e => mxCode w (sc (e.1 / 32)) e.2
  let codes := ofLanes (if w = 4 then 4 else 8) (r.map fun e => mxStore w e.1)
  (BitVec.ofNat 2048 (codes + ofLanes 16 ((List.range 4).map sc) * 2 ^ 1984), r.foldl (fun acc e => acc ||| e.2) 0)

/-- `qcvt` (R260). -/
def execQcvt (y : Ring) (d a : Opnd) (l : Fin 7) (s : State) : Host.Outcome State Fault Refusal :=
  s.word (plainWord y (s.wordsOf (.qcvt y d a l))) fun s =>
    s.exWord [a] (.opnd d) 3 fun s =>
      let e := s.me.ex
      let f := e.fmtOf l
      match qtWidth (fmtQT f) with
      | none => none
      | some w =>
        let (v, fl) := qcvtLine w (fun j => (e.sc.at (Fin.ofNat 4 j)).toNat) (s.quantLanes a f)
        some (v, fl, s)

/-- A line of codes with its scales as FP32 or BF16 lanes (R79, R261): no flag but NX and OF. -/
def deqLine (w : Nat) (bf : Bool) (m : RMode) (v : Nat) : Line × BitVec 7 :=
  let p := if bf then pBF16 else pF32
  let cw := if w = 4 then 4 else 8
  let (r, fl) := gatherLanes (if bf then 16 else 32) ((List.range (if bf then 128 else 64)).map fun e =>
    mxDeq p m w (mxLoad w (laneOf v e cw)) (scaleOf (laneOf v (124 + e / 32) 16)))
  (r, fl &&& (flNX ||| flOF))

/-- `deq` (R261). -/
def execDeq (y : Ring) (d a : Opnd) (l : Fin 7) (s : State) : Host.Outcome State Fault Refusal :=
  s.word (plainWord y (s.wordsOf (.deq y d a l))) fun s =>
    s.exWord [a] (.opnd d) 3 fun s =>
      let f := s.me.ex.fmtOf l
      match qtWidth (fmtQT f) with
      | none => none
      | some w =>
        let (m, t) := s.seenMode y
        let (v, fl) := deqLine w (fmtQS f) m (s.me.source a (.int 32)).toNat
        some (v, fl, t)

/-! ## Descriptors and formats (R266, R267) -/

/-- The w low bits of a broadcast register toward a register of EX: the result line as it will be written (R233). -/
def State.exSet (s : State) (d : ExDest) (w : Nat) (b : Fin 8) : Act :=
  s.exWord [] (.other d) 1 fun s => some (BitVec.ofNat 2048 ((s.me.ex.b.at b).toNat % 2 ^ w), 0, s)

/-- `dset` (R266). -/
def execDset (y : Ring) (a : Fin 16) (b : Fin 8) (s : State) : Host.Outcome State Fault Refusal :=
  s.word (plainWord y (s.wordsOf (.dset y a b))) fun s => s.exSet (.dsc a) 64 b

/-- `fmtset` of an entry (R267). -/
def execFmtset (y : Ring) (a : Fin 16) (b : Fin 8) (s : State) : Host.Outcome State Fault Refusal :=
  s.word (plainWord y (s.wordsOf (.fmtset y a b))) fun s => s.exSet (.fmt a) 15 b

/-- `fmtset` of `fbase` (R267). -/
def execFmtsetFbase (y : Ring) (b : Fin 8) (s : State) : Host.Outcome State Fault Refusal :=
  s.word (plainWord y (s.wordsOf (.fmtsetFbase y b))) fun s => s.exSet .fbase 4 b

end Sys2Proof.Machine
end

