-- ==== Sys2Proof/Machine/SettCmds.lean ====
section
/-! DEFINITION. The Sett: its arithmetic (R82 to R85), its lease (R17, R268), its commands and their steps (R235 to R240, R269 to R271),
and the landing of EX's results after `halt` (R230). -/

namespace Sys2Proof.Machine

/-! ## Terms and sums (R82 to R85) -/

/-- A subnormal becomes the zero of its sign (R82). -/
def flush32 (v : Nat) : Nat := if bitsOf v 23 8 = 0 then v / 2 ^ 31 % 2 * 2 ^ 31 else v

/-- The term of an MXINT block (R83). -/
def mxTerm (wa wb : Nat) (sa sb : Scale) (as bs : List Int) : Nat :=
  match sa, sb with
  | .nan, _ => fpNaN pF32
  | _, .nan => fpNaN pF32
  | .zero, _ => 0
  | _, .zero => 0
  | .val n e, .val m f =>
    let p := ((as.zip bs).map fun x => x.1 * x.2).sum
    flush32 (roundInt pF32 .rne false (p * (n * m : Nat)) (e + f - ((wa - 2 + (wb - 2) : Nat) : Int))).1

/-- The exponent of the leading bit of a nonzero product. -/
def topOf (p : Bool × Nat × Int) : Int := p.2.2 + (bitLen p.2.1 : Int) - 1

/-- The term of a BF16 block (R84). -/
def bfTerm (as bs : List Nat) : Nat :=
  let ps := (as.zip bs).map fun x =>
    let a := fpVal pBF16 x.1
    let b := fpVal pBF16 x.2
    if a.isNaN || b.isNaN then FV.nan false else (mulVal a b).getD (.nan false)
  if ps.any FV.isNaN || (ps.contains (.inf true) && ps.contains (.inf false)) then fpNaN pF32
  else if ps.contains (.inf false) then fpInf pF32 false
  else if ps.contains (.inf true) then fpInf pF32 true
  else
    let nz := ps.filterMap fun p => match p with | .fin s m e => if m = 0 then none else some (s, m, e) | _ => none
    match nz with
    | [] => 0
    | p :: r =>
      let e := r.foldl (fun acc p => if acc < topOf p then topOf p else acc) (topOf p)
      let u := e - 57
      let s := (nz.map fun p => sgn p.1 (if u ≤ p.2.2 then p.2.1 * 2 ^ (p.2.2 - u).toNat else p.2.1 / 2 ^ (u - p.2.2).toNat)).sum
      flush32 (roundInt pF32 .rne false s u).1

/-- A term added to an accumulator (R82). -/
def accAdd (acc t : Nat) : Nat := flush32 (fpAdd pF32 .rne acc t).1

/-! ## Operands (R77, R239) -/

/-- Bytes of n elements of an operand type. -/
def typeBytes (t n : Nat) : Nat := if t = 1 then 2 * n else if t = 11 then (n + 1) / 2 else n

/-- Local addresses of a block: its physical rows, then its scales (R239). -/
def blockAddrs (p p' : W64) (rows : Nat) (transposed : Bool) (t b : Nat) : List Nat :=
  let pr := if transposed then 32 else rows
  let nb := typeBytes t (if transposed then rows else 32)
  (List.range pr).flatMap (fun x => (List.range nb).map fun i => (rowStart p p' b x + i) % 2 ^ 32) ++
    (if t = 1 then [] else (List.range (2 * rows)).map fun i => (scaleStart p p' b pr + i) % 2 ^ 32)

/-- Element n of packed elements, as stored. -/
def elemOf (t : Nat) (l : List Byte) (n : Nat) : Nat :=
  if t = 1 then natOfBytes ((l.drop (2 * n)).take 2)
  else if t = 11 then laneOf (l.getD (n / 2) 0).toNat (n % 2) 4
  else (l.getD n 0).toNat

/-- The 32 K elements of logical row m of a block read, as stored (R239, R269). -/
def rowElems (t rows : Nat) (transposed : Bool) (l : List Byte) (m : Nat) : List Nat :=
  (List.range 32).map fun k =>
    if transposed then elemOf t (l.drop (k * typeBytes t rows)) m else elemOf t (l.drop (m * typeBytes t 32)) k

/-- The scale container of logical row m of a block read. -/
def rowScale (t rows : Nat) (transposed : Bool) (l : List Byte) (m : Nat) : Scale :=
  let body := if transposed then 32 * typeBytes t rows else rows * typeBytes t 32
  scaleOf (natOfBytes ((l.drop (body + 2 * m)).take 2))

/-- The term that two logical rows of a block give (R83, R84). -/
def blockTerm (at' bt : Nat) (rm rn : Nat) (ta tb : Bool) (a b : List Byte) (m n : Nat) : Nat :=
  let x := rowElems at' rm ta a m
  let y := rowElems bt rn tb b n
  if at' = 1 then bfTerm x y
  else
    let wa := (qtWidth at').getD 8
    let wb := (qtWidth bt).getD 8
    mxTerm wa wb (rowScale at' rm ta a m) (rowScale bt rn tb b n) (x.map (mxLoad wa)) (y.map (mxLoad wb))

/-! ## The lease and the issue of commands (R17, R236, R268 to R271) -/

/-- The Sett of the unit's core. -/
def State.mySett (s : State) : Sett := s.setts.at (settOf s.cur.core)

/-- The core asks for the lease. -/
def State.askLease (s : State) : State :=
  s.modSett (settOf s.cur.core) fun t => if t.waiting.contains s.cur.core then t else { t with waiting := t.waiting ++ [s.cur.core] }

/-- A Sett command word: it acquires the lease, waits for a queue entry and for its produced mark, then enters the queue and is counted; the
64th ends the lease (R17, R20, R236). -/
def State.settWord (s : State) (m : Option (Fin 32)) (w : Waits) (body : CmdBody) : Act :=
  let c := s.cur.core
  let t := s.mySett
  if t.lessee ≠ some c then .waitIn s.askLease 0x2A
  else if 16 ≤ t.queue.length then .wait 0x2A
  else match m.filter fun m => !s.me.markDone m with
  | some m => .wait (0x40 + m.val)
  | none =>
    if s.hub.power.gated then .hold s
    else
      let (uid, s) := s.uid
      let d := s.newCmd uid m w s.me.wins body
      let s := s.modMe fun k => match m with | some m => k.setMark m false | none => k
      let s := s.modSett (settOf c) fun t => { t with queue := t.queue ++ [d], count := t.count + 1 }
      .go (if 64 ≤ t.count + 1 then s.endLease c else s)

/-- The tile allotment of the core (R237). -/
def State.allotment (s : State) : Nat := match s.me.aux.run with | some r => r.op.allot | none => 0

/-- The types of a format entry make a product (R82, R241). -/
def fmtPair (f : W32) : Bool :=
  (fmtAT f == 1 && fmtBT f == 1) || ((qtWidth (fmtAT f)).isSome && (qtWidth (fmtBT f)).isSome)

/-- `mma` and `mmaz` (R238, R241, R269). -/
def State.product (s : State) (clear : Bool) (n : Fin 64) (a b : Fin 16) (l : Fin 7) (u v : Bool) : Act :=
  let e := s.me.ex
  let pa := e.dsc.at a
  let pa' := e.dsc.at (a + 1)
  let pb := e.dsc.at b
  let pb' := e.dsc.at (b + 1)
  let f := e.fmtOf l
  let m := dRows pa'
  let k := dRows pb'
  if s.allotment ≤ n.val || m < 1 || 128 < m || k < 1 || 64 < k || (dWait pb' && dMark pb' == dMark pa') || !fmtPair f then
    .trap cILLEGAL 3 0
  else
    s.settWord (some (dMark pa')) ⟨if dWait pb' then some (dMark pb') else none, none, none⟩ (.mma clear n.val pa pa' pb pb' u v f)

/-- `lse` (R268). -/
def execLse (y : Ring) (s : State) : Host.Outcome State Fault Refusal :=
  s.word (plainWord y (s.wordsOf (.lse y))) fun s =>
    if s.mySett.lessee = some s.cur.core then .go s else .waitIn s.askLease 0x2A

/-- `lsr` (R268). -/
def execLsr (y : Ring) (s : State) : Host.Outcome State Fault Refusal :=
  s.word (plainWord y (s.wordsOf (.lsr y))) fun s => .go (s.endLease s.cur.core)

/-- `mma` (R269). -/
def execMma (y : Ring) (c : Fin 64) (a b : Fin 16) (l : Fin 7) (u v : Bool) (s : State) : Host.Outcome State Fault Refusal :=
  s.word (plainWord y (s.wordsOf (.mma y c a b l u v))) fun s => s.product false c a b l u v

/-- `mmaz` (R269). -/
def execMmaz (y : Ring) (c : Fin 64) (a b : Fin 16) (l : Fin 7) (u v : Bool) (s : State) : Host.Outcome State Fault Refusal :=
  s.word (plainWord y (s.wordsOf (.mmaz y c a b l u v))) fun s => s.product true c a b l u v

/-- `mmov` (R238, R241, R270). -/
def execMmov (y : Ring) (c : Fin 64) (a : Fin 16) (l : Fin 7) (s : State) : Host.Outcome State Fault Refusal :=
  s.word (plainWord y (s.wordsOf (.mmov y c a l))) fun s =>
    let e := s.me.ex
    let pd' := e.dsc.at (a + 1)
    let f := e.fmtOf l
    let m := dRows pd'
    if s.allotment ≤ c.val || m < 1 || 128 < m || fmtOT f = 3 || (fmtOT f = 2 && (qtWidth (fmtQT f)).isNone) then .trap cILLEGAL 3 0
    else s.settWord (some (dMark pd')) ⟨none, none, none⟩ (.mmov c.val (e.dsc.at a) pd' f)

/-- `mclr` (R271). -/
def execMclr (y : Ring) (c : Fin 64) (s : State) : Host.Outcome State Fault Refusal :=
  s.word (plainWord y (s.wordsOf (.mclr y c))) fun s =>
    if s.allotment ≤ c.val then .trap cILLEGAL 3 0 else s.settWord none ⟨none, none, none⟩ (.mclr c.val)

/-! ## Steps of the Sett -/

/-- `EX_RESULT_LANDS` (R230): a core cycle after EX has issued `halt`. -/
def execExResultLands (c : CoreId) (s : State) : Host.Outcome State Fault Refusal :=
  let k := s.core c
  .next (if k.mode == .running && k.ex.flow.halted && !k.aux.hold && k.aux.trap.isNone then s.exTick c else s)

/-- The core of a group that the round-robin reaches first (R17). -/
def nextLessee (last : Fin 12) (l : List CoreId) : Option CoreId :=
  l.foldl (fun acc c =>
    let key := fun (d : CoreId) => ((inGroup d).val + 11 - last.val) % 12
    match acc with
    | none => some c
    | some d => if key c < key d then some c else some d) none

/-- `LEASE_GRANT` (R17). -/
def execLeaseGrant (g : Fin 64) (s : State) : Host.Outcome State Fault Refusal :=
  let t := s.setts.at g
  match t.lessee, nextLessee t.last t.waiting with
  | none, some c => .next (s.modSett g fun t => { t with lessee := some c, count := 0, waiting := t.waiting.filter fun d => d != c })
  | _, _ => .next s

/-- The command that a Sett runs: the oldest that no pre-emption holds back (R236). -/
def State.settHead (s : State) (g : Fin 64) : Option Cmd := (s.setts.at g).queue.find? fun d => !s.heldBack d

/-- Changes a command of a Sett's queue. -/
def State.modSettCmd (s : State) (g : Fin 64) (u : Nat) (f : Cmd → Cmd) : State :=
  s.modSett g fun t => { t with queue := t.queue.map fun d => if d.uid == u then f d else d }

/-- A Sett access of a core is charged to its EX (R43, R203). -/
def State.chargeSett (s : State) (d : Cmd) (oox : Bool) : State := s.charge d.who d.pc { Acct.none with oox := oox }

/-- The addresses of all blocks of an operand. -/
def operandAddrs (p p' : W64) (kb : Nat) (t : Bool) (ty : Nat) : List Nat :=
  (List.range kb).flatMap fun b => blockAddrs p p' (dRows p') t ty b

/-- The addresses that a Sett command reads: those of its A operand, then those of its B operand. -/
def CmdBody.settReads : CmdBody → List Nat × List Nat
  | .mma _ _ pa pa' pb pb' ta tb f => (operandAddrs pa pa' (dKb pa') ta (fmtAT f), operandAddrs pb pb' (dKb pa') tb (fmtBT f))
  | _ => ([], [])

/-- The places of addresses in a core's own scratchpad (R203). -/
def State.ownPlaces (s : State) (c : CoreId) (addrs : List Nat) : List (Option Nat) := addrs.map fun a => (s.ownOffset c a).map fun _ => a

/-- Reads of a Sett command: all that is left, or one of the sectors that are left, whole (R103). -/
def State.settRead (s : State) (d : Cmd) (addrs : List Nat) (u : Option Nat) : Got :=
  let places := s.ownPlaces d.core addrs
  let a := s.localAccess d.core d.uid 0
  let todo := a.todo places
  let now := (How.by u .sectors).pick (positions places) todo
  if a.done.isEmpty && now.length == todo.length then
    let r := s.ownRead d.core addrs
    ⟨r.2.2, some r.1, { Acct.none with oox := r.2.1 }, Seen.none⟩
  else
    let r := s.ownRead d.core (now.map fun i => addrs.getD i 0)
    let b := { a with done := a.done ++ now.zip r.1 }
    if now.length == todo.length then
      ⟨r.2.2.dropAccess d.core d.uid 0, some ((List.range addrs.length).map b.byte), { Acct.none with oox := places.any (·.isNone) }, Seen.none⟩
    else ⟨r.2.2.keepAccess d.core b, none, Acct.none, Seen.none⟩

/-- `SETT_OPERANDS_READ` (R103, R240, R269): the command at the head, its awaited mark complete, reads its operands, or one more of their
sectors; after the last its mark completes. -/
def execSettOperandsRead (g : Work (Fin 64)) (s : State) : Host.Outcome State Fault Refusal :=
  let u := g.part
  let g := g.item
  match s.settHead g with
  | none => .next s
  | some d =>
    match d.body with
    | .mma .. =>
      if d.marked || (!d.started && !(s.core d.core).waitsDone d.waits) then .next s
      else
        let (a, b) := d.body.settReads
        let r := s.settRead d (a ++ b) u
        match r.data with
        | none => .next (r.s.modSettCmd g d.uid fun d => { d with started := true })
        | some l =>
          let s := r.s.modSettCmd g d.uid fun d =>
            { d with started := true, marked := true, stage := 1, opA := l.take a.length, opB := l.drop a.length }
          let s := s.modCore d.core fun k => match d.mark with | some m => k.setMark m true | none => k
          .next (s.chargeSett d r.acct.oox)
    | _ => .next s

/-- The place of cell (m, n) of a core's tile among the cells of its Sett (R237). -/
def cellAt (c : CoreId) (tile m n : Nat) : Nat := 8192 * (5 * (inGroup c).val + tile) + 64 * m + n

/-- The cells of a tile of a core set to +0.0 (R271). -/
def Sett.clearTile (t : Sett) (c : CoreId) (tile : Nat) : Sett :=
  { t with cells := t.cells.filter fun e => !(cellAt c tile 0 0 ≤ e.1 && e.1 < cellAt c tile 0 0 + 8192) }

/-- The accumulation of a product over its blocks (R82, R269). -/
def Sett.accumulate (t : Sett) (d : Cmd) (tile : Nat) (pa' pb' : W64) (ta tb : Bool) (f : W32) : Sett :=
  let kb := dKb pa'
  let rm := dRows pa'
  let rn := dRows pb'
  let la := (blockAddrs 0 0 rm ta (fmtAT f) 0).length
  let lb := (blockAddrs 0 0 rn tb (fmtBT f) 0).length
  let sum := fun (m n acc : Nat) => (List.range kb).foldl (fun acc b =>
    accAdd acc (blockTerm (fmtAT f) (fmtBT f) rm rn ta tb ((d.opA.drop (b * la)).take la) ((d.opB.drop (b * lb)).take lb) m n)) acc
  { t with cells := (List.range rm).foldl (fun l m => (List.range rn).foldl (fun l n =>
      let p := cellAt d.core tile m n
      cellSet l p (BitVec.ofNat 32 (sum m n (cellGet l p).toNat))) l) t.cells }

/-- The bytes that `mmov` writes for 32 cells: a row, and its scale (R80, R81, R270). -/
def mmovRow (f : W32) (v : List Nat) : List Byte × List Byte :=
  if fmtOT f = 0 then (v.flatMap (bytesOfNat 4), [])
  else if fmtOT f = 1 then (v.flatMap fun x => bytesOfNat 2 (fpNarrow .rne x).1, [])
  else
    let w := (qtWidth (fmtQT f)).getD 8
    let xs := v.map (fpVal pF32)
    let c := (mxScale w xs).1
    let codes := xs.map fun x => mxStore w (mxCode w c x).1
    (if w = 4 then bytesOfNat 16 (ofLanes 4 codes) else codes.map (BitVec.ofNat 8), bytesOfNat 2 c)

/-- The addresses and bytes of an `mmov`, in the order written (R239, R270). -/
def mmovBytes (cells : List (Nat × W32)) (c : CoreId) (tile : Nat) (pd pd' : W64) (f : W32) : List (Nat × Byte) :=
  (List.range (dRows pd')).flatMap fun x => (List.range 2).flatMap fun b =>
    let (row, sc) := mmovRow f ((List.range 32).map fun i => (cellGet cells (cellAt c tile x (32 * b + i))).toNat)
    let at' : Nat → List Byte → List (Nat × Byte) := fun a l => ((List.range l.length).map fun i => (a + i) % 2 ^ 32).zip l
    at' (rowStart pd pd' b x) row ++ at' (scaleStart pd pd' b (dRows pd') + 2 * x) sc

/-- Writes of a Sett command: all that are left, or those to one of the sectors that are left; whether some byte was elsewhere, once all are
made (R93, R203, R270). -/
def State.settWrite (s : State) (d : Cmd) (kv : List (Nat × Byte)) (u : Option Nat) : Option Bool × State :=
  let places := s.ownPlaces d.core (kv.map (·.1))
  let a := s.localAccess d.core d.uid 0
  let todo := a.todo places
  let now := (How.by u .sectors).pick (positions places) todo
  if a.done.isEmpty && now.length == todo.length then
    let r := s.ownWrite d.core kv
    (some r.1, r.2)
  else
    let r := s.ownWrite d.core (now.map fun i => kv.getD i (0, 0))
    if now.length == todo.length then (some (places.any (·.isNone)), r.2.dropAccess d.core d.uid 0)
    else (none, r.2.keepAccess d.core { a with done := a.done ++ now.map fun i => (i, 0) })

/-- `SETT_COMMAND_FINISH` (R236, R269 to R271): the command at the head makes its writes and frees its entry; an `mmov` makes all of them that
are left, or those of one more sector. -/
def execSettCommandFinish (g : Work (Fin 64)) (s : State) : Host.Outcome State Fault Refusal :=
  let u := g.part
  let g := g.item
  match s.settHead g with
  | none => .next s
  | some d =>
    let free := fun (s : State) => s.modSett g fun t => { t with queue := t.queue.filter fun e => e.uid != d.uid }
    match d.body with
    | .mma clear tile _ pa' _ pb' ta tb f =>
      if d.stage ≠ 1 then .next s
      else .next (free (s.modSett g fun t => (if clear then t.clearTile d.core tile else t).accumulate d tile pa' pb' ta tb f))
    | .mmov tile pd pd' f =>
      match s.settWrite d (mmovBytes (s.setts.at g).cells d.core tile pd pd' f) u with
      | (none, s) => .next (s.modSettCmd g d.uid fun d => { d with started := true })
      | (some oox, s) =>
        let s := free (s.modCore d.core fun k => match d.mark with | some m => k.setMark m true | none => k)
        .next (s.chargeSett d oox)
    | .mclr tile => .next (free (s.modSett g fun t => t.clearTile d.core tile))
    | _ => .next s

end Sys2Proof.Machine
end

