-- ==== Sys2Proof/Machine/Fetch.lean ====
section
/-! DEFINITION. Fetching (R11, R46, R63): the next words of a stream in the code extent of its operator, through its instruction cache; and
placing an instruction where the next step fetches it. -/

namespace Sys2Proof.Machine

/-- The code extent of a stream: its runs and its length (R334, R335). -/
def State.codeOf (s : State) (c : CoreId) (q : Seq) : List Run × Nat :=
  match (s.core c).aux.run with
  | none => ([], 0)
  | some r => (r.code.getD (Seq.num q) [], (r.op.code.getD (Seq.num q) (0, 0)).2)

/-- The places of the next two words of the unit that lie within its code extent. -/
def State.fetchKeys (s : State) : List Nat :=
  let (runs, len) := s.codeOf s.cur.core s.cur.q
  let pc := s.myFlow.pc.toNat
  (List.range 8).filterMap fun i => if pc + i < len then (locate runs (pc + i)).map (·.1) else none

/-- Lines that an instruction cache holds: 16 KiB (R11). -/
def codeLines : Nat := 128

/-- The instruction cache of a stream. -/
def State.icacheOf (s : State) (c : CoreId) (q : Seq) : List CodeLine := (s.core c).aux.icache.at (Fin.ofNat 4 (Seq.num q))

/-- The instruction cache of a stream with other lines. -/
def Core.setIcache (k : Core) (q : Seq) (l : List CodeLine) : Core :=
  k.modAux fun a => { a with icache := a.icache.put (Fin.ofNat 4 (Seq.num q)) l }

/-- What a fetch brings: bytes by place, or a poisoned sector that it meets (R281). -/
inductive Fetched where
  | bytes (b : List (Nat × Byte))
  | poison (sector : Nat)
deriving DecidableEq, Repr

/-- The instruction cache of a stream takes a line through its home; which line leaves a full cache is left open (R11). -/
def State.icacheFill (s : State) (c : CoreId) (q : Seq) (line : Nat) : State :=
  let s := s.homeRead line
  let l : CodeLine := ⟨line, s.mem.read (128 * line) 128⟩
  let rest := (s.icacheOf c q).filter fun e => e.line != line
  if rest.length < codeLines then s.modCore c fun k => k.setIcache q (l :: rest)
  else
    let (n, s) := s.freeNat
    s.modCore c fun k => k.setIcache q (l :: rest.eraseIdx (n % rest.length))

/-- The bytes at places of a line, read past the instruction cache, which takes the line. -/
def State.fetchFresh (s : State) (c : CoreId) (q : Seq) (line : Nat) (keys : List Nat) : Fetched × State :=
  match s.poisoned keys with
  | some n => (.poison n, s)
  | none =>
    let s := s.icacheFill c q line
    (.bytes (keys.map fun a => (a, s.mem.get a)), s)

/-- The bytes at places of a line for a stream. Where its instruction cache holds other bytes than the home, whether the line is taken anew is
left open (notes/assumptions/24.md). -/
def State.fetchLine (s : State) (c : CoreId) (q : Seq) (line : Nat) (keys : List Nat) : Fetched × State :=
  match (s.icacheOf c q).find? fun e => e.line == line with
  | none => s.fetchFresh c q line keys
  | some l =>
    let old := keys.map fun a => (a, l.bytes.getD (a % 128) 0)
    if (s.poisoned keys).isNone && old == keys.map fun a => (a, s.mem.get a) then (.bytes old, s)
    else
      let (n, s) := s.freeNat
      if n % 2 = 0 then (.bytes old, s) else s.fetchFresh c q line keys

/-- The bytes at places of several lines. -/
def State.fetchLines (c : CoreId) (q : Seq) (keys : List Nat) : List Nat → State → Fetched × State
  | [], s => (.bytes [], s)
  | l :: r, s =>
    match s.fetchLine c q l (keys.filter fun a => lineOf a == l) with
    | (.poison n, s) => (.poison n, s)
    | (.bytes b, s) =>
      match State.fetchLines c q keys r s with
      | (.poison n, s) => (.poison n, s)
      | (.bytes b', s) => (.bytes (b ++ b'), s)

/-- The unit fetches what lies at its PC. -/
def State.fetch (s : State) : Fetched × State :=
  let keys := s.fetchKeys
  State.fetchLines s.cur.core s.cur.q keys (linesOf keys) s

/-- Bytes by place, in the order of a list of places. -/
def bytesAt (b : List (Nat × Byte)) (keys : List Nat) : List Byte :=
  keys.map fun a => ((b.find? fun e => e.1 == a).map (·.2)).getD 0

/-- A word that fails a check of R63: ILLEGAL_ENCODING with its detail, precisely, at the stream's turn. -/
def State.illegalWord (s : State) (n : Nat) : State :=
  if !s.mayIssue then s
  else match s.myFlow.due with
  | d :: _ => s.takeDue d
  | [] => s.trapHere cILLEGAL n 0

/-- A word fetched from a poisoned sector is an uncorrectable error consumed (R281). -/
def State.fetchError (s : State) (sector : Nat) : State := if s.mayIssue then s.consumePoison s.cur.core sector else s

/-- An operator record without loops, tokens or allotment, for the machine's own placing of a word. -/
def OpRec.plain : OpRec :=
  { spad := 0, dep := false, spill := 4096, frame := 32, wq := 0, resident := false, asid := 0, pinbase := 0, tvec := 0, nphase := 0,
    allot := 0, code := [(0, 8), (0, 8), (0, 8), (0, 8)], levels := [], budgets := [], fmt := [], phases := [], toks := [] }

/-- A tile run of such an operator. -/
def TileRun.plain : TileRun :=
  { op := OpRec.plain, addr := 0, queue := 0, launch := 0, packet := 0, tag := 0, record := 0, ordinal := 0, ix := [], code := [], toks := [] }

/-- Core 0 about to fetch two words that stand at the start of HBM, in a stream: its code extent is those words, its instruction cache empty. -/
def State.placeWords (s : State) (q : Seq) (bs : List Byte) : State :=
  let run : Run := ⟨Config.hbmBase, bs.length, 0, false⟩
  let keys := (List.range bs.length).map (Config.hbmBase + ·)
  let s : State := { s with mem := s.mem.write Config.hbmBase bs, poison := s.poison.filter fun x => !(keys.map sectorOf).contains x,
                            agenda := [.issue 0 q 0] }
  s.modCore 0 fun k =>
    let r := k.aux.run.getD TileRun.plain
    let code := (r.op.code ++ List.replicate (4 - r.op.code.length) (0, 0)).set (Seq.num q) (0, bs.length)
    let runs := (r.code ++ List.replicate (4 - r.code.length) []).set (Seq.num q) [run]
    let k := { k with mode := .running }
    let k := k.modAux fun a => { a with run := some { r with op := { r.op with code := code }, code := runs }, hold := false, trap := none }
    let k := k.modCtx 0 fun d => { d with live := true, link := none, xl := none }
    let k := k.setIcache q []
    k.modFlow q 0 fun f => { f with pc := 0, halted := false, posted := false, due := [] }

end Sys2Proof.Machine
end

