-- ==== Sys2Proof/Machine/Words.lean ====
section
/-! DEFINITION. The blocking wait that holds a stream's next word in this cycle (R117). -/

namespace Sys2Proof.Machine

/-- What the word of a stream does at its turn; a step of another agent is no word. -/
def State.wordTurn (i : Instr) (s : State) : Host.Outcome State Fault Refusal :=
  match i with
  | .nop a0 => execNop a0 s
  | .halt a0 => execHalt a0 s
  | .pbr a0 a1 a2 => execPbr a0 a1 a2 s
  | .br a0 a1 a2 a3 => execBr a0 a1 a2 a3 s
  | .loop a0 a1 a2 => execLoop a0 a1 a2 s
  | .loopI a0 a1 a2 => execLoopI a0 a1 a2 s
  | .lb a0 a1 a2 => execLb a0 a1 a2 s
  | .lx a0 a1 a2 a3 a4 => execLx a0 a1 a2 a3 a4 s
  | .budget a0 a1 => execBudget a0 a1 s
  | .mwait a0 a1 => execMwait a0 a1 s
  | .gen a0 => execGen a0 s
  | .phase a0 => execPhase a0 s
  | .recv a0 a1 => execRecv a0 a1 s
  | .add a0 a1 a2 a3 => execAdd a0 a1 a2 a3 s
  | .addS a0 a1 a2 a3 => execAddS a0 a1 a2 a3 s
  | .sub a0 a1 a2 a3 => execSub a0 a1 a2 a3 s
  | .subS a0 a1 a2 a3 => execSubS a0 a1 a2 a3 s
  | .and a0 a1 a2 a3 => execAnd a0 a1 a2 a3 s
  | .or a0 a1 a2 a3 => execOr a0 a1 a2 a3 s
  | .xor a0 a1 a2 a3 => execXor a0 a1 a2 a3 s
  | .shl a0 a1 a2 a3 => execShl a0 a1 a2 a3 s
  | .shr a0 a1 a2 a3 => execShr a0 a1 a2 a3 s
  | .sra a0 a1 a2 a3 => execSra a0 a1 a2 a3 s
  | .mul a0 a1 a2 a3 => execMul a0 a1 a2 a3 s
  | .mulS a0 a1 a2 a3 => execMulS a0 a1 a2 a3 s
  | .mulh a0 a1 a2 a3 => execMulh a0 a1 a2 a3 s
  | .mulhn a0 a1 a2 a3 => execMulhn a0 a1 a2 a3 s
  | .div a0 a1 a2 a3 => execDiv a0 a1 a2 a3 s
  | .divn a0 a1 a2 a3 => execDivn a0 a1 a2 a3 s
  | .rem a0 a1 a2 a3 => execRem a0 a1 a2 a3 s
  | .remn a0 a1 a2 a3 => execRemn a0 a1 a2 a3 s
  | .min a0 a1 a2 a3 => execMin a0 a1 a2 a3 s
  | .max a0 a1 a2 a3 => execMax a0 a1 a2 a3 s
  | .minn a0 a1 a2 a3 => execMinn a0 a1 a2 a3 s
  | .maxn a0 a1 a2 a3 => execMaxn a0 a1 a2 a3 s
  | .clz a0 a1 a2 => execClz a0 a1 a2 s
  | .popc a0 a1 a2 => execPopc a0 a1 a2 s
  | .addi a0 a1 a2 a3 => execAddi a0 a1 a2 a3 s
  | .andi a0 a1 a2 a3 => execAndi a0 a1 a2 a3 s
  | .ori a0 a1 a2 a3 => execOri a0 a1 a2 a3 s
  | .xori a0 a1 a2 a3 => execXori a0 a1 a2 a3 s
  | .shli a0 a1 a2 a3 => execShli a0 a1 a2 a3 s
  | .shri a0 a1 a2 a3 => execShri a0 a1 a2 a3 s
  | .srai a0 a1 a2 a3 => execSrai a0 a1 a2 a3 s
  | .li a0 a1 a2 => execLi a0 a1 a2 s
  | .lih a0 a1 a2 => execLih a0 a1 a2 s
  | .cmp a0 a1 a2 a3 a4 => execCmp a0 a1 a2 a3 a4 s
  | .cmpi a0 a1 a2 a3 a4 => execCmpi a0 a1 a2 a3 a4 s
  | .pset a0 a1 a2 a3 a4 => execPset a0 a1 a2 a3 a4 s
  | .sel a0 a1 a2 a3 a4 a5 => execSel a0 a1 a2 a3 a4 a5 s
  | .ext a0 a1 a2 a3 a4 => execExt a0 a1 a2 a3 a4 s
  | .ins a0 a1 a2 a3 a4 => execIns a0 a1 a2 a3 a4 s
  | .pbrr a0 a1 a2 => execPbrr a0 a1 a2 s
  | .call a0 a1 => execCall a0 a1 s
  | .enter a0 a1 => execEnter a0 a1 s
  | .ret a0 => execRet a0 s
  | .relc a0 => execRelc a0 s
  | .tjoin a0 => execTjoin a0 s
  | .tend a0 => execTend a0 s
  | .xlat a0 a1 a2 a3 a4 a5 => execXlat a0 a1 a2 a3 a4 a5 s
  | .xlatR a0 a1 a2 a3 a4 a5 a6 => execXlatR a0 a1 a2 a3 a4 a5 a6 s
  | .xrel a0 a1 => execXrel a0 a1 s
  | .xinfo a0 a1 a2 a3 => execXinfo a0 a1 a2 a3 s
  | .bind a0 a1 a2 a3 a4 => execBind a0 a1 a2 a3 a4 s
  | .unbind a0 a1 => execUnbind a0 a1 s
  | .lds a0 a1 a2 a3 a4 a5 => execLds a0 a1 a2 a3 a4 a5 s
  | .sts a0 a1 a2 a3 a4 a5 => execSts a0 a1 a2 a3 a4 a5 s
  | .acq a0 a1 a2 a3 a4 => execAcq a0 a1 a2 a3 a4 s
  | .rel a0 a1 a2 a3 a4 => execRel a0 a1 a2 a3 a4 s
  | .fence a0 a1 => execFence a0 a1 s
  | .fenceAcq a0 a1 => execFenceAcq a0 a1 s
  | .fenceRel a0 a1 => execFenceRel a0 a1 s
  | .fenceAll a0 => execFenceAll a0 s
  | .wadr a0 a1 a2 a3 a4 a5 => execWadr a0 a1 a2 a3 a4 a5 s
  | .wfe a0 => execWfe a0 s
  | .sev a0 a1 => execSev a0 a1 s
  | .send a0 a1 a2 => execSend a0 a1 a2 s
  | .bqp a0 a1 a2 a3 => execBqp a0 a1 a2 a3 s
  | .win a0 a1 a2 a3 => execWin a0 a1 a2 a3 s
  | .trap a0 a1 => execTrap a0 a1 s
  | .rett a0 => execRett a0 s
  | .ecall a0 a1 => execEcall a0 a1 s
  | .brk a0 a1 => execBrk a0 a1 s
  | .mfc a0 a1 a2 => execMfc a0 a1 a2 s
  | .mtc a0 a1 a2 => execMtc a0 a1 a2 s
  | .ldq a0 a1 a2 a3 a4 => execLdq a0 a1 a2 a3 a4 s
  | .stq a0 a1 a2 a3 a4 => execStq a0 a1 a2 a3 a4 s
  | .strel a0 a1 a2 a3 a4 a5 => execStrel a0 a1 a2 a3 a4 a5 s
  | .pf a0 a1 a2 a3 => execPf a0 a1 a2 a3 s
  | .upd a0 a1 a2 a3 a4 a5 a6 => execUpd a0 a1 a2 a3 a4 a5 a6 s
  | .aadd a0 a1 a2 a3 => execAadd a0 a1 a2 a3 s
  | .aaddi a0 a1 a2 a3 => execAaddi a0 a1 a2 a3 s
  | .ali a0 a1 a2 => execAli a0 a1 a2 s
  | .acmp a0 a1 a2 a3 a4 => execAcmp a0 a1 a2 a3 a4 s
  | .faddF32 a0 a1 a2 a3 => execFaddF32 a0 a1 a2 a3 s
  | .faddBf16 a0 a1 a2 a3 => execFaddBf16 a0 a1 a2 a3 s
  | .fsubF32 a0 a1 a2 a3 => execFsubF32 a0 a1 a2 a3 s
  | .fsubBf16 a0 a1 a2 a3 => execFsubBf16 a0 a1 a2 a3 s
  | .fmulF32 a0 a1 a2 a3 => execFmulF32 a0 a1 a2 a3 s
  | .fmulBf16 a0 a1 a2 a3 => execFmulBf16 a0 a1 a2 a3 s
  | .fmaF32 a0 a1 a2 a3 => execFmaF32 a0 a1 a2 a3 s
  | .fmaBf16 a0 a1 a2 a3 => execFmaBf16 a0 a1 a2 a3 s
  | .fmsF32 a0 a1 a2 a3 => execFmsF32 a0 a1 a2 a3 s
  | .fmsBf16 a0 a1 a2 a3 => execFmsBf16 a0 a1 a2 a3 s
  | .fnmaF32 a0 a1 a2 a3 => execFnmaF32 a0 a1 a2 a3 s
  | .fnmaBf16 a0 a1 a2 a3 => execFnmaBf16 a0 a1 a2 a3 s
  | .fmaxF32 a0 a1 a2 a3 => execFmaxF32 a0 a1 a2 a3 s
  | .fmaxBf16 a0 a1 a2 a3 => execFmaxBf16 a0 a1 a2 a3 s
  | .fminF32 a0 a1 a2 a3 => execFminF32 a0 a1 a2 a3 s
  | .fminBf16 a0 a1 a2 a3 => execFminBf16 a0 a1 a2 a3 s
  | .fcmpF32 a0 a1 a2 a3 a4 => execFcmpF32 a0 a1 a2 a3 a4 s
  | .fcmpBf16 a0 a1 a2 a3 a4 => execFcmpBf16 a0 a1 a2 a3 a4 s
  | .fselF32 a0 a1 a2 a3 => execFselF32 a0 a1 a2 a3 s
  | .fselBf16 a0 a1 a2 a3 => execFselBf16 a0 a1 a2 a3 s
  | .funaF32 a0 a1 a2 a3 => execFunaF32 a0 a1 a2 a3 s
  | .exp2F32 a0 a1 a2 => execExp2F32 a0 a1 a2 s
  | .lg2F32 a0 a1 a2 => execLg2F32 a0 a1 a2 s
  | .rcpF32 a0 a1 a2 => execRcpF32 a0 a1 a2 s
  | .rsqF32 a0 a1 a2 => execRsqF32 a0 a1 a2 s
  | .iaddI32 a0 a1 a2 a3 => execIaddI32 a0 a1 a2 a3 s
  | .iaddI16 a0 a1 a2 a3 => execIaddI16 a0 a1 a2 a3 s
  | .iaddI8 a0 a1 a2 a3 => execIaddI8 a0 a1 a2 a3 s
  | .iaddI32S a0 a1 a2 a3 => execIaddI32S a0 a1 a2 a3 s
  | .iaddI16S a0 a1 a2 a3 => execIaddI16S a0 a1 a2 a3 s
  | .iaddI8S a0 a1 a2 a3 => execIaddI8S a0 a1 a2 a3 s
  | .iaddN32S a0 a1 a2 a3 => execIaddN32S a0 a1 a2 a3 s
  | .iaddN16S a0 a1 a2 a3 => execIaddN16S a0 a1 a2 a3 s
  | .iaddN8S a0 a1 a2 a3 => execIaddN8S a0 a1 a2 a3 s
  | .isubI32 a0 a1 a2 a3 => execIsubI32 a0 a1 a2 a3 s
  | .isubI16 a0 a1 a2 a3 => execIsubI16 a0 a1 a2 a3 s
  | .isubI8 a0 a1 a2 a3 => execIsubI8 a0 a1 a2 a3 s
  | .isubI32S a0 a1 a2 a3 => execIsubI32S a0 a1 a2 a3 s
  | .isubI16S a0 a1 a2 a3 => execIsubI16S a0 a1 a2 a3 s
  | .isubI8S a0 a1 a2 a3 => execIsubI8S a0 a1 a2 a3 s
  | .isubN32S a0 a1 a2 a3 => execIsubN32S a0 a1 a2 a3 s
  | .isubN16S a0 a1 a2 a3 => execIsubN16S a0 a1 a2 a3 s
  | .isubN8S a0 a1 a2 a3 => execIsubN8S a0 a1 a2 a3 s
  | .imulI32 a0 a1 a2 a3 => execImulI32 a0 a1 a2 a3 s
  | .imulI16 a0 a1 a2 a3 => execImulI16 a0 a1 a2 a3 s
  | .imulI8 a0 a1 a2 a3 => execImulI8 a0 a1 a2 a3 s
  | .imacI32 a0 a1 a2 a3 => execImacI32 a0 a1 a2 a3 s
  | .imacI16 a0 a1 a2 a3 => execImacI16 a0 a1 a2 a3 s
  | .imacI8 a0 a1 a2 a3 => execImacI8 a0 a1 a2 a3 s
  | .iand a0 a1 a2 a3 => execIand a0 a1 a2 a3 s
  | .ior a0 a1 a2 a3 => execIor a0 a1 a2 a3 s
  | .ixor a0 a1 a2 a3 => execIxor a0 a1 a2 a3 s
  | .ishlI32 a0 a1 a2 a3 => execIshlI32 a0 a1 a2 a3 s
  | .ishlI16 a0 a1 a2 a3 => execIshlI16 a0 a1 a2 a3 s
  | .ishlI8 a0 a1 a2 a3 => execIshlI8 a0 a1 a2 a3 s
  | .ishrI32 a0 a1 a2 a3 => execIshrI32 a0 a1 a2 a3 s
  | .ishrI16 a0 a1 a2 a3 => execIshrI16 a0 a1 a2 a3 s
  | .ishrI8 a0 a1 a2 a3 => execIshrI8 a0 a1 a2 a3 s
  | .israI32 a0 a1 a2 a3 => execIsraI32 a0 a1 a2 a3 s
  | .israI16 a0 a1 a2 a3 => execIsraI16 a0 a1 a2 a3 s
  | .israI8 a0 a1 a2 a3 => execIsraI8 a0 a1 a2 a3 s
  | .iminI32 a0 a1 a2 a3 => execIminI32 a0 a1 a2 a3 s
  | .iminI16 a0 a1 a2 a3 => execIminI16 a0 a1 a2 a3 s
  | .iminI8 a0 a1 a2 a3 => execIminI8 a0 a1 a2 a3 s
  | .iminN32 a0 a1 a2 a3 => execIminN32 a0 a1 a2 a3 s
  | .iminN16 a0 a1 a2 a3 => execIminN16 a0 a1 a2 a3 s
  | .iminN8 a0 a1 a2 a3 => execIminN8 a0 a1 a2 a3 s
  | .imaxI32 a0 a1 a2 a3 => execImaxI32 a0 a1 a2 a3 s
  | .imaxI16 a0 a1 a2 a3 => execImaxI16 a0 a1 a2 a3 s
  | .imaxI8 a0 a1 a2 a3 => execImaxI8 a0 a1 a2 a3 s
  | .imaxN32 a0 a1 a2 a3 => execImaxN32 a0 a1 a2 a3 s
  | .imaxN16 a0 a1 a2 a3 => execImaxN16 a0 a1 a2 a3 s
  | .imaxN8 a0 a1 a2 a3 => execImaxN8 a0 a1 a2 a3 s
  | .icmpI32 a0 a1 a2 a3 a4 => execIcmpI32 a0 a1 a2 a3 a4 s
  | .icmpI16 a0 a1 a2 a3 a4 => execIcmpI16 a0 a1 a2 a3 a4 s
  | .icmpI8 a0 a1 a2 a3 a4 => execIcmpI8 a0 a1 a2 a3 a4 s
  | .mov a0 a1 a2 => execMov a0 a1 a2 s
  | .movMasked a0 a1 a2 a3 => execMovMasked a0 a1 a2 a3 s
  | .bcst a0 a1 a2 a3 => execBcst a0 a1 a2 a3 s
  | .perm a0 a1 a2 a3 => execPerm a0 a1 a2 a3 s
  | .rot a0 a1 a2 a3 => execRot a0 a1 a2 a3 s
  | .redF32 a0 a1 a2 => execRedF32 a0 a1 a2 s
  | .redI32 a0 a1 a2 => execRedI32 a0 a1 a2 s
  | .scanF32 a0 a1 a2 => execScanF32 a0 a1 a2 s
  | .cvt a0 a1 a2 a3 => execCvt a0 a1 a2 a3 s
  | .qmax a0 a1 a2 => execQmax a0 a1 a2 s
  | .qcvt a0 a1 a2 a3 => execQcvt a0 a1 a2 a3 s
  | .deq a0 a1 a2 a3 => execDeq a0 a1 a2 a3 s
  | .zld a0 a1 a2 a3 => execZld a0 a1 a2 a3 s
  | .zst a0 a1 a2 a3 => execZst a0 a1 a2 a3 s
  | .mset a0 a1 a2 a3 => execMset a0 a1 a2 a3 s
  | .mlog a0 a1 a2 a3 a4 => execMlog a0 a1 a2 a3 a4 s
  | .zli a0 a1 a2 => execZli a0 a1 a2 s
  | .lse a0 => execLse a0 s
  | .lsr a0 => execLsr a0 s
  | .mma a0 a1 a2 a3 a4 a5 a6 => execMma a0 a1 a2 a3 a4 a5 a6 s
  | .mmaz a0 a1 a2 a3 a4 a5 a6 => execMmaz a0 a1 a2 a3 a4 a5 a6 s
  | .mmov a0 a1 a2 a3 => execMmov a0 a1 a2 a3 s
  | .mclr a0 a1 => execMclr a0 a1 s
  | .dset a0 a1 a2 => execDset a0 a1 a2 s
  | .fmtset a0 a1 a2 => execFmtset a0 a1 a2 s
  | .fmtsetFbase a0 a1 => execFmtsetFbase a0 a1 s
  | _ => .next s

/-- A stream as it stands at its turn in a cycle in which nothing but a blocking wait matters: CTL's issue slot is its own, and its stall counter
cannot reach the budget. -/
def State.probed (s : State) (c : CoreId) (q : Seq) (x : Fin 4) : State :=
  let t := s.atTurn c q x
  (t.modMe fun k => k.modAux fun a => { a with lastCtx := t.cur.x - 1 }).modMyFlow fun f =>
    { f with stall := 0, budget := BitVec.allOnes 24, wait := none }

/-- The first unmet blocking wait of a stream's next word in this cycle, in the order of R117; none where no blocking wait holds it. -/
def State.firstWait (s : State) (c : CoreId) (q : Seq) (x : Fin 4) : Option Nat :=
  let t := s.probed c q x
  if !t.mayIssue || !t.myFlow.due.isEmpty then none
  else match t.fetch with
  | (.poison _, _) => none
  | (.bytes b, u) =>
    match (decodeBytes q (bytesAt b t.fetchKeys)).1 with
    | .bad _ => none
    | .ok i =>
      match u.wordTurn i with
      | .next v => if v.me.mode == t.me.mode then v.myFlow.wait else none
      | _ => none

end Sys2Proof.Machine
end

