-- ==== Sys2Proof/Machine/Events.lean ====
section
/-! DEFINITION. Steps of traps, stalled cycles, errors and phase cancels (R117, R120, R209). -/

namespace Sys2Proof.Machine

/-! ## Traps -/

/-- The streams of a core, in the order of their numbers. -/
def streamsOf : List (Seq × Fin 4) := [(.ctl, 0), (.ctl, 1), (.ctl, 2), (.ctl, 3), (.ld, 0), (.ex, 0), (.st, 0)]

/-- A stream that stands at an instruction boundary of a core that runs, with a delivered cause that waits for it. -/
def State.dueStream (s : State) (c : CoreId) : Option (Seq × Fin 4) :=
  streamsOf.find? fun e =>
    let t := s.atTurn c e.1 e.2
    t.mayIssue && !t.myFlow.due.isEmpty

/-- `TRAP_TAKEN` (R120): the rest of a trap that waits for the last `xlat`, or a delivered cause taken at its stream's boundary. -/
def execTrapTaken (c : CoreId) (s : State) : Host.Outcome State Fault Refusal :=
  match (s.core c).aux.trap with
  | some t => .next (if (s.core c).xlatOutstanding t then s else s.enterTrap c t)
  | none =>
    match s.dueStream c with
    | none => .next s
    | some e =>
      let t := s.atTurn c e.1 e.2
      match t.myFlow.due with
      | [] => .next s
      | d :: _ =>
        let u : State := { t.takeDue d with cur := s.cur }
        .next u

/-! ## Stalled cycles (R117) -/

/-- `STALL_BUDGET` (R117): one more cycle in which a blocking wait holds a stream's next word; at the budget the trap is raised, with the code of
the first wait that is unmet in this cycle. -/
def execStallBudget (c : CoreId) (q : Seq) (x : Fin 4) (s : State) : Host.Outcome State Fault Refusal :=
  match s.firstWait c q x with
  | none => .next s
  | some code => .next (s.stallCycle c q (s.atTurn c q x).cur.x code)

/-! ## Errors (R209) -/

/-- An error in a line of a core's L1, by a place of the line: a clean line is fetched anew from its home and no error is met; one in a dirty or
update-only line is consumed (R369). -/
def State.l1Error (s : State) (c : CoreId) (a : Nat) (n : W32) : State :=
  match (s.core c).l1Find (lineOf a) with
  | none => s
  | some l =>
    if l.st == .clean then
      ((s.modCore c fun k => k.l1Drop l.line).homeRead l.line).l1Put c l.line l.secs .clean
    else s.consumeError c (checkWhat (errSource .l1) n (dieOf c).val (bitsOf a 6 4)) (a % 2 ^ 52) false

/-- `UNCORRECTABLE_ERROR_CONSUMED` (R209, R281, R328, R345, R369): a core reads an uncorrectable error from a source, at a place, with a syndrome.
A sector of the L2 is poisoned by it; an error of the Warren is a machine check of the commanding core in every phase. The bank of an error in
Z or an accumulator is left open. -/
def execUncorrectableErrorConsumed (c : CoreId) (r : ErrSource) (a : Nat) (n : W32) (s : State) : Host.Outcome State Fault Refusal :=
  let k := s.core c
  if k.mode == .free || k.mode == .checked then .next s
  else match r with
  | .l2 =>
    let s : State := if s.poison.contains (a / 32) then s else { s with poison := a / 32 :: s.poison }
    .next ((s.badSector (a / 32)).consumeError c (placeWhat r a n) (a % 2 ^ 52) false)
  | .hbm | .tier2 => .next ((s.badSector (a / 32)).consumeError c (placeWhat r a n) (a % 2 ^ 52) false)
  | .warren => .next (s.machineCheck c (placeWhat r a n) (a % 2 ^ 52) 0 0 0)
  | .l1 => .next (s.l1Error c a n)
  | .scratchpad =>
    let next := match k.aux.run with
      | some t => t.op.phases.any fun p => decide (p.1 + p.2 ≤ a) && decide (a < p.1 + 2 * p.2)
      | none => false
    .next (s.consumeError c (checkWhat (errSource r) n (dieOf c).val (bitsOf a 6 4)) a next)
  | .z | .accumulator =>
    let (b, s) := s.freeNat
    .next (s.consumeError c (checkWhat (errSource r) n (dieOf c).val (b % 256)) a false)

/-! ## The replay of a cancelled phase (R209) -/

/-- Nothing of the core is under way: its commands have finished and its accesses are performed. -/
def State.quiet (s : State) (c : CoreId) : Bool :=
  let k := s.core c
  (s.allCmds c).isEmpty && k.ld.pend.all (·.done) && k.st.pend.all (·.done) &&
  (List.finRange 4).all fun x => (k.ctx.at x).loads.isEmpty && (k.ctx.at x).stores.isEmpty && (k.ctx.at x).xl.isNone

/-- The command of a log entry, by the number of entries that follow it. -/
def LogEntry.cmd (e : LogEntry) (c : CoreId) (left : Nat) (wins : File Window 16) : Cmd :=
  { uid := 2 ^ 60 + 64 * c.val + left, core := c, q := .ld, x := 0, pc := 0, gen := 0, mark := none, waits := ⟨none, none, none⟩,
    started := true, marked := true, stage := 0, opA := [], opB := [], wins := wins, parts := [], flags := 0, bad := none, body := e.body }

/-- A log entry done again under the parities of its issue; done says whether it has finished. -/
def State.replayEntry (s : State) (c : CoreId) (e : LogEntry) (left : Nat) : Bool × State :=
  let d := e.cmd c left (s.core c).wins
  let par := (s.core c).aux.phases.parity
  let setPar := fun (s : State) (p : BitVec 4) => s.modCore c fun k => k.modAux fun a => { a with phases := { a.phases with parity := p } }
  let s := setPar (s.modCore c fun k => { k with cmds := [d] }) e.parity
  let s := match e.body with
    | .copy toMem tok off loc shape f => s.runCopy d none toMem tok off loc shape f
    | .gather toMem tok off loc count wide esz => s.runGather d none toMem tok off loc count wide esz
    | _ => s.finishCmd d Acct.none
  let s := setPar s par
  ((s.core c).cmds.isEmpty, s.modCore c fun k => { k with cmds := [] })

/-- The log entries done again in order, as far as they come; those that remain. -/
def State.replayLog (s : State) (c : CoreId) : List LogEntry → List LogEntry × State
  | [] => ([], s)
  | e :: r =>
    match s.replayEntry c e r.length with
    | (false, s) => (e :: r, s)
    | (true, s) => if (s.core c).mode == .cancelled then s.replayLog c r else (r, s)

/-- A flow as the snapshot gives it: budget and interval stand, the stall counter is 0 (R209). The manual does not say what becomes of delivered
causes that wait to be taken and of a trap that waits for an `xlat`: they are dropped, here and at the cancel. DESIGN CHOICE
(notes/assumptions/59.md). -/
def Flow.restore (f now : Flow) : Flow :=
  { f with budget := now.budget, interval := now.interval, stall := 0, wait := none, halted := false, posted := false, atPhase := none, due := [] }

/-- The registers of a core as a snapshot holds them (R208, R209): streams, queues, tails and pending results are none. -/
def Core.restorePhase (k : Core) (p : Snapshot) : Core :=
  let c0 := k.ctx.at 0
  let held := k.cells.toList
  let dead := fun (c : Ctx) => { Ctx.reset with latch := c.latch }
  let k := { k with
    mode := .running, hand := none, cells := p.cells, frames := p.frames, rings := p.rings,
    values := File.all 3 [], outcomes := File.all 3 [], streams := File.all 16 [],
    ctx := (((k.ctx.mod 1 dead).mod 2 dead).mod 3 dead).put 0
      { Ctx.reset with live := true, flow := p.ctl.restore c0.flow, s := p.s, latch := c0.latch },
    ld := { LSeq.reset with flow := p.ld.restore k.ld.flow, a := p.la, ix := k.ld.ix },
    st := { LSeq.reset with flow := p.st.restore k.st.flow, a := p.sa, ix := k.st.ix },
    ex := { p.ex with flow := p.exf.restore k.ex.flow, sc := k.ex.sc, cycle := k.ex.cycle, flight := [], slots := File.all 16 none } }
  (k.modCr fun r => { r with marks := 0xFFFFFFFF }).modAux fun a =>
    { a with prior := Prior.reset, accs := [], past := held.foldl (fun l v => if l.contains v then l else v :: l) a.past,
             phases := { a.phases with inLog := [], copyLog := [], overflow := false } }

/-- `PHASE_REPLAY` (R209): once nothing of the core is under way, the input log is done again, then the snapshot and the committed
accumulators, which an operator without phase buffers does not have (R207), are restored and every stream resumes. -/
def execPhaseReplay (c : CoreId) (s : State) : Host.Outcome State Fault Refusal :=
  let k := s.core c
  match k.aux.phases.snap with
  | none => .next s
  | some p =>
    if k.mode != .cancelled || !s.quiet c then .next s
    else
      let (rest, s) := s.replayLog c k.aux.phases.inLog
      let s := s.modCore c fun k => k.modAux fun a => { a with phases := { a.phases with inLog := rest } }
      if !rest.isEmpty || (s.core c).mode != .cancelled then .next s
      else
        let a := match k.aux.run with | some r => if r.op.nphase = 0 then 0 else r.op.allot | none => 0
        .next ((s.modSett (settOf c) fun t => t.copyTiles c a false).modCore c fun k => k.restorePhase p)

end Sys2Proof.Machine
end

