-- ==== Sys2Proof/Machine/Queues.lean ====
section
/-! DEFINITION. Command queues, packets, completion records and interrupts, and the deadline servers (R324 to R332). -/

namespace Sys2Proof.Machine

/-! ## Changes to queues -/

/-- Changes the packet of a name in a queue. -/
def State.modPacket (s : State) (q : Fin 4096) (uid : Nat) (f : Packet → Packet) : State :=
  s.modQueue q fun e => (e.1, { e.2 with packets := e.2.packets.map fun p => if p.uid = uid then f p else p })

/-- Changes the operator of a record of a launch. -/
def State.modOp (s : State) (q : Fin 4096) (uid record : Nat) (f : OpStat → OpStat) : State :=
  s.modPacket q uid fun p => { p with ops := p.ops.map fun o => if o.record = record then f o else o }

/-- A partition is configured and no pre-emption stops it (R340, R341). -/
def State.runs (s : State) (p : Fin 16) : Bool :=
  match s.hub.parts.at p with
  | none => false
  | some t => t.pre == .none

/-- Bytes of device memory lie in the rows of R354. -/
def State.inMap (s : State) (pa n : Nat) : Bool := inRow 0 pa n || inRow 1 pa n || (s.commonsOwner pa).isSome

/-! ## Deadline servers (R331, R332) -/

/-- A core runs its tile run: in its streams, in a trap handler, or in the replay of a phase; a tile run that has ended runs no more. -/
def Core.runs (k : Core) : Bool := k.mode == .running || k.mode == .handler || k.mode == .cancelled

/-- Cores that run tile runs of a queue (R332). -/
def State.runningOf (s : State) (q : Fin 4096) : Nat :=
  (coreIds.filter fun c => (s.core c).runs && (match (s.core c).aux.run with | some r => r.queue == q | none => false)).length

/-- Charging and postponing at a tick (R332): c core-µs, then d and c move on until c is positive. -/
def Queue.charge (q : Queue) (n : Nat) (work : Bool) : Queue :=
  let c := q.srv.2 - n
  if work && 0 < q.budget && decide (c ≤ 0) then
    let k := (-c) / q.budget + 1
    { q with srv := (q.srv.1 + k * q.period, c + k * q.budget) }
  else { q with srv := (q.srv.1, c) }

/-- Deadlines are times of the µs timer: as its 48 bits wrap they move with it. -/
def Queue.wrapped (q : Queue) : Queue := { q with srv := (q.srv.1 - 2 ^ 48, q.srv.2) }

/-- `TIMER_TICK` (R332): the µs timer advances, every server of a partition that no pre-emption stops is charged, and gating ends
(R374). -/
def execTimerTick (s : State) : Host.Outcome State Fault Refusal :=
  let turn := fun (q : Queue) => if s.hub.timer + 1 = 0 then q.wrapped else q
  let tick := fun (e : Queue × QueueWork) =>
    (turn (if 0 < e.1.budget && s.runs e.1.part then e.1.charge (s.runningOf e.1.num) (hasWork e) else e.1), e.2)
  .next (s.modHub fun h => { h with timer := h.timer + 1, queues := h.queues.map tick, power := { h.power with gated := false } })

/-! ## Completion records and interrupts (R328 to R330) -/

/-- A record about a packet (R328). -/
def packetRec (k : Queue) (p : Packet) (kind reason record what : Nat) : Rec :=
  mkRec (p.tag * 2 ^ 32 + k.part.val * 2 ^ 28 + k.num.val * 2 ^ 16 + reason * 2 ^ 8 + kind) (record * 2 ^ 32 + p.n.toNat) 0 what 0 0 0 0

/-- A packet completes: DONE where it failed or asks for it (R326, R327). -/
def State.completePacket (s : State) (k : Queue) (p : Packet) (reason : Nat) : State :=
  let s := s.modQueue k.num fun e => (e.1, { e.2 with packets := e.2.packets.filter fun o => o.uid != p.uid })
  if reason ≠ 0 || p.notify then s.postRec k.num (packetRec k p 0 reason 0 0) else s

/-- A packet is rejected (R336): a LAUNCH then ends its chain, any other packet is done with. -/
def State.rejectPacket (s : State) (k : Queue) (p : Packet) (reason : Nat) : State :=
  let s := s.postRec k.num (packetRec k p 3 reason 0 0)
  if p.ty = 1 then s.modPacket k.num p.uid fun p => { p with started := true, aborted := true, next := p.count }
  else s.modQueue k.num fun e => (e.1, { e.2 with packets := e.2.packets.filter fun o => o.uid != p.uid })

/-- Bytes of a record. -/
def Rec.bytes (r : Rec) : List Byte := (List.finRange 8).flatMap fun n => bytesOfNat 8 (r.w.at n).toNat

/-- The queue sends its interrupt (R330): no record is unreported. -/
def State.interrupt (s : State) (k : Queue) : State :=
  (s.modQueue k.num fun e => (e.1, { e.2 with unreported := 0 })).msi (Fin.ofNat 17 k.part.val) k.vector

/-- The place of entry n of a ring of 64-byte entries, in the memory that `host` names. -/
def ringKey (host : Bool) (base lsize : Nat) (n : W32) : Nat := memKey (if host then 2 else 0) (base + 64 * (n.toNat % 2 ^ lsize))

/-- An entry of such a ring in device memory lies where no byte exists. -/
def State.ringMissing (s : State) (host : Bool) (base lsize : Nat) (n : W32) : Bool :=
  !host && !s.inMap (base + 64 * (n.toNat % 2 ^ lsize)) 64

/-- `COMPLETION_RECORD_WRITE` (R329, R330, R325): the oldest record that waits is written, room permitting. -/
def execCompletionRecordWrite (q : Fin 4096) (s : State) : Host.Outcome State Fault Refusal :=
  match s.queue q with
  | none => .next s
  | some (k, w) =>
    match w.waiting with
    | [] => .next s
    | r :: rest =>
      if 2 ^ k.clsize ≤ (k.ctail - k.chead).toNat then .next s
      else if s.ringMissing k.host k.cring k.clsize k.ctail then .fault .noSuchRing
      else
        let a := ringKey k.host k.cring k.clsize k.ctail
        let s := s.homePut ((List.range 64).map (a + ·)) r.bytes
        let n := w.unreported + 1
        let s := s.modQueue q fun e => ({ e.1 with ctail := e.1.ctail + 1 }, { e.2 with
          waiting := rest, unreported := n, oldest := if w.unreported = 0 then s.hub.timer.toNat else w.oldest })
        .next (if k.thresh + 1 ≤ n || k.holdoff = 0 then s.interrupt k else s)

/-- The µs since a time of the 48-bit timer. -/
def State.since (s : State) (t : Nat) : Nat := (s.hub.timer - BitVec.ofNat 48 t).toNat

/-- `HOLDOFF_TIMER_EXPIRY` (R330). -/
def execHoldoffTimerExpiry (q : Fin 4096) (s : State) : Host.Outcome State Fault Refusal :=
  match s.queue q with
  | none => .next s
  | some (k, w) => .next (if 0 < w.unreported && k.holdoff ≤ s.since w.oldest then s.interrupt k else s)

/-- `ECALL_RECORD_ACCEPTED` (R174): the front end takes the record of a core. -/
def execEcallRecordAccepted (c : CoreId) (s : State) : Host.Outcome State Fault Refusal :=
  match (s.core c).aux.ecall with
  | none => .next s
  | some r =>
    let q := Fin.ofNat 4096 (bitsOf (r.w.at 0).toNat 16 12)
    .next ((s.modCore c fun k => k.modAux fun a => { a with ecall := none }).postRec q r)

/-! ## Doorbells (R325, R351) -/

/-- The queue that a doorbell page of a virtual function is assigned to (R349). -/
def State.pageQueue (s : State) (v : Fin 16) (j : Nat) : Option (Queue × QueueWork) :=
  s.hub.queues.find? fun e => e.1.part == v && e.1.page == j

/-- `DOORBELL_TAIL` (R325). -/
def execDoorbellTail (v : Fin 16) (j : Nat) (n : W32) (s : State) : Host.Outcome State Fault Refusal :=
  match s.pageQueue v j with
  | none => .next s
  | some (k, _) =>
    if (n - k.tail).msb then .next s
    else .next ((s.modQueue k.num fun e => ({ e.1 with tail := n }, e.2)).settle k.num)

/-- `COMPLETION_HEAD` (R325). -/
def execCompletionHead (v : Fin 16) (j : Nat) (n : W32) (s : State) : Host.Outcome State Fault Refusal :=
  match s.pageQueue v j with
  | none => .next s
  | some (k, _) => .next (s.modQueue k.num fun e => ({ e.1 with chead := n }, e.2))

/-! ## Taking and starting packets (R325 to R327, R336) -/

/-- A packet may start: with barrier set, or a SIGNAL, only once every earlier packet of its queue has completed (R326, R327). -/
def QueueWork.mayBegin (w : QueueWork) (p : Packet) : Bool :=
  (!p.barrier && p.ty != 3) || w.packets.all fun o => o.uid == p.uid

/-- The packet at the head of a ring, taken into the queue's dispatch state (R325). -/
def State.takePacket (s : State) (k : Queue) : Packet × State :=
  let a := ringKey k.host k.ring k.lsize k.head
  let s := s.homeRead (lineOf a)
  let (uid, s) := s.uid
  let p : Packet := { uid := uid, n := k.head, words := Vector.ofFn fun (n : Fin 8) => BitVec.ofNat 64 (s.mem.num (a + 8 * n.val) 8),
                      started := false, next := 0, ops := [], aborted := false, stopped := false }
  (p, s.modQueue k.num fun e => ({ e.1 with head := e.1.head + 1 }, { e.2 with packets := e.2.packets ++ [p] }))

/-- The turn of a queue at a packet of a type: one that was taken and waits, else the one at the head of the ring. Packets start in
order. `act` starts it, none where it reads memory that does not exist. -/
def State.packetTurn (s : State) (q : Fin 4096) (isTy : Nat → Bool) (act : State → Queue → Packet → Option State) :
    Host.Outcome State Fault Refusal :=
  let begin_ := fun (s : State) (p : Packet) =>
    match s.queue q with
    | none => Host.Outcome.next s
    | some (k, w) =>
      if !w.mayBegin p then .next (s.settle q)
      else match act s k p with
      | some t => .next (t.settle q)
      | none => .fault .noSuchRing
  match s.queue q with
  | none => .next s
  | some (k, w) =>
    if !s.runs k.part then .next s
    else match w.packets.find? fun p => !p.started with
    | some p => if isTy p.ty then begin_ s p else .next s
    | none =>
      if k.tail = k.head || !w.waiting.isEmpty then .next s
      else if s.ringMissing k.host k.ring k.lsize k.head then .fault .noSuchRing
      else
        let (p, t) := s.takePacket k
        if isTy p.ty then begin_ t p else .next s

/-- Fields that must be 0 in every packet (R326). -/
def Packet.reservedSet (p : Packet) : Bool := bitsOf (p.word 0) 10 22 != 0 || p.word 7 != 0

/-- `PACKET_NOP` (R327). -/
def execPacketNop (q : Fin 4096) (s : State) : Host.Outcome State Fault Refusal :=
  s.packetTurn q (· == 0) fun s k p =>
    some (if p.reservedSet || p.word 3 != 0 then s.rejectPacket k p 5 else s.completePacket k p 0)

/-- `UNKNOWN_PACKET_TYPE` (R336). -/
def execUnknownPacketType (q : Fin 4096) (s : State) : Host.Outcome State Fault Refusal :=
  s.packetTurn q (fun t => decide (3 < t)) fun s k p => some (s.rejectPacket k p (if p.reservedSet then 5 else 8))

/-- The push of a PUSH packet (R327, R292). -/
def State.pushPacket (s : State) (k : Queue) (p : Packet) : State :=
  let q := Fin.ofNat 64 (bitsOf (p.word 1) 0 6)
  let d := Fin.ofNat 4 (bitsOf (p.word 1) 8 2)
  let w := (s.dies.at d).warren.at q
  if w.cap = 0 || w.owner != k.part || w.cap ≤ w.ents.length then s.rejectPacket k p 11
  else
    let e : WarrenEnt := ⟨BitVec.ofNat 32 (p.word 2), p.words.at 3, none⟩
    (s.modDie d fun e' => { e' with warren := e'.warren.mod q fun w => { w with ents := w.ents ++ [e] } }).completePacket k p 0

/-- `PUSH` (R327). -/
def execPush (q : Fin 4096) (s : State) : Host.Outcome State Fault Refusal :=
  s.packetTurn q (· == 2) fun s k p =>
    some (if p.reservedSet || bitsOf (p.word 1) 6 2 != 0 || bitsOf (p.word 1) 10 54 != 0 then s.rejectPacket k p 5 else s.pushPacket k p)

/-- The write of a SIGNAL packet (R327, R106). -/
def State.signalPacket (s : State) (k : Queue) (p : Packet) : State :=
  let a := p.word 1
  let pa := bitsOf a 0 52
  let host := bitOf a 63
  if a % 8 != 0 || bitsOf a 52 11 != 0 || (!host && !s.inPart k.part 0 pa 8 && !s.inPart k.part 1 pa 8) then s.rejectPacket k p 12
  else
    let key := memKey (if host then 2 else 0) pa
    (s.homePut ((List.range 8).map (key + ·)) (bytesOfNat 8 (p.word 2))).completePacket k p 0

/-- `SIGNAL` (R327). -/
def execSignal (q : Fin 4096) (s : State) : Host.Outcome State Fault Refusal :=
  s.packetTurn q (· == 3) fun s k p =>
    some (if p.reservedSet || p.word 3 != 0 then s.rejectPacket k p 5 else s.signalPacket k p)

/-- Some record of a chain declares a level (R336). -/
def State.declares (s : State) (a count level : Nat) : Bool :=
  (List.range count).any fun i => bitsOf (s.mem.num (memKey 0 (a + 1024 * i + 0x60 + 8 * level)) 8) 32 2 != 0

/-- A LAUNCH starts (R326, R327, R336): none where a record that must be read does not exist. -/
def State.startLaunch (s : State) (k : Queue) (p : Packet) : Option State :=
  let a := p.word 1
  let changed := (List.range 6).filter fun n => p.extents.getD n 0 != 0
  if p.reservedSet || a % 1024 != 0 || bitsOf (p.word 2) 12 52 != 0 || p.word 3 != 0 then some (s.rejectPacket k p 5)
  else if changed.isEmpty then some (s.modPacket k.num p.uid fun p => { p with started := true })
  else if !((List.range p.count).all fun i => s.inMap (a + 1024 * i) 1024) then none
  else
    let s := (List.range (8 * p.count)).foldl (fun s i => s.homeRead (lineOf (memKey 0 a) + i)) s
    some (if changed.all fun n => s.declares a p.count n then s.modPacket k.num p.uid fun p => { p with started := true }
      else s.rejectPacket k p 9)

/-- `LAUNCH` (R327). -/
def execLaunch (q : Fin 4096) (s : State) : Host.Outcome State Fault Refusal := s.packetTurn q (· == 1) State.startLaunch

/-! ## The end of a LAUNCH (R327, R339) -/

/-- The source of a remote write has no answer yet. -/
def State.looseOf (s : State) (which : CoreId → Bool) : Bool :=
  (List.finRange 4).any fun d => (s.dies.at d).reqs.any fun r => match r.loose with | some (c, _) => which c | none => false

/-- Every dispatched tile run of a LAUNCH has retired or ended, and no more will be dispatched. -/
def Packet.isOver (p : Packet) : Bool := p.started && p.ty == 1 && !p.isWork && p.ops.all fun o => o.retired == o.dispatched

/-- `LAUNCH_COMPLETE` (R327, R339): a LAUNCH of the queue whose writes are all performed completes. -/
def execLaunchComplete (q : Fin 4096) (s : State) : Host.Outcome State Fault Refusal :=
  match s.queue q with
  | none => .next s
  | some (k, w) =>
    match w.packets.find? Packet.isOver with
    | none => .next s
    | some p =>
      if s.looseOf fun c => s.partOf c == some k.part then .next s
      else .next ((s.completePacket k p (if p.aborted || p.stopped then 1 else 0)).settle q)

end Sys2Proof.Machine
end

