-- ==== Sys2Proof/Machine/Launch.lean ====
section
/-! DEFINITION. Operator records, pinning, dispatch, shadow banks, the start and the retirement of tile runs (R22 to R26, R199 to R201, R333 to
R339), and the clearing of a machine-checked core (R345). -/

namespace Sys2Proof.Machine

/-! ## Operator records (R334, R336) -/

/-- The bits of word n (8 bytes each) of an operator record that are not reserved (R334). -/
def recordMask (n : Nat) : Nat :=
  if n = 0 then 0xFFFFFFFF * 2 ^ 32 + 2 ^ 30 + 3 * 2 ^ 28 + 7 * 2 ^ 24 + 0x3F * 2 ^ 17 + 2 ^ 16 + 0x7FF
  else if n = 1 then 2 ^ 52 - 1
  else if n = 2 then 0xFFFFFFFF * 2 ^ 32 + 7 * 2 ^ 16 + 0x7F
  else if n < 4 then 0
  else if n < 12 then (if n % 2 = 0 then 2 ^ 57 - 1 else 2 ^ 30 - 1)
  else if n < 18 then 0xFFFFFFFF + 3 * 2 ^ 32 + 15 * 2 ^ 36
  else if n < 22 then 0xFFFFFF + 0xFFFFFF * 2 ^ 32
  else if n < 30 then 0x7FFF + 0x7FFF * 2 ^ 32
  else if n < 34 then 2 ^ 64 - 1
  else if n < 66 then (if n % 2 = 0 then 2 ^ 57 - 1 else 2 ^ 33 - 1)
  else 0

/-- Frame sizes by code (R55). -/
def frameSizes : List Nat := [8, 12, 16, 20, 24]

/-- An operator record as read, by its 128 words, with the replacements of its launch (R326, R334). -/
def parseRecord (w : Nat → Nat) (ext : List Nat) : OpRec :=
  let half := fun (i : Nat) => bitsOf (w (i / 2)) (32 * (i % 2)) 32
  { spad := bitsOf (w 0) 32 32, dep := bitOf (w 0) 30, spill := 4096 * (bitsOf (w 0) 28 2 + 1),
    frame := frameSizes.getD (bitsOf (w 0) 24 3) 24, wq := Fin.ofNat 64 (bitsOf (w 0) 17 6), resident := bitOf (w 0) 16,
    asid := BitVec.ofNat 11 (w 0), pinbase := BitVec.ofNat 52 (w 1), tvec := BitVec.ofNat 32 (bitsOf (w 2) 32 32),
    nphase := bitsOf (w 2) 16 3, allot := bitsOf (w 2) 0 7,
    code := (List.range 4).map fun i => (bitsOf (w (4 + 2 * i)) 0 57, bitsOf (w (5 + 2 * i)) 0 30 + 1),
    levels := (List.range 6).map fun i =>
      let v := w (12 + i)
      let kind := bitsOf v 32 2
      let e := ext.getD i 0
      ⟨if kind != 0 && e != 0 then e else bitsOf v 0 32, kind, bitsOf v 36 4⟩,
    budgets := (List.range 8).map fun i => BitVec.ofNat 24 (half (36 + i)),
    fmt := (List.range 16).map fun i => BitVec.ofNat 32 (half (44 + i)),
    phases := (List.range (min 4 (bitsOf (w 2) 16 3))).map fun i => (bitsOf (w (30 + i)) 0 32, bitsOf (w (30 + i)) 32 32),
    toks := (List.range 16).map fun i =>
      let v := w (35 + 2 * i)
      if bitOf v 32 then some (bitsOf (w (34 + 2 * i)) 0 57, bitsOf v 0 30 + 1, bitOf v 30, bitOf v 31) else none }

/-- The reservation T of an operator (R200). -/
def OpRec.reserve (o : OpRec) : Nat := (o.spad + o.spill + 8191) / 8192 * 8192

/-- Tile runs of an operator: the product of the extents of its C and D levels (R22). -/
def OpRec.total (o : OpRec) : Nat := o.levels.foldl (fun n l => if 2 ≤ l.kind then n * l.extent else n) 1

/-- A phase buffer breaks R207. -/
def OpRec.phaseBad (o : OpRec) : Bool :=
  let bad := fun (p : Nat × Nat) => p.1 % 256 != 0 || p.2 % 256 != 0 || decide (p.2 < 256) || decide (o.reserve - o.spill < p.1 + 2 * p.2)
  let rec clash : List (Nat × Nat) → Bool
    | [] => false
    | p :: r => (r.any fun q => decide (p.1 < q.1 + 2 * q.2) && decide (q.1 < p.1 + 2 * p.2)) || clash r
  decide (4 < o.nphase) || o.phases.any bad || clash o.phases

/-- Dies on which a partition has cores, ascending. -/
def Part.dies (t : Part) : List (Fin 4) := (List.finRange 4).filter fun d => bitsOf t.clusters.toNat (4 * d.val) 4 != 0

/-- The Warren queue of a resident operator is not one of the partition on some die of it (R336). -/
def State.noWarren (s : State) (p : Fin 16) (o : OpRec) : Bool :=
  match s.hub.parts.at p with
  | none => true
  | some t => t.dies.any fun d =>
    let w := (s.dies.at d).warren.at o.wq
    w.cap == 0 || w.owner != p

/-- The lowest reason for which an operator is rejected at its record (R336), none if it is admitted. -/
def State.recordReason (s : State) (p : Fin 16) (w : Nat → Nat) (o : OpRec) : Option Nat :=
  if 288 * 1024 < o.reserve then some 1
  else if 64 < 12 * o.allot || (0 < o.nphase && 64 < 24 * o.allot) then some 2
  else if o.phaseBad then some 3
  else if (o.levels.any fun l => l.kind != 0 && l.extent == 0) || 2 ^ 48 < o.total then some 4
  else if (List.range 128).any fun n => w n &&& recordMask n != w n then some 5
  else if o.resident && s.noWarren p o then some 10
  else if 4 < bitsOf (w 0) 24 3 || o.pinbase.toNat % 32 != 0 || o.tvec.toNat % 4 != 0 then some 13
  else none

/-- The front end rejects an operator (R336): its record is reported and the chain ends with the one before it. -/
def State.rejectOp (s : State) (k : Queue) (p : Packet) (record reason what : Nat) : State :=
  (s.modPacket k.num p.uid fun p =>
    { p with aborted := true, next := p.count, ops := p.ops.filter fun o => o.record != record }).postRec k.num (packetRec k p 3 reason record what)

/-- The LAUNCH whose tile runs are dispatched now: the first packet of its queue that is work (R327). -/
def QueueWork.current (w : QueueWork) : Option Packet :=
  (w.packets.find? Packet.isWork).filter fun p => p.started && p.ty == 1

/-- The operator of a packet whose tile runs are dispatched now. -/
def Packet.currentOp (p : Packet) : Option OpStat := p.ops.find? OpStat.more

/-! ## Shadow banks (R337) -/

/-- A core's shadow bank is written. -/
def State.fill (s : State) (c : CoreId) (b : Shadow) : State := s.modCore c fun k => k.modAux fun a => { a with shadow := some b }

/-- The next record of a chain is read (R334, R336): admitted, it enters a core's shadow bank. -/
def State.readRecord (s : State) (c : CoreId) (k : Queue) (p : Packet) : State :=
  let a := p.word 1 + 1024 * p.next
  let s := (List.range 8).foldl (fun s i => s.homeRead (lineOf (memKey 0 a) + i)) s
  let w := fun n => s.mem.num (memKey 0 a + 8 * n) 8
  let o := parseRecord w p.extents
  match s.recordReason k.part w o with
  | some reason => s.rejectOp k p p.next reason 0
  | none =>
    let st : OpStat := ⟨p.next, o, 0, none, false, [], [], o.total, 0, 0⟩
    (s.modPacket k.num p.uid fun p => { p with next := p.next + 1, ops := p.ops ++ [st] }).fill c ⟨k.num, p.uid, p.next, o⟩

/-- The queue of a partition whose next operator goes into a shadow bank; which one is left open (notes/assumptions/31.md). -/
def State.shadowQueue (s : State) (part : Fin 16) : Option (Queue × QueueWork) × State :=
  let l := s.hub.queues.filter fun e => e.1.part == part && e.2.current.isSome && e.2.waiting.isEmpty
  let (n, s) := s.freeNat
  (l[n % l.length]?, s)

/-- `SHADOW_BANK_FILL` (R337): from the operator of the tile run assigned to the core, else from the next operator of its queue. -/
def execShadowBankFill (c : CoreId) (s : State) : Host.Outcome State Fault Refusal :=
  match (s.core c).aux.next, s.partOf c with
  | some r, _ => .next (s.fill c ⟨r.queue, r.launch, r.record, r.op⟩)
  | none, none => .next s
  | none, some part =>
    if !s.runs part then .next s
    else match s.shadowQueue part with
    | (none, s) => .next s
    | (some (k, w), s) =>
      match w.current with
      | none => .next s
      | some p =>
        match p.currentOp with
        | some o => .next (s.fill c ⟨k.num, p.uid, o.record, o.op⟩)
        | none =>
          if p.count ≤ p.next then .next s
          else if !s.inMap (p.word 1 + 1024 * p.next) 1024 then .fault .noSuchRing
          else .next ((s.readRecord c k p).settle k.num)

/-! ## Pinning (R335) -/

/-- The extent of pin n of an operator: code extents 0 to 3, then tokens; none for a token entry that is not present. -/
def OpStat.pinExtent (o : OpStat) : Option (Nat × Nat × Bool × Bool) :=
  if o.pins < 4 then (o.op.code[o.pins]?).map fun e => (e.1, e.2, true, false)
  else (o.op.toks[o.pins - 4]?).getD none

/-- The operator of a queue that is being pinned. -/
def Packet.pinning (p : Packet) : Option OpStat := p.ops.find? fun o => decide (o.pins < 20)

/-- One pin of an operator is made or passed. -/
def OpStat.pinned (o : OpStat) (runs : List Run) (tok : W64) : OpStat :=
  if o.pins < 4 then { o with pins := o.pins + 1, code := o.code ++ [runs], bypass := none, refused := false }
  else { o with pins := o.pins + 1, toks := o.toks ++ [tok], bypass := none, refused := false }

/-- One pin of an operator (R335, R356): it is made, waits for a page, or fails with reason 6 or 7. -/
def State.pinOne (s : State) (k : Queue) (p : Packet) (o : OpStat) (t : Fin 16) : State :=
  let isCode := decide (o.pins < 4)
  let fail := fun (s : State) (cause : BitVec 8) => s.rejectOp k p o.record (if isCode then 6 else 7) cause.toNat
  let done := fun (s : State) (runs : List Run) (tok : W64) => s.modOp k.num p.uid o.record fun o => o.pinned runs tok
  match o.pinExtent with
  | none => done s [] 0
  | some (va, len, rd, wr) =>
    if o.refused then fail s cREFUSED
    else if !extentOk va len then fail s cPERM
    else if !isCode && (s.freePin o.op.pinbase).isNone then fail s cFRAGMENT
    else
      let w : Walker := ⟨k.part, o.op.asid, wr, isCode, o.bypass.toList⟩
      match s.walkExtent t w va len with
      | (.absent v, s) =>
        if !s.hasRing k.part then fail s cREFUSED
        else
          let (_, s) := s.reqPage k.part none (some k.num) o.op.asid v wr false
          s.flushPreqs k.part
      | (.fail cause _ _, s) => fail s cause
      | (.ok runs ls, s) =>
        if isCode then done (s.markLeaves t wr ls) runs 0
        else if s.revoked o.op.asid va len then s
        else match s.freePin o.op.pinbase with
        | none => fail s cFRAGMENT
        | some i =>
          let watch := match s.hub.parts.at k.part with | some t => t.watch | none => false
          let (g, s) := s.takePin o.op.pinbase i va len o.op.asid rd wr false 0
          let r : PinRuns := ⟨o.op.pinbase, o.op.asid, BitVec.ofNat 10 i, BitVec.ofNat 12 g, none, 1, va, len, runs⟩
          let s := (s.markLeaves t wr ls).storePin t r
          done s [] (mkToken len 0 false rd wr watch g i)

/-- The first cluster of a partition. -/
def Part.firstCluster (t : Part) : Option (Fin 16) := (List.finRange 16).find? fun i => t.clusters.getLsbD i.val

/-- `OPERATOR_PINNING` (R335): the next pin of the operator that a queue pins; it waits while a page request of the queue stands. -/
def execOperatorPinning (q : Fin 4096) (s : State) : Host.Outcome State Fault Refusal :=
  match s.queue q with
  | none => .next s
  | some (k, w) =>
    match w.current, (s.hub.parts.at k.part).bind Part.firstCluster with
    | some p, some t =>
      match p.pinning with
      | none => .next s
      | some o =>
        if !s.runs k.part || s.hub.preqs.any fun r => r.queue == some q then .next s
        else .next ((s.pinOne k p o t).settle q)
    | _, _ => .next s

/-! ## Dispatch (R22, R333) -/

/-- The indices of levels 1 to 6 of a tile run (R22). -/
def OpRec.indices (o : OpRec) (ordinal : Nat) : List Nat :=
  (o.levels.foldr (fun l (r : List Nat × Nat) =>
    if 2 ≤ l.kind then (r.2 % l.extent :: r.1, r.2 / l.extent) else (0 :: r.1, r.2)) ([], ordinal)).1

/-- The combined index over the D levels, none without a D level (R22). -/
def OpRec.dieIndex (o : OpRec) (ix : List Nat) : Option Nat :=
  if o.levels.any fun l => l.kind == 3 then
    some ((o.levels.zip ix).foldl (fun d e => if e.1.kind = 3 then d * e.1.extent + e.2 else d) 0)
  else none

/-- A core to which a tile run may be given. -/
def Core.isFree (k : Core) : Bool := k.mode == .free && k.aux.next.isNone && !k.aux.hold

/-- Where the next tile run of an operator goes in a partition, none while it waits (R22). -/
def State.placeFor (s : State) (t : Part) (o : OpRec) (ix : List Nat) : Option CoreId :=
  let die := (o.dieIndex ix).map fun d => t.dies[d % t.dies.length]?
  coreIds.find? fun c => t.clusters.getLsbD (clusterOf c).val && (s.core c).isFree && (match die with
    | none => true
    | some e => e == some (dieOf c))

/-- The packet and operator whose tile run a queue would dispatch now. -/
def nextRun (e : Queue × QueueWork) : Option (Packet × OpStat) :=
  if !e.2.waiting.isEmpty then none
  else match e.2.current with
  | none => none
  | some p => match p.currentOp with
    | none => none
    | some o => if o.pins = 20 then some (p, o) else none

/-- The queues of a partition in the order in which they are offered a core (R333). -/
def State.offers (s : State) (p : Fin 16) (rr : Nat) : List (Queue × QueueWork) :=
  let mine := s.hub.queues.filter fun e => e.1.part == p
  let heap := (mine.filter fun e => 0 < e.1.budget && e.1.ready).mergeSort fun a b =>
    decide (a.1.srv.1 < b.1.srv.1) || (decide (a.1.srv.1 = b.1.srv.1) && decide (a.1.num.val ≤ b.1.num.val))
  let best := (mine.filter fun e => e.1.budget == 0).mergeSort fun a b =>
    decide ((a.1.num.val + 4096 - rr) % 4096 ≤ (b.1.num.val + 4096 - rr) % 4096)
  heap ++ best

/-- The n-th tile run of an operator of a packet. -/
def tileRun (k : Queue) (pk : Packet) (o : OpStat) (n : Nat) : TileRun :=
  { op := o.op, addr := pk.word 1 + 1024 * o.record, queue := k.num, launch := pk.uid, packet := pk.n, tag := BitVec.ofNat 32 pk.tag,
    record := o.record, ordinal := n, ix := o.op.indices n, code := o.code, toks := o.toks }

/-- The n-th tile run of an operator is assigned to a core. -/
def State.assign (s : State) (k : Queue) (pk : Packet) (o : OpStat) (n : Nat) (c : CoreId) : State :=
  (s.modOp k.num pk.uid o.record fun o => { o with dispatched := o.dispatched + 1 }).modCore c fun c =>
    c.modAux fun a => { a with next := some (tileRun k pk o n) }

/-- Tile runs of an operator from the n-th on, assigned in order, each to the core that R22 gives it; none where one of them finds no core. -/
def State.assignFrom (t : Part) (k : Queue) (pk : Packet) (o : OpStat) : Nat → Nat → State → Option State
  | 0, _, s => some s
  | left + 1, n, s =>
    match s.placeFor t o.op (o.op.indices n) with
    | none => none
    | some c => State.assignFrom t k pk o left (n + 1) (s.assign k pk o n c)

/-- What a queue dispatches at a time: the next tile run, or, of a resident operator, all that it has (R338, notes/assumptions/34.md). -/
def State.dispatchOf (s : State) (t : Part) (k : Queue) (pk : Packet) (o : OpStat) : Option State :=
  if !o.op.resident then State.assignFrom t k pk o 1 o.dispatched s
  else if 768 < o.total - o.dispatched then none
  else State.assignFrom t k pk o (o.total - o.dispatched) o.dispatched s

/-- The first queue that can place what it dispatches next, and the state with it placed. -/
def State.offer (s : State) (t : Part) : List (Queue × QueueWork) → Option (Queue × State)
  | [] => none
  | e :: r =>
    match (nextRun e).bind fun p => s.dispatchOf t e.1 p.1 p.2 with
    | none => s.offer t r
    | some u => some (e.1, u)

/-- The compute dies and the front end run: every die has reported ready (R363), and no thermal trip has powered the dies down (R374). -/
def State.diesUp (s : State) : Bool := (match s.hub.brock.boot with | .running _ => true | _ => false) && !s.hub.power.tripped

/-- `TILE_RUN_DISPATCH` (R22, R333, R338): one tile run of a partition is assigned to a free core, or all those of a resident operator. -/
def execTileRunDispatch (p : Fin 16) (s : State) : Host.Outcome State Fault Refusal :=
  match s.hub.parts.at p with
  | none => .next s
  | some t =>
    if t.pre != .none || !s.diesUp then .next s
    else match s.offer t (s.offers p t.rr) with
    | none => .next s
    | some (k, s) =>
      let s := if k.budget ≠ 0 then s
        else s.modHub fun h => { h with parts := h.parts.mod p fun t => t.map fun t => { t with rr := (k.num.val + 1) % 4096 } }
      .next (s.settle k.num)

/-! ## The start of a tile run (R109, R201, R211, R226, R237, R337) -/

/-- The L1 lines that stay when the L1 keeps the slabs below a bound: those that stand in them (R201). -/
def trimL1 (ways : Nat) (l : List L1Line) : List L1Line := l.filter fun x => x.slab < ways

/-- A core at the start of a tile run: the boundary conversion, then the state of R109, R211 and R226. -/
def Core.started (k : Core) (r : TileRun) (raceMode : Bool) : Core :=
  let o := r.op
  let keep := if k.aux.lastAsid = o.asid && k.aux.lastPin = o.pinbase then min k.aux.resv o.reserve else 0
  let b := o.budgets.getD 0 0
  let fl : Flow := { Flow.reset with budget := if b = 0 then Config.budgetDefault else b }
  let level := fun (n : Nat) => BitVec.ofNat 64 (r.ix.getD n 0)
  let ix : File W64 6 := Vector.ofFn fun n => level n.val
  { Core.reset with
    mode := .running,
    ctx := (File.all 4 Ctx.reset).put 0
      { Ctx.reset with live := true, flow := fl, s := Vector.ofFn fun n => if n.val < 6 then level n.val else BitVec.ofNat 64 r.ordinal },
    ld := { LSeq.reset with flow := fl, ix := ix }, st := { LSeq.reset with flow := fl, ix := ix },
    ex := { Ex.reset with flow := fl, ix := ix, fmt := Vector.ofFn fun n => o.fmt.getD n.val 0 },
    frames := [⟨Fin.ofNat 512 (512 - o.frame), o.frame, 0, none, 0, false, none, false⟩],
    k := Vector.ofFn fun n => r.toks.getD n.val 0,
    cr := { Cregs.reset with trapVec := o.tvec, raceMode := raceMode, pinBase := o.pinbase, asid := o.asid },
    spad := k.spad.clear keep (2 ^ 19),
    l1 := trimL1 (Config.slabs - o.reserve / Config.slabBytes) k.l1,
    aux := { CoreAux.reset with resv := o.reserve, spill := o.spill, run := some r, shadow := none, ecall := k.aux.ecall,
                                lastAsid := o.asid, lastPin := o.pinbase, icache := k.aux.icache } }

/-- The tiles of a core's window read +0.0 (R237). -/
def Sett.clearTiles (t : Sett) (c : CoreId) : Sett :=
  let lo := 5 * (inGroup c).val * 8192
  { t with cells := t.cells.filter fun e => !(decide (lo ≤ e.1) && decide (e.1 < lo + 5 * 8192)) }

/-- The condition set by dep (R334): the previous operator of the chain has retired and its writes are performed. -/
def State.depMet (s : State) (r : TileRun) : Bool :=
  !r.op.dep || (match s.queue r.queue with
    | none => true
    | some (k, w) =>
      (w.packets.all fun p => p.uid != r.launch || p.ops.all fun o => decide (r.record ≤ o.record)) &&
      !s.looseOf fun c => s.partOf c == some k.part)

/-- `SHADOW_BANK_SWAP` (R201, R337): the tile run assigned to a core starts. -/
def execShadowBankSwap (c : CoreId) (s : State) : Host.Outcome State Fault Refusal :=
  let k := s.core c
  match k.aux.next with
  | none => .next s
  | some r =>
    if k.mode != .free || k.aux.hold || k.aux.shadow != some ⟨r.queue, r.launch, r.record, r.op⟩ || !s.depMet r then .next s
    else
      let mode := match (s.partOf c).bind fun p => s.hub.parts.at p with | some t => t.raceMode | none => false
      let s := s.mergeCore c
      .next ((s.modCore c fun k => k.started r mode).modSett (settOf c) fun t => t.clearTiles c)

/-! ## Retirement (R24, R123, R339) -/

/-- A tile run stands in an address context. -/
def TileRun.under (r : TileRun) (asid : BitVec 11) (base : BitVec 52) : Bool := r.op.asid == asid && r.op.pinbase == base

/-- An address context is resident (R123). -/
def State.resident (s : State) (asid : BitVec 11) (base : BitVec 52) : Bool :=
  coreIds.any fun c => ((s.core c).aux.run.toList ++ (s.core c).aux.next.toList).any fun r => r.under asid base

/-- Translation units and ingress MMUs drop what they hold for an address context that is no longer resident (R123). -/
def State.dropContext (s : State) (asid : BitVec 11) (base : BitVec 52) : State :=
  if s.resident asid base then s
  else
    let keep := fun (p : PinRuns) => !(p.asid == asid && p.base == base)
    State.forgetPins { s with tus := s.tus.map fun t => { t with pins := t.pins.filter keep },
                              dies := s.dies.map fun e => { e with pins := e.pins.filter keep } } base

/-- A tile run of an operator has retired or ended (R26, R339): the operator retires with its last one. -/
def State.countRun (s : State) (r : TileRun) : State :=
  (s.modPacket r.queue r.launch fun p => { p with ops := (p.ops.map fun o =>
    if o.record = r.record then { o with retired := o.retired + 1 } else o).filter fun o => decide (o.retired < o.total) }).settle r.queue

/-- What R24 and R339 ask of a core's work before it is free, update lines apart. -/
def State.drained (s : State) (c : CoreId) : Bool :=
  let k := s.core c
  s.quiet c && k.ex.flight.isEmpty && k.cr.marks == 0xFFFFFFFF && k.aux.posted.isEmpty && !s.looseOf fun d => d == c

/-- The completion posts of every memory word have been applied (R24). -/
def Core.postsApplied (k : Core) : Bool :=
  k.ld.pend.isEmpty && k.st.pend.isEmpty && !k.ld.heldSb && !k.ld.heldSa && !k.st.heldSb && !k.st.heldSa

/-- All four sequencers have issued `halt`. -/
def Core.allHalted (k : Core) : Bool := (k.ctx.at 0).flow.halted && k.ld.flow.halted && k.ex.flow.halted && k.st.flow.halted

/-- A core without a tile run: counters, queues and stream registers cleared (R14 to R16, R24). -/
def Core.retired (k : Core) : Core :=
  { k with mode := .free, hand := none, ld := { k.ld with pend := [], heldSb := false, heldSa := false },
           st := { k.st with pend := [], heldSb := false, heldSa := false }, rings := File.all 8 0, values := File.all 3 [], outcomes := File.all 3 [], streams := File.all 16 [],
           aux := { k.aux with run := none, fault := none, trap := none, prior := Prior.reset, phases := Phases.reset } }

/-- `TILE_RUN_RETIRE` (R24, R339): a tile run whose work is all done retires, or an ended one, whose held posts go with it, frees its core. -/
def execTileRunRetire (c : CoreId) (s : State) : Host.Outcome State Fault Refusal :=
  let k := s.core c
  match k.aux.run with
  | none => .next s
  | some r =>
    if !((k.mode == .running && k.allHalted && k.postsApplied) || k.mode == .ended) || !s.drained c then .next s
    else
      let s := (((s.mergeCore c).endLease c).dropWait c).modCore c Core.retired
      .next ((s.countRun r).dropContext r.op.asid r.op.pinbase)

/-- `MACHINE_CHECK_CORE_CLEAR` (R345): once its started commands have finished, a machine-checked core returns to its reset state; its L1
is written back. -/
def execMachineCheckCoreClear (c : CoreId) (s : State) : Host.Outcome State Fault Refusal :=
  let k := s.core c
  if k.mode != .checked || !(s.allCmds c).isEmpty || s.looseOf (fun d => d == c) then .next s
  else
    let s := (s.mergeCore c).modCore c fun k => { Core.reset with aux :=
      { CoreAux.reset with ecall := k.aux.ecall, next := k.aux.next, shadow := k.aux.shadow, hold := k.aux.hold } }
    match k.aux.run with
    | none => .next s
    | some r => .next ((s.countRun r).dropContext r.op.asid r.op.pinbase)

end Sys2Proof.Machine
end

