-- ==== Sys2Proof/Machine/Paths.lean ====
section
/-! DEFINITION. The state of links and paths: changes of a link's state and retraining (R302), and the resending of requests (R297, R307,
R309). -/

namespace Sys2Proof.Machine

/-! ## The state of a link (R297, R302, R352) -/

/-- The link-state entries of the package's own links that are not down (R297). -/
def State.ownUp (s : State) (f : Fabric) : List (Fin 64 × Port) :=
  (List.finRange 4).flatMap fun d => [Port.xp, .xm, .yp, .ym, .zp, .zm].filterMap fun p =>
    if (s.link d p).state != .down then some (f.dieAddr d, p) else none

/-- The port of a number (R352). -/
def portAt (n : Nat) : Option Port := [Port.xp, .xm, .yp, .ym, .zp, .zm][n]?

/-- The code of a link's state (R352). -/
def LinkState.num : LinkState → Nat
  | .down => 0 | .full => 1 | .half => 2 | .retraining => 3

/-- A link of a die of the package changes its state, at both ends where both are of the package; the change is an event and a record
(R302, R352, R367). A link that goes down loses what it carried. -/
def State.setLink (s : State) (d : Fin 4) (p : Port) (st : LinkState) : State :=
  if (s.link d p).state = st then s
  else
    let one := fun (s : State) (d : Fin 4) => s.modLink d p fun l =>
      if st = .down then { Link.reset with lanes32 := l.lanes32, fixed := l.fixed, rxFixed := l.rxFixed, keyCtr := l.keyCtr } else { l with state := st }
    let s := one s d
    let s := match sibling d p with | some e => one s e | none => s
    let s := s.postEvent 9 (LinkState.num st) 0 (p.num.val * 2 ^ 8 + (s.hub.fab.dieAddr d).val)
    s.scree (Fin.ofNat 5 d.val) 0x22 (BitVec.ofNat 64 p.num.val)

/-! ## Records of links (R302 to R305, R367) -/

/-- A record of a link in Scree: port, and a sequence number or kind (notes/assumptions/18.md). -/
def State.linkRecord (s : State) (d : Fin 4) (code : Nat) (p : Port) (x : Nat) : State :=
  s.scree (Fin.ofNat 5 d.val) code (BitVec.ofNat 64 (x * 2 ^ 32 + p.num.val))

/-! ## Resending (R297, R307, R309) -/

/-- A flit with the directions of a path. -/
def Flit.turn (f : Flit) (dirs : Nat) : Flit := { f with hdr := BitVec.ofNat 64 (f.hdr.toNat / 8 * 8 + dirs) }

/-- A source resends a request that awaits its response; toward an unreachable die it fails, and one that no item waits for is given up. -/
def State.resend (s : State) (d : Fin 4) (r : Req) : State :=
  let change := fun (s : State) (g : Req → Req) => s.modDie d fun e => { e with reqs := e.reqs.map fun q =>
    if q.uid = r.uid && q.piece = r.piece && q.dst = r.dst && q.tag = r.tag && q.answer.isNone then g q else q }
  match s.hub.fab.path (s.hub.fab.dieAddr d).val r.dst.val with
  | none =>
    if r.uid = 0 then s.modDie d fun e => { e with reqs := e.reqs.erase r }
    else
      let s := change s fun q => { q with answer := some [], failed := true }
      (s.postedDone d { r with answer := some [], failed := true }).settleLoose d r.uid
  | some p =>
    let f := Flit.turn r.flit p.dirs
    (change s fun q => { q with flit := f, resent := true }).forward d f

/-- The requests of a die that await responses and that a test admits are resent in order; copies of them that wait at its ports leave, so that
no later one goes first (R297, R308). -/
def State.resendAll (s : State) (d : Fin 4) (which : Req → Bool) : State :=
  let rs := (s.dies.at d).reqs.filter fun r => r.answer.isNone && which r
  let src := (s.hub.fab.dieAddr d).val
  let copy := fun (f : Flit) => f.src == src && f.rkind != 10 && rs.any fun r => r.dst.val == f.dst && r.tag == f.tag && r.epoch == f.epoch
  let s := if rs.isEmpty then s else s.modDie d fun e => { e with
    links := e.links.map fun l => { l with waiting := l.waiting.filter fun f => !copy f } }
  rs.foldl (fun s r => s.resend d r) s

/-- The path of a die's requests to another passes a link, named from either of its ends (R307). -/
def Fabric.passes (f : Fabric) (d : Fin 4) (dst : Fin 64) (p : Port) (ends : List (Fin 4)) : Bool :=
  match f.path (f.dieAddr d).val dst.val with
  | none => false
  | some q => ends.any fun e => q.links.contains (f.dieAddr e, p)

/-- The dies of the package at which a link ends. -/
def linkEnds (d : Fin 4) (p : Port) : List (Fin 4) := d :: (sibling d p).toList

/-! ## Retraining (R302) -/

/-- A link of the package retrains: both replay buffers are cleared, both directions restart. -/
def State.retrain (s : State) (d : Fin 4) (p : Port) (narrow : Bool) : State :=
  if (s.link d p).state = .down then s
  else
    let clear := fun (l : Link) => { l with
      state := .retraining, lanes32 := l.lanes32 || narrow, txSeq := 0, rxSeq := 0xFFF, replay := [], wire := [], discards := 0,
      nakSent := false, stop := 0 }
    let s := (linkEnds d p).foldl (fun s e => s.modLink e p clear) s
    (s.postEvent 9 3 0 (p.num.val * 2 ^ 8 + (s.hub.fab.dieAddr d).val)).linkRecord d 0x21 p 0

/-- Every die resends what awaits a response across a link (R307): at once toward destinations it is not silent toward, toward the others at
the end of the silence (R297). -/
def State.resendAcross (s : State) (d : Fin 4) (p : Port) : State :=
  let ends := linkEnds d p
  let s := (List.finRange 4).foldl (fun s e => s.resendAll e fun r => !(s.dies.at e).silentTo r.dst && s.hub.fab.passes e r.dst p ends) s
  ends.foldl (fun s e => s.pump e p) s

/-- The management interface brings a link up (R302): a module at 32 lanes may have its full width again, to which it retrains; one that was down
carries flits again, and what it lost is resent. -/
def State.bringUp (s : State) (d : Fin 4) (p : Port) : State :=
  let st := (s.link d p).state
  let s := (linkEnds d p).foldl (fun s e => s.modLink e p fun l => { l with lanes32 := false }) s
  match st with
  | .down => (s.setLink d p .full).resendAcross d p
  | .half => s.retrain d p false
  | .full | .retraining => s

end Sys2Proof.Machine
end

