-- ==== Sys2Proof/Machine/Mailbox.lean ====
section
/-! DEFINITION. The management mailbox (R352, R353, R376, R377) and its commands, pre-emption and recovery apart. -/

namespace Sys2Proof.Machine

/-! ## Running a command -/

/-- A field of the payload: n bits from bit lo of the 8 bytes at an offset. -/
def State.pay (s : State) (off lo n : Nat) : Nat := bitsOf (s.hub.mbox.payload.num off 8) lo n

def State.modMbox (s : State) (f : Mailbox → Mailbox) : State := s.modHub fun h => { h with mbox := f h.mbox }

/-- Writes a number of n bytes into the payload. -/
def State.setPay (s : State) (off n v : Nat) : State := s.modMbox fun m => { m with payload := m.payload.putNum off n v }

/-- A command is rejected with a detail code (R376). -/
def State.mboxReject (s : State) (d : Nat) : State := s.modMbox fun m => { m with error := true, detail := BitVec.ofNat 16 d }

/-- GB7 is in recovery mode (R364). -/
def State.inRecovery (s : State) : Bool := s.hub.brock.boot == .recovery

/-- What a command's checks and effect give: rejected with the lowest code that applies, rejected with an effect all the same, or done. -/
inductive Ran where
  | rejected (d : Nat)
  | rejectedIn (d : Nat) (s : State)
  | done (s : State)

/-- A command runs to its end: rejected in recovery mode unless it is accepted there (R364, R376). -/
def State.mboxEnd (s : State) (inRec : Bool) (body : State → Ran) : State :=
  let s := s.modMbox fun m => { m with busy := false }
  let off := s.inRecovery && !inRec
  match body s with
  | .rejected d => s.mboxReject (if off then min d 4 else d)
  | .rejectedIn d t => if off then s.mboxReject (min d 4) else t.mboxReject d
  | .done t => if off then s.mboxReject 4 else t.modMbox fun m => { m with error := false, detail := 0 }

/-- The step of a command: the one that runs comes to its end; where none runs it is written and runs whole; where another runs its write
arrives while the mailbox is busy and is ignored (R352, notes/assumptions/38.md). -/
def State.mboxRun (s : State) (code : Nat) (inRec : Bool) (body : State → Ran) : State :=
  if s.hub.mbox.busy && s.hub.mbox.cmd.toNat != code then s.modMbox fun m => { m with overrun := true }
  else s.mboxEnd inRec body

/-- The first condition of a list that holds, in the order of the codes. -/
def firstOf : List (Bool × Nat) → Option Nat
  | [] => none
  | (b, d) :: r => if b then some d else firstOf r

/-- Rejected with the first condition of a list that holds, else done. -/
def Ran.check (l : List (Bool × Nat)) (s : State) : Ran :=
  match firstOf l with
  | some d => .rejected d
  | none => .done s

/-! ## Tile runs of a partition -/

/-- Cores of a partition. -/
def Part.has (t : Part) (c : CoreId) : Bool := t.clusters.getLsbD (clusterOf c).val

/-- A partition has a tile run, on the dies that a test admits. -/
def State.hasRun (s : State) (p : Fin 16) (on : Fin 4 → Bool) : Bool :=
  match s.hub.parts.at p with
  | none => false
  | some t => coreIds.any fun c => t.has c && on (dieOf c) && ((s.core c).mode != .free || (s.core c).aux.next.isSome)

/-! ## Queues (R324, R331) -/

/-- Cores of a partition, counted. -/
def Part.cores (t : Part) : Nat := 48 * ((List.range 16).filter fun i => t.clusters.getLsbD i).length

/-- Utilisation of a queue (R331). -/
def utilisation (budget period cores : Nat) : Nat := (4096 * budget + period * cores - 1) / (period * cores)

/-- The queue that a descriptor describes (R324). -/
def State.described (s : State) : Queue :=
  let f := fun (n lo len : Nat) => s.pay (0x40 + n) lo len
  { num := Fin.ofNat 4096 (s.pay 0 0 12), part := Fin.ofNat 16 (f 8 16 4), page := s.pay 0 16 9, host := f 8 8 1 == 1, ring := f 0 0 64,
    lsize := f 8 0 5, period := f 0x10 32 32, budget := f 0x10 0 32, cring := f 0x18 0 64, clsize := f 0x20 0 5, vector := f 0x20 32 16,
    holdoff := f 0x20 16 9, thresh := f 0x20 8 8, tail := 0, head := 0, chead := 0, ctail := 0, srv := (0, 0), ready := false }

/-- A reserved field of the descriptor is nonzero. -/
def State.descReserved (s : State) : Bool :=
  let f := fun (n lo len : Nat) => s.pay (0x40 + n) lo len != 0
  f 8 20 44 || f 8 9 7 || f 8 5 3 || f 0x20 48 16 || f 0x20 25 7 || f 0x20 5 3 || f 0x28 0 64 || f 0x30 0 64 || f 0x38 0 64

/-- The descriptor is malformed, or its page is taken (R324). -/
def State.descBad (s : State) (k : Queue) : Bool :=
  s.descReserved || k.ring % 64 != 0 || k.cring % 64 != 0 || decide (k.lsize < 3) || decide (16 < k.lsize) || decide (k.clsize < 3) ||
  decide (16 < k.clsize) || k.period == 0 || decide (2 ^ 24 < k.period) || decide (256 < k.holdoff) || decide (2048 ≤ k.vector) ||
  k.page == 0 || decide (256 < k.page) || (s.hub.parts.at k.part).isNone ||
  s.hub.queues.any fun e => e.1.num != k.num && e.1.part == k.part && e.1.page == k.page

/-- The admission test refuses the queue (R331). -/
def State.refuses (s : State) (k : Queue) : Bool :=
  let cores := match s.hub.parts.at k.part with | some t => t.cores | none => 0
  let others := s.hub.queues.filter fun e => e.1.num != k.num && e.1.budget != 0
  let u := fun (q : Queue) => utilisation q.budget q.period cores
  k.budget != 0 && (decide (k.period * cores < k.budget) || decide (256 ≤ others.length) ||
    decide (4096 < ((others.filter fun e => e.1.part == k.part).map fun e => u e.1).sum + u k))

/-- `CONFIGURE_QUEUE`: the checks and the effect (R324, R331, R351). A rejected descriptor leaves its queue unconfigured. -/
def State.runConfigureQueue (s : State) : Ran :=
  let k := s.described
  let t := s.modHub fun h => { h with queues := h.queues.filter fun e => e.1.num != k.num }
  match firstOf [(s.descBad k, 3), (s.refuses k, 6)] with
  | some d => .rejectedIn d t
  | none => .done (t.modHub fun h => { h with queues := h.queues ++ [(k, ⟨[], [], 0, 0⟩)] })

/-- `CONFIGURE_QUEUE` (R324). -/
def execConfigureQueue (s : State) : Host.Outcome State Fault Refusal := .next (s.mboxRun 0x01 false State.runConfigureQueue)

/-! ## Translation (R125, R131, R139 to R141) -/

/-- `SET_ROOT`: the checks and the effect. -/
def State.runSetRoot (s : State) : Ran :=
  let asid := BitVec.ofNat 11 (s.pay 0 0 11)
  Ran.check [(decide (3 < s.pay 0 16 3) || s.pay 8 0 12 != 0, 3)] (s.modHub fun h => { h with
    roots := (asid, Fin.ofNat 4 (s.pay 0 16 3), s.pay 8 12 40 * 4096) :: h.roots.filter fun r => r.1 != asid })

/-- `SET_ROOT` (R125). -/
def execSetRoot (s : State) : Host.Outcome State Fault Refusal := .next (s.mboxRun 0x02 false State.runSetRoot)

/-- `FLUSH_ASID`: walk and leaf caches lose what walks of the ASID have put there, global entries among them (notes/assumptions/23.md). -/
def State.runFlushAsid (s : State) : Ran :=
  let asid := BitVec.ofNat 11 (s.pay 0 0 11)
  let keep := fun (e : TlbEntry) => e.asid != asid
  .done { s with tus := s.tus.map fun t => { t with walk := t.walk.filter keep, leaf := t.leaf.filter keep } }

/-- `FLUSH_ASID` (R131). -/
def execFlushAsid (s : State) : Host.Outcome State Fault Refusal := .next (s.mboxRun 0x03 false State.runFlushAsid)

/-- Two ranges overlap. -/
def meets (a n b m : Nat) : Bool := decide (a < b + m) && decide (b < a + n)

/-- The range that a cached entry translates. -/
def TlbEntry.span (e : TlbEntry) : Nat × Nat :=
  let n := if e.merged then 2 ^ 16 else leafSize e.level.val
  (e.key * n, n)

/-- The pin tables of resident address contexts, and of pin-store entries, of an ASID. -/
def State.pinBases (s : State) (asid : BitVec 11) : List (BitVec 52) :=
  let runs := coreIds.flatMap fun c => ((s.core c).aux.run.toList ++ (s.core c).aux.next.toList).filterMap fun r =>
    if r.op.asid = asid then some r.op.pinbase else none
  let pins := (List.finRange 16).flatMap fun t => (s.tus.at t).pins.filterMap fun p => if p.asid = asid then some p.base else none
  (runs ++ pins).eraseDups

/-- The entries of a pin table that a range touches and that are ACTIVE or SUSPENDED. -/
def State.toFreeze (s : State) (asid : BitVec 11) (va len : Nat) (base : BitVec 52) : List (BitVec 52 × Nat) :=
  ((List.range Config.pinEntries).filter fun i =>
    (s.pinState base i == 1 || s.pinState base i == 3) && s.pinAsid base i == asid && meets va len (s.pinVa base i) (s.pinLen base i)).map
      fun i => (base, i)

/-- The runs that pin stores and ingress MMUs hold for the extents of an ASID that a range touches. -/
def State.runsOf (s : State) (asid : BitVec 11) (va len : Nat) : List Run :=
  let hit := fun (p : PinRuns) => p.asid == asid && meets va len p.va p.len
  ((List.finRange 16).flatMap fun t => ((s.tus.at t).pins.filter hit).flatMap (·.runs)) ++
  ((List.finRange 4).flatMap fun d => ((s.dies.at d).pins.filter hit).flatMap (·.runs))

/-- `REVOKE`: the checks and the effect, in one step as seen by pin lookups (R139). -/
def State.runRevoke (s : State) : Ran :=
  let asid := BitVec.ofNat 11 (s.pay 0 0 11)
  let va := s.pay 8 0 57
  let len := s.pay 0x10 0 58
  let runs := s.runsOf asid va len
  let ents := (s.pinBases asid).flatMap (s.toFreeze asid va len)
  let t := ents.foldl (fun t e => t.setPinState e.1 e.2 2 true) s
  let ice := fun (p : PinRuns) => if p.asid == asid && meets va len p.va p.len && (p.state == 1 || p.state == 3) then { p with state := 2 } else p
  let keep := fun (e : TlbEntry) => !((e.asid == asid || pteG e.pte.toNat) && meets va len e.span.1 e.span.2)
  let t : State := { t with
    tus := t.tus.map fun u => { u with walk := u.walk.filter keep, leaf := u.leaf.filter keep },
    dies := t.dies.map fun e => { e with pins := e.pins.map ice } }
  Ran.check [(len == 0 || decide (2 ^ 57 < len), 3)]
    (t.modHub fun h => { h with revokes := h.revokes ++ [⟨asid, va, len, runs, ents, false, false⟩] })

/-- `REVOKE` (R139). -/
def execRevoke (s : State) : Host.Outcome State Fault Refusal := .next (s.mboxRun 0x04 false State.runRevoke)

/-- A place lies in a run. -/
def Run.holds (r : Run) (key : Nat) : Bool := decide (memKey r.ty.val r.pa ≤ key) && decide (key < memKey r.ty.val r.pa + r.len)

/-- The update-only lines of every core that touch runs merge (R105, R140). -/
def State.mergeRuns (s : State) (runs : List Run) : State :=
  coreIds.foldl (fun s c =>
    ((s.core c).l1.filter fun l => l.isUpdate && runs.any fun r => meets (memKey r.ty.val r.pa) r.len (l.line * 128) 128).foldl
      (fun s l => s.mergeLine c l.line) s) s

/-- A reduction that has taken contributions into runs is open (R140, R287). -/
def State.openReds (s : State) (runs : List Run) : Bool :=
  (List.finRange 4).any fun d => (s.dies.at d).reds.any fun r => runs.any fun u => u.holds r.key

/-- Two lists of runs share a byte. -/
def runsMeet (a b : List Run) : Bool := a.any fun r => b.any fun u => meets (memKey r.ty.val r.pa) r.len (memKey u.ty.val u.pa) u.len

/-- A lookup has let an access through to frames of a list of runs. -/
def Pin.reaches (p : Pin) (runs : List Run) : Bool := match p with | .near _ l => runsMeet l runs | _ => false

/-- An access that passed its lookup through an entry that a REVOKE froze, or at an ingress into its frames, is still to be performed (R140); one
held at a lookup is not. -/
def State.reaching (s : State) (r : Revoke) : Bool :=
  (coreIds.any fun c => (s.core c).aux.accs.any fun a => match a.pin with
    | some (.near _ l) => r.ents.contains (a.entry.1, a.entry.2) || runsMeet l r.runs
    | _ => false) ||
  (List.finRange 4).any fun d =>
    ((s.dies.at d).reqs.any fun q => q.answer.isNone && ((match q.ing with | some p => p.reaches r.runs | none => false) ||
      (q.flit.rkind == 8 && r.runs.any fun u => u.holds (q.flit.tgt 0 52)))) ||
    (s.dies.at d).serving.any fun e => match e.2.pin with | some p => p.reaches r.runs | none => false

/-- The update-only lines of every core that runs in an address space merge (R105, R140): those of frames whose pin entry a pin store has
evicted are among them. -/
def State.mergeSpace (s : State) (asid : BitVec 11) : State :=
  coreIds.foldl (fun s c => match (s.core c).aux.run with
    | some r => if r.op.asid = asid && (s.core c).l1.any L1Line.isUpdate then s.mergeCore c else s
    | none => s) s

/-- `QUIESCED` (R140): the k-th REVOKE whose QUIESCED has not posted. Update lines of its frames merge; while an access that has passed its
lookup, or an open reduction, is still to reach them the post waits. -/
def execQuiesced (k : Nat) (s : State) : Host.Outcome State Fault Refusal :=
  match (s.hub.revokes.filter fun r => !r.quiesced)[k]? with
  | none => .next s
  | some r =>
    if s.openReds r.runs || s.reaching r then .next s
    else
      let s := ((s.mergeRuns r.runs).mergeSpace r.asid).postEvent 8 0 r.va r.asid.toNat
      let l := s.hub.revokes.erase r
      .next (s.modHub fun h => { h with revokes := if r.released then l else h.revokes.replace r { r with quiesced := true } })

/-- `RESUME`: every REVOKE of the ASID is released (R141). -/
def State.runResume (s : State) : Ran :=
  let asid := BitVec.ofNat 11 (s.pay 0 0 11)
  .done (s.modHub fun h => { h with
    revokes := (h.revokes.map fun r => if r.asid = asid then { r with released := true } else r).filter fun r => !(r.released && r.quiesced) })

/-- `RESUME` (R141). -/
def execResume (s : State) : Host.Outcome State Fault Refusal := .next (s.mboxRun 0x05 false State.runResume)

/-! ## Partitions (R346, R348, R353) -/

/-- The physical ranges of the payload. -/
def State.payRanges (s : State) : List (Nat × Nat) :=
  (List.range (s.pay 0x30 0 5)).map fun j => (s.pay (0x40 + 8 * j) 0 31 * 2 ^ 21, s.pay (0x40 + 8 * j) 32 31 * 2 ^ 21)

/-- The partition that the payload describes, on top of the one that stands. -/
def State.payPart (s : State) (old : Option Part) : Part :=
  let z : Part := { clusters := 0, ranges := [], raceBase := 0, raceK := 0, racePolicy := false, raceMode := false, watch := false,
                    saveBase := 0, preqBase := 0, rlogWr := 0, rlogRd := 0, preqWr := 0, preqRd := 0, pre := .none, preStart := 0, seqno := 0, rr := 0,
                    nextId := 0 }
  { old.getD z with
    clusters := BitVec.ofNat 16 (s.pay 8 0 16), ranges := s.payRanges, raceBase := s.pay 0x10 0 52, raceK := s.pay 0x18 0 5,
    racePolicy := s.pay 0x18 8 1 == 1, raceMode := s.pay 0x18 16 1 == 1, watch := s.pay 0x18 17 1 == 1, saveBase := s.pay 0x20 0 52,
    preqBase := s.pay 0x28 0 52 }

/-- The payload breaks a rule of SET_PARTITION (R353, R377). -/
def State.partBad (s : State) (p : Fin 16) (t : Part) : Bool :=
  decide (16 < s.pay 0x30 0 5) || t.ranges.any (fun r => r.2 == 0) || t.raceBase % 16 != 0 || t.preqBase % 4096 != 0 ||
  (t.raceBase != 0 && (decide (t.raceK < 4) || decide (20 < t.raceK))) ||
  (List.finRange 16).any fun q => q != p && (match s.hub.parts.at q with
    | none => false
    | some o => o.clusters &&& t.clusters != 0 || t.ranges.any fun r => o.ranges.any fun r' => meets r.1 r.2 r'.1 r'.2)

/-- `SET_PARTITION` that creates or changes a partition: the checks and the effect. -/
def State.runSetPartition (s : State) : Ran :=
  let p := Fin.ofNat 16 (s.pay 0 0 4)
  let t := s.payPart (s.hub.parts.at p)
  Ran.check [(s.hasRun p fun _ => true, 2), (s.partBad p t, 3)] (s.modHub fun h => { h with parts := h.parts.put p (some t) })

/-- `SET_PARTITION` (R346): the payload asks for creation or change. -/
def execSetPartition (s : State) : Host.Outcome State Fault Refusal :=
  .next (if s.pay 0 8 1 = 0 then s.mboxRun 0x08 false State.runSetPartition else s)

/-- `SET_PARTITION` that removes a partition: its queues return to unconfigured and its VF leaves (R348). -/
def State.runRemovePartition (s : State) : Ran :=
  let p := Fin.ofNat 16 (s.pay 0 0 4)
  let vf := fun (l : List (Fin 17 × Nat)) => l.filter fun e => e.1.val != p.val
  Ran.check [(s.hasRun p fun _ => true, 2)] (s.modHub fun h => { h with
    parts := h.parts.put p none, queues := h.queues.filter fun e => e.1.part != p, preqs := h.preqs.filter fun r => r.part != p,
    saved := h.saved.filter fun v => v.part != p, msix := { h.msix with masked := vf h.msix.masked, held := vf h.msix.held } })

/-- `SET_PARTITION_REMOVE` (R348): the payload asks for removal. -/
def execSetPartitionRemove (s : State) : Host.Outcome State Fault Refusal :=
  .next (if s.pay 0 8 1 = 1 then s.mboxRun 0x08 false State.runRemovePartition else s)

/-! ## Commons and Warren (R278, R290) -/

/-- The owners of a list have a tile run on a die. -/
def State.ownersBusy (s : State) (d : Fin 4) (l : List (Fin 16)) : Bool := l.any fun p => s.hasRun p fun e => e == d

/-- Memory of an 8 MiB block of a Commons slot is cleared (R278). -/
def State.clearWay (s : State) (d : Fin 4) (j : Nat) : State :=
  let lo := Config.commonsBase + d.val * 2 ^ 26 + j * 2 ^ 23
  let hi := lo + 2 ^ 23
  let out := fun (n unit : Nat) => decide ((n + 1) * unit ≤ lo) || decide (hi ≤ n * unit)
  { s with mem := s.mem.clear lo hi, poison := s.poison.filter fun x => out x 32,
           cores := s.cores.map fun k => { k with l1 := k.l1.filter fun l => out l.line 128 } }

/-- `SET_COMMONS`: the checks and the effect. Ways that enter or leave the Commons lose their contents. -/
def State.runSetCommons (s : State) : Ran :=
  let d := Fin.ofNat 4 (s.pay 0 0 2)
  let n := s.pay 0 8 3
  let owners := (List.range n).map fun j => Fin.ofNat 16 (s.pay 8 (4 * j) 4)
  let old := (s.dies.at d).commons
  let t := ((List.range 7).filter fun j => decide (min n old.length ≤ j) && decide (j < max n old.length)).foldl (fun t j => t.clearWay d j) s
  Ran.check [(s.ownersBusy d (old ++ owners), 2)] (t.modDie d fun e => { e with commons := owners })

/-- `SET_COMMONS` (R278). -/
def execSetCommons (s : State) : Host.Outcome State Fault Refusal := .next (s.mboxRun 0x09 false State.runSetCommons)

/-- `SET_WARREN`: the checks and the effect. A queue whose configuration changes is emptied. -/
def State.runSetWarren (s : State) : Ran :=
  let d := Fin.ofNat 4 (s.pay 0 0 2)
  let units := fun (q : Fin 64) => s.pay (0x40 + 2 * q.val) 0 9
  let new := fun (q : Fin 64) => (⟨Fin.ofNat 16 (s.pay (0x40 + 2 * q.val) 12 4), 256 * units q, []⟩ : WarrenQueue)
  let old := fun (q : Fin 64) => (s.dies.at d).warren.at q
  let same := fun (q : Fin 64) => (old q).owner == (new q).owner && (old q).cap == (new q).cap
  let owners := fun (w : WarrenQueue) => if w.cap = 0 then [] else [w.owner]
  let moved := (List.finRange 64).filter fun q => !same q
  Ran.check
    [(s.ownersBusy d (moved.flatMap fun q => owners (old q) ++ owners (new q)), 2),
     ((List.finRange 64).any (fun q => decide (256 < units q)) || decide (256 < ((List.finRange 64).map units).sum), 3)]
    (s.modDie d fun e => { e with warren := Vector.ofFn fun q => if same q then old q else new q })

/-- `SET_WARREN` (R290). -/
def execSetWarren (s : State) : Host.Outcome State Fault Refusal := .next (s.mboxRun 0x0A false State.runSetWarren)

/-! ## SET_FABRIC (R295 to R297, R311) -/

/-- `SET_FABRIC` of the extents and the package's place: the checks and the effect. They hold until the next cold reset: a second command that
gives them breaks R295 (notes/assumptions/35.md). -/
def State.runGeometry (s : State) : Ran :=
  let x := s.pay 8 0 8
  let y := s.pay 8 8 8
  let z := s.pay 8 16 8
  let a := s.pay 8 32 8
  let b := s.pay 8 40 8
  let c := s.pay 8 48 8
  let f : Fabric := { s.hub.fab with fixed := true, ex := x, ey := y, ez := z, pa := a, pb := b, pz := c }
  let bad := x % 2 != 0 || x == 0 || y % 2 != 0 || y == 0 || z == 0 || decide (64 < x * y * z) || decide (x < 2 * a + 2) ||
    decide (y < 2 * b + 2) || decide (z ≤ c)
  Ran.check [(bad || s.hub.fab.fixed, 3)] (s.modHub fun h => { h with fab := { f with up := s.ownUp f } })

/-- `SET_FABRIC_GEOMETRY` (R295): the payload's operation is 0. -/
def execSetFabricGeometry (s : State) : Host.Outcome State Fault Refusal :=
  .next (if s.pay 0 0 2 = 0 then s.mboxRun 0x0B false State.runGeometry else s)

/-- `SET_FABRIC` of a group: the checks and the effect. -/
def State.runGroup (s : State) : Ran :=
  let g := Fin.ofNat 64 (s.pay 8 0 6)
  let n := s.pay 8 24 7
  let parties := (List.range n).map fun j => Fin.ofNat 64 (s.pay (0x40 + j) 0 6)
  let owner := Fin.ofNat 16 (s.pay 8 16 4)
  let on := s.pay 8 8 1 == 1
  let busy := (match s.hub.fab.groups.at g with | some r => s.hasRun r.owner fun _ => true | none => false) ||
    (on && s.hasRun owner fun _ => true)
  let bad := on && (n == 0 || decide (64 < n) || parties.any (fun d => decide (s.hub.fab.size ≤ d.val)) ||
    decide (parties.eraseDups.length < parties.length))
  Ran.check [(busy, 2), (bad, 3)] (s.modHub fun h => { h with fab := { h.fab with
    groups := h.fab.groups.put g (if on then some ⟨owner, parties⟩ else none) } })

/-- `SET_FABRIC_GROUP` (R311): the payload's operation is 1. -/
def execSetFabricGroup (s : State) : Host.Outcome State Fault Refusal :=
  .next (if s.pay 0 0 2 = 1 then s.mboxRun 0x0B false State.runGroup else s)

/-- `SET_FABRIC` of a link: the checks and the effect. Of a link of another package the management interface is told; the routers' tables follow
(R297). -/
def State.runLink (s : State) : Ran :=
  let a := s.pay 8 0 6
  let on := s.pay 8 16 1 == 1
  match portAt (s.pay 8 8 3) with
  | none => .rejected 3
  | some p =>
    Ran.check [(decide (s.hub.fab.size ≤ a) || (on && !s.hub.fab.portOk p), 3)] <|
      match s.hub.fab.dieOf a with
      | some d => if on then s.bringUp d p else s.setLink d p .down
      | none =>
        let e := (Fin.ofNat 64 a, p)
        s.modHub fun h => { h with fab := { h.fab with told := (if on then [e] else []) ++ h.fab.told.filter fun x => x != e } }

/-- `SET_FABRIC_LINK` (R297): the payload's operation is 2. -/
def execSetFabricLink (s : State) : Host.Outcome State Fault Refusal :=
  .next (if s.pay 0 0 2 = 2 then s.mboxRun 0x0B false State.runLink else s)

/-! ## Scree, health and the power cap (R366, R368, R372, R374) -/

/-- `READ_SCREE`: the checks and the results. Records are numbered from 0 in write order. -/
def State.runReadScree (s : State) : Ran :=
  let n := s.pay 0 0 3
  let first := s.pay 8 0 32
  let want := s.pay 0x10 0 5
  let c := s.hub.scree.at (Fin.ofNat 5 n)
  let held := (List.range c.recs.length).filterMap fun i =>
    (c.recs[c.recs.length - 1 - i]?).map fun r => ((c.count.toNat + 2 ^ 32 - c.recs.length + i) % 2 ^ 32, r)
  let out := held.filter fun e => decide ((e.1 + 2 ^ 32 - first) % 2 ^ 32 < want)
  let t := s.setPay 0 8 (c.count.toNat + c.dropped.toNat * 2 ^ 32)
  let t := t.setPay 8 8 (s.hub.frozen.toNat + out.length * 2 ^ 8)
  let t := ((List.range out.length).zip out).foldl (fun (t : State) (e : Nat × Nat × W64 × W64) =>
    ((t.setPay (0x10 + 24 * e.1) 8 e.2.1).setPay (0x18 + 24 * e.1) 8 e.2.2.1.toNat).setPay (0x20 + 24 * e.1) 8 e.2.2.2.toNat) t
  Ran.check [(decide (4 < n) || want == 0 || decide (16 < want), 3)] t

/-- `READ_SCREE` (R368). -/
def execReadScree (s : State) : Host.Outcome State Fault Refusal := .next (s.mboxRun 0x0C true State.runReadScree)

/-- `SCREE_RELEASE`: every copy of Scree is unfrozen. -/
def State.runScreeRelease (s : State) : Ran := .done (s.modHub fun h => { h with frozen := false })

/-- `SCREE_RELEASE` (R366, R368). -/
def execScreeRelease (s : State) : Host.Outcome State Fault Refusal :=
  .next (s.mboxRun 0x0D true State.runScreeRelease)

/-- `READ_HEALTH`: the health block (R372). -/
def State.runReadHealth (s : State) : Ran :=
  let e := s.hub.errors
  let p := s.hub.power
  let t := s.setPay 0 8 (e.why.toNat + e.replace.toNat * 2 ^ 32)
  let t := (List.range 8).foldl (fun (t : State) r => t.setPay (8 + r) 1 (e.floors.getLsbD r).toNat) t
  let t := (List.finRange 13).foldl (fun (t : State) n => t.setPay (0x10 + 2 * n.val) 2 (p.temps.at n).toNat) t
  .done (((t.setPay 0x2A 6 0).setPay 0x30 2 p.watts.toNat).setPay 0x32 6 p.cap.toNat)

/-- `READ_HEALTH` (R372). -/
def execReadHealth (s : State) : Host.Outcome State Fault Refusal := .next (s.mboxRun 0x0E true State.runReadHealth)

/-- `SET_POWER_CAP`: the check and the effect. -/
def State.runSetPowerCap (s : State) : Ran :=
  let w := s.pay 0 0 16
  Ran.check [(decide (w < 600) || decide (1600 < w), 3)] (s.modHub fun h => { h with power := { h.power with cap := BitVec.ofNat 16 w } })

/-- `SET_POWER_CAP` (R374). -/
def execSetPowerCap (s : State) : Host.Outcome State Fault Refusal := .next (s.mboxRun 0x0F false State.runSetPowerCap)

end Sys2Proof.Machine
end

