-- ==== Sys2Proof/Machine/Preempt.lean ====
section
/-! DEFINITION. Pre-emption and restore (R340 to R344). -/

namespace Sys2Proof.Machine

/-! ## PREEMPT (R338, R340, R341) -/

/-- A partition runs a resident operator (R338). -/
def State.hasResident (s : State) (p : Fin 16) : Bool :=
  (coreIds.any fun c => s.partOf c == some p && ((s.core c).aux.run.toList ++ (s.core c).aux.next.toList).any fun r => r.op.resident)

/-- `PREEMPT`: the checks, and dispatch stops. A node-boundary pre-emption of a partition with a resident operator is forced (R338). -/
def State.runPreempt (s : State) : Ran :=
  let p := Fin.ofNat 16 (s.pay 0 0 4)
  match s.hub.parts.at p with
  | none => .rejected 7
  | some t =>
    let forced := s.pay 0 8 1 == 1 || s.hasResident p
    Ran.check [(forced && t.saveBase == 0, 3), (t.pre != .none, 7)] (s.modHub fun h => { h with
      parts := h.parts.put p (some { t with pre := if forced then .forced else .node, preStart := s.hub.timer.toNat }) })

/-- `PREEMPT_NODE` (R340): the payload's mode is 0. -/
def execPreemptNode (s : State) : Host.Outcome State Fault Refusal :=
  .next (if s.pay 0 8 1 = 0 then s.mboxRun 0x06 false State.runPreempt else s)

/-- `PREEMPT_FORCED` (R341): the payload's mode is 1. -/
def execPreemptForced (s : State) : Host.Outcome State Fault Refusal :=
  .next (if s.pay 0 8 1 = 1 then s.mboxRun 0x06 false State.runPreempt else s)

/-! ## The hold (R341) -/

/-- Every `xlat` of a core that waits for a page is abandoned, with its request; it issues again after the restore (R341, R357). -/
def State.abandonPages (s : State) (c : CoreId) : State :=
  (List.finRange 4).foldl (fun s x =>
    match ((s.core c).ctx.at x).xl with
    | some p =>
      if p.req.isNone then s
      else
        let s := s.modHub fun h => { h with preqs := h.preqs.filter fun r => !(r.core == some (c, x) && some r.id == p.req) }
        s.abandonXlat c x
    | none => s) s

/-- `HOLD_REACHES_CORE` (R341): the core's sequencers stop, its counters pause, EX's results move to landing slots, its lease ends. -/
def execHoldReachesCore (c : CoreId) (s : State) : Host.Outcome State Fault Refusal :=
  match (s.partOf c).bind fun p => s.hub.parts.at p with
  | none => .next s
  | some t =>
    let k := s.core c
    if t.pre != .forced || k.aux.hold then .next s
    else
      let s := ((s.modCore c fun k => k.modAux fun a => { a with hold := true }).endLease c).dropWait c
      if k.mode != .running && k.mode != .handler then .next s
      else .next ((((s.dropWadr c).abandonPages c).stopEx c).modCore c Core.leavePhase)

/-! ## The generation fence (R215, R320, R341) -/

/-- A request has done its part: it is answered, or its destination has taken it and answers later; of a destination outside the package, no
copy of it is left on the way. -/
def State.delivered (s : State) (die : Fin 4) (r : Req) : Bool :=
  r.answer.isSome || (match s.hub.fab.dieOf r.dst.val with
    | some e => (s.dies.at e).dedupe.any fun x => x.src == s.hub.fab.dieAddr die && x.tag == r.tag && x.epoch == r.epoch
    | none => !(s.flying.any fun f => f.src == (s.hub.fab.dieAddr die).val && f.dst == r.dst.val && f.rkind != 10 && f.tag == r.tag))

/-- A started command that waits only on other parties, its own reads and sends done: it is saved as it waits (R288, R320). -/
def State.waitsOnOthers (s : State) (d : Cmd) : Bool :=
  let die := dieOf d.core
  let mine := s.reqsOf die d.uid
  match d.body with
  | .xall _ _ _ _ _ g =>
    match s.groupFor d.core g with
    | none => false
    | some (rank, parties) =>
      let others := otherRanks parties.length rank
      if d.stage = 2 then mine.all (fun r => r.answer.isSome) && others.any fun q => ((s.dies.at die).readyOf g q).isNone
      else d.stage == 5 && (match readDesc parties.length d.opA with
        | some ds => s.allAnswered die d.uid (d.xallAsks ds rank parties g) && (d.parts.map (·.1)).sum != ds.expected parties.length rank
        | none => false)
  | .fbar g =>
    match s.groupFor d.core g with
    | none => false
    | some (rank, parties) => d.stage == 2 && (otherRanks parties.length rank).any fun q =>
        decide (((s.dies.at die).bar g).of q < ((d.parts.head?).map (·.1)).getD 0)
  | .fred .. => d.stage == 3 && mine.all (s.delivered die)
  | .reduce .. => d.stage == 2 || (d.stage == 3 && mine.all (s.delivered die))
  | _ => false

/-- An access of a work item of a core through a token is held at a FROZEN entry, here or at an ingress: none of it has passed its lookup
(R136, R143). -/
def State.heldItem (s : State) (c : CoreId) (t : W64) (u : Nat) : Bool :=
  let k := s.core c
  s.frozenTok k t && s.landed (dieOf c) u && !(k.aux.accs.any fun a => a.uid == u && (match a.pin with | some (.near ..) => true | _ => false)) &&
  (s.reqsOf (dieOf c) u).all fun r => r.answer.isSome || r.ing.isNone

/-- A started command held at a FROZEN entry: it is saved unstarted (R143). -/
def State.heldCmd (s : State) (d : Cmd) : Bool := d.toks.any fun t => s.heldItem d.core t d.uid

/-- A command that the fence still starts: older than the core's generation, its waits complete, and nothing of its partition before it in
its queue that cannot start (R341). -/
def State.mustStart (s : State) (d : Cmd) : Bool :=
  let q := if d.body.engine = 9 then (s.setts.at (settOf d.core)).queue else s.queueOfCmd d
  let before := q.takeWhile fun e => e.uid != d.uid
  !d.started && s.isOlder d && (s.core d.core).waitsDone d.waits &&
  before.all fun e => e.started || s.heldBack e || s.partOf e.core != s.partOf d.core

/-- Every access of the core's sequencers is performed, but for those held at FROZEN entries (R143, R215). -/
def State.wordsSettled (s : State) (c : CoreId) : Bool :=
  let k := s.core c
  let held := s.heldItem c
  ((k.ld.pend ++ k.st.pend).all fun p => p.done || (match p.op with | .eng _ => true | _ => held p.tok p.uid)) &&
  (List.finRange 4).all fun x =>
    let d := k.ctx.at x
    d.xl.isNone && d.loads.all (fun l => held l.tok l.uid) && d.stores.all fun l => held l.tok l.uid

/-- A core has passed the fence (R341), or has nothing to save. -/
def State.passed (s : State) (c : CoreId) : Bool :=
  let k := s.core c
  k.aux.hold && (k.mode == .free ||
    ((k.mode == .running || k.mode == .handler) && k.aux.trap.isNone && s.wordsSettled c && k.aux.posted.isEmpty && !s.looseOf (fun d => d == c) &&
      ((s.allCmds c).all fun d => if d.started then s.waitsOnOthers d || s.heldCmd d else !s.mustStart d)))

/-! ## The save area (R342, R343) -/

/-- An event about a partition (R328, R352). -/
def State.postPart (s : State) (p : Fin 16) (kind reason : Nat) : State :=
  s.modHub fun h => { h with mbox := { h.mbox with
    events := h.mbox.events ++ [mkRec (p.val * 2 ^ 28 + 0xFFF * 2 ^ 16 + reason * 2 ^ 8 + kind) 0 0 0 0 0 0 0] } }

/-- Kind and index of a landing slot's destination, and whether it is `fbase` (R233). -/
def slotKind : ExDest → Nat × Nat × Bool
  | .z (.zh n) _ => (0, n.val, false)
  | .z (.zv n) _ => (1, n.val, false)
  | .z (.zd n) _ => (2, n.val, false)
  | .z _ _ => (0, 0, false)
  | .stream q _ => (3, q.val, false)
  | .mask n => (4, n.val, false)
  | .sc => (5, 0, false)
  | .dsc n => (6, n.val, false)
  | .fmt n => (7, n.val, false)
  | .fbase => (7, 0, true)
  | .spad _ => (0, 0, false)

/-- A landing slot as 272 bytes (R233). -/
def slotBytes : Option InFlight → List Byte
  | none => List.replicate 272 0
  | some f =>
    let (kind, index, fb) := slotKind f.dest
    bytesOfNat 8 f.lanes.toNat ++
      bytesOfNat 8 (f.flags.toNat * 2 ^ 24 + fb.toNat * 2 ^ 20 + f.zb.val * 2 ^ 16 + index * 2 ^ 11 + kind * 2 ^ 8 + f.land % 16 * 2 ^ 4 + 1) ++
      bytesOfNat 256 f.value.toNat

/-- The slots of a stream register that are full, by place and line. -/
def Core.streamLines (k : Core) : List (Nat × List Byte) :=
  (List.finRange 16).flatMap fun q => ((List.range 8).zip (k.streams.at q)).filterMap fun e =>
    e.2.data.map fun l => (0x7400 + (q.val * 8 + e.1) * 256, bytesOfNat 256 l.toNat)

/-- The accumulator tiles of a core that are in use, working then committed, as bytes: a tiles, or 2a with phase buffers (R207, R237, R343). -/
def State.tileBytes (s : State) (c : CoreId) : List Byte :=
  let a := match (s.core c).aux.run with | some r => if r.op.nphase = 0 then r.op.allot else 2 * r.op.allot | none => 0
  let cells := (s.setts.at (settOf c)).cells
  (List.range (8192 * a)).flatMap fun i => bytesOfNat 4 (cellGet cells (8192 * (5 * (inGroup c).val) + i)).toNat

/-- The regions of a core block that hold what the manual says: k0 to k15, landing slots, window file, Z, stream slots, scratchpad up to T,
accumulator tiles (R343; notes/assumptions/13.md). -/
def State.fixedRegions (s : State) (c : CoreId) : List (Nat × List Byte) :=
  let k := s.core c
  [(0x0900, (List.finRange 16).flatMap fun n => bytesOfNat 8 (k.k.at n).toNat),
   (0x1D00, (List.finRange 16).flatMap fun n => slotBytes (k.ex.slots.at n)),
   (0x2E00, (List.finRange 512).flatMap fun n => bytesOfNat 8 (k.cells.at n).toNat),
   (0x5400, (List.finRange 1024).flatMap fun n => bytesOfNat 8 (k.ex.z.at n).toNat)] ++ k.streamLines ++
  [(0xF400, k.spad.read 0 k.aux.resv), (0x57400, s.tileBytes c)]

/-- The regions of a core block whose bytes the manual leaves open, by offset and length. -/
def openRegions : List (Nat × Nat) := [(0x0000, 0x900), (0x0980, 0x1380), (0x3E00, 0x1600), (0x7400, 0x8000)]

/-- Regions with open bytes. -/
def State.freeRegions (s : State) (base : Nat) : List (Nat × Nat) → List (Nat × List Byte) × State
  | [] => ([], s)
  | (o, n) :: r =>
    let (b, s) := s.freeBytes n
    let (l, s) := State.freeRegions s base r
    ((base + o, b) :: l, s)

/-- The core blocks of a partition's cores, in package order (R343). -/
def State.coreBlocks (s : State) : Nat → List CoreId → List (Nat × List Byte) × State
  | _, [] => ([], s)
  | base, c :: r =>
    let (own, s) := if (s.core c).mode = .free then (([] : List (Nat × List Byte)), s) else
      let (l, s) := s.freeRegions base openRegions
      (l ++ (s.fixedRegions c).map (fun e => (base + e.1, e.2)), s)
    let (l, s) := State.coreBlocks s (base + 0x80000) r
    (own ++ l, s)

/-- The header of a save area but for its tag (R342); core blocks, die blocks and queue state follow it in this order
(notes/assumptions/13.md). -/
def saveHeader (p : Fin 16) (ncores : Nat) (asid : BitVec 11) (base : BitVec 52) (seqno : Nat) : List Byte :=
  bytesOfNat 8 (0x80000 * 2 ^ 32 + 0x100 * 2 ^ 16 + 1) ++ bytesOfNat 8 (ncores * 2 ^ 32 + asid.toNat * 2 ^ 16 + p.val) ++
  bytesOfNat 8 0x100 ++ bytesOfNat 8 (0x100 + ncores * 0x80000) ++ bytesOfNat 8 (0x100 + ncores * 0x80000 + 0x40000) ++
  bytesOfNat 8 base.toNat ++ bytesOfNat 8 seqno ++ bytesOfNat 8 0

/-- The initialisation vector (R342). -/
def saveIv (p : Fin 16) (seqno : Nat) : List Byte := bytesOfNat 12 (p.val * 2 ^ 92 + seqno % 2 ^ 60 * 2 ^ 32)

/-- Writes an image at its places. -/
def State.writeImage (s : State) (l : List (Nat × List Byte)) : State :=
  l.foldl (fun s e => s.homePut ((List.range e.2.length).map (memKey 0 e.1 + ·)) e.2) s

/-- A command as it is saved: one held at a FROZEN entry is unstarted again (R143). -/
def State.savedCmd (s : State) (d : Cmd) : Cmd :=
  if d.started && !s.waitsOnOthers d then
    { d with started := false, stage := 0, opA := [], opB := [], parts := match d.body with | .reduce .. => d.parts | _ => [] }
  else d

/-- A core's accumulator cells. -/
def State.coreCells (s : State) (c : CoreId) : List (Fin 64 × Nat × W32) :=
  let lo := 5 * (inGroup c).val * 8192
  ((s.setts.at (settOf c)).cells.filter fun e => decide (lo ≤ e.1) && decide (e.1 < lo + 5 * 8192)).map fun e => (settOf c, e)

/-- A core is taken into the save area: nothing of it stays, but for the hold and what its
instruction caches hold. -/
def State.takeCore (s : State) (c : CoreId) : State :=
  let k := s.core c
  let gone := (((s.allCmds c).filter fun d => d.started && !s.waitsOnOthers d).map (·.uid)) ++ (k.ld.pend ++ k.st.pend).map (·.uid) ++
    (List.finRange 4).flatMap fun x => (k.ctx.at x).loads.map (·.uid) ++ (k.ctx.at x).stores.map (·.uid)
  let s := gone.foldl (fun s u => s.withdraw (dieOf c) u) (((s.mergeCore c).endLease c).dropWait c)
  let other := fun (d : Cmd) => d.core != c
  let s := (s.modSett (settOf c) fun t => { t.clearTiles c with queue := t.queue.filter other }).modDie (dieOf c) fun e =>
    { e with fabQ := e.fabQ.filter other }
  s.modCore c fun k => { Core.reset with aux := { CoreAux.reset with hold := true, icache := k.aux.icache } }

/-- The save of a partition whose cores have all passed the fence (R341 to R343). -/
def State.save (s : State) (p : Fin 16) (t : Part) : State :=
  let all := coreIds.filter t.has
  let cs := all.filter fun c => (s.core c).mode != .free || (s.core c).aux.next.isSome
  let ctx := (cs.findSome? fun c => (s.core c).aux.run).map fun r => (r.op.asid, r.op.pinbase)
  let (asid, pin) := ctx.getD (0, 0)
  let seqno := t.seqno + 1
  let (blocks, s) := s.coreBlocks (t.saveBase + 0x100) all
  let (rest, s) := s.freeRegions t.saveBase [(0x100 + all.length * 0x80000, 0x40000), (0x100 + all.length * 0x80000 + 0x40000, 0x40000)]
  let head := saveHeader p all.length asid pin seqno
  let tag := Config.gcmTag p.val (head ++ saveIv p seqno ++ (blocks ++ rest).flatMap (·.2))
  let image := (t.saveBase, head ++ bytesOfNat 16 tag.toNat ++ saveIv p seqno) :: blocks ++ rest
  let v : Saved :=
    { part := p, clusters := t.clusters,
      groups := (List.finRange 64).filterMap fun g => match s.hub.fab.groups.at g with
        | some r => if r.owner = p then some (g, r) else none
        | none => none,
      cores := cs.map fun c => (c, ({ s.core c with cmds := (s.core c).cmds.map s.savedCmd, l1 := [] } : Core).modAux fun a => { a with accs := [] }),
      sett := cs.flatMap fun c => (s.settCmds c).map fun d => (settOf c, d),
      cells := cs.flatMap s.coreCells,
      fab := cs.flatMap fun c => (s.fabCmds c).map fun d => (dieOf c, s.savedCmd d),
      image := image }
  let ctxs := cs.filterMap fun c => (s.core c).aux.run.map fun r => (r.op.asid, r.op.pinbase)
  let s := cs.foldl State.takeCore (s.writeImage image)
  let s := s.modHub fun h => { h with saved := v :: h.saved.filter (fun w => w.part != p),
                                      parts := h.parts.put p (some { t with pre := .saved, seqno := seqno }) }
  ctxs.foldl (fun s e => s.dropContext e.1 e.2) s

/-- `PREEMPTED` (R340, R341): once every tile run has retired, or every core has passed the fence and is saved. A forced switch that took
longer than 40 µs is recorded. -/
def execPreempted (p : Fin 16) (s : State) : Host.Outcome State Fault Refusal :=
  match s.hub.parts.at p with
  | none => .next s
  | some t =>
    match t.pre with
    | .node =>
      if s.hasRun p fun _ => true then .next s
      else .next ((s.modHub fun h => { h with parts := h.parts.put p (some { t with pre := .saved }) }).postPart p 6 0)
    | .forced =>
      if (coreIds.filter t.has).all s.passed then
        let time := s.since t.preStart
        let s := s.save p t
        .next ((if 40 < time then s.scree 4 0x30 (BitVec.ofNat 64 time) else s).postPart p 6 0)
      else .next s
    | _ => .next s

/-! ## Restore (R344) -/

/-- `RESTORE`: the check, and the area is read. -/
def State.runRestore (s : State) : Ran :=
  let p := Fin.ofNat 16 (s.pay 0 0 4)
  match s.hub.parts.at p with
  | none => .rejected 7
  | some t => Ran.check [(t.pre != .saved, 7)] (s.modHub fun h => { h with parts := h.parts.put p (some { t with pre := .restoring }) })

/-- `RESTORE` (R344). -/
def execRestore (s : State) : Host.Outcome State Fault Refusal := .next (s.mboxRun 0x07 false State.runRestore)

/-- Bytes of a header that a restore compares (R342, R344): sizes, version, ncores, ASID, partition, offsets. -/
def headerFields (b : List Byte) : List Byte := b.take 0x28

/-- The reason for which a restore aborts (R344): an error while reading the area, which lies where the partition has it now; version, ncores, ASID
or layout, or cores or groups, other than at the save; an altered area, whose tag does not match. -/
def State.restoreReason (s : State) (t : Part) (v : Saved) : Option Nat :=
  let base := ((v.image.head?).map (·.1)).getD 0
  let place := fun (e : Nat × List Byte) => e.1 - base + t.saveBase
  let keys := fun (e : Nat × List Byte) => (List.range e.2.length).map (memKey 0 (place e) + ·)
  let now := fun (e : Nat × List Byte) => s.mem.read (memKey 0 (place e)) e.2.length
  let groups := (List.finRange 64).filterMap fun g => match s.hub.fab.groups.at g with
    | some r => if r.owner = v.part then some (g, r) else none
    | none => none
  if v.image.any fun e => (s.poisoned (keys e)).isSome then some 2
  else if t.clusters != v.clusters || groups != v.groups ||
      v.image.head?.any (fun e => headerFields (now e) != headerFields e.2) then some 3
  else if v.image.any fun e => now e != e.2 then some 1
  else none

/-- Every core of a saved context is loaded and resumes (R232, R236, R344): in handler mode EX stays stopped, its landing slots full; the pin
table is as it stands in memory (R142). -/
def State.load (s : State) (v : Saved) : State :=
  let ex := fun (k : Core) => if k.mode == .running then k.resumeEx else k
  let s := v.cores.foldl (fun (s : State) e => s.setCore e.1 ((ex e.2).modAux fun a => { a with hold := false, icache := (s.core e.1).aux.icache })) s
  let s := v.cells.foldl (fun s e => s.modSett e.1 fun t => { t with cells := cellSet t.cells e.2.1 e.2.2 }) s
  let s := v.sett.foldl (fun s e => s.modSett e.1 fun t => { t with queue := t.queue ++ [e.2] }) s
  let s := v.fab.foldl (fun s e => s.modDie e.1 fun d => { d with fabQ := d.fabQ ++ [e.2] }) s
  let bases := (v.cores.filterMap fun e => e.2.aux.run.map fun r => r.op.pinbase).eraseDups
  bases.foldl State.forgetPins s

/-- Restored collectives and reductions whose condition has been met meanwhile complete (R288, R320). -/
def State.completeSaved (s : State) (v : Saved) : State :=
  let next := fun (s : State) (o : Host.Outcome State Fault Refusal) => match o with | .next t => t | _ => s
  let s := v.fab.foldl (fun s e => if !e.2.started then s else match e.2.body with
    | .xall .. => next s (execXallComplete e.1 ⟨e.2.uid, none⟩ s)
    | .fred .. => next s (execFredComplete e.1 ⟨e.2.uid, none⟩ s)
    | .fbar .. => next s (execFbarComplete e.1 e.2.uid s)
    | _ => s) s
  v.cores.foldl (fun s e => (e.2.cmds.filter (·.started)).foldl (fun s d => next s (execBankCommandComplete e.1 ⟨d.uid, none⟩ s)) s) s

/-- The hold of every core of a partition ends. -/
def State.unhold (s : State) (t : Part) : State :=
  (coreIds.filter t.has).foldl (fun s c => s.modCore c fun k => k.modAux fun a => { a with hold := false }) s

/-- Each queue of a partition with work applies the rule for becoming ready; one without work is in no heap (R332). -/
def State.readyQueues (s : State) (p : Fin 16) : State :=
  let t : Int := s.hub.timer.toNat
  s.modHub fun h => { h with queues := h.queues.map fun e =>
    if e.1.part ≠ p then e else if hasWork e then ({ e.1.becomeReady t with ready := true }, e.2) else ({ e.1 with ready := false }, e.2) }

/-- The context of a partition is lost (R344): what its queues had in progress is gone, and CONTEXT_LOST posts. -/
def State.loseContext (s : State) (p : Fin 16) (reason : Nat) : State :=
  let s := s.modHub fun h => { h with queues := h.queues.map fun e => if e.1.part = p then (e.1, { e.2 with packets := [] }) else e }
  let s := (s.modHub fun h => { h with saved := h.saved.filter fun v => v.part != p }).scree 4 0x31 (BitVec.ofNat 64 reason)
  s.postPart p 5 reason

/-- `RESTORED` (R344): the saved context resumes, or is lost. -/
def execRestored (p : Fin 16) (s : State) : Host.Outcome State Fault Refusal :=
  match s.hub.parts.at p with
  | none => .next s
  | some t =>
    if t.pre != .restoring then .next s
    else
      let run := fun (s : State) => (s.modHub fun h => { h with parts := h.parts.put p (some { t with pre := .none }) }).readyQueues p
      match s.hub.saved.find? fun v => v.part == p with
      | none => .next ((run (s.unhold t)).postPart p 7 0)
      | some v =>
        match s.restoreReason t v with
        | some reason => .next (run ((s.unhold t).loseContext p reason))
        | none =>
          let s := ((s.unhold t).load v).completeSaved v
          .next ((run (s.modHub fun h => { h with saved := h.saved.filter fun w => w.part != p })).postPart p 7 0)

end Sys2Proof.Machine
end

