-- ==== Sys2Proof/Machine/Links.lean ====
section
/-! DEFINITION. The links of the fabric: reception, replay, retraining, fail-over and keys (R297 to R304, R307). -/

namespace Sys2Proof.Machine

/-! ## Retraining (R302) -/

/-- `LOSS_OF_LOCK` (R302). -/
def execLossOfLock (d : Fin 4) (p : Port) (s : State) : Host.Outcome State Fault Refusal :=
  .next (if (s.link d p).isUp then s.retrain d p false else s)

/-- `LANE_FAILURE` (R298, R302, R370): a UCIe module falls back to 32 lanes, an off-package link goes down. -/
def execLaneFailure (d : Fin 4) (p : Port) (_n : Fin 64) (s : State) : Host.Outcome State Fault Refusal :=
  if (s.link d p).state = .down then .next s
  else match sibling d p with
  | none => .next (s.setLink d p .down)
  | some _ =>
    let t := s.retrain d p true
    .next (if (s.link d p).lanes32 then t else t.setReplace (Fin.ofNat 5 d.val) 1 0 (p.num.val * 2 ^ 8 + (s.hub.fab.dieAddr d).val))

/-- `RETRAIN_COMPLETE` (R302, R307): the link carries flits again, and every die resends what awaits a response across it. -/
def execRetrainComplete (d : Fin 4) (p : Port) (s : State) : Host.Outcome State Fault Refusal :=
  let l := s.link d p
  if l.state != .retraining then .next s
  else
    .next ((s.setLink d p (if l.lanes32 then .half else .full)).resendAcross d p)

/-- `RETRAIN_TIMEOUT` (R302). -/
def execRetrainTimeout (d : Fin 4) (p : Port) (s : State) : Host.Outcome State Fault Refusal :=
  .next (if (s.link d p).state = .retraining then s.setLink d p .down else s)

/-! ## Reception (R299, R301, R302) -/

/-- Whether a is at or before b in sequence order. -/
def seqLe (a b : BitVec 12) : Bool := !(b - a).msb

/-- A link end takes the acknowledgement and stop bits of a flit, and sends on what it may. -/
def State.heed (s : State) (d : Fin 4) (p : Port) (ack : BitVec 12) (stop : BitVec 4) : State :=
  (s.modLink d p fun l => { l with replay := l.replay.dropWhile fun f => seqLe f.seq ack, stop := stop }).pump d p

/-- An accepted flit: a key-control flit brings the fixed word of the direction's new key (R303), a data flit goes on; a record of a reserved kind
that has arrived is discarded and recorded (R305). -/
def State.arrive (s : State) (d : Fin 4) (p : Port) (f : Flit) : State :=
  let here := (s.hub.fab.out (s.hub.fab.dieAddr d).val f.dst f.dirs).isNone
  if f.kind = 3 then s.modLink d p fun l => { l with rxFixed := f.h0.setWidth 32 }
  else if here && decide (11 ≤ f.rkind) then s.linkRecord d 0x24 p f.rkind
  else (s.forward d { f with via := some p }).setStops d

/-- A flit is discarded (R301): the first one sends a NAK, the eighth in a row retrains the link. -/
def State.discard (s : State) (d : Fin 4) (p : Port) (badTag : Bool) (seq : BitVec 12) : State :=
  let s := if badTag then s.linkRecord d 0x23 p seq.toNat else s
  let n := (s.link d p).discards + 1
  if 8 ≤ n then s.retrain d p false
  else s.modLink d p fun l => { l with discards := n, nakSent := l.nakSent || n == 1 }

/-! ## A flit on the wire (R300, R303) -/

/-- CRC-64 over bytes: polynomial 0x42F0E1EBA9EA3693, initial value 0, no reflection (R300). -/
def crc64Bit (c : W64) : W64 := if c.msb then (c <<< 1) ^^^ 0x42F0E1EBA9EA3693 else c <<< 1
def crc64Byte (c : W64) (b : Byte) : W64 :=
  (List.range 8).foldl (fun c _ => crc64Bit c) (c ^^^ (b.setWidth 64 <<< 56))
def crc64 (l : List Byte) : W64 := l.foldl crc64Byte 0

/-- The additional authenticated data: the header with bits 51:36 cleared (R303). -/
def aadOf (hdr : Nat) : List Byte := bytesOfNat 8 (hdr / 2 ^ 52 * 2 ^ 52 + hdr % 2 ^ 36)

/-- The 224 bytes of plaintext: the record header and its data, the rest zero (R303, R305). -/
def plainOf (f : Flit) : List Byte :=
  let l := bytesOfNat 8 f.h0.toNat ++ bytesOfNat 8 f.h1.toNat ++ f.data
  (l ++ List.replicate (224 - l.length) 0).take 224

/-- The number of the link direction that ends at a port, which stands for its key. -/
def State.direction (s : State) (d : Fin 4) (p : Port) : Nat := (s.hub.fab.dieAddr d).val * 8 + p.num.val

/-- The 256 bytes of a flit sent in a direction (R300): header, ciphertext and tag, CRC; an idle or NAK flit carries no payload. -/
def imageOf (key : Nat) (f : Flit) : List Byte :=
  let cipher := bytesOfNat 224 (Config.linkCipher key f.iv (plainOf f)).toNat
  let payload := if f.kind = 1 || f.kind = 2 then List.replicate 240 0
    else cipher ++ bytesOfNat 16 (Config.linkTag key f.iv (aadOf f.hdr.toNat ++ cipher)).toNat
  let l := bytesOfNat 8 f.hdr.toNat ++ payload
  l ++ bytesOfNat 8 (crc64 l).toNat

/-- What the bytes received say of a flit: the flit that they hold, whether their CRC passes, and whether their tag does. -/
structure Heard where
  flit : Flit
  crc : Bool
  tag : Bool
deriving DecidableEq, Repr

/-- A flit heard at the end of a direction, where noise has put bytes at places of its 256 (R300, R301, R303): without noise it is the one sent. Its
tag is checked under the IV it was sent with, whose fixed word must be the one announced (notes/assumptions/14.md). -/
def hear (key : Nat) (fixed : W32) (f : Flit) (noise : List (Nat × Byte)) : Heard :=
  let known := f.kind == 3 || (f.iv >>> 64).setWidth 32 == fixed
  if noise.isEmpty then ⟨f, true, known⟩
  else
    let sent := imageOf key f
    let got := noise.foldl (fun l e => l.set e.1 e.2) sent
    let hdr := natOfBytes (got.take 8)
    let cipher := (got.drop 8).take 224
    let plain := if cipher == (sent.drop 8).take 224 then plainOf f else bytesOfNat 224 (Config.linkPlain key f.iv cipher).toNat
    let g : Flit := { f with
      hdr := BitVec.ofNat 64 hdr, h0 := BitVec.ofNat 64 (natOfBytes (plain.take 8)),
      h1 := BitVec.ofNat 64 (natOfBytes ((plain.drop 8).take 8)), data := (plain.drop 16).take (bitsOf hdr 12 8 - 16) }
    ⟨g, crc64 (got.take 248) == BitVec.ofNat 64 (natOfBytes (got.drop 248)),
      known && Config.linkTag key f.iv (aadOf hdr ++ cipher) == BitVec.ofNat 128 (natOfBytes ((got.drop 232).take 16))⟩

/-- The flit that a port receives: on a UCIe port the next one on the sibling's wire, or an idle flit that carries the sibling's
acknowledgement and stop bits; on an off-package port the one given. -/
def State.incoming (s : State) (d : Fin 4) (p : Port) (f : Flit) : Option Flit × State :=
  match sibling d p with
  | none => (some f, s)
  | some e =>
    let l := s.link e p
    if f.kind = 1 then (some { f with hdr := hdrOf l.txSeq l.rxSeq l.txStop }, s)
    else match l.wire with
    | [] => (none, s)
    | g :: r => (some g, s.modLink e p fun l => { l with wire := r })
where
  /-- The header of an idle flit. -/
  hdrOf (seq ack : BitVec 12) (stop : BitVec 4) : W64 :=
    BitVec.ofNat 64 (seq.toNat * 2 ^ 52 + ack.toNat * 2 ^ 40 + stop.toNat * 2 ^ 36 + 2 ^ 32)

/-- `FLIT_RECEIVE` (R300, R301, R303): the next flit comes in at a port, with noise put on bytes of it: bytes
by their places. -/
def execFlitReceive (d : Fin 4) (p : Port) (f : Flit) (at_ : List Nat) (noise : List Byte) (s : State) : Host.Outcome State Fault Refusal :=
  if !(s.link d p).isUp then .next s
  else match s.incoming d p f with
  | (none, s) => .next s
  | (some f, s) =>
    let h := hear (s.direction d p) (s.link d p).rxFixed f (at_.zip noise)
    let f := h.flit
    let good := h.crc && bitsOf f.hdr.toNat 3 9 == 0
    if f.kind = 1 || f.kind = 2 then
      .next (if good then s.heed d p f.ack f.stop else s.discard d p false f.seq)
    else if good && h.tag && f.seq == (s.link d p).rxSeq + 1 then
      let s := s.modLink d p fun l => { l with rxSeq := f.seq, discards := 0, nakSent := false }
      .next ((s.heed d p f.ack f.stop).arrive d p f)
    else .next (s.discard d p (good && !h.tag) f.seq)

/-- `NAK_RECEIVE` (R301): the sender replays every flit after the acknowledged one. A UCIe port receives the one NAK that its sibling has sent. -/
def execNakReceive (d : Fin 4) (p : Port) (a : BitVec 12) (s : State) : Host.Outcome State Fault Refusal :=
  let due := match sibling d p with
    | none => true
    | some e => (s.link e p).nakSent && (s.link e p).rxSeq == a
  if !(s.link d p).isUp || !due then .next s
  else
    let toWire := (sibling d p).isSome
    let s := match sibling d p with
      | some e => s.modLink e p fun l => { l with nakSent := false }
      | none => s
    let s := s.modLink d p fun l =>
      let rest := (l.replay.dropWhile fun f => seqLe f.seq a).map fun f => f.stamp f.seq l.rxSeq l.txStop
      { l with replay := rest, wire := if toWire then l.wire ++ rest else l.wire }
    .next (s.linkRecord d 0x20 p a.toNat)

/-! ## Link state and paths (R297) -/

/-- The destinations to which a die's path differs between two fabrics. -/
def changedPaths (f g : Fabric) (d : Fin 4) : List (Fin 64) :=
  (List.finRange 64).filter fun t => decide (t.val < g.size) && f.path (f.dieAddr d).val t.val != g.path (g.dieAddr d).val t.val

/-- A die falls silent toward the destinations to which its path changes, each with the links of the paths it had (R297). -/
def Die.fallSilent (e : Die) (f g : Fabric) (d : Fin 4) : Die :=
  let ts := changedPaths f g d
  let old := fun (t : Fin 64) => (match f.path (f.dieAddr d).val t.val with | some p => p.links | none => []) ++
    ((e.silent.find? fun x => x.1 == t).map (·.2)).getD []
  { e with silent := ts.map (fun t => (t, old t)) ++ e.silent.filter fun x => !ts.contains x.1 }

/-- `LINK_STATE_UPDATE` (R297): every router's table takes the state of the package's links, and what the management interface has been told of
others; toward destinations whose path has changed a die falls silent. -/
def execLinkStateUpdate (s : State) : Host.Outcome State Fault Refusal :=
  let f := s.hub.fab
  let own := (List.finRange 4).map f.dieAddr
  let g : Fabric := { f with up := s.ownUp f ++ f.told.filter fun e => !own.contains e.1 }
  let s := s.modHub fun h => { h with fab := g }
  .next ((List.finRange 4).foldl (fun s d => s.modDie d fun e => e.fallSilent f g d) s)

/-- A link is held: it retrains, or its key is exhausted (R100, R302, R304). -/
def Link.isHeld (l : Link) : Bool := l.state == .retraining || l.exhausted

/-- A record of a die to a destination is still on its way. -/
def State.enRoute (s : State) (d : Fin 4) (t : Fin 64) : Bool :=
  let src := (s.hub.fab.dieAddr d).val
  (List.finRange 4).any fun e => (List.finRange 6).any fun n =>
    let l := (s.dies.at e).links.at n
    l.state != .down && (l.wire ++ l.waiting).any fun f => f.src == src && f.dst == t.val

/-- The 2^16 cycles of a silence may be over: no link of the new path or of the paths before is held, and nothing sent before is on its way
(R297). -/
def State.pathFree (s : State) (d : Fin 4) (t : Fin 64) (old : List (Fin 64 × Port)) : Bool :=
  let now := match s.hub.fab.path (s.hub.fab.dieAddr d).val t.val with | some p => p.links | none => []
  !s.enRoute d t && (now ++ old).all fun e => match s.hub.fab.dieOf e.1.val with
    | none => true
    | some x => !(s.link x e.2).isHeld

/-- `PATH_SILENCE_EXPIRY` (R297, R307): the source resends what awaits responses, in order, then sends the responses that have waited. -/
def execPathSilenceExpiry (d : Fin 4) (t : Fin 64) (s : State) : Host.Outcome State Fault Refusal :=
  match (s.dies.at d).silent.find? fun x => x.1 == t with
  | none => .next s
  | some x =>
    if !s.pathFree d t x.2 then .next s
    else
      let waiting := (s.dies.at d).replies.filter fun f => f.dst == t.val
      let s := s.modDie d fun e => { e with silent := e.silent.filter (fun x => x.1 != t), replies := e.replies.filter fun f => f.dst != t.val }
      .next (waiting.foldl (fun s f => s.sendReply d f) (s.resendAll d fun r => r.dst == t))

/-! ## Keys (R303, R304) -/

/-- `KEY_CONTROL` (R303, R304): the key-control flit that announces a new key is sent; with it the new key's fixed word and a counter of 0
take effect. It carries the fixed word (notes/assumptions/18.md). -/
def execKeyControl (d : Fin 4) (p : Port) (w : W32) (s : State) : Host.Outcome State Fault Refusal :=
  if !(s.link d p).isUp then .next s
  else
    let a := (s.hub.fab.dieAddr d).val
    let f : Flit := { hdr := hdrWord 3 3 a a 16 0, h0 := w.setWidth 64, h1 := 0, data := [] }
    let s := s.modLink d p fun l => { l with fixed := w, keyCtr := 0, keyHeld := false, keyLow := false, waiting := f :: l.waiting }
    .next ((s.pump d p).linkRecord d 0x25 p 0)

/-- `KEY_LOW` (R304). -/
def execKeyLow (d : Fin 4) (p : Port) (s : State) : Host.Outcome State Fault Refusal :=
  .next (if 2 ^ 40 - 2 ^ 24 ≤ (s.link d p).keyCtr then s.modLink d p fun l => { l with keyLow := true } else s)

/-- `KEY_EXHAUSTED` (R304): data flits are held, and every stall counter of the package pauses (R118). -/
def execKeyExhausted (d : Fin 4) (p : Port) (s : State) : Host.Outcome State Fault Refusal :=
  .next (if 2 ^ 40 - 1 ≤ (s.link d p).keyCtr then s.modLink d p fun l => { l with keyHeld := true } else s)

/-- `KEY_EXHAUSTION_TIMEOUT` (R304). -/
def execKeyExhaustionTimeout (d : Fin 4) (p : Port) (s : State) : Host.Outcome State Fault Refusal :=
  .next (if (s.link d p).exhausted then s.setLink d p .down else s)

end Sys2Proof.Machine
end

