-- ==== Sys2Proof/Machine/Ingress.lean ====
section
/-! DEFINITION. Records at the ingress of a die and responses at their source (R138, R196, R305 to R309, R316 to R319). -/

namespace Sys2Proof.Machine

/-! ## Taking a record (R306, R308) -/

/-- The k-th record of a kind that has arrived at a die. -/
def State.arrived (s : State) (d : Fin 4) (kind k : Nat) : Option Flit := ((s.dies.at d).ingress.filter fun f => f.rkind == kind)[k]?

/-- The request of a die of the package that a record carries, while it is unanswered. -/
def State.requestOf (s : State) (f : Flit) : Option (Fin 4 × Req) :=
  (s.hub.fab.dieOf f.src).bind fun e => ((s.dies.at e).reqs.find? fun r =>
    r.answer.isNone && r.dst.val == f.dst && r.tag == f.tag && r.epoch == f.epoch).map fun r => (e, r)

/-- A die has taken a request. -/
def State.hasTaken (s : State) (d : Fin 4) (src : Nat) (r : Req) : Bool :=
  (s.dies.at d).dedupe.any fun x => x.src.val == src && x.tag == r.tag && x.epoch == r.epoch

/-- Every request that left its source earlier for this die on the same VC has been taken (R308); those of a source outside the package come in
the order in which they left. -/
def State.isFirst (s : State) (d : Fin 4) (f : Flit) : Bool :=
  match s.hub.fab.dieOf f.src with
  | none => ((s.dies.at d).ingress.find? fun g => g.rkind != 10 && g.src == f.src && g.vc == f.vc) == some f
  | some e => match s.requestOf f with
    | none => true
    | some (_, q) => ((s.dies.at e).reqs.takeWhile fun r => r != q).all fun r =>
        r.answer.isSome || r.dst != q.dst || r.vc != q.vc || s.hasTaken d f.src r

/-- A record leaves the ingress. -/
def State.removeFlit (s : State) (d : Fin 4) (f : Flit) : State :=
  (s.modDie d fun e => { e with ingress := e.ingress.erase f, serving := e.serving.filter fun x => x.1 != f }).setStops d

/-- What becomes of a request: it is held, or performed only in part so far; it is taken and answered later; or it is performed with a result. -/
inductive Served where
  | held
  | taken
  | done (result : List Byte)
deriving DecidableEq, Repr

/-- A read of more than 16 bytes, of whose result the deduplication table holds only a part: a duplicate reads again
(notes/assumptions/40.md). -/
def Flit.longRead (f : Flit) : Bool := (f.rkind == 0 || f.rkind == 4) && decide (16 < f.count)

/-- A REQUEST REACHES THE INGRESS (R306, R308): a duplicate is answered with the stored result and performs nothing; any other request
is performed, and its epoch and result are stored. -/
def State.serve (s : State) (d : Fin 4) (kind k : Nat) (act : State → Flit → Served × State) : State :=
  match s.arrived d kind k with
  | none => s
  | some f =>
    if !s.isFirst d f then s
    else match (s.dies.at d).dedupe.find? fun x => x.src.val == f.src && x.tag == f.tag && x.epoch == f.epoch && !Flit.longRead f with
    | some x => if x.open_ = 0 then (s.removeFlit d f).respond d f x.result else s.removeFlit d f
    | none =>
      match act s f with
      | (.held, s) => s
      | (.taken, s) => s.removeFlit d f
      | (.done r, s) => (s.removeFlit d f).answer d f r

/-! ## The ingress MMU (R138, R140 to R142) -/

/-- The core of the package that issued a record. -/
def State.issuer (s : State) (f : Flit) : Option CoreId :=
  (s.hub.fab.dieOf f.src).bind fun e => if f.core < 192 then coreAt (e.val * 192 + f.core) else none

/-- The ingress MMU walks the extent of a pin entry again: a copy with new runs, or a LOST one (R133, R137, R138, R141, R142). -/
def State.ingressWalk (s : State) (d : Fin 4) (c : CoreId) (part : Fin 16) (p : PinRuns) (wr ask : Bool) : Pin × State :=
  let keep := fun (q : PinRuns) (s : State) => s.modDie d fun e => { e with pins := ingressStore e.pins q }
  let lost := keep { p with state := 4, runs := [] }
  match s.walkIngress ⟨part, p.asid, wr, false, if ask then s.bypassed part p.asid else []⟩ p.va p.len with
  | (.ok runs _, s) =>
    let s := (s.pastBypass part p.asid p.va p.len).setPinState p.base p.index.toNat 1
    (.near p.len runs, keep { p with state := 1, runs := runs } s)
  | (.absent v, s) =>
    if ask && s.hasRing part then
      if s.hub.preqs.any fun r => r.core == some (c, 0) && r.va == v && r.asid == p.asid then (.held, s)
      else
        let (_, s) := s.reqPage part (some (c, 0)) none p.asid v wr true
        (.held, s.flushPreqs part)
    else (.stale true, lost s)
  | (.fail _ _ _, s) => (.stale true, lost (s.pastBypass part p.asid p.va p.len))

/-- Pin lookup at an ingress that holds no copy any more (R123), in the entry of the issuing core's pin table. One that software has written
over while its context is resident is stale, LOST, or as it was, which is left open (R135). -/
def State.ingressEntry (s : State) (d : Fin 4) (c : CoreId) (part : Fin 16) (f : Flit) : Pin × State :=
  let base := (s.core c).cr.pinBase
  let i := f.tgt 0 10
  let g := f.tgt 10 12
  let of := fun (w : Nat → Nat) => (⟨base, BitVec.ofNat 11 (f.tgt 53 11), BitVec.ofNat 10 i, BitVec.ofNat 12 g, some (Fin.ofNat 64 f.src), 1,
    bitsOf (w 0) 0 57, bitsOf (w 1) 0 30 + 1, []⟩ : PinRuns)
  match (if s.overwritten base i then s.pinnedAt base i else none) with
  | some p =>
    let (n, s) := s.freeNat
    if n % 3 = 0 || bitsOf (p.words.at 2) 16 12 ≠ g then (.stale false, s)
    else if n % 3 = 1 then (.stale true, s)
    else s.ingressWalk d c part (of fun k => p.words.at (Fin.ofNat 3 k)) (bitOf (p.words.at 1) 49) false
  | none =>
    let st := s.pinState base i
    let p := of fun k => s.pinWord base i k
    let mine := match s.pinnedAt base i with | some p => p.frozen | none => false
    if st = 0 || s.pinGen base i ≠ g || !s.pinRemote base i then (.stale false, s)
    else if st ≥ 4 then (.stale true, s)
    else if s.revoked p.asid p.va p.len || (st = 2 && !mine && s.anyRevoke p.asid) then (.held, s)
    else s.ingressWalk d c part p (s.pinWr base i) (st = 3 || (st = 2 && !mine))

/-- Pin lookup at the ingress for a record of kinds 0 to 3 (R138), in the copy that the ingress holds where it has one. -/
def State.ingressPin (s : State) (d : Fin 4) (f : Flit) : Pin × State :=
  let asid := BitVec.ofNat 11 (f.tgt 53 11)
  match s.issuer f with
  | none => (.stale false, s)
  | some c =>
    match s.partOf c, (s.dies.at d).pins.find? fun p => (p.src.map (·.val)) == some f.src && p.asid == asid && p.index.toNat == f.tgt 0 10 with
    | none, _ => (.stale false, s)
    | some part, some p =>
      if p.gen.toNat ≠ f.tgt 10 12 then (.stale false, s)
      else if p.state = 1 then (.near p.len p.runs, s)
      else if p.state = 2 then
        (if s.revoked asid p.va p.len then (.held, s) else s.ingressWalk d c part p (s.pinWr p.base p.index.toNat) false)
      else (.stale true, s)
    | some part, none => s.ingressEntry d c part f

/-- Two records of one work item go through one token. -/
def Flit.sameToken (f g : Flit) : Bool := f.rkind ≤ 3 && g.rkind ≤ 3 && f.dst == g.dst && f.tgt 0 22 == g.tgt 0 22 && f.tgt 53 11 == g.tgt 53 11

/-- The request belongs to the access that a request is a piece of. -/
def Req.sameAccess (q r : Req) : Bool := q == r || (r.uid != 0 && q.uid == r.uid && Flit.sameToken q.flit r.flit)

/-- Pin lookup of an access at the ingress: made once, with the first of its pieces that passes it (R136, R138, R182). -/
def State.ingressLookup (s : State) (d : Fin 4) (f : Flit) : Pin × State :=
  match s.requestOf f with
  | none => match ((s.dies.at d).serving.find? fun e => e.1 == f).bind fun e => e.2.pin with
    | some p => (p, s)
    | none => s.ingressPin d f
  | some (e, r) =>
    match (s.dies.at e).reqs.findSome? fun q => if Req.sameAccess q r then q.ing else none with
    | some p => (p, s)
    | none => match s.ingressPin d f with
      | (.near len runs, s) =>
        let note := fun (q : Req) => if Req.sameAccess q r then { q with ing := some (.near len runs) } else q
        (.near len runs, s.modDie e fun x => { x with reqs := x.reqs.map note })
      | o => o

/-- A request through a remote token: stale, held, or through the runs of its extent. -/
def State.throughPin (s : State) (d : Fin 4) (f : Flit) (act : State → Nat → List Run → Served × State) : Served × State :=
  match s.ingressLookup d f with
  | (.held, s) => (.held, s)
  | (.near len runs, s) => act s len runs
  | (.stale lost, s) => (.done [Acct.flags { Acct.none with stale := true, lost := lost }], s)
  | (.far _ _, s) => (.done [Acct.flags { Acct.none with stale := true }], s)

/-- The places of n bytes at the offset of a record, none for those past the extent. -/
def Pin.places (len : Nat) (runs : List Run) (f : Flit) (n : Nat) : List (Option (Nat × Bool)) :=
  (List.range n).map fun j => if f.tgt 22 31 + j < len then locate runs (f.tgt 22 31 + j) else none

/-- Nobody: an access that the race detector does not watch. -/
def nobody : Who := ⟨0, .ctl, 0⟩

/-- The party whose access a record carries, whether the race detector watches it, and at which scope (R107). -/
def State.watcher (s : State) (f : Flit) : Who × Bool × Scope :=
  match (s.requestOf f).bind fun e => e.2.watch with
  | some (c, q, x, sc) => (⟨c, q, x⟩, true, sc)
  | none => (nobody, false, .cr)

/-! ## Parts of a request (R99, R102, R214) -/

/-- What a die has performed of a request. -/
def State.servingOf (s : State) (d : Fin 4) (f : Flit) (pin : Option Pin) : Access :=
  (((s.dies.at d).serving.find? fun e => e.1 == f).map (·.2)).getD (Access.fresh 0 0 pin (0, 0) none)

/-- A die performs a part of a request, or all that is left of it, at places by 16-byte units: `now` does it for positions, giving their bytes and
charges. The charges and bytes of the whole once no place is left. -/
def State.servePart (s : State) (d : Fin 4) (f : Flit) (a : Access) (places : List (Option Nat)) (u : Option Nat)
    (act : State → Access → List Nat → List Byte × Got) : Option (Acct × List Byte) × State :=
  let todo := a.todo places
  let now := (How.by u .units).pick (positions places) todo
  let (l, g) := act s a now
  let b := a.more (now.zip l) g
  if now.length == todo.length then
    (some ({ b.acct with oox := b.acct.oox || places.any (·.isNone) }, (List.range places.length).map b.byte), g.s)
  else (none, g.s.modDie d fun e => { e with serving := (f, b) :: e.serving.filter fun x => x.1 != f })

/-! ## Reads, writes, atomics and bank updates (R305) -/

/-- `FABRIC_READ` (R305): the n-th of the units left, or all of them. -/
def execFabricRead (d : Fin 4) (k : Work Nat) (s : State) : Host.Outcome State Fault Refusal :=
  let u := k.part
  let k := k.item
  .next <| s.serve d 0 k fun s f => s.throughPin d f fun s len runs =>
    let places := (Pin.places len runs f f.count).map (·.map (·.1))
    let (w, on, sc) := s.watcher f
    match s.servePart d f (s.servingOf d f (some (.near len runs))) places u fun s a now =>
      let keys := now.filterMap fun i => (places[i]?).getD none
      let s := (linesOf keys).foldl (fun s l => s.homeRead l) s
      let r := s.watchIn w on keys false false sc ⟨a.mode, a.secs⟩
      (keys.map r.s.mem.get, ⟨r.s, none, { Acct.none with race := r.race, poison := r.s.poisoned keys }, r.seen⟩) with
    | (none, s) => (.held, s)
    | (some (a, l), s) => (.done (a.flags :: l), s)

/-- `FABRIC_WRITE` (R305): the n-th of the units left, or all of them; it stays out of an atomic (R189). -/
def execFabricWrite (d : Fin 4) (k : Work Nat) (s : State) : Host.Outcome State Fault Refusal :=
  let u := k.part
  let k := k.item
  .next <| s.serve d 1 k fun s f => s.throughPin d f fun s len runs =>
    let places := (Pin.places len runs f f.data.length).map (·.map (·.1))
    let (w, on, sc) := s.watcher f
    if s.atomicHeld (places.filterMap id) then (.held, s)
    else match s.servePart d f (s.servingOf d f (some (.near len runs))) places u fun s a now =>
      let kv := now.filterMap fun i => ((places[i]?).getD none).map fun p => (p, f.data.getD i 0)
      let r := s.watchIn w on (kv.map (·.1)) true false sc ⟨a.mode, a.secs⟩
      (kv.map (·.2), ⟨r.s.homePut (kv.map (·.1)) (kv.map (·.2)), none, { Acct.none with race := r.race }, r.seen⟩) with
    | (none, s) => (.held, s)
    | (some (a, _), s) => (.done [a.flags], s)

/-- The answer of an atomic or bank update: held between its read and its write (R354). -/
def Got.served (g : Got) : Served × State :=
  match g.data with
  | none => (.held, g.s)
  | some l => (.done (g.acct.flags :: l), g.s)

/-- An answer for bytes out of extent. -/
def outside (s : State) : Served × State := (.done [Acct.flags { Acct.none with oox := true }], s)

/-- `FABRIC_ATOMIC` (R188, R305): the op field holds the operation and the binary logarithm of the size, the operands are the data
(notes/assumptions/18.md). -/
def execFabricAtomic (d : Fin 4) (k : Nat) (s : State) : Host.Outcome State Fault Refusal :=
  .next <| s.serve d 2 k fun s f => s.throughPin d f fun s len runs =>
    let n := 2 ^ (f.op / 16 % 4)
    let a := natOfBytes (f.data.take n)
    let b := natOfBytes ((f.data.drop n).take n)
    let (w, on, sc) := s.watcher f
    match FamoOp.ofCode (f.op % 16), (Pin.places len runs f n).mapM id with
    | some o, some ((key, cached) :: _) =>
      (s.atomicAt (.req d f) w on sc key n cached (famoNew o n (BitVec.ofNat 64 a) (BitVec.ofNat 64 b))).served
    | _, _ => outside s

/-- A piece of a contribution to an ordered-slot reduction (`Cmd.redPieces`). -/
structure RedPiece where
  rank : Nat
  parties : Nat
  t : Ty
  u : Ty
  e : Nat
  fits : Nat
  piece : Nat
  total : Nat
  body : List Byte
deriving DecidableEq, Repr

/-- The piece that a record's data hold (notes/assumptions/18.md). -/
def readRed (b : List Byte) : Option RedPiece :=
  let num := fun (i n : Nat) => natOfBytes ((b.drop i).take n)
  match Ty.ofCode (num 4 1), Ty.ofCode (num 5 1) with
  | some t, some u => some ⟨num 0 2, num 2 2, t, u, num 7 4, num 11 4, num 15 4, num 19 4, b.drop 23⟩
  | _, _ => none

/-- The pieces of a contribution that have come, with one more. -/
def State.gather (s : State) (d : Fin 4) (f : Flit) (r : RedPiece) : Gathered :=
  let old := match (s.dies.at d).gathered.find? fun g => g.isOf f && g.total == r.total with
    | some g => g.pieces
    | none => []
  ⟨Fin.ofNat 64 f.src, f.core, Flit.redMark f, f.h1, r.total, (r.piece, r.body) :: old.filter fun p => p.1 != r.piece⟩

/-- The elements of w bytes of a contribution, none while a piece is missing. -/
def Gathered.elems (g : Gathered) (w : Nat) : Option (List (List Byte)) :=
  ((List.range g.total).mapM fun i => (g.pieces.find? fun p => p.1 == i).map (·.2)).map fun l =>
    let b := l.flatMap id
    (unflagged w (b.length / (w + 1)) b).map fun x => x.getD []

/-- A record contributes its parts at their home banks, once each of them has a slot (R287, R288, R318); RACE due is part of the answer. -/
def State.contributeFlit (s : State) (d : Fin 4) (f : Flit) (as : List Arrival) : Served × State :=
  if as.isEmpty then (.done [0], s)
  else
    let (w, on, _) := s.watcher f
    let (race, t) := s.watchArrivals w on as
    let r := as.foldl (fun (r : Bool × State) a =>
      match r.2.contribute (homeDie a.key) a with
      | (.wait, t) => (true, t)
      | (.taken, t) => (r.1, t)
      | (.discarded, t) => (r.1, t.partDone d f true)) (false, t.noteTaken d f as.length [Acct.flags { Acct.none with race := race }])
    if r.1 then (.held, s) else (.taken, r.2)

/-- A piece of a contribution has come (R287, R305): it is kept and answered, and the one that makes the contribution whole makes it. -/
def State.takePiece (s : State) (d : Fin 4) (f : Flit) (part : Bool) (make : State → RedPiece → List (List Byte) → Served × State) :
    Served × State :=
  match readRed f.data with
  | none => (.done [0], s)
  | some r =>
    let g := s.gather d f r
    let others := (s.dies.at d).gathered.filter fun g => !g.isOf f
    match g.elems (redWidth r.t r.u part) with
    | none => (.done [0], s.modDie d fun e => { e with gathered := g :: others })
    | some elems =>
      match make s r elems with
      | (.held, s) => (.held, s)
      | (o, s) => (o, s.modDie d fun e => { e with gathered := e.gathered.filter fun g => !g.isOf f })

/-- `FABRIC_BANK_UPDATE` (R282, R284, R305): an element update, or a piece of a contribution of a `bkred` or `fred` through a remote token,
whose pin is looked up once, when the contribution is whole. -/
def execFabricBankUpdate (d : Fin 4) (k : Nat) (s : State) : Host.Outcome State Fault Refusal :=
  .next <| s.serve d 3 k fun s f =>
    if f.op = 0xFF then
      s.takePiece d f false fun s r elems => s.throughPin d f fun s len runs =>
        s.contributeFlit d f (redArrivals r.t r.u r.parties r.rank 0 (some f) runs (min len (f.tgt 22 31 + r.fits * recSize r.u)) (f.tgt 22 31)
          r.e elems).1
    else s.throughPin d f fun s len runs =>
      match BkOp.ofCode (f.op % 16), Ty.ofCode (f.op / 16) with
      | some o, some ty =>
        let n := recSize ty
        match (Pin.places len runs f n).mapM id with
        | none => outside s
        | some l =>
          let (w, on, sc) := s.watcher f
          let plain := sc == .cr
          let r := s.watchIn w (on && plain) (l.map (·.1)) true false sc Seen.none
          let g := r.s.bankElement (.req d f) w (on && !plain) o ty (natOfBytes (f.data.drop n)) l (f.data.take n)
          Got.served { g with acct := { g.acct with race := g.acct.race || r.race } }
      | _, _ => outside s

/-! ## Windows (R196, R305) -/

/-- The core a window record reaches, with the bytes of its scratchpad that it may reach: below the scratchpad size, and only in a tile run
of the issuing core's address context; for an issuer outside the package whether it is that context is left open, once for a request. -/
def State.windowTarget (s : State) (d : Fin 4) (f : Flit) (n : Nat) : Option CoreId × Nat × State :=
  match coreAt (d.val * 192 + f.tgt 25 2 * 48 + f.tgt 19 6) with
  | none => (none, 0, s)
  | some t =>
    let (near, s) := match s.issuer f, (s.dies.at d).serving.any fun e => e.1 == f with
      | some c, _ => (s.sameContext c t, s)
      | none, true => ((s.core t).aux.run.isSome, s)
      | none, false =>
        let (r, s) := s.freeNat
        ((s.core t).aux.run.isSome && r % 2 == 1, s)
    if near && decide (f.tgt 19 6 < 48) then (some t, min n ((s.core t).aux.resv - f.tgt 0 19), s) else (none, 0, s)

/-- The offsets that a window record reaches. -/
def Flit.winPlaces (f : Flit) (n : Nat) : List (Option Nat) := (List.range n).map fun j => some (f.tgt 0 19 + j)

/-- `WINDOW_READ` (R196, R305): the n-th of the units left, or all of them; the answer carries the bytes that the target has. -/
def execWindowRead (d : Fin 4) (k : Work Nat) (s : State) : Host.Outcome State Fault Refusal :=
  let u := k.part
  let k := k.item
  .next <| s.serve d 4 k fun s f =>
    match s.windowTarget d f f.count with
    | (none, _, s) => outside s
    | (some t, n, s) =>
      match s.servePart d f (s.servingOf d f none) (Flit.winPlaces f n) u fun s _ now =>
        let r := now.foldl (fun (r : List Byte × State) j =>
          let (b, s) := r.2.spadRead t (f.tgt 0 19 + j)
          (r.1 ++ [b], s)) ([], s)
        (r.1, ⟨r.2, none, Acct.none, Seen.none⟩) with
      | (none, s) => (.held, s)
      | (some (a, l), s) => (.done (Acct.flags { a with oox := decide (n < f.count) } :: l), s)

/-- `WINDOW_WRITE` (R196, R305): the n-th of the units left, or all of them. -/
def execWindowWrite (d : Fin 4) (k : Work Nat) (s : State) : Host.Outcome State Fault Refusal :=
  let u := k.part
  let k := k.item
  .next <| s.serve d 5 k fun s f =>
    match s.windowTarget d f f.data.length with
    | (none, _, s) => outside s
    | (some t, n, s) =>
      match s.servePart d f (s.servingOf d f none) (Flit.winPlaces f n) u fun s _ now =>
        (now.map fun _ => 0, ⟨now.foldl (fun s j => s.spadWrite t (f.tgt 0 19 + j) (f.data.getD j 0)) s, none, Acct.none, Seen.none⟩) with
      | (none, s) => (.held, s)
      | (some (a, _), s) => (.done [Acct.flags { a with oox := decide (n < f.data.length) }], s)

/-! ## Collectives (R316 to R319) -/

/-- Fields of the target word of kinds 6, 7 and 9 (R305). -/
def Flit.first (f : Flit) : Nat := f.h1.toNat % 2 ^ 32
def Flit.rank (f : Flit) : Nat := bitsOf f.h1.toNat 32 6
def Flit.group (f : Flit) : Fin 64 := Fin.ofNat 64 (bitsOf f.h1.toNat 38 6)

/-- `READY` (R317). -/
def execReady (d : Fin 4) (k : Nat) (s : State) : Host.Outcome State Fault Refusal :=
  .next <| s.serve d 6 k fun s f =>
    (.done [0], s.modDie d fun e => { e with ready := e.ready ++ [⟨Flit.group f, Flit.rank f, f.data⟩] })

/-- The started `xall` of a die on a group, in the fabric engine or in a save area with the core it belongs to (R320). -/
def State.xallOn (s : State) (d : Fin 4) (g : Fin 64) : Option (Cmd × Option Core) :=
  let mine := fun (c : Cmd) => c.started && c.body.collective == some g && (match c.body with | .xall .. => true | _ => false)
  match (s.dies.at d).fabQ.find? mine with
  | some c => some (c, none)
  | none => s.hub.saved.findSome? fun v =>
    (v.fab.find? fun e => e.1 == d && mine e.2).bind fun e => (v.cores.find? fun k => k.1 == e.2.core).map fun k => (e.2, some k.2)

/-- `XALL_PIECE` (R316, R320): the map unit places every element through the party's destination token, by the n-th of the units left or all of
them; a saved party is written through its pin table as it stands in memory, of which nothing stays cached (R123). -/
def execXallPiece (d : Fin 4) (k : Work Nat) (s : State) : Host.Outcome State Fault Refusal :=
  let u := k.part
  let k := k.item
  .next <| s.serve d 7 k fun s f =>
    match s.xallOn d (Flit.group f) with
    | none => (.done [0], s)
    | some (c, saved) =>
      match c.body, s.hub.fab.groups.at (Flit.group f) with
      | .xall tok off _ _ _ _, some gr =>
        let p := gr.parties.length
        match readDesc p c.opA with
        | none => (.done [0], s)
        | some ds =>
          let n := f.data.length / ds.e
          let kv := (List.range n).flatMap fun i =>
            (offs (off.toNat + (ds.place p (Flit.rank f) (Flit.first f + i)).2) ds.e).zip (elemBytes ds.e f.data i)
          let cr := (s.core c.core).cr
          let t := match saved with
            | some q => s.modCore c.core fun k => { k with cr := q.cr }
            | none => s
          let g := t.tokWrite c.who c.uid (2 ^ 60 + (Flit.rank f * 2 ^ 32 + Flit.first f) * 2 ^ 9) tok kv none .cr (How.by u .units)
          let t := match saved with
            | some q => (g.s.modCore c.core fun k => { k with cr := cr }).dropContext q.cr.asid q.cr.pinBase
            | none => g.s
          match g.data with
          | none => (.held, t)
          | some _ => (.done [0], t.modCmd c.uid fun c => { c.owe g.acct with parts := c.parts ++ [(n, true)] })
      | _, _ => (.done [0], s)

/-- `FRED_CONTRIBUTION` (R318): the part's physical address is its key. -/
def execFredContribution (d : Fin 4) (k : Nat) (s : State) : Host.Outcome State Fault Refusal :=
  .next <| s.serve d 8 k fun s f =>
    s.takePiece d f true fun s r elems => s.contributeFlit d f [⟨f.tgt 0 52, r.t, r.u, r.parties, r.rank, 0, some f, elems⟩]

/-- `FBAR_ARRIVAL` (R319). -/
def execFbarArrival (d : Fin 4) (k : Nat) (s : State) : Host.Outcome State Fault Refusal :=
  .next <| s.serve d 9 k fun s f => (.done [0], s.modDie d fun e =>
    let b := e.bar (Flit.group f)
    e.setBar { b with got := (Flit.rank f, max (b.of (Flit.rank f)) (Flit.first f)) :: b.got.filter fun x => x.1 != Flit.rank f })

/-! ## Responses (R306) -/

/-- A stale-lost answer makes the local entry LOST (R138). -/
def State.loseLocal (s : State) (r : Req) : State :=
  if !(bitOf r.flags 0 && bitOf r.flags 1) || 3 < r.flit.rkind then s
  else match s.issuer r.flit with
  | none => s
  | some c =>
    let base := (s.core c).cr.pinBase
    let i := r.flit.tgt 0 10
    if s.pinState base i != 0 && s.pinGen base i == r.flit.tgt 10 12 && s.pinRemote base i then s.setPinState base i 4 else s

/-- `RESPONSE` (R306): the request of its tag and epoch is answered, its flags before its data; one that no item waits for is over. -/
def execResponse (d : Fin 4) (k : Nat) (s : State) : Host.Outcome State Fault Refusal :=
  match s.arrived d 10 k with
  | none => .next s
  | some f =>
    let s := s.removeFlit d f
    let fits := fun (r : Req) => r.answer.isNone && r.dst.val == f.src && r.tag == f.tag && r.flit.epoch == f.epoch
    match (s.dies.at d).reqs.find? fits with
    | none => .next s
    | some r =>
      let r := { r with answer := some (BitVec.ofNat 8 f.op :: f.data) }
      if r.uid = 0 then .next ((s.modDie d fun e => { e with reqs := e.reqs.filter fun q => !fits q }).loseLocal r)
      else
        let s := s.modDie d fun e => { e with reqs := e.reqs.map fun q => if fits q then r else q }
        .next (((s.loseLocal r).postedDone d r).settleLoose d r.uid)

end Sys2Proof.Machine
end

