-- ==== Sys2Proof/Machine/Firmware.lean ====
section
/-! DEFINITION. Function-level resets (R358), images, boot and resets (R362 to R366, R375, R378), errors (R369, R370), power and temperature
(R373, R374). -/

namespace Sys2Proof.Machine

/-! ## Function-level reset of a partition (R358) -/

/-- A core's tile run ends as at a machine check, without a record (R345, R358). -/
def State.flrCore (s : State) (c : CoreId) : State :=
  let clear := fun (a : CoreAux) => { a with next := none, shadow := none, ecall := none, hold := false }
  if (s.core c).mode = .free then s.modCore c fun k => k.modAux clear
  else
    let s := (((s.endLease c).dropWait c).dropWadr c).discardUnstarted c
    s.modCore c fun k => (({ k with mode := .checked }).modEx fun e => { e with flight := [] }).modAux fun a => { clear a with trap := none }

/-- A queue returns to unconfigured: DONE with reason 1 for each LAUNCH in progress, as far as its ring has room, and its interrupt. -/
def State.flrQueue (s : State) (q : Fin 4096) : State :=
  match s.queue q with
  | none => s
  | some (k, w) =>
    let dones := (w.packets.filter fun p => p.ty == 1).map fun p => packetRec k p 0 1 0 0
    let s := s.modQueue q fun e => (e.1, { e.2 with packets := [], waiting := e.2.waiting ++ dones })
    let s := (w.waiting ++ dones).foldl (fun s _ => match execCompletionRecordWrite q s with | .next t => t | _ => s) s
    let s := match s.queue q with
      | some (k, w) => if 0 < w.unreported then s.interrupt k else s
      | none => s
    s.modHub fun h => { h with queues := h.queues.filter fun e => e.1.num != q }

/-- The reset of virtual function v (R358): its partition's tile runs end, its queues are unconfigured, its page requests and saved context
are discarded. -/
def State.flr (s : State) (v : Fin 16) : State :=
  match s.hub.parts.at v with
  | none => s
  | some t =>
    let qs := (s.hub.queues.filter fun e => e.1.part == v).map (·.1.num)
    let s := qs.foldl State.flrQueue ((coreIds.filter t.has).foldl State.flrCore s)
    s.modHub fun h => { h with
      parts := h.parts.mod v fun p => p.map fun t => { t with pre := .none },
      preqs := h.preqs.filter fun r => r.part != v,
      saved := h.saved.filter fun w => w.part != v }

/-- `FLR_VF` (R358). -/
def execFlrVf (v : Fin 16) (s : State) : Host.Outcome State Fault Refusal := .next (s.flr v)

/-! ## Images and slots (R362) -/

/-- A number of n bytes at an offset of an image. -/
def imageNum (b : List Byte) (at_ n : Nat) : Nat := natOfBytes ((b.drop at_).take n)

/-- An image is valid as a kind (R362). -/
def imageValid (minSvn : BitVec 16) (kind : Nat) (b : List Byte) : Bool :=
  decide (0x100 ≤ b.length) && b.length == 0x100 + imageNum b 0x10 4 && imageNum b 0 4 == 0x58423747 && imageNum b 4 1 == kind &&
  imageNum b 0xF2 14 == 0 && imageNum b 0x40 64 == (Config.shake256 (b.drop 0x100)).toNat &&
  Config.ed448Ok (b.take 0x80) ((b.drop 0x80).take 114) && decide (minSvn.toNat ≤ imageNum b 0xC 2)

/-- Image of a kind, 1 to 4, in a slot. -/
def slotImage (l : List (List Byte)) (kind : Nat) : List Byte := l.getD (kind - 1) []

/-- A slot is valid (R362). -/
def slotValid (minSvn : BitVec 16) (l : List (List Byte)) : Bool :=
  l.length == 4 && [1, 2, 3, 4].all fun kind => imageValid minSvn kind (slotImage l kind)

/-- The images of a slot: A is slot 0, B slot 1. -/
def Brock.slot (b : Brock) (which : Bool) : List (List Byte) := b.flash.getD which.toNat []

def State.modBrock (s : State) (f : Brock → Brock) : State := s.modHub fun h => { h with brock := f h.brock }

/-- A record of boot: kind of the image and slot (R367, notes/assumptions/18.md). -/
def State.bootRecord (s : State) (code kind : Nat) (which : Bool) : State :=
  s.scree 4 code (BitVec.ofNat 64 (which.toNat * 2 ^ 32 + kind))

/-- Every copy of Scree freezes (R368). -/
def State.freezeScree (s : State) : State := s.modHub fun h => { h with frozen := true }

/-! ## Boot (R363, R364, R375) -/

/-- The number of a processor in a record (notes/assumptions/18.md). -/
def procCode : Proc → Nat
  | .management => 0 | .memory => 1 | .frontEnd => 2 | .die n => 3 + n.val

/-- The processors that run an image. -/
def procsOf (n : Fin 4) : List Proc :=
  if n = 0 then [.management] else if n = 1 then [.memory] else if n = 2 then [.frontEnd]
  else (List.finRange 4).map Proc.die

/-- Brock measures an image, appends the measurement and releases the processor (R363). -/
def State.releaseImage (s : State) (which : Bool) (n : Fin 4) : State :=
  let t := s.hub.timer
  s.modBrock fun b => { b with
    boot := .booting which n, dieReady := 0, stageAt := t, log := b.log ++ [Config.shake256 (slotImage (b.slot which) (n.val + 1))],
    released := b.released ++ (procsOf n).map fun p => (p, t) }

/-- Recovery mode (R364, R368): the measurement log is empty, the upload window exists, Scree freezes. -/
def State.enterRecovery (s : State) : State :=
  (s.modBrock fun b => { b with boot := .recovery, log := [], released := [], staging := [] }).freezeScree

/-- Brock takes the valid slot, not failed in this boot, with the higher version of its first image, A on a tie, else recovery mode
(R363, R364). -/
def State.chooseSlot (s : State) : State :=
  let b := s.hub.brock
  let ok := fun (w : Bool) => !b.failed.getLsbD w.toNat && slotValid b.minSvn (b.slot w)
  let version := fun (w : Bool) => imageNum (slotImage (b.slot w) 1) 8 4
  match ok false, ok true with
  | true, true => s.releaseImage (decide (version false < version true)) 0
  | true, false => s.releaseImage false 0
  | false, true => s.releaseImage true 0
  | false, false => s.enterRecovery

/-- Every processor but Brock is in reset, and with it the state of the units they run (R358, R363 to R365). Memory, its poison, Scree, REPLACE, Brock,
the governor, and the extents and place that hold until a cold reset (R295) stay; the power cap is that of reset (R374). -/
def State.restarted (s : State) : State :=
  let h := s.hub
  { State.reset with
    agenda := s.agenda, draws := s.draws, nextUid := s.nextUid, mem := s.mem, poison := s.poison,
    dies := s.dies.map fun e => { Die.reset with dected := e.dected },
    hub := { Hub.reset with
      timer := h.timer, hostData := h.hostData, scree := h.scree, frozen := h.frozen, brock := h.brock, errors := h.errors,
      power := { h.power with cap := Power.reset.cap, gated := false, tripped := false },
      fab := { h.fab with up := [], told := [], groups := Fabric.reset.groups } } }

/-- Brock starts a boot (R363): every other processor in reset, the log empty; the invalid images of the slots are recorded. -/
def State.startBoot (s : State) : State :=
  let s := s.restarted.modBrock fun b => { b with boot := .off, log := [], failed := 0, dieReady := 0, released := [] }
  let bad := [false, true].flatMap fun w => ([1, 2, 3, 4].filter fun kind =>
    !imageValid s.hub.brock.minSvn kind (slotImage (s.hub.brock.slot w) kind)).map fun kind => (w, kind)
  (bad.foldl (fun s e => s.bootRecord 0x02 e.2 e.1) s).chooseSlot

/-- The UCIe links are trained and keyed (R303, R375); the fixed words of their keys are left open. -/
def State.trainLinks (s : State) : State :=
  let s := [((0 : Fin 4), Port.xp), (2, Port.xp), (0, Port.yp), (1, Port.yp)].foldl (fun s e => s.setLink e.1 e.2 .full) s
  (List.finRange 4).foldl (fun s d => [Port.xp, Port.yp].foldl (fun s p =>
    let (w, s) := s.freeWord
    let s := s.modLink d p fun l => { l with fixed := w.setWidth 32, keyCtr := 0 }
    match sibling d p with
    | some e => s.modLink e p fun l => { l with rxFixed := w.setWidth 32 }
    | none => s) s) s

/-- `POWER_GOOD` (R375). -/
def execPowerGood (s : State) : Host.Outcome State Fault Refusal := .next (if s.hub.brock.boot = .off then s.startBoot else s)

/-- `STAGE_READY` (R363): the next image follows; the compute dies leave reset once each of them has reported. -/
def execStageReady (d : Fin 4) (s : State) : Host.Outcome State Fault Refusal :=
  match s.hub.brock.boot with
  | .booting which n =>
    if n.val < 3 then .next ((s.bootRecord 0x01 (n.val + 1) which).releaseImage which (Fin.ofNat 4 (n.val + 1)))
    else
      let s := s.modBrock fun b => { b with dieReady := b.dieReady ||| (1 <<< d.val) }
      if s.hub.brock.dieReady = 15 then
        .next (((s.bootRecord 0x01 4 which).modBrock fun b => { b with boot := .running which }).trainLinks)
      else .next s
  | _ => .next s

/-- The µs since a processor reported or was released. -/
def State.sinceReport (s : State) (p : Proc) : Nat :=
  match s.hub.brock.released.find? fun e => e.1 == p with
  | some e => (s.hub.timer - e.2).toNat
  | none => 0

/-- `STAGE_TIMEOUT` (R363, R368): 2^30 cycles, which are 1,022,611 µs and a part (R2), after its release a stage has not reported ready. The slot
fails for this boot, Scree freezes, every released processor is reset, and the other slot is tried. -/
def execStageTimeout (s : State) : Host.Outcome State Fault Refusal :=
  match s.hub.brock.boot with
  | .booting which n =>
    if 1022611 ≤ (s.hub.timer - s.hub.brock.stageAt).toNat then
      let s := (s.bootRecord 0x03 (n.val + 1) which).freezeScree
      .next (s.restarted.modBrock fun b => { b with
        boot := .off, log := [], dieReady := 0, released := [], failed := b.failed ||| (1 <<< which.toNat) }).chooseSlot
    else .next s
  | _ => .next s

/-- `GET_MEASUREMENTS` (R363, R364): the measurement log, signed with the identity key. -/
def execGetMeasurements (s : State) : Host.Outcome State Fault Refusal :=
  .next (s.modBrock fun b => { b with
    spdm := b.log, spdmSig := Config.identitySign (b.log.flatMap fun m => bytesOfNat 64 m.toNat) })

/-! ## Resets (R358, R365, R378) -/

/-- Update-only lines at a reset or a power-down: whether a core's have merged is left open (notes/assumptions/5.md). -/
def State.settleUpdates (s : State) : State :=
  coreIds.foldl (fun s c =>
    if (s.core c).l1.any L1Line.isUpdate then
      let (n, s) := s.freeNat
      if n % 2 = 0 then s.mergeCore c else s
    else s) s

/-- A WARM RESET that leaves Brock running (R365): Brock boots again. -/
def State.warmReset (s : State) : State := s.settleUpdates.startBoot

/-- `FLR_PF` (R358). -/
def execFlrPf (s : State) : Host.Outcome State Fault Refusal := .next s.warmReset

/-- Brock and the power governor that runs on it start from ROM (R365): flash, fuses, REPLACE and the power floors stay. -/
def State.restartBrock (s : State) : State :=
  let h := s.hub
  let s := s.modHub fun b => { b with
    brock := { Brock.reset with flash := h.brock.flash, minSvn := h.brock.minSvn },
    errors := { Hub.reset.errors with replace := h.errors.replace, why := h.errors.why, floors := h.errors.floors },
    power := { Power.reset with temps := h.power.temps, watts := h.power.watts } }
  { s with dies := s.dies.map fun e => { e with dected := false } }

/-- `OAM_RESET_PIN` (R365): while power-good holds; Brock restarts too. -/
def execOamResetPin (s : State) : Host.Outcome State Fault Refusal :=
  .next (if s.hub.brock.boot = .off then s else s.settleUpdates.restartBrock.startBoot)

/-- `COLD_RESET` (R365, R378): flash, fuses and REPLACE stay; every sector of device memory is zero again before it is used. -/
def execColdReset (s : State) : Host.Outcome State Fault Refusal :=
  let h := s.hub
  .next { State.reset with
    agenda := s.agenda, draws := s.draws, nextUid := s.nextUid, mem := s.mem.filter fun c => decide (2 ^ 52 ≤ c.1),
    hub := { Hub.reset with
      hostData := h.hostData, brock := { Brock.reset with flash := h.brock.flash, minSvn := h.brock.minSvn },
      errors := { Hub.reset.errors with replace := h.errors.replace, why := h.errors.why } } }

/-- `WATCHDOG_REPORT` (R365): the processor's watchdog restarts. -/
def execWatchdogReport (p : Proc) (s : State) : Host.Outcome State Fault Refusal :=
  let t := s.hub.timer
  .next (s.modBrock fun b => { b with released := b.released.map fun e => if e.1 = p then (p, t) else e })

/-- `WATCHDOG_EXPIRY` (R365, R368): 2^24 cycles are 15,978 µs and a part (R2). Scree freezes, the processor is recorded, which the frozen copies count as
dropped (notes/assumptions/42.md), and a warm reset follows. -/
def execWatchdogExpiry (p : Proc) (s : State) : Host.Outcome State Fault Refusal :=
  if (s.hub.brock.released.any fun e => e.1 == p) && decide (15978 ≤ s.sinceReport p) then
    .next (s.freezeScree.scree 4 0x04 (BitVec.ofNat 64 (procCode p))).warmReset
  else .next s

/-! ## RECOVERY_COMMIT (R366) -/

/-- The images that a list of bytes holds one after the other; the first argument bounds their number. -/
def splitImages : Nat → List Byte → Option (List (List Byte))
  | 0, b => if b.isEmpty then some [] else none
  | n + 1, b =>
    let size := 0x100 + imageNum b 0x10 4
    if b.length < size then none else (splitImages n (b.drop size)).map fun l => b.take size :: l

/-- `RECOVERY_COMMIT`: the checks and the effect (R366, R376). -/
def State.runRecoveryCommit (s : State) : Ran :=
  let which := s.pay 0 0 1 == 1
  let advance := s.pay 0 8 1 == 1
  let len := s.pay 8 0 32
  let b := s.hub.brock
  let inUse := match b.boot with
    | .booting w _ | .running w => w == which
    | _ => false
  if inUse || decide (2 ^ 26 < len) then .rejected 3
  else match splitImages 4 (b.staging.read 0 len) with
  | none => .rejected 5
  | some l =>
    if !slotValid b.minSvn l then .rejected 5
    else
      let svn := (l.map fun i => imageNum i 0xC 2).foldl min 0xFFFF
      .done (s.modBrock fun b => { b with
        flash := b.flash.set which.toNat l,
        minSvn := if advance && decide (b.minSvn.toNat < svn) then BitVec.ofNat 16 svn else b.minSvn })

/-- `RECOVERY_COMMIT` (R366). -/
def execRecoveryCommit (s : State) : Host.Outcome State Fault Refusal := .next (s.mboxRun 0x10 true State.runRecoveryCommit)

/-! ## Errors (R369, R370) -/

/-- The number of an array instance in a record (notes/assumptions/18.md). -/
def instCode : ErrInst → Nat
  | .scratchpad c => c.val
  | .z c => 2 ^ 12 + c.val
  | .l1 c => 2 * 2 ^ 12 + c.val
  | .sett g => 3 * 2 ^ 12 + g.val
  | .bank d b => 4 * 2 ^ 12 + d.val * 64 + b.val
  | .hbm n => 5 * 2 ^ 12 + n.val
  | .tier2 n => 6 * 2 ^ 12 + n.val

/-- The threshold of an instance's class (R369). -/
def threshold : ErrInst → Nat
  | .bank _ _ => 16
  | .hbm _ | .tier2 _ => 256
  | _ => 4

/-- The compute die whose VSRAM rail feeds an instance, none for the memories (R370, R373). -/
def feedDie : ErrInst → Option (Fin 4)
  | .scratchpad c | .z c | .l1 c => some (dieOf c)
  | .sett g => some (Fin.ofNat 4 (g.val / 16))
  | .bank d _ => some d
  | .hbm _ | .tier2 _ => none

def State.modErrors (s : State) (f : Errors → Errors) : State := s.modHub fun h => { h with errors := f h.errors }

/-- Corrected errors of an instance in the window. -/
def Errors.countOf (e : Errors) (n : ErrInst) : Nat := ((e.counts.find? fun x => x.1 == n).map (·.2)).getD 0

/-- A corrected error is counted for its instance (R369). -/
def State.countCorrected (s : State) (n : ErrInst) : State :=
  s.modErrors fun e => { e with counts := (n, e.countOf n + 1) :: e.counts.filter fun x => x.1 != n }

/-- `CORRECTED_ERROR` (R369). -/
def execCorrectedError (n : ErrInst) (s : State) : Host.Outcome State Fault Refusal := .next (s.countCorrected n)

/-- The die, or the hub, on which an instance lies. -/
def instUnit (n : ErrInst) : Fin 5 := match feedDie n with | some d => Fin.ofNat 5 d.val | none => 4

/-- The protection of an L2 whose SRAM rail comes to stand at a voltage (R280): DEC-TED below the threshold, SEC-DED above it. -/
def Die.railAt (e : Die) (mv : Nat) : Die :=
  { e with dected := decide (mv < Config.l2Threshold) || (e.dected && mv == Config.l2Threshold) }

/-- The rail that feeds an instance is below nominal. -/
def Power.lowRail (p : Power) (n : ErrInst) : Option (Fin 4) := (feedDie n).filter fun d => decide (p.vsram.at d < 700)

/-- The undervolting of a VSRAM rail is withdrawn (R370, R371): a lowering in progress is abandoned, the rail goes to nominal and stays there. -/
def State.withdrawRail (s : State) (d : Fin 4) : State :=
  let r := Fin.ofNat 8 (4 + d.val)
  let s := s.modHub fun h => { h with
    power := { h.power with vsram := h.power.vsram.put d 700, lowering := h.power.lowering.put r none },
    errors := { h.errors with floors := h.errors.floors ||| (1 <<< r.val) } }
  s.modDie d fun e => e.railAt 700

/-- What the governor does for an instance past its threshold in a window that ended with its rail below nominal on a die, or not (R370): the rail goes to
nominal, or the instance gains a strike; 8 strikes within 1,024 consecutive windows set REPLACE. -/
def State.govern (s : State) (n : ErrInst) (low : Option (Fin 4)) : State :=
  match low with
  | some d => (s.withdrawRail d).scree (Fin.ofNat 5 d.val) 0x13 (BitVec.ofNat 64 (instCode n * 2 ^ 32 + 4 + d.val))
  | none =>
    let w := s.hub.errors.window
    let s := s.modErrors fun e => { e with strikes := (n, w) :: e.strikes }
    if 8 ≤ (s.hub.errors.strikes.filter fun x => x.1 == n && decide (w < x.2 + 1024)).length then s.setReplace (instUnit n) 0 0 (instCode n) else s

/-- `ERROR_WINDOW_END` (R369, R370): every instance past its threshold is recorded and acted on, by the rails as they stand at the end of the window;
the counts start again. -/
def execErrorWindowEnd (s : State) : Host.Outcome State Fault Refusal :=
  let past := s.hub.errors.counts.filter fun x => decide (threshold x.1 < x.2)
  let rails := s.hub.power
  let s := past.foldl (fun s x =>
    (s.scree (instUnit x.1) 0x10 (BitVec.ofNat 64 (x.2 * 2 ^ 32 + instCode x.1))).govern x.1 (rails.lowRail x.1)) s
  .next (s.modErrors fun e => { e with counts := [], window := e.window + 1 })

/-- `PATROL_SCRUB` (R369, R281): the sector at a physical address is clean, rewritten, or poisoned. -/
def execPatrolScrub (n : ErrInst) (a : Nat) (r : ScrubResult) (s : State) : Host.Outcome State Fault Refusal :=
  if !s.inMap a 1 then .next s
  else match r with
  | .clean => .next s
  | .corrected => .next (s.countCorrected n)
  | .uncorrectable =>
    let x := sectorOf (memKey 0 a)
    .next (State.badSector { s with poison := if s.poison.contains x then s.poison else x :: s.poison } x)

/-! ## Rails, power and temperature (R373, R374) -/

/-- A rail of the power block: its number, voltage, range and nominal (R373). -/
def railNum : Rail → Fin 8
  | .vcore d => Fin.ofNat 8 d.val
  | .vsram d => Fin.ofNat 8 (4 + d.val)
def Power.rail (p : Power) : Rail → Nat
  | .vcore d => p.vcore.at d
  | .vsram d => p.vsram.at d
def railRange : Rail → Nat × Nat × Nat
  | .vcore _ => (410, 560, 450)
  | .vsram _ => (600, 750, 700)

/-- A rail stands at a voltage, and no lowering of it is in progress; the L2 follows its SRAM rail (R280). -/
def State.setRail (s : State) (r : Rail) (m : Nat) : State :=
  let s := s.modHub fun h => { h with power := { h.power with lowering := h.power.lowering.put (railNum r) none } }
  match r with
  | .vcore d => s.modHub fun h => { h with power := { h.power with vcore := h.power.vcore.put d m } }
  | .vsram d => (s.modHub fun h => { h with power := { h.power with vsram := h.power.vsram.put d m } }).modDie d fun e => e.railAt m

/-- A lowering of a rail begins: an L2 that will stand below its threshold switches to DEC-TED first (R280). -/
def State.lowerRail (s : State) (r : Rail) (m : Nat) : State :=
  let s := s.modHub fun h => { h with power := { h.power with lowering := h.power.lowering.put (railNum r) (some m) } }
  match r with
  | .vcore _ => s
  | .vsram d => s.modDie d fun e => { e with dected := e.dected || decide (m < Config.l2Threshold) }

/-- `RAIL_ADJUST` (R280, R371, R373): within the rail's range and not below its floor. A rail is raised at once; a lowering begins with one adjustment and
ends with the next one to the same voltage (notes/assumptions/42.md). -/
def execRailAdjust (r : Rail) (m : Nat) (s : State) : Host.Outcome State Fault Refusal :=
  let (least, most, nominal) := railRange r
  let floor := if s.hub.errors.floors.getLsbD (railNum r).val then nominal else least
  .next (if m < floor || most < m then s
    else if s.hub.power.rail r ≤ m || s.hub.power.lowering.at (railNum r) == some m then s.setRail r m
    else s.lowerRail r m)

def State.modPower (s : State) (f : Power → Power) : State := s.modHub fun h => { h with power := f h.power }

/-- The place of a junction sensor among the temperatures of R372, 0 to 3 for the dies and 4 for the hub, which is also its unit in Scree. -/
def sensorUnit (n : Fin 36) : Fin 5 := Fin.ofNat 5 (n.val / 8)

/-- The sensor reading is the hottest of its die. -/
def State.hotter (s : State) (n : Fin 36) (t : BitVec 16) : State :=
  s.modPower fun p => { p with temps := p.temps.put (Fin.ofNat 13 (n.val / 8)) t }

/-- `THERMAL_THROTTLE` (R374): issue of new Sett and engine commands is gated until the governor's next tick. -/
def execThermalThrottle (n : Fin 36) (t : BitVec 16) (s : State) : Host.Outcome State Fault Refusal :=
  .next (if 100 ≤ t.toNat then
      ((s.hotter n t).modPower fun p => { p with gated := true }).scree (sensorUnit n) 0x40 (BitVec.ofNat 64 (t.toNat * 2 ^ 32 + n.val))
    else s.hotter n t)

/-- `POWER_CAP_REACHED` (R374). -/
def execPowerCapReached (w : BitVec 16) (s : State) : Host.Outcome State Fault Refusal :=
  let s := s.modPower fun p => { p with watts := w }
  .next (if s.hub.power.cap.toNat < w.toNat then
      (s.modPower fun p => { p with gated := true }).scree 4 0x42 (BitVec.ofNat 64 w.toNat)
    else s)

/-- The compute dies are powered down: nothing of them stays, and their links go down. -/
def State.powerDown (s : State) : State :=
  let s := (List.finRange 4).foldl (fun s d =>
    [Port.xp, .xm, .yp, .ym, .zp, .zm].foldl (fun s p => s.setLink d p .down) s) s.settleUpdates
  { s with cores := File.all 768 Core.reset, setts := File.all 64 Sett.reset, tus := File.all 16 Tu.reset,
           dies := s.dies.map fun e => { Die.reset with links := e.links },
           hub := { s.hub with brock := { s.hub.brock with released := s.hub.brock.released.filter fun e =>
             e.1 == .management || e.1 == .memory || e.1 == .frontEnd } } }

/-- `THERMAL_TRIP` (R374, R368): every tile run ends as by FLR, the compute dies are powered down, Scree freezes. -/
def execThermalTrip (n : Fin 36) (t : BitVec 16) (s : State) : Host.Outcome State Fault Refusal :=
  if t.toNat < 110 then .next (s.hotter n t)
  else
    let s := (s.hotter n t).scree (sensorUnit n) 0x41 (BitVec.ofNat 64 n.val)
    let s := ((List.finRange 16).foldl State.flr s).powerDown
    .next ((s.modPower fun p => { p with tripped := true }).freezeScree)

end Sys2Proof.Machine
end

