-- ==== Sys2Proof/Machine/HostPort.lean ====
section
/-! DEFINITION. The host's registers (R349 to R353, R357), the configuration space (R347, R348), its accesses to device memory and to its own
(R106, R355), the event ring (R352) and masked interrupts (R330). -/

namespace Sys2Proof.Machine

/-! ## The partition page (R350, R357) -/

/-- A change to a configured partition; without it the virtual function does not exist (R348). -/
def State.modPart (s : State) (v : Fin 16) (f : Part → Part) : State := s.modHub fun h => { h with parts := h.parts.mod v (Option.map f) }

/-- `RLOG_RD` (R350, R346). -/
def execRlogRd (v : Fin 16) (n : W32) (s : State) : Host.Outcome State Fault Refusal :=
  .next (s.modPart v fun t => { t with rlogRd := n })

/-- `PREQ_RD` (R350, R356): requests that wait for room enter the ring. -/
def execPreqRd (v : Fin 16) (n : W32) (s : State) : Host.Outcome State Fault Refusal :=
  .next ((s.modPart v fun t => { t with preqRd := n }).flushPreqs v)

/-- A SUSPENDED entry, or one treated so, that an outstanding re-walk of a core waits on is lost: the host refused its page (R136, R142, R357). -/
def State.refuseRewalk (s : State) (c : CoreId) (asid : BitVec 11) (va : Nat) : State :=
  let base := (s.core c).cr.pinBase
  let waits := fun (i : Nat) => s.pinState base i == 3 || (s.pinState base i == 2 && (s.pinnedAt base i).all fun p => !p.frozen)
  ((List.range Config.pinEntries).filter fun i =>
    waits i && s.pinAsid base i == asid && meets va 4096 (s.pinVa base i) (s.pinLen base i)).foldl
      (fun s i => s.setPinState base i 4) s

/-- What an answer does for the party that waits on a request (R133, R357): an `xlat`, a re-walk, or the pin of an operator. The walk that
follows bypasses the walk caches for the page. -/
def State.answerPage (s : State) (r : PageReq) (refused : Bool) : State :=
  let page := r.va / 4096
  let again := fun (c : CoreId) =>
    if refused then s.refuseRewalk c r.asid r.va
    else s.modHub fun h => { h with walked := (r.part, r.asid, page) :: h.walked.filter fun e => e != (r.part, r.asid, page) }
  match r.core, r.queue with
  | some (c, x), _ =>
    match ((s.core c).ctx.at x).xl with
    | some p =>
      if p.req = some r.id then
        s.modCore c fun k => k.modCtx x fun d => { d with xl := some { p with req := none, bypass := some page, refused := refused } }
      else again c
    | none => again c
  | none, some q =>
    match s.queue q with
    | none => s
    | some (k, w) =>
      match w.current with
      | none => s
      | some p => match p.pinning with
        | none => s
        | some o => s.modOp k.num p.uid o.record fun o => { o with bypass := some page, refused := refused }
  | none, none => s

/-- `PRESP` (R357): code 0 retries, code 1 refuses; an id that is not outstanding and codes 2 and 3 are ignored. -/
def execPresp (v : Fin 16) (n : W64) (s : State) : Host.Outcome State Fault Refusal :=
  let id := BitVec.ofNat 16 (bitsOf n.toNat 0 16)
  let code := bitsOf n.toNat 16 2
  match s.hub.preqs.find? fun r => r.part == v && r.id == id && r.written with
  | none => .next s
  | some r =>
    if 2 ≤ code then .next s
    else .next ((s.modHub fun h => { h with preqs := h.preqs.filter fun q => !(q.part == v && q.id == id) }).answerPage r (code == 1))

/-! ## The event ring (R352) -/

/-- `EV_RD` (R352). -/
def execEvRd (n : W32) (s : State) : Host.Outcome State Fault Refusal := .next (s.modMbox fun m => { m with evRd := n })

/-- `EV_BASE` (R352). -/
def execEvBase (n : W64) (s : State) : Host.Outcome State Fault Refusal := .next (s.modMbox fun m => { m with evBase := n })

/-- `EVENT_RECORD_WRITE` (R352): the oldest event is written once there is a ring with room, with an interrupt on vector 0 of the PF. -/
def execEventRecordWrite (s : State) : Host.Outcome State Fault Refusal :=
  let m := s.hub.mbox
  match m.events with
  | [] => .next s
  | r :: rest =>
    if m.evBase = 0 || decide (64 ≤ (m.evWr - m.evRd).toNat) then .next s
    else
      let a := memKey 2 (m.evBase.toNat + 64 * (m.evWr.toNat % 64))
      let s := s.homePut ((List.range 64).map (a + ·)) r.bytes
      .next ((s.modMbox fun m => { m with evWr := m.evWr + 1, events := rest }).msi 16 0)

/-! ## Masked interrupts (R330) -/

/-- A function exists in configuration space: the PF, function 16, always, a VF while its partition is configured (R348, R364). -/
def State.hasFunction (s : State) (f : Fin 17) : Bool := f = 16 || (s.hub.parts.at (Fin.ofNat 16 f.val)).isSome

/-- A vector is unmasked: an interrupt that it held is sent, once. -/
def State.unmask (s : State) (f : Fin 17) (n : Nat) : State :=
  if !s.hasFunction f then s
  else s.modHub fun h =>
    let m := h.msix
    let v := (f, n)
    { h with msix := { masked := m.masked.filter (· != v), held := m.held.filter (· != v),
                       sent := if m.held.contains v && m.masked.contains v then m.sent ++ [v] else m.sent } }

/-- `MSIX_VECTOR_UNMASK` (R330). -/
def execMsixVectorUnmask (f : Fin 17) (n : Fin 2048) (s : State) : Host.Outcome State Fault Refusal := .next (s.unmask f n.val)

/-! ## Register writes (R349 to R353, R364) -/

/-- A code, with the payload, names a command that can run (R353): every code of the table but an operation of SET_FABRIC that does not exist. -/
def State.mboxKnown (s : State) (code : Nat) : Bool := decide (1 ≤ code) && decide (code ≤ 0x10) && !(code == 0x0B && s.pay 0 0 2 == 3)

/-- A write to `cmd` (R352, R376): ignored with `overrun` while a command runs; otherwise the command runs from now on, and its own step ends it; a code
that names no command is rejected at once (notes/assumptions/38.md). -/
def State.writeCmd (s : State) (code : Nat) : State :=
  if s.hub.mbox.busy then s.modMbox fun m => { m with overrun := true }
  else if s.mboxKnown code then s.modMbox fun m => { m with busy := true, cmd := BitVec.ofNat 16 code }
  else s.mboxEnd true fun _ => .rejected (if code = 0x0B then 3 else 1)

/-- A write into the mailbox page, by 8 bytes (z) or 4 (R352). -/
def State.writeMailbox (s : State) (o : Nat) (z : Bool) (n : W64) : State :=
  let low := n.toNat % 2 ^ 32
  if o = 0 then s.writeCmd (n.toNat % 2 ^ 16)
  else if o = 8 then (if bitOf n.toNat 2 then s.modMbox fun m => { m with overrun := false } else s)
  else if o = 0x18 then s.modMbox fun m => { m with evRd := BitVec.ofNat 32 low }
  else if o = 0x20 then
    s.modMbox fun m => { m with evBase := if z then n else BitVec.ofNat 64 (m.evBase.toNat / 2 ^ 32 * 2 ^ 32 + low) }
  else if o = 0x24 then s.modMbox fun m => { m with evBase := BitVec.ofNat 64 (low * 2 ^ 32 + m.evBase.toNat % 2 ^ 32) }
  else if 0x100 ≤ o && o < 0x900 && !s.hub.mbox.busy then s.setPay (o - 0x100) (if z then 8 else 4) (if z then n.toNat else low)
  else s

/-- The next state of an outcome, the state itself where there is none. -/
def nextOr (s : State) : Host.Outcome State Fault Refusal → State
  | .next t => t
  | _ => s

/-- A write into a page of a virtual function (R350, R351). -/
def State.writePage (s : State) (v : Fin 16) (page : Option Nat) (o : Nat) (n : W64) : State :=
  let low := n.setWidth 32
  match page with
  | none =>
    if o = 8 then nextOr s (execRlogRd v low s)
    else if o = 0x18 then nextOr s (execPreqRd v low s)
    else if o = 0x20 then nextOr s (execPresp v n s)
    else s
  | some j =>
    if o = 0 then nextOr s (execDoorbellTail v j low s)
    else if o = 0x10 then nextOr s (execCompletionHead v j low s)
    else s

/-- `REGISTER_WRITE` (R5, R349): z says whether the access has 8 bytes. One that is not naturally aligned is ignored, and so is a write to a
read-only register. BAR2 stands for the upload window in recovery mode and for a DOE transfer otherwise (R364, R366). -/
def execRegisterWrite (r : HostReg) (o : Nat) (z : Bool) (n : W64) (s : State) : Host.Outcome State Fault Refusal :=
  if o % (if z then 8 else 4) ≠ 0 then .next s
  else match r with
  | .mailbox => .next (s.writeMailbox o z n)
  | .partition v => .next (s.writePage v none o n)
  | .doorbell v j => .next (s.writePage v (some j) o n)
  | .bar2 =>
    .next (if o < 2 ^ 26 then s.modBrock fun b => { b with staging := b.staging.putNum o (if z then 8 else 4) (n.toNat % 2 ^ (if z then 64 else 32)) }
      else s)
  | .msixMask f v =>
    .next (if !s.hasFunction f then s
      else if n.getLsbD 0 then s.modHub fun h => { h with msix := { h.msix with
        masked := if h.msix.masked.contains (f, v.val) then h.msix.masked else (f, v.val) :: h.msix.masked } }
      else s.unmask f v.val)

/-! ## Register reads (R5, R6, R349 to R352) -/

/-- The 64-bit register at an aligned offset of the mailbox page: `cmd`, reserved bits and offsets without a register read 0. -/
def Mailbox.reg (m : Mailbox) (o : Nat) : Nat :=
  if o = 8 then m.detail.toNat * 2 ^ 16 + m.overrun.toNat * 4 + m.error.toNat * 2 + m.busy.toNat
  else if o = 0x10 then m.evWr.toNat
  else if o = 0x18 then m.evRd.toNat
  else if o = 0x20 then m.evBase.toNat
  else if 0x100 ≤ o && o < 0x900 then m.payload.num (o - 0x100) 8
  else 0

/-- A register of a partition page (R350): `presp` reads 0. -/
def Part.reg (t : Part) (o : Nat) : Nat :=
  if o = 0 then t.rlogWr.toNat
  else if o = 8 then t.rlogRd.toNat
  else if o = 0x10 then t.preqWr.toNat
  else if o = 0x18 then t.preqRd.toNat
  else 0

/-- A register of a doorbell page (R351). -/
def Queue.reg (q : Queue) (o : Nat) : Nat :=
  if o = 0 then q.tail.toNat
  else if o = 8 then q.head.toNat
  else if o = 0x10 then q.chead.toNat
  else if o = 0x18 then q.ctail.toNat
  else 0

/-- A register of the host at an aligned offset; a page that is not assigned, and every page of a VF that does not exist, reads 0 (R348, R349). The
upload window gives what has been written to it, in recovery mode only (R364). -/
def State.hostReg (s : State) (r : HostReg) (o : Nat) : Nat :=
  match r with
  | .mailbox => s.hub.mbox.reg o
  | .partition v => match s.hub.parts.at v with
    | some t => t.reg o
    | none => 0
  | .doorbell v j => match s.pageQueue v j with
    | some (q, _) => q.reg o
    | none => 0
  | .bar2 => if s.inRecovery && o < 2 ^ 26 then s.hub.brock.staging.num o 8 else 0
  | .msixMask f n => (s.hasFunction f && s.hub.msix.masked.contains (f, n.val)).toNat

/-- What a read of the host returns (R349): z says whether the access has 8 bytes; one that is not naturally aligned reads 0. A read changes nothing. -/
def State.registerRead (s : State) (r : HostReg) (o : Nat) (z : Bool) : W64 :=
  if o % (if z then 8 else 4) ≠ 0 then 0
  else if z then BitVec.ofNat 64 (s.hostReg r o)
  else BitVec.ofNat 64 (bitsOf (s.hostReg r (o / 8 * 8)) (o % 8 * 8) 32)

/-! ## Configuration space (R347, R348) -/

/-- What a host may look for in a function's configuration space. -/
inductive Capability where
  | srIov | msix | doe | flr | cache | mem | multiLogical | portRouting
deriving DecidableEq, Repr

/-- A capability is present in a function (R347, R348): none in one that does not exist; in recovery mode CXL.io alone (R364). Only the PF has virtual functions;
that it is also the one with DOE, CXL.cache and CXL.mem is a DESIGN CHOICE (notes/assumptions/38.md). -/
def State.hasCapability (s : State) (f : Fin 17) (c : Capability) : Bool :=
  s.hasFunction f && match c with
  | .msix | .flr => true
  | .srIov | .doe => f == 16
  | .cache | .mem => f == 16 && !s.inRecovery
  | .multiLogical | .portRouting => false

/-- Virtual functions, MSI-X vectors of a function, HDM ranges (R347). -/
def vfCount : Nat := 16
def vectorCount : Nat := 2048
def hdmCount : Nat := 2

/-! ## Memory (R106, R355) -/

/-- The place of a device physical address, none past the two ranges (R355). -/
def dpaKey (a : Nat) : Option Nat :=
  if a < 2 ^ 39 then some (memKey 0 (Config.hbmBase + a))
  else if a < 3 * 2 ^ 39 then some (memKey 0 (Config.tier2Base + (a - 2 ^ 39)))
  else none

/-- `HOST_MEM_READ` (R355): the home banks recall dirty copies first. In recovery mode there is no CXL.mem, and it does nothing (R364). -/
def execHostMemRead (a n : Nat) (s : State) : Host.Outcome State Fault Refusal :=
  if s.inRecovery then .next s
  else match ((List.range n).map (a + ·)).mapM dpaKey with
  | none => .fault .noSuchDpa
  | some ks =>
    let s := (linesOf ks).foldl (fun s l => s.homeRead l) s
    .next (s.modHub fun h => { h with hostData := ks.map s.mem.get })

/-- `HOST_MEM_WRITE` (R355, R364). -/
def execHostMemWrite (a : Nat) (b : List Byte) (s : State) : Host.Outcome State Fault Refusal :=
  if s.inRecovery then .next s
  else match ((List.range b.length).map (a + ·)).mapM dpaKey with
  | none => .fault .noSuchDpa
  | some ks => .next (s.homePut ks b)

/-- `HOST_WRITE_INVALIDATION` (R106, R192): the host writes its memory; copies of the lines leave the device, and a `wadr` reads again. -/
def execHostWriteInvalidation (a : Nat) (b : List Byte) (s : State) : Host.Outcome State Fault Refusal :=
  let s := s.homePut ((List.range b.length).map fun i => memKey 2 (a + i)) b
  let wake := fun (k : Core) => if (List.finRange 4).any fun x => ((k.ctx.at x).wadr).isSome then
      { k with ctx := k.ctx.map fun c => { c with wadr := c.wadr.map fun w => { w with awake := true } } } else k
  .next { s with cores := s.cores.map wake }

end Sys2Proof.Machine
end

