-- ==== Sys2Proof/Machine/Dispatch.lean ====
section
/-! DEFINITION. Which meaning each instruction has. -/

namespace Sys2Proof.Machine

/-- The meaning of an instruction or of a step of another agent. -/
def exec (i : Instr) (s : State) : Host.Outcome State Fault Refusal :=
  match i with
  | .nop a0 => Sys2Proof.Machine.execNop a0 s
  | .halt a0 => Sys2Proof.Machine.execHalt a0 s
  | .pbr a0 a1 a2 => Sys2Proof.Machine.execPbr a0 a1 a2 s
  | .br a0 a1 a2 a3 => Sys2Proof.Machine.execBr a0 a1 a2 a3 s
  | .loop a0 a1 a2 => Sys2Proof.Machine.execLoop a0 a1 a2 s
  | .loopI a0 a1 a2 => Sys2Proof.Machine.execLoopI a0 a1 a2 s
  | .lb a0 a1 a2 => Sys2Proof.Machine.execLb a0 a1 a2 s
  | .lx a0 a1 a2 a3 a4 => Sys2Proof.Machine.execLx a0 a1 a2 a3 a4 s
  | .budget a0 a1 => Sys2Proof.Machine.execBudget a0 a1 s
  | .mwait a0 a1 => Sys2Proof.Machine.execMwait a0 a1 s
  | .gen a0 => Sys2Proof.Machine.execGen a0 s
  | .phase a0 => Sys2Proof.Machine.execPhase a0 s
  | .seg a0 a1 a2 => Sys2Proof.Machine.execSeg a0 a1 a2 s
  | .recv a0 a1 => Sys2Proof.Machine.execRecv a0 a1 s
  | .add a0 a1 a2 a3 => Sys2Proof.Machine.execAdd a0 a1 a2 a3 s
  | .addS a0 a1 a2 a3 => Sys2Proof.Machine.execAddS a0 a1 a2 a3 s
  | .sub a0 a1 a2 a3 => Sys2Proof.Machine.execSub a0 a1 a2 a3 s
  | .subS a0 a1 a2 a3 => Sys2Proof.Machine.execSubS a0 a1 a2 a3 s
  | .and a0 a1 a2 a3 => Sys2Proof.Machine.execAnd a0 a1 a2 a3 s
  | .or a0 a1 a2 a3 => Sys2Proof.Machine.execOr a0 a1 a2 a3 s
  | .xor a0 a1 a2 a3 => Sys2Proof.Machine.execXor a0 a1 a2 a3 s
  | .shl a0 a1 a2 a3 => Sys2Proof.Machine.execShl a0 a1 a2 a3 s
  | .shr a0 a1 a2 a3 => Sys2Proof.Machine.execShr a0 a1 a2 a3 s
  | .sra a0 a1 a2 a3 => Sys2Proof.Machine.execSra a0 a1 a2 a3 s
  | .mul a0 a1 a2 a3 => Sys2Proof.Machine.execMul a0 a1 a2 a3 s
  | .mulS a0 a1 a2 a3 => Sys2Proof.Machine.execMulS a0 a1 a2 a3 s
  | .mulh a0 a1 a2 a3 => Sys2Proof.Machine.execMulh a0 a1 a2 a3 s
  | .mulhn a0 a1 a2 a3 => Sys2Proof.Machine.execMulhn a0 a1 a2 a3 s
  | .div a0 a1 a2 a3 => Sys2Proof.Machine.execDiv a0 a1 a2 a3 s
  | .divn a0 a1 a2 a3 => Sys2Proof.Machine.execDivn a0 a1 a2 a3 s
  | .rem a0 a1 a2 a3 => Sys2Proof.Machine.execRem a0 a1 a2 a3 s
  | .remn a0 a1 a2 a3 => Sys2Proof.Machine.execRemn a0 a1 a2 a3 s
  | .min a0 a1 a2 a3 => Sys2Proof.Machine.execMin a0 a1 a2 a3 s
  | .max a0 a1 a2 a3 => Sys2Proof.Machine.execMax a0 a1 a2 a3 s
  | .minn a0 a1 a2 a3 => Sys2Proof.Machine.execMinn a0 a1 a2 a3 s
  | .maxn a0 a1 a2 a3 => Sys2Proof.Machine.execMaxn a0 a1 a2 a3 s
  | .clz a0 a1 a2 => Sys2Proof.Machine.execClz a0 a1 a2 s
  | .popc a0 a1 a2 => Sys2Proof.Machine.execPopc a0 a1 a2 s
  | .addi a0 a1 a2 a3 => Sys2Proof.Machine.execAddi a0 a1 a2 a3 s
  | .andi a0 a1 a2 a3 => Sys2Proof.Machine.execAndi a0 a1 a2 a3 s
  | .ori a0 a1 a2 a3 => Sys2Proof.Machine.execOri a0 a1 a2 a3 s
  | .xori a0 a1 a2 a3 => Sys2Proof.Machine.execXori a0 a1 a2 a3 s
  | .shli a0 a1 a2 a3 => Sys2Proof.Machine.execShli a0 a1 a2 a3 s
  | .shri a0 a1 a2 a3 => Sys2Proof.Machine.execShri a0 a1 a2 a3 s
  | .srai a0 a1 a2 a3 => Sys2Proof.Machine.execSrai a0 a1 a2 a3 s
  | .li a0 a1 a2 => Sys2Proof.Machine.execLi a0 a1 a2 s
  | .lih a0 a1 a2 => Sys2Proof.Machine.execLih a0 a1 a2 s
  | .cmp a0 a1 a2 a3 a4 => Sys2Proof.Machine.execCmp a0 a1 a2 a3 a4 s
  | .cmpi a0 a1 a2 a3 a4 => Sys2Proof.Machine.execCmpi a0 a1 a2 a3 a4 s
  | .pset a0 a1 a2 a3 a4 => Sys2Proof.Machine.execPset a0 a1 a2 a3 a4 s
  | .sel a0 a1 a2 a3 a4 a5 => Sys2Proof.Machine.execSel a0 a1 a2 a3 a4 a5 s
  | .ext a0 a1 a2 a3 a4 => Sys2Proof.Machine.execExt a0 a1 a2 a3 a4 s
  | .ins a0 a1 a2 a3 a4 => Sys2Proof.Machine.execIns a0 a1 a2 a3 a4 s
  | .pbrr a0 a1 a2 => Sys2Proof.Machine.execPbrr a0 a1 a2 s
  | .call a0 a1 => Sys2Proof.Machine.execCall a0 a1 s
  | .enter a0 a1 => Sys2Proof.Machine.execEnter a0 a1 s
  | .ret a0 => Sys2Proof.Machine.execRet a0 s
  | .relc a0 => Sys2Proof.Machine.execRelc a0 s
  | .tjoin a0 => Sys2Proof.Machine.execTjoin a0 s
  | .tend a0 => Sys2Proof.Machine.execTend a0 s
  | .xlat a0 a1 a2 a3 a4 a5 => Sys2Proof.Machine.execXlat a0 a1 a2 a3 a4 a5 s
  | .xlatR a0 a1 a2 a3 a4 a5 a6 => Sys2Proof.Machine.execXlatR a0 a1 a2 a3 a4 a5 a6 s
  | .xlatWalkComplete a0 a1 => Sys2Proof.Machine.execXlatWalkComplete a0 a1 s
  | .xrel a0 a1 => Sys2Proof.Machine.execXrel a0 a1 s
  | .xinfo a0 a1 a2 a3 => Sys2Proof.Machine.execXinfo a0 a1 a2 a3 s
  | .bind a0 a1 a2 a3 a4 => Sys2Proof.Machine.execBind a0 a1 a2 a3 a4 s
  | .unbind a0 a1 => Sys2Proof.Machine.execUnbind a0 a1 s
  | .lds a0 a1 a2 a3 a4 a5 => Sys2Proof.Machine.execLds a0 a1 a2 a3 a4 a5 s
  | .ldsDataReturn a0 a1 a2 => Sys2Proof.Machine.execLdsDataReturn a0 a1 a2 s
  | .sts a0 a1 a2 a3 a4 a5 => Sys2Proof.Machine.execSts a0 a1 a2 a3 a4 a5 s
  | .stsAccepted a0 a1 a2 => Sys2Proof.Machine.execStsAccepted a0 a1 a2 s
  | .amo a0 a1 a2 a3 a4 a5 a6 a7 a8 => Sys2Proof.Machine.execAmo a0 a1 a2 a3 a4 a5 a6 a7 a8 s
  | .cas a0 a1 a2 a3 a4 a5 a6 a7 a8 => Sys2Proof.Machine.execCas a0 a1 a2 a3 a4 a5 a6 a7 a8 s
  | .acq a0 a1 a2 a3 a4 => Sys2Proof.Machine.execAcq a0 a1 a2 a3 a4 s
  | .rel a0 a1 a2 a3 a4 => Sys2Proof.Machine.execRel a0 a1 a2 a3 a4 s
  | .fence a0 a1 => Sys2Proof.Machine.execFence a0 a1 s
  | .fenceAcq a0 a1 => Sys2Proof.Machine.execFenceAcq a0 a1 s
  | .fenceRel a0 a1 => Sys2Proof.Machine.execFenceRel a0 a1 s
  | .fenceAll a0 => Sys2Proof.Machine.execFenceAll a0 s
  | .wadr a0 a1 a2 a3 a4 a5 => Sys2Proof.Machine.execWadr a0 a1 a2 a3 a4 a5 s
  | .wadrWake a0 a1 => Sys2Proof.Machine.execWadrWake a0 a1 s
  | .wfe a0 => Sys2Proof.Machine.execWfe a0 s
  | .sev a0 a1 => Sys2Proof.Machine.execSev a0 a1 s
  | .send a0 a1 a2 => Sys2Proof.Machine.execSend a0 a1 a2 s
  | .bqp a0 a1 a2 a3 => Sys2Proof.Machine.execBqp a0 a1 a2 a3 s
  | .win a0 a1 a2 a3 => Sys2Proof.Machine.execWin a0 a1 a2 a3 s
  | .trap a0 a1 => Sys2Proof.Machine.execTrap a0 a1 s
  | .rett a0 => Sys2Proof.Machine.execRett a0 s
  | .ecall a0 a1 => Sys2Proof.Machine.execEcall a0 a1 s
  | .brk a0 a1 => Sys2Proof.Machine.execBrk a0 a1 s
  | .mfc a0 a1 a2 => Sys2Proof.Machine.execMfc a0 a1 a2 s
  | .mtc a0 a1 a2 => Sys2Proof.Machine.execMtc a0 a1 a2 s
  | .bk a0 a1 a2 a3 a4 a5 a6 a7 a8 => Sys2Proof.Machine.execBk a0 a1 a2 a3 a4 a5 a6 a7 a8 s
  | .bkred a0 a1 a2 a3 a4 a5 a6 a7 => Sys2Proof.Machine.execBkred a0 a1 a2 a3 a4 a5 a6 a7 s
  | .wqPush a0 a1 a2 a3 a4 a5 => Sys2Proof.Machine.execWqPush a0 a1 a2 a3 a4 a5 s
  | .wqPop a0 a1 a2 a3 a4 a5 => Sys2Proof.Machine.execWqPop a0 a1 a2 a3 a4 a5 s
  | .wqPeek a0 a1 a2 a3 a4 a5 => Sys2Proof.Machine.execWqPeek a0 a1 a2 a3 a4 a5 s
  | .xall a0 a1 a2 a3 a4 a5 a6 a7 => Sys2Proof.Machine.execXall a0 a1 a2 a3 a4 a5 a6 a7 s
  | .fred a0 a1 a2 a3 a4 a5 a6 a7 => Sys2Proof.Machine.execFred a0 a1 a2 a3 a4 a5 a6 a7 s
  | .fput a0 a1 a2 a3 a4 a5 => Sys2Proof.Machine.execFput a0 a1 a2 a3 a4 a5 s
  | .fget a0 a1 a2 a3 a4 a5 => Sys2Proof.Machine.execFget a0 a1 a2 a3 a4 a5 s
  | .famo a0 a1 a2 a3 a4 a5 a6 a7 a8 => Sys2Proof.Machine.execFamo a0 a1 a2 a3 a4 a5 a6 a7 a8 s
  | .fbar a0 a1 a2 a3 => Sys2Proof.Machine.execFbar a0 a1 a2 a3 s
  | .ldq a0 a1 a2 a3 a4 => Sys2Proof.Machine.execLdq a0 a1 a2 a3 a4 s
  | .stq a0 a1 a2 a3 a4 => Sys2Proof.Machine.execStq a0 a1 a2 a3 a4 s
  | .strel a0 a1 a2 a3 a4 a5 => Sys2Proof.Machine.execStrel a0 a1 a2 a3 a4 a5 s
  | .pf a0 a1 a2 a3 => Sys2Proof.Machine.execPf a0 a1 a2 a3 s
  | .upd a0 a1 a2 a3 a4 a5 a6 => Sys2Proof.Machine.execUpd a0 a1 a2 a3 a4 a5 a6 s
  | .ldstWordComplete a0 a1 a2 => Sys2Proof.Machine.execLdstWordComplete a0 a1 a2 s
  | .heldCompletionPost a0 a1 a2 => Sys2Proof.Machine.execHeldCompletionPost a0 a1 a2 s
  | .aadd a0 a1 a2 a3 => Sys2Proof.Machine.execAadd a0 a1 a2 a3 s
  | .aaddi a0 a1 a2 a3 => Sys2Proof.Machine.execAaddi a0 a1 a2 a3 s
  | .ali a0 a1 a2 => Sys2Proof.Machine.execAli a0 a1 a2 s
  | .acmp a0 a1 a2 a3 a4 => Sys2Proof.Machine.execAcmp a0 a1 a2 a3 a4 s
  | .ldsp a0 a1 a2 a3 a4 a5 a6 a7 => Sys2Proof.Machine.execLdsp a0 a1 a2 a3 a4 a5 a6 a7 s
  | .stsp a0 a1 a2 a3 a4 a5 a6 a7 => Sys2Proof.Machine.execStsp a0 a1 a2 a3 a4 a5 a6 a7 s
  | .gth a0 a1 a2 a3 a4 a5 a6 a7 a8 => Sys2Proof.Machine.execGth a0 a1 a2 a3 a4 a5 a6 a7 a8 s
  | .sct a0 a1 a2 a3 a4 a5 a6 a7 a8 => Sys2Proof.Machine.execSct a0 a1 a2 a3 a4 a5 a6 a7 a8 s
  | .engineCommandStart a0 a1 => Sys2Proof.Machine.execEngineCommandStart a0 a1 s
  | .copyCommandComplete a0 a1 => Sys2Proof.Machine.execCopyCommandComplete a0 a1 s
  | .gatherCommandComplete a0 a1 => Sys2Proof.Machine.execGatherCommandComplete a0 a1 s
  | .faddF32 a0 a1 a2 a3 => Sys2Proof.Machine.execFaddF32 a0 a1 a2 a3 s
  | .faddBf16 a0 a1 a2 a3 => Sys2Proof.Machine.execFaddBf16 a0 a1 a2 a3 s
  | .fsubF32 a0 a1 a2 a3 => Sys2Proof.Machine.execFsubF32 a0 a1 a2 a3 s
  | .fsubBf16 a0 a1 a2 a3 => Sys2Proof.Machine.execFsubBf16 a0 a1 a2 a3 s
  | .fmulF32 a0 a1 a2 a3 => Sys2Proof.Machine.execFmulF32 a0 a1 a2 a3 s
  | .fmulBf16 a0 a1 a2 a3 => Sys2Proof.Machine.execFmulBf16 a0 a1 a2 a3 s
  | .fmaF32 a0 a1 a2 a3 => Sys2Proof.Machine.execFmaF32 a0 a1 a2 a3 s
  | .fmaBf16 a0 a1 a2 a3 => Sys2Proof.Machine.execFmaBf16 a0 a1 a2 a3 s
  | .fmsF32 a0 a1 a2 a3 => Sys2Proof.Machine.execFmsF32 a0 a1 a2 a3 s
  | .fmsBf16 a0 a1 a2 a3 => Sys2Proof.Machine.execFmsBf16 a0 a1 a2 a3 s
  | .fnmaF32 a0 a1 a2 a3 => Sys2Proof.Machine.execFnmaF32 a0 a1 a2 a3 s
  | .fnmaBf16 a0 a1 a2 a3 => Sys2Proof.Machine.execFnmaBf16 a0 a1 a2 a3 s
  | .fmaxF32 a0 a1 a2 a3 => Sys2Proof.Machine.execFmaxF32 a0 a1 a2 a3 s
  | .fmaxBf16 a0 a1 a2 a3 => Sys2Proof.Machine.execFmaxBf16 a0 a1 a2 a3 s
  | .fminF32 a0 a1 a2 a3 => Sys2Proof.Machine.execFminF32 a0 a1 a2 a3 s
  | .fminBf16 a0 a1 a2 a3 => Sys2Proof.Machine.execFminBf16 a0 a1 a2 a3 s
  | .fcmpF32 a0 a1 a2 a3 a4 => Sys2Proof.Machine.execFcmpF32 a0 a1 a2 a3 a4 s
  | .fcmpBf16 a0 a1 a2 a3 a4 => Sys2Proof.Machine.execFcmpBf16 a0 a1 a2 a3 a4 s
  | .fselF32 a0 a1 a2 a3 => Sys2Proof.Machine.execFselF32 a0 a1 a2 a3 s
  | .fselBf16 a0 a1 a2 a3 => Sys2Proof.Machine.execFselBf16 a0 a1 a2 a3 s
  | .funaF32 a0 a1 a2 a3 => Sys2Proof.Machine.execFunaF32 a0 a1 a2 a3 s
  | .exp2F32 a0 a1 a2 => Sys2Proof.Machine.execExp2F32 a0 a1 a2 s
  | .lg2F32 a0 a1 a2 => Sys2Proof.Machine.execLg2F32 a0 a1 a2 s
  | .rcpF32 a0 a1 a2 => Sys2Proof.Machine.execRcpF32 a0 a1 a2 s
  | .rsqF32 a0 a1 a2 => Sys2Proof.Machine.execRsqF32 a0 a1 a2 s
  | .iaddI32 a0 a1 a2 a3 => Sys2Proof.Machine.execIaddI32 a0 a1 a2 a3 s
  | .iaddI16 a0 a1 a2 a3 => Sys2Proof.Machine.execIaddI16 a0 a1 a2 a3 s
  | .iaddI8 a0 a1 a2 a3 => Sys2Proof.Machine.execIaddI8 a0 a1 a2 a3 s
  | .iaddI32S a0 a1 a2 a3 => Sys2Proof.Machine.execIaddI32S a0 a1 a2 a3 s
  | .iaddI16S a0 a1 a2 a3 => Sys2Proof.Machine.execIaddI16S a0 a1 a2 a3 s
  | .iaddI8S a0 a1 a2 a3 => Sys2Proof.Machine.execIaddI8S a0 a1 a2 a3 s
  | .iaddN32S a0 a1 a2 a3 => Sys2Proof.Machine.execIaddN32S a0 a1 a2 a3 s
  | .iaddN16S a0 a1 a2 a3 => Sys2Proof.Machine.execIaddN16S a0 a1 a2 a3 s
  | .iaddN8S a0 a1 a2 a3 => Sys2Proof.Machine.execIaddN8S a0 a1 a2 a3 s
  | .isubI32 a0 a1 a2 a3 => Sys2Proof.Machine.execIsubI32 a0 a1 a2 a3 s
  | .isubI16 a0 a1 a2 a3 => Sys2Proof.Machine.execIsubI16 a0 a1 a2 a3 s
  | .isubI8 a0 a1 a2 a3 => Sys2Proof.Machine.execIsubI8 a0 a1 a2 a3 s
  | .isubI32S a0 a1 a2 a3 => Sys2Proof.Machine.execIsubI32S a0 a1 a2 a3 s
  | .isubI16S a0 a1 a2 a3 => Sys2Proof.Machine.execIsubI16S a0 a1 a2 a3 s
  | .isubI8S a0 a1 a2 a3 => Sys2Proof.Machine.execIsubI8S a0 a1 a2 a3 s
  | .isubN32S a0 a1 a2 a3 => Sys2Proof.Machine.execIsubN32S a0 a1 a2 a3 s
  | .isubN16S a0 a1 a2 a3 => Sys2Proof.Machine.execIsubN16S a0 a1 a2 a3 s
  | .isubN8S a0 a1 a2 a3 => Sys2Proof.Machine.execIsubN8S a0 a1 a2 a3 s
  | .imulI32 a0 a1 a2 a3 => Sys2Proof.Machine.execImulI32 a0 a1 a2 a3 s
  | .imulI16 a0 a1 a2 a3 => Sys2Proof.Machine.execImulI16 a0 a1 a2 a3 s
  | .imulI8 a0 a1 a2 a3 => Sys2Proof.Machine.execImulI8 a0 a1 a2 a3 s
  | .imacI32 a0 a1 a2 a3 => Sys2Proof.Machine.execImacI32 a0 a1 a2 a3 s
  | .imacI16 a0 a1 a2 a3 => Sys2Proof.Machine.execImacI16 a0 a1 a2 a3 s
  | .imacI8 a0 a1 a2 a3 => Sys2Proof.Machine.execImacI8 a0 a1 a2 a3 s
  | .iand a0 a1 a2 a3 => Sys2Proof.Machine.execIand a0 a1 a2 a3 s
  | .ior a0 a1 a2 a3 => Sys2Proof.Machine.execIor a0 a1 a2 a3 s
  | .ixor a0 a1 a2 a3 => Sys2Proof.Machine.execIxor a0 a1 a2 a3 s
  | .ishlI32 a0 a1 a2 a3 => Sys2Proof.Machine.execIshlI32 a0 a1 a2 a3 s
  | .ishlI16 a0 a1 a2 a3 => Sys2Proof.Machine.execIshlI16 a0 a1 a2 a3 s
  | .ishlI8 a0 a1 a2 a3 => Sys2Proof.Machine.execIshlI8 a0 a1 a2 a3 s
  | .ishrI32 a0 a1 a2 a3 => Sys2Proof.Machine.execIshrI32 a0 a1 a2 a3 s
  | .ishrI16 a0 a1 a2 a3 => Sys2Proof.Machine.execIshrI16 a0 a1 a2 a3 s
  | .ishrI8 a0 a1 a2 a3 => Sys2Proof.Machine.execIshrI8 a0 a1 a2 a3 s
  | .israI32 a0 a1 a2 a3 => Sys2Proof.Machine.execIsraI32 a0 a1 a2 a3 s
  | .israI16 a0 a1 a2 a3 => Sys2Proof.Machine.execIsraI16 a0 a1 a2 a3 s
  | .israI8 a0 a1 a2 a3 => Sys2Proof.Machine.execIsraI8 a0 a1 a2 a3 s
  | .iminI32 a0 a1 a2 a3 => Sys2Proof.Machine.execIminI32 a0 a1 a2 a3 s
  | .iminI16 a0 a1 a2 a3 => Sys2Proof.Machine.execIminI16 a0 a1 a2 a3 s
  | .iminI8 a0 a1 a2 a3 => Sys2Proof.Machine.execIminI8 a0 a1 a2 a3 s
  | .iminN32 a0 a1 a2 a3 => Sys2Proof.Machine.execIminN32 a0 a1 a2 a3 s
  | .iminN16 a0 a1 a2 a3 => Sys2Proof.Machine.execIminN16 a0 a1 a2 a3 s
  | .iminN8 a0 a1 a2 a3 => Sys2Proof.Machine.execIminN8 a0 a1 a2 a3 s
  | .imaxI32 a0 a1 a2 a3 => Sys2Proof.Machine.execImaxI32 a0 a1 a2 a3 s
  | .imaxI16 a0 a1 a2 a3 => Sys2Proof.Machine.execImaxI16 a0 a1 a2 a3 s
  | .imaxI8 a0 a1 a2 a3 => Sys2Proof.Machine.execImaxI8 a0 a1 a2 a3 s
  | .imaxN32 a0 a1 a2 a3 => Sys2Proof.Machine.execImaxN32 a0 a1 a2 a3 s
  | .imaxN16 a0 a1 a2 a3 => Sys2Proof.Machine.execImaxN16 a0 a1 a2 a3 s
  | .imaxN8 a0 a1 a2 a3 => Sys2Proof.Machine.execImaxN8 a0 a1 a2 a3 s
  | .icmpI32 a0 a1 a2 a3 a4 => Sys2Proof.Machine.execIcmpI32 a0 a1 a2 a3 a4 s
  | .icmpI16 a0 a1 a2 a3 a4 => Sys2Proof.Machine.execIcmpI16 a0 a1 a2 a3 a4 s
  | .icmpI8 a0 a1 a2 a3 a4 => Sys2Proof.Machine.execIcmpI8 a0 a1 a2 a3 a4 s
  | .mov a0 a1 a2 => Sys2Proof.Machine.execMov a0 a1 a2 s
  | .movMasked a0 a1 a2 a3 => Sys2Proof.Machine.execMovMasked a0 a1 a2 a3 s
  | .bcst a0 a1 a2 a3 => Sys2Proof.Machine.execBcst a0 a1 a2 a3 s
  | .perm a0 a1 a2 a3 => Sys2Proof.Machine.execPerm a0 a1 a2 a3 s
  | .rot a0 a1 a2 a3 => Sys2Proof.Machine.execRot a0 a1 a2 a3 s
  | .redF32 a0 a1 a2 => Sys2Proof.Machine.execRedF32 a0 a1 a2 s
  | .redI32 a0 a1 a2 => Sys2Proof.Machine.execRedI32 a0 a1 a2 s
  | .scanF32 a0 a1 a2 => Sys2Proof.Machine.execScanF32 a0 a1 a2 s
  | .cvt a0 a1 a2 a3 => Sys2Proof.Machine.execCvt a0 a1 a2 a3 s
  | .qmax a0 a1 a2 => Sys2Proof.Machine.execQmax a0 a1 a2 s
  | .qcvt a0 a1 a2 a3 => Sys2Proof.Machine.execQcvt a0 a1 a2 a3 s
  | .deq a0 a1 a2 a3 => Sys2Proof.Machine.execDeq a0 a1 a2 a3 s
  | .zld a0 a1 a2 a3 => Sys2Proof.Machine.execZld a0 a1 a2 a3 s
  | .zst a0 a1 a2 a3 => Sys2Proof.Machine.execZst a0 a1 a2 a3 s
  | .mset a0 a1 a2 a3 => Sys2Proof.Machine.execMset a0 a1 a2 a3 s
  | .mlog a0 a1 a2 a3 a4 => Sys2Proof.Machine.execMlog a0 a1 a2 a3 a4 s
  | .zli a0 a1 a2 => Sys2Proof.Machine.execZli a0 a1 a2 s
  | .lse a0 => Sys2Proof.Machine.execLse a0 s
  | .lsr a0 => Sys2Proof.Machine.execLsr a0 s
  | .mma a0 a1 a2 a3 a4 a5 a6 => Sys2Proof.Machine.execMma a0 a1 a2 a3 a4 a5 a6 s
  | .mmaz a0 a1 a2 a3 a4 a5 a6 => Sys2Proof.Machine.execMmaz a0 a1 a2 a3 a4 a5 a6 s
  | .mmov a0 a1 a2 a3 => Sys2Proof.Machine.execMmov a0 a1 a2 a3 s
  | .mclr a0 a1 => Sys2Proof.Machine.execMclr a0 a1 s
  | .dset a0 a1 a2 => Sys2Proof.Machine.execDset a0 a1 a2 s
  | .fmtset a0 a1 a2 => Sys2Proof.Machine.execFmtset a0 a1 a2 s
  | .fmtsetFbase a0 a1 => Sys2Proof.Machine.execFmtsetFbase a0 a1 s
  | .exResultLands a0 => Sys2Proof.Machine.execExResultLands a0 s
  | .leaseGrant a0 => Sys2Proof.Machine.execLeaseGrant a0 s
  | .settOperandsRead a0 => Sys2Proof.Machine.execSettOperandsRead a0 s
  | .settCommandFinish a0 => Sys2Proof.Machine.execSettCommandFinish a0 s
  | .bankCommandComplete a0 a1 => Sys2Proof.Machine.execBankCommandComplete a0 a1 s
  | .bkredContribution a0 a1 => Sys2Proof.Machine.execBkredContribution a0 a1 s
  | .warrenCommandPerformed a0 a1 => Sys2Proof.Machine.execWarrenCommandPerformed a0 a1 s
  | .xallStart a0 a1 => Sys2Proof.Machine.execXallStart a0 a1 s
  | .xallComplete a0 a1 => Sys2Proof.Machine.execXallComplete a0 a1 s
  | .fputComplete a0 a1 => Sys2Proof.Machine.execFputComplete a0 a1 s
  | .fgetComplete a0 a1 => Sys2Proof.Machine.execFgetComplete a0 a1 s
  | .famoComplete a0 a1 => Sys2Proof.Machine.execFamoComplete a0 a1 s
  | .fredComplete a0 a1 => Sys2Proof.Machine.execFredComplete a0 a1 s
  | .fbarStart a0 a1 => Sys2Proof.Machine.execFbarStart a0 a1 s
  | .fbarComplete a0 a1 => Sys2Proof.Machine.execFbarComplete a0 a1 s
  | .trapTaken a0 => Sys2Proof.Machine.execTrapTaken a0 s
  | .stallBudget a0 a1 a2 => Sys2Proof.Machine.execStallBudget a0 a1 a2 s
  | .uncorrectableErrorConsumed a0 a1 a2 a3 => Sys2Proof.Machine.execUncorrectableErrorConsumed a0 a1 a2 a3 s
  | .machineCheckCoreClear a0 => Sys2Proof.Machine.execMachineCheckCoreClear a0 s
  | .phaseReplay a0 => Sys2Proof.Machine.execPhaseReplay a0 s
  | .tileRunRetire a0 => Sys2Proof.Machine.execTileRunRetire a0 s
  | .launchComplete a0 => Sys2Proof.Machine.execLaunchComplete a0 s
  | .tileRunDispatch a0 => Sys2Proof.Machine.execTileRunDispatch a0 s
  | .shadowBankFill a0 => Sys2Proof.Machine.execShadowBankFill a0 s
  | .operatorPinning a0 => Sys2Proof.Machine.execOperatorPinning a0 s
  | .shadowBankSwap a0 => Sys2Proof.Machine.execShadowBankSwap a0 s
  | .ecallRecordAccepted a0 => Sys2Proof.Machine.execEcallRecordAccepted a0 s
  | .completionRecordWrite a0 => Sys2Proof.Machine.execCompletionRecordWrite a0 s
  | .holdoffTimerExpiry a0 => Sys2Proof.Machine.execHoldoffTimerExpiry a0 s
  | .doorbellTail a0 a1 a2 => Sys2Proof.Machine.execDoorbellTail a0 a1 a2 s
  | .completionHead a0 a1 a2 => Sys2Proof.Machine.execCompletionHead a0 a1 a2 s
  | .packetNop a0 => Sys2Proof.Machine.execPacketNop a0 s
  | .launch a0 => Sys2Proof.Machine.execLaunch a0 s
  | .push a0 => Sys2Proof.Machine.execPush a0 s
  | .signal a0 => Sys2Proof.Machine.execSignal a0 s
  | .timerTick => Sys2Proof.Machine.execTimerTick s
  | .rlogRd a0 a1 => Sys2Proof.Machine.execRlogRd a0 a1 s
  | .preqRd a0 a1 => Sys2Proof.Machine.execPreqRd a0 a1 s
  | .presp a0 a1 => Sys2Proof.Machine.execPresp a0 a1 s
  | .evRd a0 => Sys2Proof.Machine.execEvRd a0 s
  | .evBase a0 => Sys2Proof.Machine.execEvBase a0 s
  | .eventRecordWrite => Sys2Proof.Machine.execEventRecordWrite s
  | .registerWrite a0 a1 a2 a3 => Sys2Proof.Machine.execRegisterWrite a0 a1 a2 a3 s
  | .configureQueue => Sys2Proof.Machine.execConfigureQueue s
  | .setRoot => Sys2Proof.Machine.execSetRoot s
  | .flushAsid => Sys2Proof.Machine.execFlushAsid s
  | .revoke => Sys2Proof.Machine.execRevoke s
  | .quiesced a0 => Sys2Proof.Machine.execQuiesced a0 s
  | .resume => Sys2Proof.Machine.execResume s
  | .preemptNode => Sys2Proof.Machine.execPreemptNode s
  | .preemptForced => Sys2Proof.Machine.execPreemptForced s
  | .holdReachesCore a0 => Sys2Proof.Machine.execHoldReachesCore a0 s
  | .preempted a0 => Sys2Proof.Machine.execPreempted a0 s
  | .restore => Sys2Proof.Machine.execRestore s
  | .restored a0 => Sys2Proof.Machine.execRestored a0 s
  | .setPartition => Sys2Proof.Machine.execSetPartition s
  | .setPartitionRemove => Sys2Proof.Machine.execSetPartitionRemove s
  | .setCommons => Sys2Proof.Machine.execSetCommons s
  | .setWarren => Sys2Proof.Machine.execSetWarren s
  | .setFabricGeometry => Sys2Proof.Machine.execSetFabricGeometry s
  | .setFabricGroup => Sys2Proof.Machine.execSetFabricGroup s
  | .setFabricLink => Sys2Proof.Machine.execSetFabricLink s
  | .readScree => Sys2Proof.Machine.execReadScree s
  | .screeRelease => Sys2Proof.Machine.execScreeRelease s
  | .readHealth => Sys2Proof.Machine.execReadHealth s
  | .setPowerCap => Sys2Proof.Machine.execSetPowerCap s
  | .recoveryCommit => Sys2Proof.Machine.execRecoveryCommit s
  | .flitReceive a0 a1 a2 a3 a4 => Sys2Proof.Machine.execFlitReceive a0 a1 a2 a3 a4 s
  | .nakReceive a0 a1 a2 => Sys2Proof.Machine.execNakReceive a0 a1 a2 s
  | .lossOfLock a0 a1 => Sys2Proof.Machine.execLossOfLock a0 a1 s
  | .laneFailure a0 a1 a2 => Sys2Proof.Machine.execLaneFailure a0 a1 a2 s
  | .retrainComplete a0 a1 => Sys2Proof.Machine.execRetrainComplete a0 a1 s
  | .retrainTimeout a0 a1 => Sys2Proof.Machine.execRetrainTimeout a0 a1 s
  | .linkStateUpdate => Sys2Proof.Machine.execLinkStateUpdate s
  | .pathSilenceExpiry a0 a1 => Sys2Proof.Machine.execPathSilenceExpiry a0 a1 s
  | .keyControl a0 a1 a2 => Sys2Proof.Machine.execKeyControl a0 a1 a2 s
  | .keyLow a0 a1 => Sys2Proof.Machine.execKeyLow a0 a1 s
  | .keyExhausted a0 a1 => Sys2Proof.Machine.execKeyExhausted a0 a1 s
  | .keyExhaustionTimeout a0 a1 => Sys2Proof.Machine.execKeyExhaustionTimeout a0 a1 s
  | .fabricRead a0 a1 => Sys2Proof.Machine.execFabricRead a0 a1 s
  | .fabricWrite a0 a1 => Sys2Proof.Machine.execFabricWrite a0 a1 s
  | .fabricAtomic a0 a1 => Sys2Proof.Machine.execFabricAtomic a0 a1 s
  | .fabricBankUpdate a0 a1 => Sys2Proof.Machine.execFabricBankUpdate a0 a1 s
  | .windowRead a0 a1 => Sys2Proof.Machine.execWindowRead a0 a1 s
  | .windowWrite a0 a1 => Sys2Proof.Machine.execWindowWrite a0 a1 s
  | .ready a0 a1 => Sys2Proof.Machine.execReady a0 a1 s
  | .xallPiece a0 a1 => Sys2Proof.Machine.execXallPiece a0 a1 s
  | .fredContribution a0 a1 => Sys2Proof.Machine.execFredContribution a0 a1 s
  | .fbarArrival a0 a1 => Sys2Proof.Machine.execFbarArrival a0 a1 s
  | .response a0 a1 => Sys2Proof.Machine.execResponse a0 a1 s
  | .hostMemRead a0 a1 => Sys2Proof.Machine.execHostMemRead a0 a1 s
  | .hostMemWrite a0 a1 => Sys2Proof.Machine.execHostMemWrite a0 a1 s
  | .flrVf a0 => Sys2Proof.Machine.execFlrVf a0 s
  | .flrPf => Sys2Proof.Machine.execFlrPf s
  | .powerGood => Sys2Proof.Machine.execPowerGood s
  | .coldReset => Sys2Proof.Machine.execColdReset s
  | .oamResetPin => Sys2Proof.Machine.execOamResetPin s
  | .watchdogReport a0 => Sys2Proof.Machine.execWatchdogReport a0 s
  | .watchdogExpiry a0 => Sys2Proof.Machine.execWatchdogExpiry a0 s
  | .stageReady a0 => Sys2Proof.Machine.execStageReady a0 s
  | .stageTimeout => Sys2Proof.Machine.execStageTimeout s
  | .getMeasurements => Sys2Proof.Machine.execGetMeasurements s
  | .correctedError a0 => Sys2Proof.Machine.execCorrectedError a0 s
  | .errorWindowEnd => Sys2Proof.Machine.execErrorWindowEnd s
  | .patrolScrub a0 a1 a2 => Sys2Proof.Machine.execPatrolScrub a0 a1 a2 s
  | .railAdjust a0 a1 => Sys2Proof.Machine.execRailAdjust a0 a1 s
  | .thermalThrottle a0 a1 => Sys2Proof.Machine.execThermalThrottle a0 a1 s
  | .powerCapReached a0 => Sys2Proof.Machine.execPowerCapReached a0 s
  | .thermalTrip a0 a1 => Sys2Proof.Machine.execThermalTrip a0 a1 s
  | .unknownPacketType a0 => Sys2Proof.Machine.execUnknownPacketType a0 s
  | .msixVectorUnmask a0 a1 => Sys2Proof.Machine.execMsixVectorUnmask a0 a1 s
  | .hostWriteInvalidation a0 a1 => Sys2Proof.Machine.execHostWriteInvalidation a0 a1 s

end Sys2Proof.Machine
end

