-- ==== Sys2Proof/Machine/Step.lean ====
section
/-! DEFINITION. One step of the machine: the next turn of the agenda, or a free one (notes/assumptions/1.md). -/

namespace Sys2Proof.Machine

/-- A stream's turn at its next word: the word is fetched, decoded for the stream (R63, checks 1 to 4) and executed. -/
def State.issueTurn (s : State) (c : CoreId) (q : Seq) (x : Fin 4) : Host.Outcome State Fault Refusal :=
  let t := s.atTurn c q x
  match t.fetch with
  | (.poison n, u) => .next (u.fetchError n)
  | (.bytes b, u) =>
    match (decodeBytes q (bytesAt b t.fetchKeys)).1 with
    | .ok i => exec i u
    | .bad n => .next (u.illegalWord n)

/-- A step of another agent; a word of a stream is none. -/
def State.eventTurn (s : State) (e : Instr) : Host.Outcome State Fault Refusal :=
  match encode .ctl e with
  | [] => exec e s
  | _ :: _ => .next s

/-- A turn. -/
def State.turn (s : State) : Turn → Host.Outcome State Fault Refusal
  | .issue c q x => s.issueTurn c q x
  | .event e => s.eventTurn e

/-- One step. -/
def step (s : State) : Host.Outcome State Fault Refusal :=
  match s.agenda with
  | t :: r => State.turn { s with agenda := r } t
  | [] =>
    let s' : State := { s with draws := s.draws + 1 }
    match Config.freeTurn s.draws with
    | none => .next s'
    | some t => s'.turn t

/-- The machine with an instruction of the opcode table where its next step fetches: in the first stream that reads it
(notes/assumptions/16.md), at the start of the code extent of core 0. -/
def State.withFetchWord (s : State) (nbits w : Nat) : State :=
  let bs := tableBytes nbits w
  s.placeWords (match firstStream bs streamOrder with | some (q, _) => q | none => .ctl) bs

end Sys2Proof.Machine
end

