-- ==== Sys2Proof/Safety.lean ====
section
/-! DEFINITION. What counts as a safe run: one that no fault and no refusal stops; and what every step is to keep. -/

namespace Sys2Proof

open Machine

/-- The machine goes on from a state. -/
def goesOn (s : State) : Prop := ∃ t, step s = .next t

/-- The next n steps from a state are neither faults nor refusals. -/
def safeFor : Nat → State → Prop
  | 0, _ => True
  | n + 1, s => ∃ t, step s = .next t ∧ safeFor n t

/-- The states that a state reaches by steps. -/
inductive Reaches : State → State → Prop where
  | refl (s : State) : Reaches s s
  | tail (s t u : State) (h : Reaches s t) (e : step t = .next u) : Reaches s u

/-- Every store of bytes of a state is in canonical form: memory, the scratchpads, those of saved cores, the payload of the mailbox, the
upload window. -/
structure Machine.State.Canonical (s : State) : Prop where
  mem : s.mem.wf = true
  spad : ∀ c, (s.core c).spad.wf = true
  saved : ∀ v ∈ s.hub.saved, ∀ e ∈ v.cores, e.2.spad.wf = true
  payload : s.hub.mbox.payload.wf = true
  staging : s.hub.brock.staging.wf = true

end Sys2Proof
end

