-- ==== Sys2Proof/Certificates/Slice0/Obligations.lean ====
section
/-! DEFINITION. The statements of this row: what the encoding, a step, each instruction, traps and the machine's other agents do, from the
rules of the spec. `s.clear w` says that nothing stands before a word in state s: its stream may issue, no delivered cause waits, no check
of R63 refuses it and its ring field holds it at nothing. `t.issued w pc` is t with the word's ring field done and its stream at `pc`. -/

open Sys2Proof Sys2Proof.Machine

/-! ## Encoding, decoding, a step, reset -/

/-- R46 to R61: in every stream that can hold a well-formed instruction, its encoded words decode to it, with every operand at every value
the encoding admits, whatever bytes follow. -/
def Obligations.EncodeDecode : Prop :=
  ∀ (i : Instr) (q : Seq) (rest : List Byte), i.wf q = true →
    decodeBytes q ((encode q i).flatMap bytesOfWord ++ rest) = (.ok i, 4 * (encode q i).length)

/-- A stream's turn fetches what lies at its PC and runs what these bytes decode to, or the check of R63 that fails; an agent's turn runs its
event. Where the stream's instruction cache holds nothing else than memory at these places, no core holds an update-only line and none of the
places is poisoned, the bytes are those of memory, and fetching them changes nothing but that cache (R11). -/
def Obligations.StepRunsDecoded : Prop :=
  ∀ (s : State) (r : List Turn),
    (∀ (c : CoreId) (q : Seq) (x : Fin 4), s.agenda = .issue c q x :: r →
      let t := ({ s with agenda := r } : State).atTurn c q x
      (∀ (n : Nat) (u : State), t.fetch = (.poison n, u) → step s = .next (u.fetchError n)) ∧
      (∀ (b : List (Nat × Byte)) (u : State), t.fetch = (.bytes b, u) →
        (∀ i, (decodeBytes q (bytesAt b t.fetchKeys)).1 = .ok i → step s = exec i u) ∧
        (∀ n, (decodeBytes q (bytesAt b t.fetchKeys)).1 = .bad n → step s = .next (u.illegalWord n))) ∧
      ((∀ l ∈ t.icacheOf c q, ∀ a ∈ t.fetchKeys, lineOf a = l.line → l.bytes.getD (a % 128) 0 = t.mem.get a) →
        (∀ d, ∀ l ∈ (t.core d).l1, l.isUpdate = false) → t.poisoned t.fetchKeys = none →
        ∃ (b : List (Nat × Byte)) (u : State), t.fetch = (.bytes b, u) ∧ bytesAt b t.fetchKeys = t.fetchKeys.map t.mem.get ∧
          u.mem = t.mem ∧ u.hub = t.hub ∧ u.cur = t.cur ∧
          (∀ d, ({ u.core d with aux := { (u.core d).aux with icache := (t.core d).aux.icache } } : Core) = t.core d))) ∧
    (∀ e : Instr, s.agenda = .event e :: r → encode .ctl e = [] → step s = exec e { s with agenda := r })

/-- Words written out from the spec's encodings, in the stream that reads each (R46 to R61 and the worked encodings of R64, R134, R161). -/
def Obligations.DecodeSamples : Prop :=
  let n : Ring := ⟨false, false, false, false⟩
  decode .ctl 0x0A920061 none = .ok (.lds n 9 0 0 .n64 1) ∧
  decode .ctl 0x1908A4E0 none = .ok (.xlat ⟨false, false, false, true⟩ 2 10 9 true true) ∧
  decode .st 0x20000000 none = .ok (.nop ⟨false, false, true, false⟩) ∧
  decode .ctl 0x00400000 none = .ok (.halt n) ∧
  decode .ld 0x81010000 none = .ok (.loop ⟨true, false, false, false⟩ 0 1) ∧
  decode .ld 0x03404000 none = .ok (.ldq n 0 1 0 0) ∧
  decode .ex 0x03000000 none = .ok (.recv n 0) ∧
  decode .ex 0x03FA3070 none = .ok (.fmulBf16 n (.q 8) (.q 0) (.b 0)) ∧
  decode .ex 0x014FFFFF none = .ok (.lb n 0 (-1)) ∧
  decode .st 0x13608000 none = .ok (.stq ⟨false, false, false, true⟩ 8 2 0 0) ∧
  decode .ctl 0x05500040 none = .ok (.li n 8 0x40) ∧
  decode .ctl 0x05900FF0 none = .ok (.lih n 8 0xFF0) ∧
  decode .ctl 0x0F000000 none = .bad 2

/-- What the spec gives for reset: memory lists nothing and reads 0 (R378), a Sett's round-robin starts after core 12g + 11 and it has no
lessee (R17), the power cap is 1,600 W (R374), every core is free with an empty L1 (R199), no mark is pending
and fpmode is 0 (R62). That bytes of host memory read 0 and that trap.vec is 0 is the model's choice (notes/assumptions/4.md, 5.md). Every
store of bytes is in canonical form. -/
def Obligations.ResetValues : Prop :=
  (∀ a, State.reset.mem.get a = 0) ∧
  (∀ g, (State.reset.setts.at g).lessee = none ∧ (State.reset.setts.at g).last = 11) ∧
  State.reset.hub.power.cap = 1600 ∧
  (∀ c, (State.reset.core c).mode = .free ∧ (State.reset.core c).l1 = [] ∧ (State.reset.core c).cr.marks = 0xFFFFFFFF ∧
    (State.reset.core c).cr.fpmode = 0 ∧ (State.reset.core c).cr.trapVec = 0) ∧
  State.reset.Canonical

/-! ## Scalar words of CTL -/

/-- R159: each three-register word completes and writes its result to sD when no source of it is pending and sD is not the destination of a
queue or token result still to come; otherwise it does not issue in this turn (R144, R187). R159 (clz, popc), R160 and R161: each word with
one source, or none, and an immediate completes and writes its result to sD under the same condition; `lih` reads sD as a source and
replaces its top 16 bits, so that `li` and three `lih` make any 64-bit constant. Otherwise it does not issue in this turn (R144, R187). The
three words of the worked constant of R161. -/
def Obligations.ScalarResults : Prop :=
  (∀ (s : State) (y : Ring) (d a b : Fin 32) (i : Instr) (v : W64),
     let A := s.readS a
     let B := s.readS b
     (i, v) ∈ [
       (Instr.add y d a b, BitVec.ofNat 64 (A.toNat + B.toNat)),
       (.addS y d a b, BitVec.ofInt 64 (max (-2 ^ 63) (min (2 ^ 63 - 1) (A.toInt + B.toInt)))),
       (.sub y d a b, BitVec.ofInt 64 (A.toInt - B.toInt)),
       (.subS y d a b, BitVec.ofInt 64 (max (-2 ^ 63) (min (2 ^ 63 - 1) (A.toInt - B.toInt)))),
       (.and y d a b, A &&& B), (.or y d a b, A ||| B), (.xor y d a b, A ^^^ B),
       (.shl y d a b, if 64 ≤ B.toNat then 0 else BitVec.ofNat 64 (A.toNat * 2 ^ B.toNat)),
       (.shr y d a b, if 64 ≤ B.toNat then 0 else BitVec.ofNat 64 (A.toNat / 2 ^ B.toNat)),
       (.sra y d a b, if 64 ≤ B.toNat then (if A.toInt < 0 then -1 else 0) else BitVec.ofInt 64 (A.toInt / 2 ^ B.toNat)),
       (.mul y d a b, BitVec.ofNat 64 (A.toNat * B.toNat)),
       (.mulS y d a b, BitVec.ofInt 64 (max (-2 ^ 63) (min (2 ^ 63 - 1) (A.toInt * B.toInt)))),
       (.mulh y d a b, BitVec.ofInt 64 (A.toInt * B.toInt / 2 ^ 64)),
       (.mulhn y d a b, BitVec.ofNat 64 (A.toNat * B.toNat / 2 ^ 64)),
       (.div y d a b, if B = 0 then -1 else BitVec.ofInt 64 (A.toInt.tdiv B.toInt)),
       (.divn y d a b, if B = 0 then -1 else BitVec.ofNat 64 (A.toNat / B.toNat)),
       (.rem y d a b, if B = 0 then A else BitVec.ofInt 64 (A.toInt - B.toInt * A.toInt.tdiv B.toInt)),
       (.remn y d a b, if B = 0 then A else BitVec.ofNat 64 (A.toNat - B.toNat * (A.toNat / B.toNat))),
       (.min y d a b, if A.toInt ≤ B.toInt then A else B), (.max y d a b, if A.toInt ≤ B.toInt then B else A),
       (.minn y d a b, if A.toNat ≤ B.toNat then A else B), (.maxn y d a b, if A.toNat ≤ B.toNat then B else A)] →
     s.clear (s.plain y i) = true →
     (s.busyS [a, b] = false → s.busyD [d] = false →
       exec i s = .next ((s.writeS d v).issued (s.plain y i) (s.myFlow.pc + 4))) ∧
     (s.busyS [a, b] = true ∨ s.busyD [d] = true → exec i s = .next s.heldOff)) ∧
  (∀ (s : State) (y : Ring) (d a : Fin 32) (m : BitVec 12) (n : Fin 64) (l : BitVec 17) (h : BitVec 16) (i : Instr) (r : List (Fin 32))
     (v : W64),
     let A := s.readS a
     let high := fun (x : W64) (h : BitVec 16) => BitVec.ofNat 64 (x.toNat % 2 ^ 48 * 2 ^ 16 + h.toNat)
     let z : Ring := ⟨false, false, false, false⟩
     decode .ctl 0x05500040 none = .ok (.li z 8 0x40) ∧ decode .ctl 0x05900000 none = .ok (.lih z 8 0) ∧
     decode .ctl 0x05900FF0 none = .ok (.lih z 8 0xFF0) ∧ high 0x40 0 = 0x400000 ∧ high 0x400000 0xFF0 = 0x4000000FF0 ∧
     (∀ c : W64, high (high (high (((c >>> 48).setWidth 17).signExtend 64) ((c >>> 32).setWidth 16)) ((c >>> 16).setWidth 16)) (c.setWidth 16) = c) ∧
     ((i, r, v) ∈ [
       (Instr.clz y d a, [a], BitVec.ofNat 64 (if A = 0 then 64 else 63 - Nat.log2 A.toNat)),
       (.popc y d a, [a], BitVec.ofNat 64 ((List.range 64).countP fun j => A.getLsbD j)),
       (.addi y d a m, [a], A + m.signExtend 64),
       (.andi y d a m, [a], A &&& m.setWidth 64), (.ori y d a m, [a], A ||| m.setWidth 64),
       (.xori y d a m, [a], A ^^^ m.setWidth 64),
       (.shli y d a n, [a], BitVec.ofNat 64 (A.toNat * 2 ^ n.val)), (.shri y d a n, [a], BitVec.ofNat 64 (A.toNat / 2 ^ n.val)),
       (.srai y d a n, [a], BitVec.ofInt 64 (A.toInt / 2 ^ n.val)),
       (.li y d l, [], l.signExtend 64),
       (.lih y d h, [d], high (s.readS d) h)] →
     s.clear (s.plain y i) = true →
     (s.busyS r = false → s.busyD [d] = false → exec i s = .next ((s.writeS d v).issued (s.plain y i) (s.myFlow.pc + 4))) ∧
     (s.busyS r = true ∨ s.busyD [d] = true → exec i s = .next s.heldOff)))

/-- R162 and R163: cmp, cmpi and pset write the predicate pD. Codes 5 to 7 of pset are an illegal encoding; p0 reads 1, so that pset of p0 and p0
sets pD with `and` and clears it with `xor`. -/
def Obligations.PredicateResults : Prop :=
  ∀ (s : State) (y : Ring) (p q r : Fin 8) (a b : Fin 32) (m : BitVec 10),
    let A := s.readS a
    (∀ (B : W64) (c : Cond) (v : Bool),
      (c, v) ∈ [(Cond.eq, decide (A = B)), (.ne, decide (A ≠ B)), (.lt, decide (A.toInt < B.toInt)), (.le, decide (A.toInt ≤ B.toInt)),
        (.gt, decide (B.toInt < A.toInt)), (.ge, decide (B.toInt ≤ A.toInt)), (.lo, decide (A.toNat < B.toNat)),
        (.ls, decide (A.toNat ≤ B.toNat)), (.hi, decide (B.toNat < A.toNat)), (.hs, decide (B.toNat ≤ A.toNat))] →
      s.busyP [p] = false →
      (B = s.readS b → s.clear (s.plain y (.cmp y p a b c)) = true → s.busyS [a, b] = false →
        exec (.cmp y p a b c) s = .next ((s.writeP p v).issued (s.plain y (.cmp y p a b c)) (s.myFlow.pc + 4))) ∧
      (B = m.signExtend 64 → s.clear (s.plain y (.cmpi y p c a m)) = true → s.busyS [a] = false →
        exec (.cmpi y p c a m) s = .next ((s.writeP p v).issued (s.plain y (.cmpi y p c a m)) (s.myFlow.pc + 4)))) ∧
    (∀ (o : PsetOp) (v : Bool),
      (o, v) ∈ [(PsetOp.and, s.readP q && s.readP r), (.or, s.readP q || s.readP r), (.xor, s.readP q ^^ s.readP r),
        (.andn, s.readP q && !s.readP r), (.orn, s.readP q || !s.readP r)] →
      s.clear (s.plain y (.pset y p q r o)) = true → s.busyP [p, q, r] = false →
      exec (.pset y p q r o) s = .next ((s.writeP p v).issued (s.plain y (.pset y p q r o)) (s.myFlow.pc + 4))) ∧
    [PsetOp.and, .or, .xor, .andn, .orn].map PsetOp.code = [0, 1, 2, 3, 4] ∧
    (∀ c : Nat, 5 ≤ c → c ≤ 7 → decode .ctl (w6 y 0x19 (p.val * 2 ^ 19 + q.val * 2 ^ 16 + r.val * 2 ^ 13 + c * 2 ^ 10)) none = .bad 3) ∧
    (s.mayIssue = true → s.myFlow.due = [] → s.illegalWord 3 = s.trapHere cILLEGAL 3 0) ∧
    s.readP 0 = true ∧
    (∀ (o : PsetOp) (v : Bool), (o, v) ∈ [(PsetOp.and, true), (.xor, false)] →
      s.clear (s.plain y (.pset y p 0 0 o)) = true → s.busyP [p] = false →
      exec (.pset y p 0 0 o) s = .next ((s.writeP p v).issued (s.plain y (.pset y p 0 0 o)) (s.myFlow.pc + 4)))

/-- R164 and R165: sel chooses by a predicate, or by its inverse, p0 reading 1, so that it always takes sA with p0 and sB with !p0; ext takes a field out, ins puts one in and keeps the other bits (the word's field
w is the width less 1); a field past bit 63 is an illegal encoding. -/
def Obligations.SelectAndFields : Prop :=
  ∀ (s : State) (y : Ring) (d a b : Fin 32) (p : Fin 8) (n : Bool) (j w : Fin 64),
    (s.clear (s.plain y (.sel y d a b p n)) = true → s.busyS [a, b] = false → s.busyD [d] = false → s.busyP [p] = false →
      exec (.sel y d a b p n) s =
        .next ((s.writeS d (if s.readP p ^^ n then s.readS a else s.readS b)).issued (s.plain y (.sel y d a b p n)) (s.myFlow.pc + 4))) ∧
    (j.val + w.val < 64 → s.clear (s.plain y (.ext y d a j w)) = true → s.busyS [a] = false → s.busyD [d] = false →
      ∃ v : W64, (∀ k < 64, v.getLsbD k = (decide (k ≤ w.val) && (s.readS a).getLsbD (j.val + k))) ∧
        exec (.ext y d a j w) s = .next ((s.writeS d v).issued (s.plain y (.ext y d a j w)) (s.myFlow.pc + 4))) ∧
    (j.val + w.val < 64 → s.clear (s.plain y (.ins y d a j w)) = true → s.busyS [d, a] = false → s.busyD [d] = false →
      ∃ v : W64, (∀ k < 64, v.getLsbD k =
          if j.val ≤ k ∧ k ≤ j.val + w.val then (s.readS a).getLsbD (k - j.val) else (s.readS d).getLsbD k) ∧
        exec (.ins y d a j w) s = .next ((s.writeS d v).issued (s.plain y (.ins y d a j w)) (s.myFlow.pc + 4))) ∧
    (64 ≤ j.val + w.val → ∀ v ∈ encode .ctl (.ext y d a j w) ++ encode .ctl (.ins y d a j w), decode .ctl v none = .bad 3) ∧
    s.readP 0 = true ∧
    (s.clear (s.plain y (.sel y d a b 0 n)) = true → s.busyS [a, b] = false → s.busyD [d] = false →
      exec (.sel y d a b 0 n) s =
        .next ((s.writeS d (if n then s.readS b else s.readS a)).issued (s.plain y (.sel y d a b 0 n)) (s.myFlow.pc + 4)))

/-- R111 and R145: a write to sN shows in every register that maps to its cell or global register, and in no other; s0 and a register
that maps to no cell read 0 and discard the write. -/
def Obligations.RegisterWrites : Prop :=
  ∀ (k : Core) (x : Fin 4) (n m : Fin 32) (v : W64),
    (k.writeS x n v).readS x m = (if k.destOf x n ≠ .none ∧ k.destOf x m = k.destOf x n then v else k.readS x m) ∧
    k.destOf x 0 = .none ∧ (k.destOf x n = .none → k.readS x n = 0 ∧ k.writeS x n v = k) ∧
    (∀ c : Fin 4, c ≠ x → ∀ r : Fin 32, r.val < 8 → (k.writeS x n v).readS c r = k.readS c r)

/-! ## Flow of every stream -/

/-- R146 to R155: the words of the common control group that do not branch, in whatever stream runs them. `budget` loads the entry of the
wait-budget table and the issue of any word clears the stall counter; `mwait` goes on once its marks are complete; `gen` counts modulo
65,536 unless a command 32,767 generations old has not started; `seg` opens a segment where none closes with a difference and no token cause
waits. R147, R149 and R150: `br` on a predicate or on a branch outcome, `lb` and `lx`, each both ways; an `lb` of EX adds the rotation of
the loop level to the row base (R234). R15, R158 and R194: the queues from CTL. `send` and `bqp` append where there is room; `recv` takes
the oldest value into an address register of LD or ST, or a broadcast register of EX. -/
def Obligations.StreamFlow : Prop :=
  (∀ (s : State) (y : Ring) (b c : Fin 4) (o : BitVec 20) (l : Fin 8) (n : BitVec 19) (e : Fin 8) (m : Waits) (k : BitVec 16) (crc : W32),
     (s.clear (s.plain y (.nop y)) = true → exec (.nop y) s = .next (s.issued (s.plain y (.nop y)) (s.myFlow.pc + 4))) ∧
     (∀ (i : Instr) (f : Flow → Flow),
       (i, f) ∈ [
         (Instr.pbr y b o, fun f => { f with bt := f.bt.put b (f.pc + BitVec.ofInt 32 (4 * o.toInt)) }),
         (.loop y c l, fun f => { f with lc := f.lc.put c (BitVec.ofNat 32 (s.levelExtent l.val)), bound := f.bound.put c (some l) }),
         (.loopI y c n, fun f => { f with lc := f.lc.put c (n.setWidth 32), bound := f.bound.put c none }),
         (.budget y e, fun f => { f with budget := s.budgetEntry e })] →
       s.clear (s.plain y i) = true →
       exec i s = .next ((s.modMyFlow f).issued (s.plain y i) (s.myFlow.pc + 4))) ∧
     (s.clear (s.plain y (.mwait y m)) = true → (∀ j ∈ [m.w1, m.w2, m.w3], ∀ i ∈ j, s.me.markDone i = true) →
       exec (.mwait y m) s = .next (s.issued (s.plain y (.mwait y m)) (s.myFlow.pc + 4))) ∧
     (s.clear (s.plain y (.gen y)) = true →
       (∀ d ∈ s.allCmds s.cur.core, d.started = true ∨ (s.me.cr.genno - d.gen).toNat ≠ 32767) →
       exec (.gen y) s = .next ((s.modMe fun k => k.modCr fun r => { r with genno := r.genno + 1 }).issued (s.plain y (.gen y))
         (s.myFlow.pc + 4))) ∧
     (let w : WordInfo := { s.plain y (.seg y k crc) with quiet := true }
      s.clear w = true → s.myFlow.seg.mismatch = false → s.me.tokCause s.cur.q = none →
       exec (.seg y k crc) s = .next ((s.modMyFlow fun f => { f with seg := ⟨true, k, crc, 0, 0xFFFFFFFF⟩ }).issued w (s.myFlow.pc + 8)))) ∧
  (∀ (s : State) (y : Ring) (b c : Fin 4) (n : Bool) (p : Fin 8) (o : BitVec 20) (o' : BitVec 15),
     (s.clear (s.plain y (.br y b n (.p p))) = true → s.busyP [p] = false →
       exec (.br y b n (.p p)) s = .next (s.issued (s.plain y (.br y b n (.p p)))
         (if s.readP p != n then s.myFlow.bt.at b else s.myFlow.pc + 4))) ∧
     (∀ (v : Bool) (r : List Bool), s.clear (s.plain y (.br y b n .bq)) = true → s.me.outcomes.at (queueOf s.cur.q) = v :: r →
       exec (.br y b n .bq) s = .next ((s.modMe fun k => ({ k with outcomes := k.outcomes.put (queueOf s.cur.q) r } : Core).takeOutcome
         s.cur.q (r.length + 1)).issued (s.plain y (.br y b n .bq)) (if v != n then s.myFlow.bt.at b else s.myFlow.pc + 4))) ∧
     (s.clear (s.plain y (.lb y c o)) = true →
       let t := if s.cur.q = .ex then s.modMe fun k => k.modEx fun e => { e with zbase := e.zbase + Fin.ofNat 16 (s.rotation c) } else s
       let v := s.myFlow.lc.at c
       exec (.lb y c o) s = .next ((t.modMyFlow fun f => { f with lc := f.lc.put c (if v.toNat ≤ 1 then 0 else v - 1) }).issued
         (s.plain y (.lb y c o)) (if v.toNat ≤ 1 then s.myFlow.pc + 4 else s.myFlow.pc + BitVec.ofInt 32 (4 * o.toInt)))) ∧
     (s.clear (s.plain y (.lx y c n p o')) = true → s.busyP [p] = false →
       exec (.lx y c n p o') s = .next (
         if s.readP p != n then (s.modMyFlow fun f => { f with lc := f.lc.put c 0 }).issued (s.plain y (.lx y c n p o'))
           (s.myFlow.pc + BitVec.ofInt 32 (4 * o'.toInt))
         else s.issued (s.plain y (.lx y c n p o')) (s.myFlow.pc + 4)))) ∧
  (∀ (s : State) (y : Ring) (g : Target) (a : Fin 32) (n : Bool) (p : Fin 8) (d : Fin 16),
     let j : Fin 3 := match g with | .ld => 0 | .ex => 1 | .st => 2
     (s.clear (s.plain y (.send y g a)) = true → (s.me.values.at j).length < 16 → s.busyS [a] = false →
       exec (.send y g a) s = .next ((s.modMe fun k => k.sendValue j (s.readS a)).issued
         (s.plain y (.send y g a)) (s.myFlow.pc + 4))) ∧
     (s.clear (s.plain y (.bqp y g n p)) = true → (s.me.outcomes.at j).length < 32 → s.busyP [p] = false →
       exec (.bqp y g n p) s = .next ((s.modMe fun k => k.sendOutcome j (s.readP p != n)).issued
         (s.plain y (.bqp y g n p)) (s.myFlow.pc + 4))) ∧
     (∀ (k : Core) (v : W64) (b : Bool),
       (k.sendValue j v).values = k.values.put j (k.values.at j ++ [v]) ∧ (k.sendValue j v).outcomes = k.outcomes ∧
       (k.sendOutcome j b).outcomes = k.outcomes.put j (k.outcomes.at j ++ [b]) ∧ (k.sendOutcome j b).values = k.values) ∧
     (∀ (v : W64) (r : List W64), s.clear (s.plain y (.recv y d)) = true → s.me.values.at (queueOf s.cur.q) = v :: r →
       let t := s.modMe fun k => ({ k with values := k.values.put (queueOf s.cur.q) r } : Core).takeValue s.cur.q (r.length + 1)
       exec (.recv y d) s = .next (
         (if s.cur.q = .ex then t.modMe fun k => k.modEx fun e => { e with b := e.b.put (Fin.ofNat 8 d.val) v } else t.writeA d v).issued
           (s.plain y (.recv y d)) (s.myFlow.pc + 4))))

/-- R146, R25 and R155: a word `halt` outside tails and the handler halts its stream, whose PC stays at it, once nothing is awaited; in c0
of CTL it joins first, and the frames of ended tails are freed (R116). R154 and R208: a `phase` outside c0 of CTL is a `nop`; the last of
the four words to arrive issues all four and the phase commits; a word that arrives earlier is held by the counter of its WB bit. -/
def Obligations.HaltAndPhase : Prop :=
  (∀ (s : State) (y : Ring),
     let w : WordInfo := { s.plain y (.halt y) with noTail := true, noHandler := true, quiet := true }
     let u := if s.cur.q = .ctl ∧ s.cur.x = 0 then s.modMe Core.freeTails else s
     s.clear w = true → (s.cur.q = .ctl ∧ s.cur.x = 0 → s.me.tailsLive = false ∧ s.me.tailsBusy = false) → s.resPending = false →
     s.me.tokCause s.cur.q = none → s.myFlow.seg.mismatch = false →
     ∃ t : State, exec (.halt y) s = .next t ∧ t.myFlow.halted = true ∧ t.myFlow.pc = s.myFlow.pc ∧ t.myFlow.seg.isOpen = false ∧
       t.mayIssue = false ∧
       t = ((u.modMyFlow fun f => { f with halted := true, seg := { f.seg with isOpen := false } }).issued w (s.myFlow.pc + 4)).modMyFlow
         fun f => { f with pc := s.myFlow.pc }) ∧
  (∀ (s : State) (y : Ring),
     let t := s.modMyFlow fun f => { f with atPhase := some y }
     let all := phaseUnits.all fun q => match (t.me.flow q 0).atPhase with | none => false | some z => (t.me.postWait q z).isNone
     s.clear (s.plain y (.phase y)) = true →
     (s.cur.q = .ctl ∧ (s.cur.x ≠ 0 ∨ s.me.isTail s.cur.x = true ∨ s.me.mode = .handler) →
       exec (.phase y) s = .next (s.issued (s.plain y (.phase y)) (s.myFlow.pc + 4))) ∧
     (¬ (s.cur.q = .ctl ∧ (s.cur.x ≠ 0 ∨ s.me.isTail s.cur.x = true ∨ s.me.mode = .handler)) →
       (all = true → exec (.phase y) s = .next (t.phaseAll s.cur.core)) ∧
       (all = false → exec (.phase y) s = .next (t.stallCycle s.cur.core s.cur.q s.cur.x (ringWb s.cur.q).val))))

/-! ## Calls, frames, tails -/

/-- R166, R167 and R169: `pbrr` sets a branch target with its low bits 0; `call` leaves the link that the next `enter` takes and goes to the
branch target; `ret` goes to the return PC of the running frame and frees it, joining first outside the handler (R116, R120). R168, R111 and
R112: `enter` after a call makes a frame below the allocation point, each of its cells 0 or a value that some cell of the file has held in
this tile run, and takes the link; anywhere else it raises BAD_FRAME (R113), and where no room can be made SPILL_OVERFLOW. That it waits
where a cell to be spilled awaits a result is the model's choice (notes/assumptions/53.md). -/
def Obligations.CallsAndFrames : Prop :=
  (∀ (s : State) (y : Ring) (b : Fin 4) (a : Fin 32), s.cur.q = .ctl →
     (s.clear (s.plain y (.pbrr y b a)) = true → s.busyS [a] = false →
       exec (.pbrr y b a) s = .next ((s.modMyFlow fun f => { f with bt := f.bt.put b ((s.readS a).setWidth 32 &&& 0xFFFFFFFC) }).issued
         (s.plain y (.pbrr y b a)) (s.myFlow.pc + 4))) ∧
     (let w : WordInfo := { s.plain y (.call y b) with noTail := true }
      s.clear w = true → s.resPending = false →
       exec (.call y b) s = .next ((s.modMyCtx fun c => { c with link := some ⟨c.flow.pc + 4, (s.me.frameOf s.cur.x).map (·.base),
         false⟩ }).issued w (s.myFlow.bt.at b))) ∧
     (∀ f : Frame, s.clear (s.plain y (.ret y)) = true → s.me.frameOf s.cur.x = some f → f.caller.isSome = true →
       s.me.isTail s.cur.x = false → s.resPending = false →
       (s.me.mode ≠ .handler ∧ s.cur.x = 0 → s.me.tailsLive = false ∧ s.me.tailsBusy = false) →
       let k := if s.me.mode ≠ .handler ∧ s.cur.x = 0 then s.modMe Core.freeTails else s
       exec (.ret y) s = .next ((k.modMe Core.popFrame).issued (s.plain y (.ret y)) f.retPc))) ∧
  (∀ (s : State) (y : Ring) (n : FrameSize),
     let w : WordInfo := { s.plain y (.enter y n) with isEnter := true }
     let size := match n with | .f8 => 8 | .f12 => 12 | .f16 => 16 | .f20 => 20 | .f24 => 24
     s.clear w = true →
     (s.myCtx.link = none → exec (.enter y n) s = .next (s.trapHere 0x03 2 0)) ∧
     (∀ l, s.myCtx.link = some l →
       (Core.makeRoom 512 s.me size = none → exec (.enter y n) s = .next (s.trapHere 0x04 0 0)) ∧
       (∀ k, Core.makeRoom 512 s.me size = some k →
         (s.me.spillAwaits k = true → exec (.enter y n) s = .next s.heldOff) ∧
         (s.me.spillAwaits k = false → ∃ t : State, exec (.enter y n) s = .next (t.issued w (s.myFlow.pc + 4)) ∧
           t.myCtx.link = none ∧
           t.me.frames = ⟨k.allocPoint - Fin.ofNat 512 size, size, l.retPc, l.base, s.cur.x, false, none, l.handler⟩ :: k.frames ∧
           (∀ j, j < size → t.me.cells.at (k.allocPoint - Fin.ofNat 512 size + Fin.ofNat 512 j) ∈ 0 :: k.cells.toList ++ k.aux.past)))))

/-- R170 to R172, R114 and R115: `relc` starts a tail in the lowest free context, or degrades where none is free, once the callee's accesses are performed (R104);
`tjoin` joins; `tend` ends a
tail or gives back what a degraded `relc` kept. -/
def Obligations.Tails : Prop :=
  ∀ (s : State) (y : Ring), s.cur.q = .ctl →
    (∀ f : Frame,
      let w : WordInfo := { s.plain y (.relc y) with noTail := true, noHandler := true }
      s.clear w = true → s.me.frameOf s.cur.x = some f → f.caller.isSome = true → s.resPending = false → s.globPending = false →
      s.accessesOut = false →
      (∀ x : Fin 4, [1, 2, 3].find? (fun x => !(s.me.ctx.at x).live) = some x →
        ∃ t : State, exec (.relc y) s = .next (t.issued w f.retPc) ∧ (t.me.ctx.at x).live = true ∧ (t.me.ctx.at x).mode = .tail ∧
          (t.me.ctx.at x).s = s.myCtx.s ∧ (t.me.ctx.at x).flow.pc = s.myFlow.pc + 4 ∧ (t.me.ctx.at x).flow.p = s.myFlow.p ∧
          (t.me.ctx.at x).flow.budget = s.myFlow.budget ∧ t.me.frames = s.me.frames.map fun g => if g = f then { g with owner := x } else g) ∧
      (s.me.freeCtx = none →
        exec (.relc y) s = .next ((s.modMyCtx fun c => { c with mode := .degraded ⟨c.s, c.flow.p, c.flow.bt, c.flow.lc, c.flow.bound⟩ }).issued
          w (s.myFlow.pc + 4)))) ∧
    (s.clear (s.plain y (.tjoin y)) = true → (s.cur.x = 0 → s.me.tailsLive = false ∧ s.me.tailsBusy = false) →
      exec (.tjoin y) s = .next ((if s.cur.x = 0 then s.modMe Core.freeTails else s).issued (s.plain y (.tjoin y)) (s.myFlow.pc + 4))) ∧
    (s.clear (s.plain y (.tend y)) = true → s.me.isTail s.cur.x = true → s.resPending = false →
      (s.myCtx.mode = .tail →
        exec (.tend y) s = .next (((s.modMe fun k =>
          { k with frames := k.frames.map (fun g => if some g = s.me.frameOf s.cur.x then { g with ended := true } else g) }).modMyCtx Ctx.ended).issued (s.plain y (.tend y))
          (s.myFlow.pc + 4))) ∧
      (∀ (d : Degraded) (f : Frame), s.myCtx.mode = .degraded d → s.globPending = false → s.me.frameOf s.cur.x = some f →
        ∃ t : State, exec (.tend y) s = .next (t.issued (s.plain y (.tend y)) f.retPc) ∧ t.myCtx.mode = .no ∧ t.myCtx.s = d.s ∧
          t.myFlow.p = d.p ∧ t.myFlow.bt = d.bt ∧ t.myFlow.lc = d.lc ∧ t.me.frames = s.me.frames.filter fun g => some g != some f))

/-! ## Traps -/

/-- R120 step 4 and R121: a trap of a core that runs with a handler enters handler mode: c0's globals, predicates and call link are saved,
trap.cause, trap.pc, trap.info and trap.resume are written, and c0 stands at trap.vec as after a call. In handler mode, or with trap.vec
0, the tile run ends with the trap as its report (notes/assumptions/21.md). Memory and every other core stay as they are. -/
def Obligations.TrapEntry : Prop :=
  ∀ (s : State) (c : CoreId) (t : Trap), (s.core c).xlatOutstanding t = false →
    let k := s.core c
    let u := (s.takeTrap c t).core c
    (k.mode ≠ .handler → k.cr.trapVec ≠ 0 →
      u.mode = .handler ∧ u.cr.trapCause = t.cause ∧ u.cr.trapPc = t.pc &&& 0xFFFFFFFC ∧ u.cr.trapInfo = t.info ∧
      u.cr.trapResume = t.resume &&& 0xFFFFFFFC ∧ (u.ctx.at 0).flow.pc = k.cr.trapVec ∧
      (∃ h, u.hand = some h ∧ h.s = (k.ctx.at 0).s ∧ h.p = (k.ctx.at 0).flow.p ∧ h.link = (k.ctx.at 0).link ∧ h.q = t.q ∧ h.x = t.x) ∧
      (∃ l, (u.ctx.at 0).link = some l ∧ l.retPc = (k.ctx.at 0).flow.pc ∧ l.handler = true)) ∧
    (k.mode = .handler ∨ k.cr.trapVec = 0 → u.mode = .ended ∧ u.aux.fault = some t) ∧
    (s.takeTrap c t).mem = s.mem ∧ ∀ d, d ≠ c → (s.takeTrap c t).core d = s.core d

/-- R113, R114, R119 and R173: `trap` and `brk` complete and then trap with the next word's PC to resume at; BAD_FRAME and ILLEGAL_IN_TAIL are
taken before the word, which is resumed at. -/
def Obligations.TrapsOfWords : Prop :=
  ∀ (s : State) (y : Ring) (n : BitVec 8), s.cur.q = .ctl →
    let pc := s.myFlow.pc
    (∀ (i : Instr) (cause : BitVec 8), (i, cause) ∈ [(Instr.trap y n, (0x06 : BitVec 8)), (.brk y n, 0x07)] → s.clear (s.plain y i) = true →
      exec i s = .next ((s.issued (s.plain y i) (pc + 4)).takeTrap s.cur.core
        ⟨cause, .ctl, s.cur.x, pc, pc + 4, BitVec.ofNat 64 (n.toNat * 2 ^ 16 + s.cur.x.val)⟩)) ∧
    (∀ (i : Instr) (d : Nat), s.clear (s.plain y i) = true →
      (i = .ret y ∧ d = 3 ∧ (∀ f, s.me.frameOf s.cur.x = some f → f.caller = none)) ∨ (i = .tend y ∧ d = 4 ∧ s.me.isTail s.cur.x = false) ∨
        (i = .rett y ∧ d = 5 ∧ s.me.mode ≠ .handler) →
      exec i s = .next (s.takeTrap s.cur.core ⟨0x03, .ctl, s.cur.x, pc, pc, BitVec.ofNat 64 (d * 2 ^ 4 + s.cur.x.val)⟩)) ∧
    (∀ b : Fin 4, s.mayIssue = true → s.myFlow.due = [] → s.me.isTail s.cur.x = true →
      exec (.call y b) s = .next (s.takeTrap s.cur.core ⟨0x02, .ctl, s.cur.x, pc, pc, BitVec.ofNat 64 s.cur.x.val⟩))

/-- R120 and R175: `rett` in the handler's entry frame ends handler mode: c0 has its saved globals, predicates and link again, the stream
that trapped stands at trap.resume, c0 otherwise at its own return PC, and every stall counter is 0. -/
def Obligations.ReturnFromTrap : Prop :=
  ∀ (s : State) (y : Ring) (h : Handler) (f : Frame),
    s.clear (s.plain y (.rett y)) = true → s.me.hand = some h → s.me.frameOf 0 = some f → f.entry = true → s.me.mode = .handler →
    s.cur.x = 0 →
    ∃ t : State, exec (.rett y) s = .next t ∧ t.me.mode = .running ∧ t.me.hand = none ∧ (t.me.ctx.at 0).s = h.s ∧
      (t.me.ctx.at 0).flow.p = h.p ∧ (t.me.ctx.at 0).link = h.link ∧ (t.me.flow h.q h.x).pc = s.me.cr.trapResume ∧
      (¬ (h.q = .ctl ∧ h.x = 0) → (t.me.ctx.at 0).flow.pc = f.retPc) ∧ (∀ q x, (t.me.flow q x).stall = 0) ∧ t.mem = s.mem

/-- R117 and R118: a stalled cycle records its wait; where the stall counters do not pause it counts, and at the budget raises STALL_BUDGET
precisely at the held word. R117: the wait code of each blocking wait of CTL and of the common group. R12 and R13: at its issue a word of
CTL takes one from each counter it waits on and adds one to each it posts to; no other counter changes. -/
def Obligations.WaitsAndRings : Prop :=
  (∀ (s : State) (c : CoreId) (q : Seq) (x : Fin 4) (code : Nat),
     let t := s.modCore c fun k => k.modFlow q x fun f => { f with wait := some code }
     let f := (s.core c).flow q x
     (t.paused c q x = true → s.stallCycle c q x code = t) ∧
     (t.paused c q x = false →
       let u := t.modCore c fun k => k.modFlow q x fun f => { f with stall := f.stall + 1 }
       (f.stall + 1 < f.budget.toNat → s.stallCycle c q x code = u) ∧
       (f.budget.toNat ≤ f.stall + 1 → ∃ info, s.stallCycle c q x code = u.takeTrap c ⟨0x05, q, x, f.pc, f.pc, info⟩))) ∧
  (∀ (s : State) (y : Ring) (i : Instr) (code : Nat), s.clear (s.plain y i) = true →
     (∃ d, i = .recv y d ∧ s.me.values.at (queueOf s.cur.q) = [] ∧ code = 0x20) ∨
     (∃ b n, i = .br y b n .bq ∧ s.me.outcomes.at (queueOf s.cur.q) = [] ∧ code = 0x21) ∨
     (∃ g a, i = .send y g a ∧ 16 ≤ (s.me.values.at (targetQueue g)).length ∧ code = 0x22 + (targetQueue g).val) ∨
     (∃ g n p, i = .bqp y g n p ∧ 32 ≤ (s.me.outcomes.at (targetQueue g)).length ∧ code = 0x25 + (targetQueue g).val) ∨
     (i = .wfe y ∧ s.myCtx.latch = false ∧ code = 0x28) ∨
     (i = .tjoin y ∧ s.cur.q = .ctl ∧ s.cur.x = 0 ∧ s.me.tailsLive = true ∧ code = 0x2B) ∨
     (∃ m j, i = .mwait y ⟨some m, none, none⟩ ∧ s.me.markDone m = false ∧ j = m.val ∧ code = 0x40 + j) →
     exec i s = .next (s.stallCycle s.cur.core s.cur.q s.cur.x code)) ∧
  (∀ (s : State) (w : WordInfo) (pc : W32) (n : Fin 8), s.cur.q = .ctl → s.myFlow.posted = false → w.memory = false →
     ((s.issued w pc).me.rings.at n) =
       (if n = 3 ∧ w.y.wb ∨ n = 4 ∧ w.y.wa then s.me.rings.at n - 1
        else if n = 7 ∧ w.y.sb ∨ n = 0 ∧ w.y.sa then s.me.rings.at n + 1 else s.me.rings.at n))

/-! ## Control registers -/

/-- R176, R122, R62: `mfc` writes a control register's value to sD. R176, R5, R6: `mtc` writes a control register: the writable ones take
their bits, the flags of `fpflags` and `tok.pend` are cleared by writing 1, read-only ones ignore it; no general register, predicate or byte
of memory changes. -/
def Obligations.ControlRegisters : Prop :=
  (∀ (s : State) (y : Ring) (d : Fin 32) (c : CReg) (v : W64),
     let r := s.me.cr
     (c, v) ∈ [(CReg.fpmode, r.fpmode.setWidth 64), (.fpflags, r.fpflags.setWidth 64), (.ooxCount, r.ooxCount.setWidth 64),
       (.ooxTrap, if r.ooxTrap then 1 else 0), (.staleCount, r.staleCount.setWidth 64), (.trapCause, r.trapCause.setWidth 64),
       (.trapPc, r.trapPc.setWidth 64), (.trapInfo, r.trapInfo), (.trapVec, r.trapVec.setWidth 64), (.trapResume, r.trapResume.setWidth 64),
       (.ctxid, BitVec.ofNat 64 s.cur.x.val), (.coreid, BitVec.ofNat 64 s.cur.core.val), (.genno, r.genno.setWidth 64),
       (.marks, r.marks.setWidth 64), (.spillSize, BitVec.ofNat 64 s.me.aux.spill), (.raceMode, if r.raceMode then 1 else 0),
       (.pinBase, r.pinBase.setWidth 64), (.asid, r.asid.setWidth 64), (.xlatFva, r.xlatFva), (.tokPend, r.tokPend.setWidth 64),
       (.l2Err, r.l2Err.setWidth 64), (.fabErr, r.fabErr.setWidth 64), (.spillBase, s.readCr .spillBase), (.fabDie, s.readCr .fabDie)] →
     s.clear (s.plain y (.mfc y d c)) = true → s.busyD [d] = false →
     exec (.mfc y d c) s = .next ((s.writeS d v).issued (s.plain y (.mfc y d c)) (s.myFlow.pc + 4))) ∧
  (∀ (s : State) (y : Ring) (a : Fin 32) (c : CReg) (r : Cregs),
     let v := s.readS a
     let o := s.me.cr
     (c, r) ∈ [(CReg.fpmode, { o with fpmode := v.setWidth 2 }), (.fpflags, { o with fpflags := o.fpflags &&& ~~~(v.setWidth 7) }),
       (.ooxCount, { o with ooxCount := v.setWidth 32 }), (.ooxTrap, { o with ooxTrap := v.getLsbD 0 }),
       (.staleCount, { o with staleCount := v.setWidth 32 }), (.trapVec, { o with trapVec := v.setWidth 32 &&& 0xFFFFFFFC }),
       (.trapResume, { o with trapResume := v.setWidth 32 &&& 0xFFFFFFFC }), (.raceMode, { o with raceMode := v.getLsbD 0 }),
       (.tokPend, { o with tokPend := o.tokPend &&& ~~~(v.setWidth 2) }), (.l2Err, { o with l2Err := v.setWidth 32 }),
       (.fabErr, { o with fabErr := v.setWidth 32 }), (.trapCause, o), (.trapPc, o), (.trapInfo, o), (.ctxid, o), (.coreid, o),
       (.genno, o), (.marks, o), (.spillBase, o), (.spillSize, o), (.pinBase, o), (.asid, o), (.xlatFva, o), (.fabDie, o)] →
     s.cur.q = .ctl → s.clear (s.plain y (.mtc y a c)) = true → s.busyS [a] = false →
     ∃ t : State, exec (.mtc y a c) s = .next t ∧ t.me.cr = r ∧ t.myFlow.pc = s.myFlow.pc + 4 ∧ t.mem = s.mem ∧ t.myFlow.p = s.myFlow.p ∧
       (∀ n, t.readS n = s.readS n) ∧ t.me.k = s.me.k ∧ t.me.hand = s.me.hand ∧ ∀ d, d ≠ s.cur.core → t.core d = s.core d)

/-! ## Translation and tokens -/

/-- R180, R181 and R41: `xlat` and `xlat.r` with a legal extent, a target in reach and a free pin entry act with their ring field once and
hold their context; a bad extent raises XLAT_PERMISSION, a target out of reach PARTITION_RANGE, a full pin table TOO_FRAGMENTED, each at the
word, with the base in xlat.fva. R132 and R134: the walk of a context's `xlat` in its own package's memory that finds every page, with no
revocation over it and a free pin entry, ends with the token in its register, naming the entry taken and its new generation, and the context
goes on. -/
def Obligations.Xlat : Prop :=
  (∀ (s : State) (y : Ring) (t : Fin 16) (a b c : Fin 32) (r w : Bool) (i : Instr) (far : Option (Fin 64)) (regs : List (Fin 32)),
     (i, far, regs) ∈ [(Instr.xlat y t a b r w, none, [a, b]), (.xlatR y t a b r w c, some (Fin.ofNat 64 (s.readS c).toNat), [a, b, c])] →
     let info : WordInfo := { s.plain y i with isXlat := true }
     let base := (s.readS a).toNat
     let len := (s.readS b).toNat
     let die := if far = some (s.hub.fab.dieAddr (dieOf s.cur.core)) then none else far
     let legal := base < 2 ^ 57 ∧ 1 ≤ len ∧ len ≤ 2 ^ 30 ∧ base + len ≤ 2 ^ 57
     let reach := ∀ d, die = some d → s.hub.fab.exists? d = true ∧ ∃ p, s.partOf s.cur.core = some p ∧ s.fabReach p d = true
     s.cur.q = .ctl → s.clear info = true → s.busyS regs = false →
     (legal → reach → (s.freePin s.me.cr.pinBase).isSome = true →
       ∃ u : State, exec i s = .next u ∧ u.myFlow.pc = s.myFlow.pc ∧ u.myFlow.posted = true ∧ u.myFlow.stall = 0 ∧
         u.myCtx.xl = some ⟨t, base, len, r, w, die, s.myFlow.pc, none, none, false, s.wordsOf i, false⟩ ∧ u.mem = s.mem ∧ u.me.k = s.me.k) ∧
     (¬ legal → exec i s = .next ((s.setFva s.cur.core base).trapHere 0x10 0 0)) ∧
     (legal → ¬ reach → exec i s = .next ((s.setFva s.cur.core base).trapHere 0x12 0 0)) ∧
     (legal → reach → s.freePin s.me.cr.pinBase = none → exec i s = .next ((s.setFva s.cur.core base).trapHere 0x13 0 0))) ∧
  (∀ (s u : State) (c : CoreId) (x : Fin 4) (p : PendXlat) (part : Fin 16) (runs : List Run) (ls : List Leaf) (i : Nat),
     ((s.core c).ctx.at x).xl = some p → s.partOf c = some part → p.req = none → p.refused = false → p.die = none →
     s.walkExtent (tuOf c) ⟨part, (s.core c).cr.asid, p.w, false, p.bypass.toList⟩ p.base p.len = (.ok runs ls, u) →
     u.revoked (s.core c).cr.asid p.base p.len = false → (u.core c).aux.trap = none → (u.core c).cr.pinBase = (s.core c).cr.pinBase →
     u.freePin (s.core c).cr.pinBase = some i → i < 1024 →
     ∃ t : State, exec (.xlatWalkComplete c x) s = .next t ∧ ((t.core c).ctx.at x).xl = none ∧ ((t.core c).ctx.at x).flow.pc = p.pc + 4 ∧
       ∃ (g : Nat) (watch : Bool), (t.core c).k.at p.t = mkToken p.len 0 false p.r p.w watch g i ∧ (t.core c).binds.at p.t = none)

/-- R182 to R185: `xrel` frees the entry of a token that names it, at once where it is FROZEN (R143), otherwise once the context's own accesses
of it are performed, and nothing of a token that does not; `xinfo` reads a field of a token or
its entry, or writes a token register (code 7); `bind` and `unbind` set and clear a binding. -/
def Obligations.TokenWords : Prop :=
  ∀ (s : State) (y : Ring) (t k : Fin 16) (d x v : Fin 32) (m : Fin 8),
    (s.clear (s.plain y (.xrel y t)) = true →
      (s.currentTok s.me.cr.pinBase (s.me.k.at t) = false →
        exec (.xrel y t) s = .next (s.issued (s.plain y (.xrel y t)) (s.myFlow.pc + 4))) ∧
      (s.currentTok s.me.cr.pinBase (s.me.k.at t) = true →
        s.frozenTok s.me (s.me.k.at t) = true ∨ (∀ l ∈ s.myCtx.openLoads, tokIndex l.tok ≠ tokIndex (s.me.k.at t)) ∧
          (∀ l ∈ s.myCtx.openStores, tokIndex l.tok ≠ tokIndex (s.me.k.at t)) →
        ∃ u : State, exec (.xrel y t) s = .next (u.issued (s.plain y (.xrel y t)) (s.myFlow.pc + 4)) ∧
          u.mem = (s.setPinState s.me.cr.pinBase (tokIndex (s.me.k.at t)) 0).mem ∧ u.me.k = s.me.k ∧
          (∀ n, tokIndex (s.me.k.at n) = tokIndex (s.me.k.at t) → u.me.binds.at n = none) ∧
          (∀ c p, p ∈ (u.tus.at c).pins → ¬ (p.base = s.me.cr.pinBase ∧ p.index.toNat = tokIndex (s.me.k.at t))))) ∧
    (s.clear (s.plain y (.xinfo y d t m)) = true →
      (m ≠ 7 → s.busyD [d] = false → exec (.xinfo y d t m) s = .next ((s.writeS d (s.info (s.me.k.at t) m.val)).issued (s.plain y (.xinfo y d t m))
        (s.myFlow.pc + 4))) ∧
      (m = 7 → s.busyS [d] = false → exec (.xinfo y d t m) s = .next ((s.writeK t (s.readS d)).issued (s.plain y (.xinfo y d t m)) (s.myFlow.pc + 4)))) ∧
    (s.info (s.me.k.at t) 1 = BitVec.ofNat 64 (tokLen (s.me.k.at t)) ∧ s.info (s.me.k.at t) 6 = s.me.k.at t) ∧
    (s.clear (s.plain y (.bind y t k x v)) = true → s.busyS [x] = false →
      let o := (s.readS x).toNat + 8 * v.val
      let b : Binding := ⟨BitVec.ofNat 10 (tokIndex (s.me.k.at t)), s.me.k.at k, BitVec.ofNat 64 (o - o % 8)⟩
      exec (.bind y t k x v) s = .next ((s.modMe fun c => { c with binds := c.binds.put t (some b) }).issued
        (s.plain y (.bind y t k x v)) (s.myFlow.pc + 4))) ∧
    (s.clear (s.plain y (.unbind y t)) = true →
      exec (.unbind y t) s = .next ((s.modMe fun c => { c with binds := c.binds.put t none }).issued (s.plain y (.unbind y t))
        (s.myFlow.pc + 4)))

/-! ## Scalar accesses and synchronisation -/

/-- R186 to R188: `lds`, `amo` and `cas` issue with their operands read and their offset formed (an atomic's aligned to its size; a sum past
2^64 lies past every extent, R197, and is kept so), and await their data, an earlier load of the same register writing it no more; `sts`
likewise. At most eight loads and sixteen stores of a context are outstanding. No byte of memory changes yet. R187 and R99: a step performs
of a load or atomic of a context what it has left, or one part of it, and with the last its data comes back to the place its word named,
extended as its size says; a store of a context is accepted likewise. An access that must wait for an earlier one to overlapping bytes
changes nothing (R92 to R94). -/
def Obligations.ScalarAccesses : Prop :=
  (∀ (s : State) (y : Ring) (d : Fin 32) (k : Fin 16) (x v b n : Fin 32) (z : Size) (o : AmoOp) (c : Scope),
     let size := match z with | .n8 | .i8 => 1 | .n16 | .i16 => 2 | .n32 | .i32 => 4 | .n64 => 8
     let signed := match z with | .i8 | .i16 | .i32 => true | _ => false
     let off := (s.readS x).toNat + v.val * size
     let u : State := { s with nextUid := s.nextUid + 1 }
     let load := fun (j : Instr) (off : Nat) (op : LoadOp) (len : W32) =>
       exec j s = .next (((u.modMe fun k => k.supersede (s.me.destOf s.cur.x d)).modMyCtx fun e => { e with loads := e.loads ++
         [⟨s.nextUid, s.myFlow.pc, s.me.destOf s.cur.x d, s.me.k.at k, off, size, op, false⟩] }).issued (s.plain y j) (s.myFlow.pc + len))
     (s.myCtx.openLoads.length < 8 →
       (s.clear (s.plain y (.lds y d k x z v)) = true → s.busyS [x] = false → s.busyD [d] = false → load (.lds y d k x z v) off (.load signed) 4) ∧
       (s.clear (s.plain y (.amo y d k x z v b o c)) = true → s.busyS [x, b] = false → s.busyD [d] = false →
         load (.amo y d k x z v b o c) (off - off % size) (.amo o (s.readS b) c) 8) ∧
       (s.clear (s.plain y (.cas y d k x z v b n c)) = true → s.busyS [x, b, n] = false → s.busyD [d] = false →
         load (.cas y d k x z v b n c) (off - off % size) (.cas (s.readS b) (s.readS n) c) 8)) ∧
     (s.myCtx.openStores.length < 16 → s.clear (s.plain y (.sts y d k x z v)) = true → s.busyS [d, x] = false →
       exec (.sts y d k x z v) s = .next ((u.modMyCtx fun e => { e with stores := e.stores ++
         [⟨s.nextUid, s.myFlow.pc, s.me.k.at k, off, size, s.readS d, false⟩] }).issued (s.plain y (.sts y d k x z v)) (s.myFlow.pc + 4)))) ∧
  (∀ (s : State) (c : CoreId) (x : Fin 4) (k : Nat) (n : Option Nat),
     (∀ (l : CtlLoad) (b : List Byte), ((s.core c).ctx.at x).loads[k]? = some l →
       s.mustWait c x l.uid l.gone l.tok l.off l.size l.op.writes = false →
       let g := s.loadAccess ⟨c, .ctl, x⟩ l n
       (g.data = none → exec (.ldsDataReturn c x ⟨k, n⟩) s = .next g.s) ∧
       (g.data = some b →
         exec (.ldsDataReturn c x ⟨k, n⟩) s = .next ((((g.s.modCore c fun k => (k.modCtx x fun d =>
           { d with loads := d.loads.filter fun m => m.uid != l.uid }).writeDest l.dest (extend l.op.signed l.size (natOfBytes b))).dropReqs
           (dieOf c) l.uid).chargeCtl c x l.pc l.gone g.acct)))) ∧
     (∀ l : CtlStore, ((s.core c).ctx.at x).stores[k]? = some l → s.mustWait c x l.uid l.gone l.tok l.off l.size true = false →
       let g := s.tokWrite ⟨c, .ctl, x⟩ l.uid 0 l.tok ((offs l.off l.size).zip (bytesOfNat l.size l.data.toNat)) (some l.pc) .cr
         (How.by n (if l.off % l.size = 0 then .whole else .bytes))
       (g.data = none → exec (.stsAccepted c x ⟨k, n⟩) s = .next g.s) ∧
       (g.data.isSome = true →
         exec (.stsAccepted c x ⟨k, n⟩) s = .next ((g.s.modCore c fun k => k.modCtx x fun d =>
           { d with stores := d.stores.filter fun m => m.uid != l.uid }).chargeCtl c x l.pc l.gone g.acct))) ∧
     (∀ l : CtlLoad, ((s.core c).ctx.at x).loads[k]? = some l → s.mustWait c x l.uid l.gone l.tok l.off l.size l.op.writes = true →
       exec (.ldsDataReturn c x ⟨k, n⟩) s = .next s) ∧
     (∀ l : CtlStore, ((s.core c).ctx.at x).stores[k]? = some l → s.mustWait c x l.uid l.gone l.tok l.off l.size true = true →
       exec (.stsAccepted c x ⟨k, n⟩) s = .next s))

/-- R43 and R136: of an access performed whole, bytes written through a local token whose entry is resident stand at the places its runs give
their offsets, a byte at or past the extent is dropped, and every other byte of memory reads as before, where no update line waits to be
merged (R105), no divided atomic is under way (R189) and the detector is off; bytes read through it are those of memory, 0 past the
extent, and a token that does not name its entry reads 0 and writes nothing. -/
def Obligations.TokenAccess : Prop :=
  ∀ (s u : State) (w : Who) (uid pb : Nat) (tok : W64) (rd wr : Bool) (offs : List Nat) (kv : List (Nat × Byte)) (word : Option W32) (sc : Scope),
    s.mem.wf = true → (∀ c l, l ∈ (s.core c).l1 → l.isUpdate = false) → tokWatch tok = false → (s.core w.core).access uid pb = none →
    (u.core w.core).access uid pb = none → u.hub.halves = [] →
    (∀ lost, s.pin w.core tok rd wr = (.stale lost, u) →
      (s.tokRead w uid pb tok offs rd wr).data = some (offs.map fun _ => 0) ∧ (s.tokRead w uid pb tok offs rd wr).s = u) ∧
    (∀ lost, s.pin w.core tok false true = (.stale lost, u) → (s.tokWrite w uid pb tok kv word sc).s = u) ∧
    (∀ len runs, s.pin w.core tok rd wr = (.near len runs, u) → u.mem = s.mem → u.cores = s.cores →
      (s.tokRead w uid pb tok offs rd wr).data = some (offs.map fun o =>
        if o < min len (tokLen tok) then (match locate runs o with | some p => s.mem.get p.1 | none => 0) else 0) ∧
      (s.tokRead w uid pb tok offs rd wr).s.mem = s.mem) ∧
    (∀ len runs, s.pin w.core tok false true = (.near len runs, u) → u.mem = s.mem → u.cores = s.cores →
      let places := kv.filterMap fun e => if e.1 < min len (tokLen tok) then (locate runs e.1).map fun p => (p.1, e.2) else none
      let t := (s.tokWrite w uid pb tok kv word sc).s
      (∀ a, a ∉ places.map (·.1) → t.mem.get a = s.mem.get a) ∧
      ((places.map (·.1)).Nodup → ∀ p ∈ places, t.mem.get p.1 = p.2))

/-- R190, R191, R27, R96, R98: a fence whose work is done goes on, `fence`, `fence.rel` and `fence.all` after advancing the interval numbers
(R107); `fence.all` fixes the work it waits for at its first turn as the next word, before its ring waits; `acq` and `rel` whose access is
made go on, `rel` having added 1 to its doubleword under the bindings that it saw at first. No token cause waits. -/
def Obligations.FencesAndReleases : Prop :=
  ∀ (s : State) (y : Ring) (c : Scope) (k : Fin 16) (x v : Fin 32),
    let m := s.mergeFor c
    (∀ i, i = .fence y c ∨ i = .fenceRel y c → s.clear (s.plain y i) = true → m.released c = true → m.nextInterval.me.tokCause m.nextInterval.cur.q = none →
      exec i s = .next (m.nextInterval.issued (s.plain y i) (s.myFlow.pc + 4))) ∧
    (s.clear (s.plain y (.fenceAcq y c)) = true → s.myCtx.openLoads = [] → s.me.tokCause s.cur.q = none →
      exec (.fenceAcq y c) s = .next (s.issued (s.plain y (.fenceAcq y c)) (s.myFlow.pc + 4))) ∧
    (let i := s.plain y (.fenceAll y)
     let f := s.fixWork i
     let m' := f.mergeFor .sy
     let t := (m'.modMyCtx fun e => { e with fix := none }).nextInterval
     (f.clear i = true → m'.releasedBefore (f.myCtx.fix.getD f.nextUid) = true → m'.finishedBefore (f.myCtx.fix.getD f.nextUid) = true → t.me.tokCause t.cur.q = none →
       exec (.fenceAll y) s = .next (t.issued i (f.myFlow.pc + 4))) ∧
     (∀ code, s.mayIssue = true → s.myFlow.due = [] → s.barred i = false → s.enterDue i = false → s.ringHold i = some code →
       s.myCtx.fix = none → f = s.modMyCtx (fun e => { e with fix := some s.nextUid }) ∧
         exec (.fenceAll y) s = .next (f.stallCycle s.cur.core s.cur.q s.cur.x code))) ∧
    (let who : Who := ⟨s.cur.core, s.cur.q, s.cur.x⟩
     let o := (s.readS x).toNat + 8 * v.val
     let off := o - o % 8
     s.myCtx.acc = none → s.busyS [x] = false →
     (let u : State := { s with nextUid := s.nextUid + 1 }
      let g := u.tokRead who s.nextUid 0 (s.me.k.at k) (offs off 8) true false (some c)
      let t := ((g.s.dropReqs (dieOf s.cur.core) s.nextUid).modMyCtx fun e => { e with acc := none }).charge who u.myFlow.pc g.acct
      s.clear (s.plain y (.acq y c k x v)) = true → s.mustWait s.cur.core s.cur.x s.nextUid false (s.me.k.at k) off 8 false = false →
      g.data.isSome = true → g.acct.poison = none → t.me.tokCause t.cur.q = none →
      exec (.acq y c k x v) s = .next (t.issued (s.plain y (.acq y c k x v)) (s.myFlow.pc + 4))) ∧
     (let ties := s.myCtx.ties.getD (s.me.tiesTo (s.me.k.at k) off)
      let r := s.modMyCtx fun e => { e with ties := some ties }
      let u : State := { r with nextUid := s.nextUid + 1 }
      let g := u.tokAtomic who s.nextUid 0 (s.me.k.at k) off 8 true true c 2 0 (operandBytes 8 [1]) fun old => some ((old + 1) % 2 ^ 64)
      let t := ((((g.s.dropReqs (dieOf s.cur.core) s.nextUid).modMyCtx fun e => { e with acc := none }).charge who u.myFlow.pc
        g.acct).modMyCtx fun e => { e with ties := none }).nextInterval
      s.clear (s.plain y (.rel y c k x v)) = true → s.mergeCore s.cur.core = s → r.boundDone ties = true →
      r.mustWait s.cur.core s.cur.x s.nextUid false (s.me.k.at k) off 8 true = false →
      g.data.isSome = true → g.acct.poison = none → t.me.tokCause t.cur.q = none →
      exec (.rel y c k x v) s = .next (t.issued (s.plain y (.rel y c k x v)) (s.myFlow.pc + 4))))

/-- R192 and R193: `wadr` goes on with the value once it differs from sD and keeps watching while it does not; `WADR_WAKE` has it read again;
`wfe` takes its latch; `sev` sets the latch of every live context of its partition in its scope. -/
def Obligations.WaitingAndEvents : Prop :=
  ∀ (s : State) (y : Ring) (d x v : Fin 32) (k : Fin 16) (z : Size) (c : Scope) (b : List Byte),
    (let n := sizeBytes z
     let o := (s.readS x).toNat + v.val * n
     let who : Who := ⟨s.cur.core, s.cur.q, s.cur.x⟩
     let u : State := { s with nextUid := s.nextUid + 1 }
     let g := u.tokRead who s.nextUid 0 (s.me.k.at k) (offs (o - o % n) n) true false
     s.clear (s.plain y (.wadr y d k x z v)) = true → s.busyS [d, x] = false → s.myCtx.wadr = none →
     u.mustWait s.cur.core s.cur.x u.nextUid false (s.me.k.at k) (o - o % n) n false = false → g.data = some b → g.acct = Acct.none →
     g.s.cur = s.cur →
     (natOfBytes b ≠ (s.readS d).toNat % 2 ^ (8 * n) →
       ∃ t : State, exec (.wadr y d k x z v) s = .next t ∧ t.myCtx.wadr = none ∧ t.myFlow.pc = s.myFlow.pc + 4) ∧
     (natOfBytes b = (s.readS d).toNat % 2 ^ (8 * n) →
       ∃ t : State, exec (.wadr y d k x z v) s = .next (t.stallCycle s.cur.core s.cur.q s.cur.x 0x29) ∧
         t.myCtx.wadr = some ⟨s.nextUid, s.me.k.at k, o - o % n, true, false⟩)) ∧
    (∀ (e : CoreId) (f : Fin 4), exec (.wadrWake e f) s = .next (s.modCore e fun k => k.modCtx f fun d =>
      { d with wadr := d.wadr.map fun w => { w with awake := true } })) ∧
    (s.clear (s.plain y (.wfe y)) = true → s.myCtx.latch = true →
      exec (.wfe y) s = .next ((s.modMyCtx fun e => { e with latch := false }).issued (s.plain y (.wfe y)) (s.myFlow.pc + 4))) ∧
    (s.clear (s.plain y (.sev y c)) = true → s.myCtx.openStores = [] → (∀ l ∈ s.myCtx.openLoads, l.op.writes = false) →
      s.remoteOut (fun _ => true) = false →
      exec (.sev y c) s = .next ((s.setLatches s.cur.core c).issued (s.plain y (.sev y c)) (s.myFlow.pc + 4)))

/-- R195, R196 and R174: `win` closes a window, makes it dead, or opens it on a core of its partition with its allowance; `ecall` leaves its
record with the core once everything earlier has finished. -/
def Obligations.WindowsAndEcall : Prop :=
  ∀ (s : State) (y : Ring) (w : Fin 16) (a : Fin 32) (n : BitVec 12) (e : BitVec 8),
    (s.clear (s.plain y (.win y w a n)) = true → s.busyS [a] = false → (∀ p ∈ s.me.aux.posted, p.win ≠ w) →
      exec (.win y w a n) s = .next ((s.modMe fun k => { (k.replaced (.win w (k.wins.at w))) with
        wins := k.wins.put w (s.winOf (s.readS a) n) }).issued (s.plain y (.win y w a n)) (s.myFlow.pc + 4))) ∧
    s.winOf (s.readS a) 0 = .closed ∧
    (∀ co : Nat, co = (s.readS a).toNat % 64 → 47 < co → n ≠ 0 → s.winOf (s.readS a) n = .dead) ∧
    (let m := s.mergeFor .sy
     s.clear (s.plain y (.ecall y e)) = true → m.released .sy = true → m.me.aux.ecall = none → m.busyS [1, 2, 3, 4] = false →
     (m.me.aux.run = none → exec (.ecall y e) s = .next (m.issued (s.plain y (.ecall y e)) (s.myFlow.pc + 4))) ∧
     (∀ r, m.me.aux.run = some r →
       let part := match m.queue r.queue with | some q => q.1.part.val | none => 0
       let f := (runRec m.cur.core r part 2 0 m.cur.x.val m.myFlow.pc.toNat e.toNat).w
       let g : Rec := ⟨(((f.put 4 (m.readS 1)).put 5 (m.readS 2)).put 6 (m.readS 3)).put 7 (m.readS 4)⟩
       exec (.ecall y e) s = .next ((m.modMe fun k => k.modAux fun b => { b with ecall := some g }).issued (s.plain y (.ecall y e))
         (s.myFlow.pc + 4))))

/-! ## Engine commands -/

/-- R20 and R21: a command enters the end of its queue unstarted, with its produced mark pending, its waits and the core's generation, and
changes nothing else of the marks; it finds room while its mark is complete and its queue is not full (R206, R283, R312). R282 to R292, R312
to R319: each command word of CTL or ST whose mark is complete and whose engine has room enters its engine's queue with its operands as read
at issue, and the sequencer goes on past its two words. R292 and R314: `wq.push`, `wq.pop`, `wq.peek` and `famo` enter their engine's queue
and await their results: the registers and the predicate that the results will write. -/
def Obligations.EngineCommands : Prop :=
  (∀ (s : State) (y : Ring) (m : Fin 32) (w : Waits) (body : CmdBody), s.me.synced s.cur.q = true →
     let t := (s.enqueue y m w body).2
     let d : Cmd := s.newCmd s.nextUid (some m) w s.me.wins body
     (t.me.markDone m = false ∧ ∀ n, n ≠ m → t.me.markDone n = s.me.markDone n) ∧ t.mem = s.mem ∧ d.gen = s.me.cr.genno ∧
     (body.engine = 8 → (t.dies.at (dieOf s.cur.core)).fabQ = (s.dies.at (dieOf s.cur.core)).fabQ ++ [d] ∧ t.me.cmds = s.me.cmds) ∧
     (body.engine ≠ 8 → t.me.cmds = s.me.cmds ++ [d] ∧ t.dies = s.dies) ∧
     (∀ e, s.me.markDone m = true →
       (if e = 8 then (s.dies.at (dieOf s.cur.core)).fabQ.length < 32 else (s.engineCmds s.cur.core e).length < if e = 7 then 8 else 16) →
       s.commandWait e m = none)) ∧
  (∀ (s : State) (y : Ring) (d x : Fin 32) (k t : Fin 16) (m : Fin 32) (w : Waits) (o : BkOp) (ty u : Ty) (f : Bool) (g : Fin 64) (i : Instr)
     (engine : Nat) (r : List (Fin 32)) (b : CmdBody) (v : State),
     (i, engine, r, v, b) ∈ [
       (Instr.bk y d k x m w o ty f, 6, [d, d + 1, x], (s.seenK y k).2,
         CmdBody.bank o ty f (s.seenK y k).1 ((s.seenK y k).2.regOf x) ((s.seenK y k).2.regOf d) ((s.seenK y k).2.regOf (d + 1))),
       (.bkred y d k x m w ty u, 6, [d, d + 1, x], (s.seenK y k).2,
         .reduce ty u (s.seenK y k).1 ((s.seenK y k).2.regOf x) ((s.seenK y k).2.regOf d) ((s.seenK y k).2.regOf (d + 1))),
       (.xall y d k x m w t g, 8, [d, d + 1, x], s, .xall (s.me.k.at k) (s.readS x) (s.me.k.at t) (s.readS d) (s.readS (d + 1)) g),
       (.fred y d k x m w ty u, 8, [d, d + 1, x], s, .fred ty u (s.me.k.at k) (s.readS x) (s.readS d) (Fin.ofNat 64 (s.readS (d + 1)).toNat)),
       (.fput y d k x m w, 8, [d, d + 1, x], s, .fput (s.me.k.at k) (s.readS x) (s.readS d) (s.readS (d + 1))),
       (.fget y d k x m w, 8, [d, d + 1, x], s, .fget (s.me.k.at k) (s.readS x) (s.readS d) (s.readS (d + 1))),
       (.fbar y m w g, 8, [], s, .fbar g)] →
     s.clear (s.plain y i) = true → s.commandWait engine m = none → (s.isSt = true ∨ s.busyS r = false) → (engine = 8 → s.isSt = false) →
     s.hub.power.gated = false →
     exec i s = .next (((v.enqueue y m w b).2).issued (s.plain y i) (s.myFlow.pc + 8))) ∧
  (∀ (s : State) (y : Ring) (d x : Fin 32) (k : Fin 16) (m : Fin 32) (w : Waits) (p : Fin 8) (q : Fin 64) (o : FamoOp) (c : Scope) (z : Bool)
     (i : Instr) (engine : Nat) (r rd : List (Fin 32)) (b : CmdBody) (d1 d2 : Dest) (pr : Option (Fin 8)),
     (i, engine, r, rd, b, d1, d2, pr) ∈ [
       (Instr.wqPush y d m w p q, 7, [d, d + 1], [], CmdBody.push q (s.regOf d) (s.regOf (d + 1)), Dest.none, Dest.none, some p),
       (.wqPop y d m w p q, 7, [], [d, d + 1], .pop q, s.me.destOf s.cur.x d, s.me.destOf s.cur.x (d + 1), some p),
       (.wqPeek y d m w p q, 7, [], [d, d + 1], .peek q, s.me.destOf s.cur.x d, s.me.destOf s.cur.x (d + 1), some p),
       (.famo y d k x m w o c z, 8, [d, d + 1, x], [], .famo o c z (s.me.k.at k) (s.readS x) (s.readS d) (s.readS (d + 1)),
         s.me.destOf s.cur.x d, s.me.destOf s.cur.x (d + 1), none)] →
     s.clear (s.plain y i) = true → s.commandWait engine m = none → s.busyS r = false → s.busyD rd = false → s.busyP [p] = false →
     s.hub.power.gated = false → s.me.synced s.cur.q = true →
     exec i s = .next (((s.enqueue y m w b).2.awaitResult ⟨s.nextUid, d1, d2, pr, false⟩).issued (s.plain y i) (s.myFlow.pc + 8)))

/-! ## LD and ST -/

/-- R216: `aadd`, `aaddi` and `ali` write an address register, its sums modulo 2^64 and its immediates sign-extended; `acmp` writes a
predicate of its sequencer. -/
def Obligations.AddressGroup : Prop :=
  ∀ (s : State) (y : Ring) (d a b : Fin 16) (m : BitVec 14) (n : BitVec 18) (p : Fin 8) (c : Cond),
    (∀ (i : Instr) (v : W64), (i, v) ∈ [(Instr.aadd y d a b, s.readA a + s.readA b), (.aaddi y d a m, s.readA a + m.signExtend 64),
        (.ali y d n, n.signExtend 64)] → s.clear (s.plain y i) = true →
      exec i s = .next ((s.writeA d v).issued (s.plain y i) (s.myFlow.pc + 4))) ∧
    (s.clear (s.plain y (.acmp y p a b c)) = true → s.busyP [p] = false →
      exec (.acmp y p a b c) s = .next ((s.writeP p (condHolds c (s.readA a) (s.readA b))).issued (s.plain y (.acmp y p a b c))
        (s.myFlow.pc + 4))) ∧
    (∀ v, s.cur.q ≠ .ctl → (s.writeA d v).readA d = v ∧ ∀ e, e ≠ d → (s.writeA d v).readA e = s.readA e)

/-- R211, R212, R217 to R219, R221: the memory words of LD and ST issue with their token as seen and their offset formed modulo 2^64, an
update's aligned down to its element size. `ldq` binds a slot of its stream register; the words of ST pop the line they write. At most
sixteen are open; no byte of memory changes yet, and their posts wait for completion (R13). R220: `pf` issues whatever its token; it brings
the line at its offset into the L1 where the token's entry is found, else nothing happens; memory reads as before where no update line waits
to be merged. -/
def Obligations.MemoryWordsAndPrefetch : Prop :=
  (∀ (s : State) (y : Ring) (q k x : Fin 16) (v : Fin 1024) (c : Scope) (e : Fin 128) (o : UpdOp) (t : Ty) (f : Fin 8),
     let open' := fun (s : State) (k : Fin 16) (off : Nat) (op : LsOp) =>
       let u : State := { s with nextUid := s.nextUid + 1 }
       let r := u.seenK y k
       let p : LsPend := ⟨s.nextUid, r.2.myFlow.pc, y.sb, y.sa, r.1, off, op, false⟩
       r.2.modMe fun c => c.modLseq r.2.isSt fun l => { l with pend := l.pend ++ [p] }
     let at' := fun (n : Nat) => ((s.readA x).toNat + n) % 2 ^ 64
     (s.clear (s.memWord y (.ldq y q k x v)) = true → s.me.slotFree q = true → s.me.ld.openWords < 16 →
       exec (.ldq y q k x v) s = .next (((open' s k (at' (256 * v.val)) (.ldq q s.nextUid)).modMe fun c =>
         { c with streams := c.streams.mod q (· ++ [⟨s.nextUid, none, 0⟩]) }).issued (s.memWord y (.ldq y q k x v)) (s.myFlow.pc + 4))) ∧
     (∀ (uid se : Nat) (l : Line) (r : List StreamSlot), s.me.streams.at q = ⟨uid, some l, se⟩ :: r → s.me.st.openWords < 16 →
       let popped := s.modMe fun k => k.popStream q
       (s.clear (s.memWord y (.stq y q k x v)) = true →
         exec (.stq y q k x v) s = .next ((open' popped k (at' (256 * v.val)) (.stq l)).issued (s.memWord y (.stq y q k x v))
           (s.myFlow.pc + 4))) ∧
       (s.clear (s.memWord y (.upd y q k x o t f)) = true →
         exec (.upd y q k x o t f) s = .next ((open' popped k (at' (256 * f.val) - at' (256 * f.val) % (tyBits t / 8)) (.upd o t l)).issued
           (s.memWord y (.upd y q k x o t f)) (s.myFlow.pc + 4))) ∧
       (s.clear (s.memWord y (.strel y q k x c e)) = true → (s.mergeFor c) = s → s.stReleased c = true →
         exec (.strel y q k x c e) s = .next ((open' popped k (at' (256 * e.val)) (.strel c l)).issued (s.memWord y (.strel y q k x c e))
           (s.myFlow.pc + 4)))) ∧
     (∀ i, (i = .stq y q k x v ∨ i = .upd y q k x o t f ∨ i = .strel y q k x c e) → s.clear (s.memWord y i) = true →
       s.me.streams.at q = [] → exec i s = .next (s.stallCycle s.cur.core s.cur.q s.cur.x (0x10 + q.val))) ∧
     (s.me.synced s.cur.q = true → s.seenK y k = (s.me.k.at k, s))) ∧
  (∀ (s : State) (y : Ring) (k x : Fin 16) (v : Fin 1024), s.clear (s.plain y (.pf y k x v)) = true → s.me.synced s.cur.q = true →
     let off := ((s.readA x).toNat + 128 * v.val) % 2 ^ 64
     let on := fun (t : State) => exec (.pf y k x v) s = .next (t.issued (s.plain y (.pf y k x v)) (s.myFlow.pc + 4))
     (s.runsAt s.cur.core (s.me.k.at k) = none → on s) ∧
     (∀ runs, s.runsAt s.cur.core (s.me.k.at k) = some runs → tokLen (s.me.k.at k) ≤ off → on s) ∧
     (∀ runs key, s.runsAt s.cur.core (s.me.k.at k) = some runs → off < tokLen (s.me.k.at k) → locate runs off = some (key, true) →
       (s.me.l1Find (key / 128)).isSome = false → on (s.l1Read s.cur.core (key / 128) 15)) ∧
     (∀ line secs, (∀ c l, l ∈ (s.core c).l1 → l.isUpdate = false) → (s.l1Read s.cur.core line secs).mem = s.mem))

/-- R206, R212, R222 to R224: `ldsp` and `stsp`, `gth` and `sct` enter the queues of their engines with their operands as read at issue, and
stand among the memory words of their sequencer, so that their posts act when the command completes; one that would write through a window
where an earlier command pauses holds at its issue (R223). -/
def Obligations.CopyAndGatherWords : Prop :=
  ∀ (s : State) (y : Ring) (l k x a : Fin 16) (m : Fin 32) (w : Waits) (f : Fin 1024) (n : Bool) (g : Fin 8) (i : Instr) (engine : Nat)
    (b : CmdBody),
    (i, engine, b) ∈ [
      (Instr.ldsp y l k x a m w f, 4, CmdBody.copy false (s.seenK y k).1 ((s.seenK y k).2.readA x) ((s.seenK y k).2.readA a)
        ((s.seenK y k).2.readA l) f.val),
      (.stsp y l k x a m w f, 4, .copy true (s.seenK y k).1 ((s.seenK y k).2.readA x) ((s.seenK y k).2.readA a) ((s.seenK y k).2.readA l) f.val),
      (.gth y l k x a m w n g, 5, .gather false (s.seenK y k).1 ((s.seenK y k).2.readA x) ((s.seenK y k).2.readA a) ((s.seenK y k).2.readA l) n
        (2 ^ g.val)),
      (.sct y l k x a m w n g, 5, .gather true (s.seenK y k).1 ((s.seenK y k).2.readA x) ((s.seenK y k).2.readA a) ((s.seenK y k).2.readA l) n
        (2 ^ g.val))] →
    s.clear (s.memWord y i) = true → s.commandWait engine m = none → s.hub.power.gated = false →
    let e := (s.seenK y k).2.enqueue y m w b
    let p : LsPend := ⟨e.1, e.2.myFlow.pc, y.sb, y.sa, 0, 0, .eng e.1, false⟩
    (s.pausedOn b = true → exec i s = .next s.heldOff) ∧
    (s.pausedOn b = false →
      exec i s = .next (((e.2.modMe fun c => c.modLseq e.2.isSt fun l => { l with pend := l.pend ++ [p] }).logCopy b).issued
        (s.memWord y i) (s.myFlow.pc + 8)))

/-- R13, R92, R93, R212 to R214: a memory word of LD or ST is performed, by what it has left or by one part of it, once no earlier one to
overlapping bytes is open: at its end an `ldq` fills its slot, a `strel` begins the next interval, and its causes are charged. Completion
posts act in the order of the words: a post to a full counter is held, and posted once its counter has room. R13: a completion post that was
held is posted once its counter is below 63, and is held as long as it is not. -/
def Obligations.MemoryWordsComplete : Prop :=
  (∀ (s : State) (c : CoreId) (st : Bool) (n : Nat) (m : Option Nat) (p : LsPend),
     ((s.core c).lseq st).pend[n]? = some p → p.done = false →
     (s.lsMustWait c st p = true → exec (.ldstWordComplete c st ⟨n, m⟩) s = .next s) ∧
     (∀ b, s.lsMustWait c st p = false → (∀ u, p.op ≠ .eng u) →
       let w : Who := ⟨c, if st then .st else .ld, 0⟩
       let g := s.wordAccess w p m
       let u := match p.op with | .ldq _ _ | .strel _ _ => g.s.dropReqs (dieOf c) p.uid | _ => g.s
       (g.data = none → exec (.ldstWordComplete c st ⟨n, m⟩) s = .next g.s) ∧
       (g.data = some b →
         exec (.ldstWordComplete c st ⟨n, m⟩) s = .next ((u.modCore c fun k => (k.wordEffect p b).wordDone st p.uid).charge w p.pc g.acct))) ∧
     (∀ (k : Core) (r : List LsPend) (p : LsPend) (m : Nat), (k.lseq st).pend = p :: r →
       (p.done = false → k.drain st (m + 1) = k) ∧
       (p.done = true → p.sa = true → (k.lseq st).heldSa = true → k.drain st (m + 1) = k) ∧
       (p.done = true → p.sa = false → p.sb = false →
         k.drain st (m + 1) = (k.modLseq st fun l => { l with pend := r }).drain st m))) ∧
  (∀ (s : State) (c : CoreId) (st a : Bool),
     let k := s.core c
     let q : Seq := if st then .st else .ld
     let n := if a then ringSa q else ringSb q
     let held := if a then (k.lseq st).heldSa else (k.lseq st).heldSb
     (held = true → k.rings.at n ≠ 63 →
       let free := k.modLseq st fun l => if a then { l with heldSa := false } else { l with heldSb := false }
       exec (.heldCompletionPost c st a) s = .next (s.modCore c fun _ => (free.post q n).drain st (free.lseq st).pend.length)) ∧
     (held = false ∨ k.rings.at n = 63 → ∃ t : State, exec (.heldCompletionPost c st a) s = .next t ∧ t.core c = k ∧ t.mem = s.mem ∧
       ∀ d, d ≠ c → t.core d = s.core d))

/-- R20, R206, R208, R223, R224: an engine command that may start starts; a started copy or gather of no bytes completes at once; a step of
a copy to local space that names no part reads what is left, then writes it under what earlier commands leave open (R94); every
completion makes its mark complete and takes the command from its queue, and one that may not start, or has not started, stays. -/
def Obligations.EngineSteps : Prop :=
  ∀ (s : State) (c : CoreId) (u : Nat) (n : Option Nat) (d : Cmd),
    (((s.allCmds c).find? fun d => d.uid == u && d.body.engine != 9) = some d →
      (s.mayStart d = true → exec (.engineCommandStart c u) s = .next (s.modCmd u fun d => { d with started := true })) ∧
      (s.mayStart d = false → exec (.engineCommandStart c u) s = .next s)) ∧
    (s.coreCmd c u = some d → d.started = true → d.wins = (s.core c).wins → d.core = c →
      (∀ (b : Bool) (tok off loc shape : W64) (f : Nat), d.body = .copy b tok off loc shape f → shapeLen shape = 0 →
        exec (.copyCommandComplete c ⟨u, n⟩) s = .next (s.finishCmd d Acct.none)) ∧
      (∀ (b h : Bool) (tok off loc count : W64) (e : Nat), d.body = .gather b tok off loc count h e →
        bitsOf count.toNat 0 24 / e = 0 → exec (.gatherCommandComplete c ⟨u, n⟩) s = .next (s.finishCmd d Acct.none)) ∧
      (∀ (tok off loc shape : W64) (f : Nat) (b : List Byte), d.body = .copy false tok off loc shape f → shapeLen shape ≠ 0 →
        d.stage = 0 →
        let l := copyBytes off loc shape f
        let g := s.tokRead d.who d.uid 0 tok (l.map (·.1)) true false none (How.by none .units)
        let e : Cmd := { d.owe g.acct with stage := 1, opB := b }
        let v := g.s.modCmd d.uid fun _ => e
        (g.data = none → exec (.copyCommandComplete c ⟨u, none⟩) s = .next g.s) ∧
        (g.data = some b → v.cmdWaits d tok [] (l.map (·.2)) = false →
          let r := v.cmdLocWrite d (2 ^ 20) ((l.map (·.2)).zip ((List.range l.length).map fun j => b.getD j 0))
            ⟨none, .sectors, fun _ => true, some .any⟩
          (r.data = none → exec (.copyCommandComplete c ⟨u, none⟩) s = .next r.s) ∧
          (r.data.isSome = true → exec (.copyCommandComplete c ⟨u, none⟩) s = .next (r.s.finishCmd e r.acct))))) ∧
    (∀ (a : Acct) (m : Fin 32), d.mark = some m → d.q = .ctl → (d.acct.join a).poison = none →
      let t := s.finishCmd d a
      (t.core d.core).markDone m = true ∧ (∀ e ∈ (t.core d.core).cmds, e.uid ≠ d.uid) ∧ t.mem = s.mem)

/-! ## EX -/

/-- R243, R246, R248, R249: a floating-point word of two sources reads them at its issue, pops each stream register once, reserves a slot of
a stream register it writes, and its lanes, each rounded once in the mode seen, go in flight with their flags to land L EX cycles later. -/
def Obligations.FloatTwoSources : Prop :=
  ∀ (s : State) (y : Ring) (d a b : Opnd) (i : Instr) (lk : LaneKind) (lat : Nat) (f : Nat → Nat → Nat × BitVec 7),
    let m := (s.seenMode y).1
    (i, lk, lat, f) ∈ [
      (Instr.faddF32 y d a b, LaneKind.f32, 3, fpAdd pF32 m),
      (.faddBf16 y d a b, .bf16, 3, fpAdd pBF16 m),
      (.fsubF32 y d a b, .f32, 3, fpSub pF32 m),
      (.fsubBf16 y d a b, .bf16, 3, fpSub pBF16 m),
      (.fmulF32 y d a b, .f32, 4, fpMul pF32 m),
      (.fmulBf16 y d a b, .bf16, 4, fpMul pBF16 m),
      (.fmaxF32 y d a b, .f32, 3, fpMinMax pF32 true),
      (.fmaxBf16 y d a b, .bf16, 3, fpMinMax pBF16 true),
      (.fminF32 y d a b, .f32, 3, fpMinMax pF32 false),
      (.fminBf16 y d a b, .bf16, 3, fpMinMax pBF16 false)] →
    s.clear (s.plain y i) = true → s.me.streamWait (Opnd.sources [a, b]) (Place.opnd d).stream = none →
    let r := ((s.lanes a lk).zip (s.lanes b lk)).map fun e => f e.1 e.2
    exec i s = .next (((s.seenMode y).2.exSend [a, b] (.opnd d) lat (lineFrom lk.width (r.map (·.1))) (r.foldl (fun acc e => acc ||| e.2) 0)
      (BitVec.allOnes 64)).issued (s.plain y i) (s.myFlow.pc + 4))

/-- R243, R244, R254: the integer lane words, sums, differences and products modulo 2^w, shifts 0 from a count of w on, saturating forms,
signed or unsigned minima and maxima, the bitwise words: no flag, L = 1. R254: an arithmetic right shift gives floor of the signed lane over
2^c, all sign bits from a count of w on; `isra` writes it. -/
def Obligations.IntegerTwoSources : Prop :=
  (∀ (s : State) (y : Ring) (d a b : Opnd) (i : Instr) (w : Nat) (f : Int → Int → Int) (signed : Bool),
     let wide := fun (g : Nat → Nat → Nat) (x z : Int) => (g x.toNat z.toNat : Int)
     let sat := fun (lo hi v : Int) => min hi (max lo v)
     (i, w, signed, f) ∈ [
       (Instr.iaddI32 y d a b, 32, false, fun x z => (x + z) % 2 ^ 32),
       (.isubI32 y d a b, 32, false, fun x z => (x - z) % 2 ^ 32),
       (.imulI32 y d a b, 32, false, fun x z => x * z % 2 ^ 32),
       (.iaddI32S y d a b, 32, true, fun x z => sat (-2147483648) 2147483647 (x + z)),
       (.isubI32S y d a b, 32, true, fun x z => sat (-2147483648) 2147483647 (x - z)),
       (.iaddN32S y d a b, 32, false, fun x z => sat 0 4294967295 (x + z)),
       (.isubN32S y d a b, 32, false, fun x z => sat 0 4294967295 (x - z)),
       (.iminI32 y d a b, 32, true, min),
       (.imaxI32 y d a b, 32, true, max),
       (.iminN32 y d a b, 32, false, min),
       (.imaxN32 y d a b, 32, false, max),
       (.ishlI32 y d a b, 32, false, fun x z => if 32 ≤ z then 0 else x * 2 ^ z.toNat % 2 ^ 32),
       (.ishrI32 y d a b, 32, false, fun x z => if 32 ≤ z then 0 else x / 2 ^ z.toNat),
       (.iaddI16 y d a b, 16, false, fun x z => (x + z) % 2 ^ 16),
       (.isubI16 y d a b, 16, false, fun x z => (x - z) % 2 ^ 16),
       (.imulI16 y d a b, 16, false, fun x z => x * z % 2 ^ 16),
       (.iaddI16S y d a b, 16, true, fun x z => sat (-32768) 32767 (x + z)),
       (.isubI16S y d a b, 16, true, fun x z => sat (-32768) 32767 (x - z)),
       (.iaddN16S y d a b, 16, false, fun x z => sat 0 65535 (x + z)),
       (.isubN16S y d a b, 16, false, fun x z => sat 0 65535 (x - z)),
       (.iminI16 y d a b, 16, true, min),
       (.imaxI16 y d a b, 16, true, max),
       (.iminN16 y d a b, 16, false, min),
       (.imaxN16 y d a b, 16, false, max),
       (.ishlI16 y d a b, 16, false, fun x z => if 16 ≤ z then 0 else x * 2 ^ z.toNat % 2 ^ 16),
       (.ishrI16 y d a b, 16, false, fun x z => if 16 ≤ z then 0 else x / 2 ^ z.toNat),
       (.iaddI8 y d a b, 8, false, fun x z => (x + z) % 2 ^ 8),
       (.isubI8 y d a b, 8, false, fun x z => (x - z) % 2 ^ 8),
       (.imulI8 y d a b, 8, false, fun x z => x * z % 2 ^ 8),
       (.iaddI8S y d a b, 8, true, fun x z => sat (-128) 127 (x + z)),
       (.isubI8S y d a b, 8, true, fun x z => sat (-128) 127 (x - z)),
       (.iaddN8S y d a b, 8, false, fun x z => sat 0 255 (x + z)),
       (.isubN8S y d a b, 8, false, fun x z => sat 0 255 (x - z)),
       (.iminI8 y d a b, 8, true, min),
       (.imaxI8 y d a b, 8, true, max),
       (.iminN8 y d a b, 8, false, min),
       (.imaxN8 y d a b, 8, false, max),
       (.ishlI8 y d a b, 8, false, fun x z => if 8 ≤ z then 0 else x * 2 ^ z.toNat % 2 ^ 8),
       (.ishrI8 y d a b, 8, false, fun x z => if 8 ≤ z then 0 else x / 2 ^ z.toNat),
       (.iand y d a b, 32, false, wide (· &&& ·)),
       (.ior y d a b, 32, false, wide (· ||| ·)),
       (.ixor y d a b, 32, false, wide (· ^^^ ·))] →
     s.clear (s.plain y i) = true → s.me.streamWait (Opnd.sources [a, b]) (Place.opnd d).stream = none →
     let val := fun (n : Nat) => if signed then toSigned w n else (n : Int)
     let r := ((s.lanes a (.int w)).zip (s.lanes b (.int w))).map fun e => (f (val e.1) (val e.2) % 2 ^ w).toNat
     exec i s = .next ((s.exSend [a, b] (.opnd d) 1 (lineFrom w r) 0 (BitVec.allOnes 64)).issued (s.plain y i) (s.myFlow.pc + 4))) ∧
  (∀ (s : State) (y : Ring) (d a b : Opnd) (i : Instr) (w : Nat),
     (i, w) ∈ [(Instr.israI32 y d a b, 32), (.israI16 y d a b, 16), (.israI8 y d a b, 8)] →
     s.clear (s.plain y i) = true → s.me.streamWait (Opnd.sources [a, b]) (Place.opnd d).stream = none →
     let g := fun (x z : Nat) => ((if w ≤ z then (if toSigned w x < 0 then -1 else 0) else toSigned w x / 2 ^ z) % 2 ^ w).toNat
     let r := ((s.lanes a (.int w)).zip (s.lanes b (.int w))).map fun e => g e.1 e.2
     exec i s = .next ((s.exSend [a, b] (.opnd d) 1 (lineFrom w r) 0 (BitVec.allOnes 64)).issued (s.plain y i) (s.myFlow.pc + 4)))

/-- R243, R248, R250, R251, R254: the words with an addend, whose destination is also a source read at issue, and the words of one source. -/
def Obligations.AddendsAndFunctions : Prop :=
  ∀ (s : State) (y : Ring) (d a b : Opnd) (o : FunaOp),
    let m := (s.seenMode y).1
    (∀ (i : Instr) (lk : LaneKind) (lat : Nat) (f : Nat → Nat → Nat → Nat × BitVec 7),
      (i, lk, lat, f) ∈ [
        (Instr.fmaF32 y d a b, LaneKind.f32, 4, fpFma pF32 m false false),
        (.fmaBf16 y d a b, .bf16, 4, fpFma pBF16 m false false),
        (.fmsF32 y d a b, .f32, 4, fpFma pF32 m false true),
        (.fmsBf16 y d a b, .bf16, 4, fpFma pBF16 m false true),
        (.fnmaF32 y d a b, .f32, 4, fpFma pF32 m true false),
        (.fnmaBf16 y d a b, .bf16, 4, fpFma pBF16 m true false),
        (.imacI32 y d a b, .int 32, 1, fun x z v => ((v + x * z) % 2 ^ 32, 0)),
        (.imacI16 y d a b, .int 16, 1, fun x z v => ((v + x * z) % 2 ^ 16, 0)),
        (.imacI8 y d a b, .int 8, 1, fun x z v => ((v + x * z) % 2 ^ 8, 0))] →
      s.clear (s.plain y i) = true → s.me.streamWait (Opnd.sources [a, b]) (Place.opnd d).stream = none →
      let r := (((s.lanes a lk).zip (s.lanes b lk)).zip (s.lanes d lk)).map fun e => f e.1.1 e.1.2 e.2
      exec i s = .next (((s.seenMode y).2.exSend [a, b] (.opnd d) lat (lineFrom lk.width (r.map (·.1))) (r.foldl (fun acc e => acc ||| e.2) 0)
        (BitVec.allOnes 64)).issued (s.plain y i) (s.myFlow.pc + 4))) ∧
    (∀ (i : Instr) (lat : Nat) (f : Nat → Nat × BitVec 7),
      (i, lat, f) ∈ [
        (Instr.funaF32 y d a o, 3, fpFuna o m),
        (.exp2F32 y d a, 8, fpExp2 m),
        (.lg2F32 y d a, 8, fpLg2 m),
        (.rcpF32 y d a, 8, fpRcp m),
        (.rsqF32 y d a, 8, fpRsq m)] →
      s.clear (s.plain y i) = true → s.me.streamWait (Opnd.sources [a]) (Place.opnd d).stream = none →
      let r := (s.lanes a .f32).map f
      exec i s = .next (((s.seenMode y).2.exSend [a] (.opnd d) lat (lineFrom 32 (r.map (·.1))) (r.foldl (fun acc e => acc ||| e.2) 0)
        (BitVec.allOnes 64)).issued (s.plain y i) (s.myFlow.pc + 4))) ∧
    (s.me.synced s.cur.q = true → s.seenMode y = (RMode.of s.me.cr.fpmode, s))

/-- R69, R71, R72, R248, R249, R251, R252: the special values of EX's arithmetic, in both formats and every mode: canonical NaNs, NV for
signalling inputs and invalid operations only, infinities, zeros and the tables of R249 and R251. -/
def Obligations.SpecialValues : Prop :=
  ∀ (p : Prec) (m : RMode) (a b d : Nat) (g h : Bool), p = pF32 ∨ p = pBF16 →
    let nv := fun (l : List FV) => if l.any (fun v => v == .nan true) then flNV else 0
    let x := fpVal p a
    let z := fpVal p b
    ((x.isNaN = true ∨ z.isNaN = true) →
      fpAdd p m a b = (fpNaN p, nv [x, z]) ∧ fpSub p m a b = (fpNaN p, nv [x, z]) ∧ fpMul p m a b = (fpNaN p, nv [x, z]) ∧
      (∀ w, fpMinMax p w a b = (fpNaN p, nv [x, z])) ∧ fpCmp p .un a b = (true, nv [x, z]) ∧ fpCmp p .ne a b = (true, nv [x, z]) ∧
      (∀ c ∈ [Cond.eq, .lt, .le, .gt, .ge], fpCmp p c a b = (false, nv [x, z]))) ∧
    ((x.isNaN = true ∨ z.isNaN = true ∨ (fpVal p d).isNaN = true) → fpFma p m g h a b d = (fpNaN p, nv [x, z, fpVal p d])) ∧
    (x.isNaN = false → z.isNaN = false → (fpCmp p .un a b).1 = false ∧ (fpCmp p .ne a b).1 = !(fpCmp p .eq a b).1 ∧
      (∀ c, (fpCmp p c a b).2 = 0) ∧ (∀ w, (fpMinMax p w a b).2 = 0 ∧ ((fpMinMax p w a b).1 = a ∨ (fpMinMax p w a b).1 = b))) ∧
    (x = .inf g → z = .inf h →
      fpAdd p m a b = (if g = h then (fpInf p g, 0) else (fpNaN p, flNV)) ∧ fpSub p m a b = (if g = h then (fpNaN p, flNV) else (fpInf p g, 0)) ∧
      fpMul p m a b = (fpInf p (g != h), 0)) ∧
    (∀ e, x = .inf g → z = .fin h 0 e → fpMul p m a b = (fpNaN p, flNV)) ∧
    (∀ e f, x = .fin g 0 e → z = .fin h 0 f →
      fpAdd p m a b = (fpZero p (if g = h then g else m == .rd), 0) ∧ fpMul p m a b = (fpZero p (g != h), 0) ∧
      fpMinMax p true a b = (if g && !h then b else a, 0) ∧ fpMinMax p false a b = (if g && !h then a else b, 0)) ∧
    (p = pF32 →
      (∀ v ∈ [fpExp2 m a, fpLg2 m a, fpRcp m a, fpRsq m a], x.isNaN = true → v = (fpNaN p, nv [x])) ∧
      (x = .inf g → fpExp2 m a = (if g then 0 else fpInf p false, 0) ∧ fpLg2 m a = (if g then (fpNaN p, flNV) else (fpInf p false, 0)) ∧
        fpRcp m a = (fpZero p g, 0) ∧ fpRsq m a = (if g then (fpNaN p, flNV) else (0, 0))) ∧
      (∀ e, x = .fin g 0 e → fpExp2 m a = (0x3F800000, 0) ∧ fpLg2 m a = (fpInf p true, flDZ) ∧ fpRcp m a = (fpInf p g, flDZ) ∧
        fpRsq m a = (fpInf p g, flDZ)) ∧
      (∀ n e, x = .fin true n e → n ≠ 0 → fpLg2 m a = (fpNaN p, flNV) ∧ fpRsq m a = (fpNaN p, flNV)))

/-- R252, R253, R256, R255: comparisons write a mask whose bit is 1 where the condition holds in every lane of those 32 bits; selections and
movements copy 32-bit lanes by the mask or index as it stands at issue; `zli` writes its sign-extended immediate. -/
def Obligations.ComparesAndMoves : Prop :=
  ∀ (s : State) (y : Ring) (d a b : Opnd) (c : Cond) (m : Fin 8) (n : Fin 64) (v : BitVec 14) (i : Instr),
    let x := fun (j : Nat) => laneOf (s.me.source a (.int 32)).toNat j 32
    let z := fun (j : Nat) => laneOf (s.me.source b (.int 32)).toNat j 32
    let lm := fun (k : Fin 8) (j : Nat) => (s.me.ex.lm.at k).getLsbD j
    let fl := fun (k : LaneKind) (o : Opnd) (j : Nat) => laneOf (s.me.source o k).toNat j 32
    (∀ (lk : LaneKind) (lat : Nat) (f : Nat → Nat → Bool × BitVec 7),
      (i, lk, lat, f) ∈ [
        (Instr.fcmpF32 y c m a b, LaneKind.f32, 3, fpCmp pF32 c), (.fcmpBf16 y c m a b, .bf16, 3, fpCmp pBF16 c),
        (.icmpI32 y c m a b, .int 32, 1, fun x z => (intCmp 32 c x z, 0)), (.icmpI16 y c m a b, .int 16, 1, fun x z => (intCmp 16 c x z, 0)),
        (.icmpI8 y c m a b, .int 8, 1, fun x z => (intCmp 8 c x z, 0))] →
      s.clear (s.plain y i) = true → s.me.streamWait (Opnd.sources [a, b]) none = none →
      let r := ((s.lanes a lk).zip (s.lanes b lk)).map fun e => f e.1 e.2
      ∃ bits : Line, exec i s = .next ((s.exSend [a, b] (.other (.mask m)) lat bits (r.foldl (fun acc e => acc ||| e.2) 0)
          (BitVec.allOnes 64)).issued (s.plain y i) (s.myFlow.pc + 4)) ∧
        ∀ j, j < 64 → (bits.getLsbD j = true ↔ ∀ k e, r[k]? = some e → k * lk.width / 32 = j → e.1 = true)) ∧
    (∀ (srcs : List Opnd) (lat : Nat) (f : Nat → Nat) (lanes : W64),
      (i, srcs, lat, f, lanes) ∈ [
        (Instr.fselF32 y d a b, [a, b], 1, fun j => if lm 0 j then fl .f32 a j else fl .f32 b j, BitVec.allOnes 64),
        (.fselBf16 y d a b, [a, b], 1, fun j => if lm 0 j then fl .bf16 a j else fl .bf16 b j, BitVec.allOnes 64),
        (.mov y d a, [a], 1, x, BitVec.allOnes 64),
        (.movMasked y d a m, [a], 1, fun j => if lm m j then x j else 0, s.me.ex.lm.at m),
        (.bcst y d a n, [a], 1, fun _ => x n.val, BitVec.allOnes 64),
        (.rot y d a n, [a], 2, fun j => x ((j + n.val) % 64), BitVec.allOnes 64),
        (.perm y d a b, [a, b], 2, fun j => x (z j % 64), BitVec.allOnes 64),
        (.zli y d v, [], 1, fun _ => (v.signExtend 32).toNat, BitVec.allOnes 64)] →
      s.clear (s.plain y i) = true → s.me.streamWait (Opnd.sources srcs) (Place.opnd d).stream = none →
      exec i s = .next ((s.exSend srcs (.opnd d) lat (lineOf32 f) 0 lanes).issued (s.plain y i) (s.myFlow.pc + 4)))

/-- R86, R87, R257 to R261: reductions and scans in their stated order, conversions, and the quantisation words, whose format entry must
name an MXINT type (else ILLEGAL_ENCODING, detail 3). -/
def Obligations.ReductionsAndConversions : Prop :=
  ∀ (s : State) (y : Ring) (d a : Opnd) (o : CvtOp) (l : Fin 7),
    let m := (s.seenMode y).1
    let send := fun (i : Instr) (t : State) (dst : Place) (lat : Nat) (r : Line × BitVec 7) =>
      s.clear (s.plain y i) = true → s.me.streamWait (Opnd.sources [a]) dst.stream = none →
      exec i s = .next ((t.exSend [a] dst lat r.1 r.2 (BitVec.allOnes 64)).issued (s.plain y i) (s.myFlow.pc + 4))
    let f := s.me.ex.fmtOf l
    send (.redF32 y d a) (s.seenMode y).2 (.opnd d) 6 (lineOf32 fun _ => (treeSum m 6 (s.lanes a .f32)).1, (treeSum m 6 (s.lanes a .f32)).2) ∧
    send (.redI32 y d a) s (.opnd d) 6 (lineOf32 fun _ => (s.lanes a (.int 32)).sum % 2 ^ 32, 0) ∧
    send (.scanF32 y d a) (s.seenMode y).2 (.opnd d) 8 (lineFrom 32 (scanSum m (s.lanes a .f32)).1, (scanSum m (s.lanes a .f32)).2) ∧
    send (.cvt y d a o) (s.seenMode y).2 (.opnd d) 3 (cvtLine o m (s.lanes a .f32) (s.lanes a .bf16) (s.lanes a (.int 32))) ∧
    (∀ w, qtWidth (fmtQT f) = some w →
      send (.qmax y l a) s (.other .sc) 4 (qmaxLine w (s.quantLanes a f)) ∧
      send (.qcvt y d a l) s (.opnd d) 3 (qcvtLine w (fun j => (s.me.ex.sc.at (Fin.ofNat 4 j)).toNat) (s.quantLanes a f)) ∧
      send (.deq y d a l) (s.seenMode y).2 (.opnd d) 3 (deqLine w (fmtQS f) m (s.me.source a (.int 32)).toNat)) ∧
    (qtWidth (fmtQT f) = none → ∀ i dst, (i = .qmax y l a ∧ dst = Place.other .sc) ∨ ((i = .qcvt y d a l ∨ i = .deq y d a l) ∧ dst = .opnd d) →
      s.clear (s.plain y i) = true → s.me.streamWait (Opnd.sources [a]) dst.stream = none → exec i s = .next (s.trapHere 0x01 3 0))

/-- R262 to R267: a `zst` reads its operand at issue and its row goes in flight toward the scratchpad; a `zld` reads the bytes of its row,
where none of its own rows is in flight and none is out of extent; masks, descriptors and the format table take their values. -/
def Obligations.RowsMasksDescriptors : Prop :=
  ∀ (s : State) (y : Ring) (d : Opnd) (n : Fin 16) (x : Fin 1024) (m k l : Fin 8) (f c : Fin 128) (o : MlogOp) (b : Fin 8),
    let e := s.me.ex
    let row := (dBase (e.dsc.at n) + x.val * dRowpitch (e.dsc.at n) + 64 * (x.val * dRot (e.dsc.at (n + 1)) % 16)) % 2 ^ 32
    let addrs := (List.range 256).map fun i => (row + i) % 2 ^ 32
    let toReg := fun (i : Instr) (r : ExDest) (v : Line) => s.clear (s.plain y i) = true →
      exec i s = .next ((s.exSend [] (.other r) 1 v 0 (BitVec.allOnes 64)).issued (s.plain y i) (s.myFlow.pc + 4))
    (s.clear (s.plain y (.zst y d n x)) = true → (∀ a ∈ addrs, (s.ownOffset s.cur.core a).isSome = true) →
      let r : InFlight := ⟨s.nextUid, e.cycle + 1 + 2, .spad ((row + 2 ^ 32 - spadBase s.cur.core) % 2 ^ 32), e.zbase, BitVec.allOnes 64, 0,
        zRead e.z d e.zbase, none⟩
      exec (.zst y d n x) s = .next ((({ s with nextUid := s.nextUid + 1 } : State).modMe fun k => k.modEx fun e =>
        { e with flight := e.flight ++ [r] }).issued (s.plain y (.zst y d n x)) (s.myFlow.pc + 4))) ∧
    (s.clear (s.plain y (.zld y d n x)) = true → s.me.streamWait [] (Place.opnd d).stream = none → e.flight = [] →
      s.ownRead s.cur.core addrs = (addrs.map fun a => match s.ownOffset s.cur.core a with
        | some p => (s.me.spadGet p).getD 0
        | none => 0, false, s) →
      exec (.zld y d n x) s = .next ((s.exSend [] (.opnd d) 6 (BitVec.ofNat 2048 (natOfBytes (addrs.map fun a =>
        match s.ownOffset s.cur.core a with
        | some p => (s.me.spadGet p).getD 0
        | none => 0))) 0 (BitVec.allOnes 64)).issued (s.plain y (.zld y d n x)) (s.myFlow.pc + 4))) ∧
    (∃ v : W64, toReg (.mset y m f c) (.mask m) (v.setWidth 2048) ∧
      (f.val + c.val ≤ 64 → ∀ j, j < 64 → (v.getLsbD j = true ↔ f.val ≤ j ∧ j < f.val + c.val))) ∧
    toReg (.mlog y o m k l) (.mask m) (BitVec.setWidth 2048 (match o with
      | .and => e.lm.at k &&& e.lm.at l
      | .or => e.lm.at k ||| e.lm.at l
      | .xor => e.lm.at k ^^^ e.lm.at l
      | .andn => e.lm.at k &&& ~~~(e.lm.at l)
      | .orn => e.lm.at k ||| ~~~(e.lm.at l)
      | .not => ~~~(e.lm.at k))) ∧
    toReg (.dset y n b) (.dsc n) ((e.b.at b).setWidth 2048) ∧
    toReg (.fmtset y n b) (.fmt n) (((e.b.at b).setWidth 15).setWidth 2048) ∧
    toReg (.fmtsetFbase y b) .fbase (((e.b.at b).setWidth 4).setWidth 2048)

/-! ## The Sett -/

/-- R17, R268: `lse` goes on for the lessee and waits, code 0x2A, having asked, for any other core; `lsr` ends the lease of the lessee only;
the Sett grants a free lease to a waiting core that the round robin reaches first, and one that is held to none. R230, R236, R269 to R271:
EX's results land at the end of their cycle, after `halt` in steps of their own; the command at the head of a Sett's queue reads its
operands once its awaited mark is complete, all that are left or one more sector of them (R103), with the last making its mark complete, and
finishes after that; `mclr` clears its tile. -/
def Obligations.LeaseAndLanding : Prop :=
  (∀ (s : State) (y : Ring) (g : Fin 64) (c : CoreId),
     let t := s.setts.at (settOf s.cur.core)
     (s.clear (s.plain y (.lse y)) = true →
       (t.lessee = some s.cur.core → exec (.lse y) s = .next (s.issued (s.plain y (.lse y)) (s.myFlow.pc + 4))) ∧
       (t.lessee ≠ some s.cur.core →
         exec (.lse y) s = .next (s.askLease.stallCycle s.cur.core s.cur.q s.cur.x 0x2A) ∧
         s.cur.core ∈ (s.askLease.setts.at (settOf s.cur.core)).waiting)) ∧
     (s.clear (s.plain y (.lsr y)) = true →
       exec (.lsr y) s = .next ((s.endLease s.cur.core).issued (s.plain y (.lsr y)) (s.myFlow.pc + 4))) ∧
     ((s.setts.at (settOf c)).lessee = some c → ((s.endLease c).setts.at (settOf c)).lessee = none ∧
       ((s.endLease c).setts.at (settOf c)).last = inGroup c ∧ ((s.endLease c).setts.at (settOf c)).queue = (s.setts.at (settOf c)).queue) ∧
     ((s.setts.at (settOf c)).lessee ≠ some c → ((s.endLease c).setts.at (settOf c)) = s.setts.at (settOf c)) ∧
     (let t := s.setts.at g
      (t.lessee = none → ∀ d, d ∈ t.waiting →
       ∃ (u : State) (e : CoreId), exec (.leaseGrant g) s = .next u ∧ e ∈ t.waiting ∧ (u.setts.at g).lessee = some e ∧
         (u.setts.at g).count = 0 ∧ (u.setts.at g).queue = t.queue ∧ e ∉ (u.setts.at g).waiting ∧
         ((inGroup e).val + 11 - t.last.val) % 12 ≤ ((inGroup d).val + 11 - t.last.val) % 12) ∧
      (t.lessee ≠ none ∨ t.waiting = [] → exec (.leaseGrant g) s = .next s))) ∧
  (∀ (s : State) (c : CoreId) (g : Fin 64) (n' : Option Nat) (d : Cmd),
     (let k := s.core c
      (k.mode = .running → k.ex.flow.halted = true → k.aux.hold = false → k.aux.trap = none → exec (.exResultLands c) s = .next (s.exTick c)) ∧
      (k.ex.flow.halted = false → exec (.exResultLands c) s = .next s) ∧
      (k.exTick.ex.cycle = k.ex.cycle + 1 ∧ (∀ f ∈ k.exTick.ex.flight, f ∈ k.ex.flight ∧ k.ex.cycle + 1 < f.land))) ∧
     (s.settHead g = some d →
       (∀ (clear : Bool) (n : Nat) (pa pa' pb pb' : W64) (ta tb : Bool) (f : W32), d.body = .mma clear n pa pa' pb pb' ta tb f →
         (d.marked = true ∨ (d.started = false ∧ (s.core d.core).waitsDone d.waits = false) → exec (.settOperandsRead ⟨g, n'⟩) s = .next s) ∧
         (d.stage ≠ 1 → exec (.settCommandFinish ⟨g, n'⟩) s = .next s) ∧
         (d.marked = false → d.started = true ∨ (s.core d.core).waitsDone d.waits = true →
           (∃ t : State, exec (.settOperandsRead ⟨g, n'⟩) s = .next t ∧ t.mem = s.mem) ∧
           ∃ t : State, exec (.settOperandsRead ⟨g, none⟩) s = .next t ∧ (∀ m, d.mark = some m → (t.core d.core).markDone m = true) ∧ t.mem = s.mem) ∧
         (d.stage = 1 → ∃ t : State, exec (.settCommandFinish ⟨g, n'⟩) s = .next t ∧ (∀ e ∈ (t.setts.at g).queue, e.uid ≠ d.uid) ∧ t.mem = s.mem ∧
           t.cores = s.cores)) ∧
       (∀ n, d.body = .mclr n →
         ∃ t : State, exec (.settCommandFinish ⟨g, n'⟩) s = .next t ∧ (∀ e ∈ (t.setts.at g).queue, e.uid ≠ d.uid) ∧ t.cores = s.cores ∧
           (t.setts.at g).cells = (s.setts.at g).cells.filter fun p =>
             !(decide (8192 * (5 * (inGroup d.core).val + n) ≤ p.1) && decide (p.1 < 8192 * (5 * (inGroup d.core).val + n) + 8192)))))

/-- R17, R20, R236, R269 to R271: a Sett command of the lessee, with its descriptors and format legal, its mark complete and the queue not
full, enters the queue, its mark pending, and is counted by the lease, which the 64th ends. R238, R241, R269 to R271: a Sett command of a
tile at or past the allotment, of a rows field out of range, or of a format that makes no product, raises ILLEGAL_ENCODING with detail 3,
whether or not the core holds the lease. -/
def Obligations.SettWords : Prop :=
  (∀ (s : State) (y : Ring) (n : Fin 64) (a b : Fin 16) (l : Fin 7) (u v : Bool) (i : Instr) (m : Option (Fin 32)) (w : Waits) (body : CmdBody),
     let e := s.me.ex
     let pa := e.dsc.at a
     let pa' := e.dsc.at (a + 1)
     let pb := e.dsc.at b
     let pb' := e.dsc.at (b + 1)
     let f := e.fmtOf l
     let t := s.setts.at (settOf s.cur.core)
     let rows := fun (p : W64) (most : Nat) => 1 ≤ dRows p ∧ dRows p ≤ most
     let legal := n.val < s.allotment ∧ (
       ((i = .mma y n a b l u v ∨ i = .mmaz y n a b l u v) ∧ rows pa' 128 ∧ rows pb' 64 ∧ (dWait pb' = true → dMark pb' ≠ dMark pa') ∧
         fmtPair f = true ∧ m = some (dMark pa') ∧ w = ⟨if dWait pb' then some (dMark pb') else none, none, none⟩ ∧
         ((i = .mma y n a b l u v ∧ body = .mma false n.val pa pa' pb pb' u v f) ∨
           (i = .mmaz y n a b l u v ∧ body = .mma true n.val pa pa' pb pb' u v f))) ∨
       (i = .mmov y n a l ∧ rows pa' 128 ∧ fmtOT f ≠ 3 ∧ (fmtOT f = 2 → (qtWidth (fmtQT f)).isSome = true) ∧ m = some (dMark pa') ∧
         w = ⟨none, none, none⟩ ∧ body = .mmov n.val pa pa' f) ∨
       (i = .mclr y n ∧ m = none ∧ w = ⟨none, none, none⟩ ∧ body = .mclr n.val))
     legal → s.clear (s.plain y i) = true → t.lessee = some s.cur.core → t.queue.length < 16 → (∀ k, m = some k → s.me.markDone k = true) →
     s.hub.power.gated = false →
     let d : Cmd := s.newCmd s.nextUid m w s.me.wins body
     ∃ r : State, exec i s = .next r ∧ r.myFlow.pc = s.myFlow.pc + 4 ∧ r.mem = s.mem ∧
       (r.setts.at (settOf s.cur.core)).queue = t.queue ++ [d] ∧ (∀ k, m = some k → r.me.markDone k = false) ∧
       (t.count < 63 → (r.setts.at (settOf s.cur.core)).count = t.count + 1 ∧ (r.setts.at (settOf s.cur.core)).lessee = some s.cur.core) ∧
       (63 ≤ t.count → (r.setts.at (settOf s.cur.core)).lessee = none)) ∧
  (∀ (s : State) (y : Ring) (n : Fin 64) (a b : Fin 16) (l : Fin 7) (u v : Bool) (i : Instr),
     let e := s.me.ex
     let pa' := e.dsc.at (a + 1)
     let pb' := e.dsc.at (b + 1)
     (s.allotment ≤ n.val ∧ (i = .mma y n a b l u v ∨ i = .mmaz y n a b l u v ∨ i = .mmov y n a l ∨ i = .mclr y n)) ∨
     ((dRows pa' < 1 ∨ 128 < dRows pa') ∧ (i = .mma y n a b l u v ∨ i = .mmaz y n a b l u v ∨ i = .mmov y n a l)) ∨
     ((dRows pb' < 1 ∨ 64 < dRows pb' ∨ (dWait pb' = true ∧ dMark pb' = dMark pa') ∨ fmtPair (e.fmtOf l) = false) ∧
       (i = .mma y n a b l u v ∨ i = .mmaz y n a b l u v)) →
     s.clear (s.plain y i) = true → exec i s = .next (s.trapHere 0x01 3 0))

/-! ## Steps of the engines -/

/-- R189, R284, R286: an element update of a bank ALU on the device's own memory combines the target with its source in one step and gives
the old bytes; every other byte reads as before, where no update line waits to be merged (R105), no divided atomic is under way, no sector
is poisoned and the detector is off. R206, R282 to R288: a started `bk` that has its sources updates its elements at their home and
completes once none is left; one of no elements completes at once; a `bkred` contributes once and completes when every part is written, here
or where its pieces have gone. -/
def Obligations.BankCommands : Prop :=
  (∀ (s : State) (ow : Owner) (w : Who) (o : BkOp) (ty : Ty) (v : Nat) (places : List (Nat × Bool)) (x : List Byte),
     let keys := places.map (·.1)
     s.mem.wf = true → (∀ c l, l ∈ (s.core c).l1 → l.isUpdate = false) → s.poison = [] → s.hub.halves = [] → keys.Nodup →
     (∀ k ∈ keys, k < 2 ^ 52) →
     let r := s.bankElement ow w false o ty v places x
     (∀ a, a ∉ keys → r.s.mem.get a = s.mem.get a) ∧
     (o ≠ .rq → r.data = some (keys.map s.mem.get) ∧
       (∀ n, bankNew o ty v (natOfBytes (keys.map s.mem.get)) (natOfBytes x) = some n →
         keys.map r.s.mem.get = bytesOfNat keys.length n) ∧
       (bankNew o ty v (natOfBytes (keys.map s.mem.get)) (natOfBytes x) = none → r.s.mem = s.mem)) ∧
     (∀ (t y : Nat), bankNew .swap ty v t y = some (y % 2 ^ tyBits ty) ∧
       bankNew .cas ty v t y = (if t % 2 ^ tyBits ty = v % 2 ^ tyBits ty then some (y % 2 ^ tyBits ty) else none) ∧
       bankNew .and ty v t y = some ((t % 2 ^ tyBits ty) &&& (y % 2 ^ tyBits ty)) ∧
       bankNew .or ty v t y = some ((t % 2 ^ tyBits ty) ||| (y % 2 ^ tyBits ty)) ∧
       bankNew .xor ty v t y = some ((t % 2 ^ tyBits ty) ^^^ (y % 2 ^ tyBits ty)))) ∧
  (∀ (s : State) (c : CoreId) (u : Nat) (k : Option Nat) (d : Cmd),
     s.coreCmd c u = some d → d.started = true → d.core = c → d.wins = (s.core c).wins →
     (∀ (o : BkOp) (ty : Ty) (fetch : Bool) (tok off src v : W64), d.body = .bank o ty fetch tok off src v →
       let e := if o = .rq then bitsOf src.toNat 32 24 / 32 * 32 else bitsOf src.toNat 32 24
       (e = 0 → exec (.bankCommandComplete c ⟨u, k⟩) s = .next (s.finishCmd d Acct.none)) ∧
       (e ≠ 0 → d.stage = 2 → fetch = false → exec (.bankCommandComplete c ⟨u, k⟩) s = .next (s.finishCmd d Acct.none)) ∧
       (∀ (len : Nat) (runs : List Run) (t : State), e ≠ 0 → fetch = false → d.stage = 1 →
         let n := recSize ty
         let at0 := off.toNat - off.toNat % n
         s.cmdWaits d tok (offs at0 (e * n)) [] = false →
         s.lookup d.core d.uid (2 ^ 20) tok (o != .rq) true = (.near len runs, t) →
         let b := if o = .rq then (if v.toNat % 2 = 0 then 4 else 2) else tyBits ty / 8
         let items := bankItems o ty v.toNat e d.opA
         let places := fun (i : Nat) => (offs (at0 + i * n) n).mapM fun q => if q < min len (tokLen tok) then locate runs q else none
         let did := fun (a : Access) (i : Nat) => a.done.any fun p => p.1 == i * (n + 1)
         let a := t.accessOf d.core d.uid (2 ^ 20) (some (.near len runs)) tok
         let todo := items.filterMap fun it => match it.2, places it.1 with
           | some x, some l => if did a it.1 then none else some (it.1, x, l)
           | _, _ => none
         let now := match k with | none => todo | some j => (todo[j % todo.length]?).toList
         let r := now.foldl (fun (r : State × Access) it =>
           let g := (r.1.keepAccess d.core r.2).bankElement (.item d.core d.uid (2 ^ 20 + it.1)) d.who (tokWatch tok) o ty v.toNat it.2.2
             it.2.1 ⟨r.2.mode, []⟩
           let a := { r.2 with mode := g.seen.mode }
           match g.data with
           | none => (g.s, a)
           | some old => (g.s, { a with acct := a.acct.join g.acct, done := a.done ++ (it.1 * (n + 1), 0) :: numbered (it.1 * (n + 1) + 1) old }))
           (t, a)
         let olds := items.map fun it =>
           if did r.2 it.1 then some ((List.range b).map fun j => r.2.byte (it.1 * (n + 1) + 1 + j)) else none
         let f := r.1.bankDone d b olds { r.2.acct with oox := r.2.acct.oox || items.any fun it => (places it.1).isNone }
         ((todo.all fun it => did r.2 it.1) = true → exec (.bankCommandComplete c ⟨u, k⟩) s = .next (f.2.finishCmd (f.1.getD d) Acct.none)) ∧
         ((todo.all fun it => did r.2 it.1) = false → exec (.bankCommandComplete c ⟨u, k⟩) s = .next (r.1.keepAccess d.core r.2)))) ∧
     (∀ (t v : Ty) (tok off src w : W64), d.body = .reduce t v tok off src w →
       (d.stage = 2 → (d.parts.all (·.2)) = true → exec (.bankCommandComplete c ⟨u, k⟩) s = .next (s.finishCmd d Acct.none)) ∧
       (d.stage = 3 → (∀ p ∈ d.parts, (s.answerOf d.who.die d.uid p.1).isSome = true) →
         exec (.bankCommandComplete c ⟨u, k⟩) s = .next ((((d.parts.map (·.1)).filterMap (s.answerOf d.who.die d.uid)).foldl
           (fun s r => s.countDiscards d.core r) s).finishCmd d (Acct.none.join
             ((((d.parts.map (·.1)).filterMap (s.answerOf d.who.die d.uid)).foldl (fun s r => s.countDiscards d.core r) s).answerAcct d.who.die
               d.uid (d.parts.map (·.1)))))) ∧
       (2 ≤ d.stage → exec (.bkredContribution c ⟨u, k⟩) s = .next s) ∧
       (d.stage < 2 → exec (.bkredContribution c ⟨u, k⟩) s = .next (s.runReduce d k t v tok off src w)) ∧
       (redCount t v src = 0 → d.stage < 2 → exec (.bkredContribution c ⟨u, k⟩) s = .next (s.finishCmd d Acct.none))))

/-- R88, R287: a home bank opens a reduction with its first contribution and closes it with the last rank: the elements are summed in rank
order and written, and each contributor is answered; a second contribution of a rank, and one that does not fit, is discarded. R290 to R292:
a Warren command of a queue of its own partition: a push enters its pair where there is room, a pop takes an entry and gives key and
payload, a peek gives key and number of entries, each with its predicate; anything else gives 0, 0 and false, and a queue that is not the
partition's counts once in l2.err. -/
def Obligations.ReductionsAndWarren : Prop :=
  (∀ (s : State) (e : Fin 4) (a : Arrival),
     let reds := (s.dies.at e).reds
     let new : Contribution := ⟨a.rank, a.uid, a.flit, a.elems⟩
     (a.parties ≤ a.rank → s.contribute e a = (.discarded, s)) ∧
     (∀ r, a.rank < a.parties → (reds.find? fun r => r.key == a.key) = some r →
       (r.got.any (fun g => g.rank == a.rank) = true ∨ r.parties ≠ a.parties ∨ r.t ≠ a.t ∨ r.u ≠ a.u ∨ r.count ≠ a.elems.length →
         s.contribute e a = (.discarded, s)) ∧
       (r.got.any (fun g => g.rank == a.rank) = false → r.parties = a.parties → r.t = a.t → r.u = a.u → r.count = a.elems.length →
         let got := r.got ++ [new]
         let others := reds.filter fun r => r.key != a.key
         (got.length < r.parties → s.contribute e a =
           (.taken, s.modDie e fun k => { k with reds := others ++ [{ r with got := got }] })) ∧
         (r.parties ≤ got.length → s.contribute e a = (.taken, got.foldl (fun s g => s.ackPart g.uid g.flit r.key false)
           ((s.modDie e fun k => { k with reds := others }).closeWrite r.key (recSize r.u) (reduceBytes r.t r.u got)))))) ∧
     (a.rank < a.parties → 1 < a.parties → (reds.find? fun r => r.key == a.key) = none →
       (reds.filter fun r => bankOf r.key == bankOf a.key).length < 16 → (reds.filter fun r => r.key != a.key) = reds →
       s.contribute e a = (.taken, s.modDie e fun k => { k with reds := reds ++ [⟨a.key, a.t, a.u, a.parties, a.elems.length, [new]⟩] }))) ∧
  (∀ (s : State) (c : CoreId) (u : Nat) (d : Cmd) (q : Fin 64) (key payload : W64),
     s.coreCmd c u = some d → d.started = true → d.body = .push q key payload ∨ d.body = .pop q ∨ d.body = .peek q →
     let w := (s.dies.at (dieOf c)).warren.at q
     let ents := fun (t : State) (l : List WarrenEnt) => t.modDie (dieOf c) fun e =>
       { e with warren := e.warren.mod q fun w => { w with ents := l } }
     (w.cap = 0 ∨ s.partOf c ≠ some w.owner →
       exec (.warrenCommandPerformed c u) s = .next ((s.modCore c fun k => k.modCr fun r => { r with l2Err := satInc r.l2Err }).finishWith
         d 0 0 false)) ∧
     (w.cap ≠ 0 → s.partOf c = some w.owner →
       (d.body = .push q key payload → w.ents.length < w.cap →
         exec (.warrenCommandPerformed c u) s = .next ((ents s (w.ents ++ [⟨key.setWidth 32, payload, none⟩])).finishWith d 0 0 true)) ∧
       (d.body = .push q key payload → w.cap ≤ w.ents.length →
         exec (.warrenCommandPerformed c u) s = .next (s.finishWith d 0 0 false)) ∧
       (d.body = .pop q ∨ d.body = .peek q → w.ents = [] → exec (.warrenCommandPerformed c u) s = .next (s.finishWith d 0 0 false)) ∧
       (∀ i t, s.popEntry w.ents = (some i, t) → d.body = .pop q →
         exec (.warrenCommandPerformed c u) s = .next ((ents t (popped w.ents i)).finishWith d
           ((w.ents.getD i ⟨0, 0, none⟩).key.setWidth 64) (w.ents.getD i ⟨0, 0, none⟩).payload true)) ∧
       (∀ i t, s.chooseEntry w.ents = (some i, t) → d.body = .peek q →
         exec (.warrenCommandPerformed c u) s = .next (t.finishWith d ((w.ents.getD i ⟨0, 0, none⟩).key.setWidth 64)
           (BitVec.ofNat 64 w.ents.length) true))) ∧
     (w.ents ≠ [] → ∀ r, r = s.chooseEntry w.ents ∨ r = s.popEntry w.ents → ∃ i t, r = (some i, t) ∧ i < w.ents.length ∧
       (w.ents.filter fun e => decide (e.key.toNat < (w.ents.getD i ⟨0, 0, none⟩).key.toNat)).length < 32) ∧
     (∀ i, i < w.ents.length → (popped w.ents i).map (fun e => (e.key, e.payload)) = (w.ents.eraseIdx i).map fun e => (e.key, e.payload)))

/-- R311 to R314, R318, R319: commands of the fabric engine: one that its group or count refuses ends with one count in fab.err; a move of
no bytes ends at once; a `famo` gives the old value to its register; a `fred` of no elements ends at once, else contributes here and to the
other dies of the package, and ends once its parts are written; a barrier counts its arrival, sends it, and ends when every party's has
come. R315 to R317: an `xall` that has read its descriptor sends READY to every other party; once every READY agrees it goes on, and where
one differs, or a party cannot be reached, it ends with one count in fab.err; it completes when its pieces are acknowledged and everything
for it has been written. -/
def Obligations.FabricCommands : Prop :=
  (∀ (s : State) (e : Fin 4) (u : Nat) (k : Option Nat) (d : Cmd), s.fabCmd e u = some d → d.started = true → d.uid = u →
     let failed := s.finishCmd d { Acct.none with failed := true }
     (∀ tok off loc cnt, d.body = .fput tok off loc cnt ∨ d.body = .fget tok off loc cnt → d.wins = (s.core d.core).wins →
       ∀ i, (i = .fputComplete e ⟨u, k⟩ ∧ d.body = .fput tok off loc cnt) ∨ (i = .fgetComplete e ⟨u, k⟩ ∧ d.body = .fget tok off loc cnt) →
         let n := cnt.toNat % 2 ^ 31
         (2 ^ 30 < n → exec i s = .next failed) ∧
         (n = 0 → exec i s = .next (s.finishCmd d Acct.none)) ∧
         (0 < n → n ≤ 2 ^ 30 → d.stage = 1 → i = .fputComplete e ⟨u, k⟩ → k = none → s.cmdWaits d tok (moveOffs off n) [] = false →
           let g := s.tokWrite d.who u (2 ^ 20) tok ((moveOffs off n).zip ((List.range n).map fun j => d.opB.getD j 0)) none .cr
             ⟨none, .units, fun _ => true, some .any⟩
           (g.data = none → exec i s = .next g.s) ∧ (g.data.isSome = true → exec i s = .next (g.s.finishCmd d g.acct))) ∧
         (0 < n → n ≤ 2 ^ 30 → d.stage = 2 → i = .fgetComplete e ⟨u, k⟩ → (∀ p ∈ (s.core d.core).aux.posted, p.cmd ≠ d.uid) →
           exec i s = .next (s.finishCmd d Acct.none))) ∧
     (∀ (o : FamoOp) (sc : Scope) (wide : Bool) (tok off a b : W64) (l : List Byte), d.body = .famo o sc wide tok off a b →
       let n := if wide then 8 else 4
       (tokRemote tok = true → s.famoAhead e d = false) → s.cmdWaits d tok (offs (off.toNat - off.toNat % n) n) [] = false →
       let g := s.tokAtomic d.who u 0 tok (off.toNat - off.toNat % n) n true true sc 2 (FamoOp.code o)
         (operandBytes n (match o with | .cas => [a, b] | _ => [a])) (famoNew o n a b)
       g.data = some l →
       exec (.famoComplete e u) s = .next ((g.s.modCore d.core fun k => k.giveResults d.q d.x u (some (BitVec.ofNat 64 (natOfBytes l))) none
         false).finishCmd d g.acct)) ∧
     (∀ (t v : Ty) (tok off src : W64) (g : Fin 64), d.body = .fred t v tok off src g → d.wins = (s.core d.core).wins →
       (s.groupFor d.core g = none → exec (.fredComplete e ⟨u, k⟩) s = .next failed) ∧
       (∀ rank parties, s.groupFor d.core g = some (rank, parties) →
         (redCount t v src = 0 → exec (.fredComplete e ⟨u, k⟩) s = .next (s.finishCmd d Acct.none)) ∧
         (redCount t v src ≠ 0 → d.stage = 3 → exec (.fredComplete e ⟨u, k⟩) s = .next (s.fredEnd d)) ∧
         (∀ len runs r, redCount t v src ≠ 0 → d.stage = 1 ∨ d.stage = 2 → s.lookup d.core u (2 ^ 20) tok false true = (.near len runs, r) →
           let n := redCount t v src
           let elems := (unflagged (recSize t) (srcItems t n) d.opA).map fun x => x.getD []
           let as := redArrivals t v parties.length rank u none runs (min len (tokLen tok)) off.toNat n elems
           exec (.fredComplete e ⟨u, k⟩) s = .next (((r.noteAccess d.core u (2 ^ 20) (.near len runs) tok).fredNear d tok as.1 as.2).fredEnd d)))) ∧
     (∀ g : Fin 64, d.body = .fbar g →
       (s.groupFor d.core g = none → exec (.fbarComplete e u) s = .next failed) ∧
       (∀ rank parties, s.groupFor d.core g = some (rank, parties) →
         let k := ((d.parts.head?).map (·.1)).getD 0
         let b := (s.dies.at e).bar g
         let others := otherRanks parties.length rank
         (d.stage = 2 → (∀ q ∈ others, k ≤ b.of q) →
           exec (.fbarComplete e u) s = .next (s.finishCmd d (s.answerAcct e u (others.map (2 ^ 20 + ·))))) ∧
         (d.stage ≠ 2 ∨ (∃ q ∈ others, b.of q < k) → exec (.fbarComplete e u) s = .next s) ∧
         (let v := (s.modCmd u fun d => { d with started := true }).mergeCore d.core
          (s.modCmd u fun d => { d with started := true }).groupFor d.core g = some (rank, parties) → d.stage = 0 →
          v.coreWritesOut d.core = false →
           let b := (v.dies.at e).bar g
           let asks := others.map fun q => d.ask (2 ^ 20 + q) (parties.getD q 0) 3 9 0 (groupTarget (b.made + 1) rank g) []
           let w := (v.modDie e fun k => k.setBar { b with made := b.made + 1 }).askAll e u asks
           exec (.fbarStart e u) s = .next (w.modCmd u fun _ =>
             { d with stage := if w.allAsked e u (asks.map (·.piece)) then 2 else 1, parts := [(b.made + 1, true)] }))))) ∧
  (∀ (s : State) (e : Fin 4) (u : Nat) (k : Option Nat) (d : Cmd) (tok off src loc so : W64) (g : Fin 64) (rank : Nat) (parties : List (Fin 64)),
     s.fabCmd e u = some d → d.started = true → d.uid = u → dieOf d.core = e → d.body = .xall tok off src loc so g →
     let others := otherRanks parties.length rank
     (let v := s.modCmd u fun d => { d with started := true }
      (v.core d.core).wins = d.wins → d.stage = 1 → v.groupFor d.core g = some (rank, parties) →
       let asks := others.map fun q => d.ask (2 ^ 20 + q) (parties.getD q 0) 3 6 0 (groupTarget 0 rank g) d.opA
       let w := v.askAll e u asks
       exec (.xallStart e ⟨u, k⟩) s = .next (w.modCmd u fun _ => if w.allAsked e u (asks.map (·.piece)) then { d with stage := 2 } else d)) ∧
     (s.groupFor d.core g = some (rank, parties) →
       let lost := fun (q : Nat) => (s.hub.fab.path (s.hub.fab.dieAddr e).val (parties.getD q 0).val).isNone ||
         (s.answerOf e u (2 ^ 20 + q)).any (·.failed)
       let ready := fun (q : Nat) => (s.dies.at e).readyOf g q
       (d.stage = 2 → (∃ q ∈ others, lost q = false ∧ ready q = none) → exec (.xallComplete e ⟨u, k⟩) s = .next s) ∧
       (d.stage = 2 → (∀ q ∈ others, lost q = false ∧ ∃ r, ready q = some r ∧ r.desc = d.opA) → d.opA ≠ [] →
         exec (.xallComplete e ⟨u, k⟩) s = .next ((s.modDie e fun k => k.useReady g others).modCmd u fun d => { d with stage := 3 })) ∧
       (d.stage = 2 → (∀ q ∈ others, lost q = true ∨ (ready q).isSome = true) →
         (d.opA = [] ∨ ∃ q ∈ others, lost q = true ∨ ∃ r, ready q = some r ∧ r.desc ≠ d.opA) →
         exec (.xallComplete e ⟨u, k⟩) s = .next ((s.modDie e fun k => k.useReady g others).finishCmd d { Acct.none with failed := true })) ∧
       (∀ ds, d.stage = 5 → readDesc parties.length d.opA = some ds →
         let asks := others.flatMap fun q => (ds.pieces parties.length rank q).map fun c =>
           d.ask (2 ^ 50 + q * 2 ^ 32 + c.1) (parties.getD q 0) 2 7 0 (groupTarget c.1 rank g) ((d.opB.drop (c.1 * ds.e)).take (c.2 * ds.e))
         let w := s.askAll e u asks
         w.allAnswered e u asks = true → (d.parts.map (·.1)).sum = ds.expected parties.length rank →
         exec (.xallComplete e ⟨u, k⟩) s = .next (w.finishCmd d (w.answerAcct e u (asks.map (·.piece)))))) ∧
     (s.groupFor d.core g = none → 2 ≤ d.stage →
       exec (.xallComplete e ⟨u, k⟩) s = .next (s.finishCmd d { Acct.none with failed := true })))

/-! ## Steps of cores and tile runs -/

/-- R117, R120, R209, R345: the rest of a trap that no `xlat` holds up, or a delivered cause at its boundary, is taken; a stream whose
next word a blocking wait holds counts a stalled cycle under the first wait that is unmet in it; an uncorrectable error that a running
core consumes cancels its phase or checks it (one of the Warren always checks it, one in a clean line of the L1 is met by none, R369), and
never changes memory; a checked core is cleared once its started commands have ended; a cancelled phase is replayed from its snapshot. -/
def Obligations.CoreEvents : Prop :=
  ∀ (s : State) (c : CoreId),
    let k := s.core c
    (∀ t, k.aux.trap = some t →
      (k.xlatOutstanding t = false → exec (.trapTaken c) s = .next (s.enterTrap c t)) ∧
      (k.xlatOutstanding t = true → exec (.trapTaken c) s = .next s)) ∧
    (k.aux.trap = none →
      (s.dueStream c = none → exec (.trapTaken c) s = .next s) ∧
      (∀ q x d r, s.dueStream c = some (q, x) → (s.atTurn c q x).myFlow.due = d :: r →
        exec (.trapTaken c) s = .next { (s.atTurn c q x).takeDue d with cur := s.cur })) ∧
    (∀ (q : Seq) (x : Fin 4),
      (∀ code, s.firstWait c q x = some code → exec (.stallBudget c q x) s = .next (s.stallCycle c q (s.atTurn c q x).cur.x code)) ∧
      (s.firstWait c q x = none → exec (.stallBudget c q x) s = .next s)) ∧
    (∀ (r : ErrSource) (a : Nat) (n : W32),
      (k.mode = .free ∨ k.mode = .checked → exec (.uncorrectableErrorConsumed c r a n) s = .next s) ∧
      (k.mode = .running ∨ k.mode = .handler →
        (r = .l1 → k.l1Find (a / 128) = none → exec (.uncorrectableErrorConsumed c r a n) s = .next s) ∧
        (r ≠ .l1 ∨ (∃ l, k.l1Find (a / 128) = some l ∧ l.st ≠ .clean) →
          ∃ t : State, exec (.uncorrectableErrorConsumed c r a n) s = .next t ∧ t.mem = s.mem ∧ (∀ d, d ≠ c → t.core d = s.core d) ∧
            ((t.core c).mode = .cancelled ∨ (t.core c).mode = .checked) ∧ (r = .warren → (t.core c).mode = .checked) ∧
            (r = .l2 → a / 32 ∈ t.poison) ∧
            (k.aux.phases.recoverable = false ∨ k.aux.phases.snap = none ∨ k.aux.phases.cancels ≠ 0 → (t.core c).mode = .checked ∧
              ∀ d ∈ (t.core c).cmds, d.core = c → d.started = true)))) ∧
    (k.mode = .checked → s.allCmds c = [] → s.looseOf (fun d => d == c) = false →
      ∃ t : State, exec (.machineCheckCoreClear c) s = .next t ∧ (t.core c).mode = .free ∧ (t.core c).aux.run = none ∧
        (t.core c).cr.marks = 0xFFFFFFFF ∧ (t.core c).cells = File.all 512 0 ∧ (t.core c).spad = []) ∧
    (k.mode ≠ .checked ∨ s.allCmds c ≠ [] → exec (.machineCheckCoreClear c) s = .next s) ∧
    (∀ p, k.aux.phases.snap = some p → k.mode = .cancelled →
      (s.quiet c = false → exec (.phaseReplay c) s = .next s) ∧
      (s.quiet c = true → k.aux.phases.inLog = [] →
        ∃ t : State, exec (.phaseReplay c) s = .next t ∧ t.mem = s.mem ∧ (t.core c).mode = .running ∧ (t.core c).cells = p.cells ∧
          (t.core c).frames = p.frames ∧ (t.core c).rings = p.rings ∧ ((t.core c).ctx.at 0).s = p.s ∧
          (∀ q, ((t.core c).flow q 0).pc = match q with | .ctl => p.ctl.pc | .ld => p.ld.pc | .ex => p.exf.pc | .st => p.st.pc) ∧
          (t.core c).ex.z = p.ex.z ∧ (t.core c).cr.marks = 0xFFFFFFFF ∧ (t.core c).spad = k.spad))

/-- R22, R23, R25, R201, R333, R337 to R339, R363: once every die is ready a tile run is given to a free core of its partition with the
indices of its ordinal, all those of a resident operator together; it starts once its shadow bank holds its record and its dependence is
met, with the registers of R109 and the loop indices in every sequencer; it retires when all four sequencers have halted and everything is
done, or has ended, and the core is free with its counters and queues empty. R22: the indices of a tile run are the digits of its ordinal
over the extents of its C and D levels, the last level fastest; other levels are 0. -/
def Obligations.TileRuns : Prop :=
  (∀ (s : State) (c : CoreId) (p : Fin 16),
     (∀ t k u, s.hub.parts.at p = some t → t.pre = .none → s.diesUp = true → s.offer t (s.offers p t.rr) = some (k, u) →
       ∃ v : State, exec (.tileRunDispatch p) s = .next v ∧ v.cores = u.cores ∧ v.mem = u.mem) ∧
     (∀ t, s.hub.parts.at p = some t → t.pre ≠ .none ∨ s.diesUp = false → exec (.tileRunDispatch p) s = .next s) ∧
     (∀ t k pk o, s.placeFor t o.op (o.op.indices o.dispatched) = some c → o.op.resident = false →
       (s.core c).isFree = true ∧ t.clusters.getLsbD (clusterOf c).val = true ∧
       ∃ (u : State) (r : TileRun), s.dispatchOf t k pk o = some u ∧ (u.core c).aux.next = some r ∧ r.op = o.op ∧
         r.ordinal = o.dispatched ∧ r.ix = o.op.indices o.dispatched ∧ r.queue = k.num ∧ r.launch = pk.uid ∧ r.code = o.code ∧
         r.toks = o.toks ∧ u.mem = s.mem ∧ ∀ d, d ≠ c → u.core d = s.core d) ∧
     (∀ t k pk o u, o.op.resident = true → s.dispatchOf t k pk o = some u → o.total - o.dispatched ≤ 768 ∧
       ∀ n, o.dispatched ≤ n → n < o.total → ∃ d, (s.core d).isFree = true ∧ (u.core d).aux.next = some (tileRun k pk o n)) ∧
     (∀ r, (s.core c).aux.next = some r →
       (exec (.shadowBankFill c) s = .next (s.modCore c fun k => k.modAux fun a =>
         { a with shadow := some ⟨r.queue, r.launch, r.record, r.op⟩ })) ∧
       ((s.core c).mode = .free → (s.core c).aux.hold = false → (s.core c).aux.shadow = some ⟨r.queue, r.launch, r.record, r.op⟩ →
         s.depMet r = true →
         ∃ t : State, exec (.shadowBankSwap c) s = .next t ∧
           let u := t.core c
           u.mode = .running ∧ u.aux.run = some r ∧ u.aux.next = none ∧ u.aux.resv = r.op.reserve ∧ u.cr.pinBase = r.op.pinbase ∧
           u.cr.asid = r.op.asid ∧ u.cr.trapVec = r.op.tvec ∧ u.cr.marks = 0xFFFFFFFF ∧ (∀ q, (u.flow q 0).pc = 0) ∧
           (∀ n : Fin 7, (u.ctx.at 0).s.at n = if n.val < 6 then BitVec.ofNat 64 (r.ix.getD n.val 0) else BitVec.ofNat 64 r.ordinal) ∧
           (∀ n : Fin 6, u.ld.ix.at n = BitVec.ofNat 64 (r.ix.getD n.val 0) ∧ u.ex.ix.at n = u.ld.ix.at n ∧ u.st.ix.at n = u.ld.ix.at n) ∧
           (∀ n : Fin 16, u.k.at n = r.toks.getD n.val 0) ∧ (∀ n : Fin 16, u.ex.fmt.at n = r.op.fmt.getD n.val 0) ∧
           u.frames = [⟨Fin.ofNat 512 (512 - r.op.frame), r.op.frame, 0, none, 0, false, none, false⟩]) ∧
       ((s.core c).mode ≠ .free ∨ (s.core c).aux.shadow = none → exec (.shadowBankSwap c) s = .next s)) ∧
     (∀ r, (s.core c).aux.run = some r →
       (((s.core c).mode = .running ∧ (s.core c).allHalted = true ∧ (s.core c).postsApplied = true) ∨ (s.core c).mode = .ended →
         s.drained c = true →
         ∃ t : State, exec (.tileRunRetire c) s = .next t ∧ (t.core c).mode = .free ∧ (t.core c).aux.run = none ∧
           (t.core c).rings = File.all 8 0 ∧ (t.core c).values = File.all 3 [] ∧ (t.core c).outcomes = File.all 3 [] ∧
           (t.core c).streams = File.all 16 []) ∧
       (s.drained c = false → exec (.tileRunRetire c) s = .next s))) ∧
  (∀ (o : OpRec) (n : Nat), (∀ l ∈ o.levels, 2 ≤ l.kind → 1 ≤ l.extent) → n < o.total →
     (o.indices n).length = o.levels.length ∧
     (o.levels.zip (o.indices n)).foldl (fun m e => if 2 ≤ e.1.kind then m * e.1.extent + e.2 else m) 0 = n ∧
     ∀ e ∈ o.levels.zip (o.indices n), if 2 ≤ e.1.kind then e.2 < e.1.extent else e.2 = 0)

/-- R335, R336, R339: an absent token entry, or a code extent whose pages are all found, is passed by the pinning of its operator; the end of
a LAUNCH posts what R327 and R339 say. -/
def Obligations.PinningAndLaunchEnd : Prop :=
  ∀ (s : State) (q : Fin 4096) (k : Queue) (w : QueueWork), s.queue q = some (k, w) →
    (∀ p o t part, w.current = some p → s.hub.parts.at k.part = some part → part.firstCluster = some t → p.pinning = some o →
      s.runs k.part = true → (s.hub.preqs.any fun r => r.queue == some q) = false →
      (o.pinExtent = none →
        exec (.operatorPinning q) s = .next ((s.modOp k.num p.uid o.record fun o => o.pinned [] 0).settle q)) ∧
      (∀ va len rd wr runs ls u, o.pinExtent = some (va, len, rd, wr) → o.pins < 4 → o.refused = false → extentOk va len = true →
        s.walkExtent t ⟨k.part, o.op.asid, wr, true, o.bypass.toList⟩ va len = (.ok runs ls, u) →
        exec (.operatorPinning q) s = .next (((u.markLeaves t wr ls).modOp k.num p.uid o.record fun o => o.pinned runs 0).settle q)) ∧
      (∀ va len rd wr, o.pinExtent = some (va, len, rd, wr) → (o.refused = true ∨ extentOk va len = false) →
        exec (.operatorPinning q) s = .next ((s.rejectOp k p o.record (if o.pins < 4 then 6 else 7)
          (if o.refused then 0x14 else 0x10)).settle q))) ∧
    (∀ p, w.packets.find? Packet.isOver = some p → (s.looseOf fun c => s.partOf c == some k.part) = false →
      exec (.launchComplete q) s = .next ((s.completePacket k p (if p.aborted || p.stopped then 1 else 0)).settle q)) ∧
    (w.packets.find? Packet.isOver = none → exec (.launchComplete q) s = .next s) ∧
    (∀ (p : Packet) (reason : Nat),
      let u := s.modQueue k.num fun e => (e.1, { e.2 with packets := e.2.packets.filter fun o => o.uid != p.uid })
      (reason = 0 → p.notify = false → s.completePacket k p reason = u) ∧
      (reason ≠ 0 ∨ p.notify = true → s.completePacket k p reason = u.postRec k.num (packetRec k p 0 reason 0 0)))

/-! ## Queues -/

/-- R325 to R327, R336: a packet starts in its queue's order, one with barrier or a SIGNAL only when nothing before it is left; a NOP completes, a
PUSH enters the Warren or is rejected, a SIGNAL writes its doubleword, a LAUNCH starts, and an unknown type is rejected. With none taken, the
packet at the head of the ring is taken first. -/
def Obligations.Packets : Prop :=
  ∀ (s : State) (q : Fin 4096) (k : Queue) (w : QueueWork), s.queue q = some (k, w) → s.runs k.part = true →
    (∀ p, w.packets.find? (fun p => !p.started) = some p →
      (w.mayBegin p = false → ∀ i, (i, p.ty) ∈ [(Instr.packetNop q, 0), (.launch q, 1), (.push q, 2), (.signal q, 3)] →
        exec i s = .next (s.settle q)) ∧
      (w.mayBegin p = true →
        (p.ty = 0 → exec (.packetNop q) s = .next ((if p.reservedSet || p.word 3 != 0 then s.rejectPacket k p 5 else
          s.completePacket k p 0).settle q)) ∧
        (p.ty = 2 → p.reservedSet = false → bitsOf (p.word 1) 6 2 = 0 → bitsOf (p.word 1) 10 54 = 0 →
          let n := Fin.ofNat 64 (bitsOf (p.word 1) 0 6)
          let d := Fin.ofNat 4 (bitsOf (p.word 1) 8 2)
          let v := (s.dies.at d).warren.at n
          (v.cap ≠ 0 → v.owner = k.part → v.ents.length < v.cap →
            exec (.push q) s = .next (((s.modDie d fun e => { e with warren := e.warren.mod n fun w =>
              { w with ents := w.ents ++ [⟨BitVec.ofNat 32 (p.word 2), p.words.at 3, none⟩] } }).completePacket k p 0).settle q)) ∧
          (v.cap = 0 ∨ v.owner ≠ k.part ∨ v.cap ≤ v.ents.length → exec (.push q) s = .next ((s.rejectPacket k p 11).settle q))) ∧
        (p.ty = 3 → p.reservedSet = false → p.word 3 = 0 →
          let a := p.word 1
          let pa := a % 2 ^ 52
          let host := bitOf a 63
          let bad := a % 8 ≠ 0 ∨ bitsOf a 52 11 ≠ 0 ∨ (host = false ∧ s.inPart k.part 0 pa 8 = false ∧ s.inPart k.part 1 pa 8 = false)
          let key := memKey (if host then 2 else 0) pa
          (bad → exec (.signal q) s = .next ((s.rejectPacket k p 12).settle q)) ∧
          (¬ bad → exec (.signal q) s = .next (((s.homePut ((List.range 8).map (key + ·)) (bytesOfNat 8 (p.word 2))).completePacket
            k p 0).settle q))) ∧
        (p.ty = 1 → p.reservedSet = false → p.word 1 % 1024 = 0 → bitsOf (p.word 2) 12 52 = 0 → p.word 3 = 0 →
          (∀ n, n < 6 → p.extents.getD n 0 = 0) →
          exec (.launch q) s = .next ((s.modPacket k.num p.uid fun p => { p with started := true }).settle q)) ∧
        (3 < p.ty → exec (.unknownPacketType q) s = .next ((s.rejectPacket k p (if p.reservedSet then 5 else 8)).settle q)))) ∧
    (w.packets.find? (fun p => !p.started) = none → k.tail ≠ k.head → w.waiting = [] → s.ringMissing k.host k.ring k.lsize k.head = false →
      let t := s.takePacket k
      (∀ i, (i, t.1.ty) ∈ [(Instr.packetNop q, 0), (.launch q, 1), (.push q, 2), (.signal q, 3)] → exec i s = exec i t.2) ∧
      (3 < t.1.ty → exec (.unknownPacketType q) s = exec (.unknownPacketType q) t.2) ∧
      (∀ e, t.2.queue q = some e → e.1.head = k.head + 1)) ∧
    (w.packets.find? (fun p => !p.started) = none → (k.tail = k.head ∨ w.waiting ≠ []) →
      ∀ i ∈ [Instr.packetNop q, .launch q, .push q, .signal q, .unknownPacketType q], exec i s = .next s)

/-- R174, R325, R329, R330: an `ecall` record goes to its queue; the oldest record that waits is written where its ring has room, advances
the tail, and interrupts at the threshold or with no hold-off, else when the hold-off of the oldest unreported record has passed; a doorbell
takes a tail that does not go back; a full ring, and one in no memory, write nothing. R332, R374: a tick advances the µs timer, charges
every server of a running partition the cores its queue holds, and ends gating; a charged server with work keeps a positive budget, its
deadline moved by whole periods; deadlines move with the timer's 48 bits as they wrap. -/
def Obligations.RecordsAndTimer : Prop :=
  (∀ (s : State) (q : Fin 4096) (k : Queue) (w : QueueWork) (c : CoreId) (v : Fin 16) (j : Nat) (n : W32),
     (∀ r, (s.core c).aux.ecall = some r →
       exec (.ecallRecordAccepted c) s = .next ((s.modCore c fun k => k.modAux fun a => { a with ecall := none }).postRec
         (Fin.ofNat 4096 (bitsOf (r.w.at 0).toNat 16 12)) r)) ∧
     (s.queue q = some (k, w) →
       (∀ r rest, w.waiting = r :: rest →
         let a := ringKey k.host k.cring k.clsize k.ctail
         let t := s.homePut ((List.range 64).map (a + ·)) r.bytes
         let u := t.modQueue q fun e => ({ e.1 with ctail := e.1.ctail + 1 }, { e.2 with
           waiting := rest, unreported := w.unreported + 1, oldest := if w.unreported = 0 then t.hub.timer.toNat else w.oldest })
         (2 ^ k.clsize ≤ (k.ctail - k.chead).toNat → exec (.completionRecordWrite q) s = .next s) ∧
         ((k.ctail - k.chead).toNat < 2 ^ k.clsize →
           (s.ringMissing k.host k.cring k.clsize k.ctail = true → exec (.completionRecordWrite q) s = .fault .noSuchRing) ∧
           (s.ringMissing k.host k.cring k.clsize k.ctail = false →
             exec (.completionRecordWrite q) s = .next (if k.thresh + 1 ≤ w.unreported + 1 ∨ k.holdoff = 0 then u.interrupt k else u)))) ∧
       (w.waiting = [] → exec (.completionRecordWrite q) s = .next s) ∧
       exec (.holdoffTimerExpiry q) s = .next (if 0 < w.unreported ∧ k.holdoff ≤ (s.hub.timer - BitVec.ofNat 48 w.oldest).toNat then s.interrupt k else s)) ∧
     (s.pageQueue v j = some (k, w) →
       ((n - k.tail).msb = false → exec (.doorbellTail v j n) s =
         .next ((s.modQueue k.num fun e => ({ e.1 with tail := n }, e.2)).settle k.num)) ∧
       ((n - k.tail).msb = true → exec (.doorbellTail v j n) s = .next s) ∧
       exec (.completionHead v j n) s = .next (s.modQueue k.num fun e => ({ e.1 with chead := n }, e.2))) ∧
     (s.pageQueue v j = none → exec (.doorbellTail v j n) s = .next s ∧ exec (.completionHead v j n) s = .next s)) ∧
  (∀ (s : State),
     (∃ t : State, exec .timerTick s = .next t ∧ t.hub.timer = s.hub.timer + 1 ∧ t.hub.power.gated = false ∧ t.mem = s.mem ∧
       t.cores = s.cores ∧ t.hub.queues = s.hub.queues.map fun e =>
         let q := if 0 < e.1.budget ∧ s.runs e.1.part = true then e.1.charge (s.runningOf e.1.num) (hasWork e) else e.1
         (if s.hub.timer + 1 = 0 then { q with srv := (q.srv.1 - 2 ^ 48, q.srv.2) } else q, e.2)) ∧
     (∀ (q : Queue) (n : Nat), 0 < q.budget →
       ∃ k : Nat, (q.charge n true).srv.1 = q.srv.1 + k * q.period ∧ (q.charge n true).srv.2 = q.srv.2 - n + k * q.budget ∧
         0 < (q.charge n true).srv.2 ∧ (1 ≤ k → (q.charge n true).srv.2 ≤ q.budget)) ∧
     (∀ (q : Queue) (n : Nat), (q.charge n false).srv = (q.srv.1, q.srv.2 - n)))

/-! ## The mailbox -/

/-- R352, R364, R376: a code written to cmd makes the mailbox busy, and the step of its command ends it; a code written while a command runs
is ignored and counted as an overrun; one that names no command is rejected. A rejected command sets error and detail, in recovery mode
with detail 4 unless a lower one applies; a command that is done leaves error and detail clear (notes/assumptions/38.md: a command's step
where none runs is its write and its end at once). Which command a code runs, with the payload bits that choose between the forms of one
code. -/
def Obligations.MailboxRules : Prop :=
  ∀ (s : State) (i : Instr) (inRec : Bool) (body : State → Ran) (code : Nat),
    (i, inRec, body, code) ∈ [
      (Instr.configureQueue, false, State.runConfigureQueue, 0x01), (.setRoot, false, State.runSetRoot, 0x02),
      (.flushAsid, false, State.runFlushAsid, 0x03), (.revoke, false, State.runRevoke, 0x04), (.resume, false, State.runResume, 0x05),
      (if s.pay 0 8 1 = 1 then .preemptForced else .preemptNode, false, State.runPreempt, 0x06), (.restore, false, State.runRestore, 0x07),
      (if s.pay 0 8 1 = 1 then .setPartitionRemove else .setPartition, false,
        if s.pay 0 8 1 = 1 then State.runRemovePartition else State.runSetPartition, 0x08),
      (.setCommons, false, State.runSetCommons, 0x09), (.setWarren, false, State.runSetWarren, 0x0A),
      (.readScree, true, State.runReadScree, 0x0C), (.screeRelease, true, State.runScreeRelease, 0x0D), (.readHealth, true, State.runReadHealth, 0x0E),
      (.setPowerCap, false, State.runSetPowerCap, 0x0F), (.recoveryCommit, true, State.runRecoveryCommit, 0x10)] ∨
    (inRec = false ∧ code = 0x0B ∧ ((s.pay 0 0 2 = 0 ∧ i = .setFabricGeometry ∧ body = State.runGeometry) ∨
      (s.pay 0 0 2 = 1 ∧ i = .setFabricGroup ∧ body = State.runGroup) ∨ (s.pay 0 0 2 = 2 ∧ i = .setFabricLink ∧ body = State.runLink))) →
    let off := s.hub.brock.boot = .recovery ∧ inRec = false
    let m := s.hub.mbox
    let u := s.modMbox fun m => { m with busy := false }
    (m.busy = true → m.cmd.toNat ≠ code → exec i s = .next (s.modMbox fun m => { m with overrun := true })) ∧
    (m.busy = false ∨ m.cmd.toNat = code →
      (∀ d, body u = .rejected d → (off → exec i s = .next (u.mboxReject (min d 4))) ∧ (¬ off → exec i s = .next (u.mboxReject d))) ∧
      (∀ d t, body u = .rejectedIn d t → (off → exec i s = .next (u.mboxReject (min d 4))) ∧ (¬ off → exec i s = .next (t.mboxReject d))) ∧
      (∀ t, body u = .done t → (off → exec i s = .next (u.mboxReject 4)) ∧
        (¬ off → exec i s = .next (t.modMbox fun m => { m with error := false, detail := 0 })))) ∧
    (∀ (z : Bool) (n : W64), let o := exec (.registerWrite .mailbox 0 z n) s
      (m.busy = true → o = .next (s.modMbox fun m => { m with overrun := true })) ∧
      (m.busy = false →
        (n.toNat % 2 ^ 16 = code → o = .next (s.modMbox fun m => { m with busy := true, cmd := BitVec.ofNat 16 code })) ∧
        (n.toNat % 2 ^ 16 = 0 ∨ 0x10 < n.toNat % 2 ^ 16 → o = .next (u.mboxReject 1)) ∧
        (n.toNat % 2 ^ 16 = 0x0B → s.pay 0 0 2 = 3 → o = .next (u.mboxReject 3))))

/-- R125, R131, R139 to R141, R324, R331: the commands about translation and queues, outside recovery mode. A root is installed or its type
refused; a flush drops an ASID's cached entries; a REVOKE freezes, drops what is cached over its range and stands until
RESUME and QUIESCED, which posts once nothing that has passed its lookup can still reach the frames; a queue is configured, or refused for
its descriptor or by the admission test, which leaves it unconfigured. -/
def Obligations.MailboxTranslation : Prop :=
  ∀ (s : State), s.hub.mbox.busy = false → s.hub.brock.boot ≠ .recovery →
    let asid := BitVec.ofNat 11 (s.pay 0 0 11)
    let cached := fun (t : State) (u : Fin 16) => (t.tus.at u).walk ++ (t.tus.at u).leaf
    let ended := fun (t : State) => t.hub.mbox.error = false ∧ t.hub.mbox.detail = 0 ∧ t.hub.mbox.payload = s.hub.mbox.payload
    (3 < s.pay 0 16 3 ∨ s.pay 8 0 12 ≠ 0 → exec .setRoot s = .next (s.mboxReject 3)) ∧
    (s.pay 0 16 3 ≤ 3 → s.pay 8 0 12 = 0 →
      ∃ t : State, exec .setRoot s = .next t ∧ ended t ∧ t.mem = s.mem ∧ t.cores = s.cores ∧
        ∀ a, t.hub.roots.find? (fun r => r.1 == a) =
          if a = asid then some (asid, Fin.ofNat 4 (s.pay 0 16 3), s.pay 8 12 40 * 4096) else s.hub.roots.find? fun r => r.1 == a) ∧
    (∃ t : State, exec .flushAsid s = .next t ∧ ended t ∧ t.mem = s.mem ∧ t.cores = s.cores ∧
      ∀ u e, e ∈ cached t u ↔ e ∈ cached s u ∧ e.asid ≠ asid) ∧
    (let va := s.pay 8 0 57
     let len := s.pay 0x10 0 58
     let hit := fun (a n : Nat) => va < a + n ∧ a < va + len
     let ents := (s.pinBases asid).flatMap (s.toFreeze asid va len)
     (len = 0 ∨ 2 ^ 57 < len → exec .revoke s = .next (s.mboxReject 3)) ∧
     (0 < len → len ≤ 2 ^ 57 →
      ∃ t : State, exec .revoke s = .next t ∧ ended t ∧
        t.hub.revokes = s.hub.revokes ++ [⟨asid, va, len, s.runsOf asid va len, ents, false, false⟩] ∧
        t.mem = (ents.foldl (fun t e => t.setPinState e.1 e.2 2 true) s).mem ∧
        (∀ u e, e ∈ cached t u → ¬ ((e.asid = asid ∨ pteG e.pte.toNat = true) ∧ hit e.span.1 e.span.2)) ∧
        (∀ d p, p ∈ (t.dies.at d).pins → p.asid = asid → hit p.va p.len → p.state ≠ 1 ∧ p.state ≠ 3))) ∧
    (∃ t : State, exec .resume s = .next t ∧ ended t ∧ t.mem = s.mem ∧ t.cores = s.cores ∧
      (∀ r ∈ t.hub.revokes, r.asid = asid → r.released = true ∧ r.quiesced = false) ∧
      (∀ r ∈ s.hub.revokes, r.asid ≠ asid → r.released = false → r ∈ t.hub.revokes)) ∧
    (∀ k, let left := s.hub.revokes.filter fun r => !r.quiesced
      (left[k]? = none → exec (.quiesced k) s = .next s) ∧
      (∀ r, left[k]? = some r →
        (s.openReds r.runs = true ∨ s.reaching r = true → exec (.quiesced k) s = .next s) ∧
        (s.openReds r.runs = false → s.reaching r = false →
          let u := ((s.mergeRuns r.runs).mergeSpace r.asid).postEvent 8 0 r.va r.asid.toNat
          let l := if r.released then u.hub.revokes.erase r else u.hub.revokes.replace r { r with quiesced := true }
          exec (.quiesced k) s = .next (u.modHub fun h => { h with revokes := l })))) ∧
    (let k := s.described
     let f := fun (n lo len : Nat) => s.pay (0x40 + n) lo len
     let bad := f 8 20 44 ≠ 0 ∨ f 8 9 7 ≠ 0 ∨ f 8 5 3 ≠ 0 ∨ f 0x20 48 16 ≠ 0 ∨ f 0x20 25 7 ≠ 0 ∨ f 0x20 5 3 ≠ 0 ∨ f 0x28 0 64 ≠ 0 ∨
       f 0x30 0 64 ≠ 0 ∨ f 0x38 0 64 ≠ 0 ∨ f 0 0 64 % 64 ≠ 0 ∨ f 0x18 0 64 % 64 ≠ 0 ∨ f 8 0 5 < 3 ∨ 16 < f 8 0 5 ∨ f 0x20 0 5 < 3 ∨
       16 < f 0x20 0 5 ∨ f 0x10 32 32 = 0 ∨ 2 ^ 24 < f 0x10 32 32 ∨ 256 < f 0x20 16 9 ∨ 2048 ≤ f 0x20 32 16 ∨ s.pay 0 16 9 = 0 ∨
       256 < s.pay 0 16 9 ∨ s.hub.parts.at (Fin.ofNat 16 (f 8 16 4)) = none ∨
       ∃ e ∈ s.hub.queues, e.1.num.val ≠ s.pay 0 0 12 ∧ e.1.part = Fin.ofNat 16 (f 8 16 4) ∧ e.1.page = s.pay 0 16 9
     let without := s.modHub fun h => { h with queues := h.queues.filter fun e => e.1.num != k.num }
     (bad → exec .configureQueue s = .next (without.mboxReject 3)) ∧
     (¬ bad → s.refuses k = true → exec .configureQueue s = .next (without.mboxReject 6)) ∧
     (¬ bad → s.refuses k = false →
      ∃ t : State, exec .configureQueue s = .next t ∧ ended t ∧ t.mem = s.mem ∧ t.cores = s.cores ∧
        t.queue k.num = some (k, ⟨[], [], 0, 0⟩) ∧ ∀ q, q ≠ k.num → t.queue q = s.queue q) ∧
     (f 0x10 0 32 = 0 → s.refuses k = false) ∧
     (∀ p, s.hub.parts.at k.part = some p → 0 < f 0x10 0 32 → f 0x10 32 32 * p.cores < f 0x10 0 32 → s.refuses k = true))

/-- R278, R290, R295 to R297, R311, R346, R348, R366, R368, R372, R374, R377: the commands that configure partitions, the Commons, the Warren,
the fabric and the power cap, and those that read Scree and health, outside recovery mode: what each is refused for, in the order of the
detail codes, and what it does. -/
def Obligations.MailboxResources : Prop :=
  ∀ (s : State), s.hub.mbox.busy = false → s.hub.brock.boot ≠ .recovery → s.hub.mbox.payload.wf = true → s.mem.wf = true →
    let p := Fin.ofNat 16 (s.pay 0 0 4)
    let d := Fin.ofNat 4 (s.pay 0 0 2)
    let ended := fun (t : State) => t.hub.mbox.error = false ∧ t.hub.mbox.detail = 0
    (s.pay 0 8 1 = 0 →
      (s.hasRun p (fun _ => true) = true → exec .setPartition s = .next (s.mboxReject 2)) ∧
      (s.hasRun p (fun _ => true) = false → s.partBad p (s.payPart (s.hub.parts.at p)) = true →
        exec .setPartition s = .next (s.mboxReject 3)) ∧
      (s.hasRun p (fun _ => true) = false → s.partBad p (s.payPart (s.hub.parts.at p)) = false →
        ∃ (t : State) (n : Part), exec .setPartition s = .next t ∧ ended t ∧ t.mem = s.mem ∧ t.cores = s.cores ∧
          t.hub.parts = s.hub.parts.put p (some n) ∧ n.clusters = BitVec.ofNat 16 (s.pay 8 0 16) ∧ n.ranges = s.payRanges ∧
          n.raceBase = s.pay 0x10 0 52 ∧ n.raceK = s.pay 0x18 0 5 ∧ n.saveBase = s.pay 0x20 0 52 ∧ n.preqBase = s.pay 0x28 0 52 ∧
          (∀ o, s.hub.parts.at p = some o → n.pre = o.pre ∧ n.preqWr = o.preqWr ∧ n.rlogWr = o.rlogWr)) ∧
      (∀ (q : Fin 16) (o : Part), q ≠ p → s.hub.parts.at q = some o → o.clusters &&& BitVec.ofNat 16 (s.pay 8 0 16) ≠ 0 →
        s.partBad p (s.payPart (s.hub.parts.at p)) = true)) ∧
    (s.pay 0 8 1 = 1 →
      (s.hasRun p (fun _ => true) = true → exec .setPartitionRemove s = .next (s.mboxReject 2)) ∧
      (s.hasRun p (fun _ => true) = false →
        ∃ t : State, exec .setPartitionRemove s = .next t ∧ ended t ∧ t.mem = s.mem ∧ t.hub.parts = s.hub.parts.put p none ∧
          (∀ e ∈ t.hub.queues, e.1.part ≠ p) ∧ (∀ e ∈ s.hub.queues, e.1.part ≠ p → e ∈ t.hub.queues))) ∧
    (let n := s.pay 0 8 3
     let owners := (List.range n).map fun j => Fin.ofNat 16 (s.pay 8 (4 * j) 4)
     let old := (s.dies.at d).commons
     let moved := fun (a : Nat) => ∃ j < 7, min n old.length ≤ j ∧ j < max n old.length ∧
       Config.commonsBase + d.val * 2 ^ 26 + j * 2 ^ 23 ≤ a ∧ a < Config.commonsBase + d.val * 2 ^ 26 + j * 2 ^ 23 + 2 ^ 23
     (s.ownersBusy d (old ++ owners) = true → exec .setCommons s = .next (s.mboxReject 2)) ∧
     (s.ownersBusy d (old ++ owners) = false →
      ∃ t : State, exec .setCommons s = .next t ∧ ended t ∧ (t.dies.at d).commons = owners ∧
        (∀ e, e ≠ d → (t.dies.at e).commons = (s.dies.at e).commons) ∧ (∀ a, moved a → t.mem.get a = 0) ∧
        ∀ a, ¬ moved a → t.mem.get a = s.mem.get a)) ∧
    (let units := fun (q : Fin 64) => s.pay (0x40 + 2 * q.val) 0 9
     let owner := fun (q : Fin 64) => Fin.ofNat 16 (s.pay (0x40 + 2 * q.val) 12 4)
     let old := fun (q : Fin 64) => (s.dies.at d).warren.at q
     let stands := fun (q : Fin 64) => (old q).owner = owner q ∧ (old q).cap = 256 * units q
     let busy := ∃ q, ¬ stands q ∧ (((old q).cap ≠ 0 ∧ s.hasRun (old q).owner (fun e => e == d) = true) ∨
       (units q ≠ 0 ∧ s.hasRun (owner q) (fun e => e == d) = true))
     let bad := (∃ q, 256 < units q) ∨ 256 < ((List.finRange 64).map units).sum
     (busy → exec .setWarren s = .next (s.mboxReject 2)) ∧
     (¬ busy → bad → exec .setWarren s = .next (s.mboxReject 3)) ∧
     (¬ busy → ¬ bad →
      ∃ t : State, exec .setWarren s = .next t ∧ ended t ∧ t.mem = s.mem ∧ (∀ e, e ≠ d → t.dies.at e = s.dies.at e) ∧
        ∀ q, (stands q → (t.dies.at d).warren.at q = old q) ∧
          (¬ stands q → (t.dies.at d).warren.at q = ⟨owner q, 256 * units q, []⟩))) ∧
    (s.pay 0 0 2 = 0 →
      let x := s.pay 8 0 8
      let y := s.pay 8 8 8
      let z := s.pay 8 16 8
      let bad := x % 2 ≠ 0 ∨ x = 0 ∨ y % 2 ≠ 0 ∨ y = 0 ∨ z = 0 ∨ 64 < x * y * z ∨ x < 2 * s.pay 8 32 8 + 2 ∨ y < 2 * s.pay 8 40 8 + 2 ∨
        z ≤ s.pay 8 48 8
      (bad ∨ s.hub.fab.fixed = true → exec .setFabricGeometry s = .next (s.mboxReject 3)) ∧
      (¬ bad → s.hub.fab.fixed = false → ∃ t : State, exec .setFabricGeometry s = .next t ∧ ended t ∧ t.mem = s.mem ∧ t.hub.fab.size = x * y * z ∧ t.hub.fab.fixed = true ∧
        t.hub.fab.groups = s.hub.fab.groups ∧
        ∀ e : Fin 4, t.hub.fab.place e = ⟨2 * s.pay 8 32 8 + e.val % 2, 2 * s.pay 8 40 8 + e.val / 2, s.pay 8 48 8⟩)) ∧
    (s.pay 0 0 2 = 1 →
      let g := Fin.ofNat 64 (s.pay 8 0 6)
      let n := s.pay 8 24 7
      let parties := (List.range n).map fun j => Fin.ofNat 64 (s.pay (0x40 + j) 0 6)
      let owner := Fin.ofNat 16 (s.pay 8 16 4)
      let on := s.pay 8 8 1 = 1
      let busy := (∃ r, s.hub.fab.groups.at g = some r ∧ s.hasRun r.owner (fun _ => true) = true) ∨
        (on ∧ s.hasRun owner (fun _ => true) = true)
      let bad := on ∧ (n = 0 ∨ 64 < n ∨ (∃ a ∈ parties, s.hub.fab.size ≤ a.val) ∨ ¬ parties.Nodup)
      (busy → exec .setFabricGroup s = .next (s.mboxReject 2)) ∧
      (¬ busy → bad → exec .setFabricGroup s = .next (s.mboxReject 3)) ∧
      (¬ busy → ¬ bad → ∃ t : State, exec .setFabricGroup s = .next t ∧ ended t ∧ t.mem = s.mem ∧
        (on → t.hub.fab.groups = s.hub.fab.groups.put g (some ⟨owner, parties⟩)) ∧
        (¬ on → t.hub.fab.groups = s.hub.fab.groups.put g none))) ∧
    (s.pay 0 0 2 = 2 →
      let a := s.pay 8 0 6
      let on := s.pay 8 16 1 = 1
      let bad := fun (q : Port) => s.hub.fab.size ≤ a ∨ (on ∧ s.hub.fab.portOk q = false)
      (5 < s.pay 8 8 3 → exec .setFabricLink s = .next (s.mboxReject 3)) ∧
      (∀ q : Port, q.num.val = s.pay 8 8 3 →
        (bad q → exec .setFabricLink s = .next (s.mboxReject 3)) ∧
        (¬ bad q → ∀ e, s.hub.fab.dieOf a = some e →
          ∃ t : State, exec .setFabricLink s = .next t ∧ ended t ∧ t.mem = s.mem ∧
            (on → (t.link e q).lanes32 = false ∧
              (t.link e q).state = (match (s.link e q).state with
                | .down => .full | .half => .retraining | .full => .full | .retraining => .retraining)) ∧
            (¬ on → (t.link e q).state = .down)) ∧
        (¬ bad q → s.hub.fab.dieOf a = none →
          ∃ t : State, exec .setFabricLink s = .next t ∧ ended t ∧ t.mem = s.mem ∧ t.dies = s.dies ∧
            t.hub.fab.up = s.hub.fab.up ∧ ((Fin.ofNat 64 a, q) ∈ t.hub.fab.told ↔ on) ∧
            ∀ e, e ≠ (Fin.ofNat 64 a, q) → (e ∈ t.hub.fab.told ↔ e ∈ s.hub.fab.told)))) ∧
    (let c := s.hub.scree.at (Fin.ofNat 5 (s.pay 0 0 3))
     let want := s.pay 0x10 0 5
     (4 < s.pay 0 0 3 ∨ want = 0 ∨ 16 < want → exec .readScree s = .next (s.mboxReject 3)) ∧
     (s.pay 0 0 3 ≤ 4 → 0 < want → want ≤ 16 →
      ∃ t : State, exec .readScree s = .next t ∧ ended t ∧ t.mem = s.mem ∧ t.hub.scree = s.hub.scree ∧ t.pay 0 0 32 = c.count.toNat ∧
        t.pay 0 32 32 = c.dropped.toNat ∧ t.pay 8 0 1 = s.hub.frozen.toNat)) ∧
    exec .screeRelease s = .next ((s.modHub fun h => { h with frozen := false }).modMbox fun m => { m with error := false, detail := 0 }) ∧
    (∃ t : State, exec .readHealth s = .next t ∧ ended t ∧ t.mem = s.mem ∧ t.pay 0 0 32 = s.hub.errors.why.toNat ∧
      t.pay 0 32 1 = s.hub.errors.replace.toNat ∧ t.pay 0x30 0 16 = s.hub.power.watts.toNat ∧ t.pay 0x32 0 16 = s.hub.power.cap.toNat ∧
      ∀ n : Fin 13, t.pay (0x10 + 2 * n.val) 0 16 = (s.hub.power.temps.at n).toNat) ∧
    (let w := s.pay 0 0 16
     (w < 600 ∨ 1600 < w → exec .setPowerCap s = .next (s.mboxReject 3)) ∧
     (600 ≤ w → w ≤ 1600 → exec .setPowerCap s = .next ((s.modHub fun h => { h with power := { h.power with
        cap := BitVec.ofNat 16 w } }).modMbox fun m => { m with error := false, detail := 0 })))

/-! ## The host -/

/-- R106, R330, R349 to R352, R355 to R357: the registers of a partition page and of the event ring, an answer to a page request, the oldest
event written where the ring has room, an unmasked vector of a function that exists, the register writes that stand for them, and the host's
accesses to device memory outside recovery mode, which reach no byte past 3 × 2^39. R5, R6, R347 to R352: what a read of the host returns:
every register its value with its reserved bits 0, a register that can only be written 0, and so a misaligned access, an offset without a
register and every page of a virtual function that does not exist; the functions that exist, and the capabilities that no function has. -/
def Obligations.HostInterface : Prop :=
  (∀ (s : State) (v : Fin 16) (n : W32) (w : W64),
     exec (.rlogRd v n) s = .next (s.modPart v fun t => { t with rlogRd := n }) ∧
     exec (.preqRd v n) s = .next ((s.modPart v fun t => { t with preqRd := n }).flushPreqs v) ∧
     exec (.evRd n) s = .next (s.modMbox fun m => { m with evRd := n }) ∧
     exec (.evBase w) s = .next (s.modMbox fun m => { m with evBase := w }) ∧
     (let asked := fun (r : PageReq) => r.part = v ∧ r.id = w.setWidth 16 ∧ r.written = true
      ((∀ r ∈ s.hub.preqs, ¬ asked r) ∨ 2 ≤ bitsOf w.toNat 16 2 → exec (.presp v w) s = .next s) ∧
      (∀ r, s.hub.preqs.find? (fun r => decide (asked r)) = some r → bitsOf w.toNat 16 2 < 2 →
       exec (.presp v w) s = .next ((s.modHub fun h => { h with
         preqs := h.preqs.filter fun q => !(q.part == v && q.id == w.setWidth 16) }).answerPage r (bitsOf w.toNat 16 2 == 1)))) ∧
     (let m := s.hub.mbox
      (m.events = [] ∨ m.evBase = 0 ∨ 64 ≤ (m.evWr - m.evRd).toNat → exec .eventRecordWrite s = .next s) ∧
      (∀ r rest, m.events = r :: rest → m.evBase ≠ 0 → (m.evWr - m.evRd).toNat < 64 →
       let a := memKey 2 (m.evBase.toNat + 64 * (m.evWr.toNat % 64))
       exec .eventRecordWrite s = .next (((s.homePut ((List.range 64).map (a + ·)) r.bytes).modMbox fun m => { m with
         evWr := m.evWr + 1, events := rest }).msi 16 0))) ∧
     (∀ (f : Fin 17) (j : Fin 2048), s.hasFunction f = false → exec (.msixVectorUnmask f j) s = .next s) ∧
     (∀ (f : Fin 17) (j : Fin 2048), s.hasFunction f = true →
       ∃ t : State, exec (.msixVectorUnmask f j) s = .next t ∧ t.mem = s.mem ∧ t.cores = s.cores ∧ (f, j.val) ∉ t.hub.msix.masked ∧
         (∀ e, e ≠ (f, j.val) → (e ∈ t.hub.msix.masked ↔ e ∈ s.hub.msix.masked)) ∧
         t.hub.msix.sent = (if (f, j.val) ∈ s.hub.msix.masked ∧ (f, j.val) ∈ s.hub.msix.held then s.hub.msix.sent ++ [(f, j.val)]
           else s.hub.msix.sent)) ∧
     (∀ (r : HostReg) (o : Nat) (z : Bool), o % (if z then 8 else 4) ≠ 0 → exec (.registerWrite r o z w) s = .next s) ∧
     (∀ (z : Bool) (i : Instr) (r : HostReg) (o : Nat),
       (i, r, o) ∈ [(Instr.evRd (w.setWidth 32), HostReg.mailbox, 0x18), (.rlogRd v (w.setWidth 32), .partition v, 8),
         (.preqRd v (w.setWidth 32), .partition v, 0x18), (.presp v w, .partition v, 0x20)] →
       exec (.registerWrite r o z w) s = exec i s) ∧
     exec (.registerWrite .mailbox 0x20 true w) s = exec (.evBase w) s ∧
     (∀ (z : Bool) (j : Nat),
       (∃ t : State, exec (.registerWrite (.doorbell v j) 0 z w) s = .next t ∧ exec (.doorbellTail v j (w.setWidth 32)) s = .next t) ∧
       (∃ t : State, exec (.registerWrite (.doorbell v j) 0x10 z w) s = .next t ∧ exec (.completionHead v j (w.setWidth 32)) s = .next t)) ∧
     (∀ (f : Fin 17) (j : Fin 2048), w.getLsbD 0 = false →
       exec (.registerWrite (.msixMask f j) 0 true w) s = exec (.msixVectorUnmask f j) s) ∧
     (∀ (a len : Nat) (b : List Byte),
       let place := fun (x : Nat) => memKey 0 (if x < 2 ^ 39 then Config.hbmBase + x else Config.tier2Base + (x - 2 ^ 39))
       let ks := fun (k : Nat) => (List.range k).map fun x => place (a + x)
       let live := s.hub.brock.boot ≠ .recovery
       (¬ live → exec (.hostMemRead a len) s = .next s ∧ exec (.hostMemWrite a b) s = .next s) ∧
       (live → a + len ≤ 3 * 2 ^ 39 →
         let t := (linesOf (ks len)).foldl (fun s l => s.homeRead l) s
         exec (.hostMemRead a len) s = .next (t.modHub fun h => { h with hostData := (ks len).map t.mem.get })) ∧
       (live → 0 < len → 3 * 2 ^ 39 < a + len → exec (.hostMemRead a len) s = .fault .noSuchDpa) ∧
       (live → a + b.length ≤ 3 * 2 ^ 39 → exec (.hostMemWrite a b) s = .next (s.homePut (ks b.length) b)) ∧
       (live → 0 < b.length → 3 * 2 ^ 39 < a + b.length → exec (.hostMemWrite a b) s = .fault .noSuchDpa) ∧
       (∃ t : State, exec (.hostWriteInvalidation a b) s = .next t ∧
         let u := s.homePut ((List.range b.length).map fun i => memKey 2 (a + i)) b
         t.mem = u.mem ∧ t.hub = u.hub ∧ ∀ c x, ((t.core c).ctx.at x).wadr = ((u.core c).ctx.at x).wadr.map fun e => { e with awake := true }))) ∧
  (∀ (s : State) (v : Fin 16) (o : Nat) (z : Bool),
     (∀ r, o % (if z then 8 else 4) ≠ 0 → s.registerRead r o z = 0) ∧
     (let m := s.hub.mbox
      let r := fun (o : Nat) => s.registerRead .mailbox o z
      let n := s.registerRead .mailbox 8 z
      r 0 = 0 ∧ r 0x10 = m.evWr.setWidth 64 ∧ r 0x18 = m.evRd.setWidth 64 ∧
      r 0x20 = (if z then m.evBase else (m.evBase.setWidth 32).setWidth 64) ∧ s.registerRead .mailbox 0x24 false = m.evBase >>> 32 ∧
      n.getLsbD 0 = m.busy ∧ n.getLsbD 1 = m.error ∧ n.getLsbD 2 = m.overrun ∧ (n >>> 16).setWidth 16 = m.detail ∧
      (n >>> 3).setWidth 13 = 0 ∧ n >>> 32 = 0 ∧
      (0x28 ≤ o → o < 0x100 ∨ 0x900 ≤ o → r o = 0) ∧
      (m.payload.wf = true → 0x100 ≤ o → o + 8 ≤ 0x900 → o % 8 = 0 → s.registerRead .mailbox o true = BitVec.ofNat 64 (s.pay (o - 0x100) 0 64))) ∧
     (let r := fun (o : Nat) => s.registerRead (.partition v) o z
      (∀ t, s.hub.parts.at v = some t → r 0 = t.rlogWr.setWidth 64 ∧ r 8 = t.rlogRd.setWidth 64 ∧ r 0x10 = t.preqWr.setWidth 64 ∧
        r 0x18 = t.preqRd.setWidth 64 ∧ (0x20 ≤ o → r o = 0)) ∧
      (s.hub.parts.at v = none → r o = 0 ∧ s.hasFunction (v.castLE (by decide)) = false)) ∧
     (∀ j, let r := fun (o : Nat) => s.registerRead (.doorbell v j) o z
      (∀ q w, s.pageQueue v j = some (q, w) → r 0 = q.tail.setWidth 64 ∧ r 8 = q.head.setWidth 64 ∧ r 0x10 = q.chead.setWidth 64 ∧
        r 0x18 = q.ctail.setWidth 64 ∧ (0x20 ≤ o → r o = 0)) ∧
      (s.pageQueue v j = none → r o = 0)) ∧
     s.hasFunction 16 = true ∧
     (∀ f c, (s.hasFunction f = false → s.hasCapability f c = false) ∧ s.hasCapability f .multiLogical = false ∧
       s.hasCapability f .portRouting = false ∧ (s.hasFunction f = true → s.hasCapability f .msix = true ∧ s.hasCapability f .flr = true) ∧
       (s.hub.brock.boot = .recovery → s.hasCapability f .cache = false ∧ s.hasCapability f .mem = false)))

/-! ## Pre-emption -/

/-- R338, R340 to R344: PREEMPT stops dispatch of a partition that is not being pre-empted, forced where its payload says so or a resident
operator runs; a hold stops every stream of a core; PREEMPTED posts once the runs have retired, or once every core has passed the fence and
is saved, its place free; RESTORE takes a saved partition, whose context resumes, or is lost for the reason found. -/
def Obligations.Preemption : Prop :=
  ∀ (s : State) (p : Fin 16) (c : CoreId),
    (s.hub.mbox.busy = false → s.hub.brock.boot ≠ .recovery → p = Fin.ofNat 16 (s.pay 0 0 4) →
      let mode := s.pay 0 8 1
      let i := if mode = 1 then Instr.preemptForced else .preemptNode
      let done := fun (u : State) => u.modMbox fun m => { m with error := false, detail := 0 }
      (s.hub.parts.at p = none → exec i s = .next (s.mboxReject 7) ∧ exec .restore s = .next (s.mboxReject 7)) ∧
      (∀ t, s.hub.parts.at p = some t →
        let forced := mode = 1 ∨ s.hasResident p = true
        (forced → t.saveBase = 0 → exec i s = .next (s.mboxReject 3)) ∧
        (¬ (forced ∧ t.saveBase = 0) → t.pre ≠ .none → exec i s = .next (s.mboxReject 7)) ∧
        (forced → t.saveBase ≠ 0 → t.pre = .none → exec i s = .next (done (s.modHub fun h => { h with
          parts := h.parts.put p (some { t with pre := .forced, preStart := s.hub.timer.toNat }) }))) ∧
        (¬ forced → t.pre = .none → exec i s = .next (done (s.modHub fun h => { h with
          parts := h.parts.put p (some { t with pre := .node, preStart := s.hub.timer.toNat }) }))) ∧
        (t.pre ≠ .saved → exec .restore s = .next (s.mboxReject 7)) ∧
        (t.pre = .saved → exec .restore s = .next (done (s.modHub fun h => { h with
          parts := h.parts.put p (some { t with pre := .restoring }) }))))) ∧
    (s.partOf c = some p → ∀ t, s.hub.parts.at p = some t →
      (t.pre ≠ .forced ∨ (s.core c).aux.hold = true → exec (.holdReachesCore c) s = .next s) ∧
      (t.pre = .forced → (s.core c).aux.hold = false →
        ∃ u : State, exec (.holdReachesCore c) s = .next u ∧ (u.core c).aux.hold = true ∧ u.mem = s.mem ∧
          (∀ q x, (u.atTurn c q x).mayIssue = false) ∧ ∀ e, e ≠ c → (u.core e).ctx = (s.core e).ctx)) ∧
    (∀ t, s.hub.parts.at p = some t →
      (t.pre ≠ .node → t.pre ≠ .forced → exec (.preempted p) s = .next s) ∧
      (t.pre = .node → s.hasRun p (fun _ => true) = true → exec (.preempted p) s = .next s) ∧
      (t.pre = .node → s.hasRun p (fun _ => true) = false → exec (.preempted p) s = .next ((s.modHub fun h => { h with
        parts := h.parts.put p (some { t with pre := .saved }) }).postPart p 6 0)) ∧
      (t.pre = .forced → (∃ c ∈ coreIds, t.has c = true ∧ s.passed c = false) → exec (.preempted p) s = .next s) ∧
      (t.pre = .forced → (∀ c ∈ coreIds, t.has c = true → s.passed c = true) →
        ∃ u : State, exec (.preempted p) s = .next u ∧ (∃ n, u.hub.parts.at p = some n ∧ n.pre = .saved ∧ n.seqno = t.seqno + 1) ∧
          (∃ e ∈ u.hub.saved, e.part = p ∧ e.clusters = t.clusters) ∧
          ∀ c ∈ coreIds, t.has c = true → (u.core c).mode = .free ∧ (u.core c).aux.next = none) ∧
      (t.pre ≠ .restoring → exec (.restored p) s = .next s) ∧
      (t.pre = .restoring →
        let freed := s.unhold t
        let resume := fun (u : State) => (u.modHub fun h => { h with parts := h.parts.put p (some { t with pre := .none }) }).readyQueues p
        ((s.hub.saved.find? fun e => e.part == p) = none → exec (.restored p) s = .next ((resume freed).postPart p 7 0)) ∧
        (∀ e, (s.hub.saved.find? fun e => e.part == p) = some e →
          (∀ reason, s.restoreReason t e = some reason → exec (.restored p) s = .next (resume (freed.loseContext p reason))) ∧
          (s.restoreReason t e = none → exec (.restored p) s = .next ((resume (((freed.load e).completeSaved e).modHub fun h => { h with
            saved := h.saved.filter fun w => w.part != p })).postPart p 7 0))))) ∧
    (s.hub.parts.at p = none → exec (.preempted p) s = .next s ∧ exec (.restored p) s = .next s)

/-! ## Links and records -/

/-- R299 to R303: a port takes a data flit only in sequence and whole, by the CRC of its bytes and its tag: its sequence number is
remembered, its acknowledgement clears the replay buffer, and it goes on to its die or port; any other is discarded, the eighth in a row
retraining the link; a NAK replays what follows the acknowledged flit; a link that retrains restarts both directions with empty replay
buffers and carries flits again, at 32 lanes after a lane failure, or goes down. R297, R303, R304, R307: the link-state table takes the
state of the package's links and what the management interface has told of others, and a die falls silent toward every destination whose
path has changed; when the silence ends and no link of the path or of those before it is held, the die sends again what awaits answers, then
the answers that have waited; a new key starts with its fixed word and a counter of 0; a key that runs low is marked, an exhausted one holds
data flits, and one not replaced in time takes its link down. -/
def Obligations.Links : Prop :=
  (∀ (s : State) (d : Fin 4) (p : Port),
     let l := s.link d p
     let ends := linkEnds d p
     (∀ (f : Flit) (at_ : List Nat) (noise : List Byte),
       let put := at_.zip noise
        let h := hear (s.direction d p) l.rxFixed f put
       let got := put.foldl (fun b e => b.set e.1 e.2) (imageOf (s.direction d p) f)
       (put = [] → h = ⟨f, true, f.kind == 3 || (f.iv >>> 64).setWidth 32 == l.rxFixed⟩) ∧
       (put ≠ [] → h.crc = (crc64 (got.take 248) == BitVec.ofNat 64 (natOfBytes (got.drop 248))) ∧
         h.flit.hdr = BitVec.ofNat 64 (natOfBytes (got.take 8))) ∧
       (l.isUp = false → exec (.flitReceive d p f at_ noise) s = .next s) ∧
       (l.isUp = true → sibling d p = none →
         let g := h.flit
         let good := h.crc = true ∧ bitsOf g.hdr.toNat 3 9 = 0
         let bad := fun (b : Bool) => exec (.flitReceive d p f at_ noise) s = .next (s.discard d p b g.seq)
         (g.kind = 1 ∨ g.kind = 2 → (good → exec (.flitReceive d p f at_ noise) s = .next (s.heed d p g.ack g.stop)) ∧ (¬ good → bad false)) ∧
         (g.kind ≠ 1 → g.kind ≠ 2 →
           (good → h.tag = true → g.seq = l.rxSeq + 1 →
             exec (.flitReceive d p f at_ noise) s = .next (((s.modLink d p fun l =>
               { l with rxSeq := g.seq, discards := 0, nakSent := false }).heed d p g.ack g.stop).arrive d p g)) ∧
           (good → h.tag = true → g.seq ≠ l.rxSeq + 1 → bad false) ∧ (good → h.tag = false → bad true) ∧ (¬ good → bad false))) ∧
       (l.isUp = true → ∀ e, sibling d p = some e → f.kind ≠ 1 →
         ((s.link e p).wire = [] → exec (.flitReceive d p f at_ noise) s = .next s) ∧
         (∀ g rest, (s.link e p).wire = g :: rest → g.kind = 0 → put = [] → (g.iv >>> 64).setWidth 32 = l.rxFixed →
           bitsOf g.hdr.toNat 3 9 = 0 → g.seq = l.rxSeq + 1 →
           exec (.flitReceive d p f at_ noise) s = .next ((((s.modLink e p fun l => { l with wire := rest }).modLink d p fun l =>
             { l with rxSeq := g.seq, discards := 0, nakSent := false }).heed d p g.ack g.stop).arrive d p g)))) ∧
     (∀ f : Flit, (f.kind = 3 → s.arrive d p f = s.modLink d p fun l => { l with rxFixed := f.h0.setWidth 32 }) ∧
       (f.kind ≠ 3 → 11 ≤ f.rkind → s.hub.fab.out (s.hub.fab.dieAddr d).val f.dst f.dirs = none →
         s.arrive d p f = s.linkRecord d 0x24 p f.rkind)) ∧
     (∀ (b : Bool) (q : BitVec 12) (t : State), t = s.discard d p b q → l.state ≠ .down →
       (l.discards + 1 < 8 → (t.link d p).discards = l.discards + 1 ∧ (t.link d p).nakSent = (l.nakSent || l.discards == 0) ∧ (t.link d p).rxSeq = l.rxSeq) ∧
       (8 ≤ l.discards + 1 → (t.link d p).state = .retraining)) ∧
     (∀ a : BitVec 12,
       let due := ∀ e, sibling d p = some e → (s.link e p).nakSent = true ∧ (s.link e p).rxSeq = a
       (l.isUp = false ∨ ¬ due → exec (.nakReceive d p a) s = .next s) ∧
       (l.isUp = true → due →
         ∃ t : State, exec (.nakReceive d p a) s = .next t ∧ t.mem = s.mem ∧ t.cores = s.cores ∧
           (t.link d p).replay.map (·.seq) = (l.replay.dropWhile fun f => seqLe f.seq a).map (·.seq) ∧
           (t.link d p).replay.map (·.data) = (l.replay.dropWhile fun f => seqLe f.seq a).map (·.data) ∧
           (t.link d p).wire = l.wire ++ (if (sibling d p).isSome = true then (t.link d p).replay else []) ∧
           ∀ e, sibling d p = some e → (t.link e p).nakSent = false)) ∧
     (l.isUp = false → exec (.lossOfLock d p) s = .next s) ∧
     (l.isUp = true →
       ∃ t : State, exec (.lossOfLock d p) s = .next t ∧ t.mem = s.mem ∧ t.cores = s.cores ∧
         ∀ e ∈ ends, (t.link e p).state = .retraining ∧ (t.link e p).txSeq = 0 ∧ (t.link e p).rxSeq = 0xFFF ∧ (t.link e p).replay = [] ∧
           (t.link e p).lanes32 = (s.link e p).lanes32) ∧
     (∀ n : Fin 64,
       (l.state = .down → exec (.laneFailure d p n) s = .next s) ∧
       (l.state ≠ .down → sibling d p = none → ∃ t : State, exec (.laneFailure d p n) s = .next t ∧ t.mem = s.mem ∧ (t.link d p).state = .down) ∧
       (l.state ≠ .down → (sibling d p).isSome = true →
         ∃ t : State, exec (.laneFailure d p n) s = .next t ∧ t.mem = s.mem ∧
           (∀ e ∈ ends, (t.link e p).state = .retraining ∧ (t.link e p).lanes32 = true) ∧
           (l.lanes32 = false → t.hub.errors.replace = true ∨ s.hub.errors.why.getLsbD 1 = true))) ∧
     (l.state ≠ .retraining → exec (.retrainComplete d p) s = .next s ∧ exec (.retrainTimeout d p) s = .next s) ∧
     (l.state = .retraining →
       (let u := s.setLink d p (if l.lanes32 then .half else .full)
        let v := (List.finRange 4).foldl (fun w e => w.resendAll e fun r =>
          !(w.dies.at e).silentTo r.dst && w.hub.fab.passes e r.dst p ends) u
        exec (.retrainComplete d p) s = .next (ends.foldl (fun w e => w.pump e p) v) ∧
          (u.link d p).state = (if l.lanes32 then LinkState.half else .full)) ∧
       exec (.retrainTimeout d p) s = .next (s.setLink d p .down))) ∧
  (∀ (s : State) (d : Fin 4) (p : Port) (a : Fin 64) (w : W32),
     let l := s.link d p
     (let f := s.hub.fab
      let g : Fabric := { f with up := s.ownUp f ++ f.told.filter fun e => !((List.finRange 4).map f.dieAddr).contains e.1 }
      ∃ t : State, exec .linkStateUpdate s = .next t ∧ t.hub.fab = g ∧ t.mem = s.mem ∧ t.cores = s.cores ∧
        ∀ e b, (t.dies.at e).silentTo b = true ↔ (s.dies.at e).silentTo b = true ∨
          (b.val < g.size ∧ f.path (f.dieAddr e).val b.val ≠ g.path (g.dieAddr e).val b.val)) ∧
     ((s.dies.at d).silentTo a = false → exec (.pathSilenceExpiry d a) s = .next s) ∧
     (∀ x, (s.dies.at d).silent.find? (fun x => x.1 == a) = some x →
       (s.pathFree d a x.2 = false → exec (.pathSilenceExpiry d a) s = .next s) ∧
       (s.pathFree d a x.2 = true →
         let u := s.modDie d fun e => { e with silent := e.silent.filter (fun x => x.1 != a), replies := e.replies.filter fun f => f.dst != a.val }
         exec (.pathSilenceExpiry d a) s = .next (((s.dies.at d).replies.filter fun f => f.dst == a.val).foldl (fun v f => v.sendReply d f)
           (u.resendAll d fun r => r.dst == a)))) ∧
     (l.isUp = false → exec (.keyControl d p w) s = .next s) ∧
     (l.isUp = true → l.waiting = [] → l.replay.length < 1024 → l.stop.getLsbD 3 = false →
       ∃ (t : State) (f : Flit), exec (.keyControl d p w) s = .next t ∧ t.mem = s.mem ∧ t.cores = s.cores ∧ (t.link d p).fixed = w ∧
         (t.link d p).keyCtr = 1 ∧ (t.link d p).keyHeld = false ∧ (t.link d p).keyLow = false ∧ (t.link d p).replay = l.replay ++ [f] ∧
         f.kind = 3 ∧ f.seq = l.txSeq ∧ f.h0 = w.setWidth 64) ∧
     (∀ (i : Instr) (n : Nat) (f : Link → Link),
       (i, n, f) ∈ [(Instr.keyLow d p, 2 ^ 40 - 2 ^ 24, fun (l : Link) => { l with keyLow := true }),
         (.keyExhausted d p, 2 ^ 40 - 1, fun (l : Link) => { l with keyHeld := true })] →
       (n ≤ l.keyCtr → exec i s = .next (s.modLink d p f)) ∧ (l.keyCtr < n → exec i s = .next s)) ∧
     (l.exhausted = true → exec (.keyExhaustionTimeout d p) s = .next (s.setLink d p .down)) ∧
     (l.exhausted = false → exec (.keyExhaustionTimeout d p) s = .next s) ∧
     (l.exhausted = true ↔ l.keyHeld = true ∨ 2 ^ 40 - 1 ≤ l.keyCtr) ∧ (l.exhausted = true → s.keyHeld = true) ∧
     (∀ f : Flit, l.exhausted = true → f.kind ≠ 3 → l.maySend f = false) ∧
     (∀ st : LinkState, ((s.setLink d p st).link d p).state = st ∧ (s.setLink d p st).mem = s.mem))

/-- R138, R196, R282, R305, R306, R308, R316 to R319: a request at the ingress of a die, the first of its source on its channel. A duplicate
of one that has been performed is answered with the stored result and performs nothing (a read of more than 16 bytes reads again,
notes/assumptions/40.md); any other is performed, by units or at once, its result stored and answered. Through a remote token whose extent
is held it waits; through a stale one it gives the stale answer. R138, R306: a response answers the one request of its tag and epoch that
awaits it, and is dropped where none does; a request that no work item waits for any more is over with its response. -/
def Obligations.IngressAndResponses : Prop :=
  (∀ (s : State) (d : Fin 4) (k kind : Nat) (n? : Option Nat) (i : Instr) (f : Flit),
     (i, kind) ∈ [(Instr.fabricRead d ⟨k, n?⟩, 0), (.fabricWrite d ⟨k, n?⟩, 1), (.fabricAtomic d k, 2), (.fabricBankUpdate d k, 3),
       (.windowRead d ⟨k, n?⟩, 4), (.windowWrite d ⟨k, n?⟩, 5), (.ready d k, 6), (.xallPiece d ⟨k, n?⟩, 7), (.fredContribution d k, 8), (.fbarArrival d k, 9)] →
     let known := (s.dies.at d).dedupe.find? fun x => x.src.val == f.src && x.tag == f.tag && x.epoch == f.epoch && !Flit.longRead f
     let fresh := fun (t : State) => (t.dies.at d).serving.any (fun e => e.1 == f) = false
     let done := fun (t : State) (r : List Byte) => (t.removeFlit d f).answer d f r
     (s.arrived d kind k = none → exec i s = .next s) ∧
     (s.arrived d kind k = some f →
       (s.isFirst d f = false → exec i s = .next s) ∧
       (s.isFirst d f = true →
         (∀ x, known = some x → exec i s = .next (if x.open_ = 0 then (s.removeFlit d f).respond d f x.result else s.removeFlit d f)) ∧
         (known = none →
           (kind ≤ 3 → ¬ (kind = 3 ∧ f.op = 0xFF) → ∀ t,
             (s.ingressLookup d f = (.held, t) → exec i s = .next t) ∧
             (∀ lost, s.ingressLookup d f = (.stale lost, t) → exec i s = .next (done t [if lost then 3 else 1])) ∧
             (∀ len runs, s.ingressLookup d f = (.near len runs, t) →
               let at_ := fun (n : Nat) => Pin.places len runs f n
               let keys := fun (l : List (Option (Nat × Bool))) => l.filterMap (·.map (·.1))
               let past := fun (l : List (Option (Nat × Bool))) => if l.any (·.isNone) then (8 : Byte) else 0
               (kind = 0 → n? = none → fresh t → (t.watcher f).2.1 = false →
                 let u := (linesOf (keys (at_ f.count))).foldl (fun s l => s.homeRead l) t
                 u.poisoned (keys (at_ f.count)) = none →
                 exec i s = .next (done u (past (at_ f.count) :: (at_ f.count).map fun p => match p with
                   | some (a, _) => u.mem.get a
                   | none => 0))) ∧
               (kind = 1 → t.atomicHeld (keys (at_ f.data.length)) = true → exec i s = .next t) ∧
               (kind = 1 → t.atomicHeld (keys (at_ f.data.length)) = false → n? = none → fresh t → (t.watcher f).2.1 = false →
                 let kv := ((at_ f.data.length).zip f.data).filterMap fun e => e.1.map fun p => (p.1, e.2)
                 exec i s = .next (done (t.homePut (kv.map (·.1)) (kv.map (·.2))) [past (at_ f.data.length)])) ∧
               (kind = 2 → ∀ o key cached r,
                 let n := 2 ^ (f.op / 16 % 4)
                 let x := fun (m : Nat) => BitVec.ofNat 64 (natOfBytes ((f.data.drop m).take n))
                 let w := t.watcher f
                 FamoOp.ofCode (f.op % 16) = some o → (at_ n).mapM id = some ((key, cached) :: r) →
                   let g := t.atomicAt (.req d f) w.1 w.2.1 w.2.2 key n cached (famoNew o n (x 0) (x n))
                   (g.data = none → exec i s = .next g.s) ∧ (∀ l, g.data = some l → exec i s = .next (done g.s (g.acct.flags :: l)))) ∧
               (kind = 3 → (t.watcher f).2.1 = false → ∀ o ty l,
                 let n := recSize ty
                 BkOp.ofCode (f.op % 16) = some o → Ty.ofCode (f.op / 16) = some ty → (at_ n).mapM id = some l →
                   let g := t.bankElement (.req d f) nobody false o ty (natOfBytes (f.data.drop n)) l (f.data.take n)
                   (g.data = none → exec i s = .next g.s) ∧ (∀ x, g.data = some x → exec i s = .next (done g.s (g.acct.flags :: x)))))) ∧
           (∀ c n t, s.windowTarget d f (if kind = 4 then f.count else f.data.length) = (some c, n, t) → n? = none → fresh t →
             (kind = 5 → exec i s = .next (done ((List.range n).foldl (fun s j => s.spadWrite c (f.tgt 0 19 + j) (f.data.getD j 0)) t)
               [if n < f.data.length then 8 else 0])) ∧
             (kind = 4 → ∃ (u : State) (b : List Byte), exec i s = .next (done u ((if n < f.count then 8 else 0) :: b)) ∧ b.length = n ∧
               u.mem = t.mem)) ∧
           (∀ n t, s.windowTarget d f (if kind = 4 then f.count else f.data.length) = (none, n, t) → kind = 4 ∨ kind = 5 →
             exec i s = .next (done t [8])) ∧
           (kind = 6 → exec i s = .next (done (s.modDie d fun e =>
             { e with ready := e.ready ++ [⟨Flit.group f, Flit.rank f, f.data⟩] }) [0])) ∧
           (kind = 7 → s.xallOn d (Flit.group f) = none → exec i s = .next (done s [0])) ∧
           (kind = 7 → ∀ (c : Cmd) (tok off src loc so : W64) (g : Fin 64) (gr : Group) (ds : Desc),
             s.xallOn d (Flit.group f) = some (c, none) → c.body = .xall tok off src loc so g →
             s.hub.fab.groups.at (Flit.group f) = some gr → readDesc gr.parties.length c.opA = some ds →
             let n := f.data.length / ds.e
             let kv := (List.range n).flatMap fun j =>
               (offs (off.toNat + (ds.place gr.parties.length (Flit.rank f) (Flit.first f + j)).2) ds.e).zip (elemBytes ds.e f.data j)
             let w := s.tokWrite c.who c.uid (2 ^ 60 + (Flit.rank f * 2 ^ 32 + Flit.first f) * 2 ^ 9) tok kv none .cr (How.by n? .units)
             (w.data = none → exec i s = .next w.s) ∧
             (w.data ≠ none → exec i s = .next (done (w.s.modCmd c.uid fun c => { c.owe w.acct with parts := c.parts ++ [(n, true)] }) [0]))) ∧
           (kind = 3 ∧ f.op = 0xFF ∨ kind = 8 → ∀ r, readRed f.data = some r →
             let g := s.gather d f r
             let others := (s.dies.at d).gathered.filter fun g => !g.isOf f
             let clear := fun (t : State) => t.modDie d fun e => { e with gathered := e.gathered.filter fun g => !g.isOf f }
             (g.elems (redWidth r.t r.u (kind == 8)) = none → exec i s = .next (done (s.modDie d fun e => { e with gathered := g :: others }) [0])) ∧
             (∀ elems, g.elems (redWidth r.t r.u (kind == 8)) = some elems →
               (kind = 3 → ∀ t, s.ingressLookup d f = (.held, t) → exec i s = .next t) ∧
               (kind = 3 → ∀ lost t, s.ingressLookup d f = (.stale lost, t) → exec i s = .next (done (clear t) [if lost then 3 else 1])) ∧
               (kind = 8 → (s.watcher f).2.1 = false →
                 let a : Arrival := ⟨f.tgt 0 52, r.t, r.u, r.parties, r.rank, 0, some f, elems⟩
                 let v := s.noteTaken d f 1 [0]
                 (∀ w, v.contribute (homeDie a.key) a = (.taken, w) → exec i s = .next ((clear w).removeFlit d f)) ∧
                 (∀ w, v.contribute (homeDie a.key) a = (.wait, w) → exec i s = .next s) ∧
                 (∀ w, v.contribute (homeDie a.key) a = (.discarded, w) → exec i s = .next ((clear (w.partDone d f true)).removeFlit d f))))) ∧
           (kind = 9 → exec i s = .next (done (s.modDie d fun e =>
             let b := e.bar (Flit.group f)
             e.setBar { b with got := (Flit.rank f, max (b.of (Flit.rank f)) (Flit.first f)) :: b.got.filter fun x => x.1 != Flit.rank f })
             [0])))))) ∧
  (∀ (s : State) (d : Fin 4) (k : Nat),
     (s.arrived d 10 k = none → exec (.response d k) s = .next s) ∧
     (∀ f, s.arrived d 10 k = some f →
       let u := s.removeFlit d f
       let fits := fun (r : Req) => r.answer = none ∧ r.dst.val = f.src ∧ r.tag = f.tag ∧ r.flit.epoch = f.epoch
       ((∀ r ∈ (s.dies.at d).reqs, ¬ fits r) → exec (.response d k) s = .next u) ∧
       (∀ r, (s.dies.at d).reqs.find? (fun r => decide (fits r)) = some r →
         let a : Req := { r with answer := some (BitVec.ofNat 8 f.op :: f.data) }
         let v := u.modDie d fun e => { e with reqs := e.reqs.map fun q => if fits q then a else q }
         (r.uid ≠ 0 → exec (.response d k) s = .next (((v.loseLocal a).postedDone d a).settleLoose d a.uid)) ∧
         (r.uid = 0 → exec (.response d k) s = .next ((u.modDie d fun e => { e with reqs := e.reqs.filter fun q => !decide (fits q) }).loseLocal
           a)))))

/-! ## Firmware, errors, power -/

/-- R358, R365, R378: the reset of a virtual function ends the tile runs of its partition and unconfigures its queues, and leaves the Warren and
the Commons; a warm reset (of the PF, by the OAM pin, of an expired watchdog) leaves every core as after reset, and keeps memory, the
flash slots, the timer, REPLACE and the rail floors (update lines aside); a cold reset leaves device memory reading 0.
What a warm reset does to the power cap and the 15,978 µs of the watchdog are the model's reading (notes/assumptions/5.md, 41.md). -/
def Obligations.Resets : Prop :=
  ∀ (s : State) (v : Fin 16) (p : Proc),
    let warm := fun (t : State) => (∀ c, t.core c = Core.reset) ∧ (∀ q, t.hub.parts.at q = none) ∧ t.hub.queues = [] ∧
      t.hub.brock.flash = s.hub.brock.flash ∧ t.hub.brock.minSvn = s.hub.brock.minSvn ∧ t.hub.timer = s.hub.timer ∧
      t.hub.power.cap = 1600 ∧ ((∀ c l, l ∈ (s.core c).l1 → l.isUpdate = false) → t.mem = s.mem ∧ t.poison = s.poison ∧
        t.hub.errors.replace = s.hub.errors.replace ∧ t.hub.errors.why = s.hub.errors.why ∧ t.hub.errors.floors = s.hub.errors.floors)
    (s.hub.parts.at v = none → exec (.flrVf v) s = .next s) ∧
    (∀ t, s.hub.parts.at v = some t →
      ∃ u : State, exec (.flrVf v) s = .next u ∧ (∀ e ∈ u.hub.queues, e.1.part ≠ v) ∧ (∀ r ∈ u.hub.preqs, r.part ≠ v) ∧
        (∀ e ∈ u.hub.saved, e.part ≠ v) ∧ u.hub.parts.at v = some { t with pre := .none } ∧
        (∀ d, (u.dies.at d).warren = (s.dies.at d).warren ∧ (u.dies.at d).commons = (s.dies.at d).commons) ∧
        (∀ c ∈ coreIds, t.has c = true → (u.core c).aux.next = none ∧
          (u.core c).mode = (if (s.core c).mode = .free then CoreMode.free else .checked)) ∧
        ∀ c, t.has c = false → (u.core c).mode = (s.core c).mode ∧ (u.core c).ctx = (s.core c).ctx) ∧
    (∃ t : State, exec .flrPf s = .next t ∧ warm t) ∧
    (s.hub.brock.boot = .off → exec .oamResetPin s = .next s) ∧
    (s.hub.brock.boot ≠ .off → ∃ t : State, exec .oamResetPin s = .next t ∧ warm t) ∧
    (∃ t : State, exec .coldReset s = .next t ∧ (∀ c, t.core c = Core.reset) ∧ t.hub.brock.boot = .off ∧
      t.hub.brock.flash = s.hub.brock.flash ∧ t.hub.brock.minSvn = s.hub.brock.minSvn ∧ t.hub.errors.replace = s.hub.errors.replace ∧
      t.hub.power.cap = 1600 ∧ t.poison = [] ∧ (s.mem.wf = true → ∀ a, t.mem.get a = if a < 2 ^ 52 then 0 else s.mem.get a)) ∧
    exec (.watchdogReport p) s = .next (s.modBrock fun b => { b with
      released := b.released.map fun e => if e.1 = p then (p, s.hub.timer) else e }) ∧
    (let watched := ∃ e ∈ s.hub.brock.released, e.1 = p
     (¬ watched ∨ s.sinceReport p < 15978 → exec (.watchdogExpiry p) s = .next s) ∧
     (watched → 15978 ≤ s.sinceReport p → ∃ t : State, exec (.watchdogExpiry p) s = .next t ∧ warm t ∧ t.hub.frozen = true))

/-- R362 to R364, R366, R368, R375: at power-good Brock takes the valid slot with the higher version, A on a tie, measures its first image and
releases the management processor, or enters recovery mode with Scree frozen; each stage reported ready is followed by the next image, the
last by running; a stage not ready in time after its release fails its slot for this boot; an image set that verifies is put into a slot that is not in
use. The 1,022,611 µs of a stage's time are the model's (notes/assumptions/41.md). -/
def Obligations.Boot : Prop :=
  ∀ (s : State) (d : Fin 4),
    let b := s.hub.brock
    let ok := fun (w : Bool) => slotValid b.minSvn (b.slot w)
    let version := fun (w : Bool) => imageNum (slotImage (b.slot w) 1) 8 4
    (b.boot ≠ .off → exec .powerGood s = .next s) ∧
    (b.boot = .off →
      ∃ t : State, exec .powerGood s = .next t ∧ t.mem = s.mem ∧ (∀ c, t.core c = Core.reset) ∧
        (ok false = false → ok true = false → t.hub.brock.boot = .recovery ∧ t.hub.brock.log = [] ∧ t.hub.frozen = true) ∧
        (∀ w, ok w = true → (ok (!w) = false ∨ version (!w) < version w ∨ (version (!w) = version w ∧ w = false)) →
          t.hub.brock.boot = .booting w 0 ∧ t.hub.brock.log = [Config.shake256 (slotImage (b.slot w) 1)] ∧
          t.hub.brock.released = [(.management, s.hub.timer)] ∧ t.hub.frozen = s.hub.frozen)) ∧
    (∀ w n, b.boot = .booting w n →
      (n.val < 3 →
        ∃ t : State, exec (.stageReady d) s = .next t ∧ t.mem = s.mem ∧ t.cores = s.cores ∧ t.hub.brock.boot = .booting w (n + 1) ∧
          t.hub.brock.log = b.log ++ [Config.shake256 (slotImage (b.slot w) (n.val + 2))]) ∧
      (n = 3 →
        ∃ t : State, exec (.stageReady d) s = .next t ∧ t.mem = s.mem ∧ t.cores = s.cores ∧
          (b.dieReady ||| (1 <<< d.val) ≠ 15 → t.hub.brock.boot = .booting w 3 ∧ t.hub.brock.dieReady = b.dieReady ||| (1 <<< d.val)) ∧
          (b.dieReady ||| (1 <<< d.val) = 15 → t.hub.brock.boot = .running w ∧
            ∀ e ∈ [((0 : Fin 4), Port.xp), (2, .xp), (0, .yp), (1, .yp)], (t.link e.1 e.2).state = .full)) ∧
      ((s.hub.timer - b.stageAt).toNat < 1022611 → exec .stageTimeout s = .next s) ∧
      (1022611 ≤ (s.hub.timer - b.stageAt).toNat →
        ∃ t : State, exec .stageTimeout s = .next t ∧ t.hub.frozen = true ∧ t.mem = s.mem ∧ (∀ c, t.core c = Core.reset) ∧
          (b.failed = 0 → (ok (!w) = true → t.hub.brock.boot = .booting (!w) 0) ∧ (ok (!w) = false → t.hub.brock.boot = .recovery)))) ∧
    ((∀ w n, b.boot ≠ .booting w n) → exec (.stageReady d) s = .next s ∧ exec .stageTimeout s = .next s) ∧
    exec .getMeasurements s = .next (s.modBrock fun b => { b with
      spdm := b.log, spdmSig := Config.identitySign (b.log.flatMap fun m => bytesOfNat 64 m.toNat) }) ∧
    (s.hub.mbox.busy = false →
      let w := s.pay 0 0 1 == 1
      let len := s.pay 8 0 32
      let inUse := (∃ n, b.boot = .booting w n) ∨ b.boot = .running w
      (inUse ∨ 2 ^ 26 < len → exec .recoveryCommit s = .next (s.mboxReject 3)) ∧
      (¬ inUse → len ≤ 2 ^ 26 →
        (splitImages 4 (b.staging.read 0 len) = none → exec .recoveryCommit s = .next (s.mboxReject 5)) ∧
        (∀ l, splitImages 4 (b.staging.read 0 len) = some l →
          (slotValid b.minSvn l = false → exec .recoveryCommit s = .next (s.mboxReject 5)) ∧
          (slotValid b.minSvn l = true →
            ∃ t : State, exec .recoveryCommit s = .next t ∧ t.mem = s.mem ∧ t.hub.mbox.error = false ∧
              t.hub.brock.flash = b.flash.set w.toNat l ∧ (s.pay 0 8 1 = 0 → t.hub.brock.minSvn = b.minSvn) ∧
              b.minSvn.toNat ≤ t.hub.brock.minSvn.toNat))))

/-- R280, R281, R369, R370, R373, R374: corrected errors are counted per instance and judged at the window's end; a scrub that finds a sector
uncorrectable poisons it; a rail moves within its range and not below its floor, a lowering in two steps (notes/assumptions/42.md), with the L2's protection switched before it; a hot sensor or a package above its cap gates new engine
commands; a thermal trip powers the compute dies down. -/
def Obligations.ErrorsAndPower : Prop :=
  ∀ (s : State) (n : ErrInst) (a m : Nat) (j : Fin 36) (t : BitVec 16),
    let e := s.hub.errors
    (∃ u : State, exec (.correctedError n) s = .next u ∧ u.mem = s.mem ∧ u.cores = s.cores ∧
      u.hub.errors.countOf n = e.countOf n + 1 ∧ ∀ o, o ≠ n → u.hub.errors.countOf o = e.countOf o) ∧
    (∃ u : State, exec .errorWindowEnd s = .next u ∧ u.mem = s.mem ∧ u.cores = s.cores ∧ u.hub.errors.counts = [] ∧
      u.hub.errors.window = e.window + 1 ∧
      ((∀ x ∈ e.counts, x.2 ≤ threshold x.1) → u = s.modErrors fun e => { e with counts := [], window := e.window + 1 })) ∧
    (∀ r : ScrubResult,
      (s.inMap a 1 = false ∨ r = .clean → exec (.patrolScrub n a r) s = .next s) ∧
      (s.inMap a 1 = true → r = .corrected → exec (.patrolScrub n a r) s = exec (.correctedError n) s) ∧
      (s.inMap a 1 = true → r = .uncorrectable →
        ∃ u : State, exec (.patrolScrub n a r) s = .next u ∧ u.mem = s.mem ∧ u.cores = s.cores ∧
          ∀ x, x ∈ u.poison ↔ x ∈ s.poison ∨ x = sectorOf (memKey 0 a))) ∧
    (let low := fun (b : Nat) (free held : Nat) => if e.floors.getLsbD b = true then held else free
     let ok := fun (r : Rail) => match r with
       | .vcore d => low d.val 410 450 ≤ m ∧ m ≤ 560
       | .vsram d => low (4 + d.val) 600 700 ≤ m ∧ m ≤ 750
     let p := s.hub.power
     ∀ r : Rail,
       (¬ ok r → exec (.railAdjust r m) s = .next s) ∧
       (ok r → m < p.rail r → p.lowering.at (railNum r) ≠ some m →
         ∃ u : State, exec (.railAdjust r m) s = .next u ∧ u.mem = s.mem ∧ u.cores = s.cores ∧ (∀ q, u.hub.power.rail q = p.rail q) ∧
           u.hub.power.lowering.at (railNum r) = some m ∧
           ∀ d, (u.dies.at d).dected = ((s.dies.at d).dected || (decide (r = .vsram d) && decide (m < Config.l2Threshold)))) ∧
       (ok r → p.rail r ≤ m ∨ p.lowering.at (railNum r) = some m →
         ∃ u : State, exec (.railAdjust r m) s = .next u ∧ u.mem = s.mem ∧ u.cores = s.cores ∧ u.hub.power.rail r = m ∧
           u.hub.power.lowering.at (railNum r) = none ∧ (∀ q, q ≠ r → u.hub.power.rail q = p.rail q) ∧
           ∀ d, (u.dies.at d).dected = (if r = .vsram d then
             decide (m < Config.l2Threshold) || ((s.dies.at d).dected && m == Config.l2Threshold) else (s.dies.at d).dected))) ∧
    (∃ u : State, exec (.thermalThrottle j t) s = .next u ∧ u.mem = s.mem ∧ u.cores = s.cores ∧
      u.hub.power.temps.at (Fin.ofNat 13 (j.val / 8)) = t ∧ u.hub.power.gated = (decide (100 ≤ t.toNat) || s.hub.power.gated)) ∧
    (∃ u : State, exec (.powerCapReached t) s = .next u ∧ u.mem = s.mem ∧ u.cores = s.cores ∧ u.hub.power.watts = t ∧
      u.hub.power.gated = (decide (s.hub.power.cap.toNat < t.toNat) || s.hub.power.gated)) ∧
    (t.toNat < 110 → exec (.thermalTrip j t) s = .next (s.modPower fun p => { p with temps := p.temps.put (Fin.ofNat 13 (j.val / 8)) t })) ∧
    (110 ≤ t.toNat →
      ∃ u : State, exec (.thermalTrip j t) s = .next u ∧ u.hub.power.tripped = true ∧ u.hub.frozen = true ∧ (∀ c, u.core c = Core.reset) ∧
        u.hub.queues.all (fun q => (s.hub.parts.at q.1.part).isNone) = true ∧ ∀ g, u.setts.at g = Sett.reset)

/-! ## What words leave unchanged; the whole machine -/

/-- R145, R226: the frame of the words that write a scalar register, and of those that write an EX operand. On every path, traps and waits among
them, memory and every other core stay as they are. A scalar word that issues changes no register but sD, no predicate, branch target,
loop counter, control register, token, binding, window, no LD, ST or EX state, and nothing outside its core; an EX word that issues, beside
results of earlier words that land, changes no state of CTL, LD or ST. -/
def Obligations.RegisterWordFrames : Prop :=
  ∀ (s t : State) (y : Ring) (d a b : Fin 32) (p : Fin 8) (n : Bool) (j w : Fin 64) (m : BitVec 12) (l : BitVec 17) (h : BitVec 16)
    (e f g : Opnd) (i : Instr),
    exec i s = .next t →
    (∀ regs, (i, regs) ∈ [
        (Instr.add y d a b, [a, b]), (.addS y d a b, [a, b]), (.sub y d a b, [a, b]), (.subS y d a b, [a, b]),
        (.and y d a b, [a, b]), (.or y d a b, [a, b]), (.xor y d a b, [a, b]), (.shl y d a b, [a, b]),
        (.shr y d a b, [a, b]), (.sra y d a b, [a, b]), (.mul y d a b, [a, b]), (.mulS y d a b, [a, b]),
        (.mulh y d a b, [a, b]), (.mulhn y d a b, [a, b]), (.div y d a b, [a, b]), (.divn y d a b, [a, b]),
        (.rem y d a b, [a, b]), (.remn y d a b, [a, b]), (.min y d a b, [a, b]), (.max y d a b, [a, b]),
        (.minn y d a b, [a, b]), (.maxn y d a b, [a, b]), (.clz y d a, [a]), (.popc y d a, [a]), (.addi y d a m, [a]),
        (.andi y d a m, [a]), (.ori y d a m, [a]), (.xori y d a m, [a]), (.shli y d a j, [a]), (.shri y d a j, [a]),
        (.srai y d a j, [a]), (.li y d l, []), (.lih y d h, [d]), (.ext y d a j w, [a]), (.ins y d a j w, [d, a]),
        (.sel y d a b p n, [a, b])] →
      t.mem = s.mem ∧ (∀ c, c ≠ s.cur.core → t.core c = s.core c) ∧
      (s.cur.q = .ctl → s.clear (s.plain y i) = true → s.busyS regs = false → s.busyD [d] = false → s.busyP [p] = false → j.val + w.val < 64 →
        t.hub = s.hub ∧ t.dies = s.dies ∧ t.tus = s.tus ∧ t.setts = s.setts ∧ t.poison = s.poison ∧
        t.me.cr = s.me.cr ∧ t.me.k = s.me.k ∧ t.me.binds = s.me.binds ∧ t.me.wins = s.me.wins ∧ t.me.frames = s.me.frames ∧
        t.me.ld = s.me.ld ∧ t.me.st = s.me.st ∧ t.me.ex = s.me.ex ∧ t.me.values = s.me.values ∧ t.me.outcomes = s.me.outcomes ∧
        t.me.streams = s.me.streams ∧ t.me.spad = s.me.spad ∧ t.me.l1 = s.me.l1 ∧ t.me.cmds = s.me.cmds ∧ t.me.mode = s.me.mode ∧
        t.me.hand = s.me.hand ∧
        (∀ x r, s.me.destOf x r ≠ s.me.destOf s.cur.x d → t.me.readS x r = s.me.readS x r) ∧
        (∀ x, (t.me.ctx.at x).flow.p = (s.me.ctx.at x).flow.p ∧ (t.me.ctx.at x).flow.bt = (s.me.ctx.at x).flow.bt ∧
          (t.me.ctx.at x).flow.lc = (s.me.ctx.at x).flow.lc ∧ (t.me.ctx.at x).flow.budget = (s.me.ctx.at x).flow.budget) ∧
        ∀ x, x ≠ s.cur.x → t.me.ctx.at x = s.me.ctx.at x)) ∧
    (∀ srcs, (i, srcs) ∈ [
        (Instr.faddBf16 y e f g, [f, g]), (.faddF32 y e f g, [f, g]), (.fmaBf16 y e f g, [f, g]), (.fmaF32 y e f g, [f, g]),
        (.fmaxBf16 y e f g, [f, g]), (.fmaxF32 y e f g, [f, g]), (.fminBf16 y e f g, [f, g]), (.fminF32 y e f g, [f, g]),
        (.fmsBf16 y e f g, [f, g]), (.fmsF32 y e f g, [f, g]), (.fmulBf16 y e f g, [f, g]), (.fmulF32 y e f g, [f, g]),
        (.fnmaBf16 y e f g, [f, g]), (.fnmaF32 y e f g, [f, g]), (.fselBf16 y e f g, [f, g]), (.fselF32 y e f g, [f, g]),
        (.fsubBf16 y e f g, [f, g]), (.fsubF32 y e f g, [f, g]), (.iaddI16 y e f g, [f, g]), (.iaddI16S y e f g, [f, g]),
        (.iaddI32 y e f g, [f, g]), (.iaddI32S y e f g, [f, g]), (.iaddI8 y e f g, [f, g]), (.iaddI8S y e f g, [f, g]),
        (.iaddN16S y e f g, [f, g]), (.iaddN32S y e f g, [f, g]), (.iaddN8S y e f g, [f, g]), (.iand y e f g, [f, g]),
        (.imacI16 y e f g, [f, g]), (.imacI32 y e f g, [f, g]), (.imacI8 y e f g, [f, g]), (.imaxI16 y e f g, [f, g]),
        (.imaxI32 y e f g, [f, g]), (.imaxI8 y e f g, [f, g]), (.imaxN16 y e f g, [f, g]), (.imaxN32 y e f g, [f, g]),
        (.imaxN8 y e f g, [f, g]), (.iminI16 y e f g, [f, g]), (.iminI32 y e f g, [f, g]), (.iminI8 y e f g, [f, g]),
        (.iminN16 y e f g, [f, g]), (.iminN32 y e f g, [f, g]), (.iminN8 y e f g, [f, g]), (.imulI16 y e f g, [f, g]),
        (.imulI32 y e f g, [f, g]), (.imulI8 y e f g, [f, g]), (.ior y e f g, [f, g]), (.ishlI16 y e f g, [f, g]),
        (.ishlI32 y e f g, [f, g]), (.ishlI8 y e f g, [f, g]), (.ishrI16 y e f g, [f, g]), (.ishrI32 y e f g, [f, g]),
        (.ishrI8 y e f g, [f, g]), (.israI16 y e f g, [f, g]), (.israI32 y e f g, [f, g]), (.israI8 y e f g, [f, g]),
        (.isubI16 y e f g, [f, g]), (.isubI16S y e f g, [f, g]), (.isubI32 y e f g, [f, g]), (.isubI32S y e f g, [f, g]),
        (.isubI8 y e f g, [f, g]), (.isubI8S y e f g, [f, g]), (.isubN16S y e f g, [f, g]), (.isubN32S y e f g, [f, g]),
        (.isubN8S y e f g, [f, g]), (.ixor y e f g, [f, g]), (.perm y e f g, [f, g]), (.redF32 y e f, [f]), (.redI32 y e f, [f]),
        (.scanF32 y e f, [f]), (.exp2F32 y e f, [f]), (.lg2F32 y e f, [f]), (.rcpF32 y e f, [f]), (.rsqF32 y e f, [f]),
        (.mov y e f, [f]), (.rot y e f j, [f]), (.bcst y e f j, [f])] →
      t.mem = s.mem ∧ (∀ c, c ≠ s.cur.core → t.core c = s.core c) ∧
      (s.cur.q = .ex → s.clear (s.plain y i) = true → s.me.streamWait (Opnd.sources srcs) (Place.opnd e).stream = none →
        t.hub = s.hub ∧ t.dies = s.dies ∧ t.tus = s.tus ∧ t.setts = s.setts ∧ t.poison = s.poison ∧
        t.me.ctx = s.me.ctx ∧ t.me.ld = s.me.ld ∧ t.me.st = s.me.st ∧ t.me.cells = s.me.cells ∧ t.me.k = s.me.k ∧
        t.me.binds = s.me.binds ∧ t.me.hand = s.me.hand ∧ t.me.values = s.me.values ∧ t.me.outcomes = s.me.outcomes ∧
        t.me.l1 = s.me.l1 ∧ t.me.cmds = s.me.cmds ∧ t.me.mode = s.me.mode))

/-- R4, R355, R378: every step keeps memory, the scratchpads, the payload of the mailbox and the upload window in canonical form, from every
state in which they are, so that what they hold is one value for each address. -/
def Obligations.StepsKeepCanonical : Prop := ∀ s t : State, s.Canonical → step s = .next t → t.Canonical

/-- R354, R355: what stops the machine: an access of the host past the two ranges that CXL.mem exposes, and a ring or an operator record at a
device address of no memory. Every other instruction goes on in every state, and nothing is refused. -/
def Obligations.StopsOnlyWhere : Prop :=
  (∀ (i : Instr) (s : State), (∃ t, exec i s = .next t) ∨
    (exec i s = .fault .noSuchDpa ∧ ((∃ a n, i = .hostMemRead a n ∧ 3 * 2 ^ 39 < a + n) ∨
      ∃ a b, i = .hostMemWrite a b ∧ 3 * 2 ^ 39 < a + b.length)) ∨
    (exec i s = .fault .noSuchRing ∧ ((∃ c, i = .shadowBankFill c) ∨
      ∃ q, i ∈ [Instr.completionRecordWrite q, .packetNop q, .launch q, .push q, .signal q, .unknownPacketType q]))) ∧
  ∀ (s : State) (r : Refusal), step s ≠ .refused r
end

