-- ==== Sys2Proof/Laws/Access.lean ====
section
/-! SUPPORT. The pin lookup of a token: of another generation than its entry's, or with its entry ACTIVE and in the pin store (R136, R137); bytes of the own
scratchpad (R203). -/

namespace Sys2Proof.Machine

/-- A token of another generation is stale, and nothing changes; software has not written over the entry (R135). -/
theorem State.pin_stale {s : State} {c : CoreId} {tok : W64} {rd wr : Bool}
    (h : s.pinGen (s.core c).cr.pinBase (tokIndex tok) ≠ tokGen tok) (ho : s.overwritten (s.core c).cr.pinBase (tokIndex tok) = false) :
    s.pin c tok rd wr = (.stale false, s) := by
  simp only [State.pin, ho]
  split
  · rfl
  · split
    · rfl
    · simp [h]

/-- The lookup of a token of an ACTIVE entry gives the entry's runs and only moves the entry to the front of its store. -/
theorem State.pin_hit {s : State} {c : CoreId} {tok : W64} {rd wr : Bool} {part : Fin 16} {p : PinRuns}
    (h1 : (!tokValid tok || tokRsv tok || (rd && !tokRd tok) || (wr && !tokWr tok)) = false)
    (h2 : s.pinState (s.core c).cr.pinBase (tokIndex tok) = 1)
    (h3 : s.pinGen (s.core c).cr.pinBase (tokIndex tok) = tokGen tok) (h4 : s.partOf c = some part)
    (h5 : s.pinRemote (s.core c).cr.pinBase (tokIndex tok) = false)
    (h6 : s.storedPin c (s.core c).cr.pinBase (tokIndex tok) (tokGen tok) = some p)
    (h7 : s.overwritten (s.core c).cr.pinBase (tokIndex tok) = false) :
    s.pin c tok rd wr = (.near p.len p.runs, s.storePin (tuOf c) p) := by
  simp [State.pin, h1, h2, h3, h4, h5, h6, h7]

/-- Bytes below T and outside the spill region are read as they stand, and nothing changes. -/
theorem State.ownRead_plain {s : State} {c : CoreId} (addrs : List Nat)
    (h : ∀ a ∈ addrs, (s.ownOffset c a).all (fun p => !(s.core c).inSpill p) = true ∧ (s.ownOffset c a).isSome = true) :
    s.ownRead c addrs = (addrs.map (fun a => match s.ownOffset c a with
      | some p => ((s.core c).spadGet p).getD 0
      | none => 0), false, s) := by
  have key : ∀ (l : List Nat) (acc : List Byte), (∀ a ∈ l, (s.ownOffset c a).all (fun p => !(s.core c).inSpill p) = true ∧
      (s.ownOffset c a).isSome = true) → l.foldl (fun (acc : List Byte × Bool × State) a => match acc.2.2.ownOffset c a with
        | none => (0 :: acc.1, true, acc.2.2)
        | some o => ((acc.2.2.spadRead c o).1 :: acc.1, acc.2.1, (acc.2.2.spadRead c o).2)) (acc, false, s) =
      ((l.map fun a => match s.ownOffset c a with
        | some p => ((s.core c).spadGet p).getD 0
        | none => 0).reverse ++ acc, false, s) := by
    intro l
    induction l with
    | nil => intro acc _; rfl
    | cons a l ih =>
      intro acc g
      obtain ⟨g1, g2⟩ := g a (List.mem_cons_self ..)
      obtain ⟨p, hp⟩ := Option.isSome_iff_exists.mp g2
      have e : s.spadRead c p = (((s.core c).spadGet p).getD 0, s) := by
        simp [hp] at g1
        simp [State.spadRead, g1]
      simp only [List.foldl_cons, hp, e]
      rw [ih _ fun b hb => g b (List.mem_cons_of_mem _ hb)]
      simp [hp]
  have d : s.ownRead c addrs = (fun r : List Byte × Bool × State => (r.1.reverse, r.2))
      (addrs.foldl (fun (acc : List Byte × Bool × State) a => match acc.2.2.ownOffset c a with
        | none => (0 :: acc.1, true, acc.2.2)
        | some o => ((acc.2.2.spadRead c o).1 :: acc.1, acc.2.1, (acc.2.2.spadRead c o).2)) ([], false, s)) := rfl
  rw [d, key addrs [] h]
  simp

end Sys2Proof.Machine
end

