-- ==== Sys2Proof/Laws/Encoding.lean ====
section
/-! SUPPORT. Laws of fields, codes and words: each code reads back as what it encodes, and decodeBytes on the bytes of words. -/

namespace Sys2Proof

theorem Ring.code_lt (y : Ring) : y.code < 16 := by
  obtain ⟨a, b, c, d⟩ := y
  cases a <;> cases b <;> cases c <;> cases d <;> decide

theorem Ring.ofWord_of {w : Nat} {y : Ring} (h : fld w 28 4 = y.code) : Ring.ofWord w = y := by
  obtain ⟨a, b, c, d⟩ := y
  simp only [fld, Ring.code] at h
  have h31 : fld w 31 1 = a.toNat := by
    simp only [fld]; cases a <;> cases b <;> cases c <;> cases d <;> simp at h ⊢ <;> omega
  have h30 : fld w 30 1 = b.toNat := by
    simp only [fld]; cases a <;> cases b <;> cases c <;> cases d <;> simp at h ⊢ <;> omega
  have h29 : fld w 29 1 = c.toNat := by
    simp only [fld]; cases a <;> cases b <;> cases c <;> cases d <;> simp at h ⊢ <;> omega
  have h28 : fld w 28 1 = d.toNat := by
    simp only [fld]; cases a <;> cases b <;> cases c <;> cases d <;> simp at h ⊢ <;> omega
  simp only [Ring.ofWord, flag, h31, h30, h29, h28]
  cases a <;> cases b <;> cases c <;> cases d <;> rfl

theorem flag_of {w lo : Nat} {b : Bool} (h : fld w lo 1 = b.toNat) : flag w lo = b := by
  simp only [flag, h]; cases b <;> rfl

theorem bvf_of {len w lo : Nat} {m : BitVec len} (h : fld w lo len = m.toNat) : bvf len w lo = m := by
  simp [bvf, h]

theorem Wait.code_lt (m : Wait) : Wait.code m < 64 := by
  cases m with
  | none => decide
  | some n => have := n.isLt; simp only [Wait.code]; omega

theorem Wait.ofCode_code (m : Wait) : Wait.ofCode (Wait.code m) = some m := by
  cases m with
  | none => rfl
  | some n =>
    have := n.isLt
    have h : (32 + n.val) % 32 = n.val := by omega
    simp [Wait.code, Wait.ofCode, h]

theorem Waits.code_lt (w : Waits) : w.code < 262144 := by
  have h1 := Wait.code_lt w.w1
  have h2 := Wait.code_lt w.w2
  have h3 := Wait.code_lt w.w3
  simp only [Waits.code]; omega

theorem Waits.ofWord_of {w lo : Nat} {a : Waits} (h : fld w lo 18 = a.code) (f : Waits → Decoded) : Waits.ofWord w lo f = f a := by
  have h1 := Wait.code_lt a.w1
  have h2 := Wait.code_lt a.w2
  have h3 := Wait.code_lt a.w3
  have e1 : fld w (lo + 12) 6 = Wait.code a.w1 := by
    simp only [fld, Waits.code, Nat.pow_add, ← Nat.div_div_eq_div_mul] at *; omega
  have e2 : fld w (lo + 6) 6 = Wait.code a.w2 := by
    simp only [fld, Waits.code, Nat.pow_add, ← Nat.div_div_eq_div_mul] at *; omega
  have e3 : fld w lo 6 = Wait.code a.w3 := by
    simp only [fld, Waits.code] at *; omega
  simp [Waits.ofWord, e1, e2, e3, Wait.ofCode_code, withCode]

theorem Cond.code_lt (c : Cond) : c.code < 16 := by cases c <;> decide
theorem Cond.ofCode_code (c : Cond) : Cond.ofCode c.code = some c := by cases c <;> rfl
theorem Scope.code_lt (c : Scope) : c.code < 8 := by cases c <;> decide
theorem Scope.ofCode_code (c : Scope) : Scope.ofCode c.code = some c := by cases c <;> rfl
theorem Ty.code_lt (c : Ty) : c.code < 16 := by cases c <;> decide
theorem Ty.ofCode_code (c : Ty) : Ty.ofCode c.code = some c := by cases c <;> rfl
theorem Size.code_lt (c : Size) : c.code < 8 := by cases c <;> decide
theorem Size.ofCode_code (c : Size) : Size.ofCode c.code = some c := by cases c <;> rfl
theorem PsetOp.code_lt (c : PsetOp) : c.code < 8 := by cases c <;> decide
theorem PsetOp.ofCode_code (c : PsetOp) : PsetOp.ofCode c.code = some c := by cases c <;> rfl
theorem FrameSize.code_lt (c : FrameSize) : c.code < 8 := by cases c <;> decide
theorem FrameSize.ofCode_code (c : FrameSize) : FrameSize.ofCode c.code = some c := by cases c <;> rfl
theorem AmoOp.code_lt (c : AmoOp) : c.code < 16 := by cases c <;> decide
theorem AmoOp.ofCode_code (c : AmoOp) : AmoOp.ofCode c.code = some c := by cases c <;> rfl
theorem UpdOp.code_lt (c : UpdOp) : c.code < 8 := by cases c <;> decide
theorem UpdOp.ofCode_code (c : UpdOp) : UpdOp.ofCode c.code = some c := by cases c <;> rfl
theorem BkOp.code_lt (c : BkOp) : c.code < 16 := by cases c <;> decide
theorem BkOp.ofCode_code (c : BkOp) : BkOp.ofCode c.code = some c := by cases c <;> rfl
theorem FunaOp.code_lt (c : FunaOp) : c.code < 128 := by cases c <;> decide
theorem FunaOp.ofCode_code (c : FunaOp) : FunaOp.ofCode c.code = some c := by cases c <;> rfl
theorem CvtOp.code_lt (c : CvtOp) : c.code < 128 := by cases c <;> decide
theorem CvtOp.ofCode_code (c : CvtOp) : CvtOp.ofCode c.code = some c := by cases c <;> rfl
theorem MlogOp.code_lt (c : MlogOp) : c.code < 16 := by cases c <;> decide
theorem MlogOp.ofCode_code (c : MlogOp) : MlogOp.ofCode c.code = some c := by cases c <;> rfl
theorem Target.code_lt (c : Target) : c.code < 4 := by cases c <;> decide
theorem Target.ofCode_code (c : Target) : Target.ofCode c.code = some c := by cases c <;> rfl
theorem CReg.code_lt (c : CReg) : c.code < 1024 := by cases c <;> decide
theorem CReg.ofCode_code (c : CReg) : CReg.ofCode c.code = some c := by cases c <;> rfl
theorem FamoOp.code_lt (c : FamoOp) : c.code < 16 := by
  cases c with
  | amo o => cases o <;> decide
  | cas => decide
theorem FamoOp.ofCode_code (c : FamoOp) : FamoOp.ofCode c.code = some c := by
  cases c with
  | amo o => cases o <;> rfl
  | cas => rfl

theorem BrCond.code_lt (c : BrCond) : c.code < 16 := by
  cases c with
  | bq => decide
  | p k => have := k.isLt; simp only [BrCond.code]; omega

theorem BrCond.ofCode_code (c : BrCond) : BrCond.ofCode c.code = some c := by
  cases c with
  | bq => rfl
  | p k => fin_cases k <;> rfl

theorem Opnd.code_lt (o : Opnd) : o.code < 128 := by
  cases o <;> simp only [Opnd.code] <;> omega

theorem Opnd.ofCode_code (o : Opnd) : Opnd.ofCode o.code = some o := by
  cases o with
  | zh n => fin_cases n <;> rfl
  | zv n => fin_cases n <;> rfl
  | zd n => fin_cases n <;> rfl
  | q n => fin_cases n <;> rfl
  | b n => fin_cases n <;> rfl
  | zero => rfl
  | lane => rfl

theorem levelOf_val (l : Fin 7) : levelOf l.val = some l := by simp [levelOf]

theorem ex1_of {w : Nat} {d a : Opnd} (hd : fld w 14 7 = d.code) (ha : fld w 7 7 = a.code) (h : (d.dst && a.src) = true)
    (f : Opnd → Opnd → Decoded) : ex1 w f = f d a := by
  simp [ex1, hd, ha, Opnd.ofCode_code, withCode, need, h]

theorem ex2_of {w : Nat} {d a b : Opnd} (hd : fld w 14 7 = d.code) (ha : fld w 7 7 = a.code) (hb : fld w 0 7 = b.code)
    (h : (d.dst && a.src && b.src) = true) (f : Opnd → Opnd → Opnd → Decoded) : ex2 w f = f d a b := by
  simp only [Bool.and_eq_true] at h
  simp [ex2, ex1_of hd ha (by simp [h.1.1, h.1.2]), hb, Opnd.ofCode_code, withCode, need, h.2]

theorem Opnd.dst_of_isZ {d : Opnd} (h : d.isZ = true) : d.dst = true := by cases d <;> simp_all [Opnd.isZ, Opnd.dst]

theorem ex3_of {w : Nat} {d a b : Opnd} (hd : fld w 14 7 = d.code) (ha : fld w 7 7 = a.code) (hb : fld w 0 7 = b.code)
    (h : (d.isZ && a.src && b.src) = true) (f : Opnd → Opnd → Opnd → Decoded) : ex3 w f = f d a b := by
  simp only [Bool.and_eq_true] at h
  simp [ex3, ex2_of hd ha hb (by simp [Opnd.dst_of_isZ h.1.1, h.1.2, h.2]), need, h.1.1]

theorem ex1z_of {w : Nat} {d a : Opnd} (hd : fld w 14 7 = d.code) (ha : fld w 7 7 = a.code) (hb : fld w 0 7 = 0)
    (h : (d.dst && a.src) = true) (f : Opnd → Opnd → Decoded) : ex1z w f = f d a := by
  simp [ex1z, ex1_of hd ha h, hb, need]

theorem exCmp_of {ok : Cond → Bool} {w : Nat} {c : Cond} {m : Fin 8} {a b : Opnd} (hc : fld w 17 4 = c.code) (hm : fld w 14 3 = m.val)
    (ha : fld w 7 7 = a.code) (hb : fld w 0 7 = b.code) (h : (ok c && a.src && b.src) = true)
    (f : Cond → Fin 8 → Opnd → Opnd → Decoded) : exCmp ok w f = f c m a b := by
  have hm' : (fin 3 w 14 : Fin 8) = m := Fin.ext hm
  simp [exCmp, hc, ha, hb, hm', Opnd.ofCode_code, Cond.ofCode_code, withCode, need] at h ⊢
  simp [h]

theorem second_of {v : Nat} {m : Fin 32} {a : Waits} (h : fld v 10 18 = a.code) (hn : a.names m = false) (f : Waits → Decoded) :
    second v m f = f a := by
  simp [second, Waits.ofWord_of h, need, hn]

theorem wordOfBytes_bytesOfWord {w : Nat} (h : w < 4294967296) : wordOfBytes (bytesOfWord w) = w := by
  simp [wordOfBytes, bytesOfWord]; omega

theorem bytesOfWord_length (w : Nat) : (bytesOfWord w).length = 4 := rfl

/-- One word at the start of any bytes. -/
theorem decodeBytes_one {q : Seq} {w : Nat} {i : Instr} (h : w < 4294967296) (ht : twoWord q w = false)
    (hd : ∀ v, decode q w v = .ok i) (rest : List Byte) : decodeBytes q (bytesOfWord w ++ rest) = (.ok i, 4) := by
  have ht4 : (bytesOfWord w ++ rest).take 4 = bytesOfWord w := rfl
  simp only [decodeBytes, ht4, wordOfBytes_bytesOfWord h, hd, ht]
  simp [bytesOfWord]

/-- Two words at the start of any bytes. -/
theorem decodeBytes_two {q : Seq} {w v : Nat} {i : Instr} (h : w < 4294967296) (hv : v < 4294967296) (ht : twoWord q w = true)
    (hd : decode q w (some v) = .ok i) (rest : List Byte) : decodeBytes q (bytesOfWord w ++ (bytesOfWord v ++ rest)) = (.ok i, 8) := by
  have ht4 : (bytesOfWord w ++ (bytesOfWord v ++ rest)).take 4 = bytesOfWord w := rfl
  have ht8 : ((bytesOfWord w ++ (bytesOfWord v ++ rest)).drop 4).take 4 = bytesOfWord v := rfl
  have hl : ¬ (bytesOfWord w ++ (bytesOfWord v ++ rest)).length < 8 := by simp [bytesOfWord]
  have hl4 : ¬ (bytesOfWord w ++ (bytesOfWord v ++ rest)).length < 4 := by simp [bytesOfWord]
  simp only [decodeBytes, ht4, ht8, hl, hl4, if_false, wordOfBytes_bytesOfWord h, wordOfBytes_bytesOfWord hv, hd, ht, if_true]

/-! ## Words as fields -/

/-- Bits of a list of fields (width, value), the most significant first. -/
def bits : List (Nat × Nat) → Nat
  | [] => 0
  | (n, _) :: r => n + bits r

/-- The number that a list of fields makes. -/
def pack : List (Nat × Nat) → Nat
  | [] => 0
  | (_, v) :: r => v * 2 ^ bits r + pack r

/-- Every value fits its width. -/
def Fits : List (Nat × Nat) → Prop
  | [] => True
  | (n, v) :: r => v < 2 ^ n ∧ Fits r

theorem pack_lt : ∀ {l : List (Nat × Nat)}, Fits l → pack l < 2 ^ bits l
  | [], _ => by decide
  | (n, v) :: r, h => by
    have ih := pack_lt h.2
    have hv : v + 1 ≤ 2 ^ n := h.1
    calc v * 2 ^ bits r + pack r < v * 2 ^ bits r + 2 ^ bits r := by omega
      _ = (v + 1) * 2 ^ bits r := by rw [Nat.add_mul]; omega
      _ ≤ 2 ^ n * 2 ^ bits r := Nat.mul_le_mul_right _ hv
      _ = 2 ^ (n + bits r) := (Nat.pow_add ..).symm

/-- A field of a word is its value. -/
theorem fld_pack : ∀ (pre : List (Nat × Nat)) (n v : Nat) (post : List (Nat × Nat)), Fits (pre ++ (n, v) :: post) →
    fld (pack (pre ++ (n, v) :: post)) (bits post) n = v
  | [], n, v, post, h => by
    have hl := pack_lt h.2
    have hv : v < 2 ^ n := h.1
    simp only [List.nil_append, pack, fld]
    rw [Nat.add_comm, Nat.add_mul_div_right _ _ (Nat.two_pow_pos _), Nat.div_eq_of_lt hl, Nat.zero_add, Nat.mod_eq_of_lt hv]
  | (m, u) :: pre, n, v, post, h => by
    have ih := fld_pack pre n v post h.2
    have hb : bits (pre ++ (n, v) :: post) = bits pre + (n + bits post) := by
      clear ih h
      induction pre with
      | nil => simp [bits]
      | cons a r ih => obtain ⟨x, z⟩ := a; simp only [List.cons_append, bits, ih]; omega
    simp only [List.cons_append, pack, fld, hb]
    have e : u * 2 ^ (bits pre + (n + bits post)) = u * 2 ^ bits pre * 2 ^ n * 2 ^ bits post := by
      rw [Nat.pow_add, Nat.pow_add, Nat.mul_assoc, Nat.mul_assoc]
    rw [e, Nat.add_comm, Nat.add_mul_div_right _ _ (Nat.two_pow_pos _), Nat.add_mul_mod_self_right]
    exact ih

/-- Field i of a word made of a list of fields. -/
theorem fieldAt {w : Nat} {l : List (Nat × Nat)} (hw : w = pack l) (hf : Fits l) (i : Nat) (hi : i < l.length) :
    fld w (bits (l.drop (i + 1))) (l[i]'hi).1 = (l[i]'hi).2 := by
  subst hw
  have e : l = l.take i ++ ((l[i]'hi).1, (l[i]'hi).2) :: l.drop (i + 1) := by
    simp
  have h : Fits (l.take i ++ ((l[i]'hi).1, (l[i]'hi).2) :: l.drop (i + 1)) := e ▸ hf
  have r := fld_pack (l.take i) (l[i]'hi).1 (l[i]'hi).2 (l.drop (i + 1)) h
  rwa [← e] at r

/-- A field within a field. -/
theorem fld_within {w p n v i m : Nat} (h : fld w p n = v) (hm : i + m ≤ n) : fld w (p + i) m = fld v i m := by
  subst h
  simp only [fld]
  rw [Nat.pow_add, ← Nat.div_div_eq_div_mul]
  have hn : n = i + (n - i) := by omega
  rw [hn, Nat.pow_add, Nat.mod_mul_right_div_self]
  have hk : n - i = m + (n - i - m) := by omega
  rw [hk, Nat.pow_add, Nat.mod_mul_right_mod]

/-! ## Which decoder reads a word -/

theorem decode_common {q : Seq} {w : Nat} {v : Option Nat} {i : Instr} (m : Nat) (hm : fld w 22 6 = m) (h : m < 13 ∧ m ≠ 11)
    (hd : decodeCommon q w 0 = .ok i) : twoWord q w = false ∧ decode q w v = .ok i := by
  obtain ⟨h1, h2⟩ := h
  have ht : twoWord q w = false := by
    cases q <;> simp only [twoWord, hm] <;> simp <;> omega
  exact ⟨ht, by simp [decode, ht, hm, h1, hd]⟩

theorem decode_common2 {q : Seq} {w v : Nat} {i : Instr} (hm : fld w 22 6 = 11) (hv : fld v 28 4 = 0)
    (hd : decodeCommon q w v = .ok i) : twoWord q w = true ∧ decode q w (some v) = .ok i := by
  have ht : twoWord q w = true := by cases q <;> simp [twoWord, hm]
  exact ⟨ht, by simp [decode, ht, hm, hd, ring2, hv]⟩

theorem decode_ctl1 {w : Nat} {v : Option Nat} {i : Instr} (m : Nat) (hm : fld w 22 6 = m)
    (h : (decide (13 ≤ m) && !(m == 0x2C || m == 0x2D || m == 0x3A || m == 0x3B)) = true) (hd : decodeCtl w 0 = .ok i) :
    twoWord .ctl w = false ∧ decode .ctl w v = .ok i := by
  simp only [Bool.and_eq_true, decide_eq_true_eq, Bool.not_eq_true', Bool.or_eq_false_iff, beq_eq_false_iff_ne] at h
  have ht : twoWord .ctl w = false := by simp [twoWord, hm, h]; omega
  have hc : ¬ m < 13 := by omega
  exact ⟨ht, by simp [decode, ht, hm, hc, hd]⟩

theorem decode_ctl2 {w v : Nat} {i : Instr} (m : Nat) (hm : fld w 22 6 = m)
    (h : (m == 0x2C || m == 0x2D || m == 0x3A || m == 0x3B) = true) (hv : fld v 28 4 = 0) (hd : decodeCtl w v = .ok i) :
    twoWord .ctl w = true ∧ decode .ctl w (some v) = .ok i := by
  have ht : twoWord .ctl w = true := by simp only [twoWord, hm]; simp at h ⊢; omega
  have hc : ¬ m < 13 := by simp at h; omega
  exact ⟨ht, by simp [decode, ht, hm, hc, hd, ring2, hv]⟩

theorem decode_ld1 {w : Nat} {v : Option Nat} {i : Instr} (m : Nat) (hm : fld w 22 6 = m)
    (h : (decide (13 ≤ m) && !(m == 0x0E || m == 0x0F)) = true) (hd : decodeLdSt false w 0 = .ok i) :
    twoWord .ld w = false ∧ decode .ld w v = .ok i := by
  simp only [Bool.and_eq_true, decide_eq_true_eq, Bool.not_eq_true', Bool.or_eq_false_iff, beq_eq_false_iff_ne] at h
  have ht : twoWord .ld w = false := by simp [twoWord, hm, h]; omega
  have hc : ¬ m < 13 := by omega
  exact ⟨ht, by simp [decode, ht, hm, hc, hd]⟩

theorem decode_ld2 {w v : Nat} {i : Instr} (m : Nat) (hm : fld w 22 6 = m) (h : (m == 0x0E || m == 0x0F) = true) (hv : fld v 28 4 = 0)
    (hd : decodeLdSt false w v = .ok i) : twoWord .ld w = true ∧ decode .ld w (some v) = .ok i := by
  have ht : twoWord .ld w = true := by simp only [twoWord, hm]; simp at h ⊢; omega
  have hc : ¬ m < 13 := by simp at h; omega
  exact ⟨ht, by simp [decode, ht, hm, hc, hd, ring2, hv]⟩

theorem decode_st1 {w : Nat} {v : Option Nat} {i : Instr} (m : Nat) (hm : fld w 22 6 = m)
    (h : (decide (13 ≤ m) && !(m == 0x0E || m == 0x0F || m == 0x16)) = true) (hd : decodeLdSt true w 0 = .ok i) :
    twoWord .st w = false ∧ decode .st w v = .ok i := by
  simp only [Bool.and_eq_true, decide_eq_true_eq, Bool.not_eq_true', Bool.or_eq_false_iff, beq_eq_false_iff_ne] at h
  have ht : twoWord .st w = false := by simp [twoWord, hm, h]; omega
  have hc : ¬ m < 13 := by omega
  exact ⟨ht, by simp [decode, ht, hm, hc, hd]⟩

theorem decode_st2 {w v : Nat} {i : Instr} (m : Nat) (hm : fld w 22 6 = m) (h : (m == 0x0E || m == 0x0F || m == 0x16) = true)
    (hv : fld v 28 4 = 0) (hd : decodeLdSt true w v = .ok i) : twoWord .st w = true ∧ decode .st w (some v) = .ok i := by
  have ht : twoWord .st w = true := by simp only [twoWord, hm]; simp at h ⊢; omega
  have hc : ¬ m < 13 := by simp at h; omega
  exact ⟨ht, by simp [decode, ht, hm, hc, hd, ring2, hv]⟩

theorem fld_half {w m : Nat} (h : fld w 21 7 = m) : fld w 22 6 = m / 2 := by
  have hl : m < 128 := h ▸ Nat.mod_lt _ (by decide)
  have e : fld w 22 6 = fld m 1 6 := fld_within (i := 1) (m := 6) h (by omega)
  rw [e]
  simp only [fld]
  omega

theorem decode_ex1 {w : Nat} {v : Option Nat} {i : Instr} (m : Nat) (hm : fld w 21 7 = m) (h : 26 ≤ m) (hd : decodeEx w = .ok i) :
    twoWord .ex w = false ∧ decode .ex w v = .ok i := by
  have hh := fld_half hm
  have ht : twoWord .ex w = false := by simp [twoWord, hh]; omega
  have hc : ¬ m / 2 < 13 := by omega
  exact ⟨ht, by simp [decode, ht, hh, hc, hd]⟩

/-! ## Round trips -/

theorem Instr.streams_of_wf {q : Seq} {i : Instr} (h : i.wf q = true) : i.streams.contains q = true := by
  simp only [Instr.wf, Bool.and_eq_true] at h
  exact h.1

theorem Instr.operands_of_wf {q : Seq} {i : Instr} (h : i.wf q = true) : i.operandsOk q = true := by
  simp only [Instr.wf, Bool.and_eq_true] at h
  exact h.2

theorem only_ctl {q : Seq} (h : [Seq.ctl].contains q = true) : q = .ctl := by cases q <;> simp_all
theorem only_ld {q : Seq} (h : [Seq.ld].contains q = true) : q = .ld := by cases q <;> simp_all
theorem only_ex {q : Seq} (h : [Seq.ex].contains q = true) : q = .ex := by cases q <;> simp_all
theorem only_st {q : Seq} (h : [Seq.st].contains q = true) : q = .st := by cases q <;> simp_all
theorem ctl_or_st {q : Seq} (h : [Seq.ctl, Seq.st].contains q = true) : q = .ctl ∨ q = .st := by cases q <;> simp_all
theorem ld_or_st {q : Seq} (h : [Seq.ld, Seq.st].contains q = true) : q = .ld ∨ q = .st := by cases q <;> simp_all
theorem not_ctl {q : Seq} (h : [Seq.ld, Seq.ex, Seq.st].contains q = true) : q ≠ .ctl := by cases q <;> simp_all
theorem no_stream {q : Seq} (h : ([] : List Seq).contains q = true) : False := by simp at h

theorem roundtrip_one {q : Seq} {l : List (Nat × Nat)} {i : Instr} (e : encode q i = [pack l]) (hf : Fits l) (hb : bits l = 32)
    (hd : ∀ w, w = pack l → ∀ v, twoWord q w = false ∧ decode q w v = .ok i) (rest : List Byte) :
    decodeBytes q ((encode q i).flatMap bytesOfWord ++ rest) = (.ok i, 4 * (encode q i).length) := by
  have h := pack_lt hf
  rw [hb] at h
  rw [e]
  simpa using decodeBytes_one h (hd _ rfl none).1 (fun v => (hd _ rfl v).2) rest

theorem roundtrip_two {q : Seq} {l k : List (Nat × Nat)} {i : Instr} (e : encode q i = [pack l, pack k]) (hf : Fits l) (hb : bits l = 32)
    (hg : Fits k) (hk : bits k = 32)
    (hd : ∀ w v, w = pack l → v = pack k → twoWord q w = true ∧ decode q w (some v) = .ok i) (rest : List Byte) :
    decodeBytes q ((encode q i).flatMap bytesOfWord ++ rest) = (.ok i, 4 * (encode q i).length) := by
  have h := pack_lt hf
  rw [hb] at h
  have h' := pack_lt hg
  rw [hk] at h'
  rw [e]
  simpa using decodeBytes_two h h' (hd _ _ rfl rfl).1 (hd _ _ rfl rfl).2 rest

/-- The fields of an EX word (R51). -/
abbrev exFields (y : Ring) (maj d a b : Nat) : List (Nat × Nat) := [(4, y.code), (7, maj), (7, d), (7, a), (7, b)]

theorem exFields_fits (y : Ring) {maj d a b : Nat} (hm : maj < 128) (hd : d < 128) (ha : a < 128) (hb : b < 128) :
    Fits (exFields y maj d a b) := ⟨y.code_lt, hm, hd, ha, hb, trivial⟩

theorem exFields_eq (y : Ring) (maj d a b : Nat) : w7 y maj (e3 d a b) = pack (exFields y maj d a b) := by
  simp only [w7, e3, pack, bits]; omega

/-- A word of EX with a destination and two sources. -/
theorem ex2_word (y : Ring) (maj : Nat) (d a b : Opnd) (mk : Ring → Opnd → Opnd → Opnd → Instr) {i : Instr}
    (e : encode .ex i = [w7 y maj (e3 d.code a.code b.code)]) (hi : mk y d a b = i) (hm : 26 ≤ maj ∧ maj < 128)
    (ho : (d.dst && a.src && b.src) = true)
    (hd : ∀ w, fld w 21 7 = maj → decodeEx w = ex2 w fun d a b => .ok (mk (Ring.ofWord w) d a b)) (rest : List Byte) :
    decodeBytes .ex ((encode .ex i).flatMap bytesOfWord ++ rest) = (.ok i, 4 * (encode .ex i).length) := by
  have hf := exFields_fits y hm.2 d.code_lt a.code_lt b.code_lt
  rw [exFields_eq] at e
  have qm : fld (pack (exFields y maj d.code a.code b.code)) 21 7 = maj := fld_pack [(4, y.code)] 7 maj _ hf
  refine roundtrip_one e hf rfl (fun w hw v => decode_ex1 maj (hw ▸ qm) hm.1 (hw ▸ ?_)) rest
  have q1 : fld (pack (exFields y maj d.code a.code b.code)) 14 7 = d.code := fld_pack [(4, y.code), (7, maj)] 7 d.code _ hf
  have q2 : fld (pack (exFields y maj d.code a.code b.code)) 7 7 = a.code := fld_pack [(4, y.code), (7, maj), (7, d.code)] 7 a.code _ hf
  have q3 : fld (pack (exFields y maj d.code a.code b.code)) 0 7 = b.code :=
    fld_pack [(4, y.code), (7, maj), (7, d.code), (7, a.code)] 7 b.code [] hf
  have q4 : Ring.ofWord (pack (exFields y maj d.code a.code b.code)) = y := Ring.ofWord_of (fld_pack [] 4 y.code _ hf)
  rw [hd _ qm, ex2_of q1 q2 q3 ho, q4, hi]

/-- A word of EX whose destination is its addend too. -/
theorem ex3_word (y : Ring) (maj : Nat) (d a b : Opnd) (mk : Ring → Opnd → Opnd → Opnd → Instr) {i : Instr}
    (e : encode .ex i = [w7 y maj (e3 d.code a.code b.code)]) (hi : mk y d a b = i) (hm : 26 ≤ maj ∧ maj < 128)
    (ho : (d.isZ && a.src && b.src) = true)
    (hd : ∀ w, fld w 21 7 = maj → decodeEx w = ex3 w fun d a b => .ok (mk (Ring.ofWord w) d a b)) (rest : List Byte) :
    decodeBytes .ex ((encode .ex i).flatMap bytesOfWord ++ rest) = (.ok i, 4 * (encode .ex i).length) := by
  have hf := exFields_fits y hm.2 d.code_lt a.code_lt b.code_lt
  rw [exFields_eq] at e
  have qm : fld (pack (exFields y maj d.code a.code b.code)) 21 7 = maj := fld_pack [(4, y.code)] 7 maj _ hf
  refine roundtrip_one e hf rfl (fun w hw v => decode_ex1 maj (hw ▸ qm) hm.1 (hw ▸ ?_)) rest
  have q1 : fld (pack (exFields y maj d.code a.code b.code)) 14 7 = d.code := fld_pack [(4, y.code), (7, maj)] 7 d.code _ hf
  have q2 : fld (pack (exFields y maj d.code a.code b.code)) 7 7 = a.code := fld_pack [(4, y.code), (7, maj), (7, d.code)] 7 a.code _ hf
  have q3 : fld (pack (exFields y maj d.code a.code b.code)) 0 7 = b.code :=
    fld_pack [(4, y.code), (7, maj), (7, d.code), (7, a.code)] 7 b.code [] hf
  have q4 : Ring.ofWord (pack (exFields y maj d.code a.code b.code)) = y := Ring.ofWord_of (fld_pack [] 4 y.code _ hf)
  rw [hd _ qm, ex3_of q1 q2 q3 ho, q4, hi]

/-- A word of EX with a destination and one source, its third field zero. -/
theorem ex1z_word (y : Ring) (maj : Nat) (d a : Opnd) (mk : Ring → Opnd → Opnd → Instr) {i : Instr}
    (e : encode .ex i = [w7 y maj (e3 d.code a.code 0)]) (hi : mk y d a = i) (hm : 26 ≤ maj ∧ maj < 128)
    (ho : (d.dst && a.src) = true)
    (hd : ∀ w, fld w 21 7 = maj → decodeEx w = ex1z w fun d a => .ok (mk (Ring.ofWord w) d a)) (rest : List Byte) :
    decodeBytes .ex ((encode .ex i).flatMap bytesOfWord ++ rest) = (.ok i, 4 * (encode .ex i).length) := by
  have hf := exFields_fits y hm.2 d.code_lt a.code_lt (b := 0) (by decide)
  rw [exFields_eq] at e
  have qm : fld (pack (exFields y maj d.code a.code 0)) 21 7 = maj := fld_pack [(4, y.code)] 7 maj _ hf
  refine roundtrip_one e hf rfl (fun w hw v => decode_ex1 maj (hw ▸ qm) hm.1 (hw ▸ ?_)) rest
  have q1 : fld (pack (exFields y maj d.code a.code 0)) 14 7 = d.code := fld_pack [(4, y.code), (7, maj)] 7 d.code _ hf
  have q2 : fld (pack (exFields y maj d.code a.code 0)) 7 7 = a.code := fld_pack [(4, y.code), (7, maj), (7, d.code)] 7 a.code _ hf
  have q3 : fld (pack (exFields y maj d.code a.code 0)) 0 7 = 0 :=
    fld_pack [(4, y.code), (7, maj), (7, d.code), (7, a.code)] 7 0 [] hf
  have q4 : Ring.ofWord (pack (exFields y maj d.code a.code 0)) = y := Ring.ofWord_of (fld_pack [] 4 y.code _ hf)
  rw [hd _ qm, ex1z_of q1 q2 q3 ho, q4, hi]

/-- A comparison of EX. -/
theorem exCmp_word (y : Ring) (maj : Nat) (ok : Cond → Bool) (c : Cond) (m : Fin 8) (a b : Opnd)
    (mk : Ring → Cond → Fin 8 → Opnd → Opnd → Instr) {i : Instr}
    (e : encode .ex i = [w7 y maj (e3 (c.code * 8 + m.val) a.code b.code)]) (hi : mk y c m a b = i) (hm : 26 ≤ maj ∧ maj < 128)
    (ho : (ok c && a.src && b.src) = true)
    (hd : ∀ w, fld w 21 7 = maj → decodeEx w = exCmp ok w fun c m a b => .ok (mk (Ring.ofWord w) c m a b)) (rest : List Byte) :
    decodeBytes .ex ((encode .ex i).flatMap bytesOfWord ++ rest) = (.ok i, 4 * (encode .ex i).length) := by
  have hf : Fits [(4, y.code), (7, maj), (4, c.code), (3, m.val), (7, a.code), (7, b.code)] :=
    ⟨y.code_lt, hm.2, c.code_lt, m.isLt, a.code_lt, b.code_lt, trivial⟩
  have ew : w7 y maj (e3 (c.code * 8 + m.val) a.code b.code) =
      pack [(4, y.code), (7, maj), (4, c.code), (3, m.val), (7, a.code), (7, b.code)] := by
    simp only [w7, e3, pack, bits]; omega
  rw [ew] at e
  have qm : fld (pack [(4, y.code), (7, maj), (4, c.code), (3, m.val), (7, a.code), (7, b.code)]) 21 7 = maj :=
    fld_pack [(4, y.code)] 7 maj _ hf
  refine roundtrip_one e hf rfl (fun w hw v => decode_ex1 maj (hw ▸ qm) hm.1 (hw ▸ ?_)) rest
  have q1 : fld (pack [(4, y.code), (7, maj), (4, c.code), (3, m.val), (7, a.code), (7, b.code)]) 17 4 = c.code := fld_pack [(4, y.code), (7, maj)] 4 c.code _ hf
  have q2 : fld (pack [(4, y.code), (7, maj), (4, c.code), (3, m.val), (7, a.code), (7, b.code)]) 14 3 = m.val := fld_pack [(4, y.code), (7, maj), (4, c.code)] 3 m.val _ hf
  have q3 : fld (pack [(4, y.code), (7, maj), (4, c.code), (3, m.val), (7, a.code), (7, b.code)]) 7 7 = a.code := fld_pack [(4, y.code), (7, maj), (4, c.code), (3, m.val)] 7 a.code _ hf
  have q4 : fld (pack [(4, y.code), (7, maj), (4, c.code), (3, m.val), (7, a.code), (7, b.code)]) 0 7 = b.code := fld_pack [(4, y.code), (7, maj), (4, c.code), (3, m.val), (7, a.code)] 7 b.code [] hf
  have q5 : Ring.ofWord (pack [(4, y.code), (7, maj), (4, c.code), (3, m.val), (7, a.code), (7, b.code)]) = y := Ring.ofWord_of (fld_pack [] 4 y.code _ hf)
  rw [hd _ qm, exCmp_of q1 q2 q3 q4 ho, q5, hi]

end Sys2Proof
end

