-- ==== Sys2Proof/Laws/State.lean ====
section
/-! SUPPORT. One lemma per field and update of the state and of a core: what the update leaves, and what the core it changes becomes. -/

namespace Sys2Proof.Machine

/-! ## Updates of the state -/

@[simp] theorem State.setCore_agenda (s : State) (c : CoreId) (k : Core) : (s.setCore c k).agenda = s.agenda := rfl
@[simp] theorem State.setCore_draws (s : State) (c : CoreId) (k : Core) : (s.setCore c k).draws = s.draws := rfl
@[simp] theorem State.setCore_cur (s : State) (c : CoreId) (k : Core) : (s.setCore c k).cur = s.cur := rfl
@[simp] theorem State.setCore_nextUid (s : State) (c : CoreId) (k : Core) : (s.setCore c k).nextUid = s.nextUid := rfl
@[simp] theorem State.setCore_mem (s : State) (c : CoreId) (k : Core) : (s.setCore c k).mem = s.mem := rfl
@[simp] theorem State.setCore_poison (s : State) (c : CoreId) (k : Core) : (s.setCore c k).poison = s.poison := rfl
@[simp] theorem State.setCore_setts (s : State) (c : CoreId) (k : Core) : (s.setCore c k).setts = s.setts := rfl
@[simp] theorem State.setCore_tus (s : State) (c : CoreId) (k : Core) : (s.setCore c k).tus = s.tus := rfl
@[simp] theorem State.setCore_dies (s : State) (c : CoreId) (k : Core) : (s.setCore c k).dies = s.dies := rfl
@[simp] theorem State.setCore_hub (s : State) (c : CoreId) (k : Core) : (s.setCore c k).hub = s.hub := rfl
@[simp] theorem State.modCore_agenda (s : State) (c : CoreId) (f : Core → Core) : (s.modCore c f).agenda = s.agenda := rfl
@[simp] theorem State.modCore_draws (s : State) (c : CoreId) (f : Core → Core) : (s.modCore c f).draws = s.draws := rfl
@[simp] theorem State.modCore_cur (s : State) (c : CoreId) (f : Core → Core) : (s.modCore c f).cur = s.cur := rfl
@[simp] theorem State.modCore_nextUid (s : State) (c : CoreId) (f : Core → Core) : (s.modCore c f).nextUid = s.nextUid := rfl
@[simp] theorem State.modCore_mem (s : State) (c : CoreId) (f : Core → Core) : (s.modCore c f).mem = s.mem := rfl
@[simp] theorem State.modCore_poison (s : State) (c : CoreId) (f : Core → Core) : (s.modCore c f).poison = s.poison := rfl
@[simp] theorem State.modCore_setts (s : State) (c : CoreId) (f : Core → Core) : (s.modCore c f).setts = s.setts := rfl
@[simp] theorem State.modCore_tus (s : State) (c : CoreId) (f : Core → Core) : (s.modCore c f).tus = s.tus := rfl
@[simp] theorem State.modCore_dies (s : State) (c : CoreId) (f : Core → Core) : (s.modCore c f).dies = s.dies := rfl
@[simp] theorem State.modCore_hub (s : State) (c : CoreId) (f : Core → Core) : (s.modCore c f).hub = s.hub := rfl
@[simp] theorem State.modHub_agenda (s : State) (f : Hub → Hub) : (s.modHub f).agenda = s.agenda := rfl
@[simp] theorem State.modHub_draws (s : State) (f : Hub → Hub) : (s.modHub f).draws = s.draws := rfl
@[simp] theorem State.modHub_cur (s : State) (f : Hub → Hub) : (s.modHub f).cur = s.cur := rfl
@[simp] theorem State.modHub_nextUid (s : State) (f : Hub → Hub) : (s.modHub f).nextUid = s.nextUid := rfl
@[simp] theorem State.modHub_mem (s : State) (f : Hub → Hub) : (s.modHub f).mem = s.mem := rfl
@[simp] theorem State.modHub_poison (s : State) (f : Hub → Hub) : (s.modHub f).poison = s.poison := rfl
@[simp] theorem State.modHub_cores (s : State) (f : Hub → Hub) : (s.modHub f).cores = s.cores := rfl
@[simp] theorem State.modHub_setts (s : State) (f : Hub → Hub) : (s.modHub f).setts = s.setts := rfl
@[simp] theorem State.modHub_tus (s : State) (f : Hub → Hub) : (s.modHub f).tus = s.tus := rfl
@[simp] theorem State.modHub_dies (s : State) (f : Hub → Hub) : (s.modHub f).dies = s.dies := rfl
@[simp] theorem State.modDie_agenda (s : State) (d : Fin 4) (f : Die → Die) : (s.modDie d f).agenda = s.agenda := rfl
@[simp] theorem State.modDie_draws (s : State) (d : Fin 4) (f : Die → Die) : (s.modDie d f).draws = s.draws := rfl
@[simp] theorem State.modDie_cur (s : State) (d : Fin 4) (f : Die → Die) : (s.modDie d f).cur = s.cur := rfl
@[simp] theorem State.modDie_nextUid (s : State) (d : Fin 4) (f : Die → Die) : (s.modDie d f).nextUid = s.nextUid := rfl
@[simp] theorem State.modDie_mem (s : State) (d : Fin 4) (f : Die → Die) : (s.modDie d f).mem = s.mem := rfl
@[simp] theorem State.modDie_poison (s : State) (d : Fin 4) (f : Die → Die) : (s.modDie d f).poison = s.poison := rfl
@[simp] theorem State.modDie_cores (s : State) (d : Fin 4) (f : Die → Die) : (s.modDie d f).cores = s.cores := rfl
@[simp] theorem State.modDie_setts (s : State) (d : Fin 4) (f : Die → Die) : (s.modDie d f).setts = s.setts := rfl
@[simp] theorem State.modDie_tus (s : State) (d : Fin 4) (f : Die → Die) : (s.modDie d f).tus = s.tus := rfl
@[simp] theorem State.modDie_hub (s : State) (d : Fin 4) (f : Die → Die) : (s.modDie d f).hub = s.hub := rfl
@[simp] theorem State.modSett_agenda (s : State) (g : Fin 64) (f : Sett → Sett) : (s.modSett g f).agenda = s.agenda := rfl
@[simp] theorem State.modSett_draws (s : State) (g : Fin 64) (f : Sett → Sett) : (s.modSett g f).draws = s.draws := rfl
@[simp] theorem State.modSett_cur (s : State) (g : Fin 64) (f : Sett → Sett) : (s.modSett g f).cur = s.cur := rfl
@[simp] theorem State.modSett_nextUid (s : State) (g : Fin 64) (f : Sett → Sett) : (s.modSett g f).nextUid = s.nextUid := rfl
@[simp] theorem State.modSett_mem (s : State) (g : Fin 64) (f : Sett → Sett) : (s.modSett g f).mem = s.mem := rfl
@[simp] theorem State.modSett_poison (s : State) (g : Fin 64) (f : Sett → Sett) : (s.modSett g f).poison = s.poison := rfl
@[simp] theorem State.modSett_cores (s : State) (g : Fin 64) (f : Sett → Sett) : (s.modSett g f).cores = s.cores := rfl
@[simp] theorem State.modSett_tus (s : State) (g : Fin 64) (f : Sett → Sett) : (s.modSett g f).tus = s.tus := rfl
@[simp] theorem State.modSett_dies (s : State) (g : Fin 64) (f : Sett → Sett) : (s.modSett g f).dies = s.dies := rfl
@[simp] theorem State.modSett_hub (s : State) (g : Fin 64) (f : Sett → Sett) : (s.modSett g f).hub = s.hub := rfl
@[simp] theorem State.modTu_agenda (s : State) (t : Fin 16) (f : Tu → Tu) : (s.modTu t f).agenda = s.agenda := rfl
@[simp] theorem State.modTu_draws (s : State) (t : Fin 16) (f : Tu → Tu) : (s.modTu t f).draws = s.draws := rfl
@[simp] theorem State.modTu_cur (s : State) (t : Fin 16) (f : Tu → Tu) : (s.modTu t f).cur = s.cur := rfl
@[simp] theorem State.modTu_nextUid (s : State) (t : Fin 16) (f : Tu → Tu) : (s.modTu t f).nextUid = s.nextUid := rfl
@[simp] theorem State.modTu_mem (s : State) (t : Fin 16) (f : Tu → Tu) : (s.modTu t f).mem = s.mem := rfl
@[simp] theorem State.modTu_poison (s : State) (t : Fin 16) (f : Tu → Tu) : (s.modTu t f).poison = s.poison := rfl
@[simp] theorem State.modTu_cores (s : State) (t : Fin 16) (f : Tu → Tu) : (s.modTu t f).cores = s.cores := rfl
@[simp] theorem State.modTu_setts (s : State) (t : Fin 16) (f : Tu → Tu) : (s.modTu t f).setts = s.setts := rfl
@[simp] theorem State.modTu_dies (s : State) (t : Fin 16) (f : Tu → Tu) : (s.modTu t f).dies = s.dies := rfl
@[simp] theorem State.modTu_hub (s : State) (t : Fin 16) (f : Tu → Tu) : (s.modTu t f).hub = s.hub := rfl
@[simp] theorem State.modMe_agenda (s : State) (f : Core → Core) : (s.modMe f).agenda = s.agenda := rfl
@[simp] theorem State.modMe_draws (s : State) (f : Core → Core) : (s.modMe f).draws = s.draws := rfl
@[simp] theorem State.modMe_cur (s : State) (f : Core → Core) : (s.modMe f).cur = s.cur := rfl
@[simp] theorem State.modMe_nextUid (s : State) (f : Core → Core) : (s.modMe f).nextUid = s.nextUid := rfl
@[simp] theorem State.modMe_mem (s : State) (f : Core → Core) : (s.modMe f).mem = s.mem := rfl
@[simp] theorem State.modMe_poison (s : State) (f : Core → Core) : (s.modMe f).poison = s.poison := rfl
@[simp] theorem State.modMe_setts (s : State) (f : Core → Core) : (s.modMe f).setts = s.setts := rfl
@[simp] theorem State.modMe_tus (s : State) (f : Core → Core) : (s.modMe f).tus = s.tus := rfl
@[simp] theorem State.modMe_dies (s : State) (f : Core → Core) : (s.modMe f).dies = s.dies := rfl
@[simp] theorem State.modMe_hub (s : State) (f : Core → Core) : (s.modMe f).hub = s.hub := rfl
@[simp] theorem State.modMyFlow_agenda (s : State) (f : Flow → Flow) : (s.modMyFlow f).agenda = s.agenda := rfl
@[simp] theorem State.modMyFlow_draws (s : State) (f : Flow → Flow) : (s.modMyFlow f).draws = s.draws := rfl
@[simp] theorem State.modMyFlow_cur (s : State) (f : Flow → Flow) : (s.modMyFlow f).cur = s.cur := rfl
@[simp] theorem State.modMyFlow_nextUid (s : State) (f : Flow → Flow) : (s.modMyFlow f).nextUid = s.nextUid := rfl
@[simp] theorem State.modMyFlow_mem (s : State) (f : Flow → Flow) : (s.modMyFlow f).mem = s.mem := rfl
@[simp] theorem State.modMyFlow_poison (s : State) (f : Flow → Flow) : (s.modMyFlow f).poison = s.poison := rfl
@[simp] theorem State.modMyFlow_setts (s : State) (f : Flow → Flow) : (s.modMyFlow f).setts = s.setts := rfl
@[simp] theorem State.modMyFlow_tus (s : State) (f : Flow → Flow) : (s.modMyFlow f).tus = s.tus := rfl
@[simp] theorem State.modMyFlow_dies (s : State) (f : Flow → Flow) : (s.modMyFlow f).dies = s.dies := rfl
@[simp] theorem State.modMyFlow_hub (s : State) (f : Flow → Flow) : (s.modMyFlow f).hub = s.hub := rfl
@[simp] theorem State.modMyCtx_agenda (s : State) (f : Ctx → Ctx) : (s.modMyCtx f).agenda = s.agenda := rfl
@[simp] theorem State.modMyCtx_draws (s : State) (f : Ctx → Ctx) : (s.modMyCtx f).draws = s.draws := rfl
@[simp] theorem State.modMyCtx_cur (s : State) (f : Ctx → Ctx) : (s.modMyCtx f).cur = s.cur := rfl
@[simp] theorem State.modMyCtx_nextUid (s : State) (f : Ctx → Ctx) : (s.modMyCtx f).nextUid = s.nextUid := rfl
@[simp] theorem State.modMyCtx_mem (s : State) (f : Ctx → Ctx) : (s.modMyCtx f).mem = s.mem := rfl
@[simp] theorem State.modMyCtx_poison (s : State) (f : Ctx → Ctx) : (s.modMyCtx f).poison = s.poison := rfl
@[simp] theorem State.modMyCtx_setts (s : State) (f : Ctx → Ctx) : (s.modMyCtx f).setts = s.setts := rfl
@[simp] theorem State.modMyCtx_tus (s : State) (f : Ctx → Ctx) : (s.modMyCtx f).tus = s.tus := rfl
@[simp] theorem State.modMyCtx_dies (s : State) (f : Ctx → Ctx) : (s.modMyCtx f).dies = s.dies := rfl
@[simp] theorem State.modMyCtx_hub (s : State) (f : Ctx → Ctx) : (s.modMyCtx f).hub = s.hub := rfl
@[simp] theorem State.writeS_agenda (s : State) (n : Fin 32) (v : W64) : (s.writeS n v).agenda = s.agenda := rfl
@[simp] theorem State.writeS_draws (s : State) (n : Fin 32) (v : W64) : (s.writeS n v).draws = s.draws := rfl
@[simp] theorem State.writeS_cur (s : State) (n : Fin 32) (v : W64) : (s.writeS n v).cur = s.cur := rfl
@[simp] theorem State.writeS_nextUid (s : State) (n : Fin 32) (v : W64) : (s.writeS n v).nextUid = s.nextUid := rfl
@[simp] theorem State.writeS_mem (s : State) (n : Fin 32) (v : W64) : (s.writeS n v).mem = s.mem := rfl
@[simp] theorem State.writeS_poison (s : State) (n : Fin 32) (v : W64) : (s.writeS n v).poison = s.poison := rfl
@[simp] theorem State.writeS_setts (s : State) (n : Fin 32) (v : W64) : (s.writeS n v).setts = s.setts := rfl
@[simp] theorem State.writeS_tus (s : State) (n : Fin 32) (v : W64) : (s.writeS n v).tus = s.tus := rfl
@[simp] theorem State.writeS_dies (s : State) (n : Fin 32) (v : W64) : (s.writeS n v).dies = s.dies := rfl
@[simp] theorem State.writeS_hub (s : State) (n : Fin 32) (v : W64) : (s.writeS n v).hub = s.hub := rfl
@[simp] theorem State.writeA_agenda (s : State) (n : Fin 16) (v : W64) : (s.writeA n v).agenda = s.agenda := rfl
@[simp] theorem State.writeA_draws (s : State) (n : Fin 16) (v : W64) : (s.writeA n v).draws = s.draws := rfl
@[simp] theorem State.writeA_cur (s : State) (n : Fin 16) (v : W64) : (s.writeA n v).cur = s.cur := rfl
@[simp] theorem State.writeA_nextUid (s : State) (n : Fin 16) (v : W64) : (s.writeA n v).nextUid = s.nextUid := rfl
@[simp] theorem State.writeA_mem (s : State) (n : Fin 16) (v : W64) : (s.writeA n v).mem = s.mem := rfl
@[simp] theorem State.writeA_poison (s : State) (n : Fin 16) (v : W64) : (s.writeA n v).poison = s.poison := rfl
@[simp] theorem State.writeA_setts (s : State) (n : Fin 16) (v : W64) : (s.writeA n v).setts = s.setts := rfl
@[simp] theorem State.writeA_tus (s : State) (n : Fin 16) (v : W64) : (s.writeA n v).tus = s.tus := rfl
@[simp] theorem State.writeA_dies (s : State) (n : Fin 16) (v : W64) : (s.writeA n v).dies = s.dies := rfl
@[simp] theorem State.writeA_hub (s : State) (n : Fin 16) (v : W64) : (s.writeA n v).hub = s.hub := rfl
@[simp] theorem State.writeP_agenda (s : State) (n : Fin 8) (v : Bool) : (s.writeP n v).agenda = s.agenda := rfl
@[simp] theorem State.writeP_draws (s : State) (n : Fin 8) (v : Bool) : (s.writeP n v).draws = s.draws := rfl
@[simp] theorem State.writeP_cur (s : State) (n : Fin 8) (v : Bool) : (s.writeP n v).cur = s.cur := rfl
@[simp] theorem State.writeP_nextUid (s : State) (n : Fin 8) (v : Bool) : (s.writeP n v).nextUid = s.nextUid := rfl
@[simp] theorem State.writeP_mem (s : State) (n : Fin 8) (v : Bool) : (s.writeP n v).mem = s.mem := rfl
@[simp] theorem State.writeP_poison (s : State) (n : Fin 8) (v : Bool) : (s.writeP n v).poison = s.poison := rfl
@[simp] theorem State.writeP_setts (s : State) (n : Fin 8) (v : Bool) : (s.writeP n v).setts = s.setts := rfl
@[simp] theorem State.writeP_tus (s : State) (n : Fin 8) (v : Bool) : (s.writeP n v).tus = s.tus := rfl
@[simp] theorem State.writeP_dies (s : State) (n : Fin 8) (v : Bool) : (s.writeP n v).dies = s.dies := rfl
@[simp] theorem State.writeP_hub (s : State) (n : Fin 8) (v : Bool) : (s.writeP n v).hub = s.hub := rfl
@[simp] theorem State.atTurn_agenda (s : State) (c : CoreId) (q : Seq) (x : Fin 4) : (s.atTurn c q x).agenda = s.agenda := rfl
@[simp] theorem State.atTurn_draws (s : State) (c : CoreId) (q : Seq) (x : Fin 4) : (s.atTurn c q x).draws = s.draws := rfl
@[simp] theorem State.atTurn_nextUid (s : State) (c : CoreId) (q : Seq) (x : Fin 4) : (s.atTurn c q x).nextUid = s.nextUid := rfl
@[simp] theorem State.atTurn_mem (s : State) (c : CoreId) (q : Seq) (x : Fin 4) : (s.atTurn c q x).mem = s.mem := rfl
@[simp] theorem State.atTurn_poison (s : State) (c : CoreId) (q : Seq) (x : Fin 4) : (s.atTurn c q x).poison = s.poison := rfl
@[simp] theorem State.atTurn_cores (s : State) (c : CoreId) (q : Seq) (x : Fin 4) : (s.atTurn c q x).cores = s.cores := rfl
@[simp] theorem State.atTurn_setts (s : State) (c : CoreId) (q : Seq) (x : Fin 4) : (s.atTurn c q x).setts = s.setts := rfl
@[simp] theorem State.atTurn_tus (s : State) (c : CoreId) (q : Seq) (x : Fin 4) : (s.atTurn c q x).tus = s.tus := rfl
@[simp] theorem State.atTurn_dies (s : State) (c : CoreId) (q : Seq) (x : Fin 4) : (s.atTurn c q x).dies = s.dies := rfl
@[simp] theorem State.atTurn_hub (s : State) (c : CoreId) (q : Seq) (x : Fin 4) : (s.atTurn c q x).hub = s.hub := rfl
@[simp] theorem State.uid_agenda (s : State) : (s.uid.2).agenda = s.agenda := rfl
@[simp] theorem State.uid_draws (s : State) : (s.uid.2).draws = s.draws := rfl
@[simp] theorem State.uid_cur (s : State) : (s.uid.2).cur = s.cur := rfl
@[simp] theorem State.uid_mem (s : State) : (s.uid.2).mem = s.mem := rfl
@[simp] theorem State.uid_poison (s : State) : (s.uid.2).poison = s.poison := rfl
@[simp] theorem State.uid_cores (s : State) : (s.uid.2).cores = s.cores := rfl
@[simp] theorem State.uid_setts (s : State) : (s.uid.2).setts = s.setts := rfl
@[simp] theorem State.uid_tus (s : State) : (s.uid.2).tus = s.tus := rfl
@[simp] theorem State.uid_dies (s : State) : (s.uid.2).dies = s.dies := rfl
@[simp] theorem State.uid_hub (s : State) : (s.uid.2).hub = s.hub := rfl
@[simp] theorem State.freeNat_agenda (s : State) : (s.freeNat.2).agenda = s.agenda := rfl
@[simp] theorem State.freeNat_cur (s : State) : (s.freeNat.2).cur = s.cur := rfl
@[simp] theorem State.freeNat_nextUid (s : State) : (s.freeNat.2).nextUid = s.nextUid := rfl
@[simp] theorem State.freeNat_mem (s : State) : (s.freeNat.2).mem = s.mem := rfl
@[simp] theorem State.freeNat_poison (s : State) : (s.freeNat.2).poison = s.poison := rfl
@[simp] theorem State.freeNat_cores (s : State) : (s.freeNat.2).cores = s.cores := rfl
@[simp] theorem State.freeNat_setts (s : State) : (s.freeNat.2).setts = s.setts := rfl
@[simp] theorem State.freeNat_tus (s : State) : (s.freeNat.2).tus = s.tus := rfl
@[simp] theorem State.freeNat_dies (s : State) : (s.freeNat.2).dies = s.dies := rfl
@[simp] theorem State.freeNat_hub (s : State) : (s.freeNat.2).hub = s.hub := rfl
@[simp] theorem State.freeWord_agenda (s : State) : (s.freeWord.2).agenda = s.agenda := rfl
@[simp] theorem State.freeWord_cur (s : State) : (s.freeWord.2).cur = s.cur := rfl
@[simp] theorem State.freeWord_nextUid (s : State) : (s.freeWord.2).nextUid = s.nextUid := rfl
@[simp] theorem State.freeWord_mem (s : State) : (s.freeWord.2).mem = s.mem := rfl
@[simp] theorem State.freeWord_poison (s : State) : (s.freeWord.2).poison = s.poison := rfl
@[simp] theorem State.freeWord_cores (s : State) : (s.freeWord.2).cores = s.cores := rfl
@[simp] theorem State.freeWord_setts (s : State) : (s.freeWord.2).setts = s.setts := rfl
@[simp] theorem State.freeWord_tus (s : State) : (s.freeWord.2).tus = s.tus := rfl
@[simp] theorem State.freeWord_dies (s : State) : (s.freeWord.2).dies = s.dies := rfl
@[simp] theorem State.freeWord_hub (s : State) : (s.freeWord.2).hub = s.hub := rfl
@[simp] theorem State.freeWords_agenda (s : State) (n : Nat) : ((s.freeWords n).2).agenda = s.agenda := rfl
@[simp] theorem State.freeWords_cur (s : State) (n : Nat) : ((s.freeWords n).2).cur = s.cur := rfl
@[simp] theorem State.freeWords_nextUid (s : State) (n : Nat) : ((s.freeWords n).2).nextUid = s.nextUid := rfl
@[simp] theorem State.freeWords_mem (s : State) (n : Nat) : ((s.freeWords n).2).mem = s.mem := rfl
@[simp] theorem State.freeWords_poison (s : State) (n : Nat) : ((s.freeWords n).2).poison = s.poison := rfl
@[simp] theorem State.freeWords_cores (s : State) (n : Nat) : ((s.freeWords n).2).cores = s.cores := rfl
@[simp] theorem State.freeWords_setts (s : State) (n : Nat) : ((s.freeWords n).2).setts = s.setts := rfl
@[simp] theorem State.freeWords_tus (s : State) (n : Nat) : ((s.freeWords n).2).tus = s.tus := rfl
@[simp] theorem State.freeWords_dies (s : State) (n : Nat) : ((s.freeWords n).2).dies = s.dies := rfl
@[simp] theorem State.freeWords_hub (s : State) (n : Nat) : ((s.freeWords n).2).hub = s.hub := rfl
@[simp] theorem State.freeBytes_agenda (s : State) (n : Nat) : ((s.freeBytes n).2).agenda = s.agenda := rfl
@[simp] theorem State.freeBytes_cur (s : State) (n : Nat) : ((s.freeBytes n).2).cur = s.cur := rfl
@[simp] theorem State.freeBytes_nextUid (s : State) (n : Nat) : ((s.freeBytes n).2).nextUid = s.nextUid := rfl
@[simp] theorem State.freeBytes_mem (s : State) (n : Nat) : ((s.freeBytes n).2).mem = s.mem := rfl
@[simp] theorem State.freeBytes_poison (s : State) (n : Nat) : ((s.freeBytes n).2).poison = s.poison := rfl
@[simp] theorem State.freeBytes_cores (s : State) (n : Nat) : ((s.freeBytes n).2).cores = s.cores := rfl
@[simp] theorem State.freeBytes_setts (s : State) (n : Nat) : ((s.freeBytes n).2).setts = s.setts := rfl
@[simp] theorem State.freeBytes_tus (s : State) (n : Nat) : ((s.freeBytes n).2).tus = s.tus := rfl
@[simp] theorem State.freeBytes_dies (s : State) (n : Nat) : ((s.freeBytes n).2).dies = s.dies := rfl
@[simp] theorem State.freeBytes_hub (s : State) (n : Nat) : ((s.freeBytes n).2).hub = s.hub := rfl
@[simp] theorem State.modHub_hub (s : State) (f : Hub → Hub) : (s.modHub f).hub = f s.hub := rfl
@[simp] theorem State.modDie_dies (s : State) (d : Fin 4) (f : Die → Die) : (s.modDie d f).dies = s.dies.mod d f := rfl
@[simp] theorem State.modSett_setts (s : State) (g : Fin 64) (f : Sett → Sett) : (s.modSett g f).setts = s.setts.mod g f := rfl
@[simp] theorem State.modTu_tus (s : State) (t : Fin 16) (f : Tu → Tu) : (s.modTu t f).tus = s.tus.mod t f := rfl
@[simp] theorem State.atTurn_cur (s : State) (c : CoreId) (q : Seq) (x : Fin 4) : (s.atTurn c q x).cur = ⟨c, q, if q = .ctl then x else 0⟩ := rfl

/-! ## The core that an update changes, and the others -/

@[simp] theorem State.setCore_core_self (s : State) (c : CoreId) (k : Core) : (s.setCore c k).core c = k := by
  simp [State.core, State.setCore]

@[simp] theorem State.setCore_core_ne (s : State) {c d : CoreId} (h : c ≠ d) (k : Core) : (s.setCore c k).core d = s.core d := by
  simp [State.core, State.setCore, h]

@[simp] theorem State.modCore_core_self (s : State) (c : CoreId) (f : Core → Core) : (s.modCore c f).core c = f (s.core c) := by
  simp [State.modCore]

@[simp] theorem State.modCore_core_ne (s : State) {c d : CoreId} (h : c ≠ d) (f : Core → Core) : (s.modCore c f).core d = s.core d := by
  simp [State.modCore, h]

@[simp] theorem State.modHub_core (s : State) (f : Hub → Hub) (c : CoreId) : (s.modHub f).core c = s.core c := rfl
@[simp] theorem State.modDie_core (s : State) (d : Fin 4) (f : Die → Die) (c : CoreId) : (s.modDie d f).core c = s.core c := rfl
@[simp] theorem State.modSett_core (s : State) (g : Fin 64) (f : Sett → Sett) (c : CoreId) : (s.modSett g f).core c = s.core c := rfl
@[simp] theorem State.modTu_core (s : State) (t : Fin 16) (f : Tu → Tu) (c : CoreId) : (s.modTu t f).core c = s.core c := rfl
@[simp] theorem State.uid_core (s : State) (c : CoreId) : s.uid.2.core c = s.core c := rfl
@[simp] theorem State.uid_fst (s : State) : s.uid.1 = s.nextUid := rfl
@[simp] theorem State.freeNat_core (s : State) (c : CoreId) : s.freeNat.2.core c = s.core c := rfl
@[simp] theorem State.freeWord_core (s : State) (c : CoreId) : s.freeWord.2.core c = s.core c := rfl
@[simp] theorem State.freeWords_core (s : State) (n : Nat) (c : CoreId) : (s.freeWords n).2.core c = s.core c := rfl
@[simp] theorem State.freeBytes_core (s : State) (n : Nat) (c : CoreId) : (s.freeBytes n).2.core c = s.core c := rfl
@[simp] theorem State.atTurn_core (s : State) (c d : CoreId) (q : Seq) (x : Fin 4) : (s.atTurn c q x).core d = s.core d := rfl
@[simp] theorem State.modMe_me (s : State) (f : Core → Core) : (s.modMe f).me = f s.me := by
  simp [State.me, State.modMe]

@[simp] theorem State.modMe_core_ne (s : State) {d : CoreId} (h : s.cur.core ≠ d) (f : Core → Core) : (s.modMe f).core d = s.core d := by
  simp [State.modMe, h]

theorem State.modMe_modMe (s : State) (f g : Core → Core) : (s.modMe f).modMe g = s.modMe (fun k => g (f k)) := by
  simp [State.modMe, State.modCore, State.setCore, State.core, File.put, File.at]

theorem State.modMyFlow_def (s : State) (f : Flow → Flow) : s.modMyFlow f = s.modMe fun k => k.modFlow s.cur.q s.cur.x f := rfl
theorem State.modMyCtx_def (s : State) (f : Ctx → Ctx) : s.modMyCtx f = s.modMe fun k => k.modCtx s.cur.x f := rfl
theorem State.writeS_def (s : State) (n : Fin 32) (v : W64) : s.writeS n v = s.modMe fun k => k.writeS s.cur.x n v := rfl
theorem State.writeA_def (s : State) (n : Fin 16) (v : W64) :
    s.writeA n v = s.modMe fun k => k.modLseq s.isSt fun l => { l with a := l.a.put n v } := rfl
theorem State.writeP_def (s : State) (n : Fin 8) (v : Bool) : s.writeP n v = s.modMyFlow fun f => f.setPred n v := rfl

/-! ## Updates of a core -/

@[simp] theorem Core.modAux_mode (k : Core) (f : CoreAux → CoreAux) : (k.modAux f).mode = k.mode := rfl
@[simp] theorem Core.modAux_ctx (k : Core) (f : CoreAux → CoreAux) : (k.modAux f).ctx = k.ctx := rfl
@[simp] theorem Core.modAux_ld (k : Core) (f : CoreAux → CoreAux) : (k.modAux f).ld = k.ld := rfl
@[simp] theorem Core.modAux_ex (k : Core) (f : CoreAux → CoreAux) : (k.modAux f).ex = k.ex := rfl
@[simp] theorem Core.modAux_st (k : Core) (f : CoreAux → CoreAux) : (k.modAux f).st = k.st := rfl
@[simp] theorem Core.modAux_cells (k : Core) (f : CoreAux → CoreAux) : (k.modAux f).cells = k.cells := rfl
@[simp] theorem Core.modAux_frames (k : Core) (f : CoreAux → CoreAux) : (k.modAux f).frames = k.frames := rfl
@[simp] theorem Core.modAux_k (k : Core) (f : CoreAux → CoreAux) : (k.modAux f).k = k.k := rfl
@[simp] theorem Core.modAux_binds (k : Core) (f : CoreAux → CoreAux) : (k.modAux f).binds = k.binds := rfl
@[simp] theorem Core.modAux_wins (k : Core) (f : CoreAux → CoreAux) : (k.modAux f).wins = k.wins := rfl
@[simp] theorem Core.modAux_cr (k : Core) (f : CoreAux → CoreAux) : (k.modAux f).cr = k.cr := rfl
@[simp] theorem Core.modAux_hand (k : Core) (f : CoreAux → CoreAux) : (k.modAux f).hand = k.hand := rfl
@[simp] theorem Core.modAux_rings (k : Core) (f : CoreAux → CoreAux) : (k.modAux f).rings = k.rings := rfl
@[simp] theorem Core.modAux_values (k : Core) (f : CoreAux → CoreAux) : (k.modAux f).values = k.values := rfl
@[simp] theorem Core.modAux_outcomes (k : Core) (f : CoreAux → CoreAux) : (k.modAux f).outcomes = k.outcomes := rfl
@[simp] theorem Core.modAux_streams (k : Core) (f : CoreAux → CoreAux) : (k.modAux f).streams = k.streams := rfl
@[simp] theorem Core.modAux_spad (k : Core) (f : CoreAux → CoreAux) : (k.modAux f).spad = k.spad := rfl
@[simp] theorem Core.modAux_l1 (k : Core) (f : CoreAux → CoreAux) : (k.modAux f).l1 = k.l1 := rfl
@[simp] theorem Core.modAux_cmds (k : Core) (f : CoreAux → CoreAux) : (k.modAux f).cmds = k.cmds := rfl
@[simp] theorem Core.modAux_self (k : Core) (f : CoreAux → CoreAux) : (k.modAux f).aux = f k.aux := rfl
@[simp] theorem Core.modCr_mode (k : Core) (f : Cregs → Cregs) : (k.modCr f).mode = k.mode := rfl
@[simp] theorem Core.modCr_ctx (k : Core) (f : Cregs → Cregs) : (k.modCr f).ctx = k.ctx := rfl
@[simp] theorem Core.modCr_ld (k : Core) (f : Cregs → Cregs) : (k.modCr f).ld = k.ld := rfl
@[simp] theorem Core.modCr_ex (k : Core) (f : Cregs → Cregs) : (k.modCr f).ex = k.ex := rfl
@[simp] theorem Core.modCr_st (k : Core) (f : Cregs → Cregs) : (k.modCr f).st = k.st := rfl
@[simp] theorem Core.modCr_cells (k : Core) (f : Cregs → Cregs) : (k.modCr f).cells = k.cells := rfl
@[simp] theorem Core.modCr_frames (k : Core) (f : Cregs → Cregs) : (k.modCr f).frames = k.frames := rfl
@[simp] theorem Core.modCr_k (k : Core) (f : Cregs → Cregs) : (k.modCr f).k = k.k := rfl
@[simp] theorem Core.modCr_binds (k : Core) (f : Cregs → Cregs) : (k.modCr f).binds = k.binds := rfl
@[simp] theorem Core.modCr_wins (k : Core) (f : Cregs → Cregs) : (k.modCr f).wins = k.wins := rfl
@[simp] theorem Core.modCr_hand (k : Core) (f : Cregs → Cregs) : (k.modCr f).hand = k.hand := rfl
@[simp] theorem Core.modCr_rings (k : Core) (f : Cregs → Cregs) : (k.modCr f).rings = k.rings := rfl
@[simp] theorem Core.modCr_values (k : Core) (f : Cregs → Cregs) : (k.modCr f).values = k.values := rfl
@[simp] theorem Core.modCr_outcomes (k : Core) (f : Cregs → Cregs) : (k.modCr f).outcomes = k.outcomes := rfl
@[simp] theorem Core.modCr_streams (k : Core) (f : Cregs → Cregs) : (k.modCr f).streams = k.streams := rfl
@[simp] theorem Core.modCr_spad (k : Core) (f : Cregs → Cregs) : (k.modCr f).spad = k.spad := rfl
@[simp] theorem Core.modCr_l1 (k : Core) (f : Cregs → Cregs) : (k.modCr f).l1 = k.l1 := rfl
@[simp] theorem Core.modCr_cmds (k : Core) (f : Cregs → Cregs) : (k.modCr f).cmds = k.cmds := rfl
@[simp] theorem Core.modCr_aux (k : Core) (f : Cregs → Cregs) : (k.modCr f).aux = k.aux := rfl
@[simp] theorem Core.modCr_self (k : Core) (f : Cregs → Cregs) : (k.modCr f).cr = f k.cr := rfl
@[simp] theorem Core.modEx_mode (k : Core) (f : Ex → Ex) : (k.modEx f).mode = k.mode := rfl
@[simp] theorem Core.modEx_ctx (k : Core) (f : Ex → Ex) : (k.modEx f).ctx = k.ctx := rfl
@[simp] theorem Core.modEx_ld (k : Core) (f : Ex → Ex) : (k.modEx f).ld = k.ld := rfl
@[simp] theorem Core.modEx_st (k : Core) (f : Ex → Ex) : (k.modEx f).st = k.st := rfl
@[simp] theorem Core.modEx_cells (k : Core) (f : Ex → Ex) : (k.modEx f).cells = k.cells := rfl
@[simp] theorem Core.modEx_frames (k : Core) (f : Ex → Ex) : (k.modEx f).frames = k.frames := rfl
@[simp] theorem Core.modEx_k (k : Core) (f : Ex → Ex) : (k.modEx f).k = k.k := rfl
@[simp] theorem Core.modEx_binds (k : Core) (f : Ex → Ex) : (k.modEx f).binds = k.binds := rfl
@[simp] theorem Core.modEx_wins (k : Core) (f : Ex → Ex) : (k.modEx f).wins = k.wins := rfl
@[simp] theorem Core.modEx_cr (k : Core) (f : Ex → Ex) : (k.modEx f).cr = k.cr := rfl
@[simp] theorem Core.modEx_hand (k : Core) (f : Ex → Ex) : (k.modEx f).hand = k.hand := rfl
@[simp] theorem Core.modEx_rings (k : Core) (f : Ex → Ex) : (k.modEx f).rings = k.rings := rfl
@[simp] theorem Core.modEx_values (k : Core) (f : Ex → Ex) : (k.modEx f).values = k.values := rfl
@[simp] theorem Core.modEx_outcomes (k : Core) (f : Ex → Ex) : (k.modEx f).outcomes = k.outcomes := rfl
@[simp] theorem Core.modEx_streams (k : Core) (f : Ex → Ex) : (k.modEx f).streams = k.streams := rfl
@[simp] theorem Core.modEx_spad (k : Core) (f : Ex → Ex) : (k.modEx f).spad = k.spad := rfl
@[simp] theorem Core.modEx_l1 (k : Core) (f : Ex → Ex) : (k.modEx f).l1 = k.l1 := rfl
@[simp] theorem Core.modEx_cmds (k : Core) (f : Ex → Ex) : (k.modEx f).cmds = k.cmds := rfl
@[simp] theorem Core.modEx_aux (k : Core) (f : Ex → Ex) : (k.modEx f).aux = k.aux := rfl
@[simp] theorem Core.modEx_self (k : Core) (f : Ex → Ex) : (k.modEx f).ex = f k.ex := rfl
@[simp] theorem Core.modCtx_mode (k : Core) (x : Fin 4) (f : Ctx → Ctx) : (k.modCtx x f).mode = k.mode := rfl
@[simp] theorem Core.modCtx_ld (k : Core) (x : Fin 4) (f : Ctx → Ctx) : (k.modCtx x f).ld = k.ld := rfl
@[simp] theorem Core.modCtx_ex (k : Core) (x : Fin 4) (f : Ctx → Ctx) : (k.modCtx x f).ex = k.ex := rfl
@[simp] theorem Core.modCtx_st (k : Core) (x : Fin 4) (f : Ctx → Ctx) : (k.modCtx x f).st = k.st := rfl
@[simp] theorem Core.modCtx_cells (k : Core) (x : Fin 4) (f : Ctx → Ctx) : (k.modCtx x f).cells = k.cells := rfl
@[simp] theorem Core.modCtx_frames (k : Core) (x : Fin 4) (f : Ctx → Ctx) : (k.modCtx x f).frames = k.frames := rfl
@[simp] theorem Core.modCtx_k (k : Core) (x : Fin 4) (f : Ctx → Ctx) : (k.modCtx x f).k = k.k := rfl
@[simp] theorem Core.modCtx_binds (k : Core) (x : Fin 4) (f : Ctx → Ctx) : (k.modCtx x f).binds = k.binds := rfl
@[simp] theorem Core.modCtx_wins (k : Core) (x : Fin 4) (f : Ctx → Ctx) : (k.modCtx x f).wins = k.wins := rfl
@[simp] theorem Core.modCtx_cr (k : Core) (x : Fin 4) (f : Ctx → Ctx) : (k.modCtx x f).cr = k.cr := rfl
@[simp] theorem Core.modCtx_hand (k : Core) (x : Fin 4) (f : Ctx → Ctx) : (k.modCtx x f).hand = k.hand := rfl
@[simp] theorem Core.modCtx_rings (k : Core) (x : Fin 4) (f : Ctx → Ctx) : (k.modCtx x f).rings = k.rings := rfl
@[simp] theorem Core.modCtx_values (k : Core) (x : Fin 4) (f : Ctx → Ctx) : (k.modCtx x f).values = k.values := rfl
@[simp] theorem Core.modCtx_outcomes (k : Core) (x : Fin 4) (f : Ctx → Ctx) : (k.modCtx x f).outcomes = k.outcomes := rfl
@[simp] theorem Core.modCtx_streams (k : Core) (x : Fin 4) (f : Ctx → Ctx) : (k.modCtx x f).streams = k.streams := rfl
@[simp] theorem Core.modCtx_spad (k : Core) (x : Fin 4) (f : Ctx → Ctx) : (k.modCtx x f).spad = k.spad := rfl
@[simp] theorem Core.modCtx_l1 (k : Core) (x : Fin 4) (f : Ctx → Ctx) : (k.modCtx x f).l1 = k.l1 := rfl
@[simp] theorem Core.modCtx_cmds (k : Core) (x : Fin 4) (f : Ctx → Ctx) : (k.modCtx x f).cmds = k.cmds := rfl
@[simp] theorem Core.modCtx_aux (k : Core) (x : Fin 4) (f : Ctx → Ctx) : (k.modCtx x f).aux = k.aux := rfl
@[simp] theorem Core.modCtx_ctx (k : Core) (x : Fin 4) (f : Ctx → Ctx) : (k.modCtx x f).ctx = k.ctx.mod x f := rfl
@[simp] theorem Core.modLseq_mode (k : Core) (b : Bool) (f : LSeq → LSeq) : (k.modLseq b f).mode = k.mode := by cases b <;> rfl
@[simp] theorem Core.modLseq_ctx (k : Core) (b : Bool) (f : LSeq → LSeq) : (k.modLseq b f).ctx = k.ctx := by cases b <;> rfl
@[simp] theorem Core.modLseq_ex (k : Core) (b : Bool) (f : LSeq → LSeq) : (k.modLseq b f).ex = k.ex := by cases b <;> rfl
@[simp] theorem Core.modLseq_cells (k : Core) (b : Bool) (f : LSeq → LSeq) : (k.modLseq b f).cells = k.cells := by cases b <;> rfl
@[simp] theorem Core.modLseq_frames (k : Core) (b : Bool) (f : LSeq → LSeq) : (k.modLseq b f).frames = k.frames := by cases b <;> rfl
@[simp] theorem Core.modLseq_k (k : Core) (b : Bool) (f : LSeq → LSeq) : (k.modLseq b f).k = k.k := by cases b <;> rfl
@[simp] theorem Core.modLseq_binds (k : Core) (b : Bool) (f : LSeq → LSeq) : (k.modLseq b f).binds = k.binds := by cases b <;> rfl
@[simp] theorem Core.modLseq_wins (k : Core) (b : Bool) (f : LSeq → LSeq) : (k.modLseq b f).wins = k.wins := by cases b <;> rfl
@[simp] theorem Core.modLseq_cr (k : Core) (b : Bool) (f : LSeq → LSeq) : (k.modLseq b f).cr = k.cr := by cases b <;> rfl
@[simp] theorem Core.modLseq_hand (k : Core) (b : Bool) (f : LSeq → LSeq) : (k.modLseq b f).hand = k.hand := by cases b <;> rfl
@[simp] theorem Core.modLseq_rings (k : Core) (b : Bool) (f : LSeq → LSeq) : (k.modLseq b f).rings = k.rings := by cases b <;> rfl
@[simp] theorem Core.modLseq_values (k : Core) (b : Bool) (f : LSeq → LSeq) : (k.modLseq b f).values = k.values := by cases b <;> rfl
@[simp] theorem Core.modLseq_outcomes (k : Core) (b : Bool) (f : LSeq → LSeq) : (k.modLseq b f).outcomes = k.outcomes := by cases b <;> rfl
@[simp] theorem Core.modLseq_streams (k : Core) (b : Bool) (f : LSeq → LSeq) : (k.modLseq b f).streams = k.streams := by cases b <;> rfl
@[simp] theorem Core.modLseq_spad (k : Core) (b : Bool) (f : LSeq → LSeq) : (k.modLseq b f).spad = k.spad := by cases b <;> rfl
@[simp] theorem Core.modLseq_l1 (k : Core) (b : Bool) (f : LSeq → LSeq) : (k.modLseq b f).l1 = k.l1 := by cases b <;> rfl
@[simp] theorem Core.modLseq_cmds (k : Core) (b : Bool) (f : LSeq → LSeq) : (k.modLseq b f).cmds = k.cmds := by cases b <;> rfl
@[simp] theorem Core.modLseq_aux (k : Core) (b : Bool) (f : LSeq → LSeq) : (k.modLseq b f).aux = k.aux := by cases b <;> rfl
@[simp] theorem Core.modLseq_self (k : Core) (b : Bool) (f : LSeq → LSeq) : (k.modLseq b f).lseq b = f (k.lseq b) := by cases b <;> rfl
@[simp] theorem Core.modLseq_other (k : Core) (b : Bool) (f : LSeq → LSeq) : (k.modLseq b f).lseq (!b) = k.lseq (!b) := by cases b <;> rfl
@[simp] theorem Core.modFlow_mode (k : Core) (q : Seq) (x : Fin 4) (f : Flow → Flow) : (k.modFlow q x f).mode = k.mode := by cases q <;> rfl
@[simp] theorem Core.modFlow_cells (k : Core) (q : Seq) (x : Fin 4) (f : Flow → Flow) : (k.modFlow q x f).cells = k.cells := by cases q <;> rfl
@[simp] theorem Core.modFlow_frames (k : Core) (q : Seq) (x : Fin 4) (f : Flow → Flow) : (k.modFlow q x f).frames = k.frames := by cases q <;> rfl
@[simp] theorem Core.modFlow_k (k : Core) (q : Seq) (x : Fin 4) (f : Flow → Flow) : (k.modFlow q x f).k = k.k := by cases q <;> rfl
@[simp] theorem Core.modFlow_binds (k : Core) (q : Seq) (x : Fin 4) (f : Flow → Flow) : (k.modFlow q x f).binds = k.binds := by cases q <;> rfl
@[simp] theorem Core.modFlow_wins (k : Core) (q : Seq) (x : Fin 4) (f : Flow → Flow) : (k.modFlow q x f).wins = k.wins := by cases q <;> rfl
@[simp] theorem Core.modFlow_cr (k : Core) (q : Seq) (x : Fin 4) (f : Flow → Flow) : (k.modFlow q x f).cr = k.cr := by cases q <;> rfl
@[simp] theorem Core.modFlow_hand (k : Core) (q : Seq) (x : Fin 4) (f : Flow → Flow) : (k.modFlow q x f).hand = k.hand := by cases q <;> rfl
@[simp] theorem Core.modFlow_rings (k : Core) (q : Seq) (x : Fin 4) (f : Flow → Flow) : (k.modFlow q x f).rings = k.rings := by cases q <;> rfl
@[simp] theorem Core.modFlow_values (k : Core) (q : Seq) (x : Fin 4) (f : Flow → Flow) : (k.modFlow q x f).values = k.values := by cases q <;> rfl
@[simp] theorem Core.modFlow_outcomes (k : Core) (q : Seq) (x : Fin 4) (f : Flow → Flow) : (k.modFlow q x f).outcomes = k.outcomes := by cases q <;> rfl
@[simp] theorem Core.modFlow_streams (k : Core) (q : Seq) (x : Fin 4) (f : Flow → Flow) : (k.modFlow q x f).streams = k.streams := by cases q <;> rfl
@[simp] theorem Core.modFlow_spad (k : Core) (q : Seq) (x : Fin 4) (f : Flow → Flow) : (k.modFlow q x f).spad = k.spad := by cases q <;> rfl
@[simp] theorem Core.modFlow_l1 (k : Core) (q : Seq) (x : Fin 4) (f : Flow → Flow) : (k.modFlow q x f).l1 = k.l1 := by cases q <;> rfl
@[simp] theorem Core.modFlow_cmds (k : Core) (q : Seq) (x : Fin 4) (f : Flow → Flow) : (k.modFlow q x f).cmds = k.cmds := by cases q <;> rfl
@[simp] theorem Core.modFlow_aux (k : Core) (q : Seq) (x : Fin 4) (f : Flow → Flow) : (k.modFlow q x f).aux = k.aux := by cases q <;> rfl

@[simp] theorem Core.modFlow_flow_self (k : Core) (q : Seq) (x : Fin 4) (f : Flow → Flow) : (k.modFlow q x f).flow q x = f (k.flow q x) := by
  cases q <;> simp [Core.modFlow, Core.flow, Core.modCtx]

/-- A change to one stream's flow leaves the flow of every stream of another sequencer. -/
@[simp] theorem Core.modFlow_flow_ne (k : Core) {q r : Seq} (h : q ≠ r) (x y : Fin 4) (f : Flow → Flow) :
    (k.modFlow q x f).flow r y = k.flow r y := by
  cases q <;> cases r <;> first | exact absurd rfl h | rfl

/-- A change to one context's flow leaves the flow of every other context. -/
@[simp] theorem Core.modFlow_flow_ctx_ne (k : Core) {x y : Fin 4} (h : x ≠ y) (f : Flow → Flow) :
    (k.modFlow .ctl x f).flow .ctl y = k.flow .ctl y := by
  simp [Core.modFlow, Core.flow, Core.modCtx, File.at_mod, h]

/-- A change to a context's flow leaves its scalar registers. -/
@[simp] theorem Core.modFlow_s (k : Core) (q : Seq) (x y : Fin 4) (f : Flow → Flow) :
    ((k.modFlow q x f).ctx.at y).s = (k.ctx.at y).s := by
  cases q <;> simp only [Core.modFlow, Core.modCtx, File.at_mod]
  split <;> simp_all

/-- A change to a flow leaves the address registers and the pending words of LD and ST. -/
@[simp] theorem Core.modFlow_ld_a (k : Core) (q : Seq) (x : Fin 4) (f : Flow → Flow) : (k.modFlow q x f).ld.a = k.ld.a := by cases q <;> rfl
@[simp] theorem Core.modFlow_st_a (k : Core) (q : Seq) (x : Fin 4) (f : Flow → Flow) : (k.modFlow q x f).st.a = k.st.a := by cases q <;> rfl
@[simp] theorem Core.modFlow_ld_pend (k : Core) (q : Seq) (x : Fin 4) (f : Flow → Flow) : (k.modFlow q x f).ld.pend = k.ld.pend := by
  cases q <;> rfl
@[simp] theorem Core.modFlow_st_pend (k : Core) (q : Seq) (x : Fin 4) (f : Flow → Flow) : (k.modFlow q x f).st.pend = k.st.pend := by
  cases q <;> rfl

@[simp] theorem Core.setMark_mode (k : Core) (m : Fin 32) (v : Bool) : (k.setMark m v).mode = k.mode := rfl
@[simp] theorem Core.setMark_ctx (k : Core) (m : Fin 32) (v : Bool) : (k.setMark m v).ctx = k.ctx := rfl
@[simp] theorem Core.setMark_ld (k : Core) (m : Fin 32) (v : Bool) : (k.setMark m v).ld = k.ld := rfl
@[simp] theorem Core.setMark_ex (k : Core) (m : Fin 32) (v : Bool) : (k.setMark m v).ex = k.ex := rfl
@[simp] theorem Core.setMark_st (k : Core) (m : Fin 32) (v : Bool) : (k.setMark m v).st = k.st := rfl
@[simp] theorem Core.setMark_cells (k : Core) (m : Fin 32) (v : Bool) : (k.setMark m v).cells = k.cells := rfl
@[simp] theorem Core.setMark_frames (k : Core) (m : Fin 32) (v : Bool) : (k.setMark m v).frames = k.frames := rfl
@[simp] theorem Core.setMark_k (k : Core) (m : Fin 32) (v : Bool) : (k.setMark m v).k = k.k := rfl
@[simp] theorem Core.setMark_binds (k : Core) (m : Fin 32) (v : Bool) : (k.setMark m v).binds = k.binds := rfl
@[simp] theorem Core.setMark_wins (k : Core) (m : Fin 32) (v : Bool) : (k.setMark m v).wins = k.wins := rfl
@[simp] theorem Core.setMark_hand (k : Core) (m : Fin 32) (v : Bool) : (k.setMark m v).hand = k.hand := rfl
@[simp] theorem Core.setMark_rings (k : Core) (m : Fin 32) (v : Bool) : (k.setMark m v).rings = k.rings := rfl
@[simp] theorem Core.setMark_values (k : Core) (m : Fin 32) (v : Bool) : (k.setMark m v).values = k.values := rfl
@[simp] theorem Core.setMark_outcomes (k : Core) (m : Fin 32) (v : Bool) : (k.setMark m v).outcomes = k.outcomes := rfl
@[simp] theorem Core.setMark_streams (k : Core) (m : Fin 32) (v : Bool) : (k.setMark m v).streams = k.streams := rfl
@[simp] theorem Core.setMark_spad (k : Core) (m : Fin 32) (v : Bool) : (k.setMark m v).spad = k.spad := rfl
@[simp] theorem Core.setMark_l1 (k : Core) (m : Fin 32) (v : Bool) : (k.setMark m v).l1 = k.l1 := rfl
@[simp] theorem Core.setMark_cmds (k : Core) (m : Fin 32) (v : Bool) : (k.setMark m v).cmds = k.cmds := rfl
@[simp] theorem Core.setMark_aux (k : Core) (m : Fin 32) (v : Bool) : (k.setMark m v).aux = k.aux := rfl
@[simp] theorem Core.setCell_cells (k : Core) (n : Fin 512) (v : W64) : (k.setCell n v).cells = k.cells.put n v := rfl
@[simp] theorem Core.writeDest_mode (k : Core) (d : Dest) (v : W64) : (k.writeDest d v).mode = k.mode := by cases d <;> rfl
@[simp] theorem Core.writeDest_ld (k : Core) (d : Dest) (v : W64) : (k.writeDest d v).ld = k.ld := by cases d <;> rfl
@[simp] theorem Core.writeDest_ex (k : Core) (d : Dest) (v : W64) : (k.writeDest d v).ex = k.ex := by cases d <;> rfl
@[simp] theorem Core.writeDest_st (k : Core) (d : Dest) (v : W64) : (k.writeDest d v).st = k.st := by cases d <;> rfl
@[simp] theorem Core.writeDest_frames (k : Core) (d : Dest) (v : W64) : (k.writeDest d v).frames = k.frames := by cases d <;> rfl
@[simp] theorem Core.writeDest_k (k : Core) (d : Dest) (v : W64) : (k.writeDest d v).k = k.k := by cases d <;> rfl
@[simp] theorem Core.writeDest_binds (k : Core) (d : Dest) (v : W64) : (k.writeDest d v).binds = k.binds := by cases d <;> rfl
@[simp] theorem Core.writeDest_wins (k : Core) (d : Dest) (v : W64) : (k.writeDest d v).wins = k.wins := by cases d <;> rfl
@[simp] theorem Core.writeDest_cr (k : Core) (d : Dest) (v : W64) : (k.writeDest d v).cr = k.cr := by cases d <;> rfl
@[simp] theorem Core.writeDest_rings (k : Core) (d : Dest) (v : W64) : (k.writeDest d v).rings = k.rings := by cases d <;> rfl
@[simp] theorem Core.writeDest_values (k : Core) (d : Dest) (v : W64) : (k.writeDest d v).values = k.values := by cases d <;> rfl
@[simp] theorem Core.writeDest_outcomes (k : Core) (d : Dest) (v : W64) : (k.writeDest d v).outcomes = k.outcomes := by cases d <;> rfl
@[simp] theorem Core.writeDest_streams (k : Core) (d : Dest) (v : W64) : (k.writeDest d v).streams = k.streams := by cases d <;> rfl
@[simp] theorem Core.writeDest_spad (k : Core) (d : Dest) (v : W64) : (k.writeDest d v).spad = k.spad := by cases d <;> rfl
@[simp] theorem Core.writeDest_l1 (k : Core) (d : Dest) (v : W64) : (k.writeDest d v).l1 = k.l1 := by cases d <;> rfl
@[simp] theorem Core.writeDest_cmds (k : Core) (d : Dest) (v : W64) : (k.writeDest d v).cmds = k.cmds := by cases d <;> rfl
@[simp] theorem Core.supersede_mode (k : Core) (d : Dest) : (k.supersede d).mode = k.mode := by unfold Core.supersede; split <;> rfl
@[simp] theorem Core.supersede_ld (k : Core) (d : Dest) : (k.supersede d).ld = k.ld := by unfold Core.supersede; split <;> rfl
@[simp] theorem Core.supersede_ex (k : Core) (d : Dest) : (k.supersede d).ex = k.ex := by unfold Core.supersede; split <;> rfl
@[simp] theorem Core.supersede_st (k : Core) (d : Dest) : (k.supersede d).st = k.st := by unfold Core.supersede; split <;> rfl
@[simp] theorem Core.supersede_frames (k : Core) (d : Dest) : (k.supersede d).frames = k.frames := by unfold Core.supersede; split <;> rfl
@[simp] theorem Core.supersede_k (k : Core) (d : Dest) : (k.supersede d).k = k.k := by unfold Core.supersede; split <;> rfl
@[simp] theorem Core.supersede_binds (k : Core) (d : Dest) : (k.supersede d).binds = k.binds := by unfold Core.supersede; split <;> rfl
@[simp] theorem Core.supersede_wins (k : Core) (d : Dest) : (k.supersede d).wins = k.wins := by unfold Core.supersede; split <;> rfl
@[simp] theorem Core.supersede_cr (k : Core) (d : Dest) : (k.supersede d).cr = k.cr := by unfold Core.supersede; split <;> rfl
@[simp] theorem Core.supersede_rings (k : Core) (d : Dest) : (k.supersede d).rings = k.rings := by unfold Core.supersede; split <;> rfl
@[simp] theorem Core.supersede_values (k : Core) (d : Dest) : (k.supersede d).values = k.values := by unfold Core.supersede; split <;> rfl
@[simp] theorem Core.supersede_outcomes (k : Core) (d : Dest) : (k.supersede d).outcomes = k.outcomes := by unfold Core.supersede; split <;> rfl
@[simp] theorem Core.supersede_streams (k : Core) (d : Dest) : (k.supersede d).streams = k.streams := by unfold Core.supersede; split <;> rfl
@[simp] theorem Core.supersede_spad (k : Core) (d : Dest) : (k.supersede d).spad = k.spad := by unfold Core.supersede; split <;> rfl
@[simp] theorem Core.supersede_l1 (k : Core) (d : Dest) : (k.supersede d).l1 = k.l1 := by unfold Core.supersede; split <;> rfl
@[simp] theorem Core.supersede_cmds (k : Core) (d : Dest) : (k.supersede d).cmds = k.cmds := by unfold Core.supersede; split <;> rfl
@[simp] theorem Core.supersede_cells (k : Core) (d : Dest) : (k.supersede d).cells = k.cells := by unfold Core.supersede; split <;> rfl
@[simp] theorem Core.supersede_hand (k : Core) (d : Dest) : (k.supersede d).hand = k.hand := by unfold Core.supersede; split <;> rfl
@[simp] theorem Core.supersede_aux (k : Core) (d : Dest) : (k.supersede d).aux = k.aux := by unfold Core.supersede; split <;> rfl

/-- Giving up the places of pending loads changes nothing of a context but those. -/
theorem Core.supersede_ctx (k : Core) (d : Dest) (x : Fin 4) :
    (k.supersede d).ctx.at x = { k.ctx.at x with loads := ((k.supersede d).ctx.at x).loads } := by
  unfold Core.supersede; split
  · rfl
  · simp [File.at]
@[simp] theorem Core.supersede_s (k : Core) (d : Dest) (x : Fin 4) : ((k.supersede d).ctx.at x).s = (k.ctx.at x).s := by rw [Core.supersede_ctx]
@[simp] theorem Core.supersede_ctx_mode (k : Core) (d : Dest) (x : Fin 4) : ((k.supersede d).ctx.at x).mode = (k.ctx.at x).mode := by
  rw [Core.supersede_ctx]
@[simp] theorem Core.supersede_flow (k : Core) (d : Dest) (q : Seq) (x : Fin 4) : (k.supersede d).flow q x = k.flow q x := by
  cases q <;> simp only [Core.flow, Core.supersede_ld, Core.supersede_ex, Core.supersede_st]
  rw [Core.supersede_ctx]

@[simp] theorem Core.writeDest_resv (k : Core) (d : Dest) (v : W64) : (k.writeDest d v).aux.resv = k.aux.resv := by cases d <;> rfl
@[simp] theorem Core.writeDest_spill (k : Core) (d : Dest) (v : W64) : (k.writeDest d v).aux.spill = k.aux.spill := by cases d <;> rfl
@[simp] theorem Core.writeDest_phases (k : Core) (d : Dest) (v : W64) : (k.writeDest d v).aux.phases = k.aux.phases := by cases d <;> rfl
@[simp] theorem Core.writeDest_run (k : Core) (d : Dest) (v : W64) : (k.writeDest d v).aux.run = k.aux.run := by cases d <;> rfl
@[simp] theorem Core.writeDest_shadow (k : Core) (d : Dest) (v : W64) : (k.writeDest d v).aux.shadow = k.aux.shadow := by cases d <;> rfl
@[simp] theorem Core.writeDest_next (k : Core) (d : Dest) (v : W64) : (k.writeDest d v).aux.next = k.aux.next := by cases d <;> rfl
@[simp] theorem Core.writeDest_hold (k : Core) (d : Dest) (v : W64) : (k.writeDest d v).aux.hold = k.aux.hold := by cases d <;> rfl
@[simp] theorem Core.writeDest_trap (k : Core) (d : Dest) (v : W64) : (k.writeDest d v).aux.trap = k.aux.trap := by cases d <;> rfl
@[simp] theorem Core.writeDest_ecall (k : Core) (d : Dest) (v : W64) : (k.writeDest d v).aux.ecall = k.aux.ecall := by cases d <;> rfl
@[simp] theorem Core.writeDest_lastAsid (k : Core) (d : Dest) (v : W64) : (k.writeDest d v).aux.lastAsid = k.aux.lastAsid := by cases d <;> rfl
@[simp] theorem Core.writeDest_lastPin (k : Core) (d : Dest) (v : W64) : (k.writeDest d v).aux.lastPin = k.aux.lastPin := by cases d <;> rfl
@[simp] theorem Core.writeDest_posted (k : Core) (d : Dest) (v : W64) : (k.writeDest d v).aux.posted = k.aux.posted := by cases d <;> rfl
@[simp] theorem Core.writeDest_fault (k : Core) (d : Dest) (v : W64) : (k.writeDest d v).aux.fault = k.aux.fault := by cases d <;> rfl
@[simp] theorem Core.writeDest_prior (k : Core) (d : Dest) (v : W64) : (k.writeDest d v).aux.prior = k.aux.prior := by cases d <;> rfl
@[simp] theorem Core.writeDest_icache (k : Core) (d : Dest) (v : W64) : (k.writeDest d v).aux.icache = k.aux.icache := by cases d <;> rfl
@[simp] theorem Core.writeDest_lastCtx (k : Core) (d : Dest) (v : W64) : (k.writeDest d v).aux.lastCtx = k.aux.lastCtx := by cases d <;> rfl
@[simp] theorem Core.writeDest_region (k : Core) (d : Dest) (v : W64) : (k.writeDest d v).aux.region = k.aux.region := by cases d <;> rfl
@[simp] theorem Core.writeDest_tok (k : Core) (d : Dest) (v : W64) : (k.writeDest d v).aux.tok = k.aux.tok := by cases d <;> rfl
@[simp] theorem Core.writeDest_accs (k : Core) (d : Dest) (v : W64) : (k.writeDest d v).aux.accs = k.aux.accs := by cases d <;> rfl
@[simp] theorem Core.writeS_mode (k : Core) (x : Fin 4) (n : Fin 32) (v : W64) : (k.writeS x n v).mode = k.mode := by simp [Core.writeS]
@[simp] theorem Core.writeS_ld (k : Core) (x : Fin 4) (n : Fin 32) (v : W64) : (k.writeS x n v).ld = k.ld := by simp [Core.writeS]
@[simp] theorem Core.writeS_ex (k : Core) (x : Fin 4) (n : Fin 32) (v : W64) : (k.writeS x n v).ex = k.ex := by simp [Core.writeS]
@[simp] theorem Core.writeS_st (k : Core) (x : Fin 4) (n : Fin 32) (v : W64) : (k.writeS x n v).st = k.st := by simp [Core.writeS]
@[simp] theorem Core.writeS_frames (k : Core) (x : Fin 4) (n : Fin 32) (v : W64) : (k.writeS x n v).frames = k.frames := by simp [Core.writeS]
@[simp] theorem Core.writeS_k (k : Core) (x : Fin 4) (n : Fin 32) (v : W64) : (k.writeS x n v).k = k.k := by simp [Core.writeS]
@[simp] theorem Core.writeS_binds (k : Core) (x : Fin 4) (n : Fin 32) (v : W64) : (k.writeS x n v).binds = k.binds := by simp [Core.writeS]
@[simp] theorem Core.writeS_wins (k : Core) (x : Fin 4) (n : Fin 32) (v : W64) : (k.writeS x n v).wins = k.wins := by simp [Core.writeS]
@[simp] theorem Core.writeS_cr (k : Core) (x : Fin 4) (n : Fin 32) (v : W64) : (k.writeS x n v).cr = k.cr := by simp [Core.writeS]
@[simp] theorem Core.writeS_rings (k : Core) (x : Fin 4) (n : Fin 32) (v : W64) : (k.writeS x n v).rings = k.rings := by simp [Core.writeS]
@[simp] theorem Core.writeS_values (k : Core) (x : Fin 4) (n : Fin 32) (v : W64) : (k.writeS x n v).values = k.values := by simp [Core.writeS]
@[simp] theorem Core.writeS_outcomes (k : Core) (x : Fin 4) (n : Fin 32) (v : W64) : (k.writeS x n v).outcomes = k.outcomes := by simp [Core.writeS]
@[simp] theorem Core.writeS_streams (k : Core) (x : Fin 4) (n : Fin 32) (v : W64) : (k.writeS x n v).streams = k.streams := by simp [Core.writeS]
@[simp] theorem Core.writeS_spad (k : Core) (x : Fin 4) (n : Fin 32) (v : W64) : (k.writeS x n v).spad = k.spad := by simp [Core.writeS]
@[simp] theorem Core.writeS_l1 (k : Core) (x : Fin 4) (n : Fin 32) (v : W64) : (k.writeS x n v).l1 = k.l1 := by simp [Core.writeS]
@[simp] theorem Core.writeS_cmds (k : Core) (x : Fin 4) (n : Fin 32) (v : W64) : (k.writeS x n v).cmds = k.cmds := by simp [Core.writeS]
@[simp] theorem Core.writeS_resv_aux (k : Core) (x : Fin 4) (n : Fin 32) (v : W64) : (k.writeS x n v).aux.resv = k.aux.resv := by simp [Core.writeS]
@[simp] theorem Core.writeS_spill_aux (k : Core) (x : Fin 4) (n : Fin 32) (v : W64) : (k.writeS x n v).aux.spill = k.aux.spill := by simp [Core.writeS]
@[simp] theorem Core.writeS_phases_aux (k : Core) (x : Fin 4) (n : Fin 32) (v : W64) : (k.writeS x n v).aux.phases = k.aux.phases := by simp [Core.writeS]
@[simp] theorem Core.writeS_run_aux (k : Core) (x : Fin 4) (n : Fin 32) (v : W64) : (k.writeS x n v).aux.run = k.aux.run := by simp [Core.writeS]
@[simp] theorem Core.writeS_shadow_aux (k : Core) (x : Fin 4) (n : Fin 32) (v : W64) : (k.writeS x n v).aux.shadow = k.aux.shadow := by simp [Core.writeS]
@[simp] theorem Core.writeS_next_aux (k : Core) (x : Fin 4) (n : Fin 32) (v : W64) : (k.writeS x n v).aux.next = k.aux.next := by simp [Core.writeS]
@[simp] theorem Core.writeS_hold_aux (k : Core) (x : Fin 4) (n : Fin 32) (v : W64) : (k.writeS x n v).aux.hold = k.aux.hold := by simp [Core.writeS]
@[simp] theorem Core.writeS_trap_aux (k : Core) (x : Fin 4) (n : Fin 32) (v : W64) : (k.writeS x n v).aux.trap = k.aux.trap := by simp [Core.writeS]
@[simp] theorem Core.writeS_ecall_aux (k : Core) (x : Fin 4) (n : Fin 32) (v : W64) : (k.writeS x n v).aux.ecall = k.aux.ecall := by simp [Core.writeS]
@[simp] theorem Core.writeS_lastAsid_aux (k : Core) (x : Fin 4) (n : Fin 32) (v : W64) : (k.writeS x n v).aux.lastAsid = k.aux.lastAsid := by simp [Core.writeS]
@[simp] theorem Core.writeS_lastPin_aux (k : Core) (x : Fin 4) (n : Fin 32) (v : W64) : (k.writeS x n v).aux.lastPin = k.aux.lastPin := by simp [Core.writeS]
@[simp] theorem Core.writeS_posted_aux (k : Core) (x : Fin 4) (n : Fin 32) (v : W64) : (k.writeS x n v).aux.posted = k.aux.posted := by simp [Core.writeS]
@[simp] theorem Core.writeS_fault_aux (k : Core) (x : Fin 4) (n : Fin 32) (v : W64) : (k.writeS x n v).aux.fault = k.aux.fault := by simp [Core.writeS]
@[simp] theorem Core.writeS_prior_aux (k : Core) (x : Fin 4) (n : Fin 32) (v : W64) : (k.writeS x n v).aux.prior = k.aux.prior := by simp [Core.writeS]
@[simp] theorem Core.writeS_icache_aux (k : Core) (x : Fin 4) (n : Fin 32) (v : W64) : (k.writeS x n v).aux.icache = k.aux.icache := by simp [Core.writeS]
@[simp] theorem Core.writeS_lastCtx_aux (k : Core) (x : Fin 4) (n : Fin 32) (v : W64) : (k.writeS x n v).aux.lastCtx = k.aux.lastCtx := by simp [Core.writeS]
@[simp] theorem Core.writeS_region_aux (k : Core) (x : Fin 4) (n : Fin 32) (v : W64) : (k.writeS x n v).aux.region = k.aux.region := by simp [Core.writeS]
@[simp] theorem Core.writeS_tok_aux (k : Core) (x : Fin 4) (n : Fin 32) (v : W64) : (k.writeS x n v).aux.tok = k.aux.tok := by simp [Core.writeS]
@[simp] theorem Core.writeS_accs_aux (k : Core) (x : Fin 4) (n : Fin 32) (v : W64) : (k.writeS x n v).aux.accs = k.aux.accs := by simp [Core.writeS]

/-! ## Registers and predicates -/

/-- s0 reads as 0 (R145). -/
@[simp] theorem Core.readS_zero (k : Core) (x : Fin 4) : k.readS x 0 = 0 := rfl

/-- A write to no place gives up no pending load. -/
@[simp] theorem Dest.yield_none (d : Dest) : d.yield .none = d := by cases d <;> simp [Dest.yield]
@[simp] theorem Core.supersede_none (k : Core) : k.supersede .none = k := by simp [Core.supersede]

/-- A write to s0 is discarded (R145). -/
@[simp] theorem Core.writeS_zero (k : Core) (x : Fin 4) (v : W64) : k.writeS x 0 v = k := by
  have h : k.destOf x 0 = .none := rfl
  simp [Core.writeS, h, Core.writeDest]

/-- p0 is always true (R109). -/
@[simp] theorem Flow.pred_zero (f : Flow) : f.pred 0 = true := rfl

/-- A write to p0 is discarded (R145). -/
@[simp] theorem Flow.setPred_zero (f : Flow) (v : Bool) : f.setPred 0 v = f := rfl

/-- A predicate other than p0 reads as written. -/
theorem Flow.pred_setPred_self (f : Flow) {n : Fin 8} (h : n ≠ 0) (v : Bool) : (f.setPred n v).pred n = v := by
  have hn : (n == 0) = false := by simpa using h
  cases v <;> fin_cases n <;> simp [Flow.setPred, Flow.pred] at *

/-- Writing a predicate leaves every other predicate. -/
theorem Flow.pred_setPred_ne (f : Flow) {n m : Fin 8} (h : n ≠ m) (v : Bool) : (f.setPred n v).pred m = f.pred m := by
  cases v <;> fin_cases n <;> fin_cases m <;> simp [Flow.setPred, Flow.pred] at *

/-- A change to one context's registers leaves every context's mode. -/
theorem Core.modCtx_s_mode (k : Core) (x y : Fin 4) (r : Fin 7) (v : W64) :
    ((k.modCtx x fun c => { c with s := c.s.put r v }).ctx.at y).mode = (k.ctx.at y).mode := by
  simp only [Core.modCtx, File.at_mod]
  split
  · next h => subst h; rfl
  · rfl

/-- The places a register maps to do not depend on the values of registers. -/
@[simp] theorem Core.destOf_writeDest (k : Core) (d : Dest) (v : W64) (x : Fin 4) (n : Fin 32) :
    (k.writeDest d v).destOf x n = k.destOf x n := by
  have hm : ((k.writeDest d v).ctx.at x).mode = (k.ctx.at x).mode := by
    cases d <;> first | rfl | exact Core.modCtx_s_mode k _ x _ v
  simp only [Core.destOf, Core.cellOf, Core.framesOf, Core.isTail, hm, Core.writeDest_frames, Core.writeDest_mode]
  rfl

/-- Nor on the places of pending loads. -/
@[simp] theorem Core.destOf_supersede (k : Core) (d : Dest) (x : Fin 4) (n : Fin 32) : (k.supersede d).destOf x n = k.destOf x n := by
  simp only [Core.destOf, Core.cellOf, Core.framesOf, Core.isTail, Core.supersede_ctx_mode, Core.supersede_frames, Core.supersede_mode]
  rfl

/-- A register after a write to the place of a register. -/
theorem Core.readS_writeDest (k : Core) (x : Fin 4) (n m : Fin 32) (v : W64) :
    (k.writeDest (k.destOf x n) v).readS x m = if k.destOf x m = k.destOf x n ∧ k.destOf x n ≠ .none then v else k.readS x m := by
  simp only [Core.readS, Core.destOf_writeDest]
  have hb : ∀ (n : Fin 32) (r : Fin 7), k.destOf x n ≠ .bank r := by
    intro n r
    simp only [Core.destOf]
    split
    · simp
    · split
      · simp
      · split <;> simp
  have hv : ∀ (n : Fin 32) (r : Fin 7), k.destOf x n ≠ .saved r := by
    intro n r
    simp only [Core.destOf]
    split
    · simp
    · split
      · simp
      · split <;> simp
  have hg : ∀ (n : Fin 32) (y : Fin 4) (r : Fin 7), k.destOf x n = .glob y r → y = x := by
    intro n y r
    simp only [Core.destOf]
    split
    · simp
    · split
      · intro h; simp at h; exact h.1.symm
      · split <;> simp
  cases hn : k.destOf x n with
  | none => simp [Core.writeDest]
  | bank r => exact absurd hn (hb n r)
  | saved r => exact absurd hn (hv n r)
  | glob y r =>
    have hy := hg n y r hn
    subst hy
    cases hm : k.destOf y m with
    | none => simp
    | bank r' => exact absurd hm (hb m r')
    | saved r' => exact absurd hm (hv m r')
    | cell c => simp [Core.writeDest]
    | glob z r' =>
      have hz := hg m z r' hm
      subst hz
      simp only [Core.writeDest, Core.modCtx, File.at_mod_self, File.at_put]
      by_cases h : r = r'
      · subst h; simp
      · have h' : ¬ r' = r := fun e => h e.symm
        simp [h, h']
  | cell c =>
    cases hm : k.destOf x m with
    | none => simp
    | bank r' => exact absurd hm (hb m r')
    | saved r' => exact absurd hm (hv m r')
    | glob z r' => simp [Core.writeDest, Core.setCell]
    | cell c' =>
      simp only [Core.writeDest, Core.setCell, File.at_put]
      by_cases h : c = c'
      · subst h; simp
      · have h' : ¬ c' = c := fun e => h e.symm
        simp [h, h']

/-- A register after a write to a register: the value, where both map to one place, else what it was (R111, R145). -/
theorem Core.readS_writeS (k : Core) (x : Fin 4) (n m : Fin 32) (v : W64) :
    (k.writeS x n v).readS x m = if k.destOf x m = k.destOf x n ∧ k.destOf x n ≠ .none then v else k.readS x m := by
  have h := (k.supersede (k.destOf x n)).readS_writeDest x n m v
  simp only [Core.destOf_supersede] at h
  rw [Core.writeS, h]
  split
  · rfl
  · simp only [Core.readS, Core.destOf_supersede, Core.supersede_s, Core.supersede_cells]

end Sys2Proof.Machine
end

