-- ==== Sys2Proof/Laws/Line.lean ====
section
/-! SUPPORT. Reads and writes at the home of a line where no core holds update lines. -/

namespace Sys2Proof.Machine

/-- No update-only line: the merge does nothing. -/
theorem State.mergeAll_quiet {s : State} (h : ∀ c l, l ∈ (s.core c).l1 → l.isUpdate = false) (line : Nat) :
    s.mergeAll line = s := by
  have e : (coreIds.zip s.cores.toList).filter (fun e => e.2.l1.any fun l => l.line == line && l.isUpdate) = [] := by
    rw [List.filter_eq_nil_iff]
    intro x hx
    obtain ⟨i, hi, g⟩ := List.mem_iff_getElem.mp (List.of_mem_zip hx).2
    have hi' : i < 768 := by simpa using hi
    have k : x.2 = s.core ⟨i, hi'⟩ := by rw [← g]; simp [State.core, File.at]
    simp only [List.any_eq_true, not_exists, not_and, Bool.and_eq_true]
    intro l hl _
    rw [k] at hl
    simp [h _ _ hl]
  simp only [State.mergeAll, e]
  rfl

theorem State.homeRead_quiet {s : State} (h : ∀ c l, l ∈ (s.core c).l1 → l.isUpdate = false) (line : Nat) :
    s.homeRead line = s := State.mergeAll_quiet h line

theorem State.homeWrite_mem_quiet {s : State} (h : ∀ c l, l ∈ (s.core c).l1 → l.isUpdate = false) (line : Nat) :
    (s.homeWrite line).mem = s.mem := by
  rw [State.homeWrite, State.mergeAll_quiet h]
  rfl

end Sys2Proof.Machine
end

