-- ==== Sys2Proof/Laws/Fetch.lean ====
section
/-! SUPPORT. Fetching through an instruction cache that agrees with memory (R11). -/

namespace Sys2Proof.Machine

/-- Two states differ in the instruction caches, the values drawn and the work items' names alone. -/
def SameButCode (t u : State) : Prop := u.mem = t.mem ∧ u.poison = t.poison ∧ u.hub = t.hub ∧ u.cur = t.cur ∧
  (∀ d, ({ u.core d with aux := { (u.core d).aux with icache := (t.core d).aux.icache } } : Core) = t.core d)

/-- The instruction cache of a stream holds at places what memory holds there. -/
def CodeAgrees (s : State) (c : CoreId) (q : Seq) (keys : List Nat) : Prop :=
  ∀ l ∈ s.icacheOf c q, ∀ a ∈ keys, lineOf a = l.line → l.bytes.getD (a % 128) 0 = s.mem.get a

/-- No core holds an update-only line. -/
def NoUpdates (s : State) : Prop := ∀ d, ∀ l ∈ (s.core d).l1, l.isUpdate = false

/-- A byte of a range read from memory. -/
theorem Bytes.read_getD (m : Bytes) : ∀ (n a i : Nat), i < n → (m.read a n).getD i 0 = m.get (a + i) := by
  intro n
  induction n with
  | zero => intro a i h; omega
  | succ n ih =>
    intro a i h
    cases i with
    | zero => simp [Bytes.read]
    | succ i =>
      simp only [Bytes.read, List.getD_cons_succ]
      rw [ih (a + 1) i (by omega)]
      congr 1; omega

theorem SameButCode.refl (t : State) : SameButCode t t := ⟨rfl, rfl, rfl, rfl, fun _ => rfl⟩
theorem SameButCode.trans {a b c : State} (h : SameButCode a b) (g : SameButCode b c) : SameButCode a c := by
  obtain ⟨h1, h2, h3, h4, h5⟩ := h
  obtain ⟨g1, g2, g3, g4, g5⟩ := g
  refine ⟨g1.trans h1, g2.trans h2, g3.trans h3, g4.trans h4, fun d => ?_⟩
  have := g5 d
  have h := h5 d
  rw [← this] at h
  exact h

theorem SameButCode.noUpdates {a b : State} (h : SameButCode a b) (q : NoUpdates a) : NoUpdates b := by
  intro d l hl
  have := h.2.2.2.2 d
  have e : (b.core d).l1 = (a.core d).l1 := by rw [← this]
  exact q d l (e ▸ hl)

/-- Lines put into an instruction cache. -/
theorem State.setIcache_spec (s : State) (c : CoreId) (q : Seq) (l : List CodeLine) :
    SameButCode s (s.modCore c fun k => k.setIcache q l) ∧ (s.modCore c fun k => k.setIcache q l).icacheOf c q = l := by
  constructor
  · refine ⟨rfl, rfl, rfl, rfl, fun d => ?_⟩
    by_cases h : c = d
    · subst h
      simp [State.modCore, State.setCore, State.core, Core.setIcache, Core.modAux]
    · simp [State.modCore, State.setCore, State.core, h]
  · simp [State.icacheOf, State.modCore, State.setCore, State.core, Core.setIcache, Core.modAux]

theorem State.freeNat_sameButCode (s : State) : SameButCode s s.freeNat.2 ∧ (∀ c q, s.freeNat.2.icacheOf c q = s.icacheOf c q) := ⟨⟨rfl, rfl, rfl, rfl, fun _ => rfl⟩, fun _ _ => rfl⟩

/-- A line taken into an instruction cache keeps its agreement with memory. -/
theorem State.icacheFill_spec (s : State) (c : CoreId) (q : Seq) (line : Nat) (keys : List Nat) (hq : NoUpdates s) (ha : CodeAgrees s c q keys) :
    SameButCode s (s.icacheFill c q line) ∧ CodeAgrees (s.icacheFill c q line) c q keys := by
  have good : ∀ (u : State) (rest : List CodeLine), SameButCode s u → (∀ l ∈ rest, l ∈ s.icacheOf c q) →
      SameButCode s (u.modCore c fun k => k.setIcache q (⟨line, s.mem.read (128 * line) 128⟩ :: rest)) ∧
      CodeAgrees (u.modCore c fun k => k.setIcache q (⟨line, s.mem.read (128 * line) 128⟩ :: rest)) c q keys := by
    intro u rest hu hr
    have g := State.setIcache_spec u c q (⟨line, s.mem.read (128 * line) 128⟩ :: rest)
    refine ⟨hu.trans g.1, ?_⟩
    intro l hl a hk e
    rw [g.2] at hl
    have em : (u.modCore c fun k => k.setIcache q (⟨line, s.mem.read (128 * line) 128⟩ :: rest)).mem = s.mem := (hu.trans g.1).1
    rw [em]
    rcases List.mem_cons.mp hl with h | h
    · subst h
      simp only at e ⊢
      rw [Bytes.read_getD _ _ _ _ (by omega)]
      congr 1
      simp only [lineOf] at e
      omega
    · exact ha l (hr l h) a hk e
  simp only [State.icacheFill, State.homeRead_quiet hq]
  split
  · exact good s _ (SameButCode.refl s) fun l hl => (List.mem_filter.mp hl).1
  · exact good s.freeNat.2 _ (State.freeNat_sameButCode s).1 fun l hl => (List.mem_filter.mp (List.mem_of_mem_eraseIdx hl)).1

/-- Where the instruction cache agrees with memory, a fetch within a line brings the bytes of memory. -/
theorem State.fetchLine_spec (s : State) (c : CoreId) (q : Seq) (line : Nat) (keys all : List Nat) (hs : ∀ a ∈ keys, a ∈ all) (hl : ∀ a ∈ keys, lineOf a = line)
    (hq : NoUpdates s) (ha : CodeAgrees s c q all) (hp : s.poisoned keys = none) :
    ∃ u, s.fetchLine c q line keys = (.bytes (keys.map fun a => (a, s.mem.get a)), u) ∧ SameButCode s u ∧ CodeAgrees u c q all := by
  unfold State.fetchLine
  split
  · have f := State.icacheFill_spec s c q line all hq ha
    refine ⟨s.icacheFill c q line, ?_, f.1, f.2⟩
    simp [State.fetchFresh, hp, f.1.1]
  · rename_i l hf
    have hm : l ∈ s.icacheOf c q := List.mem_of_find?_eq_some hf
    have hline : l.line = line := by simpa using List.find?_some hf
    have e : (keys.map fun a => (a, l.bytes.getD (a % 128) 0)) = keys.map fun a => (a, s.mem.get a) := by
      apply List.map_congr_left
      intro a h
      rw [ha l hm a (hs a h) (by rw [hl a h, hline])]
    refine ⟨s, ?_, SameButCode.refl s, ha⟩
    simp only [e, hp]
    simp

/-- The same of a fetch over several lines. -/
theorem State.fetchLines_spec (c : CoreId) (q : Seq) (all : List Nat) : ∀ (ls : List Nat) (s : State), NoUpdates s → CodeAgrees s c q all → s.poisoned all = none →
    ∃ b u, State.fetchLines c q all ls s = (.bytes b, u) ∧ SameButCode s u ∧ (∀ e ∈ b, e.2 = s.mem.get e.1) ∧
      (∀ a ∈ all, lineOf a ∈ ls → ∃ e ∈ b, e.1 = a) := by
  intro ls
  induction ls with
  | nil => intro s _ _ _; exact ⟨[], s, rfl, SameButCode.refl s, by simp, by simp⟩
  | cons l r ih =>
    intro s hq ha hp
    have hp' : s.poisoned (all.filter fun a => lineOf a == l) = none := by
      simp only [State.poisoned, List.find?_eq_none, List.mem_map, List.mem_filter] at hp ⊢
      rintro x ⟨a, ⟨h1, h2⟩, rfl⟩
      exact hp _ ⟨a, h1, rfl⟩
    obtain ⟨u, hu, su, au⟩ := State.fetchLine_spec s c q l (all.filter fun a => lineOf a == l) all (fun a h => (List.mem_filter.mp h).1)
      (fun a h => by simpa using (List.mem_filter.mp h).2) hq ha hp'
    have hpu : u.poisoned all = none := by simpa [State.poisoned, su.2.1] using hp
    obtain ⟨b, v, hv, sv, hb, hc⟩ := ih u (su.noUpdates hq) au hpu
    refine ⟨(all.filter fun a => lineOf a == l).map (fun a => (a, s.mem.get a)) ++ b, v, ?_, su.trans sv, ?_, ?_⟩
    · simp [State.fetchLines, hu, hv]
    · intro e he
      rcases List.mem_append.mp he with h | h
      · obtain ⟨a, _, rfl⟩ := List.mem_map.mp h; rfl
      · rw [hb e h, su.1]
    · intro a h1 h2
      rcases List.mem_cons.mp h2 with h | h
      · exact ⟨(a, s.mem.get a), List.mem_append_left _ (List.mem_map.mpr ⟨a, List.mem_filter.mpr ⟨h1, by simp [h]⟩, rfl⟩), rfl⟩
      · obtain ⟨e, he, g⟩ := hc a h1 h
        exact ⟨e, List.mem_append_right _ he, g⟩

end Sys2Proof.Machine
end

