-- ==== Sys2Proof/Laws/Memory.lean ====
section
/-! SUPPORT. Laws of bytes by address: a read after a write, and that every write keeps the canonical form. -/

namespace Sys2Proof.Machine

@[simp] theorem Bytes.get_nil (x : Nat) : Bytes.get [] x = blank := rfl

theorem Bytes.get_of_above {m : Bytes} {x y : Nat} (h : Bytes.above x m = true) (hy : y ≤ x) (_hw : m.wf = true) :
    m.get y = blank := by
  cases m with
  | nil => rfl
  | cons c r =>
    obtain ⟨a, b⟩ := c
    simp only [Bytes.above, decide_eq_true_eq] at h
    have : y < a := by omega
    simp [Bytes.get, this]

theorem Bytes.wf_tail {c : Host.Cell} {r : Bytes} (h : Bytes.wf (c :: r) = true) : Bytes.wf r = true := by
  obtain ⟨a, b⟩ := c
  simp only [Bytes.wf, Bool.and_eq_true] at h
  exact h.2

theorem Bytes.wf_above {a : Nat} {b : Byte} {r : Bytes} (h : Bytes.wf ((a, b) :: r) = true) : Bytes.above a r = true := by
  simp only [Bytes.wf, Bool.and_eq_true] at h
  exact h.1.2

theorem Bytes.above_trans {x y : Nat} {m : Bytes} (h : Bytes.above y m = true) (hxy : x ≤ y) : Bytes.above x m = true := by
  cases m with
  | nil => rfl
  | cons c r => simp only [Bytes.above, decide_eq_true_eq] at *; omega

theorem Bytes.above_set {x y : Nat} {v : Byte} {m : Bytes} (h : Bytes.above x m = true) (hxy : x < y) (hw : m.wf = true) :
    Bytes.above x (m.set y v) = true := by
  cases m with
  | nil =>
    unfold Bytes.set
    split <;> simp [Bytes.above, hxy]
  | cons c r =>
    obtain ⟨a, b⟩ := c
    have ha : x < a := by simpa [Bytes.above] using h
    have hr : Bytes.above x r = true := Bytes.above_trans (Bytes.wf_above hw) (by omega)
    unfold Bytes.set
    split
    · split <;> simp [Bytes.above, ha, hxy]
    · split
      · split
        · exact hr
        · simp [Bytes.above, hxy]
      · simp [Bytes.above, ha]

/-- Writing one byte keeps the canonical form. -/
theorem Bytes.set_wf {m : Bytes} (h : m.wf = true) (x : Nat) (v : Byte) : (m.set x v).wf = true := by
  induction m with
  | nil =>
    unfold Bytes.set
    split
    · rfl
    · rename_i hv; simp [Bytes.wf, Bytes.above, hv]
  | cons c r ih =>
    obtain ⟨a, b⟩ := c
    have hr := Bytes.wf_tail h
    have hab := Bytes.wf_above h
    have hb : b ≠ blank := by simp only [Bytes.wf, Bool.and_eq_true, decide_eq_true_eq] at h; exact h.1.1
    unfold Bytes.set
    split
    · rename_i hx
      split
      · exact h
      · rename_i hv; rw [Bytes.wf, h]; simp [Bytes.above, hv, hx]
    · split
      · rename_i hx
        subst hx
        split
        · exact hr
        · rename_i hv; simp [Bytes.wf, hv, hab, hr]
      · rename_i h1 h2
        have : Bytes.above a (Bytes.set r x v) = true := Bytes.above_set hab (by omega) hr
        simp [Bytes.wf, hb, this, ih hr]

/-- A byte just written reads as written. -/
theorem Bytes.get_set_self {m : Bytes} (h : m.wf = true) (x : Nat) (v : Byte) : (m.set x v).get x = v := by
  induction m with
  | nil =>
    unfold Bytes.set
    split
    · rename_i hv; simp [hv]
    · simp [Bytes.get]
  | cons c r ih =>
    obtain ⟨a, b⟩ := c
    unfold Bytes.set
    split
    · rename_i hx
      split
      · rename_i hv; simp [Bytes.get, hx, hv]
      · simp [Bytes.get]
    · split
      · rename_i hx
        subst hx
        split
        · rename_i hv
          rw [Bytes.get_of_above (Bytes.wf_above h) (Nat.le_refl x) (Bytes.wf_tail h), hv]
        · simp [Bytes.get]
      · rename_i h1 h2
        simp [Bytes.get, h1, h2, ih (Bytes.wf_tail h)]

/-- Writing one byte leaves every other byte. -/
theorem Bytes.get_set_ne {m : Bytes} (h : m.wf = true) {x y : Nat} (hxy : x ≠ y) (v : Byte) : (m.set x v).get y = m.get y := by
  induction m with
  | nil =>
    unfold Bytes.set
    split
    · rfl
    · simp only [Bytes.get]
      split
      · rfl
      · split
        · omega
        · rfl
  | cons c r ih =>
    obtain ⟨a, b⟩ := c
    have hr := Bytes.wf_tail h
    have hab := Bytes.wf_above h
    unfold Bytes.set
    split
    · rename_i hx
      split
      · rfl
      · simp only [Bytes.get]
        split
        · rename_i hy
          have : y < a := by omega
          simp [this]
        · split
          · omega
          · rfl
    · split
      · rename_i hx
        subst hx
        split
        · simp only [Bytes.get]
          split
          · rename_i hy; exact Bytes.get_of_above hab (by omega) hr
          · split
            · omega
            · rfl
        · simp only [Bytes.get]
          split
          · rfl
          · split
            · omega
            · rfl
      · rename_i h1 h2
        simp only [Bytes.get]
        split
        · rfl
        · split
          · rfl
          · exact ih hr

/-- Writing a list of bytes keeps the canonical form. -/
theorem Bytes.write_wf {m : Bytes} (h : m.wf = true) (a : Nat) (bs : List Byte) : (m.write a bs).wf = true := by
  induction bs generalizing m a with
  | nil => exact h
  | cons b r ih => exact ih (Bytes.set_wf h a b) (a + 1)

/-- Writing a list of bytes leaves every byte outside them. -/
theorem Bytes.get_write_out {m : Bytes} (h : m.wf = true) (a : Nat) (bs : List Byte) {y : Nat} (hy : y < a ∨ a + bs.length ≤ y) :
    (m.write a bs).get y = m.get y := by
  induction bs generalizing m a with
  | nil => rfl
  | cons b r ih =>
    simp only [List.length_cons] at hy
    show (Bytes.write (m.set a b) (a + 1) r).get y = m.get y
    rw [ih (Bytes.set_wf h a b) (a + 1) (by omega), Bytes.get_set_ne h (by omega)]

theorem Bytes.above_filter {m : Bytes} {x : Nat} (hw : m.wf = true) (h : Bytes.above x m = true) (f : Host.Cell → Bool) :
    Bytes.above x (m.filter f) = true := by
  induction m with
  | nil => rfl
  | cons c r ih =>
    obtain ⟨a, b⟩ := c
    have ha : x < a := by simpa [Bytes.above] using h
    rw [List.filter_cons]
    split
    · simp [Bytes.above, ha]
    · exact ih (Bytes.wf_tail hw) (Bytes.above_trans (Bytes.wf_above hw) (by omega))

/-- Removing entries keeps the canonical form. -/
theorem Bytes.filter_wf {m : Bytes} (h : m.wf = true) (f : Host.Cell → Bool) : Bytes.wf (m.filter f) = true := by
  induction m with
  | nil => rfl
  | cons c r ih =>
    obtain ⟨a, b⟩ := c
    have hb : b ≠ blank := by simp only [Bytes.wf, Bool.and_eq_true, decide_eq_true_eq] at h; exact h.1.1
    rw [List.filter_cons]
    split
    · simp [Bytes.wf, hb, Bytes.above_filter (Bytes.wf_tail h) (Bytes.wf_above h) f, ih (Bytes.wf_tail h)]
    · exact ih (Bytes.wf_tail h)

theorem Bytes.clear_wf {m : Bytes} (h : m.wf = true) (lo hi : Nat) : (m.clear lo hi).wf = true := Bytes.filter_wf h _

end Sys2Proof.Machine
end

