-- ==== Sys2Proof/Laws/PerInstr.lean ====
section
/-! SUPPORT. The round trip of the encoding, instruction by instruction: whichever stream can hold the instruction, and whatever bytes
follow, the stream reads back the instruction from its words (R46 to R62). -/

set_option linter.unusedSimpArgs false
set_option linter.unnecessarySeqFocus false

namespace Sys2Proof.Laws.Encoding

open Sys2Proof

/-- In every stream that can hold the instruction, the bytes of its words, whatever follows them, decode to it, and to its length. -/
def Statement (i : Instr) : Prop :=
  ∀ (q : Seq) (rest : List Byte), i.wf q = true →
    decodeBytes q ((encode q i).flatMap bytesOfWord ++ rest) = (.ok i, 4 * (encode q i).length)

theorem nop (y : Ring) : Statement (.nop y) := by
  intro q rest h
  have fw : Fits [(4, y.code), (6, 0), (22, 0)] := ⟨y.code_lt, by decide, by decide, trivial⟩
  have e_ : encode q (.nop y) = [pack [(4, y.code), (6, 0), (22, 0)]] := by
    show [w6 y 0x00 0] = _
    simp only [w6, pack, bits, List.cons.injEq, and_true]; omega
  refine roundtrip_one e_ fw rfl (fun w_ hw _ => ?_) rest
  have q_w0_22 : fld w_ 0 22 = 0 := fieldAt hw fw 2 (by simp)
  have q_w22_6 : fld w_ 22 6 = 0 := fieldAt hw fw 1 (by simp)
  have q_w28_4 : fld w_ 28 4 = y.code := fieldAt hw fw 0 (by simp)
  have ry : Ring.ofWord w_ = y := Ring.ofWord_of q_w28_4
  refine decode_common 0 q_w22_6 (by decide) ?_
  delta decodeCommon
  rw [q_w22_6]
  simp [need, withCode, q_w0_22, q_w28_4, ry]

theorem halt (y : Ring) : Statement (.halt y) := by
  intro q rest h
  have fw : Fits [(4, y.code), (6, 1), (22, 0)] := ⟨y.code_lt, by decide, by decide, trivial⟩
  have e_ : encode q (.halt y) = [pack [(4, y.code), (6, 1), (22, 0)]] := by
    show [w6 y 0x01 0] = _
    simp only [w6, pack, bits, List.cons.injEq, and_true]; omega
  refine roundtrip_one e_ fw rfl (fun w_ hw _ => ?_) rest
  have q_w0_22 : fld w_ 0 22 = 0 := fieldAt hw fw 2 (by simp)
  have q_w22_6 : fld w_ 22 6 = 1 := fieldAt hw fw 1 (by simp)
  have q_w28_4 : fld w_ 28 4 = y.code := fieldAt hw fw 0 (by simp)
  have ry : Ring.ofWord w_ = y := Ring.ofWord_of q_w28_4
  refine decode_common 1 q_w22_6 (by decide) ?_
  delta decodeCommon
  rw [q_w22_6]
  simp [need, withCode, q_w0_22, q_w28_4, ry]

theorem pbr (y : Ring) (b : Fin 4) (o : BitVec 20) : Statement (.pbr y b o) := by
  intro q rest h
  have fw : Fits [(4, y.code), (6, 2), (2, b.val), (20, o.toNat)] := ⟨y.code_lt, by decide, b.isLt, o.isLt, trivial⟩
  have e_ : encode q (.pbr y b o) = [pack [(4, y.code), (6, 2), (2, b.val), (20, o.toNat)]] := by
    show [w6 y 0x02 (b.val * 2 ^ 20 + o.toNat)] = _
    simp only [w6, pack, bits, List.cons.injEq, and_true]; omega
  refine roundtrip_one e_ fw rfl (fun w_ hw _ => ?_) rest
  have q_w20_2 : fld w_ 20 2 = b.val := fieldAt hw fw 2 (by simp)
  have f_w20_2 : (fin 2 w_ 20 : Fin 4) = b := Fin.ext q_w20_2
  have q_w0_20 : fld w_ 0 20 = o.toNat := fieldAt hw fw 3 (by simp)
  have f_w0_20 : bvf 20 w_ 0 = o := bvf_of q_w0_20
  have q_w22_6 : fld w_ 22 6 = 2 := fieldAt hw fw 1 (by simp)
  have q_w28_4 : fld w_ 28 4 = y.code := fieldAt hw fw 0 (by simp)
  have ry : Ring.ofWord w_ = y := Ring.ofWord_of q_w28_4
  refine decode_common 2 q_w22_6 (by decide) ?_
  delta decodeCommon
  rw [q_w22_6]
  simp [need, withCode, q_w20_2, f_w20_2, q_w0_20, f_w0_20, q_w28_4, ry]

theorem br (y : Ring) (b : Fin 4) (n : Bool) (p : BrCond) : Statement (.br y b n p) := by
  intro q rest h
  have fw : Fits [(4, y.code), (6, 3), (2, b.val), (1, n.toNat), (4, p.code), (15, 0)] := ⟨y.code_lt, by decide, b.isLt, Bool.toNat_lt n, p.code_lt, by decide, trivial⟩
  have e_ : encode q (.br y b n p) = [pack [(4, y.code), (6, 3), (2, b.val), (1, n.toNat), (4, p.code), (15, 0)]] := by
    show [w6 y 0x03 (b.val * 2 ^ 20 + n.toNat * 2 ^ 19 + p.code * 2 ^ 15)] = _
    simp only [w6, pack, bits, List.cons.injEq, and_true]; omega
  refine roundtrip_one e_ fw rfl (fun w_ hw _ => ?_) rest
  have q_w0_15 : fld w_ 0 15 = 0 := fieldAt hw fw 5 (by simp)
  have q_w15_4 : fld w_ 15 4 = p.code := fieldAt hw fw 4 (by simp)
  have q_w20_2 : fld w_ 20 2 = b.val := fieldAt hw fw 2 (by simp)
  have f_w20_2 : (fin 2 w_ 20 : Fin 4) = b := Fin.ext q_w20_2
  have q_w19_1 : fld w_ 19 1 = n.toNat := fieldAt hw fw 3 (by simp)
  have f_w19 : flag w_ 19 = n := flag_of q_w19_1
  have q_w22_6 : fld w_ 22 6 = 3 := fieldAt hw fw 1 (by simp)
  have q_w28_4 : fld w_ 28 4 = y.code := fieldAt hw fw 0 (by simp)
  have ry : Ring.ofWord w_ = y := Ring.ofWord_of q_w28_4
  have hk : (q != .ctl || p != .bq : Bool) = true := Instr.operands_of_wf h
  try simp only [Bool.and_eq_true, Bool.or_eq_true, bne_iff_ne, ne_eq, decide_eq_true_eq, beq_iff_eq, Bool.not_eq_true', Bool.and_eq_false_iff, beq_eq_false_iff_ne, not_true_eq_false, false_or, reduceCtorEq, not_false_eq_true, true_or, true_and, and_true] at hk
  refine decode_common 3 q_w22_6 (by decide) ?_
  delta decodeCommon
  rw [q_w22_6]
  simp [need, withCode, q_w0_15, q_w15_4, q_w20_2, f_w20_2, q_w19_1, f_w19, q_w28_4, ry, BrCond.ofCode_code, hk]

theorem loop (y : Ring) (c : Fin 4) (l : Fin 8) : Statement (.loop y c l) := by
  intro q rest h
  have fw : Fits [(4, y.code), (6, 4), (2, c.val), (1, 0), (3, l.val), (16, 0)] := ⟨y.code_lt, by decide, c.isLt, by decide, l.isLt, by decide, trivial⟩
  have e_ : encode q (.loop y c l) = [pack [(4, y.code), (6, 4), (2, c.val), (1, 0), (3, l.val), (16, 0)]] := by
    show [w6 y 0x04 (c.val * 2 ^ 20 + l.val * 2 ^ 16)] = _
    simp only [w6, pack, bits, List.cons.injEq, and_true]; omega
  refine roundtrip_one e_ fw rfl (fun w_ hw _ => ?_) rest
  have q_w16_3 : fld w_ 16 3 = l.val := fieldAt hw fw 4 (by simp)
  have q_w0_16 : fld w_ 0 16 = 0 := fieldAt hw fw 5 (by simp)
  have q_w0_19 : fld w_ 0 19 = l.val * 65536 := by simp only [fld] at q_w16_3 q_w0_16 ⊢; omega
  have q_w20_2 : fld w_ 20 2 = c.val := fieldAt hw fw 2 (by simp)
  have f_w20_2 : (fin 2 w_ 20 : Fin 4) = c := Fin.ext q_w20_2
  have f_w16_3 : (fin 3 w_ 16 : Fin 8) = l := Fin.ext q_w16_3
  have q_w19_1 : fld w_ 19 1 = 0 := fieldAt hw fw 3 (by simp)
  have q_w22_6 : fld w_ 22 6 = 4 := fieldAt hw fw 1 (by simp)
  have q_w28_4 : fld w_ 28 4 = y.code := fieldAt hw fw 0 (by simp)
  have ry : Ring.ofWord w_ = y := Ring.ofWord_of q_w28_4
  have hk : (1 ≤ l.val && l.val ≤ 6 : Bool) = true := Instr.operands_of_wf h
  try simp only [Bool.and_eq_true, Bool.or_eq_true, bne_iff_ne, ne_eq, decide_eq_true_eq, beq_iff_eq, Bool.not_eq_true', Bool.and_eq_false_iff, beq_eq_false_iff_ne, not_true_eq_false, false_or, reduceCtorEq, not_false_eq_true, true_or, true_and, and_true] at hk
  refine decode_common 4 q_w22_6 (by decide) ?_
  delta decodeCommon
  rw [q_w22_6]
  simp [need, withCode, q_w16_3, q_w0_16, q_w0_19, q_w20_2, f_w20_2, f_w16_3, q_w19_1, flag, q_w28_4, ry, hk]
  exact ⟨by rintro rfl; exact absurd hk.1 (by decide), by omega⟩

theorem loopI (y : Ring) (c : Fin 4) (n : BitVec 19) : Statement (.loopI y c n) := by
  intro q rest h
  have fw : Fits [(4, y.code), (6, 4), (2, c.val), (1, 1), (19, n.toNat)] := ⟨y.code_lt, by decide, c.isLt, by decide, n.isLt, trivial⟩
  have e_ : encode q (.loopI y c n) = [pack [(4, y.code), (6, 4), (2, c.val), (1, 1), (19, n.toNat)]] := by
    show [w6 y 0x04 (c.val * 2 ^ 20 + 2 ^ 19 + n.toNat)] = _
    simp only [w6, pack, bits, List.cons.injEq, and_true]; omega
  refine roundtrip_one e_ fw rfl (fun w_ hw _ => ?_) rest
  have q_w0_19 : fld w_ 0 19 = n.toNat := fieldAt hw fw 4 (by simp)
  have q_w0_16 : fld w_ 0 16 = fld n.toNat 0 16 := fld_within (i := 0) q_w0_19 (by decide)
  have q_w16_3 : fld w_ 16 3 = fld n.toNat 16 3 := fld_within (i := 16) q_w0_19 (by decide)
  have q_w20_2 : fld w_ 20 2 = c.val := fieldAt hw fw 2 (by simp)
  have f_w20_2 : (fin 2 w_ 20 : Fin 4) = c := Fin.ext q_w20_2
  have f_w0_19 : bvf 19 w_ 0 = n := bvf_of q_w0_19
  have q_w19_1 : fld w_ 19 1 = 1 := fieldAt hw fw 3 (by simp)
  have q_w22_6 : fld w_ 22 6 = 4 := fieldAt hw fw 1 (by simp)
  have q_w28_4 : fld w_ 28 4 = y.code := fieldAt hw fw 0 (by simp)
  have ry : Ring.ofWord w_ = y := Ring.ofWord_of q_w28_4
  have hk : (n != 0 : Bool) = true := Instr.operands_of_wf h
  try simp only [Bool.and_eq_true, Bool.or_eq_true, bne_iff_ne, ne_eq, decide_eq_true_eq, beq_iff_eq, Bool.not_eq_true', Bool.and_eq_false_iff, beq_eq_false_iff_ne, not_true_eq_false, false_or, reduceCtorEq, not_false_eq_true, true_or, true_and, and_true] at hk
  refine decode_common 4 q_w22_6 (by decide) ?_
  delta decodeCommon
  rw [q_w22_6]
  simp [need, withCode, q_w0_19, q_w0_16, q_w16_3, q_w20_2, f_w20_2, f_w0_19, q_w19_1, flag, q_w28_4, ry, hk]
  exact fun z => hk (BitVec.eq_of_toNat_eq z)

theorem lb (y : Ring) (c : Fin 4) (o : BitVec 20) : Statement (.lb y c o) := by
  intro q rest h
  have fw : Fits [(4, y.code), (6, 5), (2, c.val), (20, o.toNat)] := ⟨y.code_lt, by decide, c.isLt, o.isLt, trivial⟩
  have e_ : encode q (.lb y c o) = [pack [(4, y.code), (6, 5), (2, c.val), (20, o.toNat)]] := by
    show [w6 y 0x05 (c.val * 2 ^ 20 + o.toNat)] = _
    simp only [w6, pack, bits, List.cons.injEq, and_true]; omega
  refine roundtrip_one e_ fw rfl (fun w_ hw _ => ?_) rest
  have q_w20_2 : fld w_ 20 2 = c.val := fieldAt hw fw 2 (by simp)
  have f_w20_2 : (fin 2 w_ 20 : Fin 4) = c := Fin.ext q_w20_2
  have q_w0_20 : fld w_ 0 20 = o.toNat := fieldAt hw fw 3 (by simp)
  have f_w0_20 : bvf 20 w_ 0 = o := bvf_of q_w0_20
  have q_w22_6 : fld w_ 22 6 = 5 := fieldAt hw fw 1 (by simp)
  have q_w28_4 : fld w_ 28 4 = y.code := fieldAt hw fw 0 (by simp)
  have ry : Ring.ofWord w_ = y := Ring.ofWord_of q_w28_4
  refine decode_common 5 q_w22_6 (by decide) ?_
  delta decodeCommon
  rw [q_w22_6]
  simp [need, withCode, q_w20_2, f_w20_2, q_w0_20, f_w0_20, q_w28_4, ry]

theorem lx (y : Ring) (c : Fin 4) (n : Bool) (p : Fin 8) (o : BitVec 15) : Statement (.lx y c n p o) := by
  intro q rest h
  have fw : Fits [(4, y.code), (6, 6), (2, c.val), (1, n.toNat), (1, 0), (3, p.val), (15, o.toNat)] := ⟨y.code_lt, by decide, c.isLt, Bool.toNat_lt n, by decide, p.isLt, o.isLt, trivial⟩
  have e_ : encode q (.lx y c n p o) = [pack [(4, y.code), (6, 6), (2, c.val), (1, n.toNat), (1, 0), (3, p.val), (15, o.toNat)]] := by
    show [w6 y 0x06 (c.val * 2 ^ 20 + n.toNat * 2 ^ 19 + p.val * 2 ^ 15 + o.toNat)] = _
    simp only [w6, pack, bits, List.cons.injEq, and_true]; omega
  refine roundtrip_one e_ fw rfl (fun w_ hw _ => ?_) rest
  have q_w18_1 : fld w_ 18 1 = 0 := fieldAt hw fw 4 (by simp)
  have q_w20_2 : fld w_ 20 2 = c.val := fieldAt hw fw 2 (by simp)
  have f_w20_2 : (fin 2 w_ 20 : Fin 4) = c := Fin.ext q_w20_2
  have q_w15_3 : fld w_ 15 3 = p.val := fieldAt hw fw 5 (by simp)
  have f_w15_3 : (fin 3 w_ 15 : Fin 8) = p := Fin.ext q_w15_3
  have q_w0_15 : fld w_ 0 15 = o.toNat := fieldAt hw fw 6 (by simp)
  have f_w0_15 : bvf 15 w_ 0 = o := bvf_of q_w0_15
  have q_w19_1 : fld w_ 19 1 = n.toNat := fieldAt hw fw 3 (by simp)
  have f_w19 : flag w_ 19 = n := flag_of q_w19_1
  have q_w22_6 : fld w_ 22 6 = 6 := fieldAt hw fw 1 (by simp)
  have q_w28_4 : fld w_ 28 4 = y.code := fieldAt hw fw 0 (by simp)
  have ry : Ring.ofWord w_ = y := Ring.ofWord_of q_w28_4
  refine decode_common 6 q_w22_6 (by decide) ?_
  delta decodeCommon
  rw [q_w22_6]
  simp [need, withCode, q_w18_1, q_w20_2, f_w20_2, q_w15_3, f_w15_3, q_w0_15, f_w0_15, q_w19_1, f_w19, q_w28_4, ry]

theorem budget (y : Ring) (e : Fin 8) : Statement (.budget y e) := by
  intro q rest h
  have fw : Fits [(4, y.code), (6, 7), (19, 0), (3, e.val)] := ⟨y.code_lt, by decide, by decide, e.isLt, trivial⟩
  have e_ : encode q (.budget y e) = [pack [(4, y.code), (6, 7), (19, 0), (3, e.val)]] := by
    show [w6 y 0x07 e.val] = _
    simp only [w6, pack, bits, List.cons.injEq, and_true]; omega
  refine roundtrip_one e_ fw rfl (fun w_ hw _ => ?_) rest
  have q_w3_19 : fld w_ 3 19 = 0 := fieldAt hw fw 2 (by simp)
  have q_w0_3 : fld w_ 0 3 = e.val := fieldAt hw fw 3 (by simp)
  have f_w0_3 : (fin 3 w_ 0 : Fin 8) = e := Fin.ext q_w0_3
  have q_w22_6 : fld w_ 22 6 = 7 := fieldAt hw fw 1 (by simp)
  have q_w28_4 : fld w_ 28 4 = y.code := fieldAt hw fw 0 (by simp)
  have ry : Ring.ofWord w_ = y := Ring.ofWord_of q_w28_4
  refine decode_common 7 q_w22_6 (by decide) ?_
  delta decodeCommon
  rw [q_w22_6]
  simp [need, withCode, q_w3_19, q_w0_3, f_w0_3, q_w28_4, ry]

theorem mwait (y : Ring) (w : Waits) : Statement (.mwait y w) := by
  intro q rest h
  have fw : Fits [(4, y.code), (6, 8), (4, 0), (18, w.code)] := ⟨y.code_lt, by decide, by decide, w.code_lt, trivial⟩
  have e_ : encode q (.mwait y w) = [pack [(4, y.code), (6, 8), (4, 0), (18, w.code)]] := by
    show [w6 y 0x08 w.code] = _
    simp only [w6, pack, bits, List.cons.injEq, and_true]; omega
  refine roundtrip_one e_ fw rfl (fun w_ hw _ => ?_) rest
  have q_w18_4 : fld w_ 18 4 = 0 := fieldAt hw fw 2 (by simp)
  have q_w22_6 : fld w_ 22 6 = 8 := fieldAt hw fw 1 (by simp)
  have q_w28_4 : fld w_ 28 4 = y.code := fieldAt hw fw 0 (by simp)
  have ry : Ring.ofWord w_ = y := Ring.ofWord_of q_w28_4
  have q_w0_18 : fld w_ 0 18 = w.code := fieldAt hw fw 3 (by simp)
  have rw_ := Waits.ofWord_of q_w0_18
  have hk : (w.any : Bool) = true := Instr.operands_of_wf h
  try simp only [Bool.and_eq_true, Bool.or_eq_true, bne_iff_ne, ne_eq, decide_eq_true_eq, beq_iff_eq, Bool.not_eq_true', Bool.and_eq_false_iff, beq_eq_false_iff_ne, not_true_eq_false, false_or, reduceCtorEq, not_false_eq_true, true_or, true_and, and_true] at hk
  refine decode_common 8 q_w22_6 (by decide) ?_
  delta decodeCommon
  rw [q_w22_6]
  simp [need, withCode, q_w18_4, q_w28_4, ry, q_w0_18, rw_, hk]

theorem gen (y : Ring) : Statement (.gen y) := by
  intro q rest h
  have fw : Fits [(4, y.code), (6, 9), (22, 0)] := ⟨y.code_lt, by decide, by decide, trivial⟩
  have e_ : encode q (.gen y) = [pack [(4, y.code), (6, 9), (22, 0)]] := by
    show [w6 y 0x09 0] = _
    simp only [w6, pack, bits, List.cons.injEq, and_true]; omega
  refine roundtrip_one e_ fw rfl (fun w_ hw _ => ?_) rest
  have q_w0_22 : fld w_ 0 22 = 0 := fieldAt hw fw 2 (by simp)
  have q_w22_6 : fld w_ 22 6 = 9 := fieldAt hw fw 1 (by simp)
  have q_w28_4 : fld w_ 28 4 = y.code := fieldAt hw fw 0 (by simp)
  have ry : Ring.ofWord w_ = y := Ring.ofWord_of q_w28_4
  refine decode_common 9 q_w22_6 (by decide) ?_
  delta decodeCommon
  rw [q_w22_6]
  simp [need, withCode, q_w0_22, q_w28_4, ry]

theorem phase (y : Ring) : Statement (.phase y) := by
  intro q rest h
  have fw : Fits [(4, y.code), (6, 10), (22, 0)] := ⟨y.code_lt, by decide, by decide, trivial⟩
  have e_ : encode q (.phase y) = [pack [(4, y.code), (6, 10), (22, 0)]] := by
    show [w6 y 0x0A 0] = _
    simp only [w6, pack, bits, List.cons.injEq, and_true]; omega
  refine roundtrip_one e_ fw rfl (fun w_ hw _ => ?_) rest
  have q_w0_22 : fld w_ 0 22 = 0 := fieldAt hw fw 2 (by simp)
  have q_w22_6 : fld w_ 22 6 = 10 := fieldAt hw fw 1 (by simp)
  have q_w28_4 : fld w_ 28 4 = y.code := fieldAt hw fw 0 (by simp)
  have ry : Ring.ofWord w_ = y := Ring.ofWord_of q_w28_4
  refine decode_common 10 q_w22_6 (by decide) ?_
  delta decodeCommon
  rw [q_w22_6]
  simp [need, withCode, q_w0_22, q_w28_4, ry]

theorem seg (y : Ring) (n : BitVec 16) (crc : W32) : Statement (.seg y n crc) := by
  intro q rest h
  have b_crc := crc.isLt
  have fw : Fits [(4, y.code), (6, 11), (2, 0), (4, (crc.toNat / 268435456)), (16, n.toNat)] := ⟨y.code_lt, by decide, by decide, by omega, n.isLt, trivial⟩
  have fv : Fits [(4, 0), (28, (crc.toNat % 268435456))] := ⟨by decide, by omega, trivial⟩
  have e_ : encode q (.seg y n crc) = [pack [(4, y.code), (6, 11), (2, 0), (4, (crc.toNat / 268435456)), (16, n.toNat)], pack [(4, 0), (28, (crc.toNat % 268435456))]] := by
    show [w6 y 0x0B (crc.toNat / 2 ^ 28 * 2 ^ 16 + n.toNat), crc.toNat % 2 ^ 28] = _
    simp only [w6, pack, bits, List.cons.injEq, and_true]; exact ⟨by omega, by omega⟩
  refine roundtrip_two e_ fw rfl fv rfl (fun w_ v_ hw hv => ?_) rest
  have q_w20_2 : fld w_ 20 2 = 0 := fieldAt hw fw 2 (by simp)
  have q_w16_4 : fld w_ 16 4 = (crc.toNat / 268435456) := fieldAt hw fw 3 (by simp)
  have q_v0_28 : fld v_ 0 28 = (crc.toNat % 268435456) := fieldAt hv fv 1 (by simp)
  have q_w0_16 : fld w_ 0 16 = n.toNat := fieldAt hw fw 4 (by simp)
  have f_w0_16 : bvf 16 w_ 0 = n := bvf_of q_w0_16
  have q_w22_6 : fld w_ 22 6 = 11 := fieldAt hw fw 1 (by simp)
  have q_w28_4 : fld w_ 28 4 = y.code := fieldAt hw fw 0 (by simp)
  have ry : Ring.ofWord w_ = y := Ring.ofWord_of q_w28_4
  have q_v28_4 : fld v_ 28 4 = 0 := fieldAt hv fv 0 (by simp)
  refine decode_common2 q_w22_6 q_v28_4 ?_
  delta decodeCommon
  rw [q_w22_6]
  simp [need, withCode, q_w20_2, q_w16_4, q_v0_28, q_w0_16, f_w0_16, q_w28_4, ry, q_v28_4]
  apply BitVec.eq_of_toNat_eq; simp only [BitVec.toNat_ofNat]; omega

theorem recv (y : Ring) (d : Fin 16) : Statement (.recv y d) := by
  intro q rest h
  have hq := not_ctl (Instr.streams_of_wf h)
  have fw : Fits [(4, y.code), (6, 12), (18, 0), (4, d.val)] := ⟨y.code_lt, by decide, by decide, d.isLt, trivial⟩
  have e_ : encode q (.recv y d) = [pack [(4, y.code), (6, 12), (18, 0), (4, d.val)]] := by
    show [w6 y 0x0C d.val] = _
    simp only [w6, pack, bits, List.cons.injEq, and_true]; omega
  refine roundtrip_one e_ fw rfl (fun w_ hw _ => ?_) rest
  have q_w4_18 : fld w_ 4 18 = 0 := fieldAt hw fw 2 (by simp)
  have q_w0_4 : fld w_ 0 4 = d.val := fieldAt hw fw 3 (by simp)
  have f_w0_4 : (fin 4 w_ 0 : Fin 16) = d := Fin.ext q_w0_4
  have q_w22_6 : fld w_ 22 6 = 12 := fieldAt hw fw 1 (by simp)
  have q_w28_4 : fld w_ 28 4 = y.code := fieldAt hw fw 0 (by simp)
  have ry : Ring.ofWord w_ = y := Ring.ofWord_of q_w28_4
  have hk : (q != .ex || d.val < 8 : Bool) = true := Instr.operands_of_wf h
  try simp only [Bool.and_eq_true, Bool.or_eq_true, bne_iff_ne, ne_eq, decide_eq_true_eq, beq_iff_eq, Bool.not_eq_true', Bool.and_eq_false_iff, beq_eq_false_iff_ne, not_true_eq_false, false_or, reduceCtorEq, not_false_eq_true, true_or, true_and, and_true] at hk
  refine decode_common 12 q_w22_6 (by decide) ?_
  delta decodeCommon
  rw [q_w22_6]
  simp [need, withCode, q_w4_18, q_w0_4, f_w0_4, q_w28_4, ry, hk, hq]

theorem add (y : Ring) (d : Fin 32) (a : Fin 32) (b : Fin 32) : Statement (.add y d a b) := by
  intro q rest h
  obtain rfl := only_ctl (Instr.streams_of_wf h)
  have fw : Fits [(4, y.code), (6, 13), (5, d.val), (5, a.val), (5, b.val), (7, 0)] := ⟨y.code_lt, by decide, d.isLt, a.isLt, b.isLt, by decide, trivial⟩
  have e_ : encode .ctl (.add y d a b) = [pack [(4, y.code), (6, 13), (5, d.val), (5, a.val), (5, b.val), (7, 0)]] := by
    show [w6 y 0x0D (c3 d a b 0x00)] = _
    simp only [w6, c3, pack, bits, List.cons.injEq, and_true]; omega
  refine roundtrip_one e_ fw rfl (fun w_ hw _ => ?_) rest
  have q_w17_5 : fld w_ 17 5 = d.val := fieldAt hw fw 2 (by simp)
  have f_w17_5 : (fin 5 w_ 17 : Fin 32) = d := Fin.ext q_w17_5
  have q_w12_5 : fld w_ 12 5 = a.val := fieldAt hw fw 3 (by simp)
  have f_w12_5 : (fin 5 w_ 12 : Fin 32) = a := Fin.ext q_w12_5
  have q_w7_5 : fld w_ 7 5 = b.val := fieldAt hw fw 4 (by simp)
  have f_w7_5 : (fin 5 w_ 7 : Fin 32) = b := Fin.ext q_w7_5
  have q_w0_7 : fld w_ 0 7 = 0 := fieldAt hw fw 5 (by simp)
  have q_w22_6 : fld w_ 22 6 = 13 := fieldAt hw fw 1 (by simp)
  have q_w28_4 : fld w_ 28 4 = y.code := fieldAt hw fw 0 (by simp)
  have ry : Ring.ofWord w_ = y := Ring.ofWord_of q_w28_4
  refine decode_ctl1 13 q_w22_6 rfl ?_
  delta decodeCtl
  rw [q_w22_6]
  show decodeAlu _ = _
  delta decodeAlu
  rw [q_w0_7]
  simp [need, withCode, q_w17_5, f_w17_5, q_w12_5, f_w12_5, q_w7_5, f_w7_5, q_w0_7, q_w28_4, ry]

theorem addS (y : Ring) (d : Fin 32) (a : Fin 32) (b : Fin 32) : Statement (.addS y d a b) := by
  intro q rest h
  obtain rfl := only_ctl (Instr.streams_of_wf h)
  have fw : Fits [(4, y.code), (6, 13), (5, d.val), (5, a.val), (5, b.val), (7, 64)] := ⟨y.code_lt, by decide, d.isLt, a.isLt, b.isLt, by decide, trivial⟩
  have e_ : encode .ctl (.addS y d a b) = [pack [(4, y.code), (6, 13), (5, d.val), (5, a.val), (5, b.val), (7, 64)]] := by
    show [w6 y 0x0D (c3 d a b 0x40)] = _
    simp only [w6, c3, pack, bits, List.cons.injEq, and_true]; omega
  refine roundtrip_one e_ fw rfl (fun w_ hw _ => ?_) rest
  have q_w17_5 : fld w_ 17 5 = d.val := fieldAt hw fw 2 (by simp)
  have f_w17_5 : (fin 5 w_ 17 : Fin 32) = d := Fin.ext q_w17_5
  have q_w12_5 : fld w_ 12 5 = a.val := fieldAt hw fw 3 (by simp)
  have f_w12_5 : (fin 5 w_ 12 : Fin 32) = a := Fin.ext q_w12_5
  have q_w7_5 : fld w_ 7 5 = b.val := fieldAt hw fw 4 (by simp)
  have f_w7_5 : (fin 5 w_ 7 : Fin 32) = b := Fin.ext q_w7_5
  have q_w0_7 : fld w_ 0 7 = 64 := fieldAt hw fw 5 (by simp)
  have q_w22_6 : fld w_ 22 6 = 13 := fieldAt hw fw 1 (by simp)
  have q_w28_4 : fld w_ 28 4 = y.code := fieldAt hw fw 0 (by simp)
  have ry : Ring.ofWord w_ = y := Ring.ofWord_of q_w28_4
  refine decode_ctl1 13 q_w22_6 rfl ?_
  delta decodeCtl
  rw [q_w22_6]
  show decodeAlu _ = _
  delta decodeAlu
  rw [q_w0_7]
  simp [need, withCode, q_w17_5, f_w17_5, q_w12_5, f_w12_5, q_w7_5, f_w7_5, q_w0_7, q_w28_4, ry]

theorem sub (y : Ring) (d : Fin 32) (a : Fin 32) (b : Fin 32) : Statement (.sub y d a b) := by
  intro q rest h
  obtain rfl := only_ctl (Instr.streams_of_wf h)
  have fw : Fits [(4, y.code), (6, 13), (5, d.val), (5, a.val), (5, b.val), (7, 1)] := ⟨y.code_lt, by decide, d.isLt, a.isLt, b.isLt, by decide, trivial⟩
  have e_ : encode .ctl (.sub y d a b) = [pack [(4, y.code), (6, 13), (5, d.val), (5, a.val), (5, b.val), (7, 1)]] := by
    show [w6 y 0x0D (c3 d a b 0x01)] = _
    simp only [w6, c3, pack, bits, List.cons.injEq, and_true]; omega
  refine roundtrip_one e_ fw rfl (fun w_ hw _ => ?_) rest
  have q_w17_5 : fld w_ 17 5 = d.val := fieldAt hw fw 2 (by simp)
  have f_w17_5 : (fin 5 w_ 17 : Fin 32) = d := Fin.ext q_w17_5
  have q_w12_5 : fld w_ 12 5 = a.val := fieldAt hw fw 3 (by simp)
  have f_w12_5 : (fin 5 w_ 12 : Fin 32) = a := Fin.ext q_w12_5
  have q_w7_5 : fld w_ 7 5 = b.val := fieldAt hw fw 4 (by simp)
  have f_w7_5 : (fin 5 w_ 7 : Fin 32) = b := Fin.ext q_w7_5
  have q_w0_7 : fld w_ 0 7 = 1 := fieldAt hw fw 5 (by simp)
  have q_w22_6 : fld w_ 22 6 = 13 := fieldAt hw fw 1 (by simp)
  have q_w28_4 : fld w_ 28 4 = y.code := fieldAt hw fw 0 (by simp)
  have ry : Ring.ofWord w_ = y := Ring.ofWord_of q_w28_4
  refine decode_ctl1 13 q_w22_6 rfl ?_
  delta decodeCtl
  rw [q_w22_6]
  show decodeAlu _ = _
  delta decodeAlu
  rw [q_w0_7]
  simp [need, withCode, q_w17_5, f_w17_5, q_w12_5, f_w12_5, q_w7_5, f_w7_5, q_w0_7, q_w28_4, ry]

theorem subS (y : Ring) (d : Fin 32) (a : Fin 32) (b : Fin 32) : Statement (.subS y d a b) := by
  intro q rest h
  obtain rfl := only_ctl (Instr.streams_of_wf h)
  have fw : Fits [(4, y.code), (6, 13), (5, d.val), (5, a.val), (5, b.val), (7, 65)] := ⟨y.code_lt, by decide, d.isLt, a.isLt, b.isLt, by decide, trivial⟩
  have e_ : encode .ctl (.subS y d a b) = [pack [(4, y.code), (6, 13), (5, d.val), (5, a.val), (5, b.val), (7, 65)]] := by
    show [w6 y 0x0D (c3 d a b 0x41)] = _
    simp only [w6, c3, pack, bits, List.cons.injEq, and_true]; omega
  refine roundtrip_one e_ fw rfl (fun w_ hw _ => ?_) rest
  have q_w17_5 : fld w_ 17 5 = d.val := fieldAt hw fw 2 (by simp)
  have f_w17_5 : (fin 5 w_ 17 : Fin 32) = d := Fin.ext q_w17_5
  have q_w12_5 : fld w_ 12 5 = a.val := fieldAt hw fw 3 (by simp)
  have f_w12_5 : (fin 5 w_ 12 : Fin 32) = a := Fin.ext q_w12_5
  have q_w7_5 : fld w_ 7 5 = b.val := fieldAt hw fw 4 (by simp)
  have f_w7_5 : (fin 5 w_ 7 : Fin 32) = b := Fin.ext q_w7_5
  have q_w0_7 : fld w_ 0 7 = 65 := fieldAt hw fw 5 (by simp)
  have q_w22_6 : fld w_ 22 6 = 13 := fieldAt hw fw 1 (by simp)
  have q_w28_4 : fld w_ 28 4 = y.code := fieldAt hw fw 0 (by simp)
  have ry : Ring.ofWord w_ = y := Ring.ofWord_of q_w28_4
  refine decode_ctl1 13 q_w22_6 rfl ?_
  delta decodeCtl
  rw [q_w22_6]
  show decodeAlu _ = _
  delta decodeAlu
  rw [q_w0_7]
  simp [need, withCode, q_w17_5, f_w17_5, q_w12_5, f_w12_5, q_w7_5, f_w7_5, q_w0_7, q_w28_4, ry]

theorem and (y : Ring) (d : Fin 32) (a : Fin 32) (b : Fin 32) : Statement (.and y d a b) := by
  intro q rest h
  obtain rfl := only_ctl (Instr.streams_of_wf h)
  have fw : Fits [(4, y.code), (6, 13), (5, d.val), (5, a.val), (5, b.val), (7, 2)] := ⟨y.code_lt, by decide, d.isLt, a.isLt, b.isLt, by decide, trivial⟩
  have e_ : encode .ctl (.and y d a b) = [pack [(4, y.code), (6, 13), (5, d.val), (5, a.val), (5, b.val), (7, 2)]] := by
    show [w6 y 0x0D (c3 d a b 0x02)] = _
    simp only [w6, c3, pack, bits, List.cons.injEq, and_true]; omega
  refine roundtrip_one e_ fw rfl (fun w_ hw _ => ?_) rest
  have q_w17_5 : fld w_ 17 5 = d.val := fieldAt hw fw 2 (by simp)
  have f_w17_5 : (fin 5 w_ 17 : Fin 32) = d := Fin.ext q_w17_5
  have q_w12_5 : fld w_ 12 5 = a.val := fieldAt hw fw 3 (by simp)
  have f_w12_5 : (fin 5 w_ 12 : Fin 32) = a := Fin.ext q_w12_5
  have q_w7_5 : fld w_ 7 5 = b.val := fieldAt hw fw 4 (by simp)
  have f_w7_5 : (fin 5 w_ 7 : Fin 32) = b := Fin.ext q_w7_5
  have q_w0_7 : fld w_ 0 7 = 2 := fieldAt hw fw 5 (by simp)
  have q_w22_6 : fld w_ 22 6 = 13 := fieldAt hw fw 1 (by simp)
  have q_w28_4 : fld w_ 28 4 = y.code := fieldAt hw fw 0 (by simp)
  have ry : Ring.ofWord w_ = y := Ring.ofWord_of q_w28_4
  refine decode_ctl1 13 q_w22_6 rfl ?_
  delta decodeCtl
  rw [q_w22_6]
  show decodeAlu _ = _
  delta decodeAlu
  rw [q_w0_7]
  simp [need, withCode, q_w17_5, f_w17_5, q_w12_5, f_w12_5, q_w7_5, f_w7_5, q_w0_7, q_w28_4, ry]

theorem or (y : Ring) (d : Fin 32) (a : Fin 32) (b : Fin 32) : Statement (.or y d a b) := by
  intro q rest h
  obtain rfl := only_ctl (Instr.streams_of_wf h)
  have fw : Fits [(4, y.code), (6, 13), (5, d.val), (5, a.val), (5, b.val), (7, 3)] := ⟨y.code_lt, by decide, d.isLt, a.isLt, b.isLt, by decide, trivial⟩
  have e_ : encode .ctl (.or y d a b) = [pack [(4, y.code), (6, 13), (5, d.val), (5, a.val), (5, b.val), (7, 3)]] := by
    show [w6 y 0x0D (c3 d a b 0x03)] = _
    simp only [w6, c3, pack, bits, List.cons.injEq, and_true]; omega
  refine roundtrip_one e_ fw rfl (fun w_ hw _ => ?_) rest
  have q_w17_5 : fld w_ 17 5 = d.val := fieldAt hw fw 2 (by simp)
  have f_w17_5 : (fin 5 w_ 17 : Fin 32) = d := Fin.ext q_w17_5
  have q_w12_5 : fld w_ 12 5 = a.val := fieldAt hw fw 3 (by simp)
  have f_w12_5 : (fin 5 w_ 12 : Fin 32) = a := Fin.ext q_w12_5
  have q_w7_5 : fld w_ 7 5 = b.val := fieldAt hw fw 4 (by simp)
  have f_w7_5 : (fin 5 w_ 7 : Fin 32) = b := Fin.ext q_w7_5
  have q_w0_7 : fld w_ 0 7 = 3 := fieldAt hw fw 5 (by simp)
  have q_w22_6 : fld w_ 22 6 = 13 := fieldAt hw fw 1 (by simp)
  have q_w28_4 : fld w_ 28 4 = y.code := fieldAt hw fw 0 (by simp)
  have ry : Ring.ofWord w_ = y := Ring.ofWord_of q_w28_4
  refine decode_ctl1 13 q_w22_6 rfl ?_
  delta decodeCtl
  rw [q_w22_6]
  show decodeAlu _ = _
  delta decodeAlu
  rw [q_w0_7]
  simp [need, withCode, q_w17_5, f_w17_5, q_w12_5, f_w12_5, q_w7_5, f_w7_5, q_w0_7, q_w28_4, ry]

theorem xor (y : Ring) (d : Fin 32) (a : Fin 32) (b : Fin 32) : Statement (.xor y d a b) := by
  intro q rest h
  obtain rfl := only_ctl (Instr.streams_of_wf h)
  have fw : Fits [(4, y.code), (6, 13), (5, d.val), (5, a.val), (5, b.val), (7, 4)] := ⟨y.code_lt, by decide, d.isLt, a.isLt, b.isLt, by decide, trivial⟩
  have e_ : encode .ctl (.xor y d a b) = [pack [(4, y.code), (6, 13), (5, d.val), (5, a.val), (5, b.val), (7, 4)]] := by
    show [w6 y 0x0D (c3 d a b 0x04)] = _
    simp only [w6, c3, pack, bits, List.cons.injEq, and_true]; omega
  refine roundtrip_one e_ fw rfl (fun w_ hw _ => ?_) rest
  have q_w17_5 : fld w_ 17 5 = d.val := fieldAt hw fw 2 (by simp)
  have f_w17_5 : (fin 5 w_ 17 : Fin 32) = d := Fin.ext q_w17_5
  have q_w12_5 : fld w_ 12 5 = a.val := fieldAt hw fw 3 (by simp)
  have f_w12_5 : (fin 5 w_ 12 : Fin 32) = a := Fin.ext q_w12_5
  have q_w7_5 : fld w_ 7 5 = b.val := fieldAt hw fw 4 (by simp)
  have f_w7_5 : (fin 5 w_ 7 : Fin 32) = b := Fin.ext q_w7_5
  have q_w0_7 : fld w_ 0 7 = 4 := fieldAt hw fw 5 (by simp)
  have q_w22_6 : fld w_ 22 6 = 13 := fieldAt hw fw 1 (by simp)
  have q_w28_4 : fld w_ 28 4 = y.code := fieldAt hw fw 0 (by simp)
  have ry : Ring.ofWord w_ = y := Ring.ofWord_of q_w28_4
  refine decode_ctl1 13 q_w22_6 rfl ?_
  delta decodeCtl
  rw [q_w22_6]
  show decodeAlu _ = _
  delta decodeAlu
  rw [q_w0_7]
  simp [need, withCode, q_w17_5, f_w17_5, q_w12_5, f_w12_5, q_w7_5, f_w7_5, q_w0_7, q_w28_4, ry]

theorem shl (y : Ring) (d : Fin 32) (a : Fin 32) (b : Fin 32) : Statement (.shl y d a b) := by
  intro q rest h
  obtain rfl := only_ctl (Instr.streams_of_wf h)
  have fw : Fits [(4, y.code), (6, 13), (5, d.val), (5, a.val), (5, b.val), (7, 5)] := ⟨y.code_lt, by decide, d.isLt, a.isLt, b.isLt, by decide, trivial⟩
  have e_ : encode .ctl (.shl y d a b) = [pack [(4, y.code), (6, 13), (5, d.val), (5, a.val), (5, b.val), (7, 5)]] := by
    show [w6 y 0x0D (c3 d a b 0x05)] = _
    simp only [w6, c3, pack, bits, List.cons.injEq, and_true]; omega
  refine roundtrip_one e_ fw rfl (fun w_ hw _ => ?_) rest
  have q_w17_5 : fld w_ 17 5 = d.val := fieldAt hw fw 2 (by simp)
  have f_w17_5 : (fin 5 w_ 17 : Fin 32) = d := Fin.ext q_w17_5
  have q_w12_5 : fld w_ 12 5 = a.val := fieldAt hw fw 3 (by simp)
  have f_w12_5 : (fin 5 w_ 12 : Fin 32) = a := Fin.ext q_w12_5
  have q_w7_5 : fld w_ 7 5 = b.val := fieldAt hw fw 4 (by simp)
  have f_w7_5 : (fin 5 w_ 7 : Fin 32) = b := Fin.ext q_w7_5
  have q_w0_7 : fld w_ 0 7 = 5 := fieldAt hw fw 5 (by simp)
  have q_w22_6 : fld w_ 22 6 = 13 := fieldAt hw fw 1 (by simp)
  have q_w28_4 : fld w_ 28 4 = y.code := fieldAt hw fw 0 (by simp)
  have ry : Ring.ofWord w_ = y := Ring.ofWord_of q_w28_4
  refine decode_ctl1 13 q_w22_6 rfl ?_
  delta decodeCtl
  rw [q_w22_6]
  show decodeAlu _ = _
  delta decodeAlu
  rw [q_w0_7]
  simp [need, withCode, q_w17_5, f_w17_5, q_w12_5, f_w12_5, q_w7_5, f_w7_5, q_w0_7, q_w28_4, ry]

theorem shr (y : Ring) (d : Fin 32) (a : Fin 32) (b : Fin 32) : Statement (.shr y d a b) := by
  intro q rest h
  obtain rfl := only_ctl (Instr.streams_of_wf h)
  have fw : Fits [(4, y.code), (6, 13), (5, d.val), (5, a.val), (5, b.val), (7, 6)] := ⟨y.code_lt, by decide, d.isLt, a.isLt, b.isLt, by decide, trivial⟩
  have e_ : encode .ctl (.shr y d a b) = [pack [(4, y.code), (6, 13), (5, d.val), (5, a.val), (5, b.val), (7, 6)]] := by
    show [w6 y 0x0D (c3 d a b 0x06)] = _
    simp only [w6, c3, pack, bits, List.cons.injEq, and_true]; omega
  refine roundtrip_one e_ fw rfl (fun w_ hw _ => ?_) rest
  have q_w17_5 : fld w_ 17 5 = d.val := fieldAt hw fw 2 (by simp)
  have f_w17_5 : (fin 5 w_ 17 : Fin 32) = d := Fin.ext q_w17_5
  have q_w12_5 : fld w_ 12 5 = a.val := fieldAt hw fw 3 (by simp)
  have f_w12_5 : (fin 5 w_ 12 : Fin 32) = a := Fin.ext q_w12_5
  have q_w7_5 : fld w_ 7 5 = b.val := fieldAt hw fw 4 (by simp)
  have f_w7_5 : (fin 5 w_ 7 : Fin 32) = b := Fin.ext q_w7_5
  have q_w0_7 : fld w_ 0 7 = 6 := fieldAt hw fw 5 (by simp)
  have q_w22_6 : fld w_ 22 6 = 13 := fieldAt hw fw 1 (by simp)
  have q_w28_4 : fld w_ 28 4 = y.code := fieldAt hw fw 0 (by simp)
  have ry : Ring.ofWord w_ = y := Ring.ofWord_of q_w28_4
  refine decode_ctl1 13 q_w22_6 rfl ?_
  delta decodeCtl
  rw [q_w22_6]
  show decodeAlu _ = _
  delta decodeAlu
  rw [q_w0_7]
  simp [need, withCode, q_w17_5, f_w17_5, q_w12_5, f_w12_5, q_w7_5, f_w7_5, q_w0_7, q_w28_4, ry]

theorem sra (y : Ring) (d : Fin 32) (a : Fin 32) (b : Fin 32) : Statement (.sra y d a b) := by
  intro q rest h
  obtain rfl := only_ctl (Instr.streams_of_wf h)
  have fw : Fits [(4, y.code), (6, 13), (5, d.val), (5, a.val), (5, b.val), (7, 7)] := ⟨y.code_lt, by decide, d.isLt, a.isLt, b.isLt, by decide, trivial⟩
  have e_ : encode .ctl (.sra y d a b) = [pack [(4, y.code), (6, 13), (5, d.val), (5, a.val), (5, b.val), (7, 7)]] := by
    show [w6 y 0x0D (c3 d a b 0x07)] = _
    simp only [w6, c3, pack, bits, List.cons.injEq, and_true]; omega
  refine roundtrip_one e_ fw rfl (fun w_ hw _ => ?_) rest
  have q_w17_5 : fld w_ 17 5 = d.val := fieldAt hw fw 2 (by simp)
  have f_w17_5 : (fin 5 w_ 17 : Fin 32) = d := Fin.ext q_w17_5
  have q_w12_5 : fld w_ 12 5 = a.val := fieldAt hw fw 3 (by simp)
  have f_w12_5 : (fin 5 w_ 12 : Fin 32) = a := Fin.ext q_w12_5
  have q_w7_5 : fld w_ 7 5 = b.val := fieldAt hw fw 4 (by simp)
  have f_w7_5 : (fin 5 w_ 7 : Fin 32) = b := Fin.ext q_w7_5
  have q_w0_7 : fld w_ 0 7 = 7 := fieldAt hw fw 5 (by simp)
  have q_w22_6 : fld w_ 22 6 = 13 := fieldAt hw fw 1 (by simp)
  have q_w28_4 : fld w_ 28 4 = y.code := fieldAt hw fw 0 (by simp)
  have ry : Ring.ofWord w_ = y := Ring.ofWord_of q_w28_4
  refine decode_ctl1 13 q_w22_6 rfl ?_
  delta decodeCtl
  rw [q_w22_6]
  show decodeAlu _ = _
  delta decodeAlu
  rw [q_w0_7]
  simp [need, withCode, q_w17_5, f_w17_5, q_w12_5, f_w12_5, q_w7_5, f_w7_5, q_w0_7, q_w28_4, ry]

theorem mul (y : Ring) (d : Fin 32) (a : Fin 32) (b : Fin 32) : Statement (.mul y d a b) := by
  intro q rest h
  obtain rfl := only_ctl (Instr.streams_of_wf h)
  have fw : Fits [(4, y.code), (6, 13), (5, d.val), (5, a.val), (5, b.val), (7, 8)] := ⟨y.code_lt, by decide, d.isLt, a.isLt, b.isLt, by decide, trivial⟩
  have e_ : encode .ctl (.mul y d a b) = [pack [(4, y.code), (6, 13), (5, d.val), (5, a.val), (5, b.val), (7, 8)]] := by
    show [w6 y 0x0D (c3 d a b 0x08)] = _
    simp only [w6, c3, pack, bits, List.cons.injEq, and_true]; omega
  refine roundtrip_one e_ fw rfl (fun w_ hw _ => ?_) rest
  have q_w17_5 : fld w_ 17 5 = d.val := fieldAt hw fw 2 (by simp)
  have f_w17_5 : (fin 5 w_ 17 : Fin 32) = d := Fin.ext q_w17_5
  have q_w12_5 : fld w_ 12 5 = a.val := fieldAt hw fw 3 (by simp)
  have f_w12_5 : (fin 5 w_ 12 : Fin 32) = a := Fin.ext q_w12_5
  have q_w7_5 : fld w_ 7 5 = b.val := fieldAt hw fw 4 (by simp)
  have f_w7_5 : (fin 5 w_ 7 : Fin 32) = b := Fin.ext q_w7_5
  have q_w0_7 : fld w_ 0 7 = 8 := fieldAt hw fw 5 (by simp)
  have q_w22_6 : fld w_ 22 6 = 13 := fieldAt hw fw 1 (by simp)
  have q_w28_4 : fld w_ 28 4 = y.code := fieldAt hw fw 0 (by simp)
  have ry : Ring.ofWord w_ = y := Ring.ofWord_of q_w28_4
  refine decode_ctl1 13 q_w22_6 rfl ?_
  delta decodeCtl
  rw [q_w22_6]
  show decodeAlu _ = _
  delta decodeAlu
  rw [q_w0_7]
  simp [need, withCode, q_w17_5, f_w17_5, q_w12_5, f_w12_5, q_w7_5, f_w7_5, q_w0_7, q_w28_4, ry]

theorem mulS (y : Ring) (d : Fin 32) (a : Fin 32) (b : Fin 32) : Statement (.mulS y d a b) := by
  intro q rest h
  obtain rfl := only_ctl (Instr.streams_of_wf h)
  have fw : Fits [(4, y.code), (6, 13), (5, d.val), (5, a.val), (5, b.val), (7, 72)] := ⟨y.code_lt, by decide, d.isLt, a.isLt, b.isLt, by decide, trivial⟩
  have e_ : encode .ctl (.mulS y d a b) = [pack [(4, y.code), (6, 13), (5, d.val), (5, a.val), (5, b.val), (7, 72)]] := by
    show [w6 y 0x0D (c3 d a b 0x48)] = _
    simp only [w6, c3, pack, bits, List.cons.injEq, and_true]; omega
  refine roundtrip_one e_ fw rfl (fun w_ hw _ => ?_) rest
  have q_w17_5 : fld w_ 17 5 = d.val := fieldAt hw fw 2 (by simp)
  have f_w17_5 : (fin 5 w_ 17 : Fin 32) = d := Fin.ext q_w17_5
  have q_w12_5 : fld w_ 12 5 = a.val := fieldAt hw fw 3 (by simp)
  have f_w12_5 : (fin 5 w_ 12 : Fin 32) = a := Fin.ext q_w12_5
  have q_w7_5 : fld w_ 7 5 = b.val := fieldAt hw fw 4 (by simp)
  have f_w7_5 : (fin 5 w_ 7 : Fin 32) = b := Fin.ext q_w7_5
  have q_w0_7 : fld w_ 0 7 = 72 := fieldAt hw fw 5 (by simp)
  have q_w22_6 : fld w_ 22 6 = 13 := fieldAt hw fw 1 (by simp)
  have q_w28_4 : fld w_ 28 4 = y.code := fieldAt hw fw 0 (by simp)
  have ry : Ring.ofWord w_ = y := Ring.ofWord_of q_w28_4
  refine decode_ctl1 13 q_w22_6 rfl ?_
  delta decodeCtl
  rw [q_w22_6]
  show decodeAlu _ = _
  delta decodeAlu
  rw [q_w0_7]
  simp [need, withCode, q_w17_5, f_w17_5, q_w12_5, f_w12_5, q_w7_5, f_w7_5, q_w0_7, q_w28_4, ry]

theorem mulh (y : Ring) (d : Fin 32) (a : Fin 32) (b : Fin 32) : Statement (.mulh y d a b) := by
  intro q rest h
  obtain rfl := only_ctl (Instr.streams_of_wf h)
  have fw : Fits [(4, y.code), (6, 13), (5, d.val), (5, a.val), (5, b.val), (7, 9)] := ⟨y.code_lt, by decide, d.isLt, a.isLt, b.isLt, by decide, trivial⟩
  have e_ : encode .ctl (.mulh y d a b) = [pack [(4, y.code), (6, 13), (5, d.val), (5, a.val), (5, b.val), (7, 9)]] := by
    show [w6 y 0x0D (c3 d a b 0x09)] = _
    simp only [w6, c3, pack, bits, List.cons.injEq, and_true]; omega
  refine roundtrip_one e_ fw rfl (fun w_ hw _ => ?_) rest
  have q_w17_5 : fld w_ 17 5 = d.val := fieldAt hw fw 2 (by simp)
  have f_w17_5 : (fin 5 w_ 17 : Fin 32) = d := Fin.ext q_w17_5
  have q_w12_5 : fld w_ 12 5 = a.val := fieldAt hw fw 3 (by simp)
  have f_w12_5 : (fin 5 w_ 12 : Fin 32) = a := Fin.ext q_w12_5
  have q_w7_5 : fld w_ 7 5 = b.val := fieldAt hw fw 4 (by simp)
  have f_w7_5 : (fin 5 w_ 7 : Fin 32) = b := Fin.ext q_w7_5
  have q_w0_7 : fld w_ 0 7 = 9 := fieldAt hw fw 5 (by simp)
  have q_w22_6 : fld w_ 22 6 = 13 := fieldAt hw fw 1 (by simp)
  have q_w28_4 : fld w_ 28 4 = y.code := fieldAt hw fw 0 (by simp)
  have ry : Ring.ofWord w_ = y := Ring.ofWord_of q_w28_4
  refine decode_ctl1 13 q_w22_6 rfl ?_
  delta decodeCtl
  rw [q_w22_6]
  show decodeAlu _ = _
  delta decodeAlu
  rw [q_w0_7]
  simp [need, withCode, q_w17_5, f_w17_5, q_w12_5, f_w12_5, q_w7_5, f_w7_5, q_w0_7, q_w28_4, ry]

theorem mulhn (y : Ring) (d : Fin 32) (a : Fin 32) (b : Fin 32) : Statement (.mulhn y d a b) := by
  intro q rest h
  obtain rfl := only_ctl (Instr.streams_of_wf h)
  have fw : Fits [(4, y.code), (6, 13), (5, d.val), (5, a.val), (5, b.val), (7, 10)] := ⟨y.code_lt, by decide, d.isLt, a.isLt, b.isLt, by decide, trivial⟩
  have e_ : encode .ctl (.mulhn y d a b) = [pack [(4, y.code), (6, 13), (5, d.val), (5, a.val), (5, b.val), (7, 10)]] := by
    show [w6 y 0x0D (c3 d a b 0x0A)] = _
    simp only [w6, c3, pack, bits, List.cons.injEq, and_true]; omega
  refine roundtrip_one e_ fw rfl (fun w_ hw _ => ?_) rest
  have q_w17_5 : fld w_ 17 5 = d.val := fieldAt hw fw 2 (by simp)
  have f_w17_5 : (fin 5 w_ 17 : Fin 32) = d := Fin.ext q_w17_5
  have q_w12_5 : fld w_ 12 5 = a.val := fieldAt hw fw 3 (by simp)
  have f_w12_5 : (fin 5 w_ 12 : Fin 32) = a := Fin.ext q_w12_5
  have q_w7_5 : fld w_ 7 5 = b.val := fieldAt hw fw 4 (by simp)
  have f_w7_5 : (fin 5 w_ 7 : Fin 32) = b := Fin.ext q_w7_5
  have q_w0_7 : fld w_ 0 7 = 10 := fieldAt hw fw 5 (by simp)
  have q_w22_6 : fld w_ 22 6 = 13 := fieldAt hw fw 1 (by simp)
  have q_w28_4 : fld w_ 28 4 = y.code := fieldAt hw fw 0 (by simp)
  have ry : Ring.ofWord w_ = y := Ring.ofWord_of q_w28_4
  refine decode_ctl1 13 q_w22_6 rfl ?_
  delta decodeCtl
  rw [q_w22_6]
  show decodeAlu _ = _
  delta decodeAlu
  rw [q_w0_7]
  simp [need, withCode, q_w17_5, f_w17_5, q_w12_5, f_w12_5, q_w7_5, f_w7_5, q_w0_7, q_w28_4, ry]

theorem div (y : Ring) (d : Fin 32) (a : Fin 32) (b : Fin 32) : Statement (.div y d a b) := by
  intro q rest h
  obtain rfl := only_ctl (Instr.streams_of_wf h)
  have fw : Fits [(4, y.code), (6, 13), (5, d.val), (5, a.val), (5, b.val), (7, 11)] := ⟨y.code_lt, by decide, d.isLt, a.isLt, b.isLt, by decide, trivial⟩
  have e_ : encode .ctl (.div y d a b) = [pack [(4, y.code), (6, 13), (5, d.val), (5, a.val), (5, b.val), (7, 11)]] := by
    show [w6 y 0x0D (c3 d a b 0x0B)] = _
    simp only [w6, c3, pack, bits, List.cons.injEq, and_true]; omega
  refine roundtrip_one e_ fw rfl (fun w_ hw _ => ?_) rest
  have q_w17_5 : fld w_ 17 5 = d.val := fieldAt hw fw 2 (by simp)
  have f_w17_5 : (fin 5 w_ 17 : Fin 32) = d := Fin.ext q_w17_5
  have q_w12_5 : fld w_ 12 5 = a.val := fieldAt hw fw 3 (by simp)
  have f_w12_5 : (fin 5 w_ 12 : Fin 32) = a := Fin.ext q_w12_5
  have q_w7_5 : fld w_ 7 5 = b.val := fieldAt hw fw 4 (by simp)
  have f_w7_5 : (fin 5 w_ 7 : Fin 32) = b := Fin.ext q_w7_5
  have q_w0_7 : fld w_ 0 7 = 11 := fieldAt hw fw 5 (by simp)
  have q_w22_6 : fld w_ 22 6 = 13 := fieldAt hw fw 1 (by simp)
  have q_w28_4 : fld w_ 28 4 = y.code := fieldAt hw fw 0 (by simp)
  have ry : Ring.ofWord w_ = y := Ring.ofWord_of q_w28_4
  refine decode_ctl1 13 q_w22_6 rfl ?_
  delta decodeCtl
  rw [q_w22_6]
  show decodeAlu _ = _
  delta decodeAlu
  rw [q_w0_7]
  simp [need, withCode, q_w17_5, f_w17_5, q_w12_5, f_w12_5, q_w7_5, f_w7_5, q_w0_7, q_w28_4, ry]

theorem divn (y : Ring) (d : Fin 32) (a : Fin 32) (b : Fin 32) : Statement (.divn y d a b) := by
  intro q rest h
  obtain rfl := only_ctl (Instr.streams_of_wf h)
  have fw : Fits [(4, y.code), (6, 13), (5, d.val), (5, a.val), (5, b.val), (7, 12)] := ⟨y.code_lt, by decide, d.isLt, a.isLt, b.isLt, by decide, trivial⟩
  have e_ : encode .ctl (.divn y d a b) = [pack [(4, y.code), (6, 13), (5, d.val), (5, a.val), (5, b.val), (7, 12)]] := by
    show [w6 y 0x0D (c3 d a b 0x0C)] = _
    simp only [w6, c3, pack, bits, List.cons.injEq, and_true]; omega
  refine roundtrip_one e_ fw rfl (fun w_ hw _ => ?_) rest
  have q_w17_5 : fld w_ 17 5 = d.val := fieldAt hw fw 2 (by simp)
  have f_w17_5 : (fin 5 w_ 17 : Fin 32) = d := Fin.ext q_w17_5
  have q_w12_5 : fld w_ 12 5 = a.val := fieldAt hw fw 3 (by simp)
  have f_w12_5 : (fin 5 w_ 12 : Fin 32) = a := Fin.ext q_w12_5
  have q_w7_5 : fld w_ 7 5 = b.val := fieldAt hw fw 4 (by simp)
  have f_w7_5 : (fin 5 w_ 7 : Fin 32) = b := Fin.ext q_w7_5
  have q_w0_7 : fld w_ 0 7 = 12 := fieldAt hw fw 5 (by simp)
  have q_w22_6 : fld w_ 22 6 = 13 := fieldAt hw fw 1 (by simp)
  have q_w28_4 : fld w_ 28 4 = y.code := fieldAt hw fw 0 (by simp)
  have ry : Ring.ofWord w_ = y := Ring.ofWord_of q_w28_4
  refine decode_ctl1 13 q_w22_6 rfl ?_
  delta decodeCtl
  rw [q_w22_6]
  show decodeAlu _ = _
  delta decodeAlu
  rw [q_w0_7]
  simp [need, withCode, q_w17_5, f_w17_5, q_w12_5, f_w12_5, q_w7_5, f_w7_5, q_w0_7, q_w28_4, ry]

theorem rem (y : Ring) (d : Fin 32) (a : Fin 32) (b : Fin 32) : Statement (.rem y d a b) := by
  intro q rest h
  obtain rfl := only_ctl (Instr.streams_of_wf h)
  have fw : Fits [(4, y.code), (6, 13), (5, d.val), (5, a.val), (5, b.val), (7, 13)] := ⟨y.code_lt, by decide, d.isLt, a.isLt, b.isLt, by decide, trivial⟩
  have e_ : encode .ctl (.rem y d a b) = [pack [(4, y.code), (6, 13), (5, d.val), (5, a.val), (5, b.val), (7, 13)]] := by
    show [w6 y 0x0D (c3 d a b 0x0D)] = _
    simp only [w6, c3, pack, bits, List.cons.injEq, and_true]; omega
  refine roundtrip_one e_ fw rfl (fun w_ hw _ => ?_) rest
  have q_w17_5 : fld w_ 17 5 = d.val := fieldAt hw fw 2 (by simp)
  have f_w17_5 : (fin 5 w_ 17 : Fin 32) = d := Fin.ext q_w17_5
  have q_w12_5 : fld w_ 12 5 = a.val := fieldAt hw fw 3 (by simp)
  have f_w12_5 : (fin 5 w_ 12 : Fin 32) = a := Fin.ext q_w12_5
  have q_w7_5 : fld w_ 7 5 = b.val := fieldAt hw fw 4 (by simp)
  have f_w7_5 : (fin 5 w_ 7 : Fin 32) = b := Fin.ext q_w7_5
  have q_w0_7 : fld w_ 0 7 = 13 := fieldAt hw fw 5 (by simp)
  have q_w22_6 : fld w_ 22 6 = 13 := fieldAt hw fw 1 (by simp)
  have q_w28_4 : fld w_ 28 4 = y.code := fieldAt hw fw 0 (by simp)
  have ry : Ring.ofWord w_ = y := Ring.ofWord_of q_w28_4
  refine decode_ctl1 13 q_w22_6 rfl ?_
  delta decodeCtl
  rw [q_w22_6]
  show decodeAlu _ = _
  delta decodeAlu
  rw [q_w0_7]
  simp [need, withCode, q_w17_5, f_w17_5, q_w12_5, f_w12_5, q_w7_5, f_w7_5, q_w0_7, q_w28_4, ry]

theorem remn (y : Ring) (d : Fin 32) (a : Fin 32) (b : Fin 32) : Statement (.remn y d a b) := by
  intro q rest h
  obtain rfl := only_ctl (Instr.streams_of_wf h)
  have fw : Fits [(4, y.code), (6, 13), (5, d.val), (5, a.val), (5, b.val), (7, 14)] := ⟨y.code_lt, by decide, d.isLt, a.isLt, b.isLt, by decide, trivial⟩
  have e_ : encode .ctl (.remn y d a b) = [pack [(4, y.code), (6, 13), (5, d.val), (5, a.val), (5, b.val), (7, 14)]] := by
    show [w6 y 0x0D (c3 d a b 0x0E)] = _
    simp only [w6, c3, pack, bits, List.cons.injEq, and_true]; omega
  refine roundtrip_one e_ fw rfl (fun w_ hw _ => ?_) rest
  have q_w17_5 : fld w_ 17 5 = d.val := fieldAt hw fw 2 (by simp)
  have f_w17_5 : (fin 5 w_ 17 : Fin 32) = d := Fin.ext q_w17_5
  have q_w12_5 : fld w_ 12 5 = a.val := fieldAt hw fw 3 (by simp)
  have f_w12_5 : (fin 5 w_ 12 : Fin 32) = a := Fin.ext q_w12_5
  have q_w7_5 : fld w_ 7 5 = b.val := fieldAt hw fw 4 (by simp)
  have f_w7_5 : (fin 5 w_ 7 : Fin 32) = b := Fin.ext q_w7_5
  have q_w0_7 : fld w_ 0 7 = 14 := fieldAt hw fw 5 (by simp)
  have q_w22_6 : fld w_ 22 6 = 13 := fieldAt hw fw 1 (by simp)
  have q_w28_4 : fld w_ 28 4 = y.code := fieldAt hw fw 0 (by simp)
  have ry : Ring.ofWord w_ = y := Ring.ofWord_of q_w28_4
  refine decode_ctl1 13 q_w22_6 rfl ?_
  delta decodeCtl
  rw [q_w22_6]
  show decodeAlu _ = _
  delta decodeAlu
  rw [q_w0_7]
  simp [need, withCode, q_w17_5, f_w17_5, q_w12_5, f_w12_5, q_w7_5, f_w7_5, q_w0_7, q_w28_4, ry]

theorem min (y : Ring) (d : Fin 32) (a : Fin 32) (b : Fin 32) : Statement (.min y d a b) := by
  intro q rest h
  obtain rfl := only_ctl (Instr.streams_of_wf h)
  have fw : Fits [(4, y.code), (6, 13), (5, d.val), (5, a.val), (5, b.val), (7, 15)] := ⟨y.code_lt, by decide, d.isLt, a.isLt, b.isLt, by decide, trivial⟩
  have e_ : encode .ctl (.min y d a b) = [pack [(4, y.code), (6, 13), (5, d.val), (5, a.val), (5, b.val), (7, 15)]] := by
    show [w6 y 0x0D (c3 d a b 0x0F)] = _
    simp only [w6, c3, pack, bits, List.cons.injEq, and_true]; omega
  refine roundtrip_one e_ fw rfl (fun w_ hw _ => ?_) rest
  have q_w17_5 : fld w_ 17 5 = d.val := fieldAt hw fw 2 (by simp)
  have f_w17_5 : (fin 5 w_ 17 : Fin 32) = d := Fin.ext q_w17_5
  have q_w12_5 : fld w_ 12 5 = a.val := fieldAt hw fw 3 (by simp)
  have f_w12_5 : (fin 5 w_ 12 : Fin 32) = a := Fin.ext q_w12_5
  have q_w7_5 : fld w_ 7 5 = b.val := fieldAt hw fw 4 (by simp)
  have f_w7_5 : (fin 5 w_ 7 : Fin 32) = b := Fin.ext q_w7_5
  have q_w0_7 : fld w_ 0 7 = 15 := fieldAt hw fw 5 (by simp)
  have q_w22_6 : fld w_ 22 6 = 13 := fieldAt hw fw 1 (by simp)
  have q_w28_4 : fld w_ 28 4 = y.code := fieldAt hw fw 0 (by simp)
  have ry : Ring.ofWord w_ = y := Ring.ofWord_of q_w28_4
  refine decode_ctl1 13 q_w22_6 rfl ?_
  delta decodeCtl
  rw [q_w22_6]
  show decodeAlu _ = _
  delta decodeAlu
  rw [q_w0_7]
  simp [need, withCode, q_w17_5, f_w17_5, q_w12_5, f_w12_5, q_w7_5, f_w7_5, q_w0_7, q_w28_4, ry]

theorem max (y : Ring) (d : Fin 32) (a : Fin 32) (b : Fin 32) : Statement (.max y d a b) := by
  intro q rest h
  obtain rfl := only_ctl (Instr.streams_of_wf h)
  have fw : Fits [(4, y.code), (6, 13), (5, d.val), (5, a.val), (5, b.val), (7, 16)] := ⟨y.code_lt, by decide, d.isLt, a.isLt, b.isLt, by decide, trivial⟩
  have e_ : encode .ctl (.max y d a b) = [pack [(4, y.code), (6, 13), (5, d.val), (5, a.val), (5, b.val), (7, 16)]] := by
    show [w6 y 0x0D (c3 d a b 0x10)] = _
    simp only [w6, c3, pack, bits, List.cons.injEq, and_true]; omega
  refine roundtrip_one e_ fw rfl (fun w_ hw _ => ?_) rest
  have q_w17_5 : fld w_ 17 5 = d.val := fieldAt hw fw 2 (by simp)
  have f_w17_5 : (fin 5 w_ 17 : Fin 32) = d := Fin.ext q_w17_5
  have q_w12_5 : fld w_ 12 5 = a.val := fieldAt hw fw 3 (by simp)
  have f_w12_5 : (fin 5 w_ 12 : Fin 32) = a := Fin.ext q_w12_5
  have q_w7_5 : fld w_ 7 5 = b.val := fieldAt hw fw 4 (by simp)
  have f_w7_5 : (fin 5 w_ 7 : Fin 32) = b := Fin.ext q_w7_5
  have q_w0_7 : fld w_ 0 7 = 16 := fieldAt hw fw 5 (by simp)
  have q_w22_6 : fld w_ 22 6 = 13 := fieldAt hw fw 1 (by simp)
  have q_w28_4 : fld w_ 28 4 = y.code := fieldAt hw fw 0 (by simp)
  have ry : Ring.ofWord w_ = y := Ring.ofWord_of q_w28_4
  refine decode_ctl1 13 q_w22_6 rfl ?_
  delta decodeCtl
  rw [q_w22_6]
  show decodeAlu _ = _
  delta decodeAlu
  rw [q_w0_7]
  simp [need, withCode, q_w17_5, f_w17_5, q_w12_5, f_w12_5, q_w7_5, f_w7_5, q_w0_7, q_w28_4, ry]

theorem minn (y : Ring) (d : Fin 32) (a : Fin 32) (b : Fin 32) : Statement (.minn y d a b) := by
  intro q rest h
  obtain rfl := only_ctl (Instr.streams_of_wf h)
  have fw : Fits [(4, y.code), (6, 13), (5, d.val), (5, a.val), (5, b.val), (7, 17)] := ⟨y.code_lt, by decide, d.isLt, a.isLt, b.isLt, by decide, trivial⟩
  have e_ : encode .ctl (.minn y d a b) = [pack [(4, y.code), (6, 13), (5, d.val), (5, a.val), (5, b.val), (7, 17)]] := by
    show [w6 y 0x0D (c3 d a b 0x11)] = _
    simp only [w6, c3, pack, bits, List.cons.injEq, and_true]; omega
  refine roundtrip_one e_ fw rfl (fun w_ hw _ => ?_) rest
  have q_w17_5 : fld w_ 17 5 = d.val := fieldAt hw fw 2 (by simp)
  have f_w17_5 : (fin 5 w_ 17 : Fin 32) = d := Fin.ext q_w17_5
  have q_w12_5 : fld w_ 12 5 = a.val := fieldAt hw fw 3 (by simp)
  have f_w12_5 : (fin 5 w_ 12 : Fin 32) = a := Fin.ext q_w12_5
  have q_w7_5 : fld w_ 7 5 = b.val := fieldAt hw fw 4 (by simp)
  have f_w7_5 : (fin 5 w_ 7 : Fin 32) = b := Fin.ext q_w7_5
  have q_w0_7 : fld w_ 0 7 = 17 := fieldAt hw fw 5 (by simp)
  have q_w22_6 : fld w_ 22 6 = 13 := fieldAt hw fw 1 (by simp)
  have q_w28_4 : fld w_ 28 4 = y.code := fieldAt hw fw 0 (by simp)
  have ry : Ring.ofWord w_ = y := Ring.ofWord_of q_w28_4
  refine decode_ctl1 13 q_w22_6 rfl ?_
  delta decodeCtl
  rw [q_w22_6]
  show decodeAlu _ = _
  delta decodeAlu
  rw [q_w0_7]
  simp [need, withCode, q_w17_5, f_w17_5, q_w12_5, f_w12_5, q_w7_5, f_w7_5, q_w0_7, q_w28_4, ry]

theorem maxn (y : Ring) (d : Fin 32) (a : Fin 32) (b : Fin 32) : Statement (.maxn y d a b) := by
  intro q rest h
  obtain rfl := only_ctl (Instr.streams_of_wf h)
  have fw : Fits [(4, y.code), (6, 13), (5, d.val), (5, a.val), (5, b.val), (7, 18)] := ⟨y.code_lt, by decide, d.isLt, a.isLt, b.isLt, by decide, trivial⟩
  have e_ : encode .ctl (.maxn y d a b) = [pack [(4, y.code), (6, 13), (5, d.val), (5, a.val), (5, b.val), (7, 18)]] := by
    show [w6 y 0x0D (c3 d a b 0x12)] = _
    simp only [w6, c3, pack, bits, List.cons.injEq, and_true]; omega
  refine roundtrip_one e_ fw rfl (fun w_ hw _ => ?_) rest
  have q_w17_5 : fld w_ 17 5 = d.val := fieldAt hw fw 2 (by simp)
  have f_w17_5 : (fin 5 w_ 17 : Fin 32) = d := Fin.ext q_w17_5
  have q_w12_5 : fld w_ 12 5 = a.val := fieldAt hw fw 3 (by simp)
  have f_w12_5 : (fin 5 w_ 12 : Fin 32) = a := Fin.ext q_w12_5
  have q_w7_5 : fld w_ 7 5 = b.val := fieldAt hw fw 4 (by simp)
  have f_w7_5 : (fin 5 w_ 7 : Fin 32) = b := Fin.ext q_w7_5
  have q_w0_7 : fld w_ 0 7 = 18 := fieldAt hw fw 5 (by simp)
  have q_w22_6 : fld w_ 22 6 = 13 := fieldAt hw fw 1 (by simp)
  have q_w28_4 : fld w_ 28 4 = y.code := fieldAt hw fw 0 (by simp)
  have ry : Ring.ofWord w_ = y := Ring.ofWord_of q_w28_4
  refine decode_ctl1 13 q_w22_6 rfl ?_
  delta decodeCtl
  rw [q_w22_6]
  show decodeAlu _ = _
  delta decodeAlu
  rw [q_w0_7]
  simp [need, withCode, q_w17_5, f_w17_5, q_w12_5, f_w12_5, q_w7_5, f_w7_5, q_w0_7, q_w28_4, ry]

theorem clz (y : Ring) (d : Fin 32) (a : Fin 32) : Statement (.clz y d a) := by
  intro q rest h
  obtain rfl := only_ctl (Instr.streams_of_wf h)
  have fw : Fits [(4, y.code), (6, 13), (5, d.val), (5, a.val), (5, 0), (7, 19)] := ⟨y.code_lt, by decide, d.isLt, a.isLt, by decide, by decide, trivial⟩
  have e_ : encode .ctl (.clz y d a) = [pack [(4, y.code), (6, 13), (5, d.val), (5, a.val), (5, 0), (7, 19)]] := by
    show [w6 y 0x0D (c3 d a 0 0x13)] = _
    simp only [w6, c3, pack, bits, List.cons.injEq, and_true]; omega
  refine roundtrip_one e_ fw rfl (fun w_ hw _ => ?_) rest
  have q_w7_5 : fld w_ 7 5 = 0 := fieldAt hw fw 4 (by simp)
  have q_w17_5 : fld w_ 17 5 = d.val := fieldAt hw fw 2 (by simp)
  have f_w17_5 : (fin 5 w_ 17 : Fin 32) = d := Fin.ext q_w17_5
  have q_w12_5 : fld w_ 12 5 = a.val := fieldAt hw fw 3 (by simp)
  have f_w12_5 : (fin 5 w_ 12 : Fin 32) = a := Fin.ext q_w12_5
  have q_w0_7 : fld w_ 0 7 = 19 := fieldAt hw fw 5 (by simp)
  have q_w22_6 : fld w_ 22 6 = 13 := fieldAt hw fw 1 (by simp)
  have q_w28_4 : fld w_ 28 4 = y.code := fieldAt hw fw 0 (by simp)
  have ry : Ring.ofWord w_ = y := Ring.ofWord_of q_w28_4
  refine decode_ctl1 13 q_w22_6 rfl ?_
  delta decodeCtl
  rw [q_w22_6]
  show decodeAlu _ = _
  delta decodeAlu
  rw [q_w0_7]
  simp [need, withCode, q_w7_5, q_w17_5, f_w17_5, q_w12_5, f_w12_5, q_w0_7, q_w28_4, ry]

theorem popc (y : Ring) (d : Fin 32) (a : Fin 32) : Statement (.popc y d a) := by
  intro q rest h
  obtain rfl := only_ctl (Instr.streams_of_wf h)
  have fw : Fits [(4, y.code), (6, 13), (5, d.val), (5, a.val), (5, 0), (7, 20)] := ⟨y.code_lt, by decide, d.isLt, a.isLt, by decide, by decide, trivial⟩
  have e_ : encode .ctl (.popc y d a) = [pack [(4, y.code), (6, 13), (5, d.val), (5, a.val), (5, 0), (7, 20)]] := by
    show [w6 y 0x0D (c3 d a 0 0x14)] = _
    simp only [w6, c3, pack, bits, List.cons.injEq, and_true]; omega
  refine roundtrip_one e_ fw rfl (fun w_ hw _ => ?_) rest
  have q_w7_5 : fld w_ 7 5 = 0 := fieldAt hw fw 4 (by simp)
  have q_w17_5 : fld w_ 17 5 = d.val := fieldAt hw fw 2 (by simp)
  have f_w17_5 : (fin 5 w_ 17 : Fin 32) = d := Fin.ext q_w17_5
  have q_w12_5 : fld w_ 12 5 = a.val := fieldAt hw fw 3 (by simp)
  have f_w12_5 : (fin 5 w_ 12 : Fin 32) = a := Fin.ext q_w12_5
  have q_w0_7 : fld w_ 0 7 = 20 := fieldAt hw fw 5 (by simp)
  have q_w22_6 : fld w_ 22 6 = 13 := fieldAt hw fw 1 (by simp)
  have q_w28_4 : fld w_ 28 4 = y.code := fieldAt hw fw 0 (by simp)
  have ry : Ring.ofWord w_ = y := Ring.ofWord_of q_w28_4
  refine decode_ctl1 13 q_w22_6 rfl ?_
  delta decodeCtl
  rw [q_w22_6]
  show decodeAlu _ = _
  delta decodeAlu
  rw [q_w0_7]
  simp [need, withCode, q_w7_5, q_w17_5, f_w17_5, q_w12_5, f_w12_5, q_w0_7, q_w28_4, ry]

theorem addi (y : Ring) (d : Fin 32) (a : Fin 32) (m : BitVec 12) : Statement (.addi y d a m) := by
  intro q rest h
  obtain rfl := only_ctl (Instr.streams_of_wf h)
  have fw : Fits [(4, y.code), (6, 14), (5, d.val), (5, a.val), (12, m.toNat)] := ⟨y.code_lt, by decide, d.isLt, a.isLt, m.isLt, trivial⟩
  have e_ : encode .ctl (.addi y d a m) = [pack [(4, y.code), (6, 14), (5, d.val), (5, a.val), (12, m.toNat)]] := by
    show [w6 y 0x0E (d.val * 2 ^ 17 + a.val * 2 ^ 12 + m.toNat)] = _
    simp only [w6, pack, bits, List.cons.injEq, and_true]; omega
  refine roundtrip_one e_ fw rfl (fun w_ hw _ => ?_) rest
  have q_w0_12 : fld w_ 0 12 = m.toNat := fieldAt hw fw 4 (by simp)
  have f_w0_12 : bvf 12 w_ 0 = m := bvf_of q_w0_12
  have q_w17_5 : fld w_ 17 5 = d.val := fieldAt hw fw 2 (by simp)
  have f_w17_5 : (fin 5 w_ 17 : Fin 32) = d := Fin.ext q_w17_5
  have q_w12_5 : fld w_ 12 5 = a.val := fieldAt hw fw 3 (by simp)
  have f_w12_5 : (fin 5 w_ 12 : Fin 32) = a := Fin.ext q_w12_5
  have q_w22_6 : fld w_ 22 6 = 14 := fieldAt hw fw 1 (by simp)
  have q_w28_4 : fld w_ 28 4 = y.code := fieldAt hw fw 0 (by simp)
  have ry : Ring.ofWord w_ = y := Ring.ofWord_of q_w28_4
  refine decode_ctl1 14 q_w22_6 rfl ?_
  delta decodeCtl
  rw [q_w22_6]
  simp [need, withCode, q_w0_12, f_w0_12, q_w17_5, f_w17_5, q_w12_5, f_w12_5, q_w28_4, ry]

theorem andi (y : Ring) (d : Fin 32) (a : Fin 32) (m : BitVec 12) : Statement (.andi y d a m) := by
  intro q rest h
  obtain rfl := only_ctl (Instr.streams_of_wf h)
  have fw : Fits [(4, y.code), (6, 15), (5, d.val), (5, a.val), (12, m.toNat)] := ⟨y.code_lt, by decide, d.isLt, a.isLt, m.isLt, trivial⟩
  have e_ : encode .ctl (.andi y d a m) = [pack [(4, y.code), (6, 15), (5, d.val), (5, a.val), (12, m.toNat)]] := by
    show [w6 y 0x0F (d.val * 2 ^ 17 + a.val * 2 ^ 12 + m.toNat)] = _
    simp only [w6, pack, bits, List.cons.injEq, and_true]; omega
  refine roundtrip_one e_ fw rfl (fun w_ hw _ => ?_) rest
  have q_w0_12 : fld w_ 0 12 = m.toNat := fieldAt hw fw 4 (by simp)
  have f_w0_12 : bvf 12 w_ 0 = m := bvf_of q_w0_12
  have q_w17_5 : fld w_ 17 5 = d.val := fieldAt hw fw 2 (by simp)
  have f_w17_5 : (fin 5 w_ 17 : Fin 32) = d := Fin.ext q_w17_5
  have q_w12_5 : fld w_ 12 5 = a.val := fieldAt hw fw 3 (by simp)
  have f_w12_5 : (fin 5 w_ 12 : Fin 32) = a := Fin.ext q_w12_5
  have q_w22_6 : fld w_ 22 6 = 15 := fieldAt hw fw 1 (by simp)
  have q_w28_4 : fld w_ 28 4 = y.code := fieldAt hw fw 0 (by simp)
  have ry : Ring.ofWord w_ = y := Ring.ofWord_of q_w28_4
  refine decode_ctl1 15 q_w22_6 rfl ?_
  delta decodeCtl
  rw [q_w22_6]
  simp [need, withCode, q_w0_12, f_w0_12, q_w17_5, f_w17_5, q_w12_5, f_w12_5, q_w28_4, ry]

theorem ori (y : Ring) (d : Fin 32) (a : Fin 32) (m : BitVec 12) : Statement (.ori y d a m) := by
  intro q rest h
  obtain rfl := only_ctl (Instr.streams_of_wf h)
  have fw : Fits [(4, y.code), (6, 16), (5, d.val), (5, a.val), (12, m.toNat)] := ⟨y.code_lt, by decide, d.isLt, a.isLt, m.isLt, trivial⟩
  have e_ : encode .ctl (.ori y d a m) = [pack [(4, y.code), (6, 16), (5, d.val), (5, a.val), (12, m.toNat)]] := by
    show [w6 y 0x10 (d.val * 2 ^ 17 + a.val * 2 ^ 12 + m.toNat)] = _
    simp only [w6, pack, bits, List.cons.injEq, and_true]; omega
  refine roundtrip_one e_ fw rfl (fun w_ hw _ => ?_) rest
  have q_w0_12 : fld w_ 0 12 = m.toNat := fieldAt hw fw 4 (by simp)
  have f_w0_12 : bvf 12 w_ 0 = m := bvf_of q_w0_12
  have q_w17_5 : fld w_ 17 5 = d.val := fieldAt hw fw 2 (by simp)
  have f_w17_5 : (fin 5 w_ 17 : Fin 32) = d := Fin.ext q_w17_5
  have q_w12_5 : fld w_ 12 5 = a.val := fieldAt hw fw 3 (by simp)
  have f_w12_5 : (fin 5 w_ 12 : Fin 32) = a := Fin.ext q_w12_5
  have q_w22_6 : fld w_ 22 6 = 16 := fieldAt hw fw 1 (by simp)
  have q_w28_4 : fld w_ 28 4 = y.code := fieldAt hw fw 0 (by simp)
  have ry : Ring.ofWord w_ = y := Ring.ofWord_of q_w28_4
  refine decode_ctl1 16 q_w22_6 rfl ?_
  delta decodeCtl
  rw [q_w22_6]
  simp [need, withCode, q_w0_12, f_w0_12, q_w17_5, f_w17_5, q_w12_5, f_w12_5, q_w28_4, ry]

theorem xori (y : Ring) (d : Fin 32) (a : Fin 32) (m : BitVec 12) : Statement (.xori y d a m) := by
  intro q rest h
  obtain rfl := only_ctl (Instr.streams_of_wf h)
  have fw : Fits [(4, y.code), (6, 17), (5, d.val), (5, a.val), (12, m.toNat)] := ⟨y.code_lt, by decide, d.isLt, a.isLt, m.isLt, trivial⟩
  have e_ : encode .ctl (.xori y d a m) = [pack [(4, y.code), (6, 17), (5, d.val), (5, a.val), (12, m.toNat)]] := by
    show [w6 y 0x11 (d.val * 2 ^ 17 + a.val * 2 ^ 12 + m.toNat)] = _
    simp only [w6, pack, bits, List.cons.injEq, and_true]; omega
  refine roundtrip_one e_ fw rfl (fun w_ hw _ => ?_) rest
  have q_w0_12 : fld w_ 0 12 = m.toNat := fieldAt hw fw 4 (by simp)
  have f_w0_12 : bvf 12 w_ 0 = m := bvf_of q_w0_12
  have q_w17_5 : fld w_ 17 5 = d.val := fieldAt hw fw 2 (by simp)
  have f_w17_5 : (fin 5 w_ 17 : Fin 32) = d := Fin.ext q_w17_5
  have q_w12_5 : fld w_ 12 5 = a.val := fieldAt hw fw 3 (by simp)
  have f_w12_5 : (fin 5 w_ 12 : Fin 32) = a := Fin.ext q_w12_5
  have q_w22_6 : fld w_ 22 6 = 17 := fieldAt hw fw 1 (by simp)
  have q_w28_4 : fld w_ 28 4 = y.code := fieldAt hw fw 0 (by simp)
  have ry : Ring.ofWord w_ = y := Ring.ofWord_of q_w28_4
  refine decode_ctl1 17 q_w22_6 rfl ?_
  delta decodeCtl
  rw [q_w22_6]
  simp [need, withCode, q_w0_12, f_w0_12, q_w17_5, f_w17_5, q_w12_5, f_w12_5, q_w28_4, ry]

theorem shli (y : Ring) (d : Fin 32) (a : Fin 32) (m : Fin 64) : Statement (.shli y d a m) := by
  intro q rest h
  obtain rfl := only_ctl (Instr.streams_of_wf h)
  have fw : Fits [(4, y.code), (6, 18), (5, d.val), (5, a.val), (6, 0), (6, m.val)] := ⟨y.code_lt, by decide, d.isLt, a.isLt, by decide, m.isLt, trivial⟩
  have e_ : encode .ctl (.shli y d a m) = [pack [(4, y.code), (6, 18), (5, d.val), (5, a.val), (6, 0), (6, m.val)]] := by
    show [w6 y 0x12 (d.val * 2 ^ 17 + a.val * 2 ^ 12 + m.val)] = _
    simp only [w6, pack, bits, List.cons.injEq, and_true]; omega
  refine roundtrip_one e_ fw rfl (fun w_ hw _ => ?_) rest
  have q_w6_6 : fld w_ 6 6 = 0 := fieldAt hw fw 4 (by simp)
  have q_w0_6 : fld w_ 0 6 = m.val := fieldAt hw fw 5 (by simp)
  have f_w0_6 : (fin 6 w_ 0 : Fin 64) = m := Fin.ext q_w0_6
  have q_w17_5 : fld w_ 17 5 = d.val := fieldAt hw fw 2 (by simp)
  have f_w17_5 : (fin 5 w_ 17 : Fin 32) = d := Fin.ext q_w17_5
  have q_w12_5 : fld w_ 12 5 = a.val := fieldAt hw fw 3 (by simp)
  have f_w12_5 : (fin 5 w_ 12 : Fin 32) = a := Fin.ext q_w12_5
  have q_w22_6 : fld w_ 22 6 = 18 := fieldAt hw fw 1 (by simp)
  have q_w28_4 : fld w_ 28 4 = y.code := fieldAt hw fw 0 (by simp)
  have ry : Ring.ofWord w_ = y := Ring.ofWord_of q_w28_4
  refine decode_ctl1 18 q_w22_6 rfl ?_
  delta decodeCtl
  rw [q_w22_6]
  simp [need, withCode, q_w6_6, q_w0_6, f_w0_6, q_w17_5, f_w17_5, q_w12_5, f_w12_5, q_w28_4, ry]

theorem shri (y : Ring) (d : Fin 32) (a : Fin 32) (m : Fin 64) : Statement (.shri y d a m) := by
  intro q rest h
  obtain rfl := only_ctl (Instr.streams_of_wf h)
  have fw : Fits [(4, y.code), (6, 19), (5, d.val), (5, a.val), (6, 0), (6, m.val)] := ⟨y.code_lt, by decide, d.isLt, a.isLt, by decide, m.isLt, trivial⟩
  have e_ : encode .ctl (.shri y d a m) = [pack [(4, y.code), (6, 19), (5, d.val), (5, a.val), (6, 0), (6, m.val)]] := by
    show [w6 y 0x13 (d.val * 2 ^ 17 + a.val * 2 ^ 12 + m.val)] = _
    simp only [w6, pack, bits, List.cons.injEq, and_true]; omega
  refine roundtrip_one e_ fw rfl (fun w_ hw _ => ?_) rest
  have q_w6_6 : fld w_ 6 6 = 0 := fieldAt hw fw 4 (by simp)
  have q_w0_6 : fld w_ 0 6 = m.val := fieldAt hw fw 5 (by simp)
  have f_w0_6 : (fin 6 w_ 0 : Fin 64) = m := Fin.ext q_w0_6
  have q_w17_5 : fld w_ 17 5 = d.val := fieldAt hw fw 2 (by simp)
  have f_w17_5 : (fin 5 w_ 17 : Fin 32) = d := Fin.ext q_w17_5
  have q_w12_5 : fld w_ 12 5 = a.val := fieldAt hw fw 3 (by simp)
  have f_w12_5 : (fin 5 w_ 12 : Fin 32) = a := Fin.ext q_w12_5
  have q_w22_6 : fld w_ 22 6 = 19 := fieldAt hw fw 1 (by simp)
  have q_w28_4 : fld w_ 28 4 = y.code := fieldAt hw fw 0 (by simp)
  have ry : Ring.ofWord w_ = y := Ring.ofWord_of q_w28_4
  refine decode_ctl1 19 q_w22_6 rfl ?_
  delta decodeCtl
  rw [q_w22_6]
  simp [need, withCode, q_w6_6, q_w0_6, f_w0_6, q_w17_5, f_w17_5, q_w12_5, f_w12_5, q_w28_4, ry]

theorem srai (y : Ring) (d : Fin 32) (a : Fin 32) (m : Fin 64) : Statement (.srai y d a m) := by
  intro q rest h
  obtain rfl := only_ctl (Instr.streams_of_wf h)
  have fw : Fits [(4, y.code), (6, 20), (5, d.val), (5, a.val), (6, 0), (6, m.val)] := ⟨y.code_lt, by decide, d.isLt, a.isLt, by decide, m.isLt, trivial⟩
  have e_ : encode .ctl (.srai y d a m) = [pack [(4, y.code), (6, 20), (5, d.val), (5, a.val), (6, 0), (6, m.val)]] := by
    show [w6 y 0x14 (d.val * 2 ^ 17 + a.val * 2 ^ 12 + m.val)] = _
    simp only [w6, pack, bits, List.cons.injEq, and_true]; omega
  refine roundtrip_one e_ fw rfl (fun w_ hw _ => ?_) rest
  have q_w6_6 : fld w_ 6 6 = 0 := fieldAt hw fw 4 (by simp)
  have q_w0_6 : fld w_ 0 6 = m.val := fieldAt hw fw 5 (by simp)
  have f_w0_6 : (fin 6 w_ 0 : Fin 64) = m := Fin.ext q_w0_6
  have q_w17_5 : fld w_ 17 5 = d.val := fieldAt hw fw 2 (by simp)
  have f_w17_5 : (fin 5 w_ 17 : Fin 32) = d := Fin.ext q_w17_5
  have q_w12_5 : fld w_ 12 5 = a.val := fieldAt hw fw 3 (by simp)
  have f_w12_5 : (fin 5 w_ 12 : Fin 32) = a := Fin.ext q_w12_5
  have q_w22_6 : fld w_ 22 6 = 20 := fieldAt hw fw 1 (by simp)
  have q_w28_4 : fld w_ 28 4 = y.code := fieldAt hw fw 0 (by simp)
  have ry : Ring.ofWord w_ = y := Ring.ofWord_of q_w28_4
  refine decode_ctl1 20 q_w22_6 rfl ?_
  delta decodeCtl
  rw [q_w22_6]
  simp [need, withCode, q_w6_6, q_w0_6, f_w0_6, q_w17_5, f_w17_5, q_w12_5, f_w12_5, q_w28_4, ry]

theorem li (y : Ring) (d : Fin 32) (m : BitVec 17) : Statement (.li y d m) := by
  intro q rest h
  obtain rfl := only_ctl (Instr.streams_of_wf h)
  have fw : Fits [(4, y.code), (6, 21), (5, d.val), (17, m.toNat)] := ⟨y.code_lt, by decide, d.isLt, m.isLt, trivial⟩
  have e_ : encode .ctl (.li y d m) = [pack [(4, y.code), (6, 21), (5, d.val), (17, m.toNat)]] := by
    show [w6 y 0x15 (d.val * 2 ^ 17 + m.toNat)] = _
    simp only [w6, pack, bits, List.cons.injEq, and_true]; omega
  refine roundtrip_one e_ fw rfl (fun w_ hw _ => ?_) rest
  have q_w0_17 : fld w_ 0 17 = m.toNat := fieldAt hw fw 3 (by simp)
  have f_w0_17 : bvf 17 w_ 0 = m := bvf_of q_w0_17
  have q_w17_5 : fld w_ 17 5 = d.val := fieldAt hw fw 2 (by simp)
  have f_w17_5 : (fin 5 w_ 17 : Fin 32) = d := Fin.ext q_w17_5
  have q_w22_6 : fld w_ 22 6 = 21 := fieldAt hw fw 1 (by simp)
  have q_w28_4 : fld w_ 28 4 = y.code := fieldAt hw fw 0 (by simp)
  have ry : Ring.ofWord w_ = y := Ring.ofWord_of q_w28_4
  refine decode_ctl1 21 q_w22_6 rfl ?_
  delta decodeCtl
  rw [q_w22_6]
  simp [need, withCode, q_w0_17, f_w0_17, q_w17_5, f_w17_5, q_w28_4, ry]

theorem lih (y : Ring) (d : Fin 32) (m : BitVec 16) : Statement (.lih y d m) := by
  intro q rest h
  obtain rfl := only_ctl (Instr.streams_of_wf h)
  have fw : Fits [(4, y.code), (6, 22), (5, d.val), (1, 0), (16, m.toNat)] := ⟨y.code_lt, by decide, d.isLt, by decide, m.isLt, trivial⟩
  have e_ : encode .ctl (.lih y d m) = [pack [(4, y.code), (6, 22), (5, d.val), (1, 0), (16, m.toNat)]] := by
    show [w6 y 0x16 (d.val * 2 ^ 17 + m.toNat)] = _
    simp only [w6, pack, bits, List.cons.injEq, and_true]; omega
  refine roundtrip_one e_ fw rfl (fun w_ hw _ => ?_) rest
  have q_w16_1 : fld w_ 16 1 = 0 := fieldAt hw fw 3 (by simp)
  have q_w0_16 : fld w_ 0 16 = m.toNat := fieldAt hw fw 4 (by simp)
  have f_w0_16 : bvf 16 w_ 0 = m := bvf_of q_w0_16
  have q_w17_5 : fld w_ 17 5 = d.val := fieldAt hw fw 2 (by simp)
  have f_w17_5 : (fin 5 w_ 17 : Fin 32) = d := Fin.ext q_w17_5
  have q_w22_6 : fld w_ 22 6 = 22 := fieldAt hw fw 1 (by simp)
  have q_w28_4 : fld w_ 28 4 = y.code := fieldAt hw fw 0 (by simp)
  have ry : Ring.ofWord w_ = y := Ring.ofWord_of q_w28_4
  refine decode_ctl1 22 q_w22_6 rfl ?_
  delta decodeCtl
  rw [q_w22_6]
  simp [need, withCode, q_w16_1, q_w0_16, f_w0_16, q_w17_5, f_w17_5, q_w28_4, ry]

theorem cmp (y : Ring) (p : Fin 8) (a : Fin 32) (b : Fin 32) (c : Cond) : Statement (.cmp y p a b c) := by
  intro q rest h
  obtain rfl := only_ctl (Instr.streams_of_wf h)
  have fw : Fits [(4, y.code), (6, 23), (3, p.val), (2, 0), (5, a.val), (5, b.val), (4, c.code), (3, 0)] := ⟨y.code_lt, by decide, p.isLt, by decide, a.isLt, b.isLt, c.code_lt, by decide, trivial⟩
  have e_ : encode .ctl (.cmp y p a b c) = [pack [(4, y.code), (6, 23), (3, p.val), (2, 0), (5, a.val), (5, b.val), (4, c.code), (3, 0)]] := by
    show [w6 y 0x17 (p.val * 2 ^ 19 + a.val * 2 ^ 12 + b.val * 2 ^ 7 + c.code * 2 ^ 3)] = _
    simp only [w6, pack, bits, List.cons.injEq, and_true]; omega
  refine roundtrip_one e_ fw rfl (fun w_ hw _ => ?_) rest
  have q_w0_3 : fld w_ 0 3 = 0 := fieldAt hw fw 7 (by simp)
  have q_w17_2 : fld w_ 17 2 = 0 := fieldAt hw fw 3 (by simp)
  have q_w3_4 : fld w_ 3 4 = c.code := fieldAt hw fw 6 (by simp)
  have q_w19_3 : fld w_ 19 3 = p.val := fieldAt hw fw 2 (by simp)
  have f_w19_3 : (fin 3 w_ 19 : Fin 8) = p := Fin.ext q_w19_3
  have q_w7_5 : fld w_ 7 5 = b.val := fieldAt hw fw 5 (by simp)
  have f_w7_5 : (fin 5 w_ 7 : Fin 32) = b := Fin.ext q_w7_5
  have q_w12_5 : fld w_ 12 5 = a.val := fieldAt hw fw 4 (by simp)
  have f_w12_5 : (fin 5 w_ 12 : Fin 32) = a := Fin.ext q_w12_5
  have q_w22_6 : fld w_ 22 6 = 23 := fieldAt hw fw 1 (by simp)
  have q_w28_4 : fld w_ 28 4 = y.code := fieldAt hw fw 0 (by simp)
  have ry : Ring.ofWord w_ = y := Ring.ofWord_of q_w28_4
  have hk : (c.intOk : Bool) = true := Instr.operands_of_wf h
  try simp only [Bool.and_eq_true, Bool.or_eq_true, bne_iff_ne, ne_eq, decide_eq_true_eq, beq_iff_eq, Bool.not_eq_true', Bool.and_eq_false_iff, beq_eq_false_iff_ne, not_true_eq_false, false_or, reduceCtorEq, not_false_eq_true, true_or, true_and, and_true] at hk
  refine decode_ctl1 23 q_w22_6 rfl ?_
  delta decodeCtl
  rw [q_w22_6]
  simp [need, withCode, q_w0_3, q_w17_2, q_w3_4, q_w19_3, f_w19_3, q_w7_5, f_w7_5, q_w12_5, f_w12_5, q_w28_4, ry, Cond.ofCode_code, hk]
  rintro rfl; exact absurd hk (by decide)

theorem cmpi (y : Ring) (p : Fin 8) (c : Cond) (a : Fin 32) (m : BitVec 10) : Statement (.cmpi y p c a m) := by
  intro q rest h
  obtain rfl := only_ctl (Instr.streams_of_wf h)
  have fw : Fits [(4, y.code), (6, 24), (3, p.val), (4, c.code), (5, a.val), (10, m.toNat)] := ⟨y.code_lt, by decide, p.isLt, c.code_lt, a.isLt, m.isLt, trivial⟩
  have e_ : encode .ctl (.cmpi y p c a m) = [pack [(4, y.code), (6, 24), (3, p.val), (4, c.code), (5, a.val), (10, m.toNat)]] := by
    show [w6 y 0x18 (p.val * 2 ^ 19 + c.code * 2 ^ 15 + a.val * 2 ^ 10 + m.toNat)] = _
    simp only [w6, pack, bits, List.cons.injEq, and_true]; omega
  refine roundtrip_one e_ fw rfl (fun w_ hw _ => ?_) rest
  have q_w15_4 : fld w_ 15 4 = c.code := fieldAt hw fw 3 (by simp)
  have q_w19_3 : fld w_ 19 3 = p.val := fieldAt hw fw 2 (by simp)
  have f_w19_3 : (fin 3 w_ 19 : Fin 8) = p := Fin.ext q_w19_3
  have q_w10_5 : fld w_ 10 5 = a.val := fieldAt hw fw 4 (by simp)
  have f_w10_5 : (fin 5 w_ 10 : Fin 32) = a := Fin.ext q_w10_5
  have q_w0_10 : fld w_ 0 10 = m.toNat := fieldAt hw fw 5 (by simp)
  have f_w0_10 : bvf 10 w_ 0 = m := bvf_of q_w0_10
  have q_w22_6 : fld w_ 22 6 = 24 := fieldAt hw fw 1 (by simp)
  have q_w28_4 : fld w_ 28 4 = y.code := fieldAt hw fw 0 (by simp)
  have ry : Ring.ofWord w_ = y := Ring.ofWord_of q_w28_4
  have hk : (c.intOk : Bool) = true := Instr.operands_of_wf h
  try simp only [Bool.and_eq_true, Bool.or_eq_true, bne_iff_ne, ne_eq, decide_eq_true_eq, beq_iff_eq, Bool.not_eq_true', Bool.and_eq_false_iff, beq_eq_false_iff_ne, not_true_eq_false, false_or, reduceCtorEq, not_false_eq_true, true_or, true_and, and_true] at hk
  refine decode_ctl1 24 q_w22_6 rfl ?_
  delta decodeCtl
  rw [q_w22_6]
  simp [need, withCode, q_w15_4, q_w19_3, f_w19_3, q_w10_5, f_w10_5, q_w0_10, f_w0_10, q_w28_4, ry, Cond.ofCode_code, hk]
  rintro rfl; exact absurd hk (by decide)

theorem pset (y : Ring) (p : Fin 8) (a : Fin 8) (b : Fin 8) (o : PsetOp) : Statement (.pset y p a b o) := by
  intro q rest h
  obtain rfl := only_ctl (Instr.streams_of_wf h)
  have fw : Fits [(4, y.code), (6, 25), (3, p.val), (3, a.val), (3, b.val), (3, o.code), (10, 0)] := ⟨y.code_lt, by decide, p.isLt, a.isLt, b.isLt, o.code_lt, by decide, trivial⟩
  have e_ : encode .ctl (.pset y p a b o) = [pack [(4, y.code), (6, 25), (3, p.val), (3, a.val), (3, b.val), (3, o.code), (10, 0)]] := by
    show [w6 y 0x19 (p.val * 2 ^ 19 + a.val * 2 ^ 16 + b.val * 2 ^ 13 + o.code * 2 ^ 10)] = _
    simp only [w6, pack, bits, List.cons.injEq, and_true]; omega
  refine roundtrip_one e_ fw rfl (fun w_ hw _ => ?_) rest
  have q_w0_10 : fld w_ 0 10 = 0 := fieldAt hw fw 6 (by simp)
  have q_w10_3 : fld w_ 10 3 = o.code := fieldAt hw fw 5 (by simp)
  have q_w19_3 : fld w_ 19 3 = p.val := fieldAt hw fw 2 (by simp)
  have f_w19_3 : (fin 3 w_ 19 : Fin 8) = p := Fin.ext q_w19_3
  have q_w16_3 : fld w_ 16 3 = a.val := fieldAt hw fw 3 (by simp)
  have f_w16_3 : (fin 3 w_ 16 : Fin 8) = a := Fin.ext q_w16_3
  have q_w13_3 : fld w_ 13 3 = b.val := fieldAt hw fw 4 (by simp)
  have f_w13_3 : (fin 3 w_ 13 : Fin 8) = b := Fin.ext q_w13_3
  have q_w22_6 : fld w_ 22 6 = 25 := fieldAt hw fw 1 (by simp)
  have q_w28_4 : fld w_ 28 4 = y.code := fieldAt hw fw 0 (by simp)
  have ry : Ring.ofWord w_ = y := Ring.ofWord_of q_w28_4
  refine decode_ctl1 25 q_w22_6 rfl ?_
  delta decodeCtl
  rw [q_w22_6]
  simp [need, withCode, q_w0_10, q_w10_3, q_w19_3, f_w19_3, q_w16_3, f_w16_3, q_w13_3, f_w13_3, q_w28_4, ry, PsetOp.ofCode_code]

theorem sel (y : Ring) (d : Fin 32) (a : Fin 32) (b : Fin 32) (p : Fin 8) (n : Bool) : Statement (.sel y d a b p n) := by
  intro q rest h
  obtain rfl := only_ctl (Instr.streams_of_wf h)
  have fw : Fits [(4, y.code), (6, 26), (5, d.val), (5, a.val), (5, b.val), (3, p.val), (1, n.toNat), (3, 0)] := ⟨y.code_lt, by decide, d.isLt, a.isLt, b.isLt, p.isLt, Bool.toNat_lt n, by decide, trivial⟩
  have e_ : encode .ctl (.sel y d a b p n) = [pack [(4, y.code), (6, 26), (5, d.val), (5, a.val), (5, b.val), (3, p.val), (1, n.toNat), (3, 0)]] := by
    show [w6 y 0x1A (d.val * 2 ^ 17 + a.val * 2 ^ 12 + b.val * 2 ^ 7 + p.val * 2 ^ 4 + n.toNat * 2 ^ 3)] = _
    simp only [w6, pack, bits, List.cons.injEq, and_true]; omega
  refine roundtrip_one e_ fw rfl (fun w_ hw _ => ?_) rest
  have q_w0_3 : fld w_ 0 3 = 0 := fieldAt hw fw 7 (by simp)
  have q_w7_5 : fld w_ 7 5 = b.val := fieldAt hw fw 4 (by simp)
  have f_w7_5 : (fin 5 w_ 7 : Fin 32) = b := Fin.ext q_w7_5
  have q_w4_3 : fld w_ 4 3 = p.val := fieldAt hw fw 5 (by simp)
  have f_w4_3 : (fin 3 w_ 4 : Fin 8) = p := Fin.ext q_w4_3
  have q_w3_1 : fld w_ 3 1 = n.toNat := fieldAt hw fw 6 (by simp)
  have f_w3 : flag w_ 3 = n := flag_of q_w3_1
  have q_w17_5 : fld w_ 17 5 = d.val := fieldAt hw fw 2 (by simp)
  have f_w17_5 : (fin 5 w_ 17 : Fin 32) = d := Fin.ext q_w17_5
  have q_w12_5 : fld w_ 12 5 = a.val := fieldAt hw fw 3 (by simp)
  have f_w12_5 : (fin 5 w_ 12 : Fin 32) = a := Fin.ext q_w12_5
  have q_w22_6 : fld w_ 22 6 = 26 := fieldAt hw fw 1 (by simp)
  have q_w28_4 : fld w_ 28 4 = y.code := fieldAt hw fw 0 (by simp)
  have ry : Ring.ofWord w_ = y := Ring.ofWord_of q_w28_4
  refine decode_ctl1 26 q_w22_6 rfl ?_
  delta decodeCtl
  rw [q_w22_6]
  simp [need, withCode, q_w0_3, q_w7_5, f_w7_5, q_w4_3, f_w4_3, q_w3_1, f_w3, q_w17_5, f_w17_5, q_w12_5, f_w12_5, q_w28_4, ry]

theorem ext (y : Ring) (d : Fin 32) (a : Fin 32) (p : Fin 64) (w : Fin 64) : Statement (.ext y d a p w) := by
  intro q rest h
  obtain rfl := only_ctl (Instr.streams_of_wf h)
  have fw : Fits [(4, y.code), (6, 27), (5, d.val), (5, a.val), (6, p.val), (6, w.val)] := ⟨y.code_lt, by decide, d.isLt, a.isLt, p.isLt, w.isLt, trivial⟩
  have e_ : encode .ctl (.ext y d a p w) = [pack [(4, y.code), (6, 27), (5, d.val), (5, a.val), (6, p.val), (6, w.val)]] := by
    show [w6 y 0x1B (d.val * 2 ^ 17 + a.val * 2 ^ 12 + p.val * 2 ^ 6 + w.val)] = _
    simp only [w6, pack, bits, List.cons.injEq, and_true]; omega
  refine roundtrip_one e_ fw rfl (fun w_ hw _ => ?_) rest
  have q_w6_6 : fld w_ 6 6 = p.val := fieldAt hw fw 4 (by simp)
  have q_w0_6 : fld w_ 0 6 = w.val := fieldAt hw fw 5 (by simp)
  have f_w6_6 : (fin 6 w_ 6 : Fin 64) = p := Fin.ext q_w6_6
  have f_w0_6 : (fin 6 w_ 0 : Fin 64) = w := Fin.ext q_w0_6
  have q_w17_5 : fld w_ 17 5 = d.val := fieldAt hw fw 2 (by simp)
  have f_w17_5 : (fin 5 w_ 17 : Fin 32) = d := Fin.ext q_w17_5
  have q_w12_5 : fld w_ 12 5 = a.val := fieldAt hw fw 3 (by simp)
  have f_w12_5 : (fin 5 w_ 12 : Fin 32) = a := Fin.ext q_w12_5
  have q_w22_6 : fld w_ 22 6 = 27 := fieldAt hw fw 1 (by simp)
  have q_w28_4 : fld w_ 28 4 = y.code := fieldAt hw fw 0 (by simp)
  have ry : Ring.ofWord w_ = y := Ring.ofWord_of q_w28_4
  have hk : (p.val + w.val < 64 : Bool) = true := Instr.operands_of_wf h
  try simp only [Bool.and_eq_true, Bool.or_eq_true, bne_iff_ne, ne_eq, decide_eq_true_eq, beq_iff_eq, Bool.not_eq_true', Bool.and_eq_false_iff, beq_eq_false_iff_ne, not_true_eq_false, false_or, reduceCtorEq, not_false_eq_true, true_or, true_and, and_true] at hk
  refine decode_ctl1 27 q_w22_6 rfl ?_
  delta decodeCtl
  rw [q_w22_6]
  simp [need, withCode, q_w6_6, q_w0_6, f_w6_6, f_w0_6, q_w17_5, f_w17_5, q_w12_5, f_w12_5, q_w28_4, ry, hk]

theorem ins (y : Ring) (d : Fin 32) (a : Fin 32) (p : Fin 64) (w : Fin 64) : Statement (.ins y d a p w) := by
  intro q rest h
  obtain rfl := only_ctl (Instr.streams_of_wf h)
  have fw : Fits [(4, y.code), (6, 28), (5, d.val), (5, a.val), (6, p.val), (6, w.val)] := ⟨y.code_lt, by decide, d.isLt, a.isLt, p.isLt, w.isLt, trivial⟩
  have e_ : encode .ctl (.ins y d a p w) = [pack [(4, y.code), (6, 28), (5, d.val), (5, a.val), (6, p.val), (6, w.val)]] := by
    show [w6 y 0x1C (d.val * 2 ^ 17 + a.val * 2 ^ 12 + p.val * 2 ^ 6 + w.val)] = _
    simp only [w6, pack, bits, List.cons.injEq, and_true]; omega
  refine roundtrip_one e_ fw rfl (fun w_ hw _ => ?_) rest
  have q_w6_6 : fld w_ 6 6 = p.val := fieldAt hw fw 4 (by simp)
  have q_w0_6 : fld w_ 0 6 = w.val := fieldAt hw fw 5 (by simp)
  have f_w6_6 : (fin 6 w_ 6 : Fin 64) = p := Fin.ext q_w6_6
  have f_w0_6 : (fin 6 w_ 0 : Fin 64) = w := Fin.ext q_w0_6
  have q_w17_5 : fld w_ 17 5 = d.val := fieldAt hw fw 2 (by simp)
  have f_w17_5 : (fin 5 w_ 17 : Fin 32) = d := Fin.ext q_w17_5
  have q_w12_5 : fld w_ 12 5 = a.val := fieldAt hw fw 3 (by simp)
  have f_w12_5 : (fin 5 w_ 12 : Fin 32) = a := Fin.ext q_w12_5
  have q_w22_6 : fld w_ 22 6 = 28 := fieldAt hw fw 1 (by simp)
  have q_w28_4 : fld w_ 28 4 = y.code := fieldAt hw fw 0 (by simp)
  have ry : Ring.ofWord w_ = y := Ring.ofWord_of q_w28_4
  have hk : (p.val + w.val < 64 : Bool) = true := Instr.operands_of_wf h
  try simp only [Bool.and_eq_true, Bool.or_eq_true, bne_iff_ne, ne_eq, decide_eq_true_eq, beq_iff_eq, Bool.not_eq_true', Bool.and_eq_false_iff, beq_eq_false_iff_ne, not_true_eq_false, false_or, reduceCtorEq, not_false_eq_true, true_or, true_and, and_true] at hk
  refine decode_ctl1 28 q_w22_6 rfl ?_
  delta decodeCtl
  rw [q_w22_6]
  simp [need, withCode, q_w6_6, q_w0_6, f_w6_6, f_w0_6, q_w17_5, f_w17_5, q_w12_5, f_w12_5, q_w28_4, ry, hk]

theorem pbrr (y : Ring) (b : Fin 4) (a : Fin 32) : Statement (.pbrr y b a) := by
  intro q rest h
  obtain rfl := only_ctl (Instr.streams_of_wf h)
  have fw : Fits [(4, y.code), (6, 29), (2, b.val), (3, 0), (5, a.val), (12, 0)] := ⟨y.code_lt, by decide, b.isLt, by decide, a.isLt, by decide, trivial⟩
  have e_ : encode .ctl (.pbrr y b a) = [pack [(4, y.code), (6, 29), (2, b.val), (3, 0), (5, a.val), (12, 0)]] := by
    show [w6 y 0x1D (b.val * 2 ^ 20 + a.val * 2 ^ 12)] = _
    simp only [w6, pack, bits, List.cons.injEq, and_true]; omega
  refine roundtrip_one e_ fw rfl (fun w_ hw _ => ?_) rest
  have q_w17_3 : fld w_ 17 3 = 0 := fieldAt hw fw 3 (by simp)
  have q_w0_12 : fld w_ 0 12 = 0 := fieldAt hw fw 5 (by simp)
  have q_w20_2 : fld w_ 20 2 = b.val := fieldAt hw fw 2 (by simp)
  have f_w20_2 : (fin 2 w_ 20 : Fin 4) = b := Fin.ext q_w20_2
  have q_w12_5 : fld w_ 12 5 = a.val := fieldAt hw fw 4 (by simp)
  have f_w12_5 : (fin 5 w_ 12 : Fin 32) = a := Fin.ext q_w12_5
  have q_w22_6 : fld w_ 22 6 = 29 := fieldAt hw fw 1 (by simp)
  have q_w28_4 : fld w_ 28 4 = y.code := fieldAt hw fw 0 (by simp)
  have ry : Ring.ofWord w_ = y := Ring.ofWord_of q_w28_4
  refine decode_ctl1 29 q_w22_6 rfl ?_
  delta decodeCtl
  rw [q_w22_6]
  simp [need, withCode, q_w17_3, q_w0_12, q_w20_2, f_w20_2, q_w12_5, f_w12_5, q_w28_4, ry]

theorem call (y : Ring) (b : Fin 4) : Statement (.call y b) := by
  intro q rest h
  obtain rfl := only_ctl (Instr.streams_of_wf h)
  have fw : Fits [(4, y.code), (6, 30), (2, b.val), (20, 0)] := ⟨y.code_lt, by decide, b.isLt, by decide, trivial⟩
  have e_ : encode .ctl (.call y b) = [pack [(4, y.code), (6, 30), (2, b.val), (20, 0)]] := by
    show [w6 y 0x1E (b.val * 2 ^ 20)] = _
    simp only [w6, pack, bits, List.cons.injEq, and_true]; omega
  refine roundtrip_one e_ fw rfl (fun w_ hw _ => ?_) rest
  have q_w0_20 : fld w_ 0 20 = 0 := fieldAt hw fw 3 (by simp)
  have q_w20_2 : fld w_ 20 2 = b.val := fieldAt hw fw 2 (by simp)
  have f_w20_2 : (fin 2 w_ 20 : Fin 4) = b := Fin.ext q_w20_2
  have q_w22_6 : fld w_ 22 6 = 30 := fieldAt hw fw 1 (by simp)
  have q_w28_4 : fld w_ 28 4 = y.code := fieldAt hw fw 0 (by simp)
  have ry : Ring.ofWord w_ = y := Ring.ofWord_of q_w28_4
  refine decode_ctl1 30 q_w22_6 rfl ?_
  delta decodeCtl
  rw [q_w22_6]
  simp [need, withCode, q_w0_20, q_w20_2, f_w20_2, q_w28_4, ry]

theorem enter (y : Ring) (n : FrameSize) : Statement (.enter y n) := by
  intro q rest h
  obtain rfl := only_ctl (Instr.streams_of_wf h)
  have fw : Fits [(4, y.code), (6, 31), (19, 0), (3, n.code)] := ⟨y.code_lt, by decide, by decide, n.code_lt, trivial⟩
  have e_ : encode .ctl (.enter y n) = [pack [(4, y.code), (6, 31), (19, 0), (3, n.code)]] := by
    show [w6 y 0x1F n.code] = _
    simp only [w6, pack, bits, List.cons.injEq, and_true]; omega
  refine roundtrip_one e_ fw rfl (fun w_ hw _ => ?_) rest
  have q_w3_19 : fld w_ 3 19 = 0 := fieldAt hw fw 2 (by simp)
  have q_w0_3 : fld w_ 0 3 = n.code := fieldAt hw fw 3 (by simp)
  have q_w22_6 : fld w_ 22 6 = 31 := fieldAt hw fw 1 (by simp)
  have q_w28_4 : fld w_ 28 4 = y.code := fieldAt hw fw 0 (by simp)
  have ry : Ring.ofWord w_ = y := Ring.ofWord_of q_w28_4
  refine decode_ctl1 31 q_w22_6 rfl ?_
  delta decodeCtl
  rw [q_w22_6]
  simp [need, withCode, q_w3_19, q_w0_3, q_w28_4, ry, FrameSize.ofCode_code]

theorem ret (y : Ring) : Statement (.ret y) := by
  intro q rest h
  obtain rfl := only_ctl (Instr.streams_of_wf h)
  have fw : Fits [(4, y.code), (6, 32), (22, 0)] := ⟨y.code_lt, by decide, by decide, trivial⟩
  have e_ : encode .ctl (.ret y) = [pack [(4, y.code), (6, 32), (22, 0)]] := by
    show [w6 y 0x20 0] = _
    simp only [w6, pack, bits, List.cons.injEq, and_true]; omega
  refine roundtrip_one e_ fw rfl (fun w_ hw _ => ?_) rest
  have q_w0_22 : fld w_ 0 22 = 0 := fieldAt hw fw 2 (by simp)
  have q_w22_6 : fld w_ 22 6 = 32 := fieldAt hw fw 1 (by simp)
  have q_w28_4 : fld w_ 28 4 = y.code := fieldAt hw fw 0 (by simp)
  have ry : Ring.ofWord w_ = y := Ring.ofWord_of q_w28_4
  refine decode_ctl1 32 q_w22_6 rfl ?_
  delta decodeCtl
  rw [q_w22_6]
  simp [need, withCode, q_w0_22, q_w28_4, ry]

theorem relc (y : Ring) : Statement (.relc y) := by
  intro q rest h
  obtain rfl := only_ctl (Instr.streams_of_wf h)
  have fw : Fits [(4, y.code), (6, 33), (22, 0)] := ⟨y.code_lt, by decide, by decide, trivial⟩
  have e_ : encode .ctl (.relc y) = [pack [(4, y.code), (6, 33), (22, 0)]] := by
    show [w6 y 0x21 0] = _
    simp only [w6, pack, bits, List.cons.injEq, and_true]; omega
  refine roundtrip_one e_ fw rfl (fun w_ hw _ => ?_) rest
  have q_w0_22 : fld w_ 0 22 = 0 := fieldAt hw fw 2 (by simp)
  have q_w22_6 : fld w_ 22 6 = 33 := fieldAt hw fw 1 (by simp)
  have q_w28_4 : fld w_ 28 4 = y.code := fieldAt hw fw 0 (by simp)
  have ry : Ring.ofWord w_ = y := Ring.ofWord_of q_w28_4
  refine decode_ctl1 33 q_w22_6 rfl ?_
  delta decodeCtl
  rw [q_w22_6]
  simp [need, withCode, q_w0_22, q_w28_4, ry]

theorem tjoin (y : Ring) : Statement (.tjoin y) := by
  intro q rest h
  obtain rfl := only_ctl (Instr.streams_of_wf h)
  have fw : Fits [(4, y.code), (6, 34), (22, 0)] := ⟨y.code_lt, by decide, by decide, trivial⟩
  have e_ : encode .ctl (.tjoin y) = [pack [(4, y.code), (6, 34), (22, 0)]] := by
    show [w6 y 0x22 0] = _
    simp only [w6, pack, bits, List.cons.injEq, and_true]; omega
  refine roundtrip_one e_ fw rfl (fun w_ hw _ => ?_) rest
  have q_w0_22 : fld w_ 0 22 = 0 := fieldAt hw fw 2 (by simp)
  have q_w22_6 : fld w_ 22 6 = 34 := fieldAt hw fw 1 (by simp)
  have q_w28_4 : fld w_ 28 4 = y.code := fieldAt hw fw 0 (by simp)
  have ry : Ring.ofWord w_ = y := Ring.ofWord_of q_w28_4
  refine decode_ctl1 34 q_w22_6 rfl ?_
  delta decodeCtl
  rw [q_w22_6]
  simp [need, withCode, q_w0_22, q_w28_4, ry]

theorem tend (y : Ring) : Statement (.tend y) := by
  intro q rest h
  obtain rfl := only_ctl (Instr.streams_of_wf h)
  have fw : Fits [(4, y.code), (6, 35), (22, 0)] := ⟨y.code_lt, by decide, by decide, trivial⟩
  have e_ : encode .ctl (.tend y) = [pack [(4, y.code), (6, 35), (22, 0)]] := by
    show [w6 y 0x23 0] = _
    simp only [w6, pack, bits, List.cons.injEq, and_true]; omega
  refine roundtrip_one e_ fw rfl (fun w_ hw _ => ?_) rest
  have q_w0_22 : fld w_ 0 22 = 0 := fieldAt hw fw 2 (by simp)
  have q_w22_6 : fld w_ 22 6 = 35 := fieldAt hw fw 1 (by simp)
  have q_w28_4 : fld w_ 28 4 = y.code := fieldAt hw fw 0 (by simp)
  have ry : Ring.ofWord w_ = y := Ring.ofWord_of q_w28_4
  refine decode_ctl1 35 q_w22_6 rfl ?_
  delta decodeCtl
  rw [q_w22_6]
  simp [need, withCode, q_w0_22, q_w28_4, ry]

theorem xlat (y : Ring) (t : Fin 16) (a : Fin 32) (b : Fin 32) (r : Bool) (w : Bool) : Statement (.xlat y t a b r w) := by
  intro q rest h
  obtain rfl := only_ctl (Instr.streams_of_wf h)
  have fw : Fits [(4, y.code), (6, 36), (4, t.val), (1, 0), (5, a.val), (5, b.val), (1, r.toNat), (1, w.toNat), (5, 0)] := ⟨y.code_lt, by decide, t.isLt, by decide, a.isLt, b.isLt, Bool.toNat_lt r, Bool.toNat_lt w, by decide, trivial⟩
  have e_ : encode .ctl (.xlat y t a b r w) = [pack [(4, y.code), (6, 36), (4, t.val), (1, 0), (5, a.val), (5, b.val), (1, r.toNat), (1, w.toNat), (5, 0)]] := by
    show [w6 y 0x24 (t.val * 2 ^ 18 + a.val * 2 ^ 12 + b.val * 2 ^ 7 + r.toNat * 2 ^ 6 + w.toNat * 2 ^ 5)] = _
    simp only [w6, pack, bits, List.cons.injEq, and_true]; omega
  refine roundtrip_one e_ fw rfl (fun w_ hw _ => ?_) rest
  have q_w17_1 : fld w_ 17 1 = 0 := fieldAt hw fw 3 (by simp)
  have q_w0_5 : fld w_ 0 5 = 0 := fieldAt hw fw 8 (by simp)
  have q_w6_1 : fld w_ 6 1 = r.toNat := fieldAt hw fw 6 (by simp)
  have q_w5_1 : fld w_ 5 1 = w.toNat := fieldAt hw fw 7 (by simp)
  have q_w5_2 : fld w_ 5 2 = r.toNat * 2 + w.toNat := by simp only [fld] at q_w6_1 q_w5_1 ⊢; omega
  have q_w18_4 : fld w_ 18 4 = t.val := fieldAt hw fw 2 (by simp)
  have f_w18_4 : (fin 4 w_ 18 : Fin 16) = t := Fin.ext q_w18_4
  have q_w7_5 : fld w_ 7 5 = b.val := fieldAt hw fw 5 (by simp)
  have f_w7_5 : (fin 5 w_ 7 : Fin 32) = b := Fin.ext q_w7_5
  have f_w6 : flag w_ 6 = r := flag_of q_w6_1
  have f_w5 : flag w_ 5 = w := flag_of q_w5_1
  have q_w12_5 : fld w_ 12 5 = a.val := fieldAt hw fw 4 (by simp)
  have f_w12_5 : (fin 5 w_ 12 : Fin 32) = a := Fin.ext q_w12_5
  have q_w22_6 : fld w_ 22 6 = 36 := fieldAt hw fw 1 (by simp)
  have q_w28_4 : fld w_ 28 4 = y.code := fieldAt hw fw 0 (by simp)
  have ry : Ring.ofWord w_ = y := Ring.ofWord_of q_w28_4
  have hk : (r || w : Bool) = true := Instr.operands_of_wf h
  try simp only [Bool.and_eq_true, Bool.or_eq_true, bne_iff_ne, ne_eq, decide_eq_true_eq, beq_iff_eq, Bool.not_eq_true', Bool.and_eq_false_iff, beq_eq_false_iff_ne, not_true_eq_false, false_or, reduceCtorEq, not_false_eq_true, true_or, true_and, and_true] at hk
  refine decode_ctl1 36 q_w22_6 rfl ?_
  delta decodeCtl
  rw [q_w22_6]
  simp [need, withCode, q_w17_1, q_w0_5, q_w6_1, q_w5_1, q_w5_2, q_w18_4, f_w18_4, q_w7_5, f_w7_5, f_w6, f_w5, q_w12_5, f_w12_5, q_w28_4, ry, hk]

theorem xlatR (y : Ring) (t : Fin 16) (a : Fin 32) (b : Fin 32) (r : Bool) (w : Bool) (c : Fin 32) : Statement (.xlatR y t a b r w c) := by
  intro q rest h
  obtain rfl := only_ctl (Instr.streams_of_wf h)
  have fw : Fits [(4, y.code), (6, 37), (4, t.val), (1, 0), (5, a.val), (5, b.val), (1, r.toNat), (1, w.toNat), (5, c.val)] := ⟨y.code_lt, by decide, t.isLt, by decide, a.isLt, b.isLt, Bool.toNat_lt r, Bool.toNat_lt w, c.isLt, trivial⟩
  have e_ : encode .ctl (.xlatR y t a b r w c) = [pack [(4, y.code), (6, 37), (4, t.val), (1, 0), (5, a.val), (5, b.val), (1, r.toNat), (1, w.toNat), (5, c.val)]] := by
    show [w6 y 0x25 (t.val * 2 ^ 18 + a.val * 2 ^ 12 + b.val * 2 ^ 7 + r.toNat * 2 ^ 6 + w.toNat * 2 ^ 5 + c.val)] = _
    simp only [w6, pack, bits, List.cons.injEq, and_true]; omega
  refine roundtrip_one e_ fw rfl (fun w_ hw _ => ?_) rest
  have q_w17_1 : fld w_ 17 1 = 0 := fieldAt hw fw 3 (by simp)
  have q_w6_1 : fld w_ 6 1 = r.toNat := fieldAt hw fw 6 (by simp)
  have q_w5_1 : fld w_ 5 1 = w.toNat := fieldAt hw fw 7 (by simp)
  have q_w5_2 : fld w_ 5 2 = r.toNat * 2 + w.toNat := by simp only [fld] at q_w6_1 q_w5_1 ⊢; omega
  have q_w18_4 : fld w_ 18 4 = t.val := fieldAt hw fw 2 (by simp)
  have f_w18_4 : (fin 4 w_ 18 : Fin 16) = t := Fin.ext q_w18_4
  have q_w7_5 : fld w_ 7 5 = b.val := fieldAt hw fw 5 (by simp)
  have f_w7_5 : (fin 5 w_ 7 : Fin 32) = b := Fin.ext q_w7_5
  have f_w6 : flag w_ 6 = r := flag_of q_w6_1
  have f_w5 : flag w_ 5 = w := flag_of q_w5_1
  have q_w12_5 : fld w_ 12 5 = a.val := fieldAt hw fw 4 (by simp)
  have f_w12_5 : (fin 5 w_ 12 : Fin 32) = a := Fin.ext q_w12_5
  have q_w0_5 : fld w_ 0 5 = c.val := fieldAt hw fw 8 (by simp)
  have f_w0_5 : (fin 5 w_ 0 : Fin 32) = c := Fin.ext q_w0_5
  have q_w22_6 : fld w_ 22 6 = 37 := fieldAt hw fw 1 (by simp)
  have q_w28_4 : fld w_ 28 4 = y.code := fieldAt hw fw 0 (by simp)
  have ry : Ring.ofWord w_ = y := Ring.ofWord_of q_w28_4
  have hk : (r || w : Bool) = true := Instr.operands_of_wf h
  try simp only [Bool.and_eq_true, Bool.or_eq_true, bne_iff_ne, ne_eq, decide_eq_true_eq, beq_iff_eq, Bool.not_eq_true', Bool.and_eq_false_iff, beq_eq_false_iff_ne, not_true_eq_false, false_or, reduceCtorEq, not_false_eq_true, true_or, true_and, and_true] at hk
  refine decode_ctl1 37 q_w22_6 rfl ?_
  delta decodeCtl
  rw [q_w22_6]
  simp [need, withCode, q_w17_1, q_w6_1, q_w5_1, q_w5_2, q_w18_4, f_w18_4, q_w7_5, f_w7_5, f_w6, f_w5, q_w12_5, f_w12_5, q_w0_5, f_w0_5, q_w28_4, ry, hk]

theorem xlatWalkComplete (c : CoreId) (x : Fin 4) : Statement (.xlatWalkComplete c x) := fun _ _ h => (no_stream (Instr.streams_of_wf h)).elim

theorem xrel (y : Ring) (t : Fin 16) : Statement (.xrel y t) := by
  intro q rest h
  obtain rfl := only_ctl (Instr.streams_of_wf h)
  have fw : Fits [(4, y.code), (6, 38), (4, t.val), (18, 0)] := ⟨y.code_lt, by decide, t.isLt, by decide, trivial⟩
  have e_ : encode .ctl (.xrel y t) = [pack [(4, y.code), (6, 38), (4, t.val), (18, 0)]] := by
    show [w6 y 0x26 (t.val * 2 ^ 18)] = _
    simp only [w6, pack, bits, List.cons.injEq, and_true]; omega
  refine roundtrip_one e_ fw rfl (fun w_ hw _ => ?_) rest
  have q_w0_18 : fld w_ 0 18 = 0 := fieldAt hw fw 3 (by simp)
  have q_w18_4 : fld w_ 18 4 = t.val := fieldAt hw fw 2 (by simp)
  have f_w18_4 : (fin 4 w_ 18 : Fin 16) = t := Fin.ext q_w18_4
  have q_w22_6 : fld w_ 22 6 = 38 := fieldAt hw fw 1 (by simp)
  have q_w28_4 : fld w_ 28 4 = y.code := fieldAt hw fw 0 (by simp)
  have ry : Ring.ofWord w_ = y := Ring.ofWord_of q_w28_4
  refine decode_ctl1 38 q_w22_6 rfl ?_
  delta decodeCtl
  rw [q_w22_6]
  simp [need, withCode, q_w0_18, q_w18_4, f_w18_4, q_w28_4, ry]

theorem xinfo (y : Ring) (d : Fin 32) (t : Fin 16) (m : Fin 8) : Statement (.xinfo y d t m) := by
  intro q rest h
  obtain rfl := only_ctl (Instr.streams_of_wf h)
  have fw : Fits [(4, y.code), (6, 39), (5, d.val), (4, t.val), (9, 0), (1, 0), (3, m.val)] := ⟨y.code_lt, by decide, d.isLt, t.isLt, by decide, by decide, m.isLt, trivial⟩
  have e_ : encode .ctl (.xinfo y d t m) = [pack [(4, y.code), (6, 39), (5, d.val), (4, t.val), (9, 0), (1, 0), (3, m.val)]] := by
    show [w6 y 0x27 (d.val * 2 ^ 17 + t.val * 2 ^ 13 + m.val)] = _
    simp only [w6, pack, bits, List.cons.injEq, and_true]; omega
  refine roundtrip_one e_ fw rfl (fun w_ hw _ => ?_) rest
  have q_w4_9 : fld w_ 4 9 = 0 := fieldAt hw fw 4 (by simp)
  have q_w3_1 : fld w_ 3 1 = 0 := fieldAt hw fw 5 (by simp)
  have q_w0_3 : fld w_ 0 3 = m.val := fieldAt hw fw 6 (by simp)
  have f_w0_3 : (fin 3 w_ 0 : Fin 8) = m := Fin.ext q_w0_3
  have q_w17_5 : fld w_ 17 5 = d.val := fieldAt hw fw 2 (by simp)
  have f_w17_5 : (fin 5 w_ 17 : Fin 32) = d := Fin.ext q_w17_5
  have q_w13_4 : fld w_ 13 4 = t.val := fieldAt hw fw 3 (by simp)
  have f_w13_4 : (fin 4 w_ 13 : Fin 16) = t := Fin.ext q_w13_4
  have q_w22_6 : fld w_ 22 6 = 39 := fieldAt hw fw 1 (by simp)
  have q_w28_4 : fld w_ 28 4 = y.code := fieldAt hw fw 0 (by simp)
  have ry : Ring.ofWord w_ = y := Ring.ofWord_of q_w28_4
  refine decode_ctl1 39 q_w22_6 rfl ?_
  delta decodeCtl
  rw [q_w22_6]
  simp [need, withCode, q_w4_9, q_w3_1, q_w0_3, f_w0_3, q_w17_5, f_w17_5, q_w13_4, f_w13_4, q_w28_4, ry]

theorem bind (y : Ring) (t : Fin 16) (k : Fin 16) (x : Fin 32) (v : Fin 32) : Statement (.bind y t k x v) := by
  intro q rest h
  obtain rfl := only_ctl (Instr.streams_of_wf h)
  have fw : Fits [(4, y.code), (6, 40), (4, t.val), (1, 0), (4, k.val), (5, x.val), (3, 0), (5, v.val)] := ⟨y.code_lt, by decide, t.isLt, by decide, k.isLt, x.isLt, by decide, v.isLt, trivial⟩
  have e_ : encode .ctl (.bind y t k x v) = [pack [(4, y.code), (6, 40), (4, t.val), (1, 0), (4, k.val), (5, x.val), (3, 0), (5, v.val)]] := by
    show [w6 y 0x28 (t.val * 2 ^ 18 + k.val * 2 ^ 13 + x.val * 2 ^ 8 + v.val)] = _
    simp only [w6, pack, bits, List.cons.injEq, and_true]; omega
  refine roundtrip_one e_ fw rfl (fun w_ hw _ => ?_) rest
  have q_w17_1 : fld w_ 17 1 = 0 := fieldAt hw fw 3 (by simp)
  have q_w5_3 : fld w_ 5 3 = 0 := fieldAt hw fw 6 (by simp)
  have q_w18_4 : fld w_ 18 4 = t.val := fieldAt hw fw 2 (by simp)
  have f_w18_4 : (fin 4 w_ 18 : Fin 16) = t := Fin.ext q_w18_4
  have q_w13_4 : fld w_ 13 4 = k.val := fieldAt hw fw 4 (by simp)
  have f_w13_4 : (fin 4 w_ 13 : Fin 16) = k := Fin.ext q_w13_4
  have q_w8_5 : fld w_ 8 5 = x.val := fieldAt hw fw 5 (by simp)
  have f_w8_5 : (fin 5 w_ 8 : Fin 32) = x := Fin.ext q_w8_5
  have q_w0_5 : fld w_ 0 5 = v.val := fieldAt hw fw 7 (by simp)
  have f_w0_5 : (fin 5 w_ 0 : Fin 32) = v := Fin.ext q_w0_5
  have q_w22_6 : fld w_ 22 6 = 40 := fieldAt hw fw 1 (by simp)
  have q_w28_4 : fld w_ 28 4 = y.code := fieldAt hw fw 0 (by simp)
  have ry : Ring.ofWord w_ = y := Ring.ofWord_of q_w28_4
  refine decode_ctl1 40 q_w22_6 rfl ?_
  delta decodeCtl
  rw [q_w22_6]
  simp [need, withCode, q_w17_1, q_w5_3, q_w18_4, f_w18_4, q_w13_4, f_w13_4, q_w8_5, f_w8_5, q_w0_5, f_w0_5, q_w28_4, ry]

theorem unbind (y : Ring) (t : Fin 16) : Statement (.unbind y t) := by
  intro q rest h
  obtain rfl := only_ctl (Instr.streams_of_wf h)
  have fw : Fits [(4, y.code), (6, 41), (4, t.val), (18, 0)] := ⟨y.code_lt, by decide, t.isLt, by decide, trivial⟩
  have e_ : encode .ctl (.unbind y t) = [pack [(4, y.code), (6, 41), (4, t.val), (18, 0)]] := by
    show [w6 y 0x29 (t.val * 2 ^ 18)] = _
    simp only [w6, pack, bits, List.cons.injEq, and_true]; omega
  refine roundtrip_one e_ fw rfl (fun w_ hw _ => ?_) rest
  have q_w0_18 : fld w_ 0 18 = 0 := fieldAt hw fw 3 (by simp)
  have q_w18_4 : fld w_ 18 4 = t.val := fieldAt hw fw 2 (by simp)
  have f_w18_4 : (fin 4 w_ 18 : Fin 16) = t := Fin.ext q_w18_4
  have q_w22_6 : fld w_ 22 6 = 41 := fieldAt hw fw 1 (by simp)
  have q_w28_4 : fld w_ 28 4 = y.code := fieldAt hw fw 0 (by simp)
  have ry : Ring.ofWord w_ = y := Ring.ofWord_of q_w28_4
  refine decode_ctl1 41 q_w22_6 rfl ?_
  delta decodeCtl
  rw [q_w22_6]
  simp [need, withCode, q_w0_18, q_w18_4, f_w18_4, q_w28_4, ry]

theorem lds (y : Ring) (d : Fin 32) (k : Fin 16) (x : Fin 32) (z : Size) (v : Fin 32) : Statement (.lds y d k x z v) := by
  intro q rest h
  obtain rfl := only_ctl (Instr.streams_of_wf h)
  have fw : Fits [(4, y.code), (6, 42), (5, d.val), (4, k.val), (5, x.val), (3, z.code), (5, v.val)] := ⟨y.code_lt, by decide, d.isLt, k.isLt, x.isLt, z.code_lt, v.isLt, trivial⟩
  have e_ : encode .ctl (.lds y d k x z v) = [pack [(4, y.code), (6, 42), (5, d.val), (4, k.val), (5, x.val), (3, z.code), (5, v.val)]] := by
    show [w6 y 0x2A (cm d k x z.code v)] = _
    simp only [w6, cm, pack, bits, List.cons.injEq, and_true]; omega
  refine roundtrip_one e_ fw rfl (fun w_ hw _ => ?_) rest
  have q_w17_5 : fld w_ 17 5 = d.val := fieldAt hw fw 2 (by simp)
  have f_w17_5 : (fin 5 w_ 17 : Fin 32) = d := Fin.ext q_w17_5
  have q_w13_4 : fld w_ 13 4 = k.val := fieldAt hw fw 3 (by simp)
  have f_w13_4 : (fin 4 w_ 13 : Fin 16) = k := Fin.ext q_w13_4
  have q_w8_5 : fld w_ 8 5 = x.val := fieldAt hw fw 4 (by simp)
  have f_w8_5 : (fin 5 w_ 8 : Fin 32) = x := Fin.ext q_w8_5
  have q_w5_3 : fld w_ 5 3 = z.code := fieldAt hw fw 5 (by simp)
  have q_w0_5 : fld w_ 0 5 = v.val := fieldAt hw fw 6 (by simp)
  have f_w0_5 : (fin 5 w_ 0 : Fin 32) = v := Fin.ext q_w0_5
  have q_w22_6 : fld w_ 22 6 = 42 := fieldAt hw fw 1 (by simp)
  have q_w28_4 : fld w_ 28 4 = y.code := fieldAt hw fw 0 (by simp)
  have ry : Ring.ofWord w_ = y := Ring.ofWord_of q_w28_4
  refine decode_ctl1 42 q_w22_6 rfl ?_
  delta decodeCtl
  rw [q_w22_6]
  simp [need, withCode, q_w17_5, f_w17_5, q_w13_4, f_w13_4, q_w8_5, f_w8_5, q_w5_3, q_w0_5, f_w0_5, q_w28_4, ry, Size.ofCode_code]

theorem ldsDataReturn (c : CoreId) (x : Fin 4) (k : Work Nat) : Statement (.ldsDataReturn c x k) := fun _ _ h => (no_stream (Instr.streams_of_wf h)).elim

theorem sts (y : Ring) (d : Fin 32) (k : Fin 16) (x : Fin 32) (z : Size) (v : Fin 32) : Statement (.sts y d k x z v) := by
  intro q rest h
  obtain rfl := only_ctl (Instr.streams_of_wf h)
  have fw : Fits [(4, y.code), (6, 43), (5, d.val), (4, k.val), (5, x.val), (3, z.code), (5, v.val)] := ⟨y.code_lt, by decide, d.isLt, k.isLt, x.isLt, z.code_lt, v.isLt, trivial⟩
  have e_ : encode .ctl (.sts y d k x z v) = [pack [(4, y.code), (6, 43), (5, d.val), (4, k.val), (5, x.val), (3, z.code), (5, v.val)]] := by
    show [w6 y 0x2B (cm d k x z.code v)] = _
    simp only [w6, cm, pack, bits, List.cons.injEq, and_true]; omega
  refine roundtrip_one e_ fw rfl (fun w_ hw _ => ?_) rest
  have q_w17_5 : fld w_ 17 5 = d.val := fieldAt hw fw 2 (by simp)
  have f_w17_5 : (fin 5 w_ 17 : Fin 32) = d := Fin.ext q_w17_5
  have q_w13_4 : fld w_ 13 4 = k.val := fieldAt hw fw 3 (by simp)
  have f_w13_4 : (fin 4 w_ 13 : Fin 16) = k := Fin.ext q_w13_4
  have q_w8_5 : fld w_ 8 5 = x.val := fieldAt hw fw 4 (by simp)
  have f_w8_5 : (fin 5 w_ 8 : Fin 32) = x := Fin.ext q_w8_5
  have q_w5_3 : fld w_ 5 3 = z.code := fieldAt hw fw 5 (by simp)
  have q_w0_5 : fld w_ 0 5 = v.val := fieldAt hw fw 6 (by simp)
  have f_w0_5 : (fin 5 w_ 0 : Fin 32) = v := Fin.ext q_w0_5
  have q_w22_6 : fld w_ 22 6 = 43 := fieldAt hw fw 1 (by simp)
  have q_w28_4 : fld w_ 28 4 = y.code := fieldAt hw fw 0 (by simp)
  have ry : Ring.ofWord w_ = y := Ring.ofWord_of q_w28_4
  have hk : (z.stores : Bool) = true := Instr.operands_of_wf h
  try simp only [Bool.and_eq_true, Bool.or_eq_true, bne_iff_ne, ne_eq, decide_eq_true_eq, beq_iff_eq, Bool.not_eq_true', Bool.and_eq_false_iff, beq_eq_false_iff_ne, not_true_eq_false, false_or, reduceCtorEq, not_false_eq_true, true_or, true_and, and_true] at hk
  refine decode_ctl1 43 q_w22_6 rfl ?_
  delta decodeCtl
  rw [q_w22_6]
  simp [need, withCode, q_w17_5, f_w17_5, q_w13_4, f_w13_4, q_w8_5, f_w8_5, q_w5_3, q_w0_5, f_w0_5, q_w28_4, ry, Size.ofCode_code, hk]

theorem stsAccepted (c : CoreId) (x : Fin 4) (k : Work Nat) : Statement (.stsAccepted c x k) := fun _ _ h => (no_stream (Instr.streams_of_wf h)).elim

theorem amo (y : Ring) (d : Fin 32) (k : Fin 16) (x : Fin 32) (z : Size) (v : Fin 32) (b : Fin 32) (o : AmoOp) (c : Scope) : Statement (.amo y d k x z v b o c) := by
  intro q rest h
  obtain rfl := only_ctl (Instr.streams_of_wf h)
  have fw : Fits [(4, y.code), (6, 44), (5, d.val), (4, k.val), (5, x.val), (3, z.code), (5, v.val)] := ⟨y.code_lt, by decide, d.isLt, k.isLt, x.isLt, z.code_lt, v.isLt, trivial⟩
  have fv : Fits [(4, 0), (5, b.val), (5, 0), (4, o.code), (3, c.code), (11, 0)] := ⟨by decide, b.isLt, by decide, o.code_lt, c.code_lt, by decide, trivial⟩
  have e_ : encode .ctl (.amo y d k x z v b o c) = [pack [(4, y.code), (6, 44), (5, d.val), (4, k.val), (5, x.val), (3, z.code), (5, v.val)], pack [(4, 0), (5, b.val), (5, 0), (4, o.code), (3, c.code), (11, 0)]] := by
    show [w6 y 0x2C (cm d k x z.code v), b.val * 2 ^ 23 + o.code * 2 ^ 14 + c.code * 2 ^ 11] = _
    simp only [w6, cm, pack, bits, List.cons.injEq, and_true]; exact ⟨by omega, by omega⟩
  refine roundtrip_two e_ fw rfl fv rfl (fun w_ v_ hw hv => ?_) rest
  have q_v0_11 : fld v_ 0 11 = 0 := fieldAt hv fv 5 (by simp)
  have q_v18_5 : fld v_ 18 5 = 0 := fieldAt hv fv 2 (by simp)
  have q_v14_4 : fld v_ 14 4 = o.code := fieldAt hv fv 3 (by simp)
  have q_v11_3 : fld v_ 11 3 = c.code := fieldAt hv fv 4 (by simp)
  have q_v23_5 : fld v_ 23 5 = b.val := fieldAt hv fv 1 (by simp)
  have f_v23_5 : (fin 5 v_ 23 : Fin 32) = b := Fin.ext q_v23_5
  have q_w17_5 : fld w_ 17 5 = d.val := fieldAt hw fw 2 (by simp)
  have f_w17_5 : (fin 5 w_ 17 : Fin 32) = d := Fin.ext q_w17_5
  have q_w13_4 : fld w_ 13 4 = k.val := fieldAt hw fw 3 (by simp)
  have f_w13_4 : (fin 4 w_ 13 : Fin 16) = k := Fin.ext q_w13_4
  have q_w8_5 : fld w_ 8 5 = x.val := fieldAt hw fw 4 (by simp)
  have f_w8_5 : (fin 5 w_ 8 : Fin 32) = x := Fin.ext q_w8_5
  have q_w5_3 : fld w_ 5 3 = z.code := fieldAt hw fw 5 (by simp)
  have q_w0_5 : fld w_ 0 5 = v.val := fieldAt hw fw 6 (by simp)
  have f_w0_5 : (fin 5 w_ 0 : Fin 32) = v := Fin.ext q_w0_5
  have q_w22_6 : fld w_ 22 6 = 44 := fieldAt hw fw 1 (by simp)
  have q_w28_4 : fld w_ 28 4 = y.code := fieldAt hw fw 0 (by simp)
  have ry : Ring.ofWord w_ = y := Ring.ofWord_of q_w28_4
  have q_v28_4 : fld v_ 28 4 = 0 := fieldAt hv fv 0 (by simp)
  have hk : (z.atomic : Bool) = true := Instr.operands_of_wf h
  try simp only [Bool.and_eq_true, Bool.or_eq_true, bne_iff_ne, ne_eq, decide_eq_true_eq, beq_iff_eq, Bool.not_eq_true', Bool.and_eq_false_iff, beq_eq_false_iff_ne, not_true_eq_false, false_or, reduceCtorEq, not_false_eq_true, true_or, true_and, and_true] at hk
  refine decode_ctl2 44 q_w22_6 rfl q_v28_4 ?_
  delta decodeCtl
  rw [q_w22_6]
  simp [need, withCode, q_v0_11, q_v18_5, q_v14_4, q_v11_3, q_v23_5, f_v23_5, q_w17_5, f_w17_5, q_w13_4, f_w13_4, q_w8_5, f_w8_5, q_w5_3, q_w0_5, f_w0_5, q_w28_4, ry, q_v28_4, Size.ofCode_code, AmoOp.ofCode_code, Scope.ofCode_code, hk]

theorem cas (y : Ring) (d : Fin 32) (k : Fin 16) (x : Fin 32) (z : Size) (v : Fin 32) (b : Fin 32) (n : Fin 32) (c : Scope) : Statement (.cas y d k x z v b n c) := by
  intro q rest h
  obtain rfl := only_ctl (Instr.streams_of_wf h)
  have fw : Fits [(4, y.code), (6, 45), (5, d.val), (4, k.val), (5, x.val), (3, z.code), (5, v.val)] := ⟨y.code_lt, by decide, d.isLt, k.isLt, x.isLt, z.code_lt, v.isLt, trivial⟩
  have fv : Fits [(4, 0), (5, b.val), (5, n.val), (4, 0), (3, c.code), (11, 0)] := ⟨by decide, b.isLt, n.isLt, by decide, c.code_lt, by decide, trivial⟩
  have e_ : encode .ctl (.cas y d k x z v b n c) = [pack [(4, y.code), (6, 45), (5, d.val), (4, k.val), (5, x.val), (3, z.code), (5, v.val)], pack [(4, 0), (5, b.val), (5, n.val), (4, 0), (3, c.code), (11, 0)]] := by
    show [w6 y 0x2D (cm d k x z.code v), b.val * 2 ^ 23 + n.val * 2 ^ 18 + c.code * 2 ^ 11] = _
    simp only [w6, cm, pack, bits, List.cons.injEq, and_true]; exact ⟨by omega, by omega⟩
  refine roundtrip_two e_ fw rfl fv rfl (fun w_ v_ hw hv => ?_) rest
  have q_v0_11 : fld v_ 0 11 = 0 := fieldAt hv fv 5 (by simp)
  have q_v14_4 : fld v_ 14 4 = 0 := fieldAt hv fv 3 (by simp)
  have q_v11_3 : fld v_ 11 3 = c.code := fieldAt hv fv 4 (by simp)
  have q_v23_5 : fld v_ 23 5 = b.val := fieldAt hv fv 1 (by simp)
  have f_v23_5 : (fin 5 v_ 23 : Fin 32) = b := Fin.ext q_v23_5
  have q_v18_5 : fld v_ 18 5 = n.val := fieldAt hv fv 2 (by simp)
  have f_v18_5 : (fin 5 v_ 18 : Fin 32) = n := Fin.ext q_v18_5
  have q_w17_5 : fld w_ 17 5 = d.val := fieldAt hw fw 2 (by simp)
  have f_w17_5 : (fin 5 w_ 17 : Fin 32) = d := Fin.ext q_w17_5
  have q_w13_4 : fld w_ 13 4 = k.val := fieldAt hw fw 3 (by simp)
  have f_w13_4 : (fin 4 w_ 13 : Fin 16) = k := Fin.ext q_w13_4
  have q_w8_5 : fld w_ 8 5 = x.val := fieldAt hw fw 4 (by simp)
  have f_w8_5 : (fin 5 w_ 8 : Fin 32) = x := Fin.ext q_w8_5
  have q_w5_3 : fld w_ 5 3 = z.code := fieldAt hw fw 5 (by simp)
  have q_w0_5 : fld w_ 0 5 = v.val := fieldAt hw fw 6 (by simp)
  have f_w0_5 : (fin 5 w_ 0 : Fin 32) = v := Fin.ext q_w0_5
  have q_w22_6 : fld w_ 22 6 = 45 := fieldAt hw fw 1 (by simp)
  have q_w28_4 : fld w_ 28 4 = y.code := fieldAt hw fw 0 (by simp)
  have ry : Ring.ofWord w_ = y := Ring.ofWord_of q_w28_4
  have q_v28_4 : fld v_ 28 4 = 0 := fieldAt hv fv 0 (by simp)
  have hk : (z.atomic : Bool) = true := Instr.operands_of_wf h
  try simp only [Bool.and_eq_true, Bool.or_eq_true, bne_iff_ne, ne_eq, decide_eq_true_eq, beq_iff_eq, Bool.not_eq_true', Bool.and_eq_false_iff, beq_eq_false_iff_ne, not_true_eq_false, false_or, reduceCtorEq, not_false_eq_true, true_or, true_and, and_true] at hk
  refine decode_ctl2 45 q_w22_6 rfl q_v28_4 ?_
  delta decodeCtl
  rw [q_w22_6]
  simp [need, withCode, q_v0_11, q_v14_4, q_v11_3, q_v23_5, f_v23_5, q_v18_5, f_v18_5, q_w17_5, f_w17_5, q_w13_4, f_w13_4, q_w8_5, f_w8_5, q_w5_3, q_w0_5, f_w0_5, q_w28_4, ry, q_v28_4, Size.ofCode_code, Scope.ofCode_code, hk]

theorem acq (y : Ring) (c : Scope) (k : Fin 16) (x : Fin 32) (v : Fin 32) : Statement (.acq y c k x v) := by
  intro q rest h
  obtain rfl := only_ctl (Instr.streams_of_wf h)
  have fw : Fits [(4, y.code), (6, 46), (2, 0), (3, c.code), (4, k.val), (5, x.val), (3, 0), (5, v.val)] := ⟨y.code_lt, by decide, by decide, c.code_lt, k.isLt, x.isLt, by decide, v.isLt, trivial⟩
  have e_ : encode .ctl (.acq y c k x v) = [pack [(4, y.code), (6, 46), (2, 0), (3, c.code), (4, k.val), (5, x.val), (3, 0), (5, v.val)]] := by
    show [w6 y 0x2E (c.code * 2 ^ 17 + k.val * 2 ^ 13 + x.val * 2 ^ 8 + v.val)] = _
    simp only [w6, pack, bits, List.cons.injEq, and_true]; omega
  refine roundtrip_one e_ fw rfl (fun w_ hw _ => ?_) rest
  have q_w20_2 : fld w_ 20 2 = 0 := fieldAt hw fw 2 (by simp)
  have q_w5_3 : fld w_ 5 3 = 0 := fieldAt hw fw 6 (by simp)
  have q_w17_3 : fld w_ 17 3 = c.code := fieldAt hw fw 3 (by simp)
  have q_w13_4 : fld w_ 13 4 = k.val := fieldAt hw fw 4 (by simp)
  have f_w13_4 : (fin 4 w_ 13 : Fin 16) = k := Fin.ext q_w13_4
  have q_w8_5 : fld w_ 8 5 = x.val := fieldAt hw fw 5 (by simp)
  have f_w8_5 : (fin 5 w_ 8 : Fin 32) = x := Fin.ext q_w8_5
  have q_w0_5 : fld w_ 0 5 = v.val := fieldAt hw fw 7 (by simp)
  have f_w0_5 : (fin 5 w_ 0 : Fin 32) = v := Fin.ext q_w0_5
  have q_w22_6 : fld w_ 22 6 = 46 := fieldAt hw fw 1 (by simp)
  have q_w28_4 : fld w_ 28 4 = y.code := fieldAt hw fw 0 (by simp)
  have ry : Ring.ofWord w_ = y := Ring.ofWord_of q_w28_4
  refine decode_ctl1 46 q_w22_6 rfl ?_
  delta decodeCtl
  rw [q_w22_6]
  simp [need, withCode, q_w20_2, q_w5_3, q_w17_3, q_w13_4, f_w13_4, q_w8_5, f_w8_5, q_w0_5, f_w0_5, q_w28_4, ry, Scope.ofCode_code]

theorem rel (y : Ring) (c : Scope) (k : Fin 16) (x : Fin 32) (v : Fin 32) : Statement (.rel y c k x v) := by
  intro q rest h
  obtain rfl := only_ctl (Instr.streams_of_wf h)
  have fw : Fits [(4, y.code), (6, 47), (2, 0), (3, c.code), (4, k.val), (5, x.val), (3, 0), (5, v.val)] := ⟨y.code_lt, by decide, by decide, c.code_lt, k.isLt, x.isLt, by decide, v.isLt, trivial⟩
  have e_ : encode .ctl (.rel y c k x v) = [pack [(4, y.code), (6, 47), (2, 0), (3, c.code), (4, k.val), (5, x.val), (3, 0), (5, v.val)]] := by
    show [w6 y 0x2F (c.code * 2 ^ 17 + k.val * 2 ^ 13 + x.val * 2 ^ 8 + v.val)] = _
    simp only [w6, pack, bits, List.cons.injEq, and_true]; omega
  refine roundtrip_one e_ fw rfl (fun w_ hw _ => ?_) rest
  have q_w20_2 : fld w_ 20 2 = 0 := fieldAt hw fw 2 (by simp)
  have q_w5_3 : fld w_ 5 3 = 0 := fieldAt hw fw 6 (by simp)
  have q_w17_3 : fld w_ 17 3 = c.code := fieldAt hw fw 3 (by simp)
  have q_w13_4 : fld w_ 13 4 = k.val := fieldAt hw fw 4 (by simp)
  have f_w13_4 : (fin 4 w_ 13 : Fin 16) = k := Fin.ext q_w13_4
  have q_w8_5 : fld w_ 8 5 = x.val := fieldAt hw fw 5 (by simp)
  have f_w8_5 : (fin 5 w_ 8 : Fin 32) = x := Fin.ext q_w8_5
  have q_w0_5 : fld w_ 0 5 = v.val := fieldAt hw fw 7 (by simp)
  have f_w0_5 : (fin 5 w_ 0 : Fin 32) = v := Fin.ext q_w0_5
  have q_w22_6 : fld w_ 22 6 = 47 := fieldAt hw fw 1 (by simp)
  have q_w28_4 : fld w_ 28 4 = y.code := fieldAt hw fw 0 (by simp)
  have ry : Ring.ofWord w_ = y := Ring.ofWord_of q_w28_4
  refine decode_ctl1 47 q_w22_6 rfl ?_
  delta decodeCtl
  rw [q_w22_6]
  simp [need, withCode, q_w20_2, q_w5_3, q_w17_3, q_w13_4, f_w13_4, q_w8_5, f_w8_5, q_w0_5, f_w0_5, q_w28_4, ry, Scope.ofCode_code]

theorem fence (y : Ring) (c : Scope) : Statement (.fence y c) := by
  intro q rest h
  obtain rfl := only_ctl (Instr.streams_of_wf h)
  have fw : Fits [(4, y.code), (6, 48), (17, 0), (2, 0), (3, c.code)] := ⟨y.code_lt, by decide, by decide, by decide, c.code_lt, trivial⟩
  have e_ : encode .ctl (.fence y c) = [pack [(4, y.code), (6, 48), (17, 0), (2, 0), (3, c.code)]] := by
    show [w6 y 0x30 c.code] = _
    simp only [w6, pack, bits, List.cons.injEq, and_true]; omega
  refine roundtrip_one e_ fw rfl (fun w_ hw _ => ?_) rest
  have q_w5_17 : fld w_ 5 17 = 0 := fieldAt hw fw 2 (by simp)
  have q_w3_2 : fld w_ 3 2 = 0 := fieldAt hw fw 3 (by simp)
  have q_w0_3 : fld w_ 0 3 = c.code := fieldAt hw fw 4 (by simp)
  have q_w22_6 : fld w_ 22 6 = 48 := fieldAt hw fw 1 (by simp)
  have q_w28_4 : fld w_ 28 4 = y.code := fieldAt hw fw 0 (by simp)
  have ry : Ring.ofWord w_ = y := Ring.ofWord_of q_w28_4
  refine decode_ctl1 48 q_w22_6 rfl ?_
  delta decodeCtl
  rw [q_w22_6]
  simp [need, withCode, q_w5_17, q_w3_2, q_w0_3, q_w28_4, ry, Scope.ofCode_code]

theorem fenceAcq (y : Ring) (c : Scope) : Statement (.fenceAcq y c) := by
  intro q rest h
  obtain rfl := only_ctl (Instr.streams_of_wf h)
  have fw : Fits [(4, y.code), (6, 48), (17, 0), (2, 1), (3, c.code)] := ⟨y.code_lt, by decide, by decide, by decide, c.code_lt, trivial⟩
  have e_ : encode .ctl (.fenceAcq y c) = [pack [(4, y.code), (6, 48), (17, 0), (2, 1), (3, c.code)]] := by
    show [w6 y 0x30 (2 ^ 3 + c.code)] = _
    simp only [w6, pack, bits, List.cons.injEq, and_true]; omega
  refine roundtrip_one e_ fw rfl (fun w_ hw _ => ?_) rest
  have q_w5_17 : fld w_ 5 17 = 0 := fieldAt hw fw 2 (by simp)
  have q_w3_2 : fld w_ 3 2 = 1 := fieldAt hw fw 3 (by simp)
  have q_w0_3 : fld w_ 0 3 = c.code := fieldAt hw fw 4 (by simp)
  have q_w22_6 : fld w_ 22 6 = 48 := fieldAt hw fw 1 (by simp)
  have q_w28_4 : fld w_ 28 4 = y.code := fieldAt hw fw 0 (by simp)
  have ry : Ring.ofWord w_ = y := Ring.ofWord_of q_w28_4
  refine decode_ctl1 48 q_w22_6 rfl ?_
  delta decodeCtl
  rw [q_w22_6]
  simp [need, withCode, q_w5_17, q_w3_2, q_w0_3, q_w28_4, ry, Scope.ofCode_code]

theorem fenceRel (y : Ring) (c : Scope) : Statement (.fenceRel y c) := by
  intro q rest h
  obtain rfl := only_ctl (Instr.streams_of_wf h)
  have fw : Fits [(4, y.code), (6, 48), (17, 0), (2, 2), (3, c.code)] := ⟨y.code_lt, by decide, by decide, by decide, c.code_lt, trivial⟩
  have e_ : encode .ctl (.fenceRel y c) = [pack [(4, y.code), (6, 48), (17, 0), (2, 2), (3, c.code)]] := by
    show [w6 y 0x30 (2 * 2 ^ 3 + c.code)] = _
    simp only [w6, pack, bits, List.cons.injEq, and_true]; omega
  refine roundtrip_one e_ fw rfl (fun w_ hw _ => ?_) rest
  have q_w5_17 : fld w_ 5 17 = 0 := fieldAt hw fw 2 (by simp)
  have q_w3_2 : fld w_ 3 2 = 2 := fieldAt hw fw 3 (by simp)
  have q_w0_3 : fld w_ 0 3 = c.code := fieldAt hw fw 4 (by simp)
  have q_w22_6 : fld w_ 22 6 = 48 := fieldAt hw fw 1 (by simp)
  have q_w28_4 : fld w_ 28 4 = y.code := fieldAt hw fw 0 (by simp)
  have ry : Ring.ofWord w_ = y := Ring.ofWord_of q_w28_4
  refine decode_ctl1 48 q_w22_6 rfl ?_
  delta decodeCtl
  rw [q_w22_6]
  simp [need, withCode, q_w5_17, q_w3_2, q_w0_3, q_w28_4, ry, Scope.ofCode_code]

theorem fenceAll (y : Ring) : Statement (.fenceAll y) := by
  intro q rest h
  obtain rfl := only_ctl (Instr.streams_of_wf h)
  have fw : Fits [(4, y.code), (6, 48), (17, 0), (2, 3), (3, 0)] := ⟨y.code_lt, by decide, by decide, by decide, by decide, trivial⟩
  have e_ : encode .ctl (.fenceAll y) = [pack [(4, y.code), (6, 48), (17, 0), (2, 3), (3, 0)]] := by
    show [w6 y 0x30 (3 * 2 ^ 3)] = _
    simp only [w6, pack, bits, List.cons.injEq, and_true]; omega
  refine roundtrip_one e_ fw rfl (fun w_ hw _ => ?_) rest
  have q_w5_17 : fld w_ 5 17 = 0 := fieldAt hw fw 2 (by simp)
  have q_w3_2 : fld w_ 3 2 = 3 := fieldAt hw fw 3 (by simp)
  have q_w0_3 : fld w_ 0 3 = 0 := fieldAt hw fw 4 (by simp)
  have q_w22_6 : fld w_ 22 6 = 48 := fieldAt hw fw 1 (by simp)
  have q_w28_4 : fld w_ 28 4 = y.code := fieldAt hw fw 0 (by simp)
  have ry : Ring.ofWord w_ = y := Ring.ofWord_of q_w28_4
  refine decode_ctl1 48 q_w22_6 rfl ?_
  delta decodeCtl
  rw [q_w22_6]
  simp [need, withCode, q_w5_17, q_w3_2, q_w0_3, q_w28_4, ry]

theorem wadr (y : Ring) (d : Fin 32) (k : Fin 16) (x : Fin 32) (z : Size) (v : Fin 32) : Statement (.wadr y d k x z v) := by
  intro q rest h
  obtain rfl := only_ctl (Instr.streams_of_wf h)
  have fw : Fits [(4, y.code), (6, 49), (5, d.val), (4, k.val), (5, x.val), (3, z.code), (5, v.val)] := ⟨y.code_lt, by decide, d.isLt, k.isLt, x.isLt, z.code_lt, v.isLt, trivial⟩
  have e_ : encode .ctl (.wadr y d k x z v) = [pack [(4, y.code), (6, 49), (5, d.val), (4, k.val), (5, x.val), (3, z.code), (5, v.val)]] := by
    show [w6 y 0x31 (cm d k x z.code v)] = _
    simp only [w6, cm, pack, bits, List.cons.injEq, and_true]; omega
  refine roundtrip_one e_ fw rfl (fun w_ hw _ => ?_) rest
  have q_w17_5 : fld w_ 17 5 = d.val := fieldAt hw fw 2 (by simp)
  have f_w17_5 : (fin 5 w_ 17 : Fin 32) = d := Fin.ext q_w17_5
  have q_w13_4 : fld w_ 13 4 = k.val := fieldAt hw fw 3 (by simp)
  have f_w13_4 : (fin 4 w_ 13 : Fin 16) = k := Fin.ext q_w13_4
  have q_w8_5 : fld w_ 8 5 = x.val := fieldAt hw fw 4 (by simp)
  have f_w8_5 : (fin 5 w_ 8 : Fin 32) = x := Fin.ext q_w8_5
  have q_w5_3 : fld w_ 5 3 = z.code := fieldAt hw fw 5 (by simp)
  have q_w0_5 : fld w_ 0 5 = v.val := fieldAt hw fw 6 (by simp)
  have f_w0_5 : (fin 5 w_ 0 : Fin 32) = v := Fin.ext q_w0_5
  have q_w22_6 : fld w_ 22 6 = 49 := fieldAt hw fw 1 (by simp)
  have q_w28_4 : fld w_ 28 4 = y.code := fieldAt hw fw 0 (by simp)
  have ry : Ring.ofWord w_ = y := Ring.ofWord_of q_w28_4
  refine decode_ctl1 49 q_w22_6 rfl ?_
  delta decodeCtl
  rw [q_w22_6]
  simp [need, withCode, q_w17_5, f_w17_5, q_w13_4, f_w13_4, q_w8_5, f_w8_5, q_w5_3, q_w0_5, f_w0_5, q_w28_4, ry, Size.ofCode_code]

theorem wadrWake (c : CoreId) (x : Fin 4) : Statement (.wadrWake c x) := fun _ _ h => (no_stream (Instr.streams_of_wf h)).elim

theorem wfe (y : Ring) : Statement (.wfe y) := by
  intro q rest h
  obtain rfl := only_ctl (Instr.streams_of_wf h)
  have fw : Fits [(4, y.code), (6, 50), (22, 0)] := ⟨y.code_lt, by decide, by decide, trivial⟩
  have e_ : encode .ctl (.wfe y) = [pack [(4, y.code), (6, 50), (22, 0)]] := by
    show [w6 y 0x32 0] = _
    simp only [w6, pack, bits, List.cons.injEq, and_true]; omega
  refine roundtrip_one e_ fw rfl (fun w_ hw _ => ?_) rest
  have q_w0_22 : fld w_ 0 22 = 0 := fieldAt hw fw 2 (by simp)
  have q_w22_6 : fld w_ 22 6 = 50 := fieldAt hw fw 1 (by simp)
  have q_w28_4 : fld w_ 28 4 = y.code := fieldAt hw fw 0 (by simp)
  have ry : Ring.ofWord w_ = y := Ring.ofWord_of q_w28_4
  refine decode_ctl1 50 q_w22_6 rfl ?_
  delta decodeCtl
  rw [q_w22_6]
  simp [need, withCode, q_w0_22, q_w28_4, ry]

theorem sev (y : Ring) (c : Scope) : Statement (.sev y c) := by
  intro q rest h
  obtain rfl := only_ctl (Instr.streams_of_wf h)
  have fw : Fits [(4, y.code), (6, 51), (19, 0), (3, c.code)] := ⟨y.code_lt, by decide, by decide, c.code_lt, trivial⟩
  have e_ : encode .ctl (.sev y c) = [pack [(4, y.code), (6, 51), (19, 0), (3, c.code)]] := by
    show [w6 y 0x33 c.code] = _
    simp only [w6, pack, bits, List.cons.injEq, and_true]; omega
  refine roundtrip_one e_ fw rfl (fun w_ hw _ => ?_) rest
  have q_w3_19 : fld w_ 3 19 = 0 := fieldAt hw fw 2 (by simp)
  have q_w0_3 : fld w_ 0 3 = c.code := fieldAt hw fw 3 (by simp)
  have q_w22_6 : fld w_ 22 6 = 51 := fieldAt hw fw 1 (by simp)
  have q_w28_4 : fld w_ 28 4 = y.code := fieldAt hw fw 0 (by simp)
  have ry : Ring.ofWord w_ = y := Ring.ofWord_of q_w28_4
  refine decode_ctl1 51 q_w22_6 rfl ?_
  delta decodeCtl
  rw [q_w22_6]
  simp [need, withCode, q_w3_19, q_w0_3, q_w28_4, ry, Scope.ofCode_code]

theorem send (y : Ring) (g : Target) (a : Fin 32) : Statement (.send y g a) := by
  intro q rest h
  obtain rfl := only_ctl (Instr.streams_of_wf h)
  have fw : Fits [(4, y.code), (6, 52), (2, g.code), (3, 0), (5, a.val), (12, 0)] := ⟨y.code_lt, by decide, g.code_lt, by decide, a.isLt, by decide, trivial⟩
  have e_ : encode .ctl (.send y g a) = [pack [(4, y.code), (6, 52), (2, g.code), (3, 0), (5, a.val), (12, 0)]] := by
    show [w6 y 0x34 (g.code * 2 ^ 20 + a.val * 2 ^ 12)] = _
    simp only [w6, pack, bits, List.cons.injEq, and_true]; omega
  refine roundtrip_one e_ fw rfl (fun w_ hw _ => ?_) rest
  have q_w17_3 : fld w_ 17 3 = 0 := fieldAt hw fw 3 (by simp)
  have q_w0_12 : fld w_ 0 12 = 0 := fieldAt hw fw 5 (by simp)
  have q_w20_2 : fld w_ 20 2 = g.code := fieldAt hw fw 2 (by simp)
  have q_w12_5 : fld w_ 12 5 = a.val := fieldAt hw fw 4 (by simp)
  have f_w12_5 : (fin 5 w_ 12 : Fin 32) = a := Fin.ext q_w12_5
  have q_w22_6 : fld w_ 22 6 = 52 := fieldAt hw fw 1 (by simp)
  have q_w28_4 : fld w_ 28 4 = y.code := fieldAt hw fw 0 (by simp)
  have ry : Ring.ofWord w_ = y := Ring.ofWord_of q_w28_4
  refine decode_ctl1 52 q_w22_6 rfl ?_
  delta decodeCtl
  rw [q_w22_6]
  simp [need, withCode, q_w17_3, q_w0_12, q_w20_2, q_w12_5, f_w12_5, q_w28_4, ry, Target.ofCode_code]

theorem bqp (y : Ring) (g : Target) (n : Bool) (p : Fin 8) : Statement (.bqp y g n p) := by
  intro q rest h
  obtain rfl := only_ctl (Instr.streams_of_wf h)
  have fw : Fits [(4, y.code), (6, 53), (2, g.code), (1, n.toNat), (1, 0), (3, p.val), (15, 0)] := ⟨y.code_lt, by decide, g.code_lt, Bool.toNat_lt n, by decide, p.isLt, by decide, trivial⟩
  have e_ : encode .ctl (.bqp y g n p) = [pack [(4, y.code), (6, 53), (2, g.code), (1, n.toNat), (1, 0), (3, p.val), (15, 0)]] := by
    show [w6 y 0x35 (g.code * 2 ^ 20 + n.toNat * 2 ^ 19 + p.val * 2 ^ 15)] = _
    simp only [w6, pack, bits, List.cons.injEq, and_true]; omega
  refine roundtrip_one e_ fw rfl (fun w_ hw _ => ?_) rest
  have q_w18_1 : fld w_ 18 1 = 0 := fieldAt hw fw 4 (by simp)
  have q_w0_15 : fld w_ 0 15 = 0 := fieldAt hw fw 6 (by simp)
  have q_w20_2 : fld w_ 20 2 = g.code := fieldAt hw fw 2 (by simp)
  have q_w15_3 : fld w_ 15 3 = p.val := fieldAt hw fw 5 (by simp)
  have f_w15_3 : (fin 3 w_ 15 : Fin 8) = p := Fin.ext q_w15_3
  have q_w19_1 : fld w_ 19 1 = n.toNat := fieldAt hw fw 3 (by simp)
  have f_w19 : flag w_ 19 = n := flag_of q_w19_1
  have q_w22_6 : fld w_ 22 6 = 53 := fieldAt hw fw 1 (by simp)
  have q_w28_4 : fld w_ 28 4 = y.code := fieldAt hw fw 0 (by simp)
  have ry : Ring.ofWord w_ = y := Ring.ofWord_of q_w28_4
  refine decode_ctl1 53 q_w22_6 rfl ?_
  delta decodeCtl
  rw [q_w22_6]
  simp [need, withCode, q_w18_1, q_w0_15, q_w20_2, q_w15_3, f_w15_3, q_w19_1, f_w19, q_w28_4, ry, Target.ofCode_code]

theorem win (y : Ring) (w : Fin 16) (a : Fin 32) (n : BitVec 12) : Statement (.win y w a n) := by
  intro q rest h
  obtain rfl := only_ctl (Instr.streams_of_wf h)
  have fw : Fits [(4, y.code), (6, 54), (4, w.val), (1, 0), (5, a.val), (12, n.toNat)] := ⟨y.code_lt, by decide, w.isLt, by decide, a.isLt, n.isLt, trivial⟩
  have e_ : encode .ctl (.win y w a n) = [pack [(4, y.code), (6, 54), (4, w.val), (1, 0), (5, a.val), (12, n.toNat)]] := by
    show [w6 y 0x36 (w.val * 2 ^ 18 + a.val * 2 ^ 12 + n.toNat)] = _
    simp only [w6, pack, bits, List.cons.injEq, and_true]; omega
  refine roundtrip_one e_ fw rfl (fun w_ hw _ => ?_) rest
  have q_w17_1 : fld w_ 17 1 = 0 := fieldAt hw fw 3 (by simp)
  have q_w18_4 : fld w_ 18 4 = w.val := fieldAt hw fw 2 (by simp)
  have f_w18_4 : (fin 4 w_ 18 : Fin 16) = w := Fin.ext q_w18_4
  have q_w0_12 : fld w_ 0 12 = n.toNat := fieldAt hw fw 5 (by simp)
  have f_w0_12 : bvf 12 w_ 0 = n := bvf_of q_w0_12
  have q_w12_5 : fld w_ 12 5 = a.val := fieldAt hw fw 4 (by simp)
  have f_w12_5 : (fin 5 w_ 12 : Fin 32) = a := Fin.ext q_w12_5
  have q_w22_6 : fld w_ 22 6 = 54 := fieldAt hw fw 1 (by simp)
  have q_w28_4 : fld w_ 28 4 = y.code := fieldAt hw fw 0 (by simp)
  have ry : Ring.ofWord w_ = y := Ring.ofWord_of q_w28_4
  refine decode_ctl1 54 q_w22_6 rfl ?_
  delta decodeCtl
  rw [q_w22_6]
  simp [need, withCode, q_w17_1, q_w18_4, f_w18_4, q_w0_12, f_w0_12, q_w12_5, f_w12_5, q_w28_4, ry]

theorem trap (y : Ring) (n : BitVec 8) : Statement (.trap y n) := by
  intro q rest h
  obtain rfl := only_ctl (Instr.streams_of_wf h)
  have fw : Fits [(4, y.code), (6, 55), (3, 0), (11, 0), (8, n.toNat)] := ⟨y.code_lt, by decide, by decide, by decide, n.isLt, trivial⟩
  have e_ : encode .ctl (.trap y n) = [pack [(4, y.code), (6, 55), (3, 0), (11, 0), (8, n.toNat)]] := by
    show [w6 y 0x37 n.toNat] = _
    simp only [w6, pack, bits, List.cons.injEq, and_true]; omega
  refine roundtrip_one e_ fw rfl (fun w_ hw _ => ?_) rest
  have q_w8_11 : fld w_ 8 11 = 0 := fieldAt hw fw 3 (by simp)
  have q_w19_3 : fld w_ 19 3 = 0 := fieldAt hw fw 2 (by simp)
  have q_w0_8 : fld w_ 0 8 = n.toNat := fieldAt hw fw 4 (by simp)
  have f_w0_8 : bvf 8 w_ 0 = n := bvf_of q_w0_8
  have q_w22_6 : fld w_ 22 6 = 55 := fieldAt hw fw 1 (by simp)
  have q_w28_4 : fld w_ 28 4 = y.code := fieldAt hw fw 0 (by simp)
  have ry : Ring.ofWord w_ = y := Ring.ofWord_of q_w28_4
  refine decode_ctl1 55 q_w22_6 rfl ?_
  delta decodeCtl
  rw [q_w22_6]
  simp [need, withCode, q_w8_11, q_w19_3, q_w0_8, f_w0_8, q_w28_4, ry]

theorem rett (y : Ring) : Statement (.rett y) := by
  intro q rest h
  obtain rfl := only_ctl (Instr.streams_of_wf h)
  have fw : Fits [(4, y.code), (6, 55), (3, 1), (11, 0), (8, 0)] := ⟨y.code_lt, by decide, by decide, by decide, by decide, trivial⟩
  have e_ : encode .ctl (.rett y) = [pack [(4, y.code), (6, 55), (3, 1), (11, 0), (8, 0)]] := by
    show [w6 y 0x37 (2 ^ 19)] = _
    simp only [w6, pack, bits, List.cons.injEq, and_true]; omega
  refine roundtrip_one e_ fw rfl (fun w_ hw _ => ?_) rest
  have q_w8_11 : fld w_ 8 11 = 0 := fieldAt hw fw 3 (by simp)
  have q_w19_3 : fld w_ 19 3 = 1 := fieldAt hw fw 2 (by simp)
  have q_w0_8 : fld w_ 0 8 = 0 := fieldAt hw fw 4 (by simp)
  have q_w22_6 : fld w_ 22 6 = 55 := fieldAt hw fw 1 (by simp)
  have q_w28_4 : fld w_ 28 4 = y.code := fieldAt hw fw 0 (by simp)
  have ry : Ring.ofWord w_ = y := Ring.ofWord_of q_w28_4
  refine decode_ctl1 55 q_w22_6 rfl ?_
  delta decodeCtl
  rw [q_w22_6]
  simp [need, withCode, q_w8_11, q_w19_3, q_w0_8, q_w28_4, ry]

theorem ecall (y : Ring) (n : BitVec 8) : Statement (.ecall y n) := by
  intro q rest h
  obtain rfl := only_ctl (Instr.streams_of_wf h)
  have fw : Fits [(4, y.code), (6, 55), (3, 2), (11, 0), (8, n.toNat)] := ⟨y.code_lt, by decide, by decide, by decide, n.isLt, trivial⟩
  have e_ : encode .ctl (.ecall y n) = [pack [(4, y.code), (6, 55), (3, 2), (11, 0), (8, n.toNat)]] := by
    show [w6 y 0x37 (2 * 2 ^ 19 + n.toNat)] = _
    simp only [w6, pack, bits, List.cons.injEq, and_true]; omega
  refine roundtrip_one e_ fw rfl (fun w_ hw _ => ?_) rest
  have q_w8_11 : fld w_ 8 11 = 0 := fieldAt hw fw 3 (by simp)
  have q_w19_3 : fld w_ 19 3 = 2 := fieldAt hw fw 2 (by simp)
  have q_w0_8 : fld w_ 0 8 = n.toNat := fieldAt hw fw 4 (by simp)
  have f_w0_8 : bvf 8 w_ 0 = n := bvf_of q_w0_8
  have q_w22_6 : fld w_ 22 6 = 55 := fieldAt hw fw 1 (by simp)
  have q_w28_4 : fld w_ 28 4 = y.code := fieldAt hw fw 0 (by simp)
  have ry : Ring.ofWord w_ = y := Ring.ofWord_of q_w28_4
  refine decode_ctl1 55 q_w22_6 rfl ?_
  delta decodeCtl
  rw [q_w22_6]
  simp [need, withCode, q_w8_11, q_w19_3, q_w0_8, f_w0_8, q_w28_4, ry]

theorem brk (y : Ring) (n : BitVec 8) : Statement (.brk y n) := by
  intro q rest h
  obtain rfl := only_ctl (Instr.streams_of_wf h)
  have fw : Fits [(4, y.code), (6, 55), (3, 3), (11, 0), (8, n.toNat)] := ⟨y.code_lt, by decide, by decide, by decide, n.isLt, trivial⟩
  have e_ : encode .ctl (.brk y n) = [pack [(4, y.code), (6, 55), (3, 3), (11, 0), (8, n.toNat)]] := by
    show [w6 y 0x37 (3 * 2 ^ 19 + n.toNat)] = _
    simp only [w6, pack, bits, List.cons.injEq, and_true]; omega
  refine roundtrip_one e_ fw rfl (fun w_ hw _ => ?_) rest
  have q_w8_11 : fld w_ 8 11 = 0 := fieldAt hw fw 3 (by simp)
  have q_w19_3 : fld w_ 19 3 = 3 := fieldAt hw fw 2 (by simp)
  have q_w0_8 : fld w_ 0 8 = n.toNat := fieldAt hw fw 4 (by simp)
  have f_w0_8 : bvf 8 w_ 0 = n := bvf_of q_w0_8
  have q_w22_6 : fld w_ 22 6 = 55 := fieldAt hw fw 1 (by simp)
  have q_w28_4 : fld w_ 28 4 = y.code := fieldAt hw fw 0 (by simp)
  have ry : Ring.ofWord w_ = y := Ring.ofWord_of q_w28_4
  refine decode_ctl1 55 q_w22_6 rfl ?_
  delta decodeCtl
  rw [q_w22_6]
  simp [need, withCode, q_w8_11, q_w19_3, q_w0_8, f_w0_8, q_w28_4, ry]

theorem mfc (y : Ring) (d : Fin 32) (c : CReg) : Statement (.mfc y d c) := by
  intro q rest h
  obtain rfl := only_ctl (Instr.streams_of_wf h)
  have fw : Fits [(4, y.code), (6, 56), (5, d.val), (7, 0), (10, c.code)] := ⟨y.code_lt, by decide, d.isLt, by decide, c.code_lt, trivial⟩
  have e_ : encode .ctl (.mfc y d c) = [pack [(4, y.code), (6, 56), (5, d.val), (7, 0), (10, c.code)]] := by
    show [w6 y 0x38 (d.val * 2 ^ 17 + c.code)] = _
    simp only [w6, pack, bits, List.cons.injEq, and_true]; omega
  refine roundtrip_one e_ fw rfl (fun w_ hw _ => ?_) rest
  have q_w10_7 : fld w_ 10 7 = 0 := fieldAt hw fw 3 (by simp)
  have q_w0_10 : fld w_ 0 10 = c.code := fieldAt hw fw 4 (by simp)
  have q_w17_5 : fld w_ 17 5 = d.val := fieldAt hw fw 2 (by simp)
  have f_w17_5 : (fin 5 w_ 17 : Fin 32) = d := Fin.ext q_w17_5
  have q_w22_6 : fld w_ 22 6 = 56 := fieldAt hw fw 1 (by simp)
  have q_w28_4 : fld w_ 28 4 = y.code := fieldAt hw fw 0 (by simp)
  have ry : Ring.ofWord w_ = y := Ring.ofWord_of q_w28_4
  refine decode_ctl1 56 q_w22_6 rfl ?_
  delta decodeCtl
  rw [q_w22_6]
  simp [need, withCode, q_w10_7, q_w0_10, q_w17_5, f_w17_5, q_w28_4, ry, CReg.ofCode_code]

theorem mtc (y : Ring) (a : Fin 32) (c : CReg) : Statement (.mtc y a c) := by
  intro q rest h
  obtain rfl := only_ctl (Instr.streams_of_wf h)
  have fw : Fits [(4, y.code), (6, 57), (5, 0), (5, a.val), (2, 0), (10, c.code)] := ⟨y.code_lt, by decide, by decide, a.isLt, by decide, c.code_lt, trivial⟩
  have e_ : encode .ctl (.mtc y a c) = [pack [(4, y.code), (6, 57), (5, 0), (5, a.val), (2, 0), (10, c.code)]] := by
    show [w6 y 0x39 (a.val * 2 ^ 12 + c.code)] = _
    simp only [w6, pack, bits, List.cons.injEq, and_true]; omega
  refine roundtrip_one e_ fw rfl (fun w_ hw _ => ?_) rest
  have q_w17_5 : fld w_ 17 5 = 0 := fieldAt hw fw 2 (by simp)
  have q_w10_2 : fld w_ 10 2 = 0 := fieldAt hw fw 4 (by simp)
  have q_w0_10 : fld w_ 0 10 = c.code := fieldAt hw fw 5 (by simp)
  have q_w12_5 : fld w_ 12 5 = a.val := fieldAt hw fw 3 (by simp)
  have f_w12_5 : (fin 5 w_ 12 : Fin 32) = a := Fin.ext q_w12_5
  have q_w22_6 : fld w_ 22 6 = 57 := fieldAt hw fw 1 (by simp)
  have q_w28_4 : fld w_ 28 4 = y.code := fieldAt hw fw 0 (by simp)
  have ry : Ring.ofWord w_ = y := Ring.ofWord_of q_w28_4
  refine decode_ctl1 57 q_w22_6 rfl ?_
  delta decodeCtl
  rw [q_w22_6]
  simp [need, withCode, q_w17_5, q_w10_2, q_w0_10, q_w12_5, f_w12_5, q_w28_4, ry, CReg.ofCode_code]

theorem bk (y : Ring) (d : Fin 32) (k : Fin 16) (x : Fin 32) (m : Fin 32) (w : Waits) (o : BkOp) (t : Ty) (f : Bool) : Statement (.bk y d k x m w o t f) := by
  intro q rest h
  obtain rfl | rfl := ctl_or_st (Instr.streams_of_wf h)
  · have fw : Fits [(4, y.code), (6, 58), (3, 0), (5, d.val), (4, k.val), (5, x.val), (5, m.val)] := ⟨y.code_lt, by decide, by decide, d.isLt, k.isLt, x.isLt, m.isLt, trivial⟩
    have fv : Fits [(4, 0), (18, w.code), (4, o.code), (4, t.code), (1, f.toNat), (1, 0)] := ⟨by decide, w.code_lt, o.code_lt, t.code_lt, Bool.toNat_lt f, by decide, trivial⟩
    have e_ : encode .ctl (.bk y d k x m w o t f) = [pack [(4, y.code), (6, 58), (3, 0), (5, d.val), (4, k.val), (5, x.val), (5, m.val)], pack [(4, 0), (18, w.code), (4, o.code), (4, t.code), (1, f.toNat), (1, 0)]] := by
      show [w6 y (l2Major .ctl) (ce 0 d k.val x.val m), snd2 w (o.code * 2 ^ 6 + t.code * 2 ^ 2 + f.toNat * 2)] = _
      simp only [w6, ce, snd2, l2Major, pack, bits, List.cons.injEq, and_true]; exact ⟨by omega, by omega⟩
    refine roundtrip_two e_ fw rfl fv rfl (fun w_ v_ hw hv => ?_) rest
    have q_v6_4 : fld v_ 6 4 = o.code := fieldAt hv fv 2 (by simp)
    have q_v2_4 : fld v_ 2 4 = t.code := fieldAt hv fv 3 (by simp)
    have q_v0_1 : fld v_ 0 1 = 0 := fieldAt hv fv 5 (by simp)
    have q_v1_1 : fld v_ 1 1 = f.toNat := fieldAt hv fv 4 (by simp)
    have f_v1 : flag v_ 1 = f := flag_of q_v1_1
    have q_w14_5 : fld w_ 14 5 = d.val := fieldAt hw fw 3 (by simp)
    have f_w14_5 : (fin 5 w_ 14 : Fin 32) = d := Fin.ext q_w14_5
    have q_w10_4 : fld w_ 10 4 = k.val := fieldAt hw fw 4 (by simp)
    have f_w10_4 : (fin 4 w_ 10 : Fin 16) = k := Fin.ext q_w10_4
    have q_w5_5 : fld w_ 5 5 = x.val := fieldAt hw fw 5 (by simp)
    have f_w5_5 : (fin 5 w_ 5 : Fin 32) = x := Fin.ext q_w5_5
    have q_w0_5 : fld w_ 0 5 = m.val := fieldAt hw fw 6 (by simp)
    have f_w0_5 : (fin 5 w_ 0 : Fin 32) = m := Fin.ext q_w0_5
    have q_w14_1 : fld w_ 14 1 = fld d.val 0 1 := fld_within (i := 0) q_w14_5 (by decide)
    have q_w18_1 : fld w_ 18 1 = fld d.val 4 1 := fld_within (i := 4) q_w14_5 (by decide)
    have q_w9_1 : fld w_ 9 1 = fld x.val 4 1 := fld_within (i := 4) q_w5_5 (by decide)
    have q_w19_3 : fld w_ 19 3 = 0 := fieldAt hw fw 2 (by simp)
    have q_w22_6 : fld w_ 22 6 = 58 := fieldAt hw fw 1 (by simp)
    have q_w28_4 : fld w_ 28 4 = y.code := fieldAt hw fw 0 (by simp)
    have ry : Ring.ofWord w_ = y := Ring.ofWord_of q_w28_4
    have q_v28_4 : fld v_ 28 4 = 0 := fieldAt hv fv 0 (by simp)
    have q_v10_18 : fld v_ 10 18 = w.code := fieldAt hv fv 1 (by simp)
    have rw_ := Waits.ofWord_of q_v10_18
    have hk : (l2Regs .ctl d x && !w.names m && o.allows t && !(o == .rq && f) : Bool) = true := Instr.operands_of_wf h
    try simp only [l2Regs, evenReg, Bool.and_eq_true, Bool.or_eq_true, bne_iff_ne, ne_eq, decide_eq_true_eq, beq_iff_eq, Bool.not_eq_true', Bool.and_eq_false_iff, beq_eq_false_iff_ne, not_true_eq_false, false_or, reduceCtorEq, not_false_eq_true, true_or, true_and, and_true] at hk
    refine decode_ctl2 58 q_w22_6 rfl q_v28_4 ?_
    delta decodeCtl
    rw [q_w22_6]
    show decodeL2 .ctl _ _ = _
    delta decodeL2
    rw [q_w19_3]
    simp [need, withCode, second, q_v6_4, q_v2_4, q_v0_1, q_v1_1, f_v1, q_w14_5, f_w14_5, q_w10_4, f_w10_4, q_w5_5, f_w5_5, q_w0_5, f_w0_5, q_w14_1, q_w18_1, q_w9_1, q_w19_3, q_w28_4, ry, q_v28_4, q_v10_18, rw_, BkOp.ofCode_code, Ty.ofCode_code, hk]
    simp only [fld]; omega
  · have fw : Fits [(4, y.code), (6, 22), (3, 0), (5, d.val), (4, k.val), (5, x.val), (5, m.val)] := ⟨y.code_lt, by decide, by decide, d.isLt, k.isLt, x.isLt, m.isLt, trivial⟩
    have fv : Fits [(4, 0), (18, w.code), (4, o.code), (4, t.code), (1, f.toNat), (1, 0)] := ⟨by decide, w.code_lt, o.code_lt, t.code_lt, Bool.toNat_lt f, by decide, trivial⟩
    have e_ : encode .st (.bk y d k x m w o t f) = [pack [(4, y.code), (6, 22), (3, 0), (5, d.val), (4, k.val), (5, x.val), (5, m.val)], pack [(4, 0), (18, w.code), (4, o.code), (4, t.code), (1, f.toNat), (1, 0)]] := by
      show [w6 y (l2Major .st) (ce 0 d k.val x.val m), snd2 w (o.code * 2 ^ 6 + t.code * 2 ^ 2 + f.toNat * 2)] = _
      simp only [w6, ce, snd2, l2Major, pack, bits, List.cons.injEq, and_true]; exact ⟨by omega, by omega⟩
    refine roundtrip_two e_ fw rfl fv rfl (fun w_ v_ hw hv => ?_) rest
    have q_v6_4 : fld v_ 6 4 = o.code := fieldAt hv fv 2 (by simp)
    have q_v2_4 : fld v_ 2 4 = t.code := fieldAt hv fv 3 (by simp)
    have q_v0_1 : fld v_ 0 1 = 0 := fieldAt hv fv 5 (by simp)
    have q_v1_1 : fld v_ 1 1 = f.toNat := fieldAt hv fv 4 (by simp)
    have f_v1 : flag v_ 1 = f := flag_of q_v1_1
    have q_w14_5 : fld w_ 14 5 = d.val := fieldAt hw fw 3 (by simp)
    have f_w14_5 : (fin 5 w_ 14 : Fin 32) = d := Fin.ext q_w14_5
    have q_w10_4 : fld w_ 10 4 = k.val := fieldAt hw fw 4 (by simp)
    have f_w10_4 : (fin 4 w_ 10 : Fin 16) = k := Fin.ext q_w10_4
    have q_w5_5 : fld w_ 5 5 = x.val := fieldAt hw fw 5 (by simp)
    have f_w5_5 : (fin 5 w_ 5 : Fin 32) = x := Fin.ext q_w5_5
    have q_w0_5 : fld w_ 0 5 = m.val := fieldAt hw fw 6 (by simp)
    have f_w0_5 : (fin 5 w_ 0 : Fin 32) = m := Fin.ext q_w0_5
    have q_w14_1 : fld w_ 14 1 = fld d.val 0 1 := fld_within (i := 0) q_w14_5 (by decide)
    have q_w18_1 : fld w_ 18 1 = fld d.val 4 1 := fld_within (i := 4) q_w14_5 (by decide)
    have q_w9_1 : fld w_ 9 1 = fld x.val 4 1 := fld_within (i := 4) q_w5_5 (by decide)
    have q_w19_3 : fld w_ 19 3 = 0 := fieldAt hw fw 2 (by simp)
    have q_w22_6 : fld w_ 22 6 = 22 := fieldAt hw fw 1 (by simp)
    have q_w28_4 : fld w_ 28 4 = y.code := fieldAt hw fw 0 (by simp)
    have ry : Ring.ofWord w_ = y := Ring.ofWord_of q_w28_4
    have q_v28_4 : fld v_ 28 4 = 0 := fieldAt hv fv 0 (by simp)
    have q_v10_18 : fld v_ 10 18 = w.code := fieldAt hv fv 1 (by simp)
    have rw_ := Waits.ofWord_of q_v10_18
    have hk : (l2Regs .st d x && !w.names m && o.allows t && !(o == .rq && f) : Bool) = true := Instr.operands_of_wf h
    try simp only [l2Regs, evenReg, Bool.and_eq_true, Bool.or_eq_true, bne_iff_ne, ne_eq, decide_eq_true_eq, beq_iff_eq, Bool.not_eq_true', Bool.and_eq_false_iff, beq_eq_false_iff_ne, not_true_eq_false, false_or, reduceCtorEq, not_false_eq_true, true_or, true_and, and_true] at hk
    refine decode_st2 22 q_w22_6 rfl q_v28_4 ?_
    delta decodeLdSt
    rw [q_w22_6]
    show decodeL2 .st _ _ = _
    delta decodeL2
    rw [q_w19_3]
    simp [need, withCode, second, q_v6_4, q_v2_4, q_v0_1, q_v1_1, f_v1, q_w14_5, f_w14_5, q_w10_4, f_w10_4, q_w5_5, f_w5_5, q_w0_5, f_w0_5, q_w14_1, q_w18_1, q_w9_1, q_w19_3, q_w28_4, ry, q_v28_4, q_v10_18, rw_, BkOp.ofCode_code, Ty.ofCode_code, hk]
    simp only [fld]; omega

theorem bkred (y : Ring) (d : Fin 32) (k : Fin 16) (x : Fin 32) (m : Fin 32) (w : Waits) (t : Ty) (u : Ty) : Statement (.bkred y d k x m w t u) := by
  intro q rest h
  obtain rfl | rfl := ctl_or_st (Instr.streams_of_wf h)
  · have fw : Fits [(4, y.code), (6, 58), (3, 1), (5, d.val), (4, k.val), (5, x.val), (5, m.val)] := ⟨y.code_lt, by decide, by decide, d.isLt, k.isLt, x.isLt, m.isLt, trivial⟩
    have fv : Fits [(4, 0), (18, w.code), (4, t.code), (4, u.code), (2, 0)] := ⟨by decide, w.code_lt, t.code_lt, u.code_lt, by decide, trivial⟩
    have e_ : encode .ctl (.bkred y d k x m w t u) = [pack [(4, y.code), (6, 58), (3, 1), (5, d.val), (4, k.val), (5, x.val), (5, m.val)], pack [(4, 0), (18, w.code), (4, t.code), (4, u.code), (2, 0)]] := by
      show [w6 y (l2Major .ctl) (ce 1 d k.val x.val m), snd2 w (t.code * 2 ^ 6 + u.code * 2 ^ 2)] = _
      simp only [w6, ce, snd2, l2Major, pack, bits, List.cons.injEq, and_true]; exact ⟨by omega, by omega⟩
    refine roundtrip_two e_ fw rfl fv rfl (fun w_ v_ hw hv => ?_) rest
    have q_v6_4 : fld v_ 6 4 = t.code := fieldAt hv fv 2 (by simp)
    have q_v2_4 : fld v_ 2 4 = u.code := fieldAt hv fv 3 (by simp)
    have q_v0_2 : fld v_ 0 2 = 0 := fieldAt hv fv 4 (by simp)
    have q_w14_5 : fld w_ 14 5 = d.val := fieldAt hw fw 3 (by simp)
    have f_w14_5 : (fin 5 w_ 14 : Fin 32) = d := Fin.ext q_w14_5
    have q_w10_4 : fld w_ 10 4 = k.val := fieldAt hw fw 4 (by simp)
    have f_w10_4 : (fin 4 w_ 10 : Fin 16) = k := Fin.ext q_w10_4
    have q_w5_5 : fld w_ 5 5 = x.val := fieldAt hw fw 5 (by simp)
    have f_w5_5 : (fin 5 w_ 5 : Fin 32) = x := Fin.ext q_w5_5
    have q_w0_5 : fld w_ 0 5 = m.val := fieldAt hw fw 6 (by simp)
    have f_w0_5 : (fin 5 w_ 0 : Fin 32) = m := Fin.ext q_w0_5
    have q_w14_1 : fld w_ 14 1 = fld d.val 0 1 := fld_within (i := 0) q_w14_5 (by decide)
    have q_w18_1 : fld w_ 18 1 = fld d.val 4 1 := fld_within (i := 4) q_w14_5 (by decide)
    have q_w9_1 : fld w_ 9 1 = fld x.val 4 1 := fld_within (i := 4) q_w5_5 (by decide)
    have q_w19_3 : fld w_ 19 3 = 1 := fieldAt hw fw 2 (by simp)
    have q_w22_6 : fld w_ 22 6 = 58 := fieldAt hw fw 1 (by simp)
    have q_w28_4 : fld w_ 28 4 = y.code := fieldAt hw fw 0 (by simp)
    have ry : Ring.ofWord w_ = y := Ring.ofWord_of q_w28_4
    have q_v28_4 : fld v_ 28 4 = 0 := fieldAt hv fv 0 (by simp)
    have q_v10_18 : fld v_ 10 18 = w.code := fieldAt hv fv 1 (by simp)
    have rw_ := Waits.ofWord_of q_v10_18
    have hk : (l2Regs .ctl d x && !w.names m && redPair t u : Bool) = true := Instr.operands_of_wf h
    try simp only [l2Regs, evenReg, Bool.and_eq_true, Bool.or_eq_true, bne_iff_ne, ne_eq, decide_eq_true_eq, beq_iff_eq, Bool.not_eq_true', Bool.and_eq_false_iff, beq_eq_false_iff_ne, not_true_eq_false, false_or, reduceCtorEq, not_false_eq_true, true_or, true_and, and_true] at hk
    refine decode_ctl2 58 q_w22_6 rfl q_v28_4 ?_
    delta decodeCtl
    rw [q_w22_6]
    show decodeL2 .ctl _ _ = _
    delta decodeL2
    rw [q_w19_3]
    simp [need, withCode, second, q_v6_4, q_v2_4, q_v0_2, q_w14_5, f_w14_5, q_w10_4, f_w10_4, q_w5_5, f_w5_5, q_w0_5, f_w0_5, q_w14_1, q_w18_1, q_w9_1, q_w19_3, q_w28_4, ry, q_v28_4, q_v10_18, rw_, Ty.ofCode_code, hk]
    simp only [fld]; omega
  · have fw : Fits [(4, y.code), (6, 22), (3, 1), (5, d.val), (4, k.val), (5, x.val), (5, m.val)] := ⟨y.code_lt, by decide, by decide, d.isLt, k.isLt, x.isLt, m.isLt, trivial⟩
    have fv : Fits [(4, 0), (18, w.code), (4, t.code), (4, u.code), (2, 0)] := ⟨by decide, w.code_lt, t.code_lt, u.code_lt, by decide, trivial⟩
    have e_ : encode .st (.bkred y d k x m w t u) = [pack [(4, y.code), (6, 22), (3, 1), (5, d.val), (4, k.val), (5, x.val), (5, m.val)], pack [(4, 0), (18, w.code), (4, t.code), (4, u.code), (2, 0)]] := by
      show [w6 y (l2Major .st) (ce 1 d k.val x.val m), snd2 w (t.code * 2 ^ 6 + u.code * 2 ^ 2)] = _
      simp only [w6, ce, snd2, l2Major, pack, bits, List.cons.injEq, and_true]; exact ⟨by omega, by omega⟩
    refine roundtrip_two e_ fw rfl fv rfl (fun w_ v_ hw hv => ?_) rest
    have q_v6_4 : fld v_ 6 4 = t.code := fieldAt hv fv 2 (by simp)
    have q_v2_4 : fld v_ 2 4 = u.code := fieldAt hv fv 3 (by simp)
    have q_v0_2 : fld v_ 0 2 = 0 := fieldAt hv fv 4 (by simp)
    have q_w14_5 : fld w_ 14 5 = d.val := fieldAt hw fw 3 (by simp)
    have f_w14_5 : (fin 5 w_ 14 : Fin 32) = d := Fin.ext q_w14_5
    have q_w10_4 : fld w_ 10 4 = k.val := fieldAt hw fw 4 (by simp)
    have f_w10_4 : (fin 4 w_ 10 : Fin 16) = k := Fin.ext q_w10_4
    have q_w5_5 : fld w_ 5 5 = x.val := fieldAt hw fw 5 (by simp)
    have f_w5_5 : (fin 5 w_ 5 : Fin 32) = x := Fin.ext q_w5_5
    have q_w0_5 : fld w_ 0 5 = m.val := fieldAt hw fw 6 (by simp)
    have f_w0_5 : (fin 5 w_ 0 : Fin 32) = m := Fin.ext q_w0_5
    have q_w14_1 : fld w_ 14 1 = fld d.val 0 1 := fld_within (i := 0) q_w14_5 (by decide)
    have q_w18_1 : fld w_ 18 1 = fld d.val 4 1 := fld_within (i := 4) q_w14_5 (by decide)
    have q_w9_1 : fld w_ 9 1 = fld x.val 4 1 := fld_within (i := 4) q_w5_5 (by decide)
    have q_w19_3 : fld w_ 19 3 = 1 := fieldAt hw fw 2 (by simp)
    have q_w22_6 : fld w_ 22 6 = 22 := fieldAt hw fw 1 (by simp)
    have q_w28_4 : fld w_ 28 4 = y.code := fieldAt hw fw 0 (by simp)
    have ry : Ring.ofWord w_ = y := Ring.ofWord_of q_w28_4
    have q_v28_4 : fld v_ 28 4 = 0 := fieldAt hv fv 0 (by simp)
    have q_v10_18 : fld v_ 10 18 = w.code := fieldAt hv fv 1 (by simp)
    have rw_ := Waits.ofWord_of q_v10_18
    have hk : (l2Regs .st d x && !w.names m && redPair t u : Bool) = true := Instr.operands_of_wf h
    try simp only [l2Regs, evenReg, Bool.and_eq_true, Bool.or_eq_true, bne_iff_ne, ne_eq, decide_eq_true_eq, beq_iff_eq, Bool.not_eq_true', Bool.and_eq_false_iff, beq_eq_false_iff_ne, not_true_eq_false, false_or, reduceCtorEq, not_false_eq_true, true_or, true_and, and_true] at hk
    refine decode_st2 22 q_w22_6 rfl q_v28_4 ?_
    delta decodeLdSt
    rw [q_w22_6]
    show decodeL2 .st _ _ = _
    delta decodeL2
    rw [q_w19_3]
    simp [need, withCode, second, q_v6_4, q_v2_4, q_v0_2, q_w14_5, f_w14_5, q_w10_4, f_w10_4, q_w5_5, f_w5_5, q_w0_5, f_w0_5, q_w14_1, q_w18_1, q_w9_1, q_w19_3, q_w28_4, ry, q_v28_4, q_v10_18, rw_, Ty.ofCode_code, hk]
    simp only [fld]; omega

theorem wqPush (y : Ring) (d : Fin 32) (m : Fin 32) (w : Waits) (p : Fin 8) (q : Fin 64) : Statement (.wqPush y d m w p q) := by
  intro q rest h
  obtain rfl | rfl := ctl_or_st (Instr.streams_of_wf h)
  · have fw : Fits [(4, y.code), (6, 58), (3, 2), (5, d.val), (4, 0), (1, 0), (4, 0), (5, m.val)] := ⟨y.code_lt, by decide, by decide, d.isLt, by decide, by decide, by decide, m.isLt, trivial⟩
    have fv : Fits [(4, 0), (18, w.code), (1, 0), (3, p.val), (6, q.val)] := ⟨by decide, w.code_lt, by decide, p.isLt, q.isLt, trivial⟩
    have e_ : encode .ctl (.wqPush y d m w p q) = [pack [(4, y.code), (6, 58), (3, 2), (5, d.val), (4, 0), (1, 0), (4, 0), (5, m.val)], pack [(4, 0), (18, w.code), (1, 0), (3, p.val), (6, q.val)]] := by
      show [w6 y (l2Major .ctl) (ce 2 d 0 0 m), snd2 w (p.val * 2 ^ 6 + q.val)] = _
      simp only [w6, ce, snd2, l2Major, pack, bits, List.cons.injEq, and_true]; exact ⟨by omega, by omega⟩
    refine roundtrip_two e_ fw rfl fv rfl (fun w_ v_ hw hv => ?_) rest
    have q_w10_4 : fld w_ 10 4 = 0 := fieldAt hw fw 4 (by simp)
    have q_w9_1 : fld w_ 9 1 = 0 := fieldAt hw fw 5 (by simp)
    have q_w5_4 : fld w_ 5 4 = 0 := fieldAt hw fw 6 (by simp)
    have q_w5_9 : fld w_ 5 9 = 0 := by simp only [fld] at q_w10_4 q_w9_1 q_w5_4 ⊢; omega
    have q_v9_1 : fld v_ 9 1 = 0 := fieldAt hv fv 2 (by simp)
    have q_v6_3 : fld v_ 6 3 = p.val := fieldAt hv fv 3 (by simp)
    have f_v6_3 : (fin 3 v_ 6 : Fin 8) = p := Fin.ext q_v6_3
    have q_v0_6 : fld v_ 0 6 = q.val := fieldAt hv fv 4 (by simp)
    have f_v0_6 : (fin 6 v_ 0 : Fin 64) = q := Fin.ext q_v0_6
    have q_w14_5 : fld w_ 14 5 = d.val := fieldAt hw fw 3 (by simp)
    have f_w14_5 : (fin 5 w_ 14 : Fin 32) = d := Fin.ext q_w14_5
    have q_w0_5 : fld w_ 0 5 = m.val := fieldAt hw fw 7 (by simp)
    have f_w0_5 : (fin 5 w_ 0 : Fin 32) = m := Fin.ext q_w0_5
    have q_w14_1 : fld w_ 14 1 = fld d.val 0 1 := fld_within (i := 0) q_w14_5 (by decide)
    have q_w18_1 : fld w_ 18 1 = fld d.val 4 1 := fld_within (i := 4) q_w14_5 (by decide)
    have q_w19_3 : fld w_ 19 3 = 2 := fieldAt hw fw 2 (by simp)
    have q_w22_6 : fld w_ 22 6 = 58 := fieldAt hw fw 1 (by simp)
    have q_w28_4 : fld w_ 28 4 = y.code := fieldAt hw fw 0 (by simp)
    have ry : Ring.ofWord w_ = y := Ring.ofWord_of q_w28_4
    have q_v28_4 : fld v_ 28 4 = 0 := fieldAt hv fv 0 (by simp)
    have q_v10_18 : fld v_ 10 18 = w.code := fieldAt hv fv 1 (by simp)
    have rw_ := Waits.ofWord_of q_v10_18
    have hk : (l2Regs .ctl d 0 && !w.names m : Bool) = true := Instr.operands_of_wf h
    try simp only [l2Regs, evenReg, Bool.and_eq_true, Bool.or_eq_true, bne_iff_ne, ne_eq, decide_eq_true_eq, beq_iff_eq, Bool.not_eq_true', Bool.and_eq_false_iff, beq_eq_false_iff_ne, not_true_eq_false, false_or, reduceCtorEq, not_false_eq_true, true_or, true_and, and_true] at hk
    refine decode_ctl2 58 q_w22_6 rfl q_v28_4 ?_
    delta decodeCtl
    rw [q_w22_6]
    show decodeL2 .ctl _ _ = _
    delta decodeL2
    rw [q_w19_3]
    simp [need, withCode, second, q_w10_4, q_w9_1, q_w5_4, q_w5_9, q_v9_1, q_v6_3, f_v6_3, q_v0_6, f_v0_6, q_w14_5, f_w14_5, q_w0_5, f_w0_5, q_w14_1, q_w18_1, q_w19_3, q_w28_4, ry, q_v28_4, q_v10_18, rw_, hk]
    simp only [fld]; omega
  · have fw : Fits [(4, y.code), (6, 22), (3, 2), (5, d.val), (4, 0), (1, 0), (4, 0), (5, m.val)] := ⟨y.code_lt, by decide, by decide, d.isLt, by decide, by decide, by decide, m.isLt, trivial⟩
    have fv : Fits [(4, 0), (18, w.code), (1, 0), (3, p.val), (6, q.val)] := ⟨by decide, w.code_lt, by decide, p.isLt, q.isLt, trivial⟩
    have e_ : encode .st (.wqPush y d m w p q) = [pack [(4, y.code), (6, 22), (3, 2), (5, d.val), (4, 0), (1, 0), (4, 0), (5, m.val)], pack [(4, 0), (18, w.code), (1, 0), (3, p.val), (6, q.val)]] := by
      show [w6 y (l2Major .st) (ce 2 d 0 0 m), snd2 w (p.val * 2 ^ 6 + q.val)] = _
      simp only [w6, ce, snd2, l2Major, pack, bits, List.cons.injEq, and_true]; exact ⟨by omega, by omega⟩
    refine roundtrip_two e_ fw rfl fv rfl (fun w_ v_ hw hv => ?_) rest
    have q_w10_4 : fld w_ 10 4 = 0 := fieldAt hw fw 4 (by simp)
    have q_w9_1 : fld w_ 9 1 = 0 := fieldAt hw fw 5 (by simp)
    have q_w5_4 : fld w_ 5 4 = 0 := fieldAt hw fw 6 (by simp)
    have q_w5_9 : fld w_ 5 9 = 0 := by simp only [fld] at q_w10_4 q_w9_1 q_w5_4 ⊢; omega
    have q_v9_1 : fld v_ 9 1 = 0 := fieldAt hv fv 2 (by simp)
    have q_v6_3 : fld v_ 6 3 = p.val := fieldAt hv fv 3 (by simp)
    have f_v6_3 : (fin 3 v_ 6 : Fin 8) = p := Fin.ext q_v6_3
    have q_v0_6 : fld v_ 0 6 = q.val := fieldAt hv fv 4 (by simp)
    have f_v0_6 : (fin 6 v_ 0 : Fin 64) = q := Fin.ext q_v0_6
    have q_w14_5 : fld w_ 14 5 = d.val := fieldAt hw fw 3 (by simp)
    have f_w14_5 : (fin 5 w_ 14 : Fin 32) = d := Fin.ext q_w14_5
    have q_w0_5 : fld w_ 0 5 = m.val := fieldAt hw fw 7 (by simp)
    have f_w0_5 : (fin 5 w_ 0 : Fin 32) = m := Fin.ext q_w0_5
    have q_w14_1 : fld w_ 14 1 = fld d.val 0 1 := fld_within (i := 0) q_w14_5 (by decide)
    have q_w18_1 : fld w_ 18 1 = fld d.val 4 1 := fld_within (i := 4) q_w14_5 (by decide)
    have q_w19_3 : fld w_ 19 3 = 2 := fieldAt hw fw 2 (by simp)
    have q_w22_6 : fld w_ 22 6 = 22 := fieldAt hw fw 1 (by simp)
    have q_w28_4 : fld w_ 28 4 = y.code := fieldAt hw fw 0 (by simp)
    have ry : Ring.ofWord w_ = y := Ring.ofWord_of q_w28_4
    have q_v28_4 : fld v_ 28 4 = 0 := fieldAt hv fv 0 (by simp)
    have q_v10_18 : fld v_ 10 18 = w.code := fieldAt hv fv 1 (by simp)
    have rw_ := Waits.ofWord_of q_v10_18
    have hk : (l2Regs .st d 0 && !w.names m : Bool) = true := Instr.operands_of_wf h
    try simp only [l2Regs, evenReg, Bool.and_eq_true, Bool.or_eq_true, bne_iff_ne, ne_eq, decide_eq_true_eq, beq_iff_eq, Bool.not_eq_true', Bool.and_eq_false_iff, beq_eq_false_iff_ne, not_true_eq_false, false_or, reduceCtorEq, not_false_eq_true, true_or, true_and, and_true] at hk
    refine decode_st2 22 q_w22_6 rfl q_v28_4 ?_
    delta decodeLdSt
    rw [q_w22_6]
    show decodeL2 .st _ _ = _
    delta decodeL2
    rw [q_w19_3]
    simp [need, withCode, second, q_w10_4, q_w9_1, q_w5_4, q_w5_9, q_v9_1, q_v6_3, f_v6_3, q_v0_6, f_v0_6, q_w14_5, f_w14_5, q_w0_5, f_w0_5, q_w14_1, q_w18_1, q_w19_3, q_w28_4, ry, q_v28_4, q_v10_18, rw_, hk]
    simp only [fld]; omega

theorem wqPop (y : Ring) (d : Fin 32) (m : Fin 32) (w : Waits) (p : Fin 8) (q : Fin 64) : Statement (.wqPop y d m w p q) := by
  intro q rest h
  obtain rfl := only_ctl (Instr.streams_of_wf h)
  have fw : Fits [(4, y.code), (6, 58), (3, 3), (5, d.val), (4, 0), (1, 0), (4, 0), (5, m.val)] := ⟨y.code_lt, by decide, by decide, d.isLt, by decide, by decide, by decide, m.isLt, trivial⟩
  have fv : Fits [(4, 0), (18, w.code), (1, 0), (3, p.val), (6, q.val)] := ⟨by decide, w.code_lt, by decide, p.isLt, q.isLt, trivial⟩
  have e_ : encode .ctl (.wqPop y d m w p q) = [pack [(4, y.code), (6, 58), (3, 3), (5, d.val), (4, 0), (1, 0), (4, 0), (5, m.val)], pack [(4, 0), (18, w.code), (1, 0), (3, p.val), (6, q.val)]] := by
    show [w6 y (l2Major .ctl) (ce 3 d 0 0 m), snd2 w (p.val * 2 ^ 6 + q.val)] = _
    simp only [w6, ce, snd2, l2Major, pack, bits, List.cons.injEq, and_true]; exact ⟨by omega, by omega⟩
  refine roundtrip_two e_ fw rfl fv rfl (fun w_ v_ hw hv => ?_) rest
  have q_w10_4 : fld w_ 10 4 = 0 := fieldAt hw fw 4 (by simp)
  have q_w9_1 : fld w_ 9 1 = 0 := fieldAt hw fw 5 (by simp)
  have q_w5_4 : fld w_ 5 4 = 0 := fieldAt hw fw 6 (by simp)
  have q_w5_9 : fld w_ 5 9 = 0 := by simp only [fld] at q_w10_4 q_w9_1 q_w5_4 ⊢; omega
  have q_v9_1 : fld v_ 9 1 = 0 := fieldAt hv fv 2 (by simp)
  have q_v6_3 : fld v_ 6 3 = p.val := fieldAt hv fv 3 (by simp)
  have f_v6_3 : (fin 3 v_ 6 : Fin 8) = p := Fin.ext q_v6_3
  have q_v0_6 : fld v_ 0 6 = q.val := fieldAt hv fv 4 (by simp)
  have f_v0_6 : (fin 6 v_ 0 : Fin 64) = q := Fin.ext q_v0_6
  have q_w14_5 : fld w_ 14 5 = d.val := fieldAt hw fw 3 (by simp)
  have f_w14_5 : (fin 5 w_ 14 : Fin 32) = d := Fin.ext q_w14_5
  have q_w0_5 : fld w_ 0 5 = m.val := fieldAt hw fw 7 (by simp)
  have f_w0_5 : (fin 5 w_ 0 : Fin 32) = m := Fin.ext q_w0_5
  have q_w14_1 : fld w_ 14 1 = fld d.val 0 1 := fld_within (i := 0) q_w14_5 (by decide)
  have q_w18_1 : fld w_ 18 1 = fld d.val 4 1 := fld_within (i := 4) q_w14_5 (by decide)
  have q_w19_3 : fld w_ 19 3 = 3 := fieldAt hw fw 2 (by simp)
  have q_w22_6 : fld w_ 22 6 = 58 := fieldAt hw fw 1 (by simp)
  have q_w28_4 : fld w_ 28 4 = y.code := fieldAt hw fw 0 (by simp)
  have ry : Ring.ofWord w_ = y := Ring.ofWord_of q_w28_4
  have q_v28_4 : fld v_ 28 4 = 0 := fieldAt hv fv 0 (by simp)
  have q_v10_18 : fld v_ 10 18 = w.code := fieldAt hv fv 1 (by simp)
  have rw_ := Waits.ofWord_of q_v10_18
  have hk : (l2Regs .ctl d 0 && !w.names m : Bool) = true := Instr.operands_of_wf h
  try simp only [l2Regs, evenReg, Bool.and_eq_true, Bool.or_eq_true, bne_iff_ne, ne_eq, decide_eq_true_eq, beq_iff_eq, Bool.not_eq_true', Bool.and_eq_false_iff, beq_eq_false_iff_ne, not_true_eq_false, false_or, reduceCtorEq, not_false_eq_true, true_or, true_and, and_true] at hk
  refine decode_ctl2 58 q_w22_6 rfl q_v28_4 ?_
  delta decodeCtl
  rw [q_w22_6]
  show decodeL2 .ctl _ _ = _
  delta decodeL2
  rw [q_w19_3]
  simp [need, withCode, second, q_w10_4, q_w9_1, q_w5_4, q_w5_9, q_v9_1, q_v6_3, f_v6_3, q_v0_6, f_v0_6, q_w14_5, f_w14_5, q_w0_5, f_w0_5, q_w14_1, q_w18_1, q_w19_3, q_w28_4, ry, q_v28_4, q_v10_18, rw_, hk]
  simp only [fld]; omega

theorem wqPeek (y : Ring) (d : Fin 32) (m : Fin 32) (w : Waits) (p : Fin 8) (q : Fin 64) : Statement (.wqPeek y d m w p q) := by
  intro q rest h
  obtain rfl := only_ctl (Instr.streams_of_wf h)
  have fw : Fits [(4, y.code), (6, 58), (3, 4), (5, d.val), (4, 0), (1, 0), (4, 0), (5, m.val)] := ⟨y.code_lt, by decide, by decide, d.isLt, by decide, by decide, by decide, m.isLt, trivial⟩
  have fv : Fits [(4, 0), (18, w.code), (1, 0), (3, p.val), (6, q.val)] := ⟨by decide, w.code_lt, by decide, p.isLt, q.isLt, trivial⟩
  have e_ : encode .ctl (.wqPeek y d m w p q) = [pack [(4, y.code), (6, 58), (3, 4), (5, d.val), (4, 0), (1, 0), (4, 0), (5, m.val)], pack [(4, 0), (18, w.code), (1, 0), (3, p.val), (6, q.val)]] := by
    show [w6 y (l2Major .ctl) (ce 4 d 0 0 m), snd2 w (p.val * 2 ^ 6 + q.val)] = _
    simp only [w6, ce, snd2, l2Major, pack, bits, List.cons.injEq, and_true]; exact ⟨by omega, by omega⟩
  refine roundtrip_two e_ fw rfl fv rfl (fun w_ v_ hw hv => ?_) rest
  have q_w10_4 : fld w_ 10 4 = 0 := fieldAt hw fw 4 (by simp)
  have q_w9_1 : fld w_ 9 1 = 0 := fieldAt hw fw 5 (by simp)
  have q_w5_4 : fld w_ 5 4 = 0 := fieldAt hw fw 6 (by simp)
  have q_w5_9 : fld w_ 5 9 = 0 := by simp only [fld] at q_w10_4 q_w9_1 q_w5_4 ⊢; omega
  have q_v9_1 : fld v_ 9 1 = 0 := fieldAt hv fv 2 (by simp)
  have q_v6_3 : fld v_ 6 3 = p.val := fieldAt hv fv 3 (by simp)
  have f_v6_3 : (fin 3 v_ 6 : Fin 8) = p := Fin.ext q_v6_3
  have q_v0_6 : fld v_ 0 6 = q.val := fieldAt hv fv 4 (by simp)
  have f_v0_6 : (fin 6 v_ 0 : Fin 64) = q := Fin.ext q_v0_6
  have q_w14_5 : fld w_ 14 5 = d.val := fieldAt hw fw 3 (by simp)
  have f_w14_5 : (fin 5 w_ 14 : Fin 32) = d := Fin.ext q_w14_5
  have q_w0_5 : fld w_ 0 5 = m.val := fieldAt hw fw 7 (by simp)
  have f_w0_5 : (fin 5 w_ 0 : Fin 32) = m := Fin.ext q_w0_5
  have q_w14_1 : fld w_ 14 1 = fld d.val 0 1 := fld_within (i := 0) q_w14_5 (by decide)
  have q_w18_1 : fld w_ 18 1 = fld d.val 4 1 := fld_within (i := 4) q_w14_5 (by decide)
  have q_w19_3 : fld w_ 19 3 = 4 := fieldAt hw fw 2 (by simp)
  have q_w22_6 : fld w_ 22 6 = 58 := fieldAt hw fw 1 (by simp)
  have q_w28_4 : fld w_ 28 4 = y.code := fieldAt hw fw 0 (by simp)
  have ry : Ring.ofWord w_ = y := Ring.ofWord_of q_w28_4
  have q_v28_4 : fld v_ 28 4 = 0 := fieldAt hv fv 0 (by simp)
  have q_v10_18 : fld v_ 10 18 = w.code := fieldAt hv fv 1 (by simp)
  have rw_ := Waits.ofWord_of q_v10_18
  have hk : (l2Regs .ctl d 0 && !w.names m : Bool) = true := Instr.operands_of_wf h
  try simp only [l2Regs, evenReg, Bool.and_eq_true, Bool.or_eq_true, bne_iff_ne, ne_eq, decide_eq_true_eq, beq_iff_eq, Bool.not_eq_true', Bool.and_eq_false_iff, beq_eq_false_iff_ne, not_true_eq_false, false_or, reduceCtorEq, not_false_eq_true, true_or, true_and, and_true] at hk
  refine decode_ctl2 58 q_w22_6 rfl q_v28_4 ?_
  delta decodeCtl
  rw [q_w22_6]
  show decodeL2 .ctl _ _ = _
  delta decodeL2
  rw [q_w19_3]
  simp [need, withCode, second, q_w10_4, q_w9_1, q_w5_4, q_w5_9, q_v9_1, q_v6_3, f_v6_3, q_v0_6, f_v0_6, q_w14_5, f_w14_5, q_w0_5, f_w0_5, q_w14_1, q_w18_1, q_w19_3, q_w28_4, ry, q_v28_4, q_v10_18, rw_, hk]
  simp only [fld]; omega

theorem xall (y : Ring) (d : Fin 32) (k : Fin 16) (x : Fin 32) (m : Fin 32) (w : Waits) (t : Fin 16) (g : Fin 64) : Statement (.xall y d k x m w t g) := by
  intro q rest h
  obtain rfl := only_ctl (Instr.streams_of_wf h)
  have fw : Fits [(4, y.code), (6, 59), (3, 0), (5, d.val), (4, k.val), (5, x.val), (5, m.val)] := ⟨y.code_lt, by decide, by decide, d.isLt, k.isLt, x.isLt, m.isLt, trivial⟩
  have fv : Fits [(4, 0), (18, w.code), (4, t.val), (6, g.val)] := ⟨by decide, w.code_lt, t.isLt, g.isLt, trivial⟩
  have e_ : encode .ctl (.xall y d k x m w t g) = [pack [(4, y.code), (6, 59), (3, 0), (5, d.val), (4, k.val), (5, x.val), (5, m.val)], pack [(4, 0), (18, w.code), (4, t.val), (6, g.val)]] := by
    show [w6 y 0x3B (ce 0 d k.val x.val m), snd2 w (t.val * 2 ^ 6 + g.val)] = _
    simp only [w6, ce, snd2, pack, bits, List.cons.injEq, and_true]; exact ⟨by omega, by omega⟩
  refine roundtrip_two e_ fw rfl fv rfl (fun w_ v_ hw hv => ?_) rest
  have q_v6_4 : fld v_ 6 4 = t.val := fieldAt hv fv 2 (by simp)
  have f_v6_4 : (fin 4 v_ 6 : Fin 16) = t := Fin.ext q_v6_4
  have q_v0_6 : fld v_ 0 6 = g.val := fieldAt hv fv 3 (by simp)
  have f_v0_6 : (fin 6 v_ 0 : Fin 64) = g := Fin.ext q_v0_6
  have q_w14_5 : fld w_ 14 5 = d.val := fieldAt hw fw 3 (by simp)
  have f_w14_5 : (fin 5 w_ 14 : Fin 32) = d := Fin.ext q_w14_5
  have q_w10_4 : fld w_ 10 4 = k.val := fieldAt hw fw 4 (by simp)
  have f_w10_4 : (fin 4 w_ 10 : Fin 16) = k := Fin.ext q_w10_4
  have q_w5_5 : fld w_ 5 5 = x.val := fieldAt hw fw 5 (by simp)
  have f_w5_5 : (fin 5 w_ 5 : Fin 32) = x := Fin.ext q_w5_5
  have q_w0_5 : fld w_ 0 5 = m.val := fieldAt hw fw 6 (by simp)
  have f_w0_5 : (fin 5 w_ 0 : Fin 32) = m := Fin.ext q_w0_5
  have q_w14_1 : fld w_ 14 1 = fld d.val 0 1 := fld_within (i := 0) q_w14_5 (by decide)
  have q_w19_3 : fld w_ 19 3 = 0 := fieldAt hw fw 2 (by simp)
  have q_w22_6 : fld w_ 22 6 = 59 := fieldAt hw fw 1 (by simp)
  have q_w28_4 : fld w_ 28 4 = y.code := fieldAt hw fw 0 (by simp)
  have ry : Ring.ofWord w_ = y := Ring.ofWord_of q_w28_4
  have q_v28_4 : fld v_ 28 4 = 0 := fieldAt hv fv 0 (by simp)
  have q_v10_18 : fld v_ 10 18 = w.code := fieldAt hv fv 1 (by simp)
  have rw_ := Waits.ofWord_of q_v10_18
  have hk : (evenReg d.val && !w.names m : Bool) = true := Instr.operands_of_wf h
  try simp only [evenReg, Bool.and_eq_true, Bool.or_eq_true, bne_iff_ne, ne_eq, decide_eq_true_eq, beq_iff_eq, Bool.not_eq_true', Bool.and_eq_false_iff, beq_eq_false_iff_ne, not_true_eq_false, false_or, reduceCtorEq, not_false_eq_true, true_or, true_and, and_true] at hk
  refine decode_ctl2 59 q_w22_6 rfl q_v28_4 ?_
  delta decodeCtl
  rw [q_w22_6]
  show decodeFab _ _ = _
  delta decodeFab
  rw [q_w19_3]
  simp [need, withCode, second, q_v6_4, f_v6_4, q_v0_6, f_v0_6, q_w14_5, f_w14_5, q_w10_4, f_w10_4, q_w5_5, f_w5_5, q_w0_5, f_w0_5, q_w14_1, q_w19_3, q_w28_4, ry, q_v28_4, q_v10_18, rw_, hk]
  simp only [fld]; omega

theorem fred (y : Ring) (d : Fin 32) (k : Fin 16) (x : Fin 32) (m : Fin 32) (w : Waits) (t : Ty) (u : Ty) : Statement (.fred y d k x m w t u) := by
  intro q rest h
  obtain rfl := only_ctl (Instr.streams_of_wf h)
  have fw : Fits [(4, y.code), (6, 59), (3, 1), (5, d.val), (4, k.val), (5, x.val), (5, m.val)] := ⟨y.code_lt, by decide, by decide, d.isLt, k.isLt, x.isLt, m.isLt, trivial⟩
  have fv : Fits [(4, 0), (18, w.code), (4, t.code), (4, u.code), (2, 0)] := ⟨by decide, w.code_lt, t.code_lt, u.code_lt, by decide, trivial⟩
  have e_ : encode .ctl (.fred y d k x m w t u) = [pack [(4, y.code), (6, 59), (3, 1), (5, d.val), (4, k.val), (5, x.val), (5, m.val)], pack [(4, 0), (18, w.code), (4, t.code), (4, u.code), (2, 0)]] := by
    show [w6 y 0x3B (ce 1 d k.val x.val m), snd2 w (t.code * 2 ^ 6 + u.code * 2 ^ 2)] = _
    simp only [w6, ce, snd2, pack, bits, List.cons.injEq, and_true]; exact ⟨by omega, by omega⟩
  refine roundtrip_two e_ fw rfl fv rfl (fun w_ v_ hw hv => ?_) rest
  have q_v6_4 : fld v_ 6 4 = t.code := fieldAt hv fv 2 (by simp)
  have q_v2_4 : fld v_ 2 4 = u.code := fieldAt hv fv 3 (by simp)
  have q_v0_2 : fld v_ 0 2 = 0 := fieldAt hv fv 4 (by simp)
  have q_w14_5 : fld w_ 14 5 = d.val := fieldAt hw fw 3 (by simp)
  have f_w14_5 : (fin 5 w_ 14 : Fin 32) = d := Fin.ext q_w14_5
  have q_w10_4 : fld w_ 10 4 = k.val := fieldAt hw fw 4 (by simp)
  have f_w10_4 : (fin 4 w_ 10 : Fin 16) = k := Fin.ext q_w10_4
  have q_w5_5 : fld w_ 5 5 = x.val := fieldAt hw fw 5 (by simp)
  have f_w5_5 : (fin 5 w_ 5 : Fin 32) = x := Fin.ext q_w5_5
  have q_w0_5 : fld w_ 0 5 = m.val := fieldAt hw fw 6 (by simp)
  have f_w0_5 : (fin 5 w_ 0 : Fin 32) = m := Fin.ext q_w0_5
  have q_w14_1 : fld w_ 14 1 = fld d.val 0 1 := fld_within (i := 0) q_w14_5 (by decide)
  have q_w19_3 : fld w_ 19 3 = 1 := fieldAt hw fw 2 (by simp)
  have q_w22_6 : fld w_ 22 6 = 59 := fieldAt hw fw 1 (by simp)
  have q_w28_4 : fld w_ 28 4 = y.code := fieldAt hw fw 0 (by simp)
  have ry : Ring.ofWord w_ = y := Ring.ofWord_of q_w28_4
  have q_v28_4 : fld v_ 28 4 = 0 := fieldAt hv fv 0 (by simp)
  have q_v10_18 : fld v_ 10 18 = w.code := fieldAt hv fv 1 (by simp)
  have rw_ := Waits.ofWord_of q_v10_18
  have hk : (evenReg d.val && !w.names m && redPair t u : Bool) = true := Instr.operands_of_wf h
  try simp only [evenReg, Bool.and_eq_true, Bool.or_eq_true, bne_iff_ne, ne_eq, decide_eq_true_eq, beq_iff_eq, Bool.not_eq_true', Bool.and_eq_false_iff, beq_eq_false_iff_ne, not_true_eq_false, false_or, reduceCtorEq, not_false_eq_true, true_or, true_and, and_true] at hk
  refine decode_ctl2 59 q_w22_6 rfl q_v28_4 ?_
  delta decodeCtl
  rw [q_w22_6]
  show decodeFab _ _ = _
  delta decodeFab
  rw [q_w19_3]
  simp [need, withCode, second, q_v6_4, q_v2_4, q_v0_2, q_w14_5, f_w14_5, q_w10_4, f_w10_4, q_w5_5, f_w5_5, q_w0_5, f_w0_5, q_w14_1, q_w19_3, q_w28_4, ry, q_v28_4, q_v10_18, rw_, Ty.ofCode_code, hk]
  simp only [fld]; omega

theorem fput (y : Ring) (d : Fin 32) (k : Fin 16) (x : Fin 32) (m : Fin 32) (w : Waits) : Statement (.fput y d k x m w) := by
  intro q rest h
  obtain rfl := only_ctl (Instr.streams_of_wf h)
  have fw : Fits [(4, y.code), (6, 59), (3, 2), (5, d.val), (4, k.val), (5, x.val), (5, m.val)] := ⟨y.code_lt, by decide, by decide, d.isLt, k.isLt, x.isLt, m.isLt, trivial⟩
  have fv : Fits [(4, 0), (18, w.code), (10, 0)] := ⟨by decide, w.code_lt, by decide, trivial⟩
  have e_ : encode .ctl (.fput y d k x m w) = [pack [(4, y.code), (6, 59), (3, 2), (5, d.val), (4, k.val), (5, x.val), (5, m.val)], pack [(4, 0), (18, w.code), (10, 0)]] := by
    show [w6 y 0x3B (ce 2 d k.val x.val m), snd2 w 0] = _
    simp only [w6, ce, snd2, pack, bits, List.cons.injEq, and_true]; exact ⟨by omega, by omega⟩
  refine roundtrip_two e_ fw rfl fv rfl (fun w_ v_ hw hv => ?_) rest
  have q_v0_10 : fld v_ 0 10 = 0 := fieldAt hv fv 2 (by simp)
  have q_w14_5 : fld w_ 14 5 = d.val := fieldAt hw fw 3 (by simp)
  have f_w14_5 : (fin 5 w_ 14 : Fin 32) = d := Fin.ext q_w14_5
  have q_w10_4 : fld w_ 10 4 = k.val := fieldAt hw fw 4 (by simp)
  have f_w10_4 : (fin 4 w_ 10 : Fin 16) = k := Fin.ext q_w10_4
  have q_w5_5 : fld w_ 5 5 = x.val := fieldAt hw fw 5 (by simp)
  have f_w5_5 : (fin 5 w_ 5 : Fin 32) = x := Fin.ext q_w5_5
  have q_w0_5 : fld w_ 0 5 = m.val := fieldAt hw fw 6 (by simp)
  have f_w0_5 : (fin 5 w_ 0 : Fin 32) = m := Fin.ext q_w0_5
  have q_w14_1 : fld w_ 14 1 = fld d.val 0 1 := fld_within (i := 0) q_w14_5 (by decide)
  have q_w19_3 : fld w_ 19 3 = 2 := fieldAt hw fw 2 (by simp)
  have q_w22_6 : fld w_ 22 6 = 59 := fieldAt hw fw 1 (by simp)
  have q_w28_4 : fld w_ 28 4 = y.code := fieldAt hw fw 0 (by simp)
  have ry : Ring.ofWord w_ = y := Ring.ofWord_of q_w28_4
  have q_v28_4 : fld v_ 28 4 = 0 := fieldAt hv fv 0 (by simp)
  have q_v10_18 : fld v_ 10 18 = w.code := fieldAt hv fv 1 (by simp)
  have rw_ := Waits.ofWord_of q_v10_18
  have hk : (evenReg d.val && !w.names m : Bool) = true := Instr.operands_of_wf h
  try simp only [evenReg, Bool.and_eq_true, Bool.or_eq_true, bne_iff_ne, ne_eq, decide_eq_true_eq, beq_iff_eq, Bool.not_eq_true', Bool.and_eq_false_iff, beq_eq_false_iff_ne, not_true_eq_false, false_or, reduceCtorEq, not_false_eq_true, true_or, true_and, and_true] at hk
  refine decode_ctl2 59 q_w22_6 rfl q_v28_4 ?_
  delta decodeCtl
  rw [q_w22_6]
  show decodeFab _ _ = _
  delta decodeFab
  rw [q_w19_3]
  simp [need, withCode, second, q_v0_10, q_w14_5, f_w14_5, q_w10_4, f_w10_4, q_w5_5, f_w5_5, q_w0_5, f_w0_5, q_w14_1, q_w19_3, q_w28_4, ry, q_v28_4, q_v10_18, rw_, hk]
  simp only [fld]; omega

theorem fget (y : Ring) (d : Fin 32) (k : Fin 16) (x : Fin 32) (m : Fin 32) (w : Waits) : Statement (.fget y d k x m w) := by
  intro q rest h
  obtain rfl := only_ctl (Instr.streams_of_wf h)
  have fw : Fits [(4, y.code), (6, 59), (3, 3), (5, d.val), (4, k.val), (5, x.val), (5, m.val)] := ⟨y.code_lt, by decide, by decide, d.isLt, k.isLt, x.isLt, m.isLt, trivial⟩
  have fv : Fits [(4, 0), (18, w.code), (10, 0)] := ⟨by decide, w.code_lt, by decide, trivial⟩
  have e_ : encode .ctl (.fget y d k x m w) = [pack [(4, y.code), (6, 59), (3, 3), (5, d.val), (4, k.val), (5, x.val), (5, m.val)], pack [(4, 0), (18, w.code), (10, 0)]] := by
    show [w6 y 0x3B (ce 3 d k.val x.val m), snd2 w 0] = _
    simp only [w6, ce, snd2, pack, bits, List.cons.injEq, and_true]; exact ⟨by omega, by omega⟩
  refine roundtrip_two e_ fw rfl fv rfl (fun w_ v_ hw hv => ?_) rest
  have q_v0_10 : fld v_ 0 10 = 0 := fieldAt hv fv 2 (by simp)
  have q_w14_5 : fld w_ 14 5 = d.val := fieldAt hw fw 3 (by simp)
  have f_w14_5 : (fin 5 w_ 14 : Fin 32) = d := Fin.ext q_w14_5
  have q_w10_4 : fld w_ 10 4 = k.val := fieldAt hw fw 4 (by simp)
  have f_w10_4 : (fin 4 w_ 10 : Fin 16) = k := Fin.ext q_w10_4
  have q_w5_5 : fld w_ 5 5 = x.val := fieldAt hw fw 5 (by simp)
  have f_w5_5 : (fin 5 w_ 5 : Fin 32) = x := Fin.ext q_w5_5
  have q_w0_5 : fld w_ 0 5 = m.val := fieldAt hw fw 6 (by simp)
  have f_w0_5 : (fin 5 w_ 0 : Fin 32) = m := Fin.ext q_w0_5
  have q_w14_1 : fld w_ 14 1 = fld d.val 0 1 := fld_within (i := 0) q_w14_5 (by decide)
  have q_w19_3 : fld w_ 19 3 = 3 := fieldAt hw fw 2 (by simp)
  have q_w22_6 : fld w_ 22 6 = 59 := fieldAt hw fw 1 (by simp)
  have q_w28_4 : fld w_ 28 4 = y.code := fieldAt hw fw 0 (by simp)
  have ry : Ring.ofWord w_ = y := Ring.ofWord_of q_w28_4
  have q_v28_4 : fld v_ 28 4 = 0 := fieldAt hv fv 0 (by simp)
  have q_v10_18 : fld v_ 10 18 = w.code := fieldAt hv fv 1 (by simp)
  have rw_ := Waits.ofWord_of q_v10_18
  have hk : (evenReg d.val && !w.names m : Bool) = true := Instr.operands_of_wf h
  try simp only [evenReg, Bool.and_eq_true, Bool.or_eq_true, bne_iff_ne, ne_eq, decide_eq_true_eq, beq_iff_eq, Bool.not_eq_true', Bool.and_eq_false_iff, beq_eq_false_iff_ne, not_true_eq_false, false_or, reduceCtorEq, not_false_eq_true, true_or, true_and, and_true] at hk
  refine decode_ctl2 59 q_w22_6 rfl q_v28_4 ?_
  delta decodeCtl
  rw [q_w22_6]
  show decodeFab _ _ = _
  delta decodeFab
  rw [q_w19_3]
  simp [need, withCode, second, q_v0_10, q_w14_5, f_w14_5, q_w10_4, f_w10_4, q_w5_5, f_w5_5, q_w0_5, f_w0_5, q_w14_1, q_w19_3, q_w28_4, ry, q_v28_4, q_v10_18, rw_, hk]
  simp only [fld]; omega

theorem famo (y : Ring) (d : Fin 32) (k : Fin 16) (x : Fin 32) (m : Fin 32) (w : Waits) (o : FamoOp) (c : Scope) (z : Bool) : Statement (.famo y d k x m w o c z) := by
  intro q rest h
  obtain rfl := only_ctl (Instr.streams_of_wf h)
  have fw : Fits [(4, y.code), (6, 59), (3, 4), (5, d.val), (4, k.val), (5, x.val), (5, m.val)] := ⟨y.code_lt, by decide, by decide, d.isLt, k.isLt, x.isLt, m.isLt, trivial⟩
  have fv : Fits [(4, 0), (18, w.code), (4, o.code), (3, c.code), (1, z.toNat), (2, 0)] := ⟨by decide, w.code_lt, o.code_lt, c.code_lt, Bool.toNat_lt z, by decide, trivial⟩
  have e_ : encode .ctl (.famo y d k x m w o c z) = [pack [(4, y.code), (6, 59), (3, 4), (5, d.val), (4, k.val), (5, x.val), (5, m.val)], pack [(4, 0), (18, w.code), (4, o.code), (3, c.code), (1, z.toNat), (2, 0)]] := by
    show [w6 y 0x3B (ce 4 d k.val x.val m), snd2 w (o.code * 2 ^ 6 + c.code * 2 ^ 3 + z.toNat * 2 ^ 2)] = _
    simp only [w6, ce, snd2, pack, bits, List.cons.injEq, and_true]; exact ⟨by omega, by omega⟩
  refine roundtrip_two e_ fw rfl fv rfl (fun w_ v_ hw hv => ?_) rest
  have q_v0_2 : fld v_ 0 2 = 0 := fieldAt hv fv 5 (by simp)
  have q_v6_4 : fld v_ 6 4 = o.code := fieldAt hv fv 2 (by simp)
  have q_v3_3 : fld v_ 3 3 = c.code := fieldAt hv fv 3 (by simp)
  have q_v2_1 : fld v_ 2 1 = z.toNat := fieldAt hv fv 4 (by simp)
  have f_v2 : flag v_ 2 = z := flag_of q_v2_1
  have q_w14_5 : fld w_ 14 5 = d.val := fieldAt hw fw 3 (by simp)
  have f_w14_5 : (fin 5 w_ 14 : Fin 32) = d := Fin.ext q_w14_5
  have q_w10_4 : fld w_ 10 4 = k.val := fieldAt hw fw 4 (by simp)
  have f_w10_4 : (fin 4 w_ 10 : Fin 16) = k := Fin.ext q_w10_4
  have q_w5_5 : fld w_ 5 5 = x.val := fieldAt hw fw 5 (by simp)
  have f_w5_5 : (fin 5 w_ 5 : Fin 32) = x := Fin.ext q_w5_5
  have q_w0_5 : fld w_ 0 5 = m.val := fieldAt hw fw 6 (by simp)
  have f_w0_5 : (fin 5 w_ 0 : Fin 32) = m := Fin.ext q_w0_5
  have q_w14_1 : fld w_ 14 1 = fld d.val 0 1 := fld_within (i := 0) q_w14_5 (by decide)
  have q_w19_3 : fld w_ 19 3 = 4 := fieldAt hw fw 2 (by simp)
  have q_w22_6 : fld w_ 22 6 = 59 := fieldAt hw fw 1 (by simp)
  have q_w28_4 : fld w_ 28 4 = y.code := fieldAt hw fw 0 (by simp)
  have ry : Ring.ofWord w_ = y := Ring.ofWord_of q_w28_4
  have q_v28_4 : fld v_ 28 4 = 0 := fieldAt hv fv 0 (by simp)
  have q_v10_18 : fld v_ 10 18 = w.code := fieldAt hv fv 1 (by simp)
  have rw_ := Waits.ofWord_of q_v10_18
  have hk : (evenReg d.val && !w.names m && c != .cr && c != .cl : Bool) = true := Instr.operands_of_wf h
  try simp only [evenReg, Bool.and_eq_true, Bool.or_eq_true, bne_iff_ne, ne_eq, decide_eq_true_eq, beq_iff_eq, Bool.not_eq_true', Bool.and_eq_false_iff, beq_eq_false_iff_ne, not_true_eq_false, false_or, reduceCtorEq, not_false_eq_true, true_or, true_and, and_true] at hk
  refine decode_ctl2 59 q_w22_6 rfl q_v28_4 ?_
  delta decodeCtl
  rw [q_w22_6]
  show decodeFab _ _ = _
  delta decodeFab
  rw [q_w19_3]
  simp [need, withCode, second, q_v0_2, q_v6_4, q_v3_3, q_v2_1, f_v2, q_w14_5, f_w14_5, q_w10_4, f_w10_4, q_w5_5, f_w5_5, q_w0_5, f_w0_5, q_w14_1, q_w19_3, q_w28_4, ry, q_v28_4, q_v10_18, rw_, FamoOp.ofCode_code, Scope.ofCode_code, hk]
  simp only [fld]; omega

theorem fbar (y : Ring) (m : Fin 32) (w : Waits) (g : Fin 64) : Statement (.fbar y m w g) := by
  intro q rest h
  obtain rfl := only_ctl (Instr.streams_of_wf h)
  have fw : Fits [(4, y.code), (6, 59), (3, 5), (14, 0), (5, m.val)] := ⟨y.code_lt, by decide, by decide, by decide, m.isLt, trivial⟩
  have fv : Fits [(4, 0), (18, w.code), (4, 0), (6, g.val)] := ⟨by decide, w.code_lt, by decide, g.isLt, trivial⟩
  have e_ : encode .ctl (.fbar y m w g) = [pack [(4, y.code), (6, 59), (3, 5), (14, 0), (5, m.val)], pack [(4, 0), (18, w.code), (4, 0), (6, g.val)]] := by
    show [w6 y 0x3B (ce 5 0 0 0 m), snd2 w g.val] = _
    simp only [w6, ce, snd2, pack, bits, List.cons.injEq, and_true]; exact ⟨by simp; omega, by omega⟩
  refine roundtrip_two e_ fw rfl fv rfl (fun w_ v_ hw hv => ?_) rest
  have q_w5_14 : fld w_ 5 14 = 0 := fieldAt hw fw 3 (by simp)
  have q_v6_4 : fld v_ 6 4 = 0 := fieldAt hv fv 2 (by simp)
  have q_v0_6 : fld v_ 0 6 = g.val := fieldAt hv fv 3 (by simp)
  have f_v0_6 : (fin 6 v_ 0 : Fin 64) = g := Fin.ext q_v0_6
  have q_w0_5 : fld w_ 0 5 = m.val := fieldAt hw fw 4 (by simp)
  have f_w0_5 : (fin 5 w_ 0 : Fin 32) = m := Fin.ext q_w0_5
  have q_w19_3 : fld w_ 19 3 = 5 := fieldAt hw fw 2 (by simp)
  have q_w22_6 : fld w_ 22 6 = 59 := fieldAt hw fw 1 (by simp)
  have q_w28_4 : fld w_ 28 4 = y.code := fieldAt hw fw 0 (by simp)
  have ry : Ring.ofWord w_ = y := Ring.ofWord_of q_w28_4
  have q_v28_4 : fld v_ 28 4 = 0 := fieldAt hv fv 0 (by simp)
  have q_v10_18 : fld v_ 10 18 = w.code := fieldAt hv fv 1 (by simp)
  have rw_ := Waits.ofWord_of q_v10_18
  have hk : (!w.names m : Bool) = true := Instr.operands_of_wf h
  try simp only [Bool.and_eq_true, Bool.or_eq_true, bne_iff_ne, ne_eq, decide_eq_true_eq, beq_iff_eq, Bool.not_eq_true', Bool.and_eq_false_iff, beq_eq_false_iff_ne, not_true_eq_false, false_or, reduceCtorEq, not_false_eq_true, true_or, true_and, and_true] at hk
  refine decode_ctl2 59 q_w22_6 rfl q_v28_4 ?_
  delta decodeCtl
  rw [q_w22_6]
  show decodeFab _ _ = _
  delta decodeFab
  rw [q_w19_3]
  simp [need, withCode, second, q_w5_14, q_v6_4, q_v0_6, f_v0_6, q_w0_5, f_w0_5, q_w19_3, q_w28_4, ry, q_v28_4, q_v10_18, rw_, hk]

theorem ldq (y : Ring) (q : Fin 16) (k : Fin 16) (x : Fin 16) (v : Fin 1024) : Statement (.ldq y q k x v) := by
  intro q rest h
  obtain rfl := only_ld (Instr.streams_of_wf h)
  have fw : Fits [(4, y.code), (6, 13), (4, q.val), (4, k.val), (4, x.val), (10, v.val)] := ⟨y.code_lt, by decide, q.isLt, k.isLt, x.isLt, v.isLt, trivial⟩
  have e_ : encode .ld (.ldq y q k x v) = [pack [(4, y.code), (6, 13), (4, q.val), (4, k.val), (4, x.val), (10, v.val)]] := by
    show [w6 y 0x0D (lm q.val k.val x.val v.val)] = _
    simp only [w6, lm, pack, bits, List.cons.injEq, and_true]; omega
  refine roundtrip_one e_ fw rfl (fun w_ hw _ => ?_) rest
  have q_w0_10 : fld w_ 0 10 = v.val := fieldAt hw fw 5 (by simp)
  have f_w0_10 : (fin 10 w_ 0 : Fin 1024) = v := Fin.ext q_w0_10
  have q_w18_4 : fld w_ 18 4 = q.val := fieldAt hw fw 2 (by simp)
  have f_w18_4 : (fin 4 w_ 18 : Fin 16) = q := Fin.ext q_w18_4
  have q_w14_4 : fld w_ 14 4 = k.val := fieldAt hw fw 3 (by simp)
  have f_w14_4 : (fin 4 w_ 14 : Fin 16) = k := Fin.ext q_w14_4
  have q_w10_4 : fld w_ 10 4 = x.val := fieldAt hw fw 4 (by simp)
  have f_w10_4 : (fin 4 w_ 10 : Fin 16) = x := Fin.ext q_w10_4
  have q_w22_6 : fld w_ 22 6 = 13 := fieldAt hw fw 1 (by simp)
  have q_w28_4 : fld w_ 28 4 = y.code := fieldAt hw fw 0 (by simp)
  have ry : Ring.ofWord w_ = y := Ring.ofWord_of q_w28_4
  have hk : (q.val < 8 : Bool) = true := Instr.operands_of_wf h
  try simp only [Bool.and_eq_true, Bool.or_eq_true, bne_iff_ne, ne_eq, decide_eq_true_eq, beq_iff_eq, Bool.not_eq_true', Bool.and_eq_false_iff, beq_eq_false_iff_ne, not_true_eq_false, false_or, reduceCtorEq, not_false_eq_true, true_or, true_and, and_true] at hk
  refine decode_ld1 13 q_w22_6 rfl ?_
  delta decodeLdSt
  rw [q_w22_6]
  simp [need, withCode, q_w0_10, f_w0_10, q_w18_4, f_w18_4, q_w14_4, f_w14_4, q_w10_4, f_w10_4, q_w28_4, ry, hk]

theorem stq (y : Ring) (q : Fin 16) (k : Fin 16) (x : Fin 16) (v : Fin 1024) : Statement (.stq y q k x v) := by
  intro q rest h
  obtain rfl := only_st (Instr.streams_of_wf h)
  have fw : Fits [(4, y.code), (6, 13), (4, q.val), (4, k.val), (4, x.val), (10, v.val)] := ⟨y.code_lt, by decide, q.isLt, k.isLt, x.isLt, v.isLt, trivial⟩
  have e_ : encode .st (.stq y q k x v) = [pack [(4, y.code), (6, 13), (4, q.val), (4, k.val), (4, x.val), (10, v.val)]] := by
    show [w6 y 0x0D (lm q.val k.val x.val v.val)] = _
    simp only [w6, lm, pack, bits, List.cons.injEq, and_true]; omega
  refine roundtrip_one e_ fw rfl (fun w_ hw _ => ?_) rest
  have q_w0_10 : fld w_ 0 10 = v.val := fieldAt hw fw 5 (by simp)
  have f_w0_10 : (fin 10 w_ 0 : Fin 1024) = v := Fin.ext q_w0_10
  have q_w18_4 : fld w_ 18 4 = q.val := fieldAt hw fw 2 (by simp)
  have f_w18_4 : (fin 4 w_ 18 : Fin 16) = q := Fin.ext q_w18_4
  have q_w14_4 : fld w_ 14 4 = k.val := fieldAt hw fw 3 (by simp)
  have f_w14_4 : (fin 4 w_ 14 : Fin 16) = k := Fin.ext q_w14_4
  have q_w10_4 : fld w_ 10 4 = x.val := fieldAt hw fw 4 (by simp)
  have f_w10_4 : (fin 4 w_ 10 : Fin 16) = x := Fin.ext q_w10_4
  have q_w22_6 : fld w_ 22 6 = 13 := fieldAt hw fw 1 (by simp)
  have q_w28_4 : fld w_ 28 4 = y.code := fieldAt hw fw 0 (by simp)
  have ry : Ring.ofWord w_ = y := Ring.ofWord_of q_w28_4
  have hk : (8 ≤ q.val : Bool) = true := Instr.operands_of_wf h
  try simp only [Bool.and_eq_true, Bool.or_eq_true, bne_iff_ne, ne_eq, decide_eq_true_eq, beq_iff_eq, Bool.not_eq_true', Bool.and_eq_false_iff, beq_eq_false_iff_ne, not_true_eq_false, false_or, reduceCtorEq, not_false_eq_true, true_or, true_and, and_true] at hk
  refine decode_st1 13 q_w22_6 rfl ?_
  delta decodeLdSt
  rw [q_w22_6]
  simp [need, withCode, q_w0_10, f_w0_10, q_w18_4, f_w18_4, q_w14_4, f_w14_4, q_w10_4, f_w10_4, q_w28_4, ry, hk]

theorem strel (y : Ring) (q : Fin 16) (k : Fin 16) (x : Fin 16) (c : Scope) (v : Fin 128) : Statement (.strel y q k x c v) := by
  intro q rest h
  obtain rfl := only_st (Instr.streams_of_wf h)
  have fw : Fits [(4, y.code), (6, 21), (4, q.val), (4, k.val), (4, x.val), (3, c.code), (7, v.val)] := ⟨y.code_lt, by decide, q.isLt, k.isLt, x.isLt, c.code_lt, v.isLt, trivial⟩
  have e_ : encode .st (.strel y q k x c v) = [pack [(4, y.code), (6, 21), (4, q.val), (4, k.val), (4, x.val), (3, c.code), (7, v.val)]] := by
    show [w6 y 0x15 (lm q.val k.val x.val (c.code * 2 ^ 7 + v.val))] = _
    simp only [w6, lm, pack, bits, List.cons.injEq, and_true]; omega
  refine roundtrip_one e_ fw rfl (fun w_ hw _ => ?_) rest
  have q_w7_3 : fld w_ 7 3 = c.code := fieldAt hw fw 5 (by simp)
  have q_w0_7 : fld w_ 0 7 = v.val := fieldAt hw fw 6 (by simp)
  have f_w0_7 : (fin 7 w_ 0 : Fin 128) = v := Fin.ext q_w0_7
  have q_w18_4 : fld w_ 18 4 = q.val := fieldAt hw fw 2 (by simp)
  have f_w18_4 : (fin 4 w_ 18 : Fin 16) = q := Fin.ext q_w18_4
  have q_w14_4 : fld w_ 14 4 = k.val := fieldAt hw fw 3 (by simp)
  have f_w14_4 : (fin 4 w_ 14 : Fin 16) = k := Fin.ext q_w14_4
  have q_w10_4 : fld w_ 10 4 = x.val := fieldAt hw fw 4 (by simp)
  have f_w10_4 : (fin 4 w_ 10 : Fin 16) = x := Fin.ext q_w10_4
  have q_w22_6 : fld w_ 22 6 = 21 := fieldAt hw fw 1 (by simp)
  have q_w28_4 : fld w_ 28 4 = y.code := fieldAt hw fw 0 (by simp)
  have ry : Ring.ofWord w_ = y := Ring.ofWord_of q_w28_4
  have hk : (8 ≤ q.val : Bool) = true := Instr.operands_of_wf h
  try simp only [Bool.and_eq_true, Bool.or_eq_true, bne_iff_ne, ne_eq, decide_eq_true_eq, beq_iff_eq, Bool.not_eq_true', Bool.and_eq_false_iff, beq_eq_false_iff_ne, not_true_eq_false, false_or, reduceCtorEq, not_false_eq_true, true_or, true_and, and_true] at hk
  refine decode_st1 21 q_w22_6 rfl ?_
  delta decodeLdSt
  rw [q_w22_6]
  simp [need, withCode, q_w7_3, q_w0_7, f_w0_7, q_w18_4, f_w18_4, q_w14_4, f_w14_4, q_w10_4, f_w10_4, q_w28_4, ry, Scope.ofCode_code, hk]

theorem pf (y : Ring) (k : Fin 16) (x : Fin 16) (v : Fin 1024) : Statement (.pf y k x v) := by
  intro q rest h
  obtain rfl := only_ld (Instr.streams_of_wf h)
  have fw : Fits [(4, y.code), (6, 16), (4, 0), (4, k.val), (4, x.val), (10, v.val)] := ⟨y.code_lt, by decide, by decide, k.isLt, x.isLt, v.isLt, trivial⟩
  have e_ : encode .ld (.pf y k x v) = [pack [(4, y.code), (6, 16), (4, 0), (4, k.val), (4, x.val), (10, v.val)]] := by
    show [w6 y 0x10 (lm 0 k.val x.val v.val)] = _
    simp only [w6, lm, pack, bits, List.cons.injEq, and_true]; omega
  refine roundtrip_one e_ fw rfl (fun w_ hw _ => ?_) rest
  have q_w0_10 : fld w_ 0 10 = v.val := fieldAt hw fw 5 (by simp)
  have q_w7_3 : fld w_ 7 3 = fld v.val 7 3 := fld_within (i := 7) q_w0_10 (by decide)
  have q_w3_4 : fld w_ 3 4 = fld v.val 3 4 := fld_within (i := 3) q_w0_10 (by decide)
  have q_w18_4 : fld w_ 18 4 = 0 := fieldAt hw fw 2 (by simp)
  have q_w0_3 : fld w_ 0 3 = fld v.val 0 3 := fld_within (i := 0) q_w0_10 (by decide)
  have f_w0_10 : (fin 10 w_ 0 : Fin 1024) = v := Fin.ext q_w0_10
  have q_w14_4 : fld w_ 14 4 = k.val := fieldAt hw fw 3 (by simp)
  have f_w14_4 : (fin 4 w_ 14 : Fin 16) = k := Fin.ext q_w14_4
  have q_w10_4 : fld w_ 10 4 = x.val := fieldAt hw fw 4 (by simp)
  have f_w10_4 : (fin 4 w_ 10 : Fin 16) = x := Fin.ext q_w10_4
  have q_w22_6 : fld w_ 22 6 = 16 := fieldAt hw fw 1 (by simp)
  have q_w28_4 : fld w_ 28 4 = y.code := fieldAt hw fw 0 (by simp)
  have ry : Ring.ofWord w_ = y := Ring.ofWord_of q_w28_4
  refine decode_ld1 16 q_w22_6 rfl ?_
  delta decodeLdSt
  rw [q_w22_6]
  simp [need, withCode, q_w0_10, q_w7_3, q_w3_4, q_w18_4, q_w0_3, f_w0_10, q_w14_4, f_w14_4, q_w10_4, f_w10_4, q_w28_4, ry]

theorem upd (y : Ring) (q : Fin 16) (k : Fin 16) (x : Fin 16) (o : UpdOp) (t : Ty) (v : Fin 8) : Statement (.upd y q k x o t v) := by
  intro q rest h
  obtain rfl := only_st (Instr.streams_of_wf h)
  have fw : Fits [(4, y.code), (6, 16), (4, q.val), (4, k.val), (4, x.val), (3, o.code), (4, t.code), (3, v.val)] := ⟨y.code_lt, by decide, q.isLt, k.isLt, x.isLt, o.code_lt, t.code_lt, v.isLt, trivial⟩
  have e_ : encode .st (.upd y q k x o t v) = [pack [(4, y.code), (6, 16), (4, q.val), (4, k.val), (4, x.val), (3, o.code), (4, t.code), (3, v.val)]] := by
    show [w6 y 0x10 (lm q.val k.val x.val (o.code * 2 ^ 7 + t.code * 2 ^ 3 + v.val))] = _
    simp only [w6, lm, pack, bits, List.cons.injEq, and_true]; omega
  refine roundtrip_one e_ fw rfl (fun w_ hw _ => ?_) rest
  have q_w7_3 : fld w_ 7 3 = o.code := fieldAt hw fw 5 (by simp)
  have q_w3_4 : fld w_ 3 4 = t.code := fieldAt hw fw 6 (by simp)
  have q_w18_4 : fld w_ 18 4 = q.val := fieldAt hw fw 2 (by simp)
  have q_w0_3 : fld w_ 0 3 = v.val := fieldAt hw fw 7 (by simp)
  have f_w0_3 : (fin 3 w_ 0 : Fin 8) = v := Fin.ext q_w0_3
  have q_w0_10 : fld w_ 0 10 = o.code * 128 + t.code * 8 + v.val := by simp only [fld] at q_w7_3 q_w3_4 q_w0_3 ⊢; omega
  have f_w18_4 : (fin 4 w_ 18 : Fin 16) = q := Fin.ext q_w18_4
  have q_w14_4 : fld w_ 14 4 = k.val := fieldAt hw fw 3 (by simp)
  have f_w14_4 : (fin 4 w_ 14 : Fin 16) = k := Fin.ext q_w14_4
  have q_w10_4 : fld w_ 10 4 = x.val := fieldAt hw fw 4 (by simp)
  have f_w10_4 : (fin 4 w_ 10 : Fin 16) = x := Fin.ext q_w10_4
  have q_w22_6 : fld w_ 22 6 = 16 := fieldAt hw fw 1 (by simp)
  have q_w28_4 : fld w_ 28 4 = y.code := fieldAt hw fw 0 (by simp)
  have ry : Ring.ofWord w_ = y := Ring.ofWord_of q_w28_4
  have hk : (8 ≤ q.val && o.allows t : Bool) = true := Instr.operands_of_wf h
  try simp only [Bool.and_eq_true, Bool.or_eq_true, bne_iff_ne, ne_eq, decide_eq_true_eq, beq_iff_eq, Bool.not_eq_true', Bool.and_eq_false_iff, beq_eq_false_iff_ne, not_true_eq_false, false_or, reduceCtorEq, not_false_eq_true, true_or, true_and, and_true] at hk
  refine decode_st1 16 q_w22_6 rfl ?_
  delta decodeLdSt
  rw [q_w22_6]
  simp [need, withCode, q_w7_3, q_w3_4, q_w18_4, q_w0_3, f_w0_3, q_w0_10, f_w18_4, q_w14_4, f_w14_4, q_w10_4, f_w10_4, q_w28_4, ry, UpdOp.ofCode_code, Ty.ofCode_code, hk]

theorem ldstWordComplete (c : CoreId) (t : Bool) (k : Work Nat) : Statement (.ldstWordComplete c t k) := fun _ _ h => (no_stream (Instr.streams_of_wf h)).elim

theorem heldCompletionPost (c : CoreId) (t : Bool) (a : Bool) : Statement (.heldCompletionPost c t a) := fun _ _ h => (no_stream (Instr.streams_of_wf h)).elim

theorem aadd (y : Ring) (d : Fin 16) (a : Fin 16) (b : Fin 16) : Statement (.aadd y d a b) := by
  intro q rest h
  obtain rfl | rfl := ld_or_st (Instr.streams_of_wf h)
  · have fw : Fits [(4, y.code), (6, 17), (4, d.val), (4, a.val), (4, b.val), (10, 0)] := ⟨y.code_lt, by decide, d.isLt, a.isLt, b.isLt, by decide, trivial⟩
    have e_ : encode .ld (.aadd y d a b) = [pack [(4, y.code), (6, 17), (4, d.val), (4, a.val), (4, b.val), (10, 0)]] := by
      show [w6 y 0x11 (lm d.val a.val b.val 0)] = _
      simp only [w6, lm, pack, bits, List.cons.injEq, and_true]; omega
    refine roundtrip_one e_ fw rfl (fun w_ hw _ => ?_) rest
    have q_w0_10 : fld w_ 0 10 = 0 := fieldAt hw fw 5 (by simp)
    have q_w18_4 : fld w_ 18 4 = d.val := fieldAt hw fw 2 (by simp)
    have f_w18_4 : (fin 4 w_ 18 : Fin 16) = d := Fin.ext q_w18_4
    have q_w14_4 : fld w_ 14 4 = a.val := fieldAt hw fw 3 (by simp)
    have f_w14_4 : (fin 4 w_ 14 : Fin 16) = a := Fin.ext q_w14_4
    have q_w10_4 : fld w_ 10 4 = b.val := fieldAt hw fw 4 (by simp)
    have f_w10_4 : (fin 4 w_ 10 : Fin 16) = b := Fin.ext q_w10_4
    have q_w22_6 : fld w_ 22 6 = 17 := fieldAt hw fw 1 (by simp)
    have q_w28_4 : fld w_ 28 4 = y.code := fieldAt hw fw 0 (by simp)
    have ry : Ring.ofWord w_ = y := Ring.ofWord_of q_w28_4
    refine decode_ld1 17 q_w22_6 rfl ?_
    delta decodeLdSt
    rw [q_w22_6]
    simp [need, withCode, q_w0_10, q_w18_4, f_w18_4, q_w14_4, f_w14_4, q_w10_4, f_w10_4, q_w28_4, ry]
  · have fw : Fits [(4, y.code), (6, 17), (4, d.val), (4, a.val), (4, b.val), (10, 0)] := ⟨y.code_lt, by decide, d.isLt, a.isLt, b.isLt, by decide, trivial⟩
    have e_ : encode .st (.aadd y d a b) = [pack [(4, y.code), (6, 17), (4, d.val), (4, a.val), (4, b.val), (10, 0)]] := by
      show [w6 y 0x11 (lm d.val a.val b.val 0)] = _
      simp only [w6, lm, pack, bits, List.cons.injEq, and_true]; omega
    refine roundtrip_one e_ fw rfl (fun w_ hw _ => ?_) rest
    have q_w0_10 : fld w_ 0 10 = 0 := fieldAt hw fw 5 (by simp)
    have q_w18_4 : fld w_ 18 4 = d.val := fieldAt hw fw 2 (by simp)
    have f_w18_4 : (fin 4 w_ 18 : Fin 16) = d := Fin.ext q_w18_4
    have q_w14_4 : fld w_ 14 4 = a.val := fieldAt hw fw 3 (by simp)
    have f_w14_4 : (fin 4 w_ 14 : Fin 16) = a := Fin.ext q_w14_4
    have q_w10_4 : fld w_ 10 4 = b.val := fieldAt hw fw 4 (by simp)
    have f_w10_4 : (fin 4 w_ 10 : Fin 16) = b := Fin.ext q_w10_4
    have q_w22_6 : fld w_ 22 6 = 17 := fieldAt hw fw 1 (by simp)
    have q_w28_4 : fld w_ 28 4 = y.code := fieldAt hw fw 0 (by simp)
    have ry : Ring.ofWord w_ = y := Ring.ofWord_of q_w28_4
    refine decode_st1 17 q_w22_6 rfl ?_
    delta decodeLdSt
    rw [q_w22_6]
    simp [need, withCode, q_w0_10, q_w18_4, f_w18_4, q_w14_4, f_w14_4, q_w10_4, f_w10_4, q_w28_4, ry]

theorem aaddi (y : Ring) (d : Fin 16) (a : Fin 16) (m : BitVec 14) : Statement (.aaddi y d a m) := by
  intro q rest h
  obtain rfl | rfl := ld_or_st (Instr.streams_of_wf h)
  · have fw : Fits [(4, y.code), (6, 18), (4, d.val), (4, a.val), (14, m.toNat)] := ⟨y.code_lt, by decide, d.isLt, a.isLt, m.isLt, trivial⟩
    have e_ : encode .ld (.aaddi y d a m) = [pack [(4, y.code), (6, 18), (4, d.val), (4, a.val), (14, m.toNat)]] := by
      show [w6 y 0x12 (d.val * 2 ^ 18 + a.val * 2 ^ 14 + m.toNat)] = _
      simp only [w6, pack, bits, List.cons.injEq, and_true]; omega
    refine roundtrip_one e_ fw rfl (fun w_ hw _ => ?_) rest
    have q_w0_14 : fld w_ 0 14 = m.toNat := fieldAt hw fw 4 (by simp)
    have f_w0_14 : bvf 14 w_ 0 = m := bvf_of q_w0_14
    have q_w18_4 : fld w_ 18 4 = d.val := fieldAt hw fw 2 (by simp)
    have f_w18_4 : (fin 4 w_ 18 : Fin 16) = d := Fin.ext q_w18_4
    have q_w14_4 : fld w_ 14 4 = a.val := fieldAt hw fw 3 (by simp)
    have f_w14_4 : (fin 4 w_ 14 : Fin 16) = a := Fin.ext q_w14_4
    have q_w22_6 : fld w_ 22 6 = 18 := fieldAt hw fw 1 (by simp)
    have q_w28_4 : fld w_ 28 4 = y.code := fieldAt hw fw 0 (by simp)
    have ry : Ring.ofWord w_ = y := Ring.ofWord_of q_w28_4
    refine decode_ld1 18 q_w22_6 rfl ?_
    delta decodeLdSt
    rw [q_w22_6]
    simp [need, withCode, q_w0_14, f_w0_14, q_w18_4, f_w18_4, q_w14_4, f_w14_4, q_w28_4, ry]
  · have fw : Fits [(4, y.code), (6, 18), (4, d.val), (4, a.val), (14, m.toNat)] := ⟨y.code_lt, by decide, d.isLt, a.isLt, m.isLt, trivial⟩
    have e_ : encode .st (.aaddi y d a m) = [pack [(4, y.code), (6, 18), (4, d.val), (4, a.val), (14, m.toNat)]] := by
      show [w6 y 0x12 (d.val * 2 ^ 18 + a.val * 2 ^ 14 + m.toNat)] = _
      simp only [w6, pack, bits, List.cons.injEq, and_true]; omega
    refine roundtrip_one e_ fw rfl (fun w_ hw _ => ?_) rest
    have q_w0_14 : fld w_ 0 14 = m.toNat := fieldAt hw fw 4 (by simp)
    have f_w0_14 : bvf 14 w_ 0 = m := bvf_of q_w0_14
    have q_w18_4 : fld w_ 18 4 = d.val := fieldAt hw fw 2 (by simp)
    have f_w18_4 : (fin 4 w_ 18 : Fin 16) = d := Fin.ext q_w18_4
    have q_w14_4 : fld w_ 14 4 = a.val := fieldAt hw fw 3 (by simp)
    have f_w14_4 : (fin 4 w_ 14 : Fin 16) = a := Fin.ext q_w14_4
    have q_w22_6 : fld w_ 22 6 = 18 := fieldAt hw fw 1 (by simp)
    have q_w28_4 : fld w_ 28 4 = y.code := fieldAt hw fw 0 (by simp)
    have ry : Ring.ofWord w_ = y := Ring.ofWord_of q_w28_4
    refine decode_st1 18 q_w22_6 rfl ?_
    delta decodeLdSt
    rw [q_w22_6]
    simp [need, withCode, q_w0_14, f_w0_14, q_w18_4, f_w18_4, q_w14_4, f_w14_4, q_w28_4, ry]

theorem ali (y : Ring) (d : Fin 16) (m : BitVec 18) : Statement (.ali y d m) := by
  intro q rest h
  obtain rfl | rfl := ld_or_st (Instr.streams_of_wf h)
  · have fw : Fits [(4, y.code), (6, 19), (4, d.val), (18, m.toNat)] := ⟨y.code_lt, by decide, d.isLt, m.isLt, trivial⟩
    have e_ : encode .ld (.ali y d m) = [pack [(4, y.code), (6, 19), (4, d.val), (18, m.toNat)]] := by
      show [w6 y 0x13 (d.val * 2 ^ 18 + m.toNat)] = _
      simp only [w6, pack, bits, List.cons.injEq, and_true]; omega
    refine roundtrip_one e_ fw rfl (fun w_ hw _ => ?_) rest
    have q_w0_18 : fld w_ 0 18 = m.toNat := fieldAt hw fw 3 (by simp)
    have f_w0_18 : bvf 18 w_ 0 = m := bvf_of q_w0_18
    have q_w18_4 : fld w_ 18 4 = d.val := fieldAt hw fw 2 (by simp)
    have f_w18_4 : (fin 4 w_ 18 : Fin 16) = d := Fin.ext q_w18_4
    have q_w22_6 : fld w_ 22 6 = 19 := fieldAt hw fw 1 (by simp)
    have q_w28_4 : fld w_ 28 4 = y.code := fieldAt hw fw 0 (by simp)
    have ry : Ring.ofWord w_ = y := Ring.ofWord_of q_w28_4
    refine decode_ld1 19 q_w22_6 rfl ?_
    delta decodeLdSt
    rw [q_w22_6]
    simp [need, withCode, q_w0_18, f_w0_18, q_w18_4, f_w18_4, q_w28_4, ry]
  · have fw : Fits [(4, y.code), (6, 19), (4, d.val), (18, m.toNat)] := ⟨y.code_lt, by decide, d.isLt, m.isLt, trivial⟩
    have e_ : encode .st (.ali y d m) = [pack [(4, y.code), (6, 19), (4, d.val), (18, m.toNat)]] := by
      show [w6 y 0x13 (d.val * 2 ^ 18 + m.toNat)] = _
      simp only [w6, pack, bits, List.cons.injEq, and_true]; omega
    refine roundtrip_one e_ fw rfl (fun w_ hw _ => ?_) rest
    have q_w0_18 : fld w_ 0 18 = m.toNat := fieldAt hw fw 3 (by simp)
    have f_w0_18 : bvf 18 w_ 0 = m := bvf_of q_w0_18
    have q_w18_4 : fld w_ 18 4 = d.val := fieldAt hw fw 2 (by simp)
    have f_w18_4 : (fin 4 w_ 18 : Fin 16) = d := Fin.ext q_w18_4
    have q_w22_6 : fld w_ 22 6 = 19 := fieldAt hw fw 1 (by simp)
    have q_w28_4 : fld w_ 28 4 = y.code := fieldAt hw fw 0 (by simp)
    have ry : Ring.ofWord w_ = y := Ring.ofWord_of q_w28_4
    refine decode_st1 19 q_w22_6 rfl ?_
    delta decodeLdSt
    rw [q_w22_6]
    simp [need, withCode, q_w0_18, f_w0_18, q_w18_4, f_w18_4, q_w28_4, ry]

theorem acmp (y : Ring) (p : Fin 8) (a : Fin 16) (b : Fin 16) (c : Cond) : Statement (.acmp y p a b c) := by
  intro q rest h
  obtain rfl | rfl := ld_or_st (Instr.streams_of_wf h)
  · have fw : Fits [(4, y.code), (6, 20), (3, p.val), (4, a.val), (4, b.val), (4, c.code), (7, 0)] := ⟨y.code_lt, by decide, p.isLt, a.isLt, b.isLt, c.code_lt, by decide, trivial⟩
    have e_ : encode .ld (.acmp y p a b c) = [pack [(4, y.code), (6, 20), (3, p.val), (4, a.val), (4, b.val), (4, c.code), (7, 0)]] := by
      show [w6 y 0x14 (p.val * 2 ^ 19 + a.val * 2 ^ 15 + b.val * 2 ^ 11 + c.code * 2 ^ 7)] = _
      simp only [w6, pack, bits, List.cons.injEq, and_true]; omega
    refine roundtrip_one e_ fw rfl (fun w_ hw _ => ?_) rest
    have q_w0_7 : fld w_ 0 7 = 0 := fieldAt hw fw 6 (by simp)
    have q_w7_4 : fld w_ 7 4 = c.code := fieldAt hw fw 5 (by simp)
    have q_w19_3 : fld w_ 19 3 = p.val := fieldAt hw fw 2 (by simp)
    have f_w19_3 : (fin 3 w_ 19 : Fin 8) = p := Fin.ext q_w19_3
    have q_w15_4 : fld w_ 15 4 = a.val := fieldAt hw fw 3 (by simp)
    have f_w15_4 : (fin 4 w_ 15 : Fin 16) = a := Fin.ext q_w15_4
    have q_w11_4 : fld w_ 11 4 = b.val := fieldAt hw fw 4 (by simp)
    have f_w11_4 : (fin 4 w_ 11 : Fin 16) = b := Fin.ext q_w11_4
    have q_w22_6 : fld w_ 22 6 = 20 := fieldAt hw fw 1 (by simp)
    have q_w28_4 : fld w_ 28 4 = y.code := fieldAt hw fw 0 (by simp)
    have ry : Ring.ofWord w_ = y := Ring.ofWord_of q_w28_4
    have hk : (c.intOk : Bool) = true := Instr.operands_of_wf h
    try simp only [Bool.and_eq_true, Bool.or_eq_true, bne_iff_ne, ne_eq, decide_eq_true_eq, beq_iff_eq, Bool.not_eq_true', Bool.and_eq_false_iff, beq_eq_false_iff_ne, not_true_eq_false, false_or, reduceCtorEq, not_false_eq_true, true_or, true_and, and_true] at hk
    refine decode_ld1 20 q_w22_6 rfl ?_
    delta decodeLdSt
    rw [q_w22_6]
    simp [need, withCode, q_w0_7, q_w7_4, q_w19_3, f_w19_3, q_w15_4, f_w15_4, q_w11_4, f_w11_4, q_w28_4, ry, Cond.ofCode_code, hk]
    rintro rfl; exact absurd hk (by decide)
  · have fw : Fits [(4, y.code), (6, 20), (3, p.val), (4, a.val), (4, b.val), (4, c.code), (7, 0)] := ⟨y.code_lt, by decide, p.isLt, a.isLt, b.isLt, c.code_lt, by decide, trivial⟩
    have e_ : encode .st (.acmp y p a b c) = [pack [(4, y.code), (6, 20), (3, p.val), (4, a.val), (4, b.val), (4, c.code), (7, 0)]] := by
      show [w6 y 0x14 (p.val * 2 ^ 19 + a.val * 2 ^ 15 + b.val * 2 ^ 11 + c.code * 2 ^ 7)] = _
      simp only [w6, pack, bits, List.cons.injEq, and_true]; omega
    refine roundtrip_one e_ fw rfl (fun w_ hw _ => ?_) rest
    have q_w0_7 : fld w_ 0 7 = 0 := fieldAt hw fw 6 (by simp)
    have q_w7_4 : fld w_ 7 4 = c.code := fieldAt hw fw 5 (by simp)
    have q_w19_3 : fld w_ 19 3 = p.val := fieldAt hw fw 2 (by simp)
    have f_w19_3 : (fin 3 w_ 19 : Fin 8) = p := Fin.ext q_w19_3
    have q_w15_4 : fld w_ 15 4 = a.val := fieldAt hw fw 3 (by simp)
    have f_w15_4 : (fin 4 w_ 15 : Fin 16) = a := Fin.ext q_w15_4
    have q_w11_4 : fld w_ 11 4 = b.val := fieldAt hw fw 4 (by simp)
    have f_w11_4 : (fin 4 w_ 11 : Fin 16) = b := Fin.ext q_w11_4
    have q_w22_6 : fld w_ 22 6 = 20 := fieldAt hw fw 1 (by simp)
    have q_w28_4 : fld w_ 28 4 = y.code := fieldAt hw fw 0 (by simp)
    have ry : Ring.ofWord w_ = y := Ring.ofWord_of q_w28_4
    have hk : (c.intOk : Bool) = true := Instr.operands_of_wf h
    try simp only [Bool.and_eq_true, Bool.or_eq_true, bne_iff_ne, ne_eq, decide_eq_true_eq, beq_iff_eq, Bool.not_eq_true', Bool.and_eq_false_iff, beq_eq_false_iff_ne, not_true_eq_false, false_or, reduceCtorEq, not_false_eq_true, true_or, true_and, and_true] at hk
    refine decode_st1 20 q_w22_6 rfl ?_
    delta decodeLdSt
    rw [q_w22_6]
    simp [need, withCode, q_w0_7, q_w7_4, q_w19_3, f_w19_3, q_w15_4, f_w15_4, q_w11_4, f_w11_4, q_w28_4, ry, Cond.ofCode_code, hk]
    rintro rfl; exact absurd hk (by decide)

theorem ldsp (y : Ring) (l : Fin 16) (k : Fin 16) (x : Fin 16) (a : Fin 16) (m : Fin 32) (w : Waits) (f : Fin 1024) : Statement (.ldsp y l k x a m w f) := by
  intro q rest h
  obtain rfl := only_ld (Instr.streams_of_wf h)
  have fw : Fits [(4, y.code), (6, 14), (4, l.val), (4, k.val), (4, x.val), (4, a.val), (1, 0), (5, m.val)] := ⟨y.code_lt, by decide, l.isLt, k.isLt, x.isLt, a.isLt, by decide, m.isLt, trivial⟩
  have fv : Fits [(4, 0), (18, w.code), (10, f.val)] := ⟨by decide, w.code_lt, f.isLt, trivial⟩
  have e_ : encode .ld (.ldsp y l k x a m w f) = [pack [(4, y.code), (6, 14), (4, l.val), (4, k.val), (4, x.val), (4, a.val), (1, 0), (5, m.val)], pack [(4, 0), (18, w.code), (10, f.val)]] := by
    show [w6 y 0x0E (le l k x a m), snd2 w f.val] = _
    simp only [w6, snd2, le, pack, bits, List.cons.injEq, and_true]; exact ⟨by omega, by omega⟩
  refine roundtrip_two e_ fw rfl fv rfl (fun w_ v_ hw hv => ?_) rest
  have q_v0_10 : fld v_ 0 10 = f.val := fieldAt hv fv 2 (by simp)
  have f_v0_10 : (fin 10 v_ 0 : Fin 1024) = f := Fin.ext q_v0_10
  have q_w14_4 : fld w_ 14 4 = k.val := fieldAt hw fw 3 (by simp)
  have f_w14_4 : (fin 4 w_ 14 : Fin 16) = k := Fin.ext q_w14_4
  have q_w10_4 : fld w_ 10 4 = x.val := fieldAt hw fw 4 (by simp)
  have f_w10_4 : (fin 4 w_ 10 : Fin 16) = x := Fin.ext q_w10_4
  have q_w22_6 : fld w_ 22 6 = 14 := fieldAt hw fw 1 (by simp)
  have q_w28_4 : fld w_ 28 4 = y.code := fieldAt hw fw 0 (by simp)
  have ry : Ring.ofWord w_ = y := Ring.ofWord_of q_w28_4
  have q_v28_4 : fld v_ 28 4 = 0 := fieldAt hv fv 0 (by simp)
  have q_v10_18 : fld v_ 10 18 = w.code := fieldAt hv fv 1 (by simp)
  have rw_ := Waits.ofWord_of q_v10_18
  have q_w5_1 : fld w_ 5 1 = 0 := fieldAt hw fw 6 (by simp)
  have q_w0_5 : fld w_ 0 5 = m.val := fieldAt hw fw 7 (by simp)
  have f_w0_5 : (fin 5 w_ 0 : Fin 32) = m := Fin.ext q_w0_5
  have q_w18_4 : fld w_ 18 4 = l.val := fieldAt hw fw 2 (by simp)
  have f_w18_4 : (fin 4 w_ 18 : Fin 16) = l := Fin.ext q_w18_4
  have q_w6_4 : fld w_ 6 4 = a.val := fieldAt hw fw 5 (by simp)
  have f_w6_4 : (fin 4 w_ 6 : Fin 16) = a := Fin.ext q_w6_4
  have hk : (!w.names m : Bool) = true := Instr.operands_of_wf h
  try simp only [Bool.and_eq_true, Bool.or_eq_true, bne_iff_ne, ne_eq, decide_eq_true_eq, beq_iff_eq, Bool.not_eq_true', Bool.and_eq_false_iff, beq_eq_false_iff_ne, not_true_eq_false, false_or, reduceCtorEq, not_false_eq_true, true_or, true_and, and_true] at hk
  refine decode_ld2 14 q_w22_6 rfl q_v28_4 ?_
  delta decodeLdSt
  rw [q_w22_6]
  simp [need, withCode, decodeLe, second, q_v0_10, f_v0_10, q_w14_4, f_w14_4, q_w10_4, f_w10_4, q_w28_4, ry, q_v28_4, q_v10_18, rw_, q_w5_1, q_w0_5, f_w0_5, q_w18_4, f_w18_4, q_w6_4, f_w6_4, hk]

theorem stsp (y : Ring) (l : Fin 16) (k : Fin 16) (x : Fin 16) (a : Fin 16) (m : Fin 32) (w : Waits) (f : Fin 1024) : Statement (.stsp y l k x a m w f) := by
  intro q rest h
  obtain rfl := only_st (Instr.streams_of_wf h)
  have fw : Fits [(4, y.code), (6, 14), (4, l.val), (4, k.val), (4, x.val), (4, a.val), (1, 0), (5, m.val)] := ⟨y.code_lt, by decide, l.isLt, k.isLt, x.isLt, a.isLt, by decide, m.isLt, trivial⟩
  have fv : Fits [(4, 0), (18, w.code), (10, f.val)] := ⟨by decide, w.code_lt, f.isLt, trivial⟩
  have e_ : encode .st (.stsp y l k x a m w f) = [pack [(4, y.code), (6, 14), (4, l.val), (4, k.val), (4, x.val), (4, a.val), (1, 0), (5, m.val)], pack [(4, 0), (18, w.code), (10, f.val)]] := by
    show [w6 y 0x0E (le l k x a m), snd2 w f.val] = _
    simp only [w6, snd2, le, pack, bits, List.cons.injEq, and_true]; exact ⟨by omega, by omega⟩
  refine roundtrip_two e_ fw rfl fv rfl (fun w_ v_ hw hv => ?_) rest
  have q_v0_10 : fld v_ 0 10 = f.val := fieldAt hv fv 2 (by simp)
  have f_v0_10 : (fin 10 v_ 0 : Fin 1024) = f := Fin.ext q_v0_10
  have q_w14_4 : fld w_ 14 4 = k.val := fieldAt hw fw 3 (by simp)
  have f_w14_4 : (fin 4 w_ 14 : Fin 16) = k := Fin.ext q_w14_4
  have q_w10_4 : fld w_ 10 4 = x.val := fieldAt hw fw 4 (by simp)
  have f_w10_4 : (fin 4 w_ 10 : Fin 16) = x := Fin.ext q_w10_4
  have q_w22_6 : fld w_ 22 6 = 14 := fieldAt hw fw 1 (by simp)
  have q_w28_4 : fld w_ 28 4 = y.code := fieldAt hw fw 0 (by simp)
  have ry : Ring.ofWord w_ = y := Ring.ofWord_of q_w28_4
  have q_v28_4 : fld v_ 28 4 = 0 := fieldAt hv fv 0 (by simp)
  have q_v10_18 : fld v_ 10 18 = w.code := fieldAt hv fv 1 (by simp)
  have rw_ := Waits.ofWord_of q_v10_18
  have q_w5_1 : fld w_ 5 1 = 0 := fieldAt hw fw 6 (by simp)
  have q_w0_5 : fld w_ 0 5 = m.val := fieldAt hw fw 7 (by simp)
  have f_w0_5 : (fin 5 w_ 0 : Fin 32) = m := Fin.ext q_w0_5
  have q_w18_4 : fld w_ 18 4 = l.val := fieldAt hw fw 2 (by simp)
  have f_w18_4 : (fin 4 w_ 18 : Fin 16) = l := Fin.ext q_w18_4
  have q_w6_4 : fld w_ 6 4 = a.val := fieldAt hw fw 5 (by simp)
  have f_w6_4 : (fin 4 w_ 6 : Fin 16) = a := Fin.ext q_w6_4
  have hk : (!w.names m : Bool) = true := Instr.operands_of_wf h
  try simp only [Bool.and_eq_true, Bool.or_eq_true, bne_iff_ne, ne_eq, decide_eq_true_eq, beq_iff_eq, Bool.not_eq_true', Bool.and_eq_false_iff, beq_eq_false_iff_ne, not_true_eq_false, false_or, reduceCtorEq, not_false_eq_true, true_or, true_and, and_true] at hk
  refine decode_st2 14 q_w22_6 rfl q_v28_4 ?_
  delta decodeLdSt
  rw [q_w22_6]
  simp [need, withCode, decodeLe, second, q_v0_10, f_v0_10, q_w14_4, f_w14_4, q_w10_4, f_w10_4, q_w28_4, ry, q_v28_4, q_v10_18, rw_, q_w5_1, q_w0_5, f_w0_5, q_w18_4, f_w18_4, q_w6_4, f_w6_4, hk]

theorem gth (y : Ring) (l : Fin 16) (k : Fin 16) (x : Fin 16) (a : Fin 16) (m : Fin 32) (w : Waits) (n : Bool) (f : Fin 8) : Statement (.gth y l k x a m w n f) := by
  intro q rest h
  obtain rfl := only_ld (Instr.streams_of_wf h)
  have fw : Fits [(4, y.code), (6, 15), (4, l.val), (4, k.val), (4, x.val), (4, a.val), (1, 0), (5, m.val)] := ⟨y.code_lt, by decide, l.isLt, k.isLt, x.isLt, a.isLt, by decide, m.isLt, trivial⟩
  have fv : Fits [(4, 0), (18, w.code), (6, 0), (1, n.toNat), (3, f.val)] := ⟨by decide, w.code_lt, by decide, Bool.toNat_lt n, f.isLt, trivial⟩
  have e_ : encode .ld (.gth y l k x a m w n f) = [pack [(4, y.code), (6, 15), (4, l.val), (4, k.val), (4, x.val), (4, a.val), (1, 0), (5, m.val)], pack [(4, 0), (18, w.code), (6, 0), (1, n.toNat), (3, f.val)]] := by
    show [w6 y 0x0F (le l k x a m), snd2 w (n.toNat * 2 ^ 3 + f.val)] = _
    simp only [w6, snd2, le, pack, bits, List.cons.injEq, and_true]; exact ⟨by omega, by omega⟩
  refine roundtrip_two e_ fw rfl fv rfl (fun w_ v_ hw hv => ?_) rest
  have q_v4_6 : fld v_ 4 6 = 0 := fieldAt hv fv 2 (by simp)
  have q_v0_3 : fld v_ 0 3 = f.val := fieldAt hv fv 4 (by simp)
  have f_v0_3 : (fin 3 v_ 0 : Fin 8) = f := Fin.ext q_v0_3
  have q_v3_1 : fld v_ 3 1 = n.toNat := fieldAt hv fv 3 (by simp)
  have f_v3 : flag v_ 3 = n := flag_of q_v3_1
  have q_w14_4 : fld w_ 14 4 = k.val := fieldAt hw fw 3 (by simp)
  have f_w14_4 : (fin 4 w_ 14 : Fin 16) = k := Fin.ext q_w14_4
  have q_w10_4 : fld w_ 10 4 = x.val := fieldAt hw fw 4 (by simp)
  have f_w10_4 : (fin 4 w_ 10 : Fin 16) = x := Fin.ext q_w10_4
  have q_w22_6 : fld w_ 22 6 = 15 := fieldAt hw fw 1 (by simp)
  have q_w28_4 : fld w_ 28 4 = y.code := fieldAt hw fw 0 (by simp)
  have ry : Ring.ofWord w_ = y := Ring.ofWord_of q_w28_4
  have q_v28_4 : fld v_ 28 4 = 0 := fieldAt hv fv 0 (by simp)
  have q_v10_18 : fld v_ 10 18 = w.code := fieldAt hv fv 1 (by simp)
  have rw_ := Waits.ofWord_of q_v10_18
  have q_w5_1 : fld w_ 5 1 = 0 := fieldAt hw fw 6 (by simp)
  have q_w0_5 : fld w_ 0 5 = m.val := fieldAt hw fw 7 (by simp)
  have f_w0_5 : (fin 5 w_ 0 : Fin 32) = m := Fin.ext q_w0_5
  have q_w18_4 : fld w_ 18 4 = l.val := fieldAt hw fw 2 (by simp)
  have f_w18_4 : (fin 4 w_ 18 : Fin 16) = l := Fin.ext q_w18_4
  have q_w6_4 : fld w_ 6 4 = a.val := fieldAt hw fw 5 (by simp)
  have f_w6_4 : (fin 4 w_ 6 : Fin 16) = a := Fin.ext q_w6_4
  have hk : (!w.names m && f.val != 7 : Bool) = true := Instr.operands_of_wf h
  try simp only [Bool.and_eq_true, Bool.or_eq_true, bne_iff_ne, ne_eq, decide_eq_true_eq, beq_iff_eq, Bool.not_eq_true', Bool.and_eq_false_iff, beq_eq_false_iff_ne, not_true_eq_false, false_or, reduceCtorEq, not_false_eq_true, true_or, true_and, and_true] at hk
  refine decode_ld2 15 q_w22_6 rfl q_v28_4 ?_
  delta decodeLdSt
  rw [q_w22_6]
  simp [need, withCode, decodeLe, second, q_v4_6, q_v0_3, f_v0_3, q_v3_1, f_v3, q_w14_4, f_w14_4, q_w10_4, f_w10_4, q_w28_4, ry, q_v28_4, q_v10_18, rw_, q_w5_1, q_w0_5, f_w0_5, q_w18_4, f_w18_4, q_w6_4, f_w6_4, hk]

theorem sct (y : Ring) (l : Fin 16) (k : Fin 16) (x : Fin 16) (a : Fin 16) (m : Fin 32) (w : Waits) (n : Bool) (f : Fin 8) : Statement (.sct y l k x a m w n f) := by
  intro q rest h
  obtain rfl := only_st (Instr.streams_of_wf h)
  have fw : Fits [(4, y.code), (6, 15), (4, l.val), (4, k.val), (4, x.val), (4, a.val), (1, 0), (5, m.val)] := ⟨y.code_lt, by decide, l.isLt, k.isLt, x.isLt, a.isLt, by decide, m.isLt, trivial⟩
  have fv : Fits [(4, 0), (18, w.code), (6, 0), (1, n.toNat), (3, f.val)] := ⟨by decide, w.code_lt, by decide, Bool.toNat_lt n, f.isLt, trivial⟩
  have e_ : encode .st (.sct y l k x a m w n f) = [pack [(4, y.code), (6, 15), (4, l.val), (4, k.val), (4, x.val), (4, a.val), (1, 0), (5, m.val)], pack [(4, 0), (18, w.code), (6, 0), (1, n.toNat), (3, f.val)]] := by
    show [w6 y 0x0F (le l k x a m), snd2 w (n.toNat * 2 ^ 3 + f.val)] = _
    simp only [w6, snd2, le, pack, bits, List.cons.injEq, and_true]; exact ⟨by omega, by omega⟩
  refine roundtrip_two e_ fw rfl fv rfl (fun w_ v_ hw hv => ?_) rest
  have q_v4_6 : fld v_ 4 6 = 0 := fieldAt hv fv 2 (by simp)
  have q_v0_3 : fld v_ 0 3 = f.val := fieldAt hv fv 4 (by simp)
  have f_v0_3 : (fin 3 v_ 0 : Fin 8) = f := Fin.ext q_v0_3
  have q_v3_1 : fld v_ 3 1 = n.toNat := fieldAt hv fv 3 (by simp)
  have f_v3 : flag v_ 3 = n := flag_of q_v3_1
  have q_w14_4 : fld w_ 14 4 = k.val := fieldAt hw fw 3 (by simp)
  have f_w14_4 : (fin 4 w_ 14 : Fin 16) = k := Fin.ext q_w14_4
  have q_w10_4 : fld w_ 10 4 = x.val := fieldAt hw fw 4 (by simp)
  have f_w10_4 : (fin 4 w_ 10 : Fin 16) = x := Fin.ext q_w10_4
  have q_w22_6 : fld w_ 22 6 = 15 := fieldAt hw fw 1 (by simp)
  have q_w28_4 : fld w_ 28 4 = y.code := fieldAt hw fw 0 (by simp)
  have ry : Ring.ofWord w_ = y := Ring.ofWord_of q_w28_4
  have q_v28_4 : fld v_ 28 4 = 0 := fieldAt hv fv 0 (by simp)
  have q_v10_18 : fld v_ 10 18 = w.code := fieldAt hv fv 1 (by simp)
  have rw_ := Waits.ofWord_of q_v10_18
  have q_w5_1 : fld w_ 5 1 = 0 := fieldAt hw fw 6 (by simp)
  have q_w0_5 : fld w_ 0 5 = m.val := fieldAt hw fw 7 (by simp)
  have f_w0_5 : (fin 5 w_ 0 : Fin 32) = m := Fin.ext q_w0_5
  have q_w18_4 : fld w_ 18 4 = l.val := fieldAt hw fw 2 (by simp)
  have f_w18_4 : (fin 4 w_ 18 : Fin 16) = l := Fin.ext q_w18_4
  have q_w6_4 : fld w_ 6 4 = a.val := fieldAt hw fw 5 (by simp)
  have f_w6_4 : (fin 4 w_ 6 : Fin 16) = a := Fin.ext q_w6_4
  have hk : (!w.names m && f.val != 7 : Bool) = true := Instr.operands_of_wf h
  try simp only [Bool.and_eq_true, Bool.or_eq_true, bne_iff_ne, ne_eq, decide_eq_true_eq, beq_iff_eq, Bool.not_eq_true', Bool.and_eq_false_iff, beq_eq_false_iff_ne, not_true_eq_false, false_or, reduceCtorEq, not_false_eq_true, true_or, true_and, and_true] at hk
  refine decode_st2 15 q_w22_6 rfl q_v28_4 ?_
  delta decodeLdSt
  rw [q_w22_6]
  simp [need, withCode, decodeLe, second, q_v4_6, q_v0_3, f_v0_3, q_v3_1, f_v3, q_w14_4, f_w14_4, q_w10_4, f_w10_4, q_w28_4, ry, q_v28_4, q_v10_18, rw_, q_w5_1, q_w0_5, f_w0_5, q_w18_4, f_w18_4, q_w6_4, f_w6_4, hk]

theorem engineCommandStart (c : CoreId) (u : Nat) : Statement (.engineCommandStart c u) := fun _ _ h => (no_stream (Instr.streams_of_wf h)).elim

theorem copyCommandComplete (c : CoreId) (u : Work Nat) : Statement (.copyCommandComplete c u) := fun _ _ h => (no_stream (Instr.streams_of_wf h)).elim

theorem gatherCommandComplete (c : CoreId) (u : Work Nat) : Statement (.gatherCommandComplete c u) := fun _ _ h => (no_stream (Instr.streams_of_wf h)).elim

theorem faddF32 (y : Ring) (d : Opnd) (a : Opnd) (b : Opnd) : Statement (.faddF32 y d a b) := by
  intro q rest h
  obtain rfl := only_ex (Instr.streams_of_wf h)
  exact ex2_word y 0x1A d a b .faddF32 rfl rfl (by decide) (Instr.operands_of_wf h) (fun w hw => by delta decodeEx; rw [hw] <;> rfl) rest

theorem faddBf16 (y : Ring) (d : Opnd) (a : Opnd) (b : Opnd) : Statement (.faddBf16 y d a b) := by
  intro q rest h
  obtain rfl := only_ex (Instr.streams_of_wf h)
  exact ex2_word y 0x1B d a b .faddBf16 rfl rfl (by decide) (Instr.operands_of_wf h) (fun w hw => by delta decodeEx; rw [hw] <;> rfl) rest

theorem fsubF32 (y : Ring) (d : Opnd) (a : Opnd) (b : Opnd) : Statement (.fsubF32 y d a b) := by
  intro q rest h
  obtain rfl := only_ex (Instr.streams_of_wf h)
  exact ex2_word y 0x1C d a b .fsubF32 rfl rfl (by decide) (Instr.operands_of_wf h) (fun w hw => by delta decodeEx; rw [hw] <;> rfl) rest

theorem fsubBf16 (y : Ring) (d : Opnd) (a : Opnd) (b : Opnd) : Statement (.fsubBf16 y d a b) := by
  intro q rest h
  obtain rfl := only_ex (Instr.streams_of_wf h)
  exact ex2_word y 0x1D d a b .fsubBf16 rfl rfl (by decide) (Instr.operands_of_wf h) (fun w hw => by delta decodeEx; rw [hw] <;> rfl) rest

theorem fmulF32 (y : Ring) (d : Opnd) (a : Opnd) (b : Opnd) : Statement (.fmulF32 y d a b) := by
  intro q rest h
  obtain rfl := only_ex (Instr.streams_of_wf h)
  exact ex2_word y 0x1E d a b .fmulF32 rfl rfl (by decide) (Instr.operands_of_wf h) (fun w hw => by delta decodeEx; rw [hw] <;> rfl) rest

theorem fmulBf16 (y : Ring) (d : Opnd) (a : Opnd) (b : Opnd) : Statement (.fmulBf16 y d a b) := by
  intro q rest h
  obtain rfl := only_ex (Instr.streams_of_wf h)
  exact ex2_word y 0x1F d a b .fmulBf16 rfl rfl (by decide) (Instr.operands_of_wf h) (fun w hw => by delta decodeEx; rw [hw] <;> rfl) rest

theorem fmaF32 (y : Ring) (d : Opnd) (a : Opnd) (b : Opnd) : Statement (.fmaF32 y d a b) := by
  intro q rest h
  obtain rfl := only_ex (Instr.streams_of_wf h)
  exact ex3_word y 0x20 d a b .fmaF32 rfl rfl (by decide) (Instr.operands_of_wf h) (fun w hw => by delta decodeEx; rw [hw] <;> rfl) rest

theorem fmaBf16 (y : Ring) (d : Opnd) (a : Opnd) (b : Opnd) : Statement (.fmaBf16 y d a b) := by
  intro q rest h
  obtain rfl := only_ex (Instr.streams_of_wf h)
  exact ex3_word y 0x21 d a b .fmaBf16 rfl rfl (by decide) (Instr.operands_of_wf h) (fun w hw => by delta decodeEx; rw [hw] <;> rfl) rest

theorem fmsF32 (y : Ring) (d : Opnd) (a : Opnd) (b : Opnd) : Statement (.fmsF32 y d a b) := by
  intro q rest h
  obtain rfl := only_ex (Instr.streams_of_wf h)
  exact ex3_word y 0x22 d a b .fmsF32 rfl rfl (by decide) (Instr.operands_of_wf h) (fun w hw => by delta decodeEx; rw [hw] <;> rfl) rest

theorem fmsBf16 (y : Ring) (d : Opnd) (a : Opnd) (b : Opnd) : Statement (.fmsBf16 y d a b) := by
  intro q rest h
  obtain rfl := only_ex (Instr.streams_of_wf h)
  exact ex3_word y 0x23 d a b .fmsBf16 rfl rfl (by decide) (Instr.operands_of_wf h) (fun w hw => by delta decodeEx; rw [hw] <;> rfl) rest

theorem fnmaF32 (y : Ring) (d : Opnd) (a : Opnd) (b : Opnd) : Statement (.fnmaF32 y d a b) := by
  intro q rest h
  obtain rfl := only_ex (Instr.streams_of_wf h)
  exact ex3_word y 0x24 d a b .fnmaF32 rfl rfl (by decide) (Instr.operands_of_wf h) (fun w hw => by delta decodeEx; rw [hw] <;> rfl) rest

theorem fnmaBf16 (y : Ring) (d : Opnd) (a : Opnd) (b : Opnd) : Statement (.fnmaBf16 y d a b) := by
  intro q rest h
  obtain rfl := only_ex (Instr.streams_of_wf h)
  exact ex3_word y 0x25 d a b .fnmaBf16 rfl rfl (by decide) (Instr.operands_of_wf h) (fun w hw => by delta decodeEx; rw [hw] <;> rfl) rest

theorem fmaxF32 (y : Ring) (d : Opnd) (a : Opnd) (b : Opnd) : Statement (.fmaxF32 y d a b) := by
  intro q rest h
  obtain rfl := only_ex (Instr.streams_of_wf h)
  exact ex2_word y 0x26 d a b .fmaxF32 rfl rfl (by decide) (Instr.operands_of_wf h) (fun w hw => by delta decodeEx; rw [hw] <;> rfl) rest

theorem fmaxBf16 (y : Ring) (d : Opnd) (a : Opnd) (b : Opnd) : Statement (.fmaxBf16 y d a b) := by
  intro q rest h
  obtain rfl := only_ex (Instr.streams_of_wf h)
  exact ex2_word y 0x27 d a b .fmaxBf16 rfl rfl (by decide) (Instr.operands_of_wf h) (fun w hw => by delta decodeEx; rw [hw] <;> rfl) rest

theorem fminF32 (y : Ring) (d : Opnd) (a : Opnd) (b : Opnd) : Statement (.fminF32 y d a b) := by
  intro q rest h
  obtain rfl := only_ex (Instr.streams_of_wf h)
  exact ex2_word y 0x28 d a b .fminF32 rfl rfl (by decide) (Instr.operands_of_wf h) (fun w hw => by delta decodeEx; rw [hw] <;> rfl) rest

theorem fminBf16 (y : Ring) (d : Opnd) (a : Opnd) (b : Opnd) : Statement (.fminBf16 y d a b) := by
  intro q rest h
  obtain rfl := only_ex (Instr.streams_of_wf h)
  exact ex2_word y 0x29 d a b .fminBf16 rfl rfl (by decide) (Instr.operands_of_wf h) (fun w hw => by delta decodeEx; rw [hw] <;> rfl) rest

theorem fcmpF32 (y : Ring) (c : Cond) (m : Fin 8) (a : Opnd) (b : Opnd) : Statement (.fcmpF32 y c m a b) := by
  intro q rest h
  obtain rfl := only_ex (Instr.streams_of_wf h)
  exact exCmp_word y 0x2A Cond.fcmpOk c m a b .fcmpF32 rfl rfl (by decide) (Instr.operands_of_wf h) (fun w hw => by delta decodeEx; rw [hw] <;> rfl) rest

theorem fcmpBf16 (y : Ring) (c : Cond) (m : Fin 8) (a : Opnd) (b : Opnd) : Statement (.fcmpBf16 y c m a b) := by
  intro q rest h
  obtain rfl := only_ex (Instr.streams_of_wf h)
  exact exCmp_word y 0x2B Cond.fcmpOk c m a b .fcmpBf16 rfl rfl (by decide) (Instr.operands_of_wf h) (fun w hw => by delta decodeEx; rw [hw] <;> rfl) rest

theorem fselF32 (y : Ring) (d : Opnd) (a : Opnd) (b : Opnd) : Statement (.fselF32 y d a b) := by
  intro q rest h
  obtain rfl := only_ex (Instr.streams_of_wf h)
  exact ex2_word y 0x2C d a b .fselF32 rfl rfl (by decide) (Instr.operands_of_wf h) (fun w hw => by delta decodeEx; rw [hw] <;> rfl) rest

theorem fselBf16 (y : Ring) (d : Opnd) (a : Opnd) (b : Opnd) : Statement (.fselBf16 y d a b) := by
  intro q rest h
  obtain rfl := only_ex (Instr.streams_of_wf h)
  exact ex2_word y 0x2D d a b .fselBf16 rfl rfl (by decide) (Instr.operands_of_wf h) (fun w hw => by delta decodeEx; rw [hw] <;> rfl) rest

theorem funaF32 (y : Ring) (d : Opnd) (a : Opnd) (o : FunaOp) : Statement (.funaF32 y d a o) := by
  intro q rest h
  obtain rfl := only_ex (Instr.streams_of_wf h)
  have fw : Fits [(4, y.code), (7, 46), (7, d.code), (7, a.code), (7, o.code)] := ⟨y.code_lt, by decide, d.code_lt, a.code_lt, o.code_lt, trivial⟩
  have e_ : encode .ex (.funaF32 y d a o) = [pack [(4, y.code), (7, 46), (7, d.code), (7, a.code), (7, o.code)]] := by
    show [w7 y 0x2E (e3 d.code a.code o.code)] = _
    simp only [w7, e3, pack, bits, List.cons.injEq, and_true]; omega
  refine roundtrip_one e_ fw rfl (fun w_ hw _ => ?_) rest
  have q_w0_7 : fld w_ 0 7 = o.code := fieldAt hw fw 4 (by simp)
  have q_w21_7 : fld w_ 21 7 = 46 := fieldAt hw fw 1 (by simp)
  have q_w28_4 : fld w_ 28 4 = y.code := fieldAt hw fw 0 (by simp)
  have ry : Ring.ofWord w_ = y := Ring.ofWord_of q_w28_4
  have q_w7_7 : fld w_ 7 7 = a.code := fieldAt hw fw 3 (by simp)
  have q_w14_7 : fld w_ 14 7 = d.code := fieldAt hw fw 2 (by simp)
  have hk : (d.dst && a.src : Bool) = true := Instr.operands_of_wf h
  try simp only [Bool.and_eq_true, Bool.or_eq_true, bne_iff_ne, ne_eq, decide_eq_true_eq, beq_iff_eq, Bool.not_eq_true', Bool.and_eq_false_iff, beq_eq_false_iff_ne, not_true_eq_false, false_or, reduceCtorEq, not_false_eq_true, true_or, true_and, and_true] at hk
  refine decode_ex1 46 q_w21_7 (by decide) ?_
  delta decodeEx
  rw [q_w21_7]
  simp [need, withCode, ex1_of q_w14_7 q_w7_7 (by simp [hk]), q_w0_7, q_w28_4, ry, q_w7_7, q_w14_7, Opnd.ofCode_code, FunaOp.ofCode_code, hk]

theorem exp2F32 (y : Ring) (d : Opnd) (a : Opnd) : Statement (.exp2F32 y d a) := by
  intro q rest h
  obtain rfl := only_ex (Instr.streams_of_wf h)
  exact ex1z_word y 0x2F d a .exp2F32 rfl rfl (by decide) (Instr.operands_of_wf h) (fun w hw => by delta decodeEx; rw [hw] <;> rfl) rest

theorem lg2F32 (y : Ring) (d : Opnd) (a : Opnd) : Statement (.lg2F32 y d a) := by
  intro q rest h
  obtain rfl := only_ex (Instr.streams_of_wf h)
  exact ex1z_word y 0x30 d a .lg2F32 rfl rfl (by decide) (Instr.operands_of_wf h) (fun w hw => by delta decodeEx; rw [hw] <;> rfl) rest

theorem rcpF32 (y : Ring) (d : Opnd) (a : Opnd) : Statement (.rcpF32 y d a) := by
  intro q rest h
  obtain rfl := only_ex (Instr.streams_of_wf h)
  exact ex1z_word y 0x31 d a .rcpF32 rfl rfl (by decide) (Instr.operands_of_wf h) (fun w hw => by delta decodeEx; rw [hw] <;> rfl) rest

theorem rsqF32 (y : Ring) (d : Opnd) (a : Opnd) : Statement (.rsqF32 y d a) := by
  intro q rest h
  obtain rfl := only_ex (Instr.streams_of_wf h)
  exact ex1z_word y 0x32 d a .rsqF32 rfl rfl (by decide) (Instr.operands_of_wf h) (fun w hw => by delta decodeEx; rw [hw] <;> rfl) rest

theorem iaddI32 (y : Ring) (d : Opnd) (a : Opnd) (b : Opnd) : Statement (.iaddI32 y d a b) := by
  intro q rest h
  obtain rfl := only_ex (Instr.streams_of_wf h)
  exact ex2_word y 0x33 d a b .iaddI32 rfl rfl (by decide) (Instr.operands_of_wf h) (fun w hw => by delta decodeEx; rw [hw] <;> rfl) rest

theorem iaddI16 (y : Ring) (d : Opnd) (a : Opnd) (b : Opnd) : Statement (.iaddI16 y d a b) := by
  intro q rest h
  obtain rfl := only_ex (Instr.streams_of_wf h)
  exact ex2_word y 0x34 d a b .iaddI16 rfl rfl (by decide) (Instr.operands_of_wf h) (fun w hw => by delta decodeEx; rw [hw] <;> rfl) rest

theorem iaddI8 (y : Ring) (d : Opnd) (a : Opnd) (b : Opnd) : Statement (.iaddI8 y d a b) := by
  intro q rest h
  obtain rfl := only_ex (Instr.streams_of_wf h)
  exact ex2_word y 0x35 d a b .iaddI8 rfl rfl (by decide) (Instr.operands_of_wf h) (fun w hw => by delta decodeEx; rw [hw] <;> rfl) rest

theorem iaddI32S (y : Ring) (d : Opnd) (a : Opnd) (b : Opnd) : Statement (.iaddI32S y d a b) := by
  intro q rest h
  obtain rfl := only_ex (Instr.streams_of_wf h)
  exact ex2_word y 0x36 d a b .iaddI32S rfl rfl (by decide) (Instr.operands_of_wf h) (fun w hw => by delta decodeEx; rw [hw] <;> rfl) rest

theorem iaddI16S (y : Ring) (d : Opnd) (a : Opnd) (b : Opnd) : Statement (.iaddI16S y d a b) := by
  intro q rest h
  obtain rfl := only_ex (Instr.streams_of_wf h)
  exact ex2_word y 0x37 d a b .iaddI16S rfl rfl (by decide) (Instr.operands_of_wf h) (fun w hw => by delta decodeEx; rw [hw] <;> rfl) rest

theorem iaddI8S (y : Ring) (d : Opnd) (a : Opnd) (b : Opnd) : Statement (.iaddI8S y d a b) := by
  intro q rest h
  obtain rfl := only_ex (Instr.streams_of_wf h)
  exact ex2_word y 0x38 d a b .iaddI8S rfl rfl (by decide) (Instr.operands_of_wf h) (fun w hw => by delta decodeEx; rw [hw] <;> rfl) rest

theorem iaddN32S (y : Ring) (d : Opnd) (a : Opnd) (b : Opnd) : Statement (.iaddN32S y d a b) := by
  intro q rest h
  obtain rfl := only_ex (Instr.streams_of_wf h)
  exact ex2_word y 0x39 d a b .iaddN32S rfl rfl (by decide) (Instr.operands_of_wf h) (fun w hw => by delta decodeEx; rw [hw] <;> rfl) rest

theorem iaddN16S (y : Ring) (d : Opnd) (a : Opnd) (b : Opnd) : Statement (.iaddN16S y d a b) := by
  intro q rest h
  obtain rfl := only_ex (Instr.streams_of_wf h)
  exact ex2_word y 0x3A d a b .iaddN16S rfl rfl (by decide) (Instr.operands_of_wf h) (fun w hw => by delta decodeEx; rw [hw] <;> rfl) rest

theorem iaddN8S (y : Ring) (d : Opnd) (a : Opnd) (b : Opnd) : Statement (.iaddN8S y d a b) := by
  intro q rest h
  obtain rfl := only_ex (Instr.streams_of_wf h)
  exact ex2_word y 0x3B d a b .iaddN8S rfl rfl (by decide) (Instr.operands_of_wf h) (fun w hw => by delta decodeEx; rw [hw] <;> rfl) rest

theorem isubI32 (y : Ring) (d : Opnd) (a : Opnd) (b : Opnd) : Statement (.isubI32 y d a b) := by
  intro q rest h
  obtain rfl := only_ex (Instr.streams_of_wf h)
  exact ex2_word y 0x3C d a b .isubI32 rfl rfl (by decide) (Instr.operands_of_wf h) (fun w hw => by delta decodeEx; rw [hw] <;> rfl) rest

theorem isubI16 (y : Ring) (d : Opnd) (a : Opnd) (b : Opnd) : Statement (.isubI16 y d a b) := by
  intro q rest h
  obtain rfl := only_ex (Instr.streams_of_wf h)
  exact ex2_word y 0x3D d a b .isubI16 rfl rfl (by decide) (Instr.operands_of_wf h) (fun w hw => by delta decodeEx; rw [hw] <;> rfl) rest

theorem isubI8 (y : Ring) (d : Opnd) (a : Opnd) (b : Opnd) : Statement (.isubI8 y d a b) := by
  intro q rest h
  obtain rfl := only_ex (Instr.streams_of_wf h)
  exact ex2_word y 0x3E d a b .isubI8 rfl rfl (by decide) (Instr.operands_of_wf h) (fun w hw => by delta decodeEx; rw [hw] <;> rfl) rest

theorem isubI32S (y : Ring) (d : Opnd) (a : Opnd) (b : Opnd) : Statement (.isubI32S y d a b) := by
  intro q rest h
  obtain rfl := only_ex (Instr.streams_of_wf h)
  exact ex2_word y 0x3F d a b .isubI32S rfl rfl (by decide) (Instr.operands_of_wf h) (fun w hw => by delta decodeEx; rw [hw] <;> rfl) rest

theorem isubI16S (y : Ring) (d : Opnd) (a : Opnd) (b : Opnd) : Statement (.isubI16S y d a b) := by
  intro q rest h
  obtain rfl := only_ex (Instr.streams_of_wf h)
  exact ex2_word y 0x40 d a b .isubI16S rfl rfl (by decide) (Instr.operands_of_wf h) (fun w hw => by delta decodeEx; rw [hw] <;> rfl) rest

theorem isubI8S (y : Ring) (d : Opnd) (a : Opnd) (b : Opnd) : Statement (.isubI8S y d a b) := by
  intro q rest h
  obtain rfl := only_ex (Instr.streams_of_wf h)
  exact ex2_word y 0x41 d a b .isubI8S rfl rfl (by decide) (Instr.operands_of_wf h) (fun w hw => by delta decodeEx; rw [hw] <;> rfl) rest

theorem isubN32S (y : Ring) (d : Opnd) (a : Opnd) (b : Opnd) : Statement (.isubN32S y d a b) := by
  intro q rest h
  obtain rfl := only_ex (Instr.streams_of_wf h)
  exact ex2_word y 0x42 d a b .isubN32S rfl rfl (by decide) (Instr.operands_of_wf h) (fun w hw => by delta decodeEx; rw [hw] <;> rfl) rest

theorem isubN16S (y : Ring) (d : Opnd) (a : Opnd) (b : Opnd) : Statement (.isubN16S y d a b) := by
  intro q rest h
  obtain rfl := only_ex (Instr.streams_of_wf h)
  exact ex2_word y 0x43 d a b .isubN16S rfl rfl (by decide) (Instr.operands_of_wf h) (fun w hw => by delta decodeEx; rw [hw] <;> rfl) rest

theorem isubN8S (y : Ring) (d : Opnd) (a : Opnd) (b : Opnd) : Statement (.isubN8S y d a b) := by
  intro q rest h
  obtain rfl := only_ex (Instr.streams_of_wf h)
  exact ex2_word y 0x44 d a b .isubN8S rfl rfl (by decide) (Instr.operands_of_wf h) (fun w hw => by delta decodeEx; rw [hw] <;> rfl) rest

theorem imulI32 (y : Ring) (d : Opnd) (a : Opnd) (b : Opnd) : Statement (.imulI32 y d a b) := by
  intro q rest h
  obtain rfl := only_ex (Instr.streams_of_wf h)
  exact ex2_word y 0x45 d a b .imulI32 rfl rfl (by decide) (Instr.operands_of_wf h) (fun w hw => by delta decodeEx; rw [hw] <;> rfl) rest

theorem imulI16 (y : Ring) (d : Opnd) (a : Opnd) (b : Opnd) : Statement (.imulI16 y d a b) := by
  intro q rest h
  obtain rfl := only_ex (Instr.streams_of_wf h)
  exact ex2_word y 0x46 d a b .imulI16 rfl rfl (by decide) (Instr.operands_of_wf h) (fun w hw => by delta decodeEx; rw [hw] <;> rfl) rest

theorem imulI8 (y : Ring) (d : Opnd) (a : Opnd) (b : Opnd) : Statement (.imulI8 y d a b) := by
  intro q rest h
  obtain rfl := only_ex (Instr.streams_of_wf h)
  exact ex2_word y 0x47 d a b .imulI8 rfl rfl (by decide) (Instr.operands_of_wf h) (fun w hw => by delta decodeEx; rw [hw] <;> rfl) rest

theorem imacI32 (y : Ring) (d : Opnd) (a : Opnd) (b : Opnd) : Statement (.imacI32 y d a b) := by
  intro q rest h
  obtain rfl := only_ex (Instr.streams_of_wf h)
  exact ex3_word y 0x48 d a b .imacI32 rfl rfl (by decide) (Instr.operands_of_wf h) (fun w hw => by delta decodeEx; rw [hw] <;> rfl) rest

theorem imacI16 (y : Ring) (d : Opnd) (a : Opnd) (b : Opnd) : Statement (.imacI16 y d a b) := by
  intro q rest h
  obtain rfl := only_ex (Instr.streams_of_wf h)
  exact ex3_word y 0x49 d a b .imacI16 rfl rfl (by decide) (Instr.operands_of_wf h) (fun w hw => by delta decodeEx; rw [hw] <;> rfl) rest

theorem imacI8 (y : Ring) (d : Opnd) (a : Opnd) (b : Opnd) : Statement (.imacI8 y d a b) := by
  intro q rest h
  obtain rfl := only_ex (Instr.streams_of_wf h)
  exact ex3_word y 0x4A d a b .imacI8 rfl rfl (by decide) (Instr.operands_of_wf h) (fun w hw => by delta decodeEx; rw [hw] <;> rfl) rest

theorem iand (y : Ring) (d : Opnd) (a : Opnd) (b : Opnd) : Statement (.iand y d a b) := by
  intro q rest h
  obtain rfl := only_ex (Instr.streams_of_wf h)
  exact ex2_word y 0x4B d a b .iand rfl rfl (by decide) (Instr.operands_of_wf h) (fun w hw => by delta decodeEx; rw [hw] <;> rfl) rest

theorem ior (y : Ring) (d : Opnd) (a : Opnd) (b : Opnd) : Statement (.ior y d a b) := by
  intro q rest h
  obtain rfl := only_ex (Instr.streams_of_wf h)
  exact ex2_word y 0x4C d a b .ior rfl rfl (by decide) (Instr.operands_of_wf h) (fun w hw => by delta decodeEx; rw [hw] <;> rfl) rest

theorem ixor (y : Ring) (d : Opnd) (a : Opnd) (b : Opnd) : Statement (.ixor y d a b) := by
  intro q rest h
  obtain rfl := only_ex (Instr.streams_of_wf h)
  exact ex2_word y 0x4D d a b .ixor rfl rfl (by decide) (Instr.operands_of_wf h) (fun w hw => by delta decodeEx; rw [hw] <;> rfl) rest

theorem ishlI32 (y : Ring) (d : Opnd) (a : Opnd) (b : Opnd) : Statement (.ishlI32 y d a b) := by
  intro q rest h
  obtain rfl := only_ex (Instr.streams_of_wf h)
  exact ex2_word y 0x4E d a b .ishlI32 rfl rfl (by decide) (Instr.operands_of_wf h) (fun w hw => by delta decodeEx; rw [hw] <;> rfl) rest

theorem ishlI16 (y : Ring) (d : Opnd) (a : Opnd) (b : Opnd) : Statement (.ishlI16 y d a b) := by
  intro q rest h
  obtain rfl := only_ex (Instr.streams_of_wf h)
  exact ex2_word y 0x4F d a b .ishlI16 rfl rfl (by decide) (Instr.operands_of_wf h) (fun w hw => by delta decodeEx; rw [hw] <;> rfl) rest

theorem ishlI8 (y : Ring) (d : Opnd) (a : Opnd) (b : Opnd) : Statement (.ishlI8 y d a b) := by
  intro q rest h
  obtain rfl := only_ex (Instr.streams_of_wf h)
  exact ex2_word y 0x50 d a b .ishlI8 rfl rfl (by decide) (Instr.operands_of_wf h) (fun w hw => by delta decodeEx; rw [hw] <;> rfl) rest

theorem ishrI32 (y : Ring) (d : Opnd) (a : Opnd) (b : Opnd) : Statement (.ishrI32 y d a b) := by
  intro q rest h
  obtain rfl := only_ex (Instr.streams_of_wf h)
  exact ex2_word y 0x51 d a b .ishrI32 rfl rfl (by decide) (Instr.operands_of_wf h) (fun w hw => by delta decodeEx; rw [hw] <;> rfl) rest

theorem ishrI16 (y : Ring) (d : Opnd) (a : Opnd) (b : Opnd) : Statement (.ishrI16 y d a b) := by
  intro q rest h
  obtain rfl := only_ex (Instr.streams_of_wf h)
  exact ex2_word y 0x52 d a b .ishrI16 rfl rfl (by decide) (Instr.operands_of_wf h) (fun w hw => by delta decodeEx; rw [hw] <;> rfl) rest

theorem ishrI8 (y : Ring) (d : Opnd) (a : Opnd) (b : Opnd) : Statement (.ishrI8 y d a b) := by
  intro q rest h
  obtain rfl := only_ex (Instr.streams_of_wf h)
  exact ex2_word y 0x53 d a b .ishrI8 rfl rfl (by decide) (Instr.operands_of_wf h) (fun w hw => by delta decodeEx; rw [hw] <;> rfl) rest

theorem israI32 (y : Ring) (d : Opnd) (a : Opnd) (b : Opnd) : Statement (.israI32 y d a b) := by
  intro q rest h
  obtain rfl := only_ex (Instr.streams_of_wf h)
  exact ex2_word y 0x54 d a b .israI32 rfl rfl (by decide) (Instr.operands_of_wf h) (fun w hw => by delta decodeEx; rw [hw] <;> rfl) rest

theorem israI16 (y : Ring) (d : Opnd) (a : Opnd) (b : Opnd) : Statement (.israI16 y d a b) := by
  intro q rest h
  obtain rfl := only_ex (Instr.streams_of_wf h)
  exact ex2_word y 0x55 d a b .israI16 rfl rfl (by decide) (Instr.operands_of_wf h) (fun w hw => by delta decodeEx; rw [hw] <;> rfl) rest

theorem israI8 (y : Ring) (d : Opnd) (a : Opnd) (b : Opnd) : Statement (.israI8 y d a b) := by
  intro q rest h
  obtain rfl := only_ex (Instr.streams_of_wf h)
  exact ex2_word y 0x56 d a b .israI8 rfl rfl (by decide) (Instr.operands_of_wf h) (fun w hw => by delta decodeEx; rw [hw] <;> rfl) rest

theorem iminI32 (y : Ring) (d : Opnd) (a : Opnd) (b : Opnd) : Statement (.iminI32 y d a b) := by
  intro q rest h
  obtain rfl := only_ex (Instr.streams_of_wf h)
  exact ex2_word y 0x57 d a b .iminI32 rfl rfl (by decide) (Instr.operands_of_wf h) (fun w hw => by delta decodeEx; rw [hw] <;> rfl) rest

theorem iminI16 (y : Ring) (d : Opnd) (a : Opnd) (b : Opnd) : Statement (.iminI16 y d a b) := by
  intro q rest h
  obtain rfl := only_ex (Instr.streams_of_wf h)
  exact ex2_word y 0x58 d a b .iminI16 rfl rfl (by decide) (Instr.operands_of_wf h) (fun w hw => by delta decodeEx; rw [hw] <;> rfl) rest

theorem iminI8 (y : Ring) (d : Opnd) (a : Opnd) (b : Opnd) : Statement (.iminI8 y d a b) := by
  intro q rest h
  obtain rfl := only_ex (Instr.streams_of_wf h)
  exact ex2_word y 0x59 d a b .iminI8 rfl rfl (by decide) (Instr.operands_of_wf h) (fun w hw => by delta decodeEx; rw [hw] <;> rfl) rest

theorem iminN32 (y : Ring) (d : Opnd) (a : Opnd) (b : Opnd) : Statement (.iminN32 y d a b) := by
  intro q rest h
  obtain rfl := only_ex (Instr.streams_of_wf h)
  exact ex2_word y 0x5A d a b .iminN32 rfl rfl (by decide) (Instr.operands_of_wf h) (fun w hw => by delta decodeEx; rw [hw] <;> rfl) rest

theorem iminN16 (y : Ring) (d : Opnd) (a : Opnd) (b : Opnd) : Statement (.iminN16 y d a b) := by
  intro q rest h
  obtain rfl := only_ex (Instr.streams_of_wf h)
  exact ex2_word y 0x5B d a b .iminN16 rfl rfl (by decide) (Instr.operands_of_wf h) (fun w hw => by delta decodeEx; rw [hw] <;> rfl) rest

theorem iminN8 (y : Ring) (d : Opnd) (a : Opnd) (b : Opnd) : Statement (.iminN8 y d a b) := by
  intro q rest h
  obtain rfl := only_ex (Instr.streams_of_wf h)
  exact ex2_word y 0x5C d a b .iminN8 rfl rfl (by decide) (Instr.operands_of_wf h) (fun w hw => by delta decodeEx; rw [hw] <;> rfl) rest

theorem imaxI32 (y : Ring) (d : Opnd) (a : Opnd) (b : Opnd) : Statement (.imaxI32 y d a b) := by
  intro q rest h
  obtain rfl := only_ex (Instr.streams_of_wf h)
  exact ex2_word y 0x5D d a b .imaxI32 rfl rfl (by decide) (Instr.operands_of_wf h) (fun w hw => by delta decodeEx; rw [hw] <;> rfl) rest

theorem imaxI16 (y : Ring) (d : Opnd) (a : Opnd) (b : Opnd) : Statement (.imaxI16 y d a b) := by
  intro q rest h
  obtain rfl := only_ex (Instr.streams_of_wf h)
  exact ex2_word y 0x5E d a b .imaxI16 rfl rfl (by decide) (Instr.operands_of_wf h) (fun w hw => by delta decodeEx; rw [hw] <;> rfl) rest

theorem imaxI8 (y : Ring) (d : Opnd) (a : Opnd) (b : Opnd) : Statement (.imaxI8 y d a b) := by
  intro q rest h
  obtain rfl := only_ex (Instr.streams_of_wf h)
  exact ex2_word y 0x5F d a b .imaxI8 rfl rfl (by decide) (Instr.operands_of_wf h) (fun w hw => by delta decodeEx; rw [hw] <;> rfl) rest

theorem imaxN32 (y : Ring) (d : Opnd) (a : Opnd) (b : Opnd) : Statement (.imaxN32 y d a b) := by
  intro q rest h
  obtain rfl := only_ex (Instr.streams_of_wf h)
  exact ex2_word y 0x60 d a b .imaxN32 rfl rfl (by decide) (Instr.operands_of_wf h) (fun w hw => by delta decodeEx; rw [hw] <;> rfl) rest

theorem imaxN16 (y : Ring) (d : Opnd) (a : Opnd) (b : Opnd) : Statement (.imaxN16 y d a b) := by
  intro q rest h
  obtain rfl := only_ex (Instr.streams_of_wf h)
  exact ex2_word y 0x61 d a b .imaxN16 rfl rfl (by decide) (Instr.operands_of_wf h) (fun w hw => by delta decodeEx; rw [hw] <;> rfl) rest

theorem imaxN8 (y : Ring) (d : Opnd) (a : Opnd) (b : Opnd) : Statement (.imaxN8 y d a b) := by
  intro q rest h
  obtain rfl := only_ex (Instr.streams_of_wf h)
  exact ex2_word y 0x62 d a b .imaxN8 rfl rfl (by decide) (Instr.operands_of_wf h) (fun w hw => by delta decodeEx; rw [hw] <;> rfl) rest

theorem icmpI32 (y : Ring) (c : Cond) (m : Fin 8) (a : Opnd) (b : Opnd) : Statement (.icmpI32 y c m a b) := by
  intro q rest h
  obtain rfl := only_ex (Instr.streams_of_wf h)
  exact exCmp_word y 0x63 Cond.intOk c m a b .icmpI32 rfl rfl (by decide) (Instr.operands_of_wf h) (fun w hw => by delta decodeEx; rw [hw] <;> rfl) rest

theorem icmpI16 (y : Ring) (c : Cond) (m : Fin 8) (a : Opnd) (b : Opnd) : Statement (.icmpI16 y c m a b) := by
  intro q rest h
  obtain rfl := only_ex (Instr.streams_of_wf h)
  exact exCmp_word y 0x64 Cond.intOk c m a b .icmpI16 rfl rfl (by decide) (Instr.operands_of_wf h) (fun w hw => by delta decodeEx; rw [hw] <;> rfl) rest

theorem icmpI8 (y : Ring) (c : Cond) (m : Fin 8) (a : Opnd) (b : Opnd) : Statement (.icmpI8 y c m a b) := by
  intro q rest h
  obtain rfl := only_ex (Instr.streams_of_wf h)
  exact exCmp_word y 0x65 Cond.intOk c m a b .icmpI8 rfl rfl (by decide) (Instr.operands_of_wf h) (fun w hw => by delta decodeEx; rw [hw] <;> rfl) rest

theorem mov (y : Ring) (d : Opnd) (a : Opnd) : Statement (.mov y d a) := by
  intro q rest h
  obtain rfl := only_ex (Instr.streams_of_wf h)
  have fw : Fits [(4, y.code), (7, 102), (7, d.code), (7, a.code), (4, 0), (3, 0)] := ⟨y.code_lt, by decide, d.code_lt, a.code_lt, by decide, by decide, trivial⟩
  have e_ : encode .ex (.mov y d a) = [pack [(4, y.code), (7, 102), (7, d.code), (7, a.code), (4, 0), (3, 0)]] := by
    show [w7 y 0x66 (e3 d.code a.code 0)] = _
    simp only [w7, e3, pack, bits, List.cons.injEq, and_true]; omega
  refine roundtrip_one e_ fw rfl (fun w_ hw _ => ?_) rest
  have q_w3_4 : fld w_ 3 4 = 0 := fieldAt hw fw 4 (by simp)
  have q_w0_3 : fld w_ 0 3 = 0 := fieldAt hw fw 5 (by simp)
  have q_w0_7 : fld w_ 0 7 = 0 := by simp only [fld] at q_w3_4 q_w0_3 ⊢; omega
  have q_w21_7 : fld w_ 21 7 = 102 := fieldAt hw fw 1 (by simp)
  have q_w28_4 : fld w_ 28 4 = y.code := fieldAt hw fw 0 (by simp)
  have ry : Ring.ofWord w_ = y := Ring.ofWord_of q_w28_4
  have q_w7_7 : fld w_ 7 7 = a.code := fieldAt hw fw 3 (by simp)
  have q_w14_7 : fld w_ 14 7 = d.code := fieldAt hw fw 2 (by simp)
  have hk : (d.dst && a.src : Bool) = true := Instr.operands_of_wf h
  try simp only [Bool.and_eq_true, Bool.or_eq_true, bne_iff_ne, ne_eq, decide_eq_true_eq, beq_iff_eq, Bool.not_eq_true', Bool.and_eq_false_iff, beq_eq_false_iff_ne, not_true_eq_false, false_or, reduceCtorEq, not_false_eq_true, true_or, true_and, and_true] at hk
  refine decode_ex1 102 q_w21_7 (by decide) ?_
  delta decodeEx
  rw [q_w21_7]
  simp [need, withCode, ex1_of q_w14_7 q_w7_7 (by simp [hk]), q_w3_4, q_w0_3, q_w0_7, q_w28_4, ry, q_w7_7, q_w14_7, Opnd.ofCode_code, hk]

theorem movMasked (y : Ring) (d : Opnd) (a : Opnd) (m : Fin 8) : Statement (.movMasked y d a m) := by
  intro q rest h
  obtain rfl := only_ex (Instr.streams_of_wf h)
  have fw : Fits [(4, y.code), (7, 102), (7, d.code), (7, a.code), (4, 1), (3, m.val)] := ⟨y.code_lt, by decide, d.code_lt, a.code_lt, by decide, m.isLt, trivial⟩
  have e_ : encode .ex (.movMasked y d a m) = [pack [(4, y.code), (7, 102), (7, d.code), (7, a.code), (4, 1), (3, m.val)]] := by
    show [w7 y 0x66 (e3 d.code a.code (8 + m.val))] = _
    simp only [w7, e3, pack, bits, List.cons.injEq, and_true]; omega
  refine roundtrip_one e_ fw rfl (fun w_ hw _ => ?_) rest
  have q_w3_4 : fld w_ 3 4 = 1 := fieldAt hw fw 4 (by simp)
  have q_w0_3 : fld w_ 0 3 = m.val := fieldAt hw fw 5 (by simp)
  have q_w0_7 : fld w_ 0 7 = 1 * 8 + m.val := by simp only [fld] at q_w3_4 q_w0_3 ⊢; omega
  have f_w0_3 : (fin 3 w_ 0 : Fin 8) = m := Fin.ext q_w0_3
  have q_w21_7 : fld w_ 21 7 = 102 := fieldAt hw fw 1 (by simp)
  have q_w28_4 : fld w_ 28 4 = y.code := fieldAt hw fw 0 (by simp)
  have ry : Ring.ofWord w_ = y := Ring.ofWord_of q_w28_4
  have q_w7_7 : fld w_ 7 7 = a.code := fieldAt hw fw 3 (by simp)
  have q_w14_7 : fld w_ 14 7 = d.code := fieldAt hw fw 2 (by simp)
  have hk : (d.dst && a.src : Bool) = true := Instr.operands_of_wf h
  try simp only [Bool.and_eq_true, Bool.or_eq_true, bne_iff_ne, ne_eq, decide_eq_true_eq, beq_iff_eq, Bool.not_eq_true', Bool.and_eq_false_iff, beq_eq_false_iff_ne, not_true_eq_false, false_or, reduceCtorEq, not_false_eq_true, true_or, true_and, and_true] at hk
  refine decode_ex1 102 q_w21_7 (by decide) ?_
  delta decodeEx
  rw [q_w21_7]
  simp [need, withCode, ex1_of q_w14_7 q_w7_7 (by simp [hk]), q_w3_4, q_w0_3, q_w0_7, f_w0_3, q_w28_4, ry, q_w7_7, q_w14_7, Opnd.ofCode_code, hk]

theorem bcst (y : Ring) (d : Opnd) (a : Opnd) (c : Fin 64) : Statement (.bcst y d a c) := by
  intro q rest h
  obtain rfl := only_ex (Instr.streams_of_wf h)
  have fw : Fits [(4, y.code), (7, 103), (7, d.code), (7, a.code), (1, 0), (6, c.val)] := ⟨y.code_lt, by decide, d.code_lt, a.code_lt, by decide, c.isLt, trivial⟩
  have e_ : encode .ex (.bcst y d a c) = [pack [(4, y.code), (7, 103), (7, d.code), (7, a.code), (1, 0), (6, c.val)]] := by
    show [w7 y 0x67 (e3 d.code a.code c.val)] = _
    simp only [w7, e3, pack, bits, List.cons.injEq, and_true]; omega
  refine roundtrip_one e_ fw rfl (fun w_ hw _ => ?_) rest
  have q_w6_1 : fld w_ 6 1 = 0 := fieldAt hw fw 4 (by simp)
  have q_w0_6 : fld w_ 0 6 = c.val := fieldAt hw fw 5 (by simp)
  have f_w0_6 : (fin 6 w_ 0 : Fin 64) = c := Fin.ext q_w0_6
  have q_w21_7 : fld w_ 21 7 = 103 := fieldAt hw fw 1 (by simp)
  have q_w28_4 : fld w_ 28 4 = y.code := fieldAt hw fw 0 (by simp)
  have ry : Ring.ofWord w_ = y := Ring.ofWord_of q_w28_4
  have q_w7_7 : fld w_ 7 7 = a.code := fieldAt hw fw 3 (by simp)
  have q_w14_7 : fld w_ 14 7 = d.code := fieldAt hw fw 2 (by simp)
  have hk : (d.dst && a.src : Bool) = true := Instr.operands_of_wf h
  try simp only [Bool.and_eq_true, Bool.or_eq_true, bne_iff_ne, ne_eq, decide_eq_true_eq, beq_iff_eq, Bool.not_eq_true', Bool.and_eq_false_iff, beq_eq_false_iff_ne, not_true_eq_false, false_or, reduceCtorEq, not_false_eq_true, true_or, true_and, and_true] at hk
  refine decode_ex1 103 q_w21_7 (by decide) ?_
  delta decodeEx
  rw [q_w21_7]
  simp [need, withCode, ex1_of q_w14_7 q_w7_7 (by simp [hk]), q_w6_1, q_w0_6, f_w0_6, q_w28_4, ry, q_w7_7, q_w14_7, Opnd.ofCode_code, hk]

theorem perm (y : Ring) (d : Opnd) (a : Opnd) (b : Opnd) : Statement (.perm y d a b) := by
  intro q rest h
  obtain rfl := only_ex (Instr.streams_of_wf h)
  exact ex2_word y 0x68 d a b .perm rfl rfl (by decide) (Instr.operands_of_wf h) (fun w hw => by delta decodeEx; rw [hw] <;> rfl) rest

theorem rot (y : Ring) (d : Opnd) (a : Opnd) (c : Fin 64) : Statement (.rot y d a c) := by
  intro q rest h
  obtain rfl := only_ex (Instr.streams_of_wf h)
  have fw : Fits [(4, y.code), (7, 105), (7, d.code), (7, a.code), (1, 0), (6, c.val)] := ⟨y.code_lt, by decide, d.code_lt, a.code_lt, by decide, c.isLt, trivial⟩
  have e_ : encode .ex (.rot y d a c) = [pack [(4, y.code), (7, 105), (7, d.code), (7, a.code), (1, 0), (6, c.val)]] := by
    show [w7 y 0x69 (e3 d.code a.code c.val)] = _
    simp only [w7, e3, pack, bits, List.cons.injEq, and_true]; omega
  refine roundtrip_one e_ fw rfl (fun w_ hw _ => ?_) rest
  have q_w6_1 : fld w_ 6 1 = 0 := fieldAt hw fw 4 (by simp)
  have q_w0_6 : fld w_ 0 6 = c.val := fieldAt hw fw 5 (by simp)
  have f_w0_6 : (fin 6 w_ 0 : Fin 64) = c := Fin.ext q_w0_6
  have q_w21_7 : fld w_ 21 7 = 105 := fieldAt hw fw 1 (by simp)
  have q_w28_4 : fld w_ 28 4 = y.code := fieldAt hw fw 0 (by simp)
  have ry : Ring.ofWord w_ = y := Ring.ofWord_of q_w28_4
  have q_w7_7 : fld w_ 7 7 = a.code := fieldAt hw fw 3 (by simp)
  have q_w14_7 : fld w_ 14 7 = d.code := fieldAt hw fw 2 (by simp)
  have hk : (d.dst && a.src : Bool) = true := Instr.operands_of_wf h
  try simp only [Bool.and_eq_true, Bool.or_eq_true, bne_iff_ne, ne_eq, decide_eq_true_eq, beq_iff_eq, Bool.not_eq_true', Bool.and_eq_false_iff, beq_eq_false_iff_ne, not_true_eq_false, false_or, reduceCtorEq, not_false_eq_true, true_or, true_and, and_true] at hk
  refine decode_ex1 105 q_w21_7 (by decide) ?_
  delta decodeEx
  rw [q_w21_7]
  simp [need, withCode, ex1_of q_w14_7 q_w7_7 (by simp [hk]), q_w6_1, q_w0_6, f_w0_6, q_w28_4, ry, q_w7_7, q_w14_7, Opnd.ofCode_code, hk]

theorem redF32 (y : Ring) (d : Opnd) (a : Opnd) : Statement (.redF32 y d a) := by
  intro q rest h
  obtain rfl := only_ex (Instr.streams_of_wf h)
  exact ex1z_word y 0x6A d a .redF32 rfl rfl (by decide) (Instr.operands_of_wf h) (fun w hw => by delta decodeEx; rw [hw] <;> rfl) rest

theorem redI32 (y : Ring) (d : Opnd) (a : Opnd) : Statement (.redI32 y d a) := by
  intro q rest h
  obtain rfl := only_ex (Instr.streams_of_wf h)
  exact ex1z_word y 0x6B d a .redI32 rfl rfl (by decide) (Instr.operands_of_wf h) (fun w hw => by delta decodeEx; rw [hw] <;> rfl) rest

theorem scanF32 (y : Ring) (d : Opnd) (a : Opnd) : Statement (.scanF32 y d a) := by
  intro q rest h
  obtain rfl := only_ex (Instr.streams_of_wf h)
  exact ex1z_word y 0x6C d a .scanF32 rfl rfl (by decide) (Instr.operands_of_wf h) (fun w hw => by delta decodeEx; rw [hw] <;> rfl) rest

theorem cvt (y : Ring) (d : Opnd) (a : Opnd) (o : CvtOp) : Statement (.cvt y d a o) := by
  intro q rest h
  obtain rfl := only_ex (Instr.streams_of_wf h)
  have fw : Fits [(4, y.code), (7, 109), (7, d.code), (7, a.code), (7, o.code)] := ⟨y.code_lt, by decide, d.code_lt, a.code_lt, o.code_lt, trivial⟩
  have e_ : encode .ex (.cvt y d a o) = [pack [(4, y.code), (7, 109), (7, d.code), (7, a.code), (7, o.code)]] := by
    show [w7 y 0x6D (e3 d.code a.code o.code)] = _
    simp only [w7, e3, pack, bits, List.cons.injEq, and_true]; omega
  refine roundtrip_one e_ fw rfl (fun w_ hw _ => ?_) rest
  have q_w0_7 : fld w_ 0 7 = o.code := fieldAt hw fw 4 (by simp)
  have q_w21_7 : fld w_ 21 7 = 109 := fieldAt hw fw 1 (by simp)
  have q_w28_4 : fld w_ 28 4 = y.code := fieldAt hw fw 0 (by simp)
  have ry : Ring.ofWord w_ = y := Ring.ofWord_of q_w28_4
  have q_w7_7 : fld w_ 7 7 = a.code := fieldAt hw fw 3 (by simp)
  have q_w14_7 : fld w_ 14 7 = d.code := fieldAt hw fw 2 (by simp)
  have hk : (d.dst && a.src : Bool) = true := Instr.operands_of_wf h
  try simp only [Bool.and_eq_true, Bool.or_eq_true, bne_iff_ne, ne_eq, decide_eq_true_eq, beq_iff_eq, Bool.not_eq_true', Bool.and_eq_false_iff, beq_eq_false_iff_ne, not_true_eq_false, false_or, reduceCtorEq, not_false_eq_true, true_or, true_and, and_true] at hk
  refine decode_ex1 109 q_w21_7 (by decide) ?_
  delta decodeEx
  rw [q_w21_7]
  simp [need, withCode, ex1_of q_w14_7 q_w7_7 (by simp [hk]), q_w0_7, q_w28_4, ry, q_w7_7, q_w14_7, Opnd.ofCode_code, CvtOp.ofCode_code, hk]

theorem qmax (y : Ring) (l : Fin 7) (a : Opnd) : Statement (.qmax y l a) := by
  intro q rest h
  obtain rfl := only_ex (Instr.streams_of_wf h)
  have fw : Fits [(4, y.code), (7, 110), (4, 0), (3, l.val), (7, a.code), (7, 0)] := ⟨y.code_lt, by decide, by decide, by omega, a.code_lt, by decide, trivial⟩
  have e_ : encode .ex (.qmax y l a) = [pack [(4, y.code), (7, 110), (4, 0), (3, l.val), (7, a.code), (7, 0)]] := by
    show [w7 y 0x6E (e3 l.val a.code 0)] = _
    simp only [w7, e3, pack, bits, List.cons.injEq, and_true]; omega
  refine roundtrip_one e_ fw rfl (fun w_ hw _ => ?_) rest
  have q_w7_7 : fld w_ 7 7 = a.code := fieldAt hw fw 4 (by simp)
  have q_w14_3 : fld w_ 14 3 = l.val := fieldAt hw fw 3 (by simp)
  have q_w17_4 : fld w_ 17 4 = 0 := fieldAt hw fw 2 (by simp)
  have q_w0_7 : fld w_ 0 7 = 0 := fieldAt hw fw 5 (by simp)
  have q_w21_7 : fld w_ 21 7 = 110 := fieldAt hw fw 1 (by simp)
  have q_w28_4 : fld w_ 28 4 = y.code := fieldAt hw fw 0 (by simp)
  have ry : Ring.ofWord w_ = y := Ring.ofWord_of q_w28_4
  have hk : (a.src : Bool) = true := Instr.operands_of_wf h
  try simp only [Bool.and_eq_true, Bool.or_eq_true, bne_iff_ne, ne_eq, decide_eq_true_eq, beq_iff_eq, Bool.not_eq_true', Bool.and_eq_false_iff, beq_eq_false_iff_ne, not_true_eq_false, false_or, reduceCtorEq, not_false_eq_true, true_or, true_and, and_true] at hk
  refine decode_ex1 110 q_w21_7 (by decide) ?_
  delta decodeEx
  rw [q_w21_7]
  simp [need, withCode, q_w7_7, q_w14_3, q_w17_4, q_w0_7, q_w28_4, ry, Opnd.ofCode_code, levelOf_val, hk]

theorem qcvt (y : Ring) (d : Opnd) (a : Opnd) (l : Fin 7) : Statement (.qcvt y d a l) := by
  intro q rest h
  obtain rfl := only_ex (Instr.streams_of_wf h)
  have fw : Fits [(4, y.code), (7, 111), (7, d.code), (7, a.code), (4, 0), (3, l.val)] := ⟨y.code_lt, by decide, d.code_lt, a.code_lt, by decide, by omega, trivial⟩
  have e_ : encode .ex (.qcvt y d a l) = [pack [(4, y.code), (7, 111), (7, d.code), (7, a.code), (4, 0), (3, l.val)]] := by
    show [w7 y 0x6F (e3 d.code a.code l.val)] = _
    simp only [w7, e3, pack, bits, List.cons.injEq, and_true]; omega
  refine roundtrip_one e_ fw rfl (fun w_ hw _ => ?_) rest
  have q_w0_3 : fld w_ 0 3 = l.val := fieldAt hw fw 5 (by simp)
  have q_w3_4 : fld w_ 3 4 = 0 := fieldAt hw fw 4 (by simp)
  have q_w21_7 : fld w_ 21 7 = 111 := fieldAt hw fw 1 (by simp)
  have q_w28_4 : fld w_ 28 4 = y.code := fieldAt hw fw 0 (by simp)
  have ry : Ring.ofWord w_ = y := Ring.ofWord_of q_w28_4
  have q_w7_7 : fld w_ 7 7 = a.code := fieldAt hw fw 3 (by simp)
  have q_w14_7 : fld w_ 14 7 = d.code := fieldAt hw fw 2 (by simp)
  have hk : (d.dst && a.src : Bool) = true := Instr.operands_of_wf h
  try simp only [Bool.and_eq_true, Bool.or_eq_true, bne_iff_ne, ne_eq, decide_eq_true_eq, beq_iff_eq, Bool.not_eq_true', Bool.and_eq_false_iff, beq_eq_false_iff_ne, not_true_eq_false, false_or, reduceCtorEq, not_false_eq_true, true_or, true_and, and_true] at hk
  refine decode_ex1 111 q_w21_7 (by decide) ?_
  delta decodeEx
  rw [q_w21_7]
  simp [need, withCode, ex1_of q_w14_7 q_w7_7 (by simp [hk]), q_w0_3, q_w3_4, q_w28_4, ry, q_w7_7, q_w14_7, Opnd.ofCode_code, levelOf_val, hk]

theorem deq (y : Ring) (d : Opnd) (a : Opnd) (l : Fin 7) : Statement (.deq y d a l) := by
  intro q rest h
  obtain rfl := only_ex (Instr.streams_of_wf h)
  have fw : Fits [(4, y.code), (7, 112), (7, d.code), (7, a.code), (4, 0), (3, l.val)] := ⟨y.code_lt, by decide, d.code_lt, a.code_lt, by decide, by omega, trivial⟩
  have e_ : encode .ex (.deq y d a l) = [pack [(4, y.code), (7, 112), (7, d.code), (7, a.code), (4, 0), (3, l.val)]] := by
    show [w7 y 0x70 (e3 d.code a.code l.val)] = _
    simp only [w7, e3, pack, bits, List.cons.injEq, and_true]; omega
  refine roundtrip_one e_ fw rfl (fun w_ hw _ => ?_) rest
  have q_w0_3 : fld w_ 0 3 = l.val := fieldAt hw fw 5 (by simp)
  have q_w3_4 : fld w_ 3 4 = 0 := fieldAt hw fw 4 (by simp)
  have q_w21_7 : fld w_ 21 7 = 112 := fieldAt hw fw 1 (by simp)
  have q_w28_4 : fld w_ 28 4 = y.code := fieldAt hw fw 0 (by simp)
  have ry : Ring.ofWord w_ = y := Ring.ofWord_of q_w28_4
  have q_w7_7 : fld w_ 7 7 = a.code := fieldAt hw fw 3 (by simp)
  have q_w14_7 : fld w_ 14 7 = d.code := fieldAt hw fw 2 (by simp)
  have hk : (d.dst && a.src : Bool) = true := Instr.operands_of_wf h
  try simp only [Bool.and_eq_true, Bool.or_eq_true, bne_iff_ne, ne_eq, decide_eq_true_eq, beq_iff_eq, Bool.not_eq_true', Bool.and_eq_false_iff, beq_eq_false_iff_ne, not_true_eq_false, false_or, reduceCtorEq, not_false_eq_true, true_or, true_and, and_true] at hk
  refine decode_ex1 112 q_w21_7 (by decide) ?_
  delta decodeEx
  rw [q_w21_7]
  simp [need, withCode, ex1_of q_w14_7 q_w7_7 (by simp [hk]), q_w0_3, q_w3_4, q_w28_4, ry, q_w7_7, q_w14_7, Opnd.ofCode_code, levelOf_val, hk]

theorem zld (y : Ring) (d : Opnd) (n : Fin 16) (x : Fin 1024) : Statement (.zld y d n x) := by
  intro q rest h
  obtain rfl := only_ex (Instr.streams_of_wf h)
  have fw : Fits [(4, y.code), (7, 113), (7, d.code), (4, n.val), (10, x.val)] := ⟨y.code_lt, by decide, d.code_lt, n.isLt, x.isLt, trivial⟩
  have e_ : encode .ex (.zld y d n x) = [pack [(4, y.code), (7, 113), (7, d.code), (4, n.val), (10, x.val)]] := by
    show [w7 y 0x71 (d.code * 2 ^ 14 + n.val * 2 ^ 10 + x.val)] = _
    simp only [w7, pack, bits, List.cons.injEq, and_true]; omega
  refine roundtrip_one e_ fw rfl (fun w_ hw _ => ?_) rest
  have q_w14_7 : fld w_ 14 7 = d.code := fieldAt hw fw 2 (by simp)
  have q_w10_4 : fld w_ 10 4 = n.val := fieldAt hw fw 3 (by simp)
  have q_w10_1 : fld w_ 10 1 = fld n.val 0 1 := fld_within (i := 0) q_w10_4 (by decide)
  have f_w10_4 : (fin 4 w_ 10 : Fin 16) = n := Fin.ext q_w10_4
  have q_w0_10 : fld w_ 0 10 = x.val := fieldAt hw fw 4 (by simp)
  have f_w0_10 : (fin 10 w_ 0 : Fin 1024) = x := Fin.ext q_w0_10
  have q_w21_7 : fld w_ 21 7 = 113 := fieldAt hw fw 1 (by simp)
  have q_w28_4 : fld w_ 28 4 = y.code := fieldAt hw fw 0 (by simp)
  have ry : Ring.ofWord w_ = y := Ring.ofWord_of q_w28_4
  have hk : (d.isZ && evenReg n.val : Bool) = true := Instr.operands_of_wf h
  try simp only [evenReg, Bool.and_eq_true, Bool.or_eq_true, bne_iff_ne, ne_eq, decide_eq_true_eq, beq_iff_eq, Bool.not_eq_true', Bool.and_eq_false_iff, beq_eq_false_iff_ne, not_true_eq_false, false_or, reduceCtorEq, not_false_eq_true, true_or, true_and, and_true] at hk
  refine decode_ex1 113 q_w21_7 (by decide) ?_
  delta decodeEx
  rw [q_w21_7]
  simp [need, withCode, q_w14_7, q_w10_4, q_w10_1, f_w10_4, q_w0_10, f_w0_10, q_w28_4, ry, Opnd.ofCode_code, hk]
  simp only [fld]; omega

theorem zst (y : Ring) (d : Opnd) (n : Fin 16) (x : Fin 1024) : Statement (.zst y d n x) := by
  intro q rest h
  obtain rfl := only_ex (Instr.streams_of_wf h)
  have fw : Fits [(4, y.code), (7, 114), (7, d.code), (4, n.val), (10, x.val)] := ⟨y.code_lt, by decide, d.code_lt, n.isLt, x.isLt, trivial⟩
  have e_ : encode .ex (.zst y d n x) = [pack [(4, y.code), (7, 114), (7, d.code), (4, n.val), (10, x.val)]] := by
    show [w7 y 0x72 (d.code * 2 ^ 14 + n.val * 2 ^ 10 + x.val)] = _
    simp only [w7, pack, bits, List.cons.injEq, and_true]; omega
  refine roundtrip_one e_ fw rfl (fun w_ hw _ => ?_) rest
  have q_w14_7 : fld w_ 14 7 = d.code := fieldAt hw fw 2 (by simp)
  have q_w10_4 : fld w_ 10 4 = n.val := fieldAt hw fw 3 (by simp)
  have q_w10_1 : fld w_ 10 1 = fld n.val 0 1 := fld_within (i := 0) q_w10_4 (by decide)
  have f_w10_4 : (fin 4 w_ 10 : Fin 16) = n := Fin.ext q_w10_4
  have q_w0_10 : fld w_ 0 10 = x.val := fieldAt hw fw 4 (by simp)
  have f_w0_10 : (fin 10 w_ 0 : Fin 1024) = x := Fin.ext q_w0_10
  have q_w21_7 : fld w_ 21 7 = 114 := fieldAt hw fw 1 (by simp)
  have q_w28_4 : fld w_ 28 4 = y.code := fieldAt hw fw 0 (by simp)
  have ry : Ring.ofWord w_ = y := Ring.ofWord_of q_w28_4
  have hk : (d.isZ && evenReg n.val : Bool) = true := Instr.operands_of_wf h
  try simp only [evenReg, Bool.and_eq_true, Bool.or_eq_true, bne_iff_ne, ne_eq, decide_eq_true_eq, beq_iff_eq, Bool.not_eq_true', Bool.and_eq_false_iff, beq_eq_false_iff_ne, not_true_eq_false, false_or, reduceCtorEq, not_false_eq_true, true_or, true_and, and_true] at hk
  refine decode_ex1 114 q_w21_7 (by decide) ?_
  delta decodeEx
  rw [q_w21_7]
  simp [need, withCode, q_w14_7, q_w10_4, q_w10_1, f_w10_4, q_w0_10, f_w0_10, q_w28_4, ry, Opnd.ofCode_code, hk]
  simp only [fld]; omega

theorem mset (y : Ring) (d : Fin 8) (f : Fin 128) (c : Fin 128) : Statement (.mset y d f c) := by
  intro q rest h
  obtain rfl := only_ex (Instr.streams_of_wf h)
  have fw : Fits [(4, y.code), (7, 115), (4, 0), (3, d.val), (7, f.val), (7, c.val)] := ⟨y.code_lt, by decide, by decide, d.isLt, f.isLt, c.isLt, trivial⟩
  have e_ : encode .ex (.mset y d f c) = [pack [(4, y.code), (7, 115), (4, 0), (3, d.val), (7, f.val), (7, c.val)]] := by
    show [w7 y 0x73 (d.val * 2 ^ 14 + f.val * 2 ^ 7 + c.val)] = _
    simp only [w7, pack, bits, List.cons.injEq, and_true]; omega
  refine roundtrip_one e_ fw rfl (fun w_ hw _ => ?_) rest
  have q_w17_4 : fld w_ 17 4 = 0 := fieldAt hw fw 2 (by simp)
  have q_w7_7 : fld w_ 7 7 = f.val := fieldAt hw fw 4 (by simp)
  have q_w0_7 : fld w_ 0 7 = c.val := fieldAt hw fw 5 (by simp)
  have q_w14_3 : fld w_ 14 3 = d.val := fieldAt hw fw 3 (by simp)
  have f_w14_3 : (fin 3 w_ 14 : Fin 8) = d := Fin.ext q_w14_3
  have f_w7_7 : (fin 7 w_ 7 : Fin 128) = f := Fin.ext q_w7_7
  have f_w0_7 : (fin 7 w_ 0 : Fin 128) = c := Fin.ext q_w0_7
  have q_w21_7 : fld w_ 21 7 = 115 := fieldAt hw fw 1 (by simp)
  have q_w28_4 : fld w_ 28 4 = y.code := fieldAt hw fw 0 (by simp)
  have ry : Ring.ofWord w_ = y := Ring.ofWord_of q_w28_4
  have hk : (f.val < 64 && f.val + c.val ≤ 64 : Bool) = true := Instr.operands_of_wf h
  try simp only [Bool.and_eq_true, Bool.or_eq_true, bne_iff_ne, ne_eq, decide_eq_true_eq, beq_iff_eq, Bool.not_eq_true', Bool.and_eq_false_iff, beq_eq_false_iff_ne, not_true_eq_false, false_or, reduceCtorEq, not_false_eq_true, true_or, true_and, and_true] at hk
  refine decode_ex1 115 q_w21_7 (by decide) ?_
  delta decodeEx
  rw [q_w21_7]
  simp [need, withCode, q_w17_4, q_w7_7, q_w0_7, q_w14_3, f_w14_3, f_w7_7, f_w0_7, q_w28_4, ry, hk]

theorem mlog (y : Ring) (o : MlogOp) (d : Fin 8) (a : Fin 8) (b : Fin 8) : Statement (.mlog y o d a b) := by
  intro q rest h
  obtain rfl := only_ex (Instr.streams_of_wf h)
  have fw : Fits [(4, y.code), (7, 116), (4, o.code), (3, d.val), (4, 0), (3, a.val), (4, 0), (3, b.val)] := ⟨y.code_lt, by decide, o.code_lt, d.isLt, by decide, a.isLt, by decide, b.isLt, trivial⟩
  have e_ : encode .ex (.mlog y o d a b) = [pack [(4, y.code), (7, 116), (4, o.code), (3, d.val), (4, 0), (3, a.val), (4, 0), (3, b.val)]] := by
    show [w7 y 0x74 (e3 (o.code * 8 + d.val) a.val b.val)] = _
    simp only [w7, e3, pack, bits, List.cons.injEq, and_true]; omega
  refine roundtrip_one e_ fw rfl (fun w_ hw _ => ?_) rest
  have q_w10_4 : fld w_ 10 4 = 0 := fieldAt hw fw 4 (by simp)
  have q_w3_4 : fld w_ 3 4 = 0 := fieldAt hw fw 6 (by simp)
  have q_w17_4 : fld w_ 17 4 = o.code := fieldAt hw fw 2 (by simp)
  have q_w0_3 : fld w_ 0 3 = b.val := fieldAt hw fw 7 (by simp)
  have q_w14_3 : fld w_ 14 3 = d.val := fieldAt hw fw 3 (by simp)
  have f_w14_3 : (fin 3 w_ 14 : Fin 8) = d := Fin.ext q_w14_3
  have q_w7_3 : fld w_ 7 3 = a.val := fieldAt hw fw 5 (by simp)
  have f_w7_3 : (fin 3 w_ 7 : Fin 8) = a := Fin.ext q_w7_3
  have f_w0_3 : (fin 3 w_ 0 : Fin 8) = b := Fin.ext q_w0_3
  have q_w21_7 : fld w_ 21 7 = 116 := fieldAt hw fw 1 (by simp)
  have q_w28_4 : fld w_ 28 4 = y.code := fieldAt hw fw 0 (by simp)
  have ry : Ring.ofWord w_ = y := Ring.ofWord_of q_w28_4
  have hk : (o != .not || b.val == 0 : Bool) = true := Instr.operands_of_wf h
  try simp only [Bool.and_eq_true, Bool.or_eq_true, bne_iff_ne, ne_eq, decide_eq_true_eq, beq_iff_eq, Bool.not_eq_true', Bool.and_eq_false_iff, beq_eq_false_iff_ne, not_true_eq_false, false_or, reduceCtorEq, not_false_eq_true, true_or, true_and, and_true] at hk
  refine decode_ex1 116 q_w21_7 (by decide) ?_
  delta decodeEx
  rw [q_w21_7]
  simp [need, withCode, q_w10_4, q_w3_4, q_w17_4, q_w0_3, q_w14_3, f_w14_3, q_w7_3, f_w7_3, f_w0_3, q_w28_4, ry, MlogOp.ofCode_code, hk]
  exact fun z => hk.elim (fun g => absurd z g) Fin.val_eq_zero_iff.mp

theorem zli (y : Ring) (d : Opnd) (m : BitVec 14) : Statement (.zli y d m) := by
  intro q rest h
  obtain rfl := only_ex (Instr.streams_of_wf h)
  have fw : Fits [(4, y.code), (7, 117), (7, d.code), (14, m.toNat)] := ⟨y.code_lt, by decide, d.code_lt, m.isLt, trivial⟩
  have e_ : encode .ex (.zli y d m) = [pack [(4, y.code), (7, 117), (7, d.code), (14, m.toNat)]] := by
    show [w7 y 0x75 (d.code * 2 ^ 14 + m.toNat)] = _
    simp only [w7, pack, bits, List.cons.injEq, and_true]; omega
  refine roundtrip_one e_ fw rfl (fun w_ hw _ => ?_) rest
  have q_w14_7 : fld w_ 14 7 = d.code := fieldAt hw fw 2 (by simp)
  have q_w0_14 : fld w_ 0 14 = m.toNat := fieldAt hw fw 3 (by simp)
  have f_w0_14 : bvf 14 w_ 0 = m := bvf_of q_w0_14
  have q_w21_7 : fld w_ 21 7 = 117 := fieldAt hw fw 1 (by simp)
  have q_w28_4 : fld w_ 28 4 = y.code := fieldAt hw fw 0 (by simp)
  have ry : Ring.ofWord w_ = y := Ring.ofWord_of q_w28_4
  have hk : (d.dst : Bool) = true := Instr.operands_of_wf h
  try simp only [Bool.and_eq_true, Bool.or_eq_true, bne_iff_ne, ne_eq, decide_eq_true_eq, beq_iff_eq, Bool.not_eq_true', Bool.and_eq_false_iff, beq_eq_false_iff_ne, not_true_eq_false, false_or, reduceCtorEq, not_false_eq_true, true_or, true_and, and_true] at hk
  refine decode_ex1 117 q_w21_7 (by decide) ?_
  delta decodeEx
  rw [q_w21_7]
  simp [need, withCode, q_w14_7, q_w0_14, f_w0_14, q_w28_4, ry, Opnd.ofCode_code, hk]

theorem lse (y : Ring) : Statement (.lse y) := by
  intro q rest h
  obtain rfl := only_ex (Instr.streams_of_wf h)
  have fw : Fits [(4, y.code), (7, 118), (21, 0)] := ⟨y.code_lt, by decide, by decide, trivial⟩
  have e_ : encode .ex (.lse y) = [pack [(4, y.code), (7, 118), (21, 0)]] := by
    show [w7 y 0x76 0] = _
    simp only [w7, pack, bits, List.cons.injEq, and_true]; omega
  refine roundtrip_one e_ fw rfl (fun w_ hw _ => ?_) rest
  have q_w0_21 : fld w_ 0 21 = 0 := fieldAt hw fw 2 (by simp)
  have q_w21_7 : fld w_ 21 7 = 118 := fieldAt hw fw 1 (by simp)
  have q_w28_4 : fld w_ 28 4 = y.code := fieldAt hw fw 0 (by simp)
  have ry : Ring.ofWord w_ = y := Ring.ofWord_of q_w28_4
  refine decode_ex1 118 q_w21_7 (by decide) ?_
  delta decodeEx
  rw [q_w21_7]
  simp [need, withCode, q_w0_21, q_w28_4, ry]

theorem lsr (y : Ring) : Statement (.lsr y) := by
  intro q rest h
  obtain rfl := only_ex (Instr.streams_of_wf h)
  have fw : Fits [(4, y.code), (7, 119), (21, 0)] := ⟨y.code_lt, by decide, by decide, trivial⟩
  have e_ : encode .ex (.lsr y) = [pack [(4, y.code), (7, 119), (21, 0)]] := by
    show [w7 y 0x77 0] = _
    simp only [w7, pack, bits, List.cons.injEq, and_true]; omega
  refine roundtrip_one e_ fw rfl (fun w_ hw _ => ?_) rest
  have q_w0_21 : fld w_ 0 21 = 0 := fieldAt hw fw 2 (by simp)
  have q_w21_7 : fld w_ 21 7 = 119 := fieldAt hw fw 1 (by simp)
  have q_w28_4 : fld w_ 28 4 = y.code := fieldAt hw fw 0 (by simp)
  have ry : Ring.ofWord w_ = y := Ring.ofWord_of q_w28_4
  refine decode_ex1 119 q_w21_7 (by decide) ?_
  delta decodeEx
  rw [q_w21_7]
  simp [need, withCode, q_w0_21, q_w28_4, ry]

theorem mma (y : Ring) (c : Fin 64) (a : Fin 16) (b : Fin 16) (l : Fin 7) (u : Bool) (v : Bool) : Statement (.mma y c a b l u v) := by
  intro q rest h
  obtain rfl := only_ex (Instr.streams_of_wf h)
  have fw : Fits [(4, y.code), (7, 120), (6, c.val), (4, a.val), (4, b.val), (3, l.val), (2, 0), (1, u.toNat), (1, v.toNat)] := ⟨y.code_lt, by decide, c.isLt, a.isLt, b.isLt, by omega, by decide, Bool.toNat_lt u, Bool.toNat_lt v, trivial⟩
  have e_ : encode .ex (.mma y c a b l u v) = [pack [(4, y.code), (7, 120), (6, c.val), (4, a.val), (4, b.val), (3, l.val), (2, 0), (1, u.toNat), (1, v.toNat)]] := by
    show [w7 y 0x78 (em c.val a.val b.val l.val (u.toNat * 2 + v.toNat))] = _
    simp only [w7, em, pack, bits, List.cons.injEq, and_true]; omega
  refine roundtrip_one e_ fw rfl (fun w_ hw _ => ?_) rest
  have q_w4_3 : fld w_ 4 3 = l.val := fieldAt hw fw 5 (by simp)
  have q_w2_2 : fld w_ 2 2 = 0 := fieldAt hw fw 6 (by simp)
  have q_w11_4 : fld w_ 11 4 = a.val := fieldAt hw fw 3 (by simp)
  have q_w11_1 : fld w_ 11 1 = fld a.val 0 1 := fld_within (i := 0) q_w11_4 (by decide)
  have q_w7_4 : fld w_ 7 4 = b.val := fieldAt hw fw 4 (by simp)
  have q_w7_1 : fld w_ 7 1 = fld b.val 0 1 := fld_within (i := 0) q_w7_4 (by decide)
  have q_w15_6 : fld w_ 15 6 = c.val := fieldAt hw fw 2 (by simp)
  have f_w15_6 : (fin 6 w_ 15 : Fin 64) = c := Fin.ext q_w15_6
  have f_w11_4 : (fin 4 w_ 11 : Fin 16) = a := Fin.ext q_w11_4
  have f_w7_4 : (fin 4 w_ 7 : Fin 16) = b := Fin.ext q_w7_4
  have q_w1_1 : fld w_ 1 1 = u.toNat := fieldAt hw fw 7 (by simp)
  have f_w1 : flag w_ 1 = u := flag_of q_w1_1
  have q_w0_1 : fld w_ 0 1 = v.toNat := fieldAt hw fw 8 (by simp)
  have f_w0 : flag w_ 0 = v := flag_of q_w0_1
  have q_w21_7 : fld w_ 21 7 = 120 := fieldAt hw fw 1 (by simp)
  have q_w28_4 : fld w_ 28 4 = y.code := fieldAt hw fw 0 (by simp)
  have ry : Ring.ofWord w_ = y := Ring.ofWord_of q_w28_4
  have hk : (evenReg a.val && evenReg b.val : Bool) = true := Instr.operands_of_wf h
  try simp only [evenReg, Bool.and_eq_true, Bool.or_eq_true, bne_iff_ne, ne_eq, decide_eq_true_eq, beq_iff_eq, Bool.not_eq_true', Bool.and_eq_false_iff, beq_eq_false_iff_ne, not_true_eq_false, false_or, reduceCtorEq, not_false_eq_true, true_or, true_and, and_true] at hk
  refine decode_ex1 120 q_w21_7 (by decide) ?_
  delta decodeEx
  rw [q_w21_7]
  simp [need, withCode, q_w4_3, q_w2_2, q_w11_4, q_w11_1, q_w7_4, q_w7_1, q_w15_6, f_w15_6, f_w11_4, f_w7_4, q_w1_1, f_w1, q_w0_1, f_w0, q_w28_4, ry, levelOf_val, hk]
  simp only [fld]; omega

theorem mmaz (y : Ring) (c : Fin 64) (a : Fin 16) (b : Fin 16) (l : Fin 7) (u : Bool) (v : Bool) : Statement (.mmaz y c a b l u v) := by
  intro q rest h
  obtain rfl := only_ex (Instr.streams_of_wf h)
  have fw : Fits [(4, y.code), (7, 121), (6, c.val), (4, a.val), (4, b.val), (3, l.val), (2, 0), (1, u.toNat), (1, v.toNat)] := ⟨y.code_lt, by decide, c.isLt, a.isLt, b.isLt, by omega, by decide, Bool.toNat_lt u, Bool.toNat_lt v, trivial⟩
  have e_ : encode .ex (.mmaz y c a b l u v) = [pack [(4, y.code), (7, 121), (6, c.val), (4, a.val), (4, b.val), (3, l.val), (2, 0), (1, u.toNat), (1, v.toNat)]] := by
    show [w7 y 0x79 (em c.val a.val b.val l.val (u.toNat * 2 + v.toNat))] = _
    simp only [w7, em, pack, bits, List.cons.injEq, and_true]; omega
  refine roundtrip_one e_ fw rfl (fun w_ hw _ => ?_) rest
  have q_w4_3 : fld w_ 4 3 = l.val := fieldAt hw fw 5 (by simp)
  have q_w2_2 : fld w_ 2 2 = 0 := fieldAt hw fw 6 (by simp)
  have q_w11_4 : fld w_ 11 4 = a.val := fieldAt hw fw 3 (by simp)
  have q_w11_1 : fld w_ 11 1 = fld a.val 0 1 := fld_within (i := 0) q_w11_4 (by decide)
  have q_w7_4 : fld w_ 7 4 = b.val := fieldAt hw fw 4 (by simp)
  have q_w7_1 : fld w_ 7 1 = fld b.val 0 1 := fld_within (i := 0) q_w7_4 (by decide)
  have q_w15_6 : fld w_ 15 6 = c.val := fieldAt hw fw 2 (by simp)
  have f_w15_6 : (fin 6 w_ 15 : Fin 64) = c := Fin.ext q_w15_6
  have f_w11_4 : (fin 4 w_ 11 : Fin 16) = a := Fin.ext q_w11_4
  have f_w7_4 : (fin 4 w_ 7 : Fin 16) = b := Fin.ext q_w7_4
  have q_w1_1 : fld w_ 1 1 = u.toNat := fieldAt hw fw 7 (by simp)
  have f_w1 : flag w_ 1 = u := flag_of q_w1_1
  have q_w0_1 : fld w_ 0 1 = v.toNat := fieldAt hw fw 8 (by simp)
  have f_w0 : flag w_ 0 = v := flag_of q_w0_1
  have q_w21_7 : fld w_ 21 7 = 121 := fieldAt hw fw 1 (by simp)
  have q_w28_4 : fld w_ 28 4 = y.code := fieldAt hw fw 0 (by simp)
  have ry : Ring.ofWord w_ = y := Ring.ofWord_of q_w28_4
  have hk : (evenReg a.val && evenReg b.val : Bool) = true := Instr.operands_of_wf h
  try simp only [evenReg, Bool.and_eq_true, Bool.or_eq_true, bne_iff_ne, ne_eq, decide_eq_true_eq, beq_iff_eq, Bool.not_eq_true', Bool.and_eq_false_iff, beq_eq_false_iff_ne, not_true_eq_false, false_or, reduceCtorEq, not_false_eq_true, true_or, true_and, and_true] at hk
  refine decode_ex1 121 q_w21_7 (by decide) ?_
  delta decodeEx
  rw [q_w21_7]
  simp [need, withCode, q_w4_3, q_w2_2, q_w11_4, q_w11_1, q_w7_4, q_w7_1, q_w15_6, f_w15_6, f_w11_4, f_w7_4, q_w1_1, f_w1, q_w0_1, f_w0, q_w28_4, ry, levelOf_val, hk]
  simp only [fld]; omega

theorem mmov (y : Ring) (c : Fin 64) (a : Fin 16) (l : Fin 7) : Statement (.mmov y c a l) := by
  intro q rest h
  obtain rfl := only_ex (Instr.streams_of_wf h)
  have fw : Fits [(4, y.code), (7, 122), (6, c.val), (4, a.val), (4, 0), (3, l.val), (4, 0)] := ⟨y.code_lt, by decide, c.isLt, a.isLt, by decide, by omega, by decide, trivial⟩
  have e_ : encode .ex (.mmov y c a l) = [pack [(4, y.code), (7, 122), (6, c.val), (4, a.val), (4, 0), (3, l.val), (4, 0)]] := by
    show [w7 y 0x7A (em c.val a.val 0 l.val 0)] = _
    simp only [w7, em, pack, bits, List.cons.injEq, and_true]; omega
  refine roundtrip_one e_ fw rfl (fun w_ hw _ => ?_) rest
  have q_w4_3 : fld w_ 4 3 = l.val := fieldAt hw fw 5 (by simp)
  have q_w7_4 : fld w_ 7 4 = 0 := fieldAt hw fw 4 (by simp)
  have q_w0_4 : fld w_ 0 4 = 0 := fieldAt hw fw 6 (by simp)
  have q_w11_4 : fld w_ 11 4 = a.val := fieldAt hw fw 3 (by simp)
  have q_w11_1 : fld w_ 11 1 = fld a.val 0 1 := fld_within (i := 0) q_w11_4 (by decide)
  have q_w15_6 : fld w_ 15 6 = c.val := fieldAt hw fw 2 (by simp)
  have f_w15_6 : (fin 6 w_ 15 : Fin 64) = c := Fin.ext q_w15_6
  have f_w11_4 : (fin 4 w_ 11 : Fin 16) = a := Fin.ext q_w11_4
  have q_w21_7 : fld w_ 21 7 = 122 := fieldAt hw fw 1 (by simp)
  have q_w28_4 : fld w_ 28 4 = y.code := fieldAt hw fw 0 (by simp)
  have ry : Ring.ofWord w_ = y := Ring.ofWord_of q_w28_4
  have hk : (evenReg a.val : Bool) = true := Instr.operands_of_wf h
  try simp only [evenReg, Bool.and_eq_true, Bool.or_eq_true, bne_iff_ne, ne_eq, decide_eq_true_eq, beq_iff_eq, Bool.not_eq_true', Bool.and_eq_false_iff, beq_eq_false_iff_ne, not_true_eq_false, false_or, reduceCtorEq, not_false_eq_true, true_or, true_and, and_true] at hk
  refine decode_ex1 122 q_w21_7 (by decide) ?_
  delta decodeEx
  rw [q_w21_7]
  simp [need, withCode, q_w4_3, q_w7_4, q_w0_4, q_w11_4, q_w11_1, q_w15_6, f_w15_6, f_w11_4, q_w28_4, ry, levelOf_val, hk]
  simp only [fld]; omega

theorem mclr (y : Ring) (c : Fin 64) : Statement (.mclr y c) := by
  intro q rest h
  obtain rfl := only_ex (Instr.streams_of_wf h)
  have fw : Fits [(4, y.code), (7, 123), (6, c.val), (15, 0)] := ⟨y.code_lt, by decide, c.isLt, by decide, trivial⟩
  have e_ : encode .ex (.mclr y c) = [pack [(4, y.code), (7, 123), (6, c.val), (15, 0)]] := by
    show [w7 y 0x7B (em c.val 0 0 0 0)] = _
    simp only [w7, em, pack, bits, List.cons.injEq, and_true]; omega
  refine roundtrip_one e_ fw rfl (fun w_ hw _ => ?_) rest
  have q_w0_15 : fld w_ 0 15 = 0 := fieldAt hw fw 3 (by simp)
  have q_w15_6 : fld w_ 15 6 = c.val := fieldAt hw fw 2 (by simp)
  have f_w15_6 : (fin 6 w_ 15 : Fin 64) = c := Fin.ext q_w15_6
  have q_w21_7 : fld w_ 21 7 = 123 := fieldAt hw fw 1 (by simp)
  have q_w28_4 : fld w_ 28 4 = y.code := fieldAt hw fw 0 (by simp)
  have ry : Ring.ofWord w_ = y := Ring.ofWord_of q_w28_4
  refine decode_ex1 123 q_w21_7 (by decide) ?_
  delta decodeEx
  rw [q_w21_7]
  simp [need, withCode, q_w0_15, q_w15_6, f_w15_6, q_w28_4, ry]

theorem dset (y : Ring) (a : Fin 16) (b : Fin 8) : Statement (.dset y a b) := by
  intro q rest h
  obtain rfl := only_ex (Instr.streams_of_wf h)
  have fw : Fits [(4, y.code), (7, 124), (6, 0), (4, a.val), (1, 0), (3, b.val), (7, 0)] := ⟨y.code_lt, by decide, by decide, a.isLt, by decide, b.isLt, by decide, trivial⟩
  have e_ : encode .ex (.dset y a b) = [pack [(4, y.code), (7, 124), (6, 0), (4, a.val), (1, 0), (3, b.val), (7, 0)]] := by
    show [w7 y 0x7C (em 0 a.val b.val 0 0)] = _
    simp only [w7, em, pack, bits, List.cons.injEq, and_true]; omega
  refine roundtrip_one e_ fw rfl (fun w_ hw _ => ?_) rest
  have q_w15_6 : fld w_ 15 6 = 0 := fieldAt hw fw 2 (by simp)
  have q_w10_1 : fld w_ 10 1 = 0 := fieldAt hw fw 4 (by simp)
  have q_w0_7 : fld w_ 0 7 = 0 := fieldAt hw fw 6 (by simp)
  have q_w11_4 : fld w_ 11 4 = a.val := fieldAt hw fw 3 (by simp)
  have f_w11_4 : (fin 4 w_ 11 : Fin 16) = a := Fin.ext q_w11_4
  have q_w7_3 : fld w_ 7 3 = b.val := fieldAt hw fw 5 (by simp)
  have f_w7_3 : (fin 3 w_ 7 : Fin 8) = b := Fin.ext q_w7_3
  have q_w21_7 : fld w_ 21 7 = 124 := fieldAt hw fw 1 (by simp)
  have q_w28_4 : fld w_ 28 4 = y.code := fieldAt hw fw 0 (by simp)
  have ry : Ring.ofWord w_ = y := Ring.ofWord_of q_w28_4
  refine decode_ex1 124 q_w21_7 (by decide) ?_
  delta decodeEx
  rw [q_w21_7]
  simp [need, withCode, q_w15_6, q_w10_1, q_w0_7, q_w11_4, f_w11_4, q_w7_3, f_w7_3, q_w28_4, ry]

theorem fmtset (y : Ring) (a : Fin 16) (b : Fin 8) : Statement (.fmtset y a b) := by
  intro q rest h
  obtain rfl := only_ex (Instr.streams_of_wf h)
  have fw : Fits [(4, y.code), (7, 125), (6, 0), (4, a.val), (1, 0), (3, b.val), (6, 0), (1, 0)] := ⟨y.code_lt, by decide, by decide, a.isLt, by decide, b.isLt, by decide, by decide, trivial⟩
  have e_ : encode .ex (.fmtset y a b) = [pack [(4, y.code), (7, 125), (6, 0), (4, a.val), (1, 0), (3, b.val), (6, 0), (1, 0)]] := by
    show [w7 y 0x7D (em 0 a.val b.val 0 0)] = _
    simp only [w7, em, pack, bits, List.cons.injEq, and_true]; omega
  refine roundtrip_one e_ fw rfl (fun w_ hw _ => ?_) rest
  have q_w15_6 : fld w_ 15 6 = 0 := fieldAt hw fw 2 (by simp)
  have q_w10_1 : fld w_ 10 1 = 0 := fieldAt hw fw 4 (by simp)
  have q_w1_6 : fld w_ 1 6 = 0 := fieldAt hw fw 6 (by simp)
  have q_w11_4 : fld w_ 11 4 = a.val := fieldAt hw fw 3 (by simp)
  have q_w7_3 : fld w_ 7 3 = b.val := fieldAt hw fw 5 (by simp)
  have f_w7_3 : (fin 3 w_ 7 : Fin 8) = b := Fin.ext q_w7_3
  have f_w11_4 : (fin 4 w_ 11 : Fin 16) = a := Fin.ext q_w11_4
  have q_w0_1 : fld w_ 0 1 = 0 := fieldAt hw fw 7 (by simp)
  have q_w21_7 : fld w_ 21 7 = 125 := fieldAt hw fw 1 (by simp)
  have q_w28_4 : fld w_ 28 4 = y.code := fieldAt hw fw 0 (by simp)
  have ry : Ring.ofWord w_ = y := Ring.ofWord_of q_w28_4
  refine decode_ex1 125 q_w21_7 (by decide) ?_
  delta decodeEx
  rw [q_w21_7]
  simp [need, withCode, q_w15_6, q_w10_1, q_w1_6, q_w11_4, q_w7_3, f_w7_3, f_w11_4, q_w0_1, flag, q_w28_4, ry]

theorem fmtsetFbase (y : Ring) (b : Fin 8) : Statement (.fmtsetFbase y b) := by
  intro q rest h
  obtain rfl := only_ex (Instr.streams_of_wf h)
  have fw : Fits [(4, y.code), (7, 125), (6, 0), (4, 0), (1, 0), (3, b.val), (6, 0), (1, 1)] := ⟨y.code_lt, by decide, by decide, by decide, by decide, b.isLt, by decide, by decide, trivial⟩
  have e_ : encode .ex (.fmtsetFbase y b) = [pack [(4, y.code), (7, 125), (6, 0), (4, 0), (1, 0), (3, b.val), (6, 0), (1, 1)]] := by
    show [w7 y 0x7D (em 0 0 b.val 0 1)] = _
    simp only [w7, em, pack, bits, List.cons.injEq, and_true]; omega
  refine roundtrip_one e_ fw rfl (fun w_ hw _ => ?_) rest
  have q_w15_6 : fld w_ 15 6 = 0 := fieldAt hw fw 2 (by simp)
  have q_w10_1 : fld w_ 10 1 = 0 := fieldAt hw fw 4 (by simp)
  have q_w1_6 : fld w_ 1 6 = 0 := fieldAt hw fw 6 (by simp)
  have q_w11_4 : fld w_ 11 4 = 0 := fieldAt hw fw 3 (by simp)
  have q_w7_3 : fld w_ 7 3 = b.val := fieldAt hw fw 5 (by simp)
  have f_w7_3 : (fin 3 w_ 7 : Fin 8) = b := Fin.ext q_w7_3
  have q_w0_1 : fld w_ 0 1 = 1 := fieldAt hw fw 7 (by simp)
  have q_w21_7 : fld w_ 21 7 = 125 := fieldAt hw fw 1 (by simp)
  have q_w28_4 : fld w_ 28 4 = y.code := fieldAt hw fw 0 (by simp)
  have ry : Ring.ofWord w_ = y := Ring.ofWord_of q_w28_4
  refine decode_ex1 125 q_w21_7 (by decide) ?_
  delta decodeEx
  rw [q_w21_7]
  simp [need, withCode, q_w15_6, q_w10_1, q_w1_6, q_w11_4, q_w7_3, f_w7_3, q_w0_1, flag, q_w28_4, ry]

theorem exResultLands (c : CoreId) : Statement (.exResultLands c) := fun _ _ h => (no_stream (Instr.streams_of_wf h)).elim

theorem leaseGrant (g : Fin 64) : Statement (.leaseGrant g) := fun _ _ h => (no_stream (Instr.streams_of_wf h)).elim

theorem settOperandsRead (g : Work (Fin 64)) : Statement (.settOperandsRead g) := fun _ _ h => (no_stream (Instr.streams_of_wf h)).elim

theorem settCommandFinish (g : Work (Fin 64)) : Statement (.settCommandFinish g) := fun _ _ h => (no_stream (Instr.streams_of_wf h)).elim

theorem bankCommandComplete (c : CoreId) (u : Work Nat) : Statement (.bankCommandComplete c u) := fun _ _ h => (no_stream (Instr.streams_of_wf h)).elim

theorem bkredContribution (c : CoreId) (u : Work Nat) : Statement (.bkredContribution c u) := fun _ _ h => (no_stream (Instr.streams_of_wf h)).elim

theorem warrenCommandPerformed (c : CoreId) (u : Nat) : Statement (.warrenCommandPerformed c u) := fun _ _ h => (no_stream (Instr.streams_of_wf h)).elim

theorem xallStart (d : Fin 4) (u : Work Nat) : Statement (.xallStart d u) := fun _ _ h => (no_stream (Instr.streams_of_wf h)).elim

theorem xallComplete (d : Fin 4) (u : Work Nat) : Statement (.xallComplete d u) := fun _ _ h => (no_stream (Instr.streams_of_wf h)).elim

theorem fputComplete (d : Fin 4) (u : Work Nat) : Statement (.fputComplete d u) := fun _ _ h => (no_stream (Instr.streams_of_wf h)).elim

theorem fgetComplete (d : Fin 4) (u : Work Nat) : Statement (.fgetComplete d u) := fun _ _ h => (no_stream (Instr.streams_of_wf h)).elim

theorem famoComplete (d : Fin 4) (u : Nat) : Statement (.famoComplete d u) := fun _ _ h => (no_stream (Instr.streams_of_wf h)).elim

theorem fredComplete (d : Fin 4) (u : Work Nat) : Statement (.fredComplete d u) := fun _ _ h => (no_stream (Instr.streams_of_wf h)).elim

theorem fbarStart (d : Fin 4) (u : Nat) : Statement (.fbarStart d u) := fun _ _ h => (no_stream (Instr.streams_of_wf h)).elim

theorem fbarComplete (d : Fin 4) (u : Nat) : Statement (.fbarComplete d u) := fun _ _ h => (no_stream (Instr.streams_of_wf h)).elim

theorem trapTaken (c : CoreId) : Statement (.trapTaken c) := fun _ _ h => (no_stream (Instr.streams_of_wf h)).elim

theorem stallBudget (c : CoreId) (q : Seq) (x : Fin 4) : Statement (.stallBudget c q x) := fun _ _ h => (no_stream (Instr.streams_of_wf h)).elim

theorem uncorrectableErrorConsumed (c : CoreId) (r : ErrSource) (a : Nat) (n : W32) : Statement (.uncorrectableErrorConsumed c r a n) := fun _ _ h => (no_stream (Instr.streams_of_wf h)).elim

theorem machineCheckCoreClear (c : CoreId) : Statement (.machineCheckCoreClear c) := fun _ _ h => (no_stream (Instr.streams_of_wf h)).elim

theorem phaseReplay (c : CoreId) : Statement (.phaseReplay c) := fun _ _ h => (no_stream (Instr.streams_of_wf h)).elim

theorem tileRunRetire (c : CoreId) : Statement (.tileRunRetire c) := fun _ _ h => (no_stream (Instr.streams_of_wf h)).elim

theorem launchComplete (q : Fin 4096) : Statement (.launchComplete q) := fun _ _ h => (no_stream (Instr.streams_of_wf h)).elim

theorem tileRunDispatch (p : Fin 16) : Statement (.tileRunDispatch p) := fun _ _ h => (no_stream (Instr.streams_of_wf h)).elim

theorem shadowBankFill (c : CoreId) : Statement (.shadowBankFill c) := fun _ _ h => (no_stream (Instr.streams_of_wf h)).elim

theorem operatorPinning (q : Fin 4096) : Statement (.operatorPinning q) := fun _ _ h => (no_stream (Instr.streams_of_wf h)).elim

theorem shadowBankSwap (c : CoreId) : Statement (.shadowBankSwap c) := fun _ _ h => (no_stream (Instr.streams_of_wf h)).elim

theorem ecallRecordAccepted (c : CoreId) : Statement (.ecallRecordAccepted c) := fun _ _ h => (no_stream (Instr.streams_of_wf h)).elim

theorem completionRecordWrite (q : Fin 4096) : Statement (.completionRecordWrite q) := fun _ _ h => (no_stream (Instr.streams_of_wf h)).elim

theorem holdoffTimerExpiry (q : Fin 4096) : Statement (.holdoffTimerExpiry q) := fun _ _ h => (no_stream (Instr.streams_of_wf h)).elim

theorem doorbellTail (v : Fin 16) (j : Nat) (n : W32) : Statement (.doorbellTail v j n) := fun _ _ h => (no_stream (Instr.streams_of_wf h)).elim

theorem completionHead (v : Fin 16) (j : Nat) (n : W32) : Statement (.completionHead v j n) := fun _ _ h => (no_stream (Instr.streams_of_wf h)).elim

theorem packetNop (q : Fin 4096) : Statement (.packetNop q) := fun _ _ h => (no_stream (Instr.streams_of_wf h)).elim

theorem launch (q : Fin 4096) : Statement (.launch q) := fun _ _ h => (no_stream (Instr.streams_of_wf h)).elim

theorem push (q : Fin 4096) : Statement (.push q) := fun _ _ h => (no_stream (Instr.streams_of_wf h)).elim

theorem signal (q : Fin 4096) : Statement (.signal q) := fun _ _ h => (no_stream (Instr.streams_of_wf h)).elim

theorem timerTick : Statement (.timerTick) := fun _ _ h => (no_stream (Instr.streams_of_wf h)).elim

theorem rlogRd (v : Fin 16) (n : W32) : Statement (.rlogRd v n) := fun _ _ h => (no_stream (Instr.streams_of_wf h)).elim

theorem preqRd (v : Fin 16) (n : W32) : Statement (.preqRd v n) := fun _ _ h => (no_stream (Instr.streams_of_wf h)).elim

theorem presp (v : Fin 16) (n : W64) : Statement (.presp v n) := fun _ _ h => (no_stream (Instr.streams_of_wf h)).elim

theorem evRd (n : W32) : Statement (.evRd n) := fun _ _ h => (no_stream (Instr.streams_of_wf h)).elim

theorem evBase (n : W64) : Statement (.evBase n) := fun _ _ h => (no_stream (Instr.streams_of_wf h)).elim

theorem eventRecordWrite : Statement (.eventRecordWrite) := fun _ _ h => (no_stream (Instr.streams_of_wf h)).elim

theorem registerWrite (r : HostReg) (o : Nat) (z : Bool) (n : W64) : Statement (.registerWrite r o z n) := fun _ _ h => (no_stream (Instr.streams_of_wf h)).elim

theorem configureQueue : Statement (.configureQueue) := fun _ _ h => (no_stream (Instr.streams_of_wf h)).elim

theorem setRoot : Statement (.setRoot) := fun _ _ h => (no_stream (Instr.streams_of_wf h)).elim

theorem flushAsid : Statement (.flushAsid) := fun _ _ h => (no_stream (Instr.streams_of_wf h)).elim

theorem revoke : Statement (.revoke) := fun _ _ h => (no_stream (Instr.streams_of_wf h)).elim

theorem quiesced (k : Nat) : Statement (.quiesced k) := fun _ _ h => (no_stream (Instr.streams_of_wf h)).elim

theorem resume : Statement (.resume) := fun _ _ h => (no_stream (Instr.streams_of_wf h)).elim

theorem preemptNode : Statement (.preemptNode) := fun _ _ h => (no_stream (Instr.streams_of_wf h)).elim

theorem preemptForced : Statement (.preemptForced) := fun _ _ h => (no_stream (Instr.streams_of_wf h)).elim

theorem holdReachesCore (c : CoreId) : Statement (.holdReachesCore c) := fun _ _ h => (no_stream (Instr.streams_of_wf h)).elim

theorem preempted (p : Fin 16) : Statement (.preempted p) := fun _ _ h => (no_stream (Instr.streams_of_wf h)).elim

theorem restore : Statement (.restore) := fun _ _ h => (no_stream (Instr.streams_of_wf h)).elim

theorem restored (p : Fin 16) : Statement (.restored p) := fun _ _ h => (no_stream (Instr.streams_of_wf h)).elim

theorem setPartition : Statement (.setPartition) := fun _ _ h => (no_stream (Instr.streams_of_wf h)).elim

theorem setPartitionRemove : Statement (.setPartitionRemove) := fun _ _ h => (no_stream (Instr.streams_of_wf h)).elim

theorem setCommons : Statement (.setCommons) := fun _ _ h => (no_stream (Instr.streams_of_wf h)).elim

theorem setWarren : Statement (.setWarren) := fun _ _ h => (no_stream (Instr.streams_of_wf h)).elim

theorem setFabricGeometry : Statement (.setFabricGeometry) := fun _ _ h => (no_stream (Instr.streams_of_wf h)).elim

theorem setFabricGroup : Statement (.setFabricGroup) := fun _ _ h => (no_stream (Instr.streams_of_wf h)).elim

theorem setFabricLink : Statement (.setFabricLink) := fun _ _ h => (no_stream (Instr.streams_of_wf h)).elim

theorem readScree : Statement (.readScree) := fun _ _ h => (no_stream (Instr.streams_of_wf h)).elim

theorem screeRelease : Statement (.screeRelease) := fun _ _ h => (no_stream (Instr.streams_of_wf h)).elim

theorem readHealth : Statement (.readHealth) := fun _ _ h => (no_stream (Instr.streams_of_wf h)).elim

theorem setPowerCap : Statement (.setPowerCap) := fun _ _ h => (no_stream (Instr.streams_of_wf h)).elim

theorem recoveryCommit : Statement (.recoveryCommit) := fun _ _ h => (no_stream (Instr.streams_of_wf h)).elim

theorem flitReceive (d : Fin 4) (p : Port) (f : Flit) (at_ : List Nat) (noise : List Byte) : Statement (.flitReceive d p f at_ noise) := fun _ _ h => (no_stream (Instr.streams_of_wf h)).elim

theorem nakReceive (d : Fin 4) (p : Port) (a : BitVec 12) : Statement (.nakReceive d p a) := fun _ _ h => (no_stream (Instr.streams_of_wf h)).elim

theorem lossOfLock (d : Fin 4) (p : Port) : Statement (.lossOfLock d p) := fun _ _ h => (no_stream (Instr.streams_of_wf h)).elim

theorem laneFailure (d : Fin 4) (p : Port) (n : Fin 64) : Statement (.laneFailure d p n) := fun _ _ h => (no_stream (Instr.streams_of_wf h)).elim

theorem retrainComplete (d : Fin 4) (p : Port) : Statement (.retrainComplete d p) := fun _ _ h => (no_stream (Instr.streams_of_wf h)).elim

theorem retrainTimeout (d : Fin 4) (p : Port) : Statement (.retrainTimeout d p) := fun _ _ h => (no_stream (Instr.streams_of_wf h)).elim

theorem linkStateUpdate : Statement (.linkStateUpdate) := fun _ _ h => (no_stream (Instr.streams_of_wf h)).elim

theorem pathSilenceExpiry (d : Fin 4) (t : Fin 64) : Statement (.pathSilenceExpiry d t) := fun _ _ h => (no_stream (Instr.streams_of_wf h)).elim

theorem keyControl (d : Fin 4) (p : Port) (w : W32) : Statement (.keyControl d p w) := fun _ _ h => (no_stream (Instr.streams_of_wf h)).elim

theorem keyLow (d : Fin 4) (p : Port) : Statement (.keyLow d p) := fun _ _ h => (no_stream (Instr.streams_of_wf h)).elim

theorem keyExhausted (d : Fin 4) (p : Port) : Statement (.keyExhausted d p) := fun _ _ h => (no_stream (Instr.streams_of_wf h)).elim

theorem keyExhaustionTimeout (d : Fin 4) (p : Port) : Statement (.keyExhaustionTimeout d p) := fun _ _ h => (no_stream (Instr.streams_of_wf h)).elim

theorem fabricRead (d : Fin 4) (k : Work Nat) : Statement (.fabricRead d k) := fun _ _ h => (no_stream (Instr.streams_of_wf h)).elim

theorem fabricWrite (d : Fin 4) (k : Work Nat) : Statement (.fabricWrite d k) := fun _ _ h => (no_stream (Instr.streams_of_wf h)).elim

theorem fabricAtomic (d : Fin 4) (k : Nat) : Statement (.fabricAtomic d k) := fun _ _ h => (no_stream (Instr.streams_of_wf h)).elim

theorem fabricBankUpdate (d : Fin 4) (k : Nat) : Statement (.fabricBankUpdate d k) := fun _ _ h => (no_stream (Instr.streams_of_wf h)).elim

theorem windowRead (d : Fin 4) (k : Work Nat) : Statement (.windowRead d k) := fun _ _ h => (no_stream (Instr.streams_of_wf h)).elim

theorem windowWrite (d : Fin 4) (k : Work Nat) : Statement (.windowWrite d k) := fun _ _ h => (no_stream (Instr.streams_of_wf h)).elim

theorem ready (d : Fin 4) (k : Nat) : Statement (.ready d k) := fun _ _ h => (no_stream (Instr.streams_of_wf h)).elim

theorem xallPiece (d : Fin 4) (k : Work Nat) : Statement (.xallPiece d k) := fun _ _ h => (no_stream (Instr.streams_of_wf h)).elim

theorem fredContribution (d : Fin 4) (k : Nat) : Statement (.fredContribution d k) := fun _ _ h => (no_stream (Instr.streams_of_wf h)).elim

theorem fbarArrival (d : Fin 4) (k : Nat) : Statement (.fbarArrival d k) := fun _ _ h => (no_stream (Instr.streams_of_wf h)).elim

theorem response (d : Fin 4) (k : Nat) : Statement (.response d k) := fun _ _ h => (no_stream (Instr.streams_of_wf h)).elim

theorem hostMemRead (a : Nat) (n : Nat) : Statement (.hostMemRead a n) := fun _ _ h => (no_stream (Instr.streams_of_wf h)).elim

theorem hostMemWrite (a : Nat) (b : List Byte) : Statement (.hostMemWrite a b) := fun _ _ h => (no_stream (Instr.streams_of_wf h)).elim

theorem flrVf (v : Fin 16) : Statement (.flrVf v) := fun _ _ h => (no_stream (Instr.streams_of_wf h)).elim

theorem flrPf : Statement (.flrPf) := fun _ _ h => (no_stream (Instr.streams_of_wf h)).elim

theorem powerGood : Statement (.powerGood) := fun _ _ h => (no_stream (Instr.streams_of_wf h)).elim

theorem coldReset : Statement (.coldReset) := fun _ _ h => (no_stream (Instr.streams_of_wf h)).elim

theorem oamResetPin : Statement (.oamResetPin) := fun _ _ h => (no_stream (Instr.streams_of_wf h)).elim

theorem watchdogReport (p : Proc) : Statement (.watchdogReport p) := fun _ _ h => (no_stream (Instr.streams_of_wf h)).elim

theorem watchdogExpiry (p : Proc) : Statement (.watchdogExpiry p) := fun _ _ h => (no_stream (Instr.streams_of_wf h)).elim

theorem stageReady (d : Fin 4) : Statement (.stageReady d) := fun _ _ h => (no_stream (Instr.streams_of_wf h)).elim

theorem stageTimeout : Statement (.stageTimeout) := fun _ _ h => (no_stream (Instr.streams_of_wf h)).elim

theorem getMeasurements : Statement (.getMeasurements) := fun _ _ h => (no_stream (Instr.streams_of_wf h)).elim

theorem correctedError (n : ErrInst) : Statement (.correctedError n) := fun _ _ h => (no_stream (Instr.streams_of_wf h)).elim

theorem errorWindowEnd : Statement (.errorWindowEnd) := fun _ _ h => (no_stream (Instr.streams_of_wf h)).elim

theorem patrolScrub (n : ErrInst) (a : Nat) (r : ScrubResult) : Statement (.patrolScrub n a r) := fun _ _ h => (no_stream (Instr.streams_of_wf h)).elim

theorem railAdjust (r : Rail) (m : Nat) : Statement (.railAdjust r m) := fun _ _ h => (no_stream (Instr.streams_of_wf h)).elim

theorem thermalThrottle (n : Fin 36) (t : BitVec 16) : Statement (.thermalThrottle n t) := fun _ _ h => (no_stream (Instr.streams_of_wf h)).elim

theorem powerCapReached (w : BitVec 16) : Statement (.powerCapReached w) := fun _ _ h => (no_stream (Instr.streams_of_wf h)).elim

theorem thermalTrip (n : Fin 36) (t : BitVec 16) : Statement (.thermalTrip n t) := fun _ _ h => (no_stream (Instr.streams_of_wf h)).elim

theorem unknownPacketType (q : Fin 4096) : Statement (.unknownPacketType q) := fun _ _ h => (no_stream (Instr.streams_of_wf h)).elim

theorem msixVectorUnmask (f : Fin 17) (n : Fin 2048) : Statement (.msixVectorUnmask f n) := fun _ _ h => (no_stream (Instr.streams_of_wf h)).elim

theorem hostWriteInvalidation (a : Nat) (b : List Byte) : Statement (.hostWriteInvalidation a b) := fun _ _ h => (no_stream (Instr.streams_of_wf h)).elim

end Sys2Proof.Laws.Encoding
end

