-- ==== Sys2Proof/Laws/Word.lean ====
section
/-! SUPPORT. What issuing a word can do (`State.runWord`), what its issue leaves unchanged, and what taking a trap leaves unchanged. -/

namespace Sys2Proof.Machine

/-! ## Issuing -/

/-- Where nothing stands before a word, its body alone decides. -/
theorem State.runWord_clear {s : State} {i : WordInfo} (h : s.clear i = true) (body : State → Act) :
    s.runWord i body = s.act i (body s) := by
  simp only [State.clear, Bool.and_eq_true, Bool.not_eq_true', List.isEmpty_iff, Option.isNone_iff_eq_none] at h
  obtain ⟨⟨⟨⟨h1, h2⟩, h3⟩, h4⟩, h5⟩ := h
  simp [State.runWord, h1, h2, h3, h4, h5]

theorem State.word_clear {s : State} {i : WordInfo} (h : s.clear i = true) (body : State → Act) :
    s.word i body = .next (s.act i (body s)) := by
  rw [State.word, State.runWord_clear h]

/-- Everything that the turn of a word can do. -/
theorem State.runWord_cases (s : State) (i : WordInfo) (body : State → Act) :
    (s.mayIssue = false ∧ s.runWord i body = s) ∨
    (s.mayIssue = true ∧ ∃ d r, s.myFlow.due = d :: r ∧ s.runWord i body = s.takeDue d) ∨
    (s.mayIssue = true ∧ s.myFlow.due = [] ∧ s.barred i = true ∧ s.runWord i body = s.trapHere cTAIL 0 0) ∨
    (s.mayIssue = true ∧ s.myFlow.due = [] ∧ s.barred i = false ∧ s.enterDue i = true ∧
      s.runWord i body = (s.modMyCtx fun c => { c with link := none }).trapHere cFRAME 1 0) ∨
    (s.mayIssue = true ∧ s.myFlow.due = [] ∧ s.barred i = false ∧ s.enterDue i = false ∧
      ∃ code, s.ringHold i = some code ∧ s.runWord i body = s.stallCycle s.cur.core s.cur.q s.cur.x code) ∨
    (s.clear i = true ∧ s.runWord i body = s.act i (body s)) := by
  cases hm : s.mayIssue with
  | false => simp [State.runWord, hm]
  | true =>
    cases hd : s.myFlow.due with
    | cons d r => simp [State.runWord, hm, hd]
    | nil =>
      cases hb : s.barred i with
      | true => simp [State.runWord, hm, hd, hb]
      | false =>
        cases he : s.enterDue i with
        | true => simp [State.runWord, hm, hd, hb, he]
        | false =>
          cases hr : s.ringHold i with
          | some c => simp [State.runWord, hm, hd, hb, he, hr]
          | none => simp [State.runWord, State.clear, hm, hd, hb, he, hr]

/-! ## Scalar words that wait for nothing -/

theorem State.alu_ready {s : State} {d a b : Fin 32} (h : s.busyS [a, b] = false) (hd : s.busyD [d] = false) (f : W64 → W64 → W64) :
    s.alu d a b f = .go (s.writeS d (f (s.readS a) (s.readS b))) := by simp [State.alu, h, hd]

theorem State.alu1_ready {s : State} {d a : Fin 32} (h : s.busyS [a] = false) (hd : s.busyD [d] = false) (f : W64 → W64) :
    s.alu1 d a f = .go (s.writeS d (f (s.readS a))) := by simp [State.alu1, h, hd]

theorem State.test_ready {s : State} {p : Fin 8} {a b : Fin 32} (h : s.busyS [a, b] = false) (hp : s.busyP [p] = false)
    (f : W64 → W64 → Bool) : s.test p a b f = .go (s.writeP p (f (s.readS a) (s.readS b))) := by simp [State.test, h, hp]

/-! ## Joins and queues -/

/-- A join that no tail holds (R116). -/
theorem State.join_ready {s : State} (h : s.cur.q = .ctl ∧ s.cur.x = 0 → s.me.tailsLive = false ∧ s.me.tailsBusy = false)
    (f : State → Act) : s.join f = f (if s.cur.q = .ctl ∧ s.cur.x = 0 then s.modMe Core.freeTails else s) := by
  by_cases hc : s.cur.q = .ctl ∧ s.cur.x = 0
  · obtain ⟨h1, h2⟩ := h hc
    simp [State.join, hc.1, hc.2, h1, h2]
  · have hb : (s.cur.q == .ctl && s.cur.x == 0) = false := by simpa using hc
    simp only [State.join, hb, hc, if_false]
    rfl

theorem State.freeTails_flow (s : State) : (s.modMe Core.freeTails).myFlow = s.myFlow := by
  simp only [State.myFlow, State.modMe_me, State.modMe_cur]
  cases s.cur.q <;> rfl

theorem State.freeTails_resPending (s : State) : (s.modMe Core.freeTails).resPending = s.resPending := by
  simp only [State.resPending, State.myCtx, State.modMe_me, State.modMe_cur]
  cases s.cur.q <;> rfl

theorem Core.follow_flow (k : Core) (q r : Seq) (x : Fin 4) (n : Nat) : (k.follow q n).flow r x = k.flow r x := by
  simp only [Core.follow]
  split
  · rfl
  · cases r <;> rfl

/-- Taking a branch outcome or a value leaves every flow as it is. -/
theorem Core.takeOutcome_flow (k : Core) (q r : Seq) (x : Fin 4) (n : Nat) : (k.takeOutcome q n).flow r x = k.flow r x := by
  rw [Core.takeOutcome, Core.follow_flow]
  cases r <;> rfl

theorem Core.takeValue_flow (k : Core) (q r : Seq) (x : Fin 4) (n : Nat) : (k.takeValue q n).flow r x = k.flow r x := by
  rw [Core.takeValue, Core.follow_flow]
  cases r <;> rfl

/-- Cells written from a base on read back (R112). -/
theorem Core.putCells_at (l : List W64) (k : Core) (b : Fin 512) (hl : l.length < 512) (j : Nat) (hj : j < l.length) :
    (k.putCells b l).cells.at (b + Fin.ofNat 512 j) = l[j] := by
  have ne : ∀ (l : List W64) (k : Core) (b d : Fin 512), l.length + d.val < 512 → 0 < d.val →
      (k.putCells (b + d) l).cells.at b = k.cells.at b := by
    intro l
    induction l with
    | nil => intros; rfl
    | cons v r ih =>
      intro k b d h hd
      simp only [Core.putCells, List.length_cons] at h ⊢
      have e : b + d + 1 = b + (d + 1) := by rw [add_assoc]
      have hv : (d + 1).val = d.val + 1 := by
        rw [Fin.val_add]; simp; omega
      rw [e, ih _ b (d + 1) (by omega) (by omega), Core.setCell_cells, File.at_put_ne]
      intro h'
      have := congrArg Fin.val h'
      rw [Fin.val_add] at this
      omega
  induction l generalizing k b j with
  | nil => simp at hj
  | cons v r ih =>
    simp only [Core.putCells]
    cases j with
    | zero =>
      have h0 : b + Fin.ofNat 512 0 = b := by simp
      rw [h0]
      have : (1 : Fin 512).val = 1 := rfl
      rw [ne r _ b 1 (by simp at hl; omega) (by decide)]
      simp [Core.setCell_cells]
    | succ j =>
      have e : b + Fin.ofNat 512 (j + 1) = (b + 1) + Fin.ofNat 512 j := by
        apply Fin.ext
        simp only [Fin.val_add, Fin.ofNat]
        have : (1 : Fin 512).val = 1 := rfl
        rw [this]; omega
      rw [e, ih _ _ (by simp at hl; omega) j (by simpa using hj)]
      rfl

/-! ## What the issue of a word leaves unchanged -/

/-- A change of cores leaves everything else. -/
structure State.SameButCores (s t : State) : Prop where
  mem : t.mem = s.mem
  poison : t.poison = s.poison
  setts : t.setts = s.setts
  tus : t.tus = s.tus
  dies : t.dies = s.dies
  hub : t.hub = s.hub
  agenda : t.agenda = s.agenda
  cur : t.cur = s.cur

theorem State.issued_sameButCores {s : State} (h : s.cur.q ≠ .ex) (i : WordInfo) (pc : W32) : s.SameButCores (s.issued i pc) := by
  have h' : (s.cur.q == .ex) = false := by simp [h]
  simp only [State.issued, h']
  constructor <;> rfl

theorem State.issued_core_ne {s : State} (h : s.cur.q ≠ .ex) (i : WordInfo) (pc : W32) {c : CoreId} (hc : c ≠ s.cur.core) :
    (s.issued i pc).core c = s.core c := by
  have h' : (s.cur.q == .ex) = false := by simp [h]
  simp only [State.issued, h']
  exact State.modCore_core_ne s (fun e => hc e.symm) _

/-- The ring fields of a word touch counters and what they carry, nothing else. -/
structure Core.SameButRings (a b : Core) : Prop where
  mode : b.mode = a.mode
  ctx : b.ctx = a.ctx
  ld : b.ld = a.ld
  ex : b.ex = a.ex
  st : b.st = a.st
  cells : b.cells = a.cells
  frames : b.frames = a.frames
  k : b.k = a.k
  binds : b.binds = a.binds
  wins : b.wins = a.wins
  cr : b.cr = a.cr
  hand : b.hand = a.hand
  values : b.values = a.values
  outcomes : b.outcomes = a.outcomes
  streams : b.streams = a.streams
  spad : b.spad = a.spad
  l1 : b.l1 = a.l1
  cmds : b.cmds = a.cmds

theorem Core.SameButRings.refl (k : Core) : Core.SameButRings k k := by constructor <;> rfl

theorem Core.SameButRings.trans {a b c : Core} (h : Core.SameButRings a b) (g : Core.SameButRings b c) : Core.SameButRings a c := by
  obtain ⟨h1, h2, h3, h4, h5, h6, h7, h8, h9, h10, h11, h12, h13, h14, h15, h16, h17, h18⟩ := h
  obtain ⟨g1, g2, g3, g4, g5, g6, g7, g8, g9, g10, g11, g12, g13, g14, g15, g16, g17, g18⟩ := g
  constructor <;> simp [*]

theorem Core.take_same (k : Core) (q : Seq) (n : Fin 8) : Core.SameButRings k (k.take q n) := by
  simp only [Core.take, Core.follow]
  cases follower q <;> constructor <;> rfl

theorem Core.post_same (k : Core) (q : Seq) (n : Fin 8) : Core.SameButRings k (k.post q n) := by
  constructor <;> rfl

theorem Core.takeRing_same (k : Core) (q : Seq) (y : Ring) : Core.SameButRings k (k.takeRing q y) := by
  simp only [Core.takeRing]
  split <;> split <;> first
    | exact .refl k
    | exact Core.take_same ..
    | exact (Core.take_same ..).trans (Core.take_same ..)

theorem Core.postRing_same (k : Core) (q : Seq) (y : Ring) : Core.SameButRings k (k.postRing q y) := by
  simp only [Core.postRing]
  split <;> split <;> first
    | exact .refl k
    | exact Core.post_same ..
    | exact (Core.post_same ..).trans (Core.post_same ..)

/-- The core after the issue of a word of CTL, LD or ST: its ring field has acted, and the flow of its stream has gone on. -/
theorem State.issued_me {s : State} (h : s.cur.q ≠ .ex) (i : WordInfo) (pc : W32) :
    ∃ k, Core.SameButRings s.me k ∧ (s.issued i pc).me = k.modFlow s.cur.q s.cur.x fun f =>
      { f with pc := pc, stall := 0, wait := none, posted := false, atPhase := none,
               seg := if s.me.mode == .handler || i.quiet then f.seg else f.seg.observe i.words } := by
  have h' : (s.cur.q == .ex) = false := by simp [h]
  let k1 := if (s.me.flow s.cur.q s.cur.x).posted then s.me else s.me.takeRing s.cur.q i.y
  have g1 : Core.SameButRings s.me k1 := by
    simp only [k1]; split
    · exact .refl _
    · exact Core.takeRing_same ..
  let k2 := if (s.me.flow s.cur.q s.cur.x).posted || i.memory then k1 else k1.postRing s.cur.q i.y
  have g2 : Core.SameButRings k1 k2 := by
    simp only [k2]; split
    · exact .refl _
    · exact Core.postRing_same ..
  let k3 := if s.cur.q == .ctl then k2.modAux fun a => { a with lastCtx := s.cur.x } else k2
  have g3 : Core.SameButRings k2 k3 := by
    simp only [k3]; split
    · constructor <;> rfl
    · exact .refl _
  refine ⟨k3, (g1.trans g2).trans g3, ?_⟩
  simp only [State.issued, h']
  exact State.modMe_me s _

/-! ## Traps -/

theorem State.endLease_mem (s : State) (c : CoreId) : (s.endLease c).mem = s.mem := rfl
theorem State.dropWait_mem (s : State) (c : CoreId) : (s.dropWait c).mem = s.mem := rfl
theorem State.dropWadr_mem (s : State) (c : CoreId) : (s.dropWadr c).mem = s.mem := rfl

theorem smearFrames_mem (l : List Frame) (s : State) : (smearFrames l s).2.mem = s.mem := by
  induction l generalizing s with
  | nil => rfl
  | cons f r ih =>
    simp only [smearFrames]
    split <;> simp [ih]

theorem State.smearSpill_mem (s : State) (d : CoreId) : (s.smearSpill d).mem = s.mem := by
  simp [State.smearSpill, smearFrames_mem]

theorem State.stopEx_mem (s : State) (c : CoreId) : (s.stopEx c).mem = s.mem := by
  simp only [State.stopEx]
  split
  · exact State.smearSpill_mem ..
  · rfl

theorem State.exTick_mem (s : State) (c : CoreId) : (s.exTick c).mem = s.mem := by
  simp only [State.exTick]
  split
  · exact State.smearSpill_mem ..
  · rfl

theorem State.postRun_mem (s : State) (c : CoreId) (a b d e f : Nat) : (s.postRun c a b d e f).mem = s.mem := by
  simp only [State.postRun]; split <;> rfl

theorem State.endRun_mem (s : State) (c : CoreId) (t : Trap) : (s.endRun c t).mem = s.mem := by
  simp only [State.endRun, State.modCore_mem]
  split
  · exact State.postRun_mem ..
  · exact State.postRun_mem ..

/-- Taking a trap leaves memory as it is (R120). -/
theorem State.takeTrap_mem (s : State) (c : CoreId) (t : Trap) : (s.takeTrap c t).mem = s.mem := by
  simp only [State.takeTrap]
  split
  · rfl
  · simp only [State.enterTrap]
    split
    · rw [State.endRun_mem]; exact State.stopEx_mem ..
    · exact State.stopEx_mem ..

theorem State.trapHere_mem (s : State) (cause : BitVec 8) (d n : Nat) : (s.trapHere cause d n).mem = s.mem := State.takeTrap_mem ..

theorem State.stallCycle_mem (s : State) (c : CoreId) (q : Seq) (x : Fin 4) (n : Nat) : (s.stallCycle c q x n).mem = s.mem := by
  simp only [State.stallCycle]
  split
  · rfl
  · split
    · exact State.takeTrap_mem ..
    · rfl

theorem State.issued_mem (s : State) (i : WordInfo) (pc : W32) : (s.issued i pc).mem = s.mem := by
  simp only [State.issued, State.modMe_mem]
  split
  · exact State.exTick_mem ..
  · rfl

end Sys2Proof.Machine
end

