-- ==== Sys2Proof/Laws/Trap.lean ====
section
/-! SUPPORT. What the landing of EX results, the stop of EX and the entry into a trap leave as they are (R120, R231, R232). -/

namespace Sys2Proof.Machine

/-- What a landing result does not touch. -/
structure Core.SameButEx (a b : Core) : Prop where
  mode : b.mode = a.mode
  ctx : b.ctx = a.ctx
  ld : b.ld = a.ld
  st : b.st = a.st
  cells : b.cells = a.cells
  frames : b.frames = a.frames
  k : b.k = a.k
  binds : b.binds = a.binds
  wins : b.wins = a.wins
  hand : b.hand = a.hand
  rings : b.rings = a.rings
  values : b.values = a.values
  outcomes : b.outcomes = a.outcomes
  l1 : b.l1 = a.l1
  cmds : b.cmds = a.cmds
  aux : b.aux = { a.aux with region := b.aux.region }
  vec : b.cr.trapVec = a.cr.trapVec
  resume : b.cr.trapResume = a.cr.trapResume
  marks : b.cr.marks = a.cr.marks

theorem Core.SameButEx.refl (k : Core) : Core.SameButEx k k := by constructor <;> rfl

theorem Core.SameButEx.trans {a b c : Core} (h : Core.SameButEx a b) (g : Core.SameButEx b c) : Core.SameButEx a c := by
  have e : c.aux = { a.aux with region := c.aux.region } := by rw [g.aux, h.aux]
  obtain ⟨h1, h2, h3, h4, h5, h6, h7, h8, h9, h10, h11, h12, h13, h14, h15, -, h17, h18, h19⟩ := h
  obtain ⟨g1, g2, g3, g4, g5, g6, g7, g8, g9, g10, g11, g12, g13, g14, g15, -, g17, g18, g19⟩ := g
  constructor <;> first | exact e | simp only [*]

theorem Core.spadSet_same (k : Core) (o : Nat) (v : Byte) : Core.SameButEx k (k.spadSet o v) := by
  simp only [Core.spadSet]
  split
  · split <;> constructor <;> rfl
  · exact .refl k

theorem Core.spadFold_same (f : Nat → Nat) (g : Nat → Byte) (l : List Nat) (k : Core) :
    Core.SameButEx k (l.foldl (fun k i => k.spadSet (f i) (g i)) k) := by
  induction l generalizing k with
  | nil => exact .refl k
  | cons i r ih => exact (Core.spadSet_same ..).trans (ih _)

theorem Core.modEx_same (k : Core) (f : Ex → Ex) : Core.SameButEx k (k.modEx f) := by constructor <;> rfl

theorem Core.landOne_same (k : Core) (f : InFlight) : Core.SameButEx k (k.landOne f) := by
  obtain ⟨uid, land, dest, zb, lanes, flags, value, oox⟩ := f
  have h1 : ∀ k : Core, Core.SameButEx k (k.modCr fun c =>
      { c with fpflags := c.fpflags ||| flags, ooxCount := if oox.isSome then satInc c.ooxCount else c.ooxCount }) := by
    intro k; constructor <;> rfl
  have h2 : ∀ (k : Core) (p : W32), Core.SameButEx k (k.modFlow .ex 0 fun g => { g with due := g.due ++ [⟨cEXTENT, p⟩] }) := by
    intro k p; constructor <;> rfl
  have h3 : ∀ (k : Core) (q : Seq) (n : Fin 16) (i : Nat) (v : Line), Core.SameButEx k (k.fillSlot q n i v) := by
    intro k q n i v; constructor <;> rfl
  cases oox with
  | none =>
    cases dest with
    | spad a =>
      simp only [Core.landOne]
      generalize List.range 256 = l
      exact (h1 k).trans (Core.spadFold_same (fun i => (a + i) % 2 ^ 32) (fun i => BitVec.ofNat 8 (laneOf value.toNat i 8)) l _)
    | stream n i => simp only [Core.landOne]; exact (h1 k).trans (h3 ..)
    | _ => simp only [Core.landOne]; exact (h1 k).trans (Core.modEx_same _ _)
  | some p =>
    obtain ⟨p, b⟩ := p
    cases b with
    | false =>
      cases dest with
      | spad a =>
        simp only [Core.landOne]
        generalize List.range 256 = l
        exact (h1 k).trans (Core.spadFold_same (fun i => (a + i) % 2 ^ 32) (fun i => BitVec.ofNat 8 (laneOf value.toNat i 8)) l _)
      | stream n i => simp only [Core.landOne]; exact (h1 k).trans (h3 ..)
      | _ => simp only [Core.landOne]; exact (h1 k).trans (Core.modEx_same _ _)
    | true =>
      cases dest with
      | spad a =>
        simp only [Core.landOne]
        generalize List.range 256 = l
        exact ((h1 k).trans (h2 _ p)).trans (Core.spadFold_same (fun i => (a + i) % 2 ^ 32) (fun i => BitVec.ofNat 8 (laneOf value.toNat i 8)) l _)
      | stream n i => simp only [Core.landOne]; exact ((h1 k).trans (h2 _ p)).trans (h3 ..)
      | _ => simp only [Core.landOne]; exact ((h1 k).trans (h2 _ p)).trans (Core.modEx_same _ _)

theorem Core.landAll_same (l : List InFlight) (k : Core) : Core.SameButEx k (k.landAll l) := by
  induction l generalizing k with
  | nil => exact .refl k
  | cons f r ih => exact (Core.landOne_same k f).trans (ih _)

theorem Core.stopEx_same (k : Core) : Core.SameButEx k k.stopEx := by
  simp only [Core.stopEx]
  exact (Core.landAll_same _ k).trans (Core.modEx_same _ _)

theorem Core.exTick_same (k : Core) : Core.SameButEx k k.exTick := by
  simp only [Core.exTick, Core.landDue]
  exact ((Core.modEx_same k _).trans (Core.modEx_same _ _)).trans (Core.landAll_same _ _)

/-- What the stop of EX leaves of a core; what spilled frames hold may become open (R112). -/
structure Core.SameButSpill (a b : Core) : Prop where
  mode : b.mode = a.mode
  ctx : b.ctx = a.ctx
  ld : b.ld = a.ld
  st : b.st = a.st
  cells : b.cells = a.cells
  k : b.k = a.k
  binds : b.binds = a.binds
  hand : b.hand = a.hand
  rings : b.rings = a.rings
  values : b.values = a.values
  outcomes : b.outcomes = a.outcomes
  l1 : b.l1 = a.l1
  cmds : b.cmds = a.cmds
  aux : b.aux = { a.aux with region := b.aux.region }
  vec : b.cr.trapVec = a.cr.trapVec
  resume : b.cr.trapResume = a.cr.trapResume
  marks : b.cr.marks = a.cr.marks

theorem Core.SameButEx.spill {a b : Core} (h : Core.SameButEx a b) : Core.SameButSpill a b := by
  obtain ⟨h1, h2, h3, h4, h5, h6, h7, h8, h9, h10, h11, h12, h13, h14, h15, h16, h17, h18, h19⟩ := h
  constructor <;> assumption

theorem Core.SameButSpill.trans {a b c : Core} (h : Core.SameButSpill a b) (g : Core.SameButSpill b c) : Core.SameButSpill a c :=
  ⟨g.mode.trans h.mode, g.ctx.trans h.ctx, g.ld.trans h.ld, g.st.trans h.st, g.cells.trans h.cells, g.k.trans h.k, g.binds.trans h.binds, g.hand.trans h.hand, g.rings.trans h.rings,
    g.values.trans h.values, g.outcomes.trans h.outcomes, g.l1.trans h.l1, g.cmds.trans h.cmds, by rw [g.aux, h.aux], g.vec.trans h.vec, g.resume.trans h.resume, g.marks.trans h.marks⟩

theorem smearFrames_core (l : List Frame) (s : State) (d : CoreId) : (smearFrames l s).2.core d = s.core d := by
  induction l generalizing s with
  | nil => rfl
  | cons f r ih =>
    simp only [smearFrames]
    split <;> (simp only [ih]; try rfl)

theorem State.smearSpill_core_ne (s : State) {c d : CoreId} (h : c ≠ d) : (s.smearSpill c).core d = s.core d := by
  simp only [State.smearSpill]
  rw [State.modCore_core_ne _ h, smearFrames_core]

theorem State.smearSpill_same (s : State) (c : CoreId) : Core.SameButSpill (s.core c) ((s.smearSpill c).core c) := by
  simp only [State.smearSpill, State.modCore_core_self]
  rw [smearFrames_core]
  constructor <;> rfl

theorem State.stopEx_same (s : State) (c : CoreId) : Core.SameButSpill (s.core c) ((s.stopEx c).core c) := by
  have h : Core.SameButSpill (s.core c) ((s.modCore c Core.stopEx).core c) := by
    rw [State.modCore_core_self]; exact (Core.stopEx_same _).spill
  simp only [State.stopEx]
  split
  · have g := State.smearSpill_same (s.modCore c Core.stopEx) c
    exact h.trans g
  · exact h

theorem State.stopEx_core_ne (s : State) {c d : CoreId} (h : c ≠ d) : (s.stopEx c).core d = s.core d := by
  simp only [State.stopEx]
  split
  · rw [State.smearSpill_core_ne _ h, State.modCore_core_ne _ h]
  · rw [State.modCore_core_ne _ h]

theorem State.exTick_core_ne (s : State) {c d : CoreId} (h : c ≠ d) : (s.exTick c).core d = s.core d := by
  simp only [State.exTick]
  split
  · rw [State.smearSpill_core_ne _ h, State.modCore_core_ne _ h]
  · rw [State.modCore_core_ne _ h]

theorem State.exTick_same (s : State) (c : CoreId) : Core.SameButSpill (s.core c) ((s.exTick c).core c) := by
  have h : Core.SameButSpill (s.core c) ((s.modCore c Core.exTick).core c) := by
    rw [State.modCore_core_self]; exact (Core.exTick_same _).spill
  simp only [State.exTick]
  split
  · have g := State.smearSpill_same (s.modCore c Core.exTick) c
    exact h.trans g
  · exact h

end Sys2Proof.Machine
end

