-- ==== Sys2Proof/Laws/Values.lean ====
section
/-! SUPPORT. The scalar values of `Flags` in the spec's own arithmetic (R66, R159 to R165). -/

namespace Sys2Proof.Machine

theorem satS_eq (v : Int) : satS 64 v = max (-2 ^ 63) (min (2 ^ 63 - 1) v) := by
  simp only [satS]; split <;> (try split) <;> omega

theorem shlVal_eq (a b : W64) : shlVal a b = if 64 ≤ b.toNat then 0 else BitVec.ofNat 64 (a.toNat * 2 ^ b.toNat) := by
  simp only [shlVal, ge_iff_le]
  split
  · rfl
  · apply BitVec.eq_of_toNat_eq
    simp [BitVec.toNat_shiftLeft, Nat.shiftLeft_eq]

theorem shrVal_eq (a b : W64) : shrVal a b = if 64 ≤ b.toNat then 0 else BitVec.ofNat 64 (a.toNat / 2 ^ b.toNat) := by
  simp only [shrVal, ge_iff_le]
  split
  · rfl
  · apply BitVec.eq_of_toNat_eq
    simp only [BitVec.toNat_ushiftRight, Nat.shiftRight_eq_div_pow, BitVec.toNat_ofNat]
    exact (Nat.mod_eq_of_lt (Nat.lt_of_le_of_lt (Nat.div_le_self _ _) a.isLt)).symm

theorem sraVal_eq (a b : W64) :
    sraVal a b = if 64 ≤ b.toNat then (if a.toInt < 0 then -1 else 0) else BitVec.ofInt 64 (a.toInt / 2 ^ b.toNat) := by
  simp only [sraVal, ge_iff_le]
  split
  · rw [BitVec.msb_eq_toInt]
    by_cases h : a.toInt < 0 <;> simp [h]
  · apply BitVec.eq_of_toInt_eq
    rw [BitVec.toInt_sshiftRight, BitVec.toInt_ofInt, Int.shiftRight_eq_div_pow]
    have hp : (1 : Int) ≤ 2 ^ b.toNat := by exact_mod_cast Nat.one_le_two_pow
    have hl : -(2 ^ 63 : Int) ≤ a.toInt := by simpa using BitVec.le_toInt (x := a)
    have hu : a.toInt < 2 ^ 63 := by simpa using BitVec.toInt_lt (x := a)
    rw [Int.bmod_eq_of_le]
    · norm_cast
    · have : -(2 ^ 63) ≤ a.toInt / 2 ^ b.toNat := by
        rw [Int.le_ediv_iff_mul_le (by linarith)]
        nlinarith
      simpa using this
    · have : a.toInt / 2 ^ b.toNat < 2 ^ 63 := by
        rw [Int.ediv_lt_iff_lt_mul (by linarith)]
        nlinarith
      simpa using this

theorem remVal_eq (a b : W64) : remVal a b = if b = 0 then a else BitVec.ofInt 64 (a.toInt - b.toInt * a.toInt.tdiv b.toInt) := by
  simp only [remVal, Int.tmod_def]

theorem remnVal_eq (a b : W64) : remnVal a b = if b = 0 then a else BitVec.ofNat 64 (a.toNat - b.toNat * (a.toNat / b.toNat)) := by
  simp only [remnVal, Nat.mod_eq_sub]

theorem minVal_eq (a b : W64) : minVal a b = if a.toInt ≤ b.toInt then a else b := by
  simp only [minVal]; split <;> split <;> first | rfl | omega

theorem maxVal_eq (a b : W64) : maxVal a b = if a.toInt ≤ b.toInt then b else a := by
  simp only [maxVal]
  split <;> split <;> first
    | rfl
    | omega
    | (apply BitVec.eq_of_toInt_eq; omega)

theorem minnVal_eq (a b : W64) : minnVal a b = if a.toNat ≤ b.toNat then a else b := by
  simp only [minnVal]; split <;> split <;> first | rfl | omega

theorem maxnVal_eq (a b : W64) : maxnVal a b = if a.toNat ≤ b.toNat then b else a := by
  simp only [maxnVal]
  split <;> split <;> first
    | rfl
    | omega
    | (apply BitVec.eq_of_toNat_eq; omega)

theorem clzVal_eq (a : W64) : clzVal a = BitVec.ofNat 64 (if a = 0 then 64 else 63 - Nat.log2 a.toNat) := by
  have h : a.toNat = 0 ↔ a = 0 := ⟨fun h => BitVec.eq_of_toNat_eq (by simpa using h), fun h => by simp [h]⟩
  simp only [clzVal, bitLen, h]
  split <;> congr 1
  omega

theorem popcVal_eq (a : W64) : popcVal a = BitVec.ofNat 64 ((List.range 64).countP fun j => a.getLsbD j) := by
  rw [popcVal, ← List.countP_eq_length_filter]

/-- What `lih` writes (R161). -/
theorem lih_eq (v : W64) (m : BitVec 16) : (v <<< 16) ||| m.setWidth 64 = BitVec.ofNat 64 (v.toNat % 2 ^ 48 * 2 ^ 16 + m.toNat) := by
  apply BitVec.eq_of_toNat_eq
  rw [BitVec.toNat_or, BitVec.toNat_shiftLeft, BitVec.toNat_setWidth, BitVec.toNat_ofNat, Nat.shiftLeft_eq]
  have hm := m.isLt
  have e : v.toNat * 2 ^ 16 % 2 ^ 64 = (v.toNat % 2 ^ 48) * 2 ^ 16 := by omega
  rw [e, Nat.mod_eq_of_lt (a := m.toNat) (by omega), ← Nat.shiftLeft_eq, ← Nat.shiftLeft_add_eq_or_of_lt hm, Nat.shiftLeft_eq]
  omega

/-- A field taken out, bit by bit (R165). -/
theorem extVal_bit (a : W64) {p w k : Nat} (hk : k < 64) : (extVal a p w).getLsbD k = (decide (k < w) && a.getLsbD (p + k)) := by
  simp only [extVal, bitsOf, BitVec.getLsbD_ofNat, hk, decide_true, Bool.true_and, ← Nat.shiftRight_eq_div_pow, Nat.testBit_mod_two_pow,
    Nat.testBit_shiftRight]
  rfl

/-- A field put in, bit by bit (R165). -/
theorem insVal_bit (d a : W64) {p w k : Nat} (hk : k < 64) :
    (insVal d a p w).getLsbD k = if p ≤ k ∧ k < p + w then a.getLsbD (k - p) else d.getLsbD k := by
  have e : d.toNat - bitsOf d.toNat p w * 2 ^ p + bitsOf a.toNat 0 w * 2 ^ p
      = 2 ^ (p + w) * (d.toNat / 2 ^ (p + w)) + (2 ^ p * (a.toNat % 2 ^ w) + d.toNat % 2 ^ p) := by
    simp only [bitsOf, pow_zero, Nat.div_one]
    have h1 := Nat.div_add_mod d.toNat (2 ^ p)
    have h2 := Nat.div_add_mod (d.toNat / 2 ^ p) (2 ^ w)
    rw [Nat.pow_add, ← Nat.div_div_eq_div_mul]
    generalize d.toNat / 2 ^ p / 2 ^ w = q at *
    generalize d.toNat / 2 ^ p % 2 ^ w = r at *
    generalize d.toNat % 2 ^ p = t at *
    generalize a.toNat % 2 ^ w = z at *
    rw [← h2] at h1
    have h3 : d.toNat = 2 ^ p * 2 ^ w * q + 2 ^ p * r + t := by rw [← h1]; ring
    rw [h3, show r * 2 ^ p = 2 ^ p * r by ring, show z * 2 ^ p = 2 ^ p * z by ring]
    omega
  have hb : 2 ^ p * (a.toNat % 2 ^ w) + d.toNat % 2 ^ p < 2 ^ (p + w) := by
    have h1 := Nat.mod_lt a.toNat (Nat.two_pow_pos w)
    have h2 := Nat.mod_lt d.toNat (Nat.two_pow_pos p)
    rw [Nat.pow_add]
    calc _ < 2 ^ p * (a.toNat % 2 ^ w) + 2 ^ p := by omega
      _ = 2 ^ p * (a.toNat % 2 ^ w + 1) := by ring
      _ ≤ _ := Nat.mul_le_mul_left _ h1
  simp only [insVal, BitVec.getLsbD_ofNat, hk, decide_true, Bool.true_and]
  rw [e, Nat.testBit_two_pow_mul_add _ hb, Nat.testBit_two_pow_mul_add _ (Nat.mod_lt _ (Nat.two_pow_pos p)), Nat.testBit_mod_two_pow,
    Nat.testBit_mod_two_pow, Nat.testBit_div_two_pow]
  by_cases h1 : k < p
  · simp [h1, Nat.not_le.mpr h1, show k < p + w by omega]
    rfl
  · by_cases h2 : k < p + w
    · simp [h1, h2, show p ≤ k by omega, show k - p < w by omega]
      rfl
    · simp [h2, show k - (p + w) + (p + w) = k by omega]
      rfl

/-- The conditions 0 to 9 between 64-bit values (R53, R162). -/
theorem condHolds_eq (a b : W64) :
    condHolds .eq a b = decide (a = b) ∧ condHolds .ne a b = decide (a ≠ b) ∧ condHolds .lt a b = decide (a.toInt < b.toInt) ∧
    condHolds .le a b = decide (a.toInt ≤ b.toInt) ∧ condHolds .gt a b = decide (b.toInt < a.toInt) ∧
    condHolds .ge a b = decide (b.toInt ≤ a.toInt) ∧ condHolds .lo a b = decide (a.toNat < b.toNat) ∧
    condHolds .ls a b = decide (a.toNat ≤ b.toNat) ∧ condHolds .hi a b = decide (b.toNat < a.toNat) ∧
    condHolds .hs a b = decide (b.toNat ≤ a.toNat) := by
  have ht : ∀ v : W64, toSigned 64 v.toNat = v.toInt := by
    intro v
    have := v.isLt
    simp only [toSigned, BitVec.toInt_eq_toNat_cond, Nat.mod_eq_of_lt v.isLt]
    split <;> split <;> omega
  have hm : ∀ v : W64, v.toNat % 2 ^ 64 = v.toNat := fun v => Nat.mod_eq_of_lt v.isLt
  have he : (a.toNat == b.toNat) = decide (a = b) := by
    rw [Bool.eq_iff_iff]; simp [BitVec.toNat_eq]
  simp only [condHolds, intCmp, ht, hm, he, bne, true_and, and_self]
  simp

end Sys2Proof.Machine
end

