-- ==== Sys2Proof/Tests/Slice0.lean ====
section
/-! SUPPORT. Tests: ill-formed terms that `Instr.wf` refuses, words written out from the spec's encodings, single steps against values worked
out from the rules, and for every statement with hypotheses a state and operands that meet them together. -/

namespace Sys2Proof.Tests

open Sys2Proof Sys2Proof.Machine

set_option Elab.async false

/-! ## Helpers -/

/-- A ring field of zeros. -/
def y0 : Ring := ⟨false, false, false, false⟩

/-- No wait of a command. -/
def noWait : Waits := ⟨none, none, none⟩

/-- One unit of core 0 has its turn. -/
def onTurn (q : Seq) (s : State) : State := { s with cur := ⟨0, q, 0⟩ }

/-- Core 0 runs with c0 live and what a function gives it; one of its units has its turn. -/
def ready (q : Seq) (f : Core → Core) : State :=
  onTurn q (State.reset.modCore 0 fun k => f ({ k with mode := .running }.modCtx 0 fun c => { c with live := true }))

/-- What a step answers has a property, where it answers a next state. -/
def after (o : Host.Outcome State Fault Refusal) (f : State → Bool) : Bool := match o with | .next t => f t | _ => false

/-- A value in s1 to s7 of c0. -/
def setS (n : Fin 32) (v : W64) (k : Core) : Core := k.writeS 0 n v

/-- A partition of every cluster, with a save area. -/
def part0 : Part :=
  { clusters := 0xFFFF, ranges := [], raceBase := 0, raceK := 0, racePolicy := false, raceMode := false, watch := false, saveBase := 0x8000000000,
    preqBase := 0, rlogWr := 0, rlogRd := 0, preqWr := 0, preqRd := 0, pre := .none, preStart := 0, seqno := 0, rr := 0, nextId := 0 }

/-- A state with partition 0. -/
def withPart (t : Part) (s : State) : State := s.modHub fun h => { h with parts := h.parts.put 0 (some t) }

/-- A flit of a kind of record from die address 5 to die address 0. -/
def flit0 (rkind : Nat) : Flit := { hdr := BitVec.ofNat 64 (5 * 2 ^ 20), h0 := BitVec.ofNat 64 (rkind * 2 ^ 11), h1 := 0, data := [1] }


/-! ## Well-formed and ill-formed terms -/

/-- One ill-formed term for each check of the operands. -/
theorem test_ill_formed :
    (Instr.br y0 0 false .bq).operandsOk .ctl = false ∧ (Instr.loop y0 0 0).operandsOk .ctl = false ∧
    (Instr.loop y0 0 7).operandsOk .ctl = false ∧ (Instr.loopI y0 0 0).operandsOk .ctl = false ∧
    (Instr.mwait y0 noWait).operandsOk .ctl = false ∧ (Instr.recv y0 8).operandsOk .ex = false ∧
    (Instr.cmp y0 1 2 3 .un).operandsOk .ctl = false ∧ (Instr.cmpi y0 1 .un 2 3).operandsOk .ctl = false ∧
    (Instr.ext y0 1 2 32 32).operandsOk .ctl = false ∧ (Instr.ins y0 1 2 63 1).operandsOk .ctl = false ∧
    (Instr.xlat y0 1 2 3 false false).operandsOk .ctl = false ∧ (Instr.xlatR y0 1 2 3 false false 4).operandsOk .ctl = false ∧
    (Instr.sts y0 1 2 3 .i8 0).operandsOk .ctl = false ∧ (Instr.amo y0 1 2 3 .n16 0 4 .add .cl).operandsOk .ctl = false ∧
    (Instr.cas y0 1 2 3 .i32 0 4 5 .cl).operandsOk .ctl = false ∧ (Instr.acmp y0 1 2 3 .un).operandsOk .ld = false := by decide

theorem test_ill_formed_commands :
    (Instr.bk y0 1 2 3 4 noWait .add .i32 false).operandsOk .ctl = false ∧
    (Instr.bk y0 16 2 3 4 noWait .add .i32 false).operandsOk .st = false ∧
    (Instr.bk y0 2 2 3 4 ⟨some 4, none, none⟩ .add .i32 false).operandsOk .ctl = false ∧
    (Instr.bk y0 2 2 3 4 noWait .and .f32 false).operandsOk .ctl = false ∧
    (Instr.bk y0 2 2 3 4 noWait .rq .mx8 true).operandsOk .ctl = false ∧
    (Instr.bkred y0 2 2 3 4 noWait .i32 .f32).operandsOk .ctl = false ∧ (Instr.wqPush y0 3 1 noWait 1 0).operandsOk .ctl = false ∧
    (Instr.wqPop y0 2 1 ⟨some 1, none, none⟩ 1 0).operandsOk .ctl = false ∧ (Instr.wqPeek y0 18 1 noWait 1 0).operandsOk .st = false ∧
    (Instr.xall y0 3 1 2 4 noWait 1 0).operandsOk .ctl = false ∧ (Instr.fred y0 2 1 2 4 noWait .n64 .n64).operandsOk .ctl = false ∧
    (Instr.fput y0 3 1 2 4 noWait).operandsOk .ctl = false ∧ (Instr.fget y0 2 1 2 4 ⟨none, some 4, none⟩).operandsOk .ctl = false ∧
    (Instr.famo y0 2 1 2 4 noWait (.amo .add) .cl true).operandsOk .ctl = false ∧
    (Instr.fbar y0 4 ⟨none, none, some 4⟩ 0).operandsOk .ctl = false := by decide

theorem test_ill_formed_streams :
    (Instr.ldq y0 8 1 2 0).operandsOk .ld = false ∧ (Instr.stq y0 7 1 2 0).operandsOk .st = false ∧
    (Instr.strel y0 7 1 2 .cl 0).operandsOk .st = false ∧ (Instr.upd y0 8 1 2 .and .f32 0).operandsOk .st = false ∧
    (Instr.ldsp y0 0 1 2 3 4 ⟨some 4, none, none⟩ 0).operandsOk .ld = false ∧ (Instr.stsp y0 0 1 2 3 4 ⟨some 4, none, none⟩ 0).operandsOk .st = false ∧
    (Instr.gth y0 0 1 2 3 4 noWait false 7).operandsOk .ld = false ∧ (Instr.sct y0 0 1 2 3 4 noWait false 7).operandsOk .st = false ∧
    (Instr.faddF32 y0 (.b 0) (.q 0) (.q 1)).operandsOk .ex = false ∧ (Instr.faddF32 y0 (.q 8) (.q 9) (.q 1)).operandsOk .ex = false ∧
    (Instr.fmaF32 y0 (.q 8) (.q 0) (.q 1)).operandsOk .ex = false ∧ (Instr.fcmpF32 y0 .lo 0 (.q 0) (.q 1)).operandsOk .ex = false ∧
    (Instr.icmpI8 y0 .un 0 (.q 0) (.q 1)).operandsOk .ex = false ∧ (Instr.qmax y0 0 (.q 8)).operandsOk .ex = false ∧
    (Instr.zld y0 (.zh 0) 1 0).operandsOk .ex = false ∧ (Instr.zst y0 (.q 8) 0 0).operandsOk .ex = false ∧
    (Instr.mset y0 0 63 2).operandsOk .ex = false ∧ (Instr.mset y0 0 64 0).operandsOk .ex = false ∧
    (Instr.mlog y0 .not 0 1 2).operandsOk .ex = false ∧ (Instr.zli y0 (.q 0) 0).operandsOk .ex = false ∧
    (Instr.mma y0 0 1 2 0 false false).operandsOk .ex = false ∧ (Instr.mmov y0 0 1 0).operandsOk .ex = false := by decide

/-- A word that its stream cannot hold. -/
theorem test_wrong_stream :
    (Instr.add y0 1 2 3).wf .ex = false ∧ (Instr.ldq y0 0 1 2 0).wf .st = false ∧ (Instr.lse y0).wf .ctl = false ∧
    (Instr.call y0 0).wf .ld = false ∧ (Instr.timerTick).wf .ctl = false := by decide

/-- Operands at the ends of their ranges are well formed: what `EncodeDecode` speaks of. -/
theorem witness_EncodeDecode :
    (Instr.halt y0).wf .ctl = true ∧ (Instr.halt y0).wf .ld = true ∧ (Instr.halt y0).wf .ex = true ∧ (Instr.halt y0).wf .st = true ∧
    (Instr.ext ⟨true, true, true, true⟩ 31 31 0 63).wf .ctl = true ∧ (Instr.mset y0 7 63 1).wf .ex = true ∧ (Instr.mset y0 0 0 64).wf .ex = true ∧
    (Instr.loop y0 3 6).wf .ld = true ∧ (Instr.xlatR y0 15 31 31 true false 31).wf .ctl = true ∧
    (Instr.bk y0 30 15 31 31 ⟨some 0, some 1, some 2⟩ .rq .mx4 false).wf .ctl = true := by decide

/-! ## Words written out from the encodings of the spec -/

/-- CTL, each word by its fields: `li` and `lih` as R161 gives them, C3 with function codes of R56, `sel`, `ext` with width 8, `ret`, `xrel`,
`trap`, `win` and `xlat` (R55). -/
theorem test_decode_ctl :
    decode .ctl 0x05500040 none = .ok (.li y0 8 0x40) ∧ decode .ctl 0x05900FF0 none = .ok (.lih y0 8 0xFF0) ∧
    decode .ctl (0x0D * 2 ^ 22 + 1 * 2 ^ 17 + 2 * 2 ^ 12 + 3 * 2 ^ 7 + 0x00) none = .ok (.add y0 1 2 3) ∧
    decode .ctl (0x0D * 2 ^ 22 + 1 * 2 ^ 17 + 2 * 2 ^ 12 + 3 * 2 ^ 7 + 0x48) none = .ok (.mulS y0 1 2 3) ∧
    decode .ctl (0x0D * 2 ^ 22 + 1 * 2 ^ 17 + 2 * 2 ^ 12 + 3 * 2 ^ 7 + 0x42) none = .bad 3 ∧
    decode .ctl (0x1A * 2 ^ 22 + 1 * 2 ^ 17 + 2 * 2 ^ 12 + 3 * 2 ^ 7 + 5 * 2 ^ 4 + 1 * 2 ^ 3) none = .ok (.sel y0 1 2 3 5 true) ∧
    decode .ctl (0x1B * 2 ^ 22 + 1 * 2 ^ 17 + 2 * 2 ^ 12 + 4 * 2 ^ 6 + 7) none = .ok (.ext y0 1 2 4 7) ∧
    decode .ctl (0x20 * 2 ^ 22) none = .ok (.ret y0) ∧ decode .ctl (0x26 * 2 ^ 22 + 5 * 2 ^ 18) none = .ok (.xrel y0 5) ∧
    decode .ctl (0x37 * 2 ^ 22 + 0 * 2 ^ 19 + 0xFF) none = .ok (.trap y0 0xFF) ∧
    decode .ctl (0x36 * 2 ^ 22 + 3 * 2 ^ 18 + 9 * 2 ^ 12 + 64) none = .ok (.win y0 3 9 64) ∧
    decode .ctl (0x24 * 2 ^ 22 + 1 * 2 ^ 18 + 8 * 2 ^ 12 + 9 * 2 ^ 7 + 1 * 2 ^ 6) none = .ok (.xlat y0 1 8 9 true false) := by decide

/-- EX: the words of R64, a sum of zh1 and q2 into q8 (R59, R60), an operand index past 25, `lse`, `mma`, and `mset` with a first lane of 8 and
one of 64 (R61). -/
theorem test_decode_ex :
    decode .ex 0x014FFFFF none = .ok (.lb y0 0 (-1)) ∧ decode .ex 0x03FA3070 none = .ok (.fmulBf16 y0 (.q 8) (.q 0) (.b 0)) ∧
    decode .ex (0x1A * 2 ^ 21 + 0x68 * 2 ^ 14 + 0x01 * 2 ^ 7 + 0x62) none = .ok (.faddF32 y0 (.q 8) (.zh 1) (.q 2)) ∧
    decode .ex (0x1A * 2 ^ 21 + 0x68 * 2 ^ 14 + 0x01 * 2 ^ 7 + 0x7A) none = .bad 3 ∧
    decode .ex (0x33 * 2 ^ 21 + 0x20 * 2 ^ 14 + 0x78 * 2 ^ 7 + 0x79) none = .ok (.iaddI32 y0 (.zv 0) .zero .lane) ∧
    decode .ex (0x76 * 2 ^ 21) none = .ok (.lse y0) ∧ decode .ex (0x78 * 2 ^ 21) none = .ok (.mma y0 0 0 0 0 false false) ∧
    decode .ex (0x73 * 2 ^ 21 + 1 * 2 ^ 14 + 8 * 2 ^ 7 + 16) none = .ok (.mset y0 1 8 16) ∧
    decode .ex (0x73 * 2 ^ 21 + 64 * 2 ^ 7) none = .bad 3 := by decide

/-- LD and ST: the words of R64, `aadd` and `strel` by their fields (R58), and a word that only the other of them has. -/
theorem test_decode_ldst :
    decode .ld 0x03404000 none = .ok (.ldq y0 0 1 0 0) ∧ decode .st 0x13608000 none = .ok (.stq ⟨false, false, false, true⟩ 8 2 0 0) ∧
    decode .ld (0x11 * 2 ^ 22 + 1 * 2 ^ 18 + 2 * 2 ^ 14 + 3 * 2 ^ 10) none = .ok (.aadd y0 1 2 3) ∧
    decode .st (0x15 * 2 ^ 22 + 8 * 2 ^ 18 + 2 * 2 ^ 14 + 3 * 2 ^ 10 + 1 * 2 ^ 7 + 5) none = .ok (.strel y0 8 2 3 .cl 5) ∧
    decode .ld (0x15 * 2 ^ 22 + 8 * 2 ^ 18 + 2 * 2 ^ 14 + 3 * 2 ^ 10 + 1 * 2 ^ 7 + 5) none = .bad 2 := by decide

/-- Two-word forms. -/
theorem test_decode_commands :
    decode .ctl 0x0E828D24 (some 0x00000000) = .ok (.bk y0 10 3 9 4 noWait .add .f32 false) ∧
    decode .ctl 0x0E9A0009 (some 0x00000045) = .ok (.wqPop y0 8 9 noWait 1 5) := by decide

/-- A word that no row describes, and a two-word form without its second word. -/
theorem test_decode_refused : decode .ctl 0x0F000000 none = .bad 2 ∧ decodeTableWord 32 0x0FC00000 = none := by decide

/-- The word of an event has no encoding; its table row decodes to none. -/
theorem test_decode_table : decodeTableWord 32 0x00400000 = some (.halt y0) ∧ decodeTableWord 32 0x05500040 = some (.li y0 8 0x40) := by decide

/-- What a fetch brings has a property. -/
def fetches (s : State) (f : List Byte → State → Bool) : Bool :=
  match s.fetch with | (.bytes b, u) => f (bytesAt b s.fetchKeys) u | _ => false

/-- Every step of a placed word runs it: the fetch of a fresh machine brings its bytes, and the line enters the instruction cache. -/
theorem witness_StepRunsDecoded :
    let s := State.reset.withFetchWord 32 0x00400000
    let t := ({ s with agenda := [] } : State).atTurn 0 .ctl 0
    let u := ({ (State.reset.withFetchWord 32 0x0FC00000) with agenda := [] } : State).atTurn 0 .ctl 0
    let p := ({ t with poison := [Config.hbmBase / 32] } : State)
    s.agenda = [.issue 0 .ctl 0] ∧ t.icacheOf 0 .ctl = [] ∧ t.poisoned t.fetchKeys = none ∧ 4 ≤ t.fetchKeys.length ∧
    fetches t (fun b v => decide ((decodeBytes .ctl b).1 = .ok (.halt y0)) && (v.icacheOf 0 .ctl).length == 1) = true ∧
    fetches u (fun b _ => decide ((decodeBytes .ctl b).1 = .bad 2)) = true ∧
    p.fetch.1 = .poison (Config.hbmBase / 32) ∧ encode .ctl .timerTick = [] := by decide +kernel

/-- The hypothesis about update-only lines holds of that machine. -/
theorem witness_StepRunsDecoded_quiet :
    let t := ({ State.reset.withFetchWord 32 0x00400000 with agenda := [] } : State).atTurn 0 .ctl 0
    ∀ d, ∀ l ∈ (t.core d).l1, l.isUpdate = false := by
  have key : ∀ d, ((({ State.reset.withFetchWord 32 0x00400000 with agenda := [] } : State).atTurn 0 .ctl 0).core d).l1 = [] := by
    intro d
    by_cases h : d = 0
    · subst h; rfl
    · simp [State.withFetchWord, State.placeWords, State.atTurn, State.core, State.modCore, State.setCore, Ne.symm h, State.reset, Core.reset]
  intro t d l hl
  rw [key d] at hl
  cases hl


/-! ## Scalar words of CTL -/

/-- R159: sums wrap, `.s` saturates, shifts by 64 give 0 or the sign. -/
theorem test_alu_edges :
    let s := ready .ctl (setS 1 0x7FFFFFFFFFFFFFFF ∘ setS 2 64 ∘ setS 3 0x8000000000000000)
    after (exec (.add y0 4 1 1) s) (fun t => t.readS 4 == 0xFFFFFFFFFFFFFFFE && t.myFlow.pc == 4) = true ∧
    after (exec (.addS y0 4 1 1) s) (fun t => t.readS 4 == 0x7FFFFFFFFFFFFFFF) = true ∧
    after (exec (.subS y0 4 3 1) s) (fun t => t.readS 4 == 0x8000000000000000) = true ∧
    after (exec (.shl y0 4 1 2) s) (fun t => t.readS 4 == 0) = true ∧
    after (exec (.sra y0 4 3 2) s) (fun t => t.readS 4 == -1) = true ∧
    after (exec (.mulh y0 4 3 3) s) (fun t => t.readS 4 == 0x4000000000000000) = true ∧
    after (exec (.mulhn y0 4 3 2) s) (fun t => t.readS 4 == 0x20) = true := by decide +kernel

/-- R159: division by 0, and of the most negative number by -1. -/
theorem test_division_corners :
    let s := ready .ctl (setS 1 0x8000000000000000 ∘ setS 2 (-1) ∘ setS 3 7)
    after (exec (.div y0 4 3 0) s) (fun t => t.readS 4 == -1) = true ∧
    after (exec (.rem y0 4 3 0) s) (fun t => t.readS 4 == 7) = true ∧
    after (exec (.div y0 4 1 2) s) (fun t => t.readS 4 == 0x8000000000000000) = true ∧
    after (exec (.rem y0 4 1 2) s) (fun t => t.readS 4 == 0) = true ∧
    after (exec (.divn y0 4 1 3) s) (fun t => t.readS 4 == 0x1249249249249249) = true := by decide +kernel

/-- R160, R161: immediates are extended as the word says; the three words of R161 build 0x40_0000_0FF0. -/
theorem test_immediates :
    let s := ready .ctl (setS 1 0x0000004000000000)
    after (exec (.addi y0 2 0 0x800) s) (fun t => t.readS 2 == 0xFFFFFFFFFFFFF800) = true ∧
    after (exec (.ori y0 2 0 0xFFF) s) (fun t => t.readS 2 == 0xFFF) = true ∧
    after (exec (.li y0 2 0x10000) s) (fun t => t.readS 2 == 0xFFFFFFFFFFFF0000) = true ∧
    after (exec (.lih y0 2 0xFF0) (ready .ctl (setS 2 0x400000))) (fun t => t.readS 2 == 0x4000000FF0) = true ∧
    after (exec (.clz y0 2 1) s) (fun t => t.readS 2 == 25) = true ∧
    after (exec (.popc y0 2 1) s) (fun t => t.readS 2 == 1) = true := by decide +kernel

/-- R162 to R165: an unsigned comparison with a negative immediate, predicates, selection and fields. -/
theorem test_predicates_and_fields :
    let s := ready .ctl (setS 1 5 ∘ setS 2 0xABCD)
    after (exec (.cmpi y0 1 .lo 1 (-1)) s) (fun t => t.readP 1) = true ∧
    after (exec (.cmpi y0 1 .lt 1 (-1)) s) (fun t => !t.readP 1) = true ∧
    after (exec (.pset y0 2 0 0 .xor) s) (fun t => !t.readP 2) = true ∧
    after (exec (.pset y0 0 0 0 .xor) s) (fun t => t.readP 0) = true ∧
    after (exec (.sel y0 3 1 2 0 true) s) (fun t => t.readS 3 == 0xABCD) = true ∧
    after (exec (.ext y0 3 2 4 7) s) (fun t => t.readS 3 == 0xBC) = true ∧
    after (exec (.ins y0 2 1 8 3) s) (fun t => t.readS 2 == 0xA5CD) = true := by decide +kernel

/-- Nothing stands before the words; a register of one awaits a load. -/
theorem witness_ScalarResults :
    let s := ready .ctl id
    let u := ready .ctl fun k => k.modCtx 0 fun c => { c with loads := [⟨1, 0, .glob 0 0, 0, 0, 8, .load false, false⟩] }
    s.clear (s.plain y0 (.add y0 1 2 3)) = true ∧ s.busyS [1, 2, 3] = false ∧
    s.clear (s.plain y0 (.divn y0 31 0 31)) = true ∧ s.busyS [31, 0, 31] = false ∧
    u.clear (u.plain y0 (.add y0 1 2 3)) = true ∧ u.busyS [1, 2, 3] = true ∧
    s.clear (s.plain y0 (.li y0 1 0)) = true ∧ s.busyS [1] = false ∧ u.clear (u.plain y0 (.lih y0 1 0)) = true ∧ u.busyS [1] = true := by
  decide +kernel

theorem witness_PredicateResults :
    let s := ready .ctl id
    s.busyP [7] = false ∧ s.clear (s.plain y0 (.cmp y0 7 1 2 .hs)) = true ∧ s.busyS [1, 2] = false ∧
    s.clear (s.plain y0 (.cmpi y0 0 .eq 1 0x200)) = true ∧ s.busyS [1] = false ∧
    s.clear (s.plain y0 (.pset y0 7 0 1 .orn)) = true ∧ s.busyP [7, 0, 1] = false := by decide +kernel

theorem witness_SelectAndFields :
    let s := ready .ctl id
    s.clear (s.plain y0 (.sel y0 1 2 3 7 true)) = true ∧ s.busyS [1, 2, 3] = false ∧ s.busyP [7] = false ∧
    s.clear (s.plain y0 (.ext y0 1 2 0 63)) = true ∧ (0 : Fin 64).val + (63 : Fin 64).val < 64 ∧
    s.clear (s.plain y0 (.ins y0 1 2 63 0)) = true ∧ s.busyS [1, 2] = false ∧
    64 ≤ (63 : Fin 64).val + (1 : Fin 64).val ∧ 0x06FC2FC1 ∈ encode .ctl (.ext y0 30 2 63 1) := by decide +kernel

/-- A register of no cell, one of a cell, and the same register of another context. -/
theorem witness_RegisterWrites :
    let k := (ready .ctl id).me
    let l := { k with frames := [⟨488, 24, 0, none, 0, false, none, false⟩] }
    k.destOf 0 0 = .none ∧ k.destOf 0 9 = .none ∧ l.destOf 0 8 ≠ .none ∧ l.destOf 0 31 ≠ l.destOf 0 30 ∧ (3 : Fin 4) ≠ 0 ∧
    (l.writeS 0 31 5).readS 0 31 = 5 := by decide +kernel

/-! ## Flow -/

/-- R147 to R150: a taken branch, the last pass of a loop, and `lx` leaving it. -/
theorem test_flow :
    let s := ready .ctl fun k => k.modFlow .ctl 0 fun f => { f with pc := 0x40, bt := f.bt.put 1 0x100, lc := f.lc.put 2 2 }
    after (exec (.br y0 1 false (.p 0)) s) (fun t => t.myFlow.pc == 0x100) = true ∧
    after (exec (.br y0 1 true (.p 0)) s) (fun t => t.myFlow.pc == 0x44) = true ∧
    after (exec (.lb y0 2 (-4)) s) (fun t => t.myFlow.pc == 0x30 && t.myFlow.lc.at 2 == 1) = true ∧
    after (exec (.lb y0 1 (-4)) s) (fun t => t.myFlow.pc == 0x44 && t.myFlow.lc.at 1 == 0) = true ∧
    after (exec (.lx y0 2 false 0 3) s) (fun t => t.myFlow.pc == 0x4C && t.myFlow.lc.at 2 == 0) = true ∧
    after (exec (.pbr y0 3 0xFFFFF) s) (fun t => t.myFlow.bt.at 3 == 0x3C) = true := by decide +kernel

/-- R13: a word takes one from the counter it waits on and adds one to the counter it posts to; with the counter at 0 it waits. -/
theorem test_rings :
    let y : Ring := ⟨true, false, true, false⟩
    let s := ready .ctl fun k => { k with rings := k.rings.put 3 1 }
    after (exec (.nop y) s) (fun t => t.me.rings.at 3 == 0 && t.me.rings.at 7 == 1 && t.myFlow.pc == 4) = true ∧
    after (exec (.nop y) (ready .ctl id)) (fun t => t.myFlow.pc == 0 && t.myFlow.wait == some 3) = true := by decide +kernel

theorem witness_StreamFlow :
    let s := ready .ctl id
    let e := ready .ex fun k => { k with outcomes := k.outcomes.put 1 [true], values := k.values.put 1 [5] }
    let g := ready .ctl fun k => { k with cmds := [s.newCmd 0 none noWait (File.all 16 .closed) (.pop 0)] }
    s.clear (s.plain y0 (.nop y0)) = true ∧ s.clear (s.plain y0 (.pbr y0 3 (-1))) = true ∧ s.clear (s.plain y0 (.loop y0 3 6)) = true ∧
    s.clear (s.plain y0 (.loopI y0 0 1)) = true ∧ s.clear (s.plain y0 (.budget y0 7)) = true ∧
    (s.clear (s.plain y0 (.mwait y0 ⟨some 0, some 31, none⟩)) = true ∧ s.me.markDone 0 = true ∧ s.me.markDone 31 = true) ∧
    (g.clear (g.plain y0 (.gen y0)) = true ∧ ∀ d ∈ g.allCmds 0, d.started = true ∨ (g.me.cr.genno - d.gen).toNat ≠ 32767) ∧
    (s.clear { s.plain y0 (.seg y0 1 0) with quiet := true } = true ∧ s.myFlow.seg.mismatch = false ∧ s.me.cr.tokPend = 0) ∧
    (s.clear (s.plain y0 (.br y0 0 true (.p 7))) = true ∧ s.busyP [7] = false) ∧
    (e.clear (e.plain y0 (.br y0 0 true .bq)) = true ∧ e.me.outcomes.at (queueOf e.cur.q) = [true]) ∧
    (s.clear (s.plain y0 (.lb y0 0 (-1))) = true ∧ e.clear (e.plain y0 (.lb y0 0 (-1))) = true) ∧
    s.clear (s.plain y0 (.lx y0 0 true 1 (-1))) = true ∧
    (s.clear (s.plain y0 (.send y0 .st 1)) = true ∧ (s.me.values.at 2).length < 16 ∧ s.busyS [1] = false) ∧
    (s.clear (s.plain y0 (.bqp y0 .ld true 0)) = true ∧ (s.me.outcomes.at 0).length < 32 ∧ s.busyP [0] = false) ∧
    (e.clear (e.plain y0 (.recv y0 7)) = true ∧ e.me.values.at (queueOf e.cur.q) = [5]) := by decide +kernel

theorem witness_HaltAndPhase :
    let s := ready .ctl id
    let e := ready .ex id
    let w : WordInfo := { s.plain y0 (.halt y0) with noTail := true, noHandler := true, quiet := true }
    let three := ready .ctl fun k => (((k.modFlow .ld 0 fun f => { f with atPhase := some y0 }).modFlow .ex 0 fun f =>
      { f with atPhase := some y0 }).modFlow .st 0 fun f => { f with atPhase := some y0 })
    let t := three.modMyFlow fun f => { f with atPhase := some y0 }
    let all := fun (t : State) => phaseUnits.all fun q => match (t.me.flow q 0).atPhase with | none => false | some z => (t.me.postWait q z).isNone
    (s.clear w = true ∧ s.me.tailsLive = false ∧ s.me.tailsBusy = false ∧ s.resPending = false ∧ s.me.cr.tokPend = 0 ∧
      s.myFlow.seg.mismatch = false) ∧
    (s.clear (s.plain y0 (.phase y0)) = true ∧ e.clear (e.plain y0 (.phase y0)) = true ∧ three.clear (three.plain y0 (.phase y0)) = true) ∧
    all t = true ∧ all (s.modMyFlow fun f => { f with atPhase := some y0 }) = false ∧
    ({ s with cur := ⟨0, .ctl, 1⟩ } : State).cur.x ≠ 0 := by decide +kernel

/-- A frame that a caller has, one with none, and the link a `call` leaves. -/
def framed (caller : Option (Fin 512)) (entry : Bool) (k : Core) : Core :=
  { k with frames := [⟨488, 24, 0x80, caller, 0, false, none, entry⟩] }

theorem witness_CallsAndFrames :
    let s := ready .ctl id
    let f := ready .ctl (framed (some 488) false)
    let l := ready .ctl fun k => k.modCtx 0 fun c => { c with link := some ⟨0x44, none, false⟩ }
    let w : WordInfo := { s.plain y0 (.call y0 3) with noTail := true }
    let e := fun (s : State) (n : FrameSize) => ({ s.plain y0 (.enter y0 n) with isEnter := true } : WordInfo)
    (s.clear (s.plain y0 (.pbrr y0 3 1)) = true ∧ s.busyS [1] = false) ∧ (s.clear w = true ∧ s.resPending = false) ∧
    (f.clear (f.plain y0 (.ret y0)) = true ∧ (f.me.frameOf 0).isSome = true ∧ f.me.isTail 0 = false ∧ f.resPending = false ∧
      f.me.tailsLive = false ∧ f.me.tailsBusy = false) ∧
    (s.clear (e s .f8) = true ∧ s.myCtx.link = none) ∧
    (l.clear (e l .f24) = true ∧ l.myCtx.link = some ⟨0x44, none, false⟩ ∧ (Core.makeRoom 512 l.me 24).isSome = true) := by decide +kernel

/-- R167, R168: `call` then `enter` give a frame that returns after the call. -/
theorem test_enter :
    let l := ready .ctl fun k => k.modCtx 0 fun c => { c with link := some ⟨0x44, none, false⟩ }
    after (exec (.enter y0 .f24) l) (fun t => (t.me.frameOf 0).any (fun f => f.retPc == 0x44 && f.size == 24) && t.myCtx.link.isNone) = true ∧
    after (exec (.enter y0 .f24) (ready .ctl id)) (fun t => t.me.mode == .ended) = true := by decide +kernel

theorem witness_Tails :
    let f := ready .ctl (framed (some 488) false)
    let full := ready .ctl fun k => (([1, 2, 3] : List (Fin 4)).foldl (fun k x => k.modCtx x fun c => { c with live := true }) (framed (some 488) false k))
    let w : WordInfo := { f.plain y0 (.relc y0) with noTail := true, noHandler := true }
    let tail := ready .ctl fun k => (framed (some 488) false k).modCtx 0 fun c => { c with mode := .tail }
    let deg := ready .ctl fun k => (framed (some 488) false k).modCtx 0 fun c =>
      { c with mode := .degraded ⟨File.all 7 1, 0, File.all 4 0, File.all 4 0, File.all 4 none⟩ }
    (f.clear w = true ∧ (f.me.frameOf 0).any (·.caller.isSome) = true ∧ f.resPending = false ∧ f.globPending = false ∧
      ([1, 2, 3] : List (Fin 4)).find? (fun x => !(f.me.ctx.at x).live) = some 1) ∧
    (full.clear w = true ∧ full.me.freeCtx = none) ∧
    (f.clear (f.plain y0 (.tjoin y0)) = true ∧ f.me.tailsLive = false ∧ f.me.tailsBusy = false) ∧
    (tail.clear (tail.plain y0 (.tend y0)) = true ∧ tail.me.isTail 0 = true ∧ tail.resPending = false ∧ tail.myCtx.mode = .tail) ∧
    (deg.clear (deg.plain y0 (.tend y0)) = true ∧ deg.me.isTail 0 = true ∧ deg.resPending = false ∧ deg.globPending = false ∧
      (deg.me.frameOf 0).isSome = true) := by decide +kernel

/-! ## Traps -/

/-- A core with a handler. -/
def handled (k : Core) : Core := k.modCr fun r => { r with trapVec := 0x200 }

/-- R120, R121, R173: `trap 5` with a handler enters it, without one ends the tile run. -/
theorem test_trap :
    after (exec (.trap y0 5) (ready .ctl handled)) (fun t => t.me.mode == .handler && t.myFlow.pc == 0x200 && t.me.cr.trapCause == 6 &&
      t.me.cr.trapPc == 0 && t.me.cr.trapResume == 4 && t.me.cr.trapInfo == 0x50000) = true ∧
    after (exec (.trap y0 5) (ready .ctl id)) (fun t => t.me.mode == .ended) = true := by decide +kernel

/-- R120, R175: after `trap`, `enter` and `rett` the stream stands at the resume PC. -/
theorem test_rett :
    after (exec (.trap y0 5) (ready .ctl handled)) (fun t => after (exec (.enter y0 .f8) t) fun u => after (exec (.rett y0) u) fun v =>
      v.me.mode == .running && v.myFlow.pc == 4 && v.me.hand.isNone) = true := by decide +kernel

theorem witness_TrapEntry :
    let t : Trap := ⟨6, .ctl, 0, 0, 4, 0⟩
    let s := ready .ctl handled
    let n := ready .ctl id
    (s.core 0).xlatOutstanding t = false ∧ (s.core 0).mode ≠ .handler ∧ (s.core 0).cr.trapVec ≠ 0 ∧ (n.core 0).xlatOutstanding t = false ∧
    (n.core 0).cr.trapVec = 0 := by decide +kernel

theorem witness_TrapsOfWords :
    let s := ready .ctl id
    let t := ready .ctl fun k => k.modCtx 0 fun c => { c with mode := .tail }
    s.clear (s.plain y0 (.trap y0 255)) = true ∧ s.clear (s.plain y0 (.brk y0 0)) = true ∧
    (s.clear (s.plain y0 (.ret y0)) = true ∧ s.me.frameOf 0 = none) ∧ (s.clear (s.plain y0 (.tend y0)) = true ∧ s.me.isTail 0 = false) ∧
    (s.clear (s.plain y0 (.rett y0)) = true ∧ s.me.mode ≠ .handler) ∧ t.mayIssue = true ∧ t.myFlow.due = [] ∧ t.me.isTail 0 = true := by
  decide +kernel

theorem witness_ReturnFromTrap :
    let s := ready .ctl fun k => { (framed (some 488) true k) with
      mode := .handler, hand := some ⟨File.all 7 3, 0, none, false, false, none, none, none, .ctl, 0⟩ }
    s.clear (s.plain y0 (.rett y0)) = true ∧ s.me.hand.isSome = true ∧ (s.me.frameOf 0).any (·.entry) = true ∧ s.me.mode = .handler ∧
    s.cur.x = 0 := by decide +kernel

theorem witness_WaitsAndRings :
    let s := ready .ctl id
    let p := ready .ctl fun k => k.modAux fun a => { a with hold := true }
    let u := ready .ctl fun k => k.modFlow .ctl 0 fun f => { f with budget := 2, stall := 0 }
    let set := fun (s : State) => s.modCore 0 fun k => k.modFlow .ctl 0 fun f => { f with wait := some 0x28 }
    let full := ready .ctl fun k => { k with values := k.values.put 1 (List.replicate 16 0), outcomes := k.outcomes.put 2 (List.replicate 32 true) }
    let tails := ready .ctl fun k => k.modCtx 2 fun c => { c with live := true, mode := .tail }
    let marks := ready .ctl fun k => k.setMark 31 false
    let e := ready .ex id
    (set p).paused 0 .ctl 0 = true ∧ (set s).paused 0 .ctl 0 = false ∧ ((u.core 0).flow .ctl 0).stall + 1 < ((u.core 0).flow .ctl 0).budget.toNat ∧
    ((s.core 0).flow .ctl 0).budget.toNat ≤ ((s.core 0).flow .ctl 0).stall + 2 ^ 24 ∧
    (e.clear (e.plain y0 (.recv y0 0)) = true ∧ e.me.values.at 1 = [] ∧ e.clear (e.plain y0 (.br y0 0 false .bq)) = true ∧ e.me.outcomes.at 1 = []) ∧
    (full.clear (full.plain y0 (.send y0 .ex 1)) = true ∧ 16 ≤ (full.me.values.at 1).length) ∧
    (full.clear (full.plain y0 (.bqp y0 .st false 1)) = true ∧ 32 ≤ (full.me.outcomes.at 2).length) ∧
    (s.clear (s.plain y0 (.wfe y0)) = true ∧ s.myCtx.latch = false) ∧
    (tails.clear (tails.plain y0 (.tjoin y0)) = true ∧ tails.me.tailsLive = true) ∧
    (marks.clear (marks.plain y0 (.mwait y0 ⟨some 31, none, none⟩)) = true ∧ marks.me.markDone 31 = false) ∧
    (s.cur.q = .ctl ∧ s.myFlow.posted = false ∧ (s.plain y0 (.nop y0)).memory = false) := by decide +kernel

/-- R117: the stalled cycle at the budget raises STALL_BUDGET. -/
theorem test_stall_budget :
    let s := ready .ctl (fun k => (handled k).modFlow .ctl 0 fun f => { f with budget := 1 })
    after (exec (.wfe y0) s) (fun t => t.me.mode == .handler && t.me.cr.trapCause == 5 && t.me.cr.trapResume == 0) = true := by decide +kernel

theorem witness_ControlRegisters :
    let s := ready .ctl id
    s.clear (s.plain y0 (.mfc y0 1 .fpmode)) = true ∧ s.busyS [1] = false ∧ s.clear (s.plain y0 (.mfc y0 31 .fabDie)) = true ∧ s.busyS [31] = false ∧
    s.cur.q = .ctl ∧ s.clear (s.plain y0 (.mtc y0 1 .trapVec)) = true ∧ s.clear (s.plain y0 (.mtc y0 1 .fabDie)) = true := by decide +kernel

/-- R5, R176: bits 1 and 0 of trap.vec stay 0; a read-only register ignores the write. -/
theorem test_mtc :
    let s := ready .ctl (setS 1 0xFFF)
    after (exec (.mtc y0 1 .trapVec) s) (fun t => t.me.cr.trapVec == 0xFFC) = true ∧
    after (exec (.mtc y0 1 .marks) s) (fun t => t.me.cr.marks == 0xFFFFFFFF && t.myFlow.pc == 4) = true := by decide +kernel

/-! ## Translation, tokens and scalar accesses -/

/-- A pin entry for bytes 0x2000 to 0x20FF of host memory (type 2) at index 1, generation 5, and the token of it, in k0. -/
def pinned (q : Seq) (f : Core → Core) : State :=
  let s := withPart part0 (ready q (f ∘ fun k => { k with k := k.k.put 0 (mkToken 256 0 false true true false 5 1) }))
  let s : State := { s with mem := (s.mem.putNum 40 8 255).putNum 48 8 (5 * 2 ^ 16 + 1) }
  s.modTu 0 fun u => { u with pins := [⟨0, 0, 1, 5, none, 1, 0, 256, [⟨0x2000, 256, 2, false⟩]⟩] }

/-- A pin table whose entries from one index on are ACTIVE. -/
def takenPins : Nat → Nat → Bytes
  | _, 0 => []
  | a, n + 1 => (32 * a + 16, 1) :: takenPins (a + 1) n


theorem takenPins_get (n : Nat) : ∀ a j, a ≤ j → j < a + n → (takenPins a n).get (32 * j + 16) = 1 := by
  induction n with
  | zero => intro a j h g; omega
  | succ n ih =>
    intro a j h g
    simp only [takenPins, Bytes.get]
    rw [if_neg (by omega)]
    split
    · rfl
    · exact ih _ _ (by omega) (by omega)


theorem takenPins_full (s : State) : ({ s with mem := takenPins 0 1024 } : State).freePin 0 = none := by
  rw [State.freePin, List.find?_eq_none]
  intro i h
  have e := takenPins_get 1024 0 i (by omega) (by simpa [Config.pinEntries] using h)
  simp only [State.pinState, State.pinWord, Bytes.num, Bytes.read, natOfBytes, bitsOf]
  rw [show BitVec.toNat 0 + 32 * i + 8 * 2 = 32 * i + 16 by simp, e]
  simp
  omega

/-- Tables in host memory: the address space 0 maps the first GiB of its VA by one leaf. -/
def tables (s : State) : State :=
  let at' := fun (m : Bytes) (a v : Nat) => m.putNum (2 ^ 52 + a) 8 v
  ({ s with mem := at' (at' (at' s.mem 0x10000 0x11401) 0x11000 0x12401) 0x12000 0x40000417 } : State).modHub fun h => { h with roots := [(0, 2, 0x10000)] }


theorem witness_Xlat :
    let s := withPart part0 (ready .ctl (setS 2 1 ∘ setS 3 5))
    let big := withPart part0 (ready .ctl (setS 1 1 ∘ setS 2 0x40000001))
    let w := fun (i : Instr) => ({ s.plain y0 i with isXlat := true } : WordInfo)
    let p : PendXlat := ⟨15, 0, 256, true, true, none, 0, none, none, false, [1], false⟩
    let t := tables (withPart part0 (ready .ctl fun k => k.modCtx 0 fun c => { c with xl := some p }))
    let r := t.walkExtent (tuOf 0) ⟨0, 0, true, false, []⟩ 0 256
    (s.cur.q = .ctl ∧ s.clear (w (.xlat y0 15 1 2 true false)) = true ∧ s.busyS [1, 2] = false ∧ (s.freePin s.me.cr.pinBase).isSome = true) ∧
    (s.clear (w (.xlatR y0 15 1 2 false true 3)) = true ∧ s.busyS [1, 2, 3] = false ∧
      (Fin.ofNat 64 (s.readS 3).toNat) ≠ s.hub.fab.dieAddr (dieOf s.cur.core) ∧ s.fabReach 0 (Fin.ofNat 64 (s.readS 3).toNat) = false) ∧
    (big.readS 2).toNat = 2 ^ 30 + 1 ∧
    (((t.core 0).ctx.at 0).xl = some p ∧ t.partOf 0 = some 0 ∧ (match r.1 with | .ok runs ls => runs == [⟨0x40000000, 256, 2, false⟩] && ls.length == 1 | _ => false) = true ∧
      r.2.revoked 0 0 256 = false ∧ (r.2.core 0).aux.trap = none ∧ (r.2.core 0).cr.pinBase = 0 ∧ r.2.freePin 0 = some 0) := by decide +kernel

/-- The remaining cases of `Xlat`: a target that a fabric group reaches, and a full pin table. -/

theorem witness_Xlat_reach :
    let s := (withPart part0 (ready .ctl (setS 2 1 ∘ setS 3 63))).modHub fun h =>
      { h with fab := { h.fab with ex := 8, ey := 8, groups := h.fab.groups.put 0 (some ⟨0, [63]⟩) } }
    s.hub.fab.exists? 63 = true ∧ s.partOf s.cur.core = some 0 ∧ s.fabReach 0 63 = true ∧
    (∀ s : State, ({ s with mem := takenPins 0 1024 } : State).freePin 0 = none) := by
  refine ⟨?_, ?_, ?_, takenPins_full⟩ <;> decide +kernel


theorem witness_TokenWords :
    let s := pinned .ctl id
    s.clear (s.plain y0 (.xrel y0 15)) = true ∧ s.currentTok s.me.cr.pinBase (s.me.k.at 15) = false ∧
    s.clear (s.plain y0 (.xrel y0 0)) = true ∧ s.currentTok s.me.cr.pinBase (s.me.k.at 0) = true ∧ s.myCtx.openLoads = [] ∧ s.myCtx.openStores = [] ∧
    (s.clear (s.plain y0 (.xinfo y0 31 0 7)) = true ∧ s.clear (s.plain y0 (.xinfo y0 0 0 0)) = true ∧ s.busyS [31] = false ∧ s.busyS [0] = false) ∧
    (s.clear (s.plain y0 (.bind y0 0 15 1 31)) = true ∧ s.busyS [1] = false) ∧ s.clear (s.plain y0 (.unbind y0 0)) = true := by decide +kernel

/-- R134, R183: the length of the token of `pinned`, and `xrel` of it leaves its entry free. -/

theorem test_tokens :
    let s := pinned .ctl id
    after (exec (.xinfo y0 1 0 1) s) (fun t => t.readS 1 == 256) = true ∧
    after (exec (.xrel y0 0) s) (fun t => t.pinState 0 1 == 0 && (t.tus.at 0).pins.isEmpty) = true := by decide +kernel

/-- A load and a store of c0 that are open. -/
def load0 (size : Nat) (op : LoadOp) : CtlLoad := ⟨1, 0, .glob 0 0, mkToken 256 0 false true true false 5 1, 8, size, op, false⟩
def store0 (off size : Nat) (data : W64) : CtlStore := ⟨2, 0, mkToken 256 0 false true true false 5 1, off, size, data, false⟩


theorem witness_ScalarAccesses :
    let s := pinned .ctl id
    let l := pinned .ctl fun k => k.modCtx 0 fun c => { c with loads := [load0 4 (.load true)] }
    let st := pinned .ctl fun k => k.modCtx 0 fun c => { c with stores := [store0 248 8 5] }
    let both := pinned .ctl fun k => k.modCtx 0 fun c => { c with loads := [{ load0 4 (.load true) with uid := 3 }], stores := [store0 8 8 5, { store0 8 8 5 with uid := 4 }] }
    let w := fun (s : State) (l : CtlStore) => s.tokWrite ⟨0, .ctl, 0⟩ l.uid 0 l.tok ((offs l.off l.size).zip (bytesOfNat l.size l.data.toNat)) (some l.pc) .cr (How.by none .whole)
    (s.myCtx.openLoads.length < 8 ∧ s.clear (s.plain y0 (.lds y0 1 0 2 .i8 31)) = true ∧ s.busyS [1, 2] = false ∧ s.busyD [1] = false ∧
      s.clear (s.plain y0 (.amo y0 1 0 2 .n64 31 3 .add .sy)) = true ∧ s.clear (s.plain y0 (.cas y0 1 0 2 .n32 0 3 4 .cr)) = true ∧
      s.busyS [1, 2, 3, 4] = false) ∧ (s.myCtx.openStores.length < 16 ∧ s.clear (s.plain y0 (.sts y0 1 0 2 .n8 31)) = true) ∧
    (((l.core 0).ctx.at 0).loads[0]? = some (load0 4 (.load true)) ∧ l.mustWait 0 0 1 false (load0 4 (.load true)).tok 8 4 false = false ∧
      (l.loadAccess ⟨0, .ctl, 0⟩ (load0 4 (.load true)) none).data = some [0, 0, 0, 0]) ∧
    (((st.core 0).ctx.at 0).stores[0]? = some (store0 248 8 5) ∧ st.mustWait 0 0 2 false (store0 248 8 5).tok 248 8 true = false ∧
      (w st (store0 248 8 5)).data.isSome = true) ∧
    both.mustWait 0 0 3 false (load0 4 (.load true)).tok 8 4 false = true ∧ both.mustWait 0 0 4 false (load0 4 (.load true)).tok 8 8 true = true := by
  decide +kernel

/-- R187: a store of the last eight bytes of the extent, and a load of four of them, sign-extended. -/

theorem test_store_then_load :
    let s := pinned .ctl fun k => k.modCtx 0 fun c =>
      { c with stores := [store0 248 8 0xFFFFFFFE00000007], loads := [{ load0 4 (.load true) with uid := 3, off := 252 }] }
    after (exec (.stsAccepted 0 0 ⟨0, none⟩) s) (fun t => t.mem.get (2 ^ 52 + 0x20F8) == 7 && t.mem.get (2 ^ 52 + 0x20FC) == 0xFE &&
      after (exec (.ldsDataReturn 0 0 ⟨0, none⟩) t) fun u => u.readS 1 == 0xFFFFFFFFFFFFFFFE) = true := by decide +kernel


theorem witness_TokenAccess :
    let s := pinned .ctl id
    let tok := mkToken 256 0 false true true false 5 1
    let stale := mkToken 256 0 false true true false 6 1
    s.mem.wf = true ∧ (s.core 0).access 7 0 = none ∧ s.hub.halves = [] ∧ tokWatch tok = false ∧ tokWatch stale = false ∧ (∀ c l, l ∈ (s.core c).l1 → l.isUpdate = false) ∧
    (s.pin 0 stale true false = (.stale false, s)) ∧ (s.pin 0 stale false true = (.stale false, s)) ∧
    (∃ u, s.pin 0 tok true false = (.near 256 [⟨0x2000, 256, 2, false⟩], u) ∧ u.mem = s.mem ∧ u.cores = s.cores ∧ u.hub.halves = []) ∧
    (∃ u, s.pin 0 tok false true = (.near 256 [⟨0x2000, 256, 2, false⟩], u) ∧ u.mem = s.mem ∧ u.cores = s.cores ∧ u.hub.halves = []) ∧
    ([(0, 1), (255, 2), (256, 3)].filterMap fun (e : Nat × Byte) =>
      if e.1 < min 256 (tokLen tok) then (locate [⟨0x2000, 256, 2, false⟩] e.1).map fun p => (p.1, e.2) else none) =
        [(2 ^ 52 + 0x2000, 1), (2 ^ 52 + 0x20FF, 2)] := by
  refine ⟨by decide +kernel, by decide +kernel, by decide +kernel, by decide +kernel, by decide +kernel, ?_,
    State.pin_stale (by decide +kernel) (by decide +kernel), State.pin_stale (by decide +kernel) (by decide +kernel), ?_, ?_,
    by decide +kernel⟩
  · intro c l h
    have e : ((pinned .ctl id).cores.toList.all fun k => k.l1.isEmpty) = true := by decide +kernel
    have g := List.all_eq_true.mp e ((pinned .ctl id).core c) (by simp [State.core, File.at])
    rw [List.isEmpty_iff.mp g] at h
    exact absurd h List.not_mem_nil
  · exact ⟨_, State.pin_hit (part := 0) (p := ⟨0, 0, 1, 5, none, 1, 0, 256, [⟨0x2000, 256, 2, false⟩]⟩) (by decide) (by decide +kernel)
      (by decide +kernel) (by decide +kernel) (by decide +kernel) (by decide +kernel) (by decide +kernel), rfl, rfl, rfl⟩
  · exact ⟨_, State.pin_hit (part := 0) (p := ⟨0, 0, 1, 5, none, 1, 0, 256, [⟨0x2000, 256, 2, false⟩]⟩) (by decide) (by decide +kernel)
      (by decide +kernel) (by decide +kernel) (by decide +kernel) (by decide +kernel) (by decide +kernel), rfl, rfl, rfl⟩

/-! ## Synchronisation, engines, LD and ST -/

theorem witness_FencesAndReleases :
    let s := pinned .ctl id
    let u : State := { s with nextUid := s.nextUid + 1 }
    let tok := s.me.k.at 0
    let fine := fun (g : Got) => g.data.isSome && g.acct.poison.isNone
    let quiet := fun (s : State) => (s.me.tokCause s.cur.q).isNone
    let all := s.fixWork (s.plain y0 (.fenceAll y0))
    let yw : Ring := ⟨true, false, false, false⟩
    (s.clear (s.plain y0 (.fence y0 .cr)) = true ∧ (s.mergeFor .cr).released .cr = true ∧ quiet (s.mergeFor .cr).nextInterval = true) ∧
    (s.clear (s.plain y0 (.fenceRel y0 .sy)) = true ∧ (s.mergeFor .sy).released .sy = true ∧ quiet (s.mergeFor .sy).nextInterval = true) ∧
    (s.clear (s.plain y0 (.fenceAcq y0 .sy)) = true ∧ s.myCtx.openLoads = [] ∧ quiet s = true) ∧
    (all.clear (s.plain y0 (.fenceAll y0)) = true ∧ (all.mergeFor .sy).releasedBefore (all.myCtx.fix.getD all.nextUid) = true ∧
      (all.mergeFor .sy).finishedBefore (all.myCtx.fix.getD all.nextUid) = true ∧
      quiet ((all.mergeFor .sy).modMyCtx fun e => { e with fix := none }).nextInterval = true) ∧
    (s.mayIssue = true ∧ s.myFlow.due = [] ∧ s.barred (s.plain yw (.fenceAll yw)) = false ∧ s.enterDue (s.plain yw (.fenceAll yw)) = false ∧
      (s.ringHold (s.plain yw (.fenceAll yw))).isSome = true ∧ s.myCtx.fix = none) ∧
    (s.myCtx.acc = none ∧ s.busyS [1] = false ∧ s.mustWait 0 0 s.nextUid false tok (8 * 31) 8 false = false) ∧
    (let g := u.tokRead ⟨0, .ctl, 0⟩ s.nextUid 0 tok (offs (8 * 31) 8) true false (some .cl)
     s.clear (s.plain y0 (.acq y0 .cl 0 1 31)) = true ∧ fine g = true ∧ quiet g.s = true) := by
  decide +kernel

theorem witness_FencesAndReleases_rel :
    let s := pinned .ctl id
    let tok := s.me.k.at 0
    let ties := s.me.tiesTo tok (8 * 31)
    let r := s.modMyCtx fun e => { e with ties := some ties }
    let u : State := { r with nextUid := s.nextUid + 1 }
    let g := u.tokAtomic ⟨0, .ctl, 0⟩ s.nextUid 0 tok (8 * 31) 8 true true .sy 2 0 (operandBytes 8 [1]) fun old => some ((old + 1) % 2 ^ 64)
    s.myCtx.ties = none ∧ s.clear (s.plain y0 (.rel y0 .sy 0 1 31)) = true ∧ r.boundDone ties = true ∧
    r.mustWait 0 0 s.nextUid false tok (8 * 31) 8 true = false ∧ g.data.isSome = true ∧ g.acct.poison = none ∧
    (g.s.me.tokCause g.s.cur.q).isNone = true := by
  decide +kernel

/-- R190: `rel` adds 1 to its doubleword. -/
theorem test_rel :
    after (exec (.rel y0 .sy 0 0 31) (pinned .ctl id)) (fun t => t.mem.num (2 ^ 52 + 0x20F8) 8 == 1 && t.myFlow.pc == 4) = true := by decide +kernel

theorem witness_WaitingAndEvents :
    let s := pinned .ctl (setS 2 7)
    let u : State := { s with nextUid := s.nextUid + 1 }
    let g := u.tokRead ⟨0, .ctl, 0⟩ s.nextUid 0 (s.me.k.at 0) (offs 62 2) true false
    let l := pinned .ctl fun k => k.modCtx 0 fun c => { c with latch := true }
    (s.clear (s.plain y0 (.wadr y0 2 0 1 .n16 31)) = true ∧ s.clear (s.plain y0 (.wadr y0 3 0 1 .i16 31)) = true ∧ s.busyS [2, 3, 1] = false ∧
      s.myCtx.wadr = none ∧ u.mustWait 0 0 u.nextUid false (s.me.k.at 0) 62 2 false = false ∧ g.data = some [0, 0] ∧ g.acct = Acct.none ∧
      g.s.cur = s.cur ∧ natOfBytes [0, 0] ≠ (s.readS 2).toNat % 2 ^ 16 ∧ natOfBytes [0, 0] = (s.readS 3).toNat % 2 ^ 16) ∧
    (l.clear (l.plain y0 (.wfe y0)) = true ∧ l.myCtx.latch = true) ∧
    (s.clear (s.plain y0 (.sev y0 .sy)) = true ∧ s.myCtx.openStores = [] ∧ s.myCtx.openLoads = [] ∧ s.remoteOut (fun _ => true) = false) := by
  decide +kernel

theorem witness_WindowsAndEcall :
    let s := withPart part0 (ready .ctl (setS 1 48 ∘ setS 2 47))
    (s.clear (s.plain y0 (.win y0 15 1 0xFFF)) = true ∧ s.busyS [1] = false ∧ s.me.aux.posted = []) ∧
    (48 = (s.readS 1).toNat % 64 ∧ s.winOf (s.readS 2) 1 = .opened 0 0 47 1) ∧
    (s.clear (s.plain y0 (.ecall y0 0xFF)) = true ∧ (s.mergeFor .sy).released .sy = true ∧ (s.mergeFor .sy).me.aux.ecall = none ∧
      (s.mergeFor .sy).busyS [1, 2, 3, 4] = false ∧ (s.mergeFor .sy).me.aux.run = none) := by decide +kernel

/-- An operator of no phases, and a tile run of it. -/
def op0 : OpRec :=
  { spad := 0, dep := false, spill := 0, frame := 8, wq := 0, resident := false, asid := 0, pinbase := 0, tvec := 0, nphase := 0, allot := 0,
    code := [], levels := [], budgets := [], fmt := [], phases := [], toks := [] }
def run0 : TileRun :=
  { op := op0, addr := 0, queue := 3, launch := 0, packet := 9, tag := 5, record := 0, ordinal := 0, ix := [], code := [], toks := [] }

/-- `ecall` of a core that has a tile run, with s1 to s4 of c0. -/
theorem witness_WindowsAndEcall_run :
    let s := ready .ctl fun k => (setS 1 11 k).modAux fun a => { a with run := some run0 }
    s.clear (s.plain y0 (.ecall y0 1)) = true ∧ (s.mergeFor .sy).me.aux.ecall = none ∧ (s.mergeFor .sy).me.aux.run = some run0 ∧
    after (exec (.ecall y0 1) s) (fun t => t.me.aux.ecall.any fun r => r.w.at 4 == 11) = true := by decide +kernel

theorem witness_EngineCommands :
    let s := pinned .ctl id
    let e := pinned .st id
    let body := CmdBody.push 63 1 2
    s.me.synced s.cur.q = true ∧ e.me.synced e.cur.q = true ∧ body.engine = 7 ∧ (CmdBody.fbar 0).engine = 8 ∧ s.me.markDone 31 = true ∧
    (s.engineCmds 0 7).length < 8 ∧ (s.engineCmds 0 6).length < 16 ∧ (s.dies.at (dieOf s.cur.core)).fabQ.length < 32 ∧
    ([6, 7, 8].all fun n => (s.commandWait n 31).isNone) = true ∧ (e.commandWait 6 0).isNone = true ∧ e.isSt = true ∧ s.isSt = false ∧
    s.hub.power.gated = false ∧ e.hub.power.gated = false ∧ s.busyD [30, 31] = false ∧ s.busyS [30, 31, 1] = false ∧ s.busyP [7] = false ∧
    ([Instr.bk y0 30 0 1 31 noWait .add .i32 true, .bkred y0 30 0 1 31 noWait .i32 .i32, .xall y0 30 0 1 31 noWait 15 63, .fred y0 30 0 1 31 noWait .f32 .f32,
      .fput y0 30 0 1 31 noWait, .fget y0 30 0 1 31 ⟨some 0, some 1, some 2⟩, .fbar y0 31 noWait 63, .wqPush y0 30 31 noWait 7 63,
      .wqPop y0 30 31 noWait 7 63, .wqPeek y0 30 31 noWait 7 63, .famo y0 30 0 1 31 noWait .cas .sy true].all fun i =>
        s.clear (s.plain y0 i)) = true ∧
    e.clear (e.plain y0 (.bk y0 14 0 1 0 noWait .add .i32 false)) = true := by decide +kernel

theorem witness_AddressGroup :
    let s := ready .ld id
    let e := ready .st id
    ([Instr.aadd y0 15 15 15, .aaddi y0 15 0 0x2000, .ali y0 0 0x20000, .acmp y0 7 15 0 .hs].all fun i => s.clear (s.plain y0 i) && e.clear (e.plain y0 i)) = true ∧
    s.busyP [7] = false ∧ s.cur.q ≠ .ctl ∧ e.cur.q ≠ .ctl := by decide +kernel

/-- R216: a negative immediate, and a sum modulo 2^64. -/
theorem test_address_group :
    let s := ready .st fun k => k.modLseq true fun l => { l with a := l.a.put 1 1 }
    after (exec (.aaddi y0 2 1 0x3FFE) s) (fun t => t.readA 2 == -1) = true ∧ after (exec (.ali y0 2 0x20000) s) (fun t => t.readA 2 == -131072) = true ∧
    after (exec (.acmp y0 1 1 2 .hi) s) (fun t => t.readP 1) = true := by decide +kernel

theorem witness_MemoryWordsAndPrefetch :
    let s := pinned .ld id
    let e := pinned .st fun k => { k with streams := k.streams.put 8 [⟨0, some 5, 0⟩] }
    let p : State := (pinned .ld id).modTu 0 fun u => { u with pins := [⟨0, 0, 1, 5, none, 1, 0, 256, [⟨0x80, 256, 0, false⟩]⟩] }
    (s.clear (s.memWord y0 (.ldq y0 7 0 1 1023)) = true ∧ s.me.slotFree 7 = true ∧ s.me.ld.openWords < 16) ∧
    (e.me.streams.at 8 = [⟨0, some 5, 0⟩] ∧ e.me.st.openWords < 16 ∧ e.clear (e.memWord y0 (.stq y0 8 0 1 1023)) = true ∧
      e.clear (e.memWord y0 (.upd y0 8 0 1 .add .f32 7)) = true ∧ e.clear (e.memWord y0 (.strel y0 8 0 1 .cl 127)) = true ∧ e.stReleased .cl = true ∧
      e.me.streams.at 15 = [] ∧ e.clear (e.memWord y0 (.stq y0 15 0 1 0)) = true) ∧
    (s.me.synced s.cur.q = true ∧ e.me.synced e.cur.q = true) ∧
    (s.clear (s.plain y0 (.pf y0 15 1 0)) = true ∧ s.runsAt 0 (s.me.k.at 15) = none) ∧
    (p.runsAt 0 (p.me.k.at 0) = some [⟨0x80, 256, 0, false⟩] ∧ tokLen (p.me.k.at 0) ≤ 128 * 2 ∧ 128 * 1 < tokLen (p.me.k.at 0) ∧
      locate [⟨0x80, 256, 0, false⟩] 128 = some (0x100, true) ∧ (p.me.l1Find 2).isSome = false) := by decide +kernel

/-- The release word merges nothing where its core holds no line. -/
theorem witness_MemoryWords_strel : (pinned .st id).mergeFor .cl = pinned .st id := rfl

theorem witness_CopyAndGatherWords :
    let s := pinned .ld id
    let e := pinned .st id
    ([Instr.ldsp y0 0 15 1 2 31 noWait 1023, .gth y0 0 0 1 2 31 ⟨some 0, some 1, some 2⟩ true 6].all fun i => s.clear (s.memWord y0 i)) = true ∧
    ([Instr.stsp y0 0 15 1 2 31 noWait 1023, .sct y0 0 0 1 2 31 noWait false 0].all fun i => e.clear (e.memWord y0 i)) = true ∧
    ([4, 5].all fun n => (s.commandWait n 31).isNone && (e.commandWait n 31).isNone) = true ∧ s.hub.power.gated = false ∧ e.hub.power.gated = false := by
  decide +kernel

/-- A memory word of LD or ST that is open. -/
def pend0 (op : LsOp) : LsPend := ⟨1, 0, true, false, mkToken 256 0 false true true false 5 1, 0, op, false⟩

theorem witness_MemoryWordsComplete :
    let s := pinned .ld fun k => (k.modLseq false fun l => { l with pend := [pend0 (.ldq 0 1)] }).modLseq true fun l =>
      { l with pend := [{ pend0 (.stq 5) with uid := 2 }, { pend0 (.strel .cl 6) with uid := 3 }] }
    let first := pinned .ld fun k => k.modLseq true fun l => { l with pend := [{ pend0 (.strel .cl 6) with uid := 3 }] }
    let held := fun (n : Fin 64) => ready .ld fun k => ({ k with rings := k.rings.put (ringSa .ld) n }).modLseq false fun l => { l with heldSa := true }
    (((s.core 0).lseq false).pend[0]? = some (pend0 (.ldq 0 1)) ∧ s.lsMustWait 0 false (pend0 (.ldq 0 1)) = false ∧
      (s.wordAccess ⟨0, .ld, 0⟩ (pend0 (.ldq 0 1)) none).data.isSome = true) ∧
    s.lsMustWait 0 true { pend0 (.strel .cl 6) with uid := 3 } = true ∧
    (first.lsMustWait 0 true { pend0 (.strel .cl 6) with uid := 3 } = false ∧
      (first.wordAccess ⟨0, .st, 0⟩ { pend0 (.strel .cl 6) with uid := 3 } none).data.isSome = true) ∧
    ((held 62).core 0).rings.at (ringSa .ld) ≠ 63 ∧ (((held 62).core 0).lseq false).heldSa = true ∧
    ((held 63).core 0).rings.at (ringSa .ld) = 63 := by decide +kernel

/-- R13: a held completion post is posted at 62 and stays held at 63. -/
theorem test_held_post :
    let held := fun (n : Fin 64) => ready .ld fun k => ({ k with rings := k.rings.put (ringSa .ld) n }).modLseq false fun l => { l with heldSa := true }
    after (exec (.heldCompletionPost 0 false true) (held 62)) (fun t => (t.core 0).rings.at (ringSa .ld) == 63 && !(t.core 0).ld.heldSa) = true ∧
    after (exec (.heldCompletionPost 0 false true) (held 63)) (fun t => (t.core 0).rings.at (ringSa .ld) == 63 && (t.core 0).ld.heldSa) = true := by
  decide +kernel

theorem test_load_fills_its_slot :
    let s := pinned .ld fun k => ({ k with streams := k.streams.put 0 [⟨1, none, 0⟩] }).modLseq false fun l => { l with pend := [pend0 (.ldq 0 1)] }
    let s : State := { s with mem := s.mem.putNum (2 ^ 52 + 0x2000) 4 0x12345678 }
    after (exec (.ldstWordComplete 0 false ⟨0, none⟩) s) (fun t => ((t.core 0).streams.at 0).map (·.data) == [some 0x12345678] && (t.core 0).ld.pend.isEmpty) = true := by
  decide +kernel

/-- A command of CTL of core 0 that waits for no mark and produces m31. -/
def cmd0 (k : Core) (started : Bool) (body : CmdBody) : Cmd :=
  { uid := 7, core := 0, q := .ctl, x := 0, pc := 0, gen := 0, mark := some 31, waits := noWait, started := started, marked := false, stage := 0,
    opA := [], opB := [], wins := k.wins, parts := [], flags := 0, bad := none, body := body }

theorem witness_EngineSteps :
    let s := fun (w : Waits) (started : Bool) (body : CmdBody) => pinned .ctl fun k => { k.setMark 0 false with cmds := [{ cmd0 k started body with waits := w }] }
    let tok := mkToken 256 0 false true true false 5 1
    let empty := CmdBody.copy false tok 0 0 0 0
    let few := CmdBody.gather true tok 0 0 3 false 4
    let one := CmdBody.copy false tok 0 0 1 0
    let cmd := fun (b : CmdBody) => cmd0 ((s noWait true b).core 0) true b
    (((s noWait false empty).allCmds 0).find? (fun d => d.uid == 7 && d.body.engine != 9) = some { cmd empty with started := false } ∧
      (s noWait false empty).mayStart { cmd empty with started := false } = true ∧
      (s ⟨some 0, none, none⟩ false empty).mayStart { cmd empty with started := false, waits := ⟨some 0, none, none⟩ } = false) ∧
    ((s noWait true empty).coreCmd 0 7 = some (cmd empty) ∧ shapeLen 0 = 0) ∧
    ((s noWait true few).coreCmd 0 7 = some (cmd few) ∧ bitsOf (3 : W64).toNat 0 24 / 4 = 0) ∧
    ((s noWait true one).coreCmd 0 7 = some (cmd one) ∧ shapeLen 1 ≠ 0 ∧
      (let g := (s noWait true one).tokRead (cmd one).who 7 0 tok [0] true false none (How.by none .units)
       let v := g.s.modCmd 7 fun _ => { (cmd one).owe g.acct with stage := 1, opB := [0] }
       g.data = some [0] ∧ v.cmdWaits (cmd one) tok [] [0] = false ∧
       (v.cmdLocWrite (cmd one) (2 ^ 20) [(0, 0)] ⟨none, .sectors, fun _ => true, some .any⟩).data.isSome = true)) ∧
    (((cmd one).acct.join Acct.none).poison = none) := by decide +kernel

/-- R223: a copy of no bytes, or of one, completes its mark. -/
theorem test_copy :
    let s := fun (body : CmdBody) => pinned .ctl fun k =>
      { (k.setMark 31 false).modAux (fun a => { a with resv := 16384 }) with cmds := [cmd0 k true body] }
    let t := mkToken 256 0 false true true false 5 1
    let mem := fun (s : State) => ({ s with mem := s.mem.set (2 ^ 52 + 0x2003) 9 } : State)
    after (exec (.copyCommandComplete 0 ⟨7, none⟩) (s (.copy false t 0 0 0 0))) (fun t => (t.core 0).markDone 31 && (t.core 0).cmds.isEmpty) = true ∧
    after (exec (.copyCommandComplete 0 ⟨7, none⟩) (mem (s (.copy false t 3 5 1 0)))) (fun t =>
      (t.core 0).markDone 31 && (t.core 0).spad == [(5, 9)]) = true := by decide +kernel

/-! ## EX -/

/-- EX of core 0 with a line of each 32-bit lane in q0, and one in q1. -/
def exQ (a b : Nat) (f : Core → Core) : State :=
  ready .ex fun k => f { k with streams := (k.streams.put 0 [⟨0, some (lineOf32 fun _ => a), 0⟩]).put 1 [⟨1, some (lineOf32 fun _ => b), 0⟩] }

theorem witness_FloatTwoSources :
    let s := exQ 0x3F800000 0x40000000 id
    ([Instr.faddF32 y0 (.q 8) (.q 0) (.q 1), .faddBf16 y0 (.zh 31) (.zv 0) (.zd 31), .fsubF32 y0 (.zh 0) (.b 7) .lane, .fsubBf16 y0 (.zd 0) (.q 0) (.q 0),
      .fmulF32 y0 (.q 15) .zero .zero, .fmulBf16 y0 (.zv 0) (.b 0) (.zv 0), .fmaxF32 y0 (.zh 0) (.q 0) (.q 1), .fmaxBf16 y0 (.zh 0) (.q 0) (.q 1),
      .fminF32 y0 (.zh 0) (.q 0) (.q 1), .fminBf16 y0 (.zh 0) (.q 0) (.q 1)].all fun i => s.clear (s.plain y0 i)) = true ∧
    s.me.streamWait (Opnd.sources [.q 0, .q 1]) (Place.opnd (.q 8)).stream = none ∧
    s.me.streamWait (Opnd.sources [.q 0, .q 0]) (Place.opnd (.zd 0)).stream = none ∧
    s.me.streamWait (Opnd.sources [.zero, .zero]) (Place.opnd (.q 15)).stream = none := by decide +kernel

/-- R243, R249: 1.0 + 2.0 = 3.0 goes in flight for L = 3 and both sources are popped; the 1.0 of a lane plus 2^-24 is inexact. -/
theorem test_fadd :
    after (exec (.faddF32 y0 (.zh 3) (.q 0) (.q 1)) (exQ 0x3F800000 0x40000000 id)) (fun t =>
      t.me.streams.at 0 == [] && t.me.streams.at 1 == [] && (t.me.ex.flight.map fun f => (laneOf f.value.toNat 63 32, f.flags, f.land)) ==
        [(0x40400000, 0, t.me.ex.cycle + 3)]) = true ∧
    after (exec (.faddF32 y0 (.q 8) (.q 0) (.q 1)) (exQ 0x3F800000 0x33800000 id)) (fun t =>
      (t.me.streams.at 8).length == 1 && (t.me.ex.flight.map fun f => (laneOf f.value.toNat 0 32, f.flags)) == [(0x3F800000, flNX)]) = true := by
  decide +kernel

theorem witness_IntegerTwoSources :
    let s := exQ 0x7FFFFFFF 1 id
    ([Instr.iaddI32 y0 (.q 8) (.q 0) (.q 1), .imulI8 y0 (.zh 31) (.zv 0) (.zd 31), .iand y0 (.q 15) .lane .zero, .israI32 y0 (.zv 31) (.q 0) (.q 1),
      .israI16 y0 (.zv 0) (.q 0) (.q 1), .israI8 y0 (.zd 0) (.q 0) (.q 1)].all fun i => s.clear (s.plain y0 i)) = true ∧
    s.me.streamWait (Opnd.sources [.q 0, .q 1]) (Place.opnd (.q 8)).stream = none ∧
    s.me.streamWait (Opnd.sources [.q 0, .q 1]) (Place.opnd (.zv 31)).stream = none := by decide +kernel

/-- R254: sums of the largest I32 and 1, saturating and not; shifts of a negative lane by 32. -/
theorem test_integer_lanes :
    let lane := fun (i : Instr) (s : State) (v : Nat) => after (exec i s) fun t => (t.me.ex.flight.map fun f => laneOf f.value.toNat 5 32) == [v]
    lane (.iaddI32S y0 (.zh 0) (.q 0) (.q 1)) (exQ 0x7FFFFFFF 1 id) 0x7FFFFFFF = true ∧
    lane (.iaddI32 y0 (.zh 0) (.q 0) (.q 1)) (exQ 0x7FFFFFFF 1 id) 0x80000000 = true ∧
    lane (.isubN8S y0 (.zh 0) (.q 0) (.q 1)) (exQ 0x00FF0580 0x01010101 id) 0x00FE047F = true ∧
    lane (.iaddI8S y0 (.zh 0) (.q 0) (.q 1)) (exQ 0x7F800001 0x01FF0001 id) 0x7F800002 = true ∧
    lane (.imulI16 y0 (.zh 0) (.q 0) (.q 1)) (exQ 0x0100FFFF 0x01000003 id) 0x0000FFFD = true ∧
    lane (.israI32 y0 (.zh 0) (.q 0) (.q 1)) (exQ 0x80000000 32 id) 0xFFFFFFFF = true ∧
    lane (.ishrI32 y0 (.zh 0) (.q 0) (.q 1)) (exQ 0x80000000 32 id) 0 = true ∧
    lane (.ishlI16 y0 (.zh 0) (.q 0) (.q 1)) (exQ 0x00018001 0x000F0001 id) 0x80000002 = true ∧
    lane (.iminN32 y0 (.zh 0) (.q 0) (.q 1)) (exQ 0x80000000 1 id) 1 = true := by decide +kernel

theorem witness_AddendsAndFunctions :
    let s := exQ 0x3F800000 0x40000000 id
    ([Instr.fmaF32 y0 (.zh 0) (.q 0) (.q 1), .fmaBf16 y0 (.zh 31) .lane .zero, .fmsF32 y0 (.zh 0) (.q 0) (.q 1), .fmsBf16 y0 (.zv 0) (.q 0) (.q 1),
      .fnmaF32 y0 (.zd 0) (.q 0) (.q 1), .fnmaBf16 y0 (.zh 0) (.q 0) (.q 1), .imacI32 y0 (.zh 0) (.q 0) (.q 1), .imacI16 y0 (.zh 0) (.q 0) (.q 1),
      .imacI8 y0 (.zh 0) (.q 0) (.q 1), .funaF32 y0 (.q 8) (.q 0) .rint, .exp2F32 y0 (.zh 0) (.q 0), .lg2F32 y0 (.zh 0) (.q 0), .rcpF32 y0 (.zh 0) (.q 0),
      .rsqF32 y0 (.zh 0) (.q 0)].all fun i => s.clear (s.plain y0 i)) = true ∧
    s.me.streamWait (Opnd.sources [.q 0, .q 1]) (Place.opnd (.zh 0)).stream = none ∧
    s.me.streamWait (Opnd.sources [.q 0]) (Place.opnd (.q 8)).stream = none ∧ s.me.synced s.cur.q = true := by decide +kernel

/-- R69, R71, R72: quiet and signalling NaNs, infinities, zeros and a negative number, in both formats. -/
theorem witness_SpecialValues :
    (fpVal pF32 0x7FC00000).isNaN = true ∧ fpVal pF32 0x7F800001 = .nan true ∧ (fpVal pBF16 0xFFFF).isNaN = true ∧ fpVal pBF16 0x7F81 = .nan true ∧
    fpVal pF32 0x7F800000 = .inf false ∧ fpVal pF32 0xFF800000 = .inf true ∧ fpVal pBF16 0xFF80 = .inf true ∧ fpVal pBF16 0x7F80 = .inf false ∧
    (∃ e, fpVal pF32 0 = .fin false 0 e) ∧ (∃ e, fpVal pF32 0x80000000 = .fin true 0 e) ∧ (∃ e, fpVal pBF16 0x8000 = .fin true 0 e) ∧
    (∃ n e, fpVal pF32 0xBF800000 = .fin true n e ∧ n ≠ 0) ∧ (∃ n e, fpVal pF32 0x80000001 = .fin true n e ∧ n ≠ 0) ∧
    (fpVal pF32 0x3F800000).isNaN = false := by
  refine ⟨by decide, by decide, by decide, by decide, by decide, by decide, by decide, by decide, ⟨_, rfl⟩, ⟨_, rfl⟩, ⟨_, rfl⟩, ⟨_, _, rfl, by decide⟩,
    ⟨_, _, rfl, by decide⟩, by decide⟩

/-- R249, R251: rounding of 1/3 in two modes, the reciprocal of -0, a fused product that a rounded one would lose, and the minimum of zeros. -/
theorem test_float_values :
    fpRcp .rne 0x40400000 = (0x3EAAAAAB, flNX) ∧ (fpRcp .rd 0x40400000).1 = 0x3EAAAAAA ∧ fpRcp .rne 0x80000000 = (0xFF800000, flDZ) ∧
    fpFma pF32 .rne false false 0x3F800001 0x3F800001 0xBF800002 = (0x28800000, 0) ∧ fpMinMax pF32 false 0 0x80000000 = (0x80000000, 0) ∧
    fpMul pF32 .rne 0x7F7FFFFF 0x40000000 = (0x7F800000, flOF ||| flNX) := by decide +kernel

theorem witness_ComparesAndMoves :
    let s := exQ 5 6 id
    ([Instr.fcmpF32 y0 .un 7 (.q 0) (.q 1), .fcmpBf16 y0 .ge 0 (.zh 0) .lane, .icmpI32 y0 .lo 7 (.q 0) (.q 1), .icmpI16 y0 .ne 0 (.q 0) (.q 1),
      .icmpI8 y0 .hs 1 (.q 0) (.q 1), .fselF32 y0 (.q 8) (.q 0) (.q 1), .fselBf16 y0 (.zh 0) (.q 0) (.q 1), .mov y0 (.q 8) (.q 0), .movMasked y0 (.zh 31) (.q 0) 7,
      .bcst y0 (.zh 0) (.q 0) 63, .rot y0 (.zh 0) (.q 0) 63, .perm y0 (.zh 0) (.q 0) (.q 1), .zli y0 (.zh 0) 0x2000].all fun i => s.clear (s.plain y0 i)) = true ∧
    s.me.streamWait (Opnd.sources [.q 0, .q 1]) none = none ∧ s.me.streamWait (Opnd.sources [.q 0, .q 1]) (Place.opnd (.q 8)).stream = none ∧
    s.me.streamWait (Opnd.sources [.q 0]) (Place.opnd (.zh 31)).stream = none ∧ s.me.streamWait (Opnd.sources []) (Place.opnd (.zh 0)).stream = none := by
  decide +kernel

/-- R253, R255: `bcst` of lane 63 of LANE, `rot` by 1, a comparison of signed lanes. -/
theorem test_moves :
    let s := exQ 0xFFFFFFFF 1 id
    let lane := fun (i : Instr) (n v : Nat) => after (exec i s) fun t => (t.me.ex.flight.map fun f => laneOf f.value.toNat n 32) == [v]
    lane (.bcst y0 (.zh 0) .lane 63) 0 63 = true ∧ lane (.rot y0 (.zh 0) .lane 1) 63 0 = true ∧ lane (.rot y0 (.zh 0) .lane 1) 0 1 = true ∧
    lane (.icmpI32 y0 .lt 1 (.q 0) (.q 1)) 1 0xFFFFFFFF = true ∧ lane (.icmpI32 y0 .lo 1 (.q 0) (.q 1)) 1 0 = true ∧
    lane (.zli y0 (.zh 0) 0x2000) 9 0xFFFFE000 = true := by decide +kernel

theorem witness_ReductionsAndConversions :
    let s := exQ 0x3F800000 0x40000000 id
    let t := exQ 0x3F800000 0x40000000 fun k => k.modEx fun e => { e with fmt := e.fmt.put 0 0x900 }
    ([Instr.redF32 y0 (.q 8) (.q 0), .redI32 y0 (.zh 0) (.q 0), .scanF32 y0 (.zh 0) (.q 0), .cvt y0 (.zh 0) (.q 0) .f2i].all fun i =>
      s.clear (s.plain y0 i)) = true ∧ s.me.streamWait (Opnd.sources [.q 0]) (Place.opnd (.q 8)).stream = none ∧
    ([Instr.qmax y0 6 (.q 0), .qcvt y0 (.zh 0) (.q 0) 6, .deq y0 (.zh 0) (.q 0) 6].all fun i => t.clear (t.plain y0 i)) = true ∧
    qtWidth (fmtQT (t.me.ex.fmtOf 6)) = some 8 ∧ t.me.streamWait (Opnd.sources [.q 0]) (Place.other .sc).stream = none ∧
    qtWidth (fmtQT (s.me.ex.fmtOf 0)) = none ∧ s.clear (s.plain y0 (.deq y0 (.zh 0) (.q 0) 0)) = true := by decide +kernel

/-- R86: 64 ones sum to 64.0 in every lane. -/
theorem test_reduction :
    after (exec (.redF32 y0 (.zh 0) (.q 0)) (exQ 0x3F800000 0 id)) (fun t =>
      (t.me.ex.flight.map fun f => (laneOf f.value.toNat 0 32, laneOf f.value.toNat 63 32, f.flags)) == [(0x42800000, 0x42800000, 0)]) = true ∧
    after (exec (.cvt y0 (.zh 0) (.q 0) .f2i) (exQ 0xC0200000 0 id)) (fun t => (t.me.ex.flight.map fun f => laneOf f.value.toNat 0 32) ==
      [0xFFFFFFFE]) = true := by decide +kernel

theorem witness_RowsMasksDescriptors :
    let s := ready .ex fun k => k.modAux fun a => { a with resv := 16384 }
    let addrs := (List.range 256).map fun i => i
    s.clear (s.plain y0 (.zst y0 (.q 0) 0 0)) = true ∧ (addrs.all fun a => (s.ownOffset s.cur.core a).isSome) = true ∧
    dBase (s.me.ex.dsc.at 14) = 0 ∧
    s.clear (s.plain y0 (.zld y0 (.q 8) 14 0)) = true ∧ s.me.streamWait [] (Place.opnd (.q 8)).stream = none ∧ s.me.ex.flight = [] ∧
    ([Instr.mset y0 7 0 64, .mset y0 0 63 1, .mlog y0 .orn 7 0 6, .dset y0 15 7, .fmtset y0 15 0, .fmtsetFbase y0 7].all fun i => s.clear (s.plain y0 i)) = true := by
  decide +kernel

/-- The row that `zld` reads at the start of the scratchpad. -/
theorem witness_RowsMasksDescriptors_zld :
    let s := ready .ex fun k => k.modAux fun a => { a with resv := 16384 }
    let addrs := (List.range 256).map fun i => (0 + i) % 2 ^ 32
    s.ownRead 0 addrs = (addrs.map fun a => match s.ownOffset 0 a with
      | some p => (s.me.spadGet p).getD 0
      | none => 0, false, s) := State.ownRead_plain _ (by decide +kernel)

/-- R265: `mset` from lane 63, 1 lane, and of all 64. -/
theorem test_mset :
    let s := ready .ex id
    let mask := fun (i : Instr) (v : Nat) => after (exec i s) fun t => (t.me.ex.flight.map fun f => bitsOf f.value.toNat 0 64) == [v]
    mask (.mset y0 1 63 1) 0x8000000000000000 = true ∧ mask (.mset y0 1 0 64) 0xFFFFFFFFFFFFFFFF = true ∧
    mask (.mlog y0 .not 1 0 0) 0xFFFFFFFFFFFFFFFF = true := by decide +kernel

/-! ## The Sett -/

/-- The Sett of core 0 changed. -/
def withSett (f : Sett → Sett) (s : State) : State := s.modSett 0 f

/-- A command of EX of core 0. -/
def settCmd (started : Bool) (stage : Nat) (body : CmdBody) : Cmd :=
  { cmd0 (State.reset.core 0) started body with q := .ex, stage := stage }

theorem witness_LeaseAndLanding :
    let s := ready .ex id
    let own := withSett (fun t => { t with lessee := some 0, count := 63 }) s
    let wait := withSett (fun t => { t with waiting := [11, 0], last := 11 }) s
    let halted := ready .ctl fun k => k.modEx fun e => { e with flow := { e.flow with halted := true } }
    let mma := CmdBody.mma false 0 0 0 0 0 false false 0x11
    let q := fun (c : Cmd) => withSett (fun t => { t with queue := [c] }) s
    (s.clear (s.plain y0 (.lse y0)) = true ∧ (s.setts.at (settOf 0)).lessee ≠ some 0) ∧
    (own.clear (own.plain y0 (.lse y0)) = true ∧ own.clear (own.plain y0 (.lsr y0)) = true ∧ (own.setts.at (settOf 0)).lessee = some 0) ∧
    ((wait.setts.at 0).lessee = none ∧ (11 : CoreId) ∈ (wait.setts.at 0).waiting) ∧
    ((halted.core 0).mode = .running ∧ (halted.core 0).ex.flow.halted = true ∧ (halted.core 0).aux.hold = false ∧ (halted.core 0).aux.trap = none) ∧
    (s.core 0).ex.flow.halted = false ∧
    ((q (settCmd true 1 mma)).settHead 0 = some (settCmd true 1 mma) ∧ (settCmd true 1 mma).stage = 1) ∧
    ((q (settCmd false 0 mma)).settHead 0 = some (settCmd false 0 mma) ∧ ((q (settCmd false 0 mma)).core 0).waitsDone noWait = true ∧
      (settCmd false 0 mma).stage ≠ 1) ∧
    (q (settCmd false 0 (.mclr 4))).settHead 0 = some (settCmd false 0 (.mclr 4)) := by decide +kernel

/-- R17: the cores after the last lessee go first: with 11 last, core 0 before core 11. -/
theorem test_grant :
    after (exec (.leaseGrant 0) (withSett (fun t => { t with waiting := [11, 0], last := 11 }) (ready .ex id)))
      (fun t => (t.setts.at 0).lessee == some 0 && (t.setts.at 0).waiting == [11]) = true := by decide +kernel

/-- EX of core 0 with a tile run of allotment 5 and descriptor pairs 0 and 2 of one row, marks 0 and 1. -/
def settReady : State :=
  withSett (fun t => { t with lessee := some 0 }) (ready .ex fun k => (k.modAux fun a => { a with run := some { run0 with op := { op0 with allot := 5 } } }).modEx
    fun e => { e with dsc := (e.dsc.put 1 (2 ^ 32)).put 3 (2 ^ 53 + 2 ^ 48 + 2 ^ 32), fmt := e.fmt.put 0 0x0911 })

theorem witness_SettWords :
    let s := settReady
    let e := s.me.ex
    let last := withSett (fun t => { t with count := 63 }) s
    (4 < s.allotment ∧ dRows (e.dsc.at 1) = 1 ∧ dRows (e.dsc.at 3) = 1 ∧ dWait (e.dsc.at 3) = true ∧ dMark (e.dsc.at 3) ≠ dMark (e.dsc.at 1) ∧
      fmtPair (e.fmtOf 0) = true ∧ fmtOT (e.fmtOf 0) ≠ 3 ∧ fmtOT (e.fmtOf 0) ≠ 2) ∧
    ([Instr.mma y0 4 0 2 0 true true, .mmaz y0 4 0 2 0 false false, .mmov y0 4 0 0, .mclr y0 4].all fun i => s.clear (s.plain y0 i) && last.clear (last.plain y0 i)) = true ∧
    ((s.setts.at (settOf 0)).lessee = some 0 ∧ (s.setts.at (settOf 0)).queue.length < 16 ∧ (s.setts.at (settOf 0)).count < 63 ∧
      63 ≤ (last.setts.at (settOf 0)).count) ∧ s.me.markDone 0 = true ∧ s.hub.power.gated = false ∧
    s.allotment ≤ (5 : Fin 64).val ∧ s.clear (s.plain y0 (.mclr y0 5)) = true ∧ dRows (e.dsc.at 0) < 1 ∧ s.clear (s.plain y0 (.mmov y0 0 15 0)) = true ∧
    (dRows (e.dsc.at 1) = 1 ∧ dRows (e.dsc.at 15) < 1 ∧ s.clear (s.plain y0 (.mma y0 0 0 14 0 true true)) = true) := by decide +kernel

/-- R17, R269: `mma` enters the queue; one of tile 5 of an allotment of 5 traps. -/
theorem test_mma :
    after (exec (.mma y0 4 0 2 0 false false) settReady) (fun t => (t.setts.at 0).queue.length == 1 && !t.me.markDone 0 && t.me.markDone 1 &&
      (t.setts.at 0).count == 1) = true ∧
    after (exec (.mclr y0 5) (settReady.modMe handled)) (fun t => t.me.mode == .handler && t.me.cr.trapCause == 1) = true := by decide +kernel

/-! ## Steps of the engines -/

theorem witness_BankCommands :
    let s := fun (c : Cmd) => pinned .ctl fun k => { k with cmds := [{ c with wins := k.wins }] }
    let tok := mkToken 256 0 false true true false 5 1
    let d := fun (body : CmdBody) (stage : Nat) => ({ cmd0 (State.reset.core 0) true body with stage := stage } : Cmd)
    let none0 := d (.bank .add .i32 false tok 0 0 0) 0
    let one := { d (.bank .add .i32 false tok 252 (2 ^ 32) 0) 1 with opA := [1, 1, 0, 0, 0] }
    let red := d (.reduce .f32 .f32 tok 0 (2 ^ 32) 0) 2
    (s none0).mem.wf = true ∧ ((s none0).cores.toList.all fun k => k.l1.isEmpty) = true ∧ (s none0).poison = [] ∧ (s none0).hub.halves = [] ∧ ([0x2000, 0x2001] : List Nat).Nodup ∧
    ((s none0).coreCmd 0 7 = some none0 ∧ none0.wins = ((s none0).core 0).wins ∧ bitsOf (0 : W64).toNat 32 24 = 0) ∧
    ((s one).coreCmd 0 7 = some one ∧ bitsOf (2 ^ 32 : W64).toNat 32 24 ≠ 0 ∧ ((s one).lookup 0 7 (2 ^ 20) tok true true).1 = .near 256 [⟨0x2000, 256, 2, false⟩] ∧
      (s one).cmdWaits one tok (offs 252 4) [] = false) ∧
    ((s red).coreCmd 0 7 = some red ∧ (red.parts.all (·.2)) = true ∧ (s { red with stage := 1 }).coreCmd 0 7 = some { red with stage := 1 }) ∧
    redCount .f32 .f32 0 = 0 ∧ bankNew .swap .i32 0 1 2 = some 2 ∧ bankNew .cas .i32 3 1 2 = none ∧ bankNew .add .i32 0 0xFFFFFFFF 2 = some 1 := by
  decide +kernel

/-- R284, R286: an I32 element is added modulo 2^32, and its old bytes are given. -/
theorem test_bank :
    let r := ({ State.reset with mem := [(0x2000, 0xFF), (0x2001, 0xFF), (0x2002, 0xFF), (0x2003, 0xFF)] } : State).bankElement (.item 0 7 0) ⟨0, .ctl, 0⟩ false .add
      .i32 0 ((offs 0x2000 4).map fun a => (a, true)) [2, 0, 0, 0]
    r.s.mem = [(0x2000, 1)] ∧ r.data = some [0xFF, 0xFF, 0xFF, 0xFF] := by decide +kernel

/-- A contribution of rank 1 of 2, of one F32 element. -/
def arrival0 (rank parties : Nat) : Arrival := ⟨0x2000, .f32, .f32, parties, rank, 7, none, [[0, 0, 0x80, 0x3F]]⟩

theorem witness_ReductionsAndWarren :
    let s := State.reset
    let open' := fun (g : List Contribution) => s.modDie 0 fun e => { e with reds := [⟨0x2000, .f32, .f32, 2, 1, g⟩] }
    let a := open' [⟨1, 6, none, [[0, 0, 0, 0]]⟩]
    let b := open' []
    let find := fun (t : State) => ((t.dies.at 0).reds.find? fun r => r.key == 0x2000)
    let w := fun (ents : List WarrenEnt) (body : CmdBody) => (withPart part0 (ready .ctl fun k => { k with cmds := [cmd0 k true body] })).modDie 0 fun e =>
      { e with warren := e.warren.put 63 ⟨0, 1, ents⟩ }
    (arrival0 2 2).parties ≤ (arrival0 2 2).rank ∧ (arrival0 1 2).rank < (arrival0 1 2).parties ∧
    (find a = some ⟨0x2000, .f32, .f32, 2, 1, [⟨1, 6, none, [[0, 0, 0, 0]]⟩]⟩ ∧ (arrival0 0 2).elems.length = 1) ∧
    (find b = some ⟨0x2000, .f32, .f32, 2, 1, []⟩ ∧ ([] ++ [(⟨1, 7, none, [[0, 0, 0x80, 0x3F]]⟩ : Contribution)]).length < 2) ∧
    (find s = none ∧ (s.dies.at 0).reds = []) ∧
    ((w [] (.push 63 5 6)).coreCmd 0 7 = some (cmd0 (State.reset.core 0) true (.push 63 5 6)) ∧ ((w [] (.push 63 5 6)).dies.at 0).warren.at 63 = ⟨0, 1, []⟩ ∧
      (w [] (.push 63 5 6)).partOf 0 = some 0) ∧
    ((w [] (.peek 63)).coreCmd 0 7 = some (cmd0 (State.reset.core 0) true (.peek 63)) ∧ ((w [⟨5, 6, none⟩] (.pop 63)).dies.at 0).warren.at 63 = ⟨0, 1, [⟨5, 6, none⟩]⟩) ∧
    ((w [] (.pop 0)).coreCmd 0 7 = some (cmd0 (State.reset.core 0) true (.pop 0)) ∧ (((w [] (.pop 0)).dies.at 0).warren.at 0).cap = 0) := by decide +kernel

/-- R290, R292: a push into a queue of room for one, and a second that finds it full. -/
theorem test_warren :
    let w := fun (ents : List WarrenEnt) => (withPart part0 (ready .ctl fun k => { k with cmds := [cmd0 k true (.push 63 5 6)] })).modDie 0 fun e =>
      { e with warren := e.warren.put 63 ⟨0, 1, ents⟩ }
    after (exec (.warrenCommandPerformed 0 7) (w [])) (fun t => ((t.dies.at 0).warren.at 63).ents == [⟨5, 6, none⟩] && (t.core 0).cmds.isEmpty) = true ∧
    after (exec (.warrenCommandPerformed 0 7) (w [⟨1, 2, none⟩])) (fun t => ((t.dies.at 0).warren.at 63).ents == [⟨1, 2, none⟩] && (t.core 0).cr.l2Err == 0) = true := by
  decide +kernel

/-- A die of the fabric with group 0 of dies 0 and 1 of the package, and a command of its engine. -/
def fabric (d : Cmd) : State :=
  let s := (pinned .ctl id).modDie 0 fun e => { e with fabQ := [d] }
  s.modHub fun h => { h with fab := { h.fab with groups := h.fab.groups.put 0 (some ⟨0, [0, 1]⟩), up := [(0, .xp), (1, .xp)] } }

def fabCmd0 (body : CmdBody) (stage : Nat) : Cmd := { cmd0 (State.reset.core 0) true body with stage := stage }

theorem witness_FabricCommands :
    let tok := mkToken 256 0 false true true false 5 1
    let holds := fun (body : CmdBody) (stage : Nat) => (fabric (fabCmd0 body stage)).fabCmd 0 7 = some (fabCmd0 body stage) ∧
      (fabCmd0 body stage).wins = ((fabric (fabCmd0 body stage)).core 0).wins
    let put := { fabCmd0 (.fput tok 255 0 1) 1 with opB := [5] }
    let s := fabric put
    (holds (.fput tok 0 0 0) 0 ∧ holds (.fget tok 0 0 (2 ^ 30 + 1)) 0 ∧ 2 ^ 30 < (2 ^ 30 + 1 : W64).toNat % 2 ^ 31 ∧ holds (.fget tok 0 0 1) 2) ∧
    (s.fabCmd 0 7 = some put ∧ s.cmdWaits put tok (moveOffs 255 1) [] = false ∧
      (s.tokWrite put.who 7 (2 ^ 20) tok ((moveOffs 255 1).zip [5]) none .cr ⟨none, .units, fun _ => true, some .any⟩).data.isSome = true) ∧
    (holds (.famo (.amo .add) .sy true tok 0 1 0) 0 ∧ s.cmdWaits (fabCmd0 (.famo (.amo .add) .sy true tok 0 1 0) 0) tok (offs 0 8) [] = false ∧
      tokRemote tok = false ∧ ((fabric (fabCmd0 (.famo (.amo .add) .sy true tok 0 1 0) 0)).tokAtomic put.who 7 0 tok 0 8 true true .sy 2
      (FamoOp.code (.amo .add)) (operandBytes 8 [1]) (famoNew (.amo .add) 8 1 0)).data.isSome = true) ∧
    (holds (.fred .f32 .f32 tok 0 0 1) 0 ∧ s.groupFor 0 1 = none ∧ s.groupFor 0 0 = some (0, [0, 1]) ∧ redCount .f32 .f32 0 = 0 ∧
      holds (.fred .f32 .f32 tok 0 (2 ^ 32) 0) 1 ∧ redCount .f32 .f32 (2 ^ 32) ≠ 0 ∧ (s.lookup 0 7 (2 ^ 20) tok false true).1 = .near 256 [⟨0x2000, 256, 2, false⟩]) ∧
    (holds (.fbar 0) 0 ∧ holds (.fbar 1) 0 ∧ holds (.fbar 0) 2 ∧ otherRanks 2 0 = [1] ∧ ((s.dies.at 0).bar 0).of 1 = 0) ∧
    (let b := fabric (fabCmd0 (.fbar 0) 0)
     (b.modCmd 7 fun d => { d with started := true }).groupFor 0 0 = some (0, [0, 1]) ∧
       ((b.modCmd 7 fun d => { d with started := true }).mergeCore 0).coreWritesOut 0 = false) := by decide +kernel

/-- The phases of `xall`: its READYs are to be sent, are awaited, agree, differ, its pieces are acknowledged. -/
theorem witness_FabricCommands_xall :
    let d := fun (stage : Nat) (a : List Byte) => ({ fabCmd0 (.xall 0 0 0 0 0 0) stage with opA := a } : Cmd)
    let s := fun (stage : Nat) (a : List Byte) (r : List ReadyRec) => (fabric (d stage a)).modDie 0 fun e => { e with ready := r }
    let desc := bytesOfNat 32 (1 + 2 ^ 8 + 2 * 2 ^ 64)
    (s 1 [1] []).fabCmd 0 7 = some (d 1 [1]) ∧ ((s 1 [1] []).core 0).wins = (d 1 [1]).wins ∧ dieOf 0 = 0 ∧ otherRanks 2 0 = [1] ∧
    (s 2 [1] []).groupFor 0 0 = some (0, [0, 1]) ∧ ((s 2 [1] []).hub.fab.path ((s 2 [1] []).hub.fab.dieAddr 0).val 1).isSome = true ∧
    (let dark := (s 2 [1] []).modHub fun h => { h with fab := { h.fab with up := [] } }
     dark.hub.fab.path (dark.hub.fab.dieAddr 0).val 1 = none) ∧ (s 2 [1] []).answerOf 0 7 (2 ^ 20 + 1) = none ∧ ((s 2 [1] []).dies.at 0).readyOf 0 1 = none ∧
    ((s 2 [1] [⟨0, 1, [1]⟩]).dies.at 0).readyOf 0 1 = some ⟨0, 1, [1]⟩ ∧ ((s 2 [1] [⟨0, 1, [2]⟩]).dies.at 0).readyOf 0 1 = some ⟨0, 1, [2]⟩ ∧
    (∃ ds, readDesc 2 desc = some ds ∧ ds.pieces 2 0 1 = [] ∧ ds.expected 2 0 = 0 ∧ (d 5 desc).parts = []) ∧ ((s 4 desc []).modHub fun h => { h with fab := { h.fab with groups := File.all 64 none } }).groupFor 0 0 = none := by
  refine ⟨?_, ?_, ?_, ?_, ?_, ?_, ?_, ?_, ?_, ?_, ?_, ⟨((readDesc 2 (bytesOfNat 32 (1 + 2 ^ 8 + 2 * 2 ^ 64))).getD ⟨[], 0, 0, 0, 0, []⟩), ?_⟩, ?_⟩ <;>
    decide +kernel

/-! ## Cores, tile runs and queues -/

/-- The snapshot of core 0 as it stands. -/
def snap0 (k : Core) : Snapshot :=
  ⟨k.flow .ctl 0, k.flow .ld 0, k.flow .ex 0, k.flow .st 0, k.ld.a, k.st.a, (k.ctx.at 0).s, k.cells, k.frames, k.ex, k.rings⟩

theorem witness_CoreEvents :
    let t : Trap := ⟨6, .ctl, 0, 0, 4, 0⟩
    let held := ready .ctl fun k => k.modAux fun a => { a with trap := some t }
    let busy := ready .ctl fun k => (k.modAux fun a => { a with trap := some t }).modCtx 1 fun c =>
      { c with live := true, xl := some ⟨0, 0, 1, true, false, none, 0, none, none, false, [1], false⟩ }
    let due := ready .ctl fun k => k.modFlow .ex 0 fun f => { f with due := [⟨3, 0x40⟩] }
    let wait := ready .ctl fun k => k.modFlow .ctl 0 fun f => { f with wait := some 0x28 }
    let at0 := fun (n : Nat) => State.reset.withFetchWord 32 n
    let l1 := fun (st : L1State) => ready .ld fun k => { k with l1 := [⟨0, 0, st, 0⟩] }
    let checked := onTurn .ctl (State.reset.modCore 0 fun k => { k with mode := .checked })
    let cancelled := ready .ctl fun k => { k with mode := .cancelled }.modAux fun a => { a with phases := { a.phases with snap := some (snap0 k) } }
    ((held.core 0).aux.trap = some t ∧ (held.core 0).xlatOutstanding t = false) ∧ ((busy.core 0).aux.trap = some t ∧ (busy.core 0).xlatOutstanding t = true) ∧
    ((wait.core 0).aux.trap = none ∧ wait.dueStream 0 = none) ∧ (due.dueStream 0 = some (.ex, 0) ∧ (due.atTurn 0 .ex 0).myFlow.due = [⟨3, 0x40⟩]) ∧
    ((at0 ((encode .ctl (.wfe y0)).headD 0)).firstWait 0 .ctl 0 = some 0x28 ∧ (at0 0x00400000).firstWait 0 .ctl 0 = none) ∧
    (((l1 .clean).core 0).l1Find 0 ≠ none ∧ ((l1 .clean).core 0).l1Find 1 = none) ∧
    (State.reset.core 0).mode = .free ∧ ((held.core 0).mode = .running ∧ (held.core 0).aux.phases.snap = none) ∧
    ((checked.core 0).mode = .checked ∧ checked.allCmds 0 = [] ∧ checked.looseOf (fun d => d == 0) = false) ∧
    ((cancelled.core 0).aux.phases.snap.isSome = true ∧ (cancelled.core 0).mode = .cancelled ∧ cancelled.quiet 0 = true ∧
      (cancelled.core 0).aux.phases.inLog = []) ∧
    (cancelled.modCore 0 fun k => { k with cmds := [cmd0 k true (.pop 0)] }).quiet 0 = false := by decide +kernel

/-- R345: an uncorrectable error outside a recoverable phase checks the core. -/
theorem test_error_consumed :
    after (exec (.uncorrectableErrorConsumed 0 .z 0x100 0) (ready .ctl id)) (fun t => (t.core 0).mode == .checked) = true := by decide +kernel

/-- Queue 3 of partition 0 in host memory with rings of two entries. -/
def queue0 : Queue :=
  { num := 3, part := 0, page := 1, host := true, ring := 0x4000, lsize := 1, period := 0, budget := 0, cring := 0x5000, clsize := 1, vector := 0, holdoff := 0,
    thresh := 0, tail := 0, head := 0, chead := 0, ctail := 0, srv := (0, 0), ready := true }

def work0 (packets : List Packet) (waiting : List Rec) : QueueWork := ⟨packets, waiting, 0, 0⟩

def withQueue (k : Queue) (w : QueueWork) (s : State) : State := withPart part0 (s.modHub fun h => { h with queues := [(k, w)] })

def packet0 (w0 w1 w2 : W64) : Packet :=
  ⟨9, 0, (((File.all 8 0).put 0 w0).put 1 w1).put 2 w2, false, 0, [], false, false⟩

/-- An operator with all its pins made, of one tile run. -/
def opStat0 (pins dispatched retired : Nat) : OpStat := ⟨0, op0, pins, none, false, [[], [], [], []], List.replicate 16 0, 1, dispatched, retired⟩

def launch0 (o : OpStat) : Packet := { packet0 1 0x1000 0 with started := true, next := 1, ops := [o] }

theorem witness_TileRuns :
    let s := (withQueue queue0 (work0 [launch0 (opStat0 20 0 0)] []) State.reset).modHub fun h => { h with brock := { h.brock with boot := .running false } }
    let res : OpStat := { opStat0 20 0 0 with op := { op0 with resident := true } }
    let next := State.reset.modCore 0 fun k => k.modAux fun a => { a with next := some run0, shadow := some ⟨3, 0, 0, op0⟩ }
    let run := (ready .ctl fun k => (((k.modAux fun a => { a with run := some run0 }).modCtx 0 fun c => { c with flow := { c.flow with halted := true } }).modEx
      fun e => { e with flow := { e.flow with halted := true } }).modLseq true fun l => { l with flow := { l.flow with halted := true } })
    let run := run.modCore 0 fun k => k.modLseq false fun l => { l with flow := { l.flow with halted := true } }
    let busy := run.modCore 0 fun k => { k with cmds := [cmd0 k true (.pop 0)] }
    let o : OpRec := { op0 with levels := [⟨0, 0, 0⟩, ⟨5, 1, 0⟩, ⟨2, 2, 0⟩, ⟨3, 3, 0⟩] }
    (s.hub.parts.at 0 = some part0 ∧ part0.pre = .none ∧ s.hub.power.tripped = false ∧
      s.diesUp = true ∧ State.reset.diesUp = false ∧ (s.offer part0 (s.offers 0 0)).isSome = true) ∧
    (s.placeFor part0 op0 (op0.indices 0) = some 0 ∧ op0.resident = false) ∧
    (s.dispatchOf part0 queue0 (launch0 res) res).isSome = true ∧
    ((next.core 0).aux.next = some run0 ∧ (next.core 0).mode = .free ∧ (next.core 0).aux.hold = false ∧ next.depMet run0 = true ∧
      (next.core 0).aux.shadow = some ⟨3, 0, 0, op0⟩) ∧
    (((State.reset.modCore 0 fun k => k.modAux fun a => { a with next := some run0 }).core 0).aux.shadow = none) ∧
    ((run.core 0).aux.run = some run0 ∧ (run.core 0).mode = .running ∧ (run.core 0).allHalted = true ∧ (run.core 0).postsApplied = true ∧
      run.drained 0 = true) ∧ busy.drained 0 = false ∧
    ((∀ l ∈ o.levels, 2 ≤ l.kind → 1 ≤ l.extent) ∧ 5 < o.total ∧ o.indices 5 = [0, 0, 1, 2]) := by decide +kernel

/-- R109, R337: the tile run of `run0` starts with marks complete and the pc of every sequencer 0. -/
theorem test_swap :
    after (exec (.shadowBankSwap 0) (State.reset.modCore 0 fun k => k.modAux fun a => { a with next := some run0, shadow := some ⟨3, 0, 0, op0⟩ }))
      (fun t => (t.core 0).mode == .running && (t.core 0).cr.marks == 0xFFFFFFFF && ((t.core 0).flow .ex 0).pc == 0 && (t.core 0).aux.next.isNone) = true := by
  decide +kernel

theorem witness_PinningAndLaunchEnd :
    let code' := tables State.reset
    let pin := fun (o : OpStat) => withQueue queue0 (work0 [launch0 o] []) ({ code' with mem := code'.mem.putNum (2 ^ 52 + 0x12000) 8 0x4000041F } : State)
    let code : OpStat := { opStat0 0 0 0 with op := { op0 with code := [(0, 4096), (0, 1), (0, 1), (0, 1)] }, code := [] }
    let bad : OpStat := { code with op := { op0 with code := [(2 ^ 57, 1)] } }
    let s := pin (opStat0 4 0 0)
    let w := work0 [launch0 (opStat0 4 0 0)] []
    let ended := withQueue queue0 (work0 [launch0 (opStat0 20 1 1)] []) State.reset
    (s.queue 3 = some (queue0, w) ∧ w.current = some (launch0 (opStat0 4 0 0)) ∧ s.hub.parts.at 0 = some part0 ∧ part0.firstCluster = some 0 ∧
      (launch0 (opStat0 4 0 0)).pinning = some (opStat0 4 0 0) ∧ s.runs 0 = true ∧ (s.hub.preqs.any fun r => r.queue == some 3) = false ∧
      (opStat0 4 0 0).pinExtent = none) ∧
    (code.pinExtent = some (0, 4096, true, false) ∧ code.pins < 4 ∧ code.refused = false ∧ extentOk 0 4096 = true ∧ (launch0 code).pinning = some code ∧
      (pin code).queue 3 = some (queue0, work0 [launch0 code] []) ∧
      (match ((pin code).walkExtent 0 ⟨0, 0, false, true, []⟩ 0 4096).1 with
       | .ok runs ls => runs == [⟨0x40000000, 4096, 2, false⟩] && ls.length == 1
       | _ => false) = true) ∧
    (bad.pinExtent = some (2 ^ 57, 1, true, false) ∧ extentOk (2 ^ 57) 1 = false ∧ (launch0 bad).pinning = some bad) ∧
    (ended.queue 3 = some (queue0, work0 [launch0 (opStat0 20 1 1)] []) ∧ (work0 [launch0 (opStat0 20 1 1)] []).packets.find? Packet.isOver =
      some (launch0 (opStat0 20 1 1)) ∧ ended.looseOf (fun c => ended.partOf c == some 0) = false) ∧
    (work0 [launch0 (opStat0 20 1 0)] []).packets.find? Packet.isOver = none ∧ (launch0 (opStat0 20 1 1)).notify = false := by decide +kernel

theorem witness_Packets :
    let s := fun (l : List Packet) => withQueue queue0 (work0 l []) State.reset
    let nop := packet0 0 0 0
    let sig := packet0 3 (2 ^ 63 + 0x100) 7
    let other := { packet0 0 0 0 with uid := 8, started := true }
    let first := fun (l : List Packet) => (work0 l []).packets.find? fun p => !p.started
    let room := (s [packet0 2 63 5]).modDie 0 fun e => { e with warren := e.warren.put 63 ⟨0, 1, []⟩ }
    ((s [nop]).queue 3 = some (queue0, work0 [nop] []) ∧ (s [nop]).runs 0 = true ∧ first [nop] = some nop ∧ (work0 [nop] []).mayBegin nop = true ∧ nop.ty = 0) ∧
    (first [other, sig] = some sig ∧ (work0 [other, sig] []).mayBegin sig = false) ∧
    ((packet0 2 63 5).ty = 2 ∧ (packet0 2 63 5).reservedSet = false ∧ bitsOf ((packet0 2 63 5).word 1) 6 2 = 0 ∧ bitsOf ((packet0 2 63 5).word 1) 10 54 = 0 ∧
      ((room.dies.at 0).warren.at (Fin.ofNat 64 63)).cap ≠ 0 ∧ (((s []).dies.at 0).warren.at (Fin.ofNat 64 63)).cap = 0) ∧
    (sig.ty = 3 ∧ sig.reservedSet = false ∧ sig.word 3 = 0 ∧ sig.word 1 % 8 = 0 ∧ bitsOf (sig.word 1) 52 11 = 0 ∧ bitOf (sig.word 1) 63 = true) ∧
    ((packet0 3 0x101 7).word 1 % 8 ≠ 0 ∧ first [packet0 3 0x101 7] = some (packet0 3 0x101 7)) ∧
    ((packet0 1 0x400 0).ty = 1 ∧ (packet0 1 0x400 0).word 1 % 1024 = 0 ∧ bitsOf ((packet0 1 0x400 0).word 2) 12 52 = 0 ∧
      (packet0 1 0x400 0).extents = [0, 0, 0, 0, 0, 0]) ∧ 3 < (packet0 255 0 0).ty ∧
    (first [] = none ∧ ({ queue0 with tail := 1 } : Queue).tail ≠ queue0.head ∧ (s []).ringMissing true 0x4000 1 0 = false) ∧ queue0.tail = queue0.head := by
  decide +kernel

/-- R327: the SIGNAL of the packet writes its doubleword into host memory. -/
theorem test_signal :
    after (exec (.signal 3) (withQueue queue0 (work0 [packet0 3 (2 ^ 63 + 0x100) 7] []) State.reset)) (fun t => t.mem.num (2 ^ 52 + 0x100) 8 == 7 &&
      t.hub.queues.all fun e => e.2.packets.isEmpty) = true := by decide +kernel

/-- R326, R336: a packet that the ring holds is taken, with the number of its place. -/
theorem test_ring :
    let s := withQueue { queue0 with tail := 1 } (work0 [] []) State.reset
    after (exec (.unknownPacketType 3) ({ s with mem := s.mem.putNum (2 ^ 52 + 0x4000) 8 4 } : State)) (fun t =>
      t.hub.queues.all fun e => e.1.head == 1 && e.2.packets.isEmpty && (e.2.waiting.length == 1)) = true := by decide +kernel

theorem witness_RecordsAndTimer :
    let r := runRec 0 run0 0 2 0 0 0 7
    let e := ready .ctl fun k => k.modAux fun a => { a with ecall := some r }
    let q := fun (k : Queue) => withQueue k (work0 [] [r]) State.reset
    let far : Queue := { queue0 with host := false, cring := 2 ^ 45 }
    let srv : Queue := { queue0 with budget := 3, period := 10, srv := (10, 1) }
    (e.core 0).aux.ecall = some r ∧ (q queue0).queue 3 = some (queue0, work0 [] [r]) ∧ 2 ^ ({ queue0 with ctail := 2 } : Queue).clsize ≤
      (({ queue0 with ctail := 2 } : Queue).ctail - queue0.chead).toNat ∧ (queue0.ctail - queue0.chead).toNat < 2 ^ queue0.clsize ∧
    (q far).ringMissing far.host far.cring far.clsize far.ctail = true ∧ (q queue0).ringMissing queue0.host queue0.cring queue0.clsize queue0.ctail = false ∧
    (q queue0).pageQueue 0 1 = some (queue0, work0 [] [r]) ∧ (q queue0).pageQueue 0 2 = none ∧ ((5 : W32) - queue0.tail).msb = false ∧
    ((0 : W32) - ({ queue0 with tail := 1 } : Queue).tail).msb = true ∧ 0 < srv.budget := by decide +kernel

/-- R332: a server of budget 3 and period 10 with 1 left, charged for 2 cores, goes to 2 at the deadline 20; one with room keeps its deadline. -/
theorem test_server :
    (({ queue0 with budget := 3, period := 10, srv := (10, 1) } : Queue).charge 2 true).srv = (20, 2) ∧
    (({ queue0 with budget := 3, period := 10, srv := (10, 3) } : Queue).charge 2 true).srv = (10, 1) := by decide +kernel

/-! ## The mailbox -/

/-- The machine of reset with 64-bit words of the mailbox payload set. -/
def boxed (l : List (Nat × Nat)) (s : State) : State :=
  s.modMbox fun m => { m with payload := l.foldl (fun b e => b.putNum e.1 8 e.2) m.payload }

/-- The body of a command is done, or rejected with a detail. -/
def ranDetail : Ran → Option Nat
  | .rejected d => some d
  | .rejectedIn d _ => some d
  | .done _ => none

theorem witness_MailboxRules :
    let s := State.reset
    let off := s.modHub fun h => { h with brock := { h.brock with boot := .recovery } }
    let busy := s.modMbox fun m => { m with busy := true, cmd := 2 }
    (busy.hub.mbox.busy = true ∧ busy.hub.mbox.cmd.toNat = 2 ∧ busy.hub.mbox.cmd.toNat ≠ 1) ∧ ranDetail (State.runConfigureQueue s) = some 3 ∧
    (0x11 : W64).toNat % 2 ^ 16 = 0x11 ∧ (boxed [(0, 3)] s).pay 0 0 2 = 3 ∧ s.hub.mbox.busy = false ∧ off.hub.mbox.busy = false ∧
    off.hub.brock.boot = .recovery ∧ s.hub.brock.boot ≠ .recovery ∧ ranDetail (State.runSetRoot (boxed [(8, 1)] s)) = some 3 ∧
    ranDetail (State.runSetRoot s) = none ∧ (boxed [(0, 2)] s).pay 0 0 2 = 2 ∧ (0x30001 : W64).toNat % 2 ^ 16 = 1 := by decide +kernel

/-- R125, R352, R376: a root is installed; one at no frame sets error and detail 3; in recovery mode detail 4, or 3 where that applies. -/
theorem test_set_root :
    let off := fun (s : State) => s.modHub fun h => { h with brock := { h.brock with boot := .recovery } }
    after (exec .setRoot (boxed [(0, 5 + 2 * 2 ^ 16), (8, 0x3000)] State.reset)) (fun t => t.root 5 == some (2, 0x3000) && !t.hub.mbox.error) = true ∧
    after (exec .setRoot (boxed [(8, 1)] State.reset)) (fun t => t.hub.mbox.error && t.hub.mbox.detail == 3) = true ∧
    after (exec .setRoot (off State.reset)) (fun t => t.hub.mbox.error && t.hub.mbox.detail == 4) = true ∧
    after (exec .setRoot (off (boxed [(8, 1)] State.reset))) (fun t => t.hub.mbox.detail == 3) = true := by decide +kernel

/-- A payload that describes queue 3 of partition 0 at page 1. -/
def queuePay (budget period : Nat) : List (Nat × Nat) :=
  [(0, 3 + 2 ^ 16), (0x40, 0x4000), (0x48, 3), (0x50, period * 2 ^ 32 + budget), (0x58, 0x5000), (0x60, 3)]

/-- At reset no access is under way, so that none can still reach the frames of a REVOKE. -/
theorem reset_reaches_nothing :
    (State.reset.modHub fun h => { h with revokes := [⟨0, 0, 4096, [], [], false, false⟩] }).reaching ⟨0, 0, 4096, [], [], false, false⟩ = false := by
  simp [State.reaching, State.modHub, State.core, State.reset, Core.reset, CoreAux.reset, Die.reset]

theorem witness_MailboxTranslation :
    let s := State.reset
    let rev := s.modHub fun h => { h with revokes := [⟨0, 0, 4096, [], [], false, false⟩] }
    let red := rev.modDie 0 fun e => { e with reds := [⟨0x2000, .f32, .f32, 2, 1, []⟩] }
    let part := withPart part0 s
    s.hub.mbox.busy = false ∧ s.hub.brock.boot ≠ .recovery ∧ 3 < (boxed [(0, 4 * 2 ^ 16)] s).pay 0 16 3 ∧ (boxed [(8, 0xFFF)] s).pay 8 0 12 ≠ 0 ∧
    (s.pay 0 16 3 ≤ 3 ∧ s.pay 8 0 12 = 0) ∧ s.pay 0x10 0 58 = 0 ∧ 2 ^ 57 < (boxed [(0x10, 2 ^ 57 + 1)] s).pay 0x10 0 58 ∧
    (0 < (boxed [(0x10, 2 ^ 57)] s).pay 0x10 0 58 ∧ (boxed [(0x10, 2 ^ 57)] s).pay 0x10 0 58 ≤ 2 ^ 57) ∧
    ((rev.hub.revokes.filter fun r => !r.quiesced)[1]? = none ∧ (rev.hub.revokes.filter fun r => !r.quiesced)[0]? = some ⟨0, 0, 4096, [], [], false, false⟩ ∧
      rev.openReds [] = false ∧ rev.reaching ⟨0, 0, 4096, [], [], false, false⟩ = false ∧ red.openReds [⟨0x2000, 4, 0, false⟩] = true) ∧
    ((boxed (queuePay 0 1) s).hub.parts.at 0 = none ∧ (boxed (queuePay 0 1) part).refuses (boxed (queuePay 0 1) part).described = false ∧
      (boxed (queuePay 769 1) part).refuses (boxed (queuePay 769 1) part).described = true ∧
      part.hub.parts.at (boxed (queuePay 769 1) part).described.part = some part0 ∧ 1 * part0.cores < 769) := by
  refine ⟨by decide +kernel, by decide +kernel, by decide +kernel, by decide +kernel, by decide +kernel, by decide +kernel, by decide +kernel,
    by decide +kernel, ⟨by decide +kernel, by decide +kernel, by decide +kernel, reset_reaches_nothing, by decide +kernel⟩, by decide +kernel⟩

/-- R324: the queue of that payload is configured; without its partition it is refused with detail 3, with too large a budget with 6. -/
theorem test_configure_queue :
    after (exec .configureQueue (boxed (queuePay 0 1) (withPart part0 State.reset))) (fun t => (t.queue 3).any fun e => e.1.page == 1 && e.1.ring == 0x4000) =
      true ∧
    after (exec .configureQueue (boxed (queuePay 0 1) State.reset)) (fun t => t.hub.mbox.detail == 3) = true ∧
    after (exec .configureQueue (boxed (queuePay 769 1) (withPart part0 State.reset))) (fun t => t.hub.mbox.detail == 6) = true := by decide +kernel

theorem witness_MailboxResources :
    let s := State.reset
    let run := withPart part0 (s.modCore 0 fun k => { k with mode := .running })
    let good := boxed [(0, 1), (8, 2 ^ 8)] s
    let clash := boxed [(0, 1), (8, 1)] (withPart part0 s)
    (s.hub.mbox.busy = false ∧ s.hub.brock.boot ≠ .recovery ∧ good.hub.mbox.payload.wf = true ∧ s.mem.wf = true) ∧
    (s.pay 0 8 1 = 0 ∧ (boxed [(0, 2 ^ 8)] s).pay 0 8 1 = 1 ∧ run.hasRun 0 (fun _ => true) = true ∧ s.hasRun 0 (fun _ => true) = false) ∧
    (good.hasRun 1 (fun _ => true) = false ∧ good.partBad 1 (good.payPart (good.hub.parts.at 1)) = false ∧
      clash.partBad 1 (clash.payPart (clash.hub.parts.at 1)) = true ∧ clash.hub.parts.at 0 = some part0 ∧
      part0.clusters &&& BitVec.ofNat 16 (clash.pay 8 0 16) ≠ 0) ∧
    (run.ownersBusy 0 [0] = true ∧ s.ownersBusy 0 [0] = false ∧ (boxed [(0, 7 * 2 ^ 8)] s).pay 0 8 3 = 7) ∧
    ((boxed [(0x40, 256)] s).pay 0x40 0 9 = 256 ∧ 256 < (boxed [(0x40, 257)] s).pay 0x40 0 9) ∧
    ((boxed [(8, 2 + 2 * 2 ^ 8 + 2 ^ 16)] s).pay 8 0 8 = 2 ∧ (boxed [(8, 1)] s).pay 8 0 8 % 2 ≠ 0) ∧
    ((boxed [(0, 1)] s).pay 0 0 2 = 1 ∧ (boxed [(0, 2)] s).pay 0 0 2 = 2 ∧ (boxed [(8, 6 * 2 ^ 8)] s).pay 8 8 3 = 6 ∧ (5 : Nat) < 6) := by decide +kernel

/-- R278, R290, R295, R311, R297, R374: each of these commands done, and refused. -/
theorem test_resources :
    let s := State.reset
    let ran := fun (i : Instr) (l : List (Nat × Nat)) (f : State → Bool) => after (exec i (boxed l s)) f
    let detail := fun (n : Nat) (t : State) => t.hub.mbox.detail.toNat == n && t.hub.mbox.error == (n != 0)
    ran .setPartition [(0, 1), (8, 2 ^ 8)] (fun t => detail 0 t && (t.hub.parts.at 1).any fun p => p.clusters == 0x100) = true ∧
    ran .setPartitionRemove [(0, 2 ^ 8)] (detail 0) = true ∧ ran .setCommons [(0, 2 ^ 8), (8, 5)] (fun t => (t.dies.at 0).commons == [5]) = true ∧
    ran .setWarren [(0x40, 257)] (detail 3) = true ∧ ran .setWarren [(0x40, 2 * 2 ^ 12 + 1)] (fun t => ((t.dies.at 0).warren.at 0) == ⟨2, 256, []⟩) = true ∧
    ran .setFabricGeometry [(8, 2 + 2 * 2 ^ 8)] (detail 3) = true ∧ ran .setFabricGeometry [(8, 4 + 2 * 2 ^ 8 + 3 * 2 ^ 16)] (fun t => t.hub.fab.size == 24) = true ∧
    ran .setFabricGroup [(0, 1), (8, 2 ^ 8 + 2 * 2 ^ 24), (0x40, 2 ^ 8)] (fun t => t.hub.fab.groups.at 0 == some ⟨0, [0, 1]⟩) = true ∧
    ran .setFabricGroup [(0, 1), (8, 2 ^ 8 + 2 * 2 ^ 24), (0x40, 0)] (detail 3) = true ∧ ran .setFabricLink [(0, 2), (8, 6 * 2 ^ 8)] (detail 3) = true ∧
    ran .setPowerCap [(0, 599)] (detail 3) = true ∧ ran .setPowerCap [(0, 1600)] (fun t => t.hub.power.cap == 1600) = true := by decide +kernel

/-- The remaining cases of `MailboxResources`: a port that carries a link and one that does not, a die of the package and one elsewhere. -/
theorem witness_MailboxResources_links :
    let f : Fabric := { State.reset.hub.fab with ex := 4 }
    let s := State.reset
    let fixed := s.modHub fun h => { h with fab := { h.fab with fixed := true } }
    s.hub.fab.fixed = false ∧ fixed.hub.fab.fixed = true ∧ (s.link 0 .xp).state = .down ∧
    f.portOk .xp = true ∧ f.portOk .zp = false ∧ (Port.num .xp).val ≤ 5 ∧ f.size = 8 ∧ f.dieOf 0 = some 0 ∧ f.dieOf 7 = none := by decide +kernel

/-- R368: READ_SCREE takes 1 to 16 records of copies 0 to 4. -/
theorem test_read_scree :
    after (exec .readScree (boxed [(0, 4), (0x10, 16)] State.reset)) (fun t => !t.hub.mbox.error) = true ∧
    after (exec .readScree (boxed [(0x10, 17)] State.reset)) (fun t => t.hub.mbox.detail == 3) = true ∧
    after (exec .readScree (boxed [(0, 5), (0x10, 1)] State.reset)) (fun t => t.hub.mbox.detail == 3) = true := by decide +kernel

/-! ## The host and pre-emption -/

theorem witness_HostInterface :
    let s := State.reset
    let req : PageReq := ⟨0, 7, some (0, 0), none, true, 0, 0, false, false⟩
    let r := s.modHub fun h => { h with preqs := [req] }
    let ev := fun (base : W64) => s.modMbox fun m => { m with events := [mkRec 8 0 0 0 0 0 0 0], evBase := base }
    let full := s.modMbox fun m => { m with events := [mkRec 8 0 0 0 0 0 0 0], evBase := 0x1000, evWr := 64 }
    (∀ q ∈ s.hub.preqs, ¬ (q.part = 0 ∧ q.id = (7 : W64).setWidth 16 ∧ q.written = true)) ∧ 2 ≤ bitsOf (2 * 2 ^ 16 : W64).toNat 16 2 ∧
    (r.hub.preqs.find? (fun q => decide (q.part = 0 ∧ q.id = (7 + 2 ^ 16 : W64).setWidth 16 ∧ q.written = true)) = some req ∧
      bitsOf (7 + 2 ^ 16 : W64).toNat 16 2 < 2) ∧
    (s.hub.mbox.events = [] ∧ (ev 0).hub.mbox.evBase = 0 ∧ 64 ≤ (full.hub.mbox.evWr - full.hub.mbox.evRd).toNat ∧
      (ev 0x1000).hub.mbox.events = [mkRec 8 0 0 0 0 0 0 0] ∧ (ev 0x1000).hub.mbox.evBase ≠ 0 ∧ ((ev 0x1000).hub.mbox.evWr - (ev 0x1000).hub.mbox.evRd).toNat < 64) ∧
    (s.hasFunction 0 = false ∧ s.hasFunction 16 = true ∧ (withPart part0 s).hasFunction 0 = true) ∧
    ((s.modBrock fun b => { b with boot := .recovery }).hub.brock.boot = .recovery ∧ s.hub.brock.boot ≠ .recovery) ∧
    (4 % (if true then 8 else 4) ≠ 0 ∧ (0 : W64).getLsbD 0 = false) ∧ 3 * 2 ^ 39 - 1 + 1 ≤ 3 * 2 ^ 39 ∧ 3 * 2 ^ 39 < 3 * 2 ^ 39 - 1 + 2 := by decide +kernel

/-- R350 to R352: a page of a partition and of a queue that exist and of ones that do not, and what reads of them give. -/
theorem witness_HostInterface_reads :
    let s := withQueue { queue0 with tail := 5 } (work0 [] []) State.reset
    (s.hub.parts.at 0 = some part0 ∧ s.hub.parts.at 1 = none) ∧ ((s.pageQueue 0 1).isSome = true ∧ s.pageQueue 0 2 = none) ∧
    s.hub.mbox.payload.wf = true ∧ 6 % (if false then 8 else 4) ≠ 0 ∧ s.registerRead (.doorbell 0 1) 0 false = 5 ∧
    s.registerRead (.doorbell 0 2) 0 false = 0 ∧ (boxed [(8, 0x123456789)] s).registerRead .mailbox 0x108 true = 0x123456789 ∧
    (boxed [(8, 0x123456789)] s).registerRead .mailbox 0x108 false = 0x23456789 := by decide +kernel

/-- R106, R355: the host writes and reads device memory at DPA 0 and at the first byte of tier 2; past the end it faults. -/
theorem test_host_memory :
    after (exec (.hostMemWrite 0 [5]) State.reset) (fun t => t.mem == [(Config.hbmBase, 5)]) = true ∧
    after (exec (.hostMemRead 0 2) ({ State.reset with mem := [(Config.hbmBase, 5)] } : State)) (fun t => t.hub.hostData == [5, 0]) = true ∧
    after (exec (.hostMemWrite (2 ^ 39) [6]) State.reset) (fun t => t.mem == [(Config.tier2Base, 6)]) = true ∧
    (match exec (.hostMemWrite (3 * 2 ^ 39 - 1) [1, 2]) State.reset with | .fault .noSuchDpa => true | _ => false) = true := by decide +kernel

theorem witness_Preemption :
    let one : Part := { part0 with clusters := 1 }
    let s := fun (pre : PreState) => withPart { one with pre := pre } State.reset
    let node := withPart { one with pre := .node } (State.reset.modCore 0 fun k => { k with mode := .running })
    let saved : Saved := ⟨0, 1, [], [], [], [], [], []⟩
    let back := (s .restoring).modHub fun h => { h with saved := [saved] }
    let altered := (s .restoring).modHub fun h => { h with saved := [{ saved with image := [(2 ^ 52 + 0x8000000000, [1])] }] }
    (State.reset.hub.mbox.busy = false ∧ State.reset.hub.brock.boot ≠ .recovery ∧ State.reset.pay 0 0 4 = 0) ∧
    State.reset.hub.parts.at 0 = none ∧ (s .none).hub.parts.at 0 = some one ∧ (s .none).hasResident 0 = false ∧ one.saveBase ≠ 0 ∧ one.pre = .none ∧
    ((boxed [(0, 2 ^ 8)] (s .none)).pay 0 8 1 = 1 ∧ ({ one with saveBase := 0 } : Part).saveBase = 0) ∧
    ((s .forced).partOf 0 = some 0 ∧ ((s .forced).core 0).aux.hold = false) ∧
    (node.hasRun 0 (fun _ => true) = true ∧ (s .node).hasRun 0 (fun _ => true) = false) ∧
    ((s .forced).hub.saved.find? (fun e => e.part == 0) = none ∧ back.hub.saved.find? (fun e => e.part == 0) = some saved ∧
      back.restoreReason { one with pre := .restoring } saved = none ∧
      (altered.restoreReason { one with pre := .restoring } { saved with image := [(2 ^ 52 + 0x8000000000, [1])] }).isSome = true) := by decide +kernel

/-- Every core of a partition of one cluster has passed the fence; or one that runs has not. -/
theorem witness_Preemption_passed :
    let t : Part := { part0 with clusters := 1, pre := .forced }
    let s := withPart t State.reset
    let held := { s with cores := s.cores.map fun (k : Core) => k.modAux fun a => { a with hold := true } }
    (coreIds.all fun c => !t.has c || held.passed c) = true ∧ (0 : CoreId) ∈ coreIds ∧ t.has 0 = true ∧ s.passed 0 = false := by decide +kernel

/-! ## Links and records -/

/-- The port +X of die 0 changed. -/
def withLink (f : Link → Link) (s : State) : State := s.modLink 0 .xp f

/-- A flit of a kind and sequence number. -/
def flit1 (kind seq : Nat) : Flit := { hdr := BitVec.ofNat 64 (seq * 2 ^ 52 + kind * 2 ^ 32), h0 := 0, h1 := 0, data := [] }

theorem witness_Links :
    let s := State.reset
    let up := withLink (fun l => { l with state := .full }) s
    let out := s.modLink 0 .xm fun l => { l with state := .full }
    let wired := (withLink (fun l => { l with state := .full }) s).modLink 1 .xp fun l => { l with state := .full, wire := [flit1 0 0], nakSent := true, rxSeq := 7 }
    let late := withLink (fun l => { l with state := .full, discards := 7 }) s
    let re := withLink (fun l => { l with state := .retraining, lanes32 := true }) s
    (s.link 0 .xp).isUp = false ∧ sibling 0 .xm = none ∧ sibling 0 .xp = some 1 ∧
    ((out.link 0 .xm).isUp = true ∧ (flit1 1 0).kind = 1 ∧ (flit1 0 0).kind ≠ 1 ∧ (flit1 0 0).kind ≠ 2 ∧ bitsOf (flit1 0 0).hdr.toNat 3 9 = 0 ∧
      bitsOf (({ flit1 0 0 with hdr := 8 } : Flit).hdr.toNat) 3 9 ≠ 0 ∧ (flit1 0 0).seq = (out.link 0 .xm).rxSeq + 1 ∧ (flit1 0 1).seq ≠ (out.link 0 .xm).rxSeq + 1) ∧
    ((up.link 0 .xp).isUp = true ∧ (up.link 1 .xp).wire = []) ∧
    ((wired.link 0 .xp).isUp = true ∧ (wired.link 1 .xp).wire = [flit1 0 0] ∧ (flit1 0 0).seq = ((wired.modLink 1 .xp fun l => { l with wire := [] }).link 0 .xp).rxSeq + 1 ∧
      (wired.link 1 .xp).nakSent = true ∧ (wired.link 1 .xp).rxSeq = 7) ∧
    ((up.link 0 .xp).state ≠ .down ∧ (up.link 0 .xp).discards + 1 < 8 ∧ 8 ≤ (late.link 0 .xp).discards + 1) ∧
    ((out.link 0 .xm).state ≠ .down ∧ (s.link 0 .xp).state = .down ∧ (re.link 0 .xp).state = .retraining ∧ (up.link 0 .xp).state ≠ .retraining) ∧
    ((up.link 0 .xp).waiting = [] ∧ (up.link 0 .xp).replay.length < 1024 ∧ (up.link 0 .xp).stop.getLsbD 3 = false) := by decide +kernel

/-- R303, R304, R307: keys near their end, one held, and a silent destination whose path is free or not. -/
theorem witness_Links_keys :
    let s := State.reset
    let key := fun (n : Nat) (held : Bool) => withLink (fun l => { l with state := .full, keyCtr := n, keyHeld := held }) s
    let near := (s.modDie 0 fun e => { e with silent := [(1, [])] })
    let free := withLink (fun l => { l with state := .full }) (near.modHub fun h => { h with fab := { h.fab with up := [(0, .xp), (1, .xp)] } })
    2 ^ 40 - 2 ^ 24 ≤ ((key (2 ^ 40 - 2 ^ 24) false).link 0 .xp).keyCtr ∧ ((key (2 ^ 40 - 2) false).link 0 .xp).keyCtr < 2 ^ 40 - 1 ∧
    2 ^ 40 - 1 ≤ ((key (2 ^ 40 - 1) true).link 0 .xp).keyCtr ∧ ((key 0 true).link 0 .xp).keyHeld = true ∧ ((key 0 false).link 0 .xp).keyHeld = false ∧
    ((key (2 ^ 40 - 1) false).link 0 .xp).exhausted = true ∧ ((key 0 false).link 0 .xp).exhausted = false ∧
    (flit1 0 0).kind ≠ 3 ∧ (near.dies.at 0).silentTo 5 = false ∧ (near.dies.at 0).silentTo 1 = true ∧
    (free.dies.at 0).silent.find? (fun x => x.1 == 1) = some (1, []) ∧ free.pathFree 0 1 [] = true ∧
    (withLink (fun l => { l with state := .retraining }) free).pathFree 0 1 [] = false := by decide +kernel

/-- R300, R301, R303: what is heard of a flit without noise, and under another fixed word; and the records that end at the die. -/
theorem witness_Links_heard :
    (hear 0 0 (flit1 0 0) []).crc = true ∧ (hear 0 0 (flit1 0 0) []).tag = true ∧ (hear 0 1 (flit1 0 0) []).tag = false ∧
    (flit1 3 0).kind = 3 ∧ (flit0 11).kind ≠ 3 ∧ 11 ≤ (flit0 11).rkind ∧
    State.reset.hub.fab.out (State.reset.hub.fab.dieAddr 0).val (flit0 11).dst (flit0 11).dirs = none ∧
    ((flit1 0 0).iv >>> 64).setWidth 32 = (State.reset.link 0 .xp).rxFixed := by decide +kernel

/-- R300: a last byte of 1 leaves the polynomial itself; the CRC of 01 is it, and the CRC of zeros is 0. -/
theorem test_crc : crc64 [1] = 0x42F0E1EBA9EA3693 ∧ crc64 [0, 0, 1] = 0x42F0E1EBA9EA3693 ∧ crc64 (List.replicate 8 0) = 0 := by decide +kernel

/-- R299, R301: the first discard in a row asks for a replay, the eighth retrains the link. -/
theorem test_discards :
    let f := { flit1 0 5 with data := [1] }
    let s := fun (n : Nat) => State.reset.modLink 0 .xm fun l => { l with state := .full, discards := n }
    after (exec (.flitReceive 0 .xm f [] []) (s 0)) (fun t => (t.link 0 .xm).state == .full && (t.link 0 .xm).nakSent && (t.link 0 .xm).discards == 1) = true ∧
    after (exec (.flitReceive 0 .xm f [] []) (s 6)) (fun t => (t.link 0 .xm).state == .full && !(t.link 0 .xm).nakSent && (t.link 0 .xm).discards == 7) = true ∧
    after (exec (.flitReceive 0 .xm f [] []) (s 7)) (fun t => (t.link 0 .xm).state == .retraining) = true := by decide +kernel

/-- A record at die 0. -/
def arrive0 (l : List Flit) : State := (pinned .ctl id).modDie 0 fun e => { e with ingress := l }

theorem witness_IngressRequests :
    let s := arrive0 [flit0 0, flit0 9]
    let read := { flit0 0 with hdr := 2 ^ 20, h0 := BitVec.ofNat 64 (2 * 2 ^ 16), h1 := BitVec.ofNat 64 (5 * 2 ^ 10 + 1) }
    let at1 := { read with h1 := BitVec.ofNat 64 (6 * 2 ^ 10 + 1) }
    let pin := fun (l : List Flit) (st : BitVec 3) => (arrive0 l).modDie 0 fun e => { e with pins := [⟨0, 0, 1, 5, some 1, st, 0, 256, [⟨0x2000, 256, 2, false⟩]⟩] }
    let same := fun (f : Flit) => (arrive0 [f]).modDie 0 fun e => { e with dedupe := [⟨5, 0, false, 0, [7]⟩, ⟨5, 1, false, 1, [7]⟩] }
    (s.arrived 0 0 1 = none ∧ s.arrived 0 0 0 = some (flit0 0) ∧ s.isFirst 0 (flit0 0) = true ∧ s.arrived 0 9 0 = some (flit0 9) ∧
      s.isFirst 0 (flit0 9) = false) ∧
    ((same (flit0 6)).arrived 0 6 0 = some (flit0 6) ∧ ((same (flit0 6)).dies.at 0).dedupe.find? (fun x => x.src.val == (flit0 6).src && x.tag == (flit0 6).tag &&
      x.epoch == (flit0 6).epoch) = some ⟨5, 0, false, 0, [7]⟩) ∧
    ((pin [read] 1).arrived 0 0 0 = some read ∧ (pin [read] 1).isFirst 0 read = true ∧ ((pin [read] 1).dies.at 0).dedupe = [] ∧
      ((pin [read] 1).issuer read).isSome = true ∧ ((pin [read] 1).watcher read).2.1 = false ∧
      ((pin [read] 1).dies.at 0).serving.any (fun e => e.1 == read) = false ∧ (pin [read] 1).atomicHeld [0x2000] = false ∧ ((pin [read] 1).ingressLookup 0 read).1 = .near 256 [⟨0x2000, 256, 2, false⟩]) ∧
    (((pin [at1] 1).ingressLookup 0 at1).1 = .stale false ∧ ((pin [read] 4).ingressLookup 0 read).1 = .stale true) := by decide +kernel

/-- The remaining kinds of record: a held extent, a window of a core, READY, a piece without its command, a contribution, a barrier, a response. -/
theorem witness_IngressRequests_kinds :
    let read := { flit0 0 with hdr := 2 ^ 20, h0 := BitVec.ofNat 64 (2 * 2 ^ 16), h1 := BitVec.ofNat 64 (5 * 2 ^ 10 + 1) }
    let held := ((arrive0 [read]).modDie 0 fun e => { e with pins := [⟨0, 0, 1, 5, some 1, 2, 0, 256, []⟩] }).modHub fun h =>
      { h with revokes := [⟨0, 0, 4096, [], [], false, false⟩] }
    let win := { flit0 5 with hdr := 2 ^ 20, h1 := 0 }
    let target := (arrive0 [win]).modCore 0 fun k => k.modAux fun a => { a with run := some run0, resv := 16384 }
    let off := { flit0 5 with hdr := 2 ^ 20, h1 := BitVec.ofNat 64 (48 * 2 ^ 19) }
    let req : Req := ⟨3, 0, 5, 0, 0, false, flit0 0, false, none, false, none, none, none⟩
    let back := (arrive0 [flit0 10]).modDie 0 fun e => { e with reqs := [req] }
    (held.ingressLookup 0 read).1 = .held ∧ ((target.windowTarget 0 win 1).1 = some 0 ∧ (target.windowTarget 0 win 1).2.1 = 1 ∧ target.arrived 0 5 0 = some win) ∧
    ((arrive0 [off]).windowTarget 0 off 1).1 = none ∧ (arrive0 [off]).arrived 0 5 0 = some off ∧
    (arrive0 [flit0 6]).arrived 0 6 0 = some (flit0 6) ∧ (arrive0 [flit0 9]).arrived 0 9 0 = some (flit0 9) ∧
    ((arrive0 [flit0 7]).arrived 0 7 0 = some (flit0 7) ∧ (arrive0 [flit0 7]).xallOn 0 (Flit.group (flit0 7)) = none) ∧
    ((arrive0 [flit0 10]).arrived 0 10 0 = some (flit0 10) ∧ (arrive0 []).arrived 0 10 0 = none ∧
      ((back.dies.at 0).reqs.find? fun r => decide (r.answer = none ∧ r.dst.val = (flit0 10).src ∧ r.tag = (flit0 10).tag ∧ r.flit.epoch = (flit0 10).epoch)) =
        some req) := by decide +kernel

/-- Pieces of a contribution: one of two; a whole one at a held and at a stale extent; one at its home bank, which has a slot, and one that
finds every slot of the bank taken. -/
theorem witness_IngressRequests_pieces :
    let red := fun (total : Nat) => bytesOfNat 23 (2 * 2 ^ 16 + total * 2 ^ 152) ++ [1, 0, 0, 0, 0]
    let up := fun (total gen : Nat) => { flit0 3 with
      hdr := 2 ^ 20, h0 := BitVec.ofNat 64 (3 * 2 ^ 11 + 0xFF * 2 ^ 24), h1 := BitVec.ofNat 64 (gen * 2 ^ 10 + 1), data := red total }
    let home := { flit0 8 with h1 := 0x2000, data := red 1 }
    let held := ((arrive0 [up 1 5]).modDie 0 fun e => { e with pins := [⟨0, 0, 1, 5, some 1, 2, 0, 256, []⟩] }).modHub fun h =>
      { h with revokes := [⟨0, 0, 4096, [], [], false, false⟩] }
    let first := fun (s : State) (kind : Nat) (f : Flit) => s.arrived 0 kind 0 = some f ∧ s.isFirst 0 f = true ∧ (s.dies.at 0).dedupe = []
    let whole := fun (s : State) (f : Flit) (w : Nat) => (readRed f.data).map fun r => (s.gather 0 f r).elems w
    let full := (arrive0 [home]).modDie 1 fun e => { e with reds := (List.range 16).map fun i => ⟨0x2000 + (i + 1) * 2 ^ 21, .n64, .n64, 2, 1, []⟩ }
    let a : Arrival := ⟨0x2000, .f32, .f32, 2, 0, 0, some home, [[0, 0, 0, 0]]⟩
    (first (arrive0 [up 2 5]) 3 (up 2 5) ∧ whole (arrive0 [up 2 5]) (up 2 5) 4 = some none) ∧
    (first held 3 (up 1 5) ∧ whole held (up 1 5) 4 = some (some [[0, 0, 0, 0]]) ∧ (held.ingressLookup 0 (up 1 5)).1 = .held) ∧
    (first (arrive0 [up 1 6]) 3 (up 1 6) ∧ ((arrive0 [up 1 6]).ingressLookup 0 (up 1 6)).1 = .stale false) ∧
    (first (arrive0 [home]) 8 home ∧ whole (arrive0 [home]) home 4 = some (some [[0, 0, 0, 0]]) ∧
      (((arrive0 [home]).noteTaken 0 home 1 [0]).contribute (homeDie a.key) a).1 = .taken) ∧
    (first full 8 home ∧ ((full.noteTaken 0 home 1 [0]).contribute (homeDie a.key) a).1 = .wait) := by decide +kernel

/-! ## Firmware, errors, power -/

theorem witness_Resets :
    let s := State.reset
    let seen := fun (n : BitVec 48) => s.modHub fun h => { h with timer := n, brock := { h.brock with boot := .running false, released := [(.management, 0)] } }
    s.hub.parts.at 0 = none ∧ (withPart part0 s).hub.parts.at 0 = some part0 ∧ s.hub.brock.boot = .off ∧ (seen 0).hub.brock.boot ≠ .off ∧
    s.mem.wf = true ∧ s.hub.brock.released = [] ∧ (seen 0).sinceReport .management < 15978 ∧
    (seen 15978).hub.brock.released = [(.management, 0)] ∧ 15978 ≤ (seen 15978).sinceReport .management := by decide +kernel

/-- An image of no payload of a kind: magic, kind, digest of the payload, no signature. -/
def image0 (kind digest : Nat) : List Byte := bytesOfNat 64 (0x58423747 + kind * 2 ^ 32) ++ bytesOfNat 64 digest ++ List.replicate 128 0

theorem bytesOfNat_length (n v : Nat) : (bytesOfNat n v).length = n := by
  induction n generalizing v with
  | zero => rfl
  | succ n ih => simp [bytesOfNat, ih]

theorem natOfBytes_bytesOfNat (n v : Nat) : natOfBytes (bytesOfNat n v) = v % 256 ^ n := by
  induction n generalizing v with
  | zero => simp [bytesOfNat, natOfBytes, Nat.mod_one]
  | succ n ih =>
    have e : (BitVec.ofNat 8 v).toNat = v % 256 := by simp
    rw [bytesOfNat, natOfBytes, ih, e, Nat.pow_succ', Nat.mod_mul]

theorem imageNum_append (a b : List Byte) (i n : Nat) (h : i + n ≤ a.length) : imageNum (a ++ b) i n = imageNum a i n := by
  rw [imageNum, imageNum, List.drop_append_of_le_length (by omega), List.take_append_of_le_length (by simp; omega)]

/-- Four such images make a valid slot where their signatures verify. -/
theorem witness_Boot_slot (h : ∀ a b, Config.ed448Ok a b = true) :
    slotValid 0 ((List.range 4).map fun n => image0 (n + 1) (Config.shake256 []).toNat) = true := by
  have image : ∀ k, (∀ x ∈ [(0, 4, 0x58423747), (4, 1, k), (0x10, 4, 0), (0xC, 2, 0)],
      imageNum (bytesOfNat 64 (0x58423747 + k * 2 ^ 32)) x.1 x.2.1 = x.2.2) → imageValid 0 k (image0 k (Config.shake256 []).toNat) = true := by
    intro k e
    have l : (image0 k (Config.shake256 []).toNat).length = 0x100 := by simp [image0, bytesOfNat_length]
    have g : ∀ x ∈ [(0, 4, 0x58423747), (4, 1, k), (0x10, 4, 0), (0xC, 2, 0)], imageNum (image0 k (Config.shake256 []).toNat) x.1 x.2.1 = x.2.2 := by
      intro x hx
      rw [image0, List.append_assoc, imageNum_append _ _ _ _ (by rw [bytesOfNat_length]; revert x; simp), e x hx]
    have d : imageNum (image0 k (Config.shake256 []).toNat) 0x40 64 = (Config.shake256 []).toNat := by
      rw [imageNum, image0, List.append_assoc, List.drop_append_of_le_length (by simp [bytesOfNat_length]),
        List.drop_of_length_le (by simp [bytesOfNat_length]), List.nil_append, List.take_append_of_le_length (by simp [bytesOfNat_length]),
        List.take_of_length_le (by simp [bytesOfNat_length]), natOfBytes_bytesOfNat, Nat.mod_eq_of_lt]
      exact (Config.shake256 []).isLt.trans_le (Nat.le_of_eq (by rw [show 256 = 2 ^ 8 from rfl, ← Nat.pow_mul]))
    have z : imageNum (image0 k (Config.shake256 []).toNat) 0xF2 14 = 0 := by
      rw [imageNum, image0, List.drop_append, List.drop_of_length_le (by simp [bytesOfNat_length])]
      simp [bytesOfNat_length]
      decide
    have p : (image0 k (Config.shake256 []).toNat).drop 0x100 = [] := List.drop_of_length_le (by omega)
    simp only [List.mem_cons, List.not_mem_nil, or_false, forall_eq_or_imp, forall_eq] at g
    simp [imageValid, l, g, d, z, p, h]
  have all : ∀ k ∈ [1, 2, 3, 4], imageValid 0 k (image0 k (Config.shake256 []).toNat) = true := by
    intro k hk
    exact image k (by revert k; decide +kernel)
  simp only [List.mem_cons, List.not_mem_nil, or_false, forall_eq_or_imp, forall_eq] at all
  obtain ⟨a, b, c, d⟩ := all
  simp only [slotValid, slotImage]
  show (_ && _) = true
  simp only [List.all_cons, List.all_nil, Bool.and_true, Bool.and_eq_true]
  exact ⟨rfl, a, b, c, d⟩

theorem witness_Boot :
    let s := fun (b : Boot) (t : BitVec 48) => State.reset.modHub fun h => { h with timer := t, brock := { h.brock with
      boot := b, flash := [[], []], released := [(.management, 0), (.die 0, 0), (.die 1, 0), (.die 2, 0), (.die 3, 0)], dieReady := 7 } }
    let len := fun (n : Nat) => boxed [(8, n)] (s .recovery 0)
    (s (.running false) 0).hub.brock.boot ≠ .off ∧ (s .off 0).hub.brock.boot = .off ∧
    (slotValid 0 ((s .off 0).hub.brock.slot false) = false ∧ slotValid 0 ((s .off 0).hub.brock.slot true) = false) ∧
    ((s (.booting true 0) 0).hub.brock.boot = .booting true 0 ∧ (s (.booting true 3) 0).hub.brock.dieReady ||| (1 <<< 3) = 15 ∧
      (s (.booting true 3) 0).hub.brock.dieReady ||| (1 <<< 2) ≠ 15) ∧
    (((s (.booting true 0) 0).hub.timer - (s (.booting true 0) 0).hub.brock.stageAt).toNat < 1022611 ∧ (s (.booting true 0) 0).hub.brock.failed = 0 ∧
      1022611 ≤ ((s (.booting true 0) 1022611).hub.timer - (s (.booting true 0) 1022611).hub.brock.stageAt).toNat) ∧
    (len 0).hub.mbox.busy = false ∧ (len (2 ^ 26)).pay 8 0 32 = 2 ^ 26 ∧ 2 ^ 26 < (len (2 ^ 26 + 1)).pay 8 0 32 ∧
    splitImages 4 ((len 0).hub.brock.staging.read 0 0) = none := by decide +kernel

/-- R363, R375: with no valid slot Brock enters recovery mode and Scree freezes; the last die that reports ready ends the boot. -/
theorem test_boot :
    let s := fun (b : Boot) => State.reset.modHub fun h => { h with brock := { h.brock with boot := b, flash := [[], []], dieReady := 7 } }
    after (exec .powerGood (s .off)) (fun t => t.hub.brock.boot == .recovery && t.hub.frozen) = true ∧
    after (exec (.stageReady 3) (s (.booting true 3))) (fun t => t.hub.brock.boot == .running true && (t.link 0 .xp).state == .full) = true := by decide +kernel

theorem witness_ErrorsAndPower :
    let s := State.reset
    let floor := s.modErrors fun e => { e with floors := 0xFF }
    (∀ x ∈ s.hub.errors.counts, x.2 ≤ threshold x.1) ∧ s.inMap 0 1 = false ∧ s.inMap Config.hbmBase 1 = true ∧
    s.hub.errors.floors.getLsbD 0 = false ∧ floor.hub.errors.floors.getLsbD 7 = true ∧ (109 : BitVec 16).toNat < 110 ∧ 110 ≤ (110 : BitVec 16).toNat ∧
    (410 < s.hub.power.rail (.vcore 0) ∧ s.hub.power.lowering.at (railNum (.vcore 0)) ≠ some 410 ∧ s.hub.power.rail (.vsram 3) ≤ 750) ∧
    (s.modPower fun p => { p with lowering := p.lowering.put 7 (some 600) }).hub.power.lowering.at (railNum (.vsram 3)) = some 600 := by
  decide +kernel

/-- R371, R373, R374: a rail moves to the ends of its range and not past them, down in two steps; a sensor at 100 °C gates. -/
theorem test_power :
    let s := State.reset
    let down := s.modPower fun p => { p with lowering := p.lowering.put (railNum (.vcore 0)) (some 410) }
    after (exec (.railAdjust (.vcore 0) 410) s) (fun t => t.hub.power.vcore.at 0 == s.hub.power.vcore.at 0 &&
      t.hub.power.lowering.at (railNum (.vcore 0)) == some 410) = true ∧
    after (exec (.railAdjust (.vcore 0) 410) down) (fun t => t.hub.power.vcore.at 0 == 410) = true ∧
    after (exec (.railAdjust (.vcore 0) 561) s) (fun t => t.hub.power.vcore.at 0 == s.hub.power.vcore.at 0) = true ∧
    after (exec (.railAdjust (.vsram 3) 700) (s.modErrors fun e => { e with floors := 0x80 })) (fun t => t.hub.power.vsram.at 3 == 700) = true ∧
    after (exec (.railAdjust (.vsram 3) 699) (s.modErrors fun e => { e with floors := 0x80 })) (fun t => t.hub.power.vsram.at 3 != 699) = true ∧
    after (exec (.thermalThrottle 35 100) s) (fun t => t.hub.power.gated && t.hub.power.temps.at 4 == 100) = true := by decide +kernel

/-! ## Frames and invariants -/

theorem witness_RegisterWordFrames :
    let s := ready .ctl id
    let e := exQ 1 2 id
    (s.cur.q = .ctl ∧ s.clear (s.plain y0 (.ins y0 31 1 62 0)) = true ∧ s.busyS [31, 1] = false ∧ s.busyD [31] = false ∧ s.busyP [7] = false ∧ (62 : Fin 64).val + (0 : Fin 64).val < 64) ∧
    after (exec (.ins y0 31 1 62 0) s) (fun _ => true) = true ∧ s.me.destOf 1 1 ≠ s.me.destOf 0 1 ∧
    (e.cur.q = .ex ∧ e.clear (e.plain y0 (.perm y0 (.q 8) (.q 0) (.q 1))) = true ∧
      e.me.streamWait (Opnd.sources [.q 0, .q 1]) (Place.opnd (.q 8)).stream = none) ∧
    after (exec (.perm y0 (.q 8) (.q 0) (.q 1)) e) (fun _ => true) = true := by decide +kernel

/-- A machine with a byte of memory that is canonical, and takes a step. -/
theorem witness_StepsKeepCanonical :
    let s : State := { State.reset with mem := [(5, 1)], agenda := [.event .timerTick] }
    s.Canonical ∧ after (step s) (fun t => t.hub.timer == 1) = true := by
  refine ⟨⟨by decide, fun c => ?_, fun v h => ?_, by decide +kernel, by decide +kernel⟩, by decide +kernel⟩
  · simp [State.core, File.at, File.all, State.reset]
    rfl
  · exact absurd h List.not_mem_nil

/-- Each stop of `StopsOnlyWhere` is met. -/
theorem witness_StopsOnlyWhere :
    (match exec (.hostMemRead (3 * 2 ^ 39) 1) State.reset with | .fault .noSuchDpa => true | _ => false) = true ∧
    (let r := runRec 0 run0 0 2 0 0 0 7
     match exec (.completionRecordWrite 3) (withQueue { queue0 with host := false, cring := 2 ^ 45 } (work0 [] [r]) State.reset) with
     | .fault .noSuchRing => true
     | _ => false) = true := by decide +kernel

end Sys2Proof.Tests
end

section
/-! PROOFS. The command words of CTL and ST: what their issue puts into the queues of the engines (R20, R21, R206, R282 to R292, R312 to R319). -/

namespace Sys2Proof

@[simp] theorem File.put_at (f : File α n) (i : Fin n) : f.put i (f.at i) = f := by
  simp [File.put, File.at]

end Sys2Proof

namespace Sys2Proof.Machine

/-! ## Words that go on -/

/-- A word that nothing holds and whose body goes on issues and passes to the word after it. -/
theorem State.word_go {s t : State} {i : WordInfo} {body : State → Act} (h : s.clear i = true) (hb : body s = .go t) :
    s.word i body = .next (t.issued i (s.nextPc i)) := by
  rw [State.word_clear h, hb]; rfl

/-- A command that finds room, and that no interlock and no gating holds, is issued (R117, R374). -/
theorem State.command_ready {s : State} {engine : Nat} {m : Fin 32} {busy : Bool} (hw : s.commandWait engine m = none)
    (hb : busy = false) (hg : s.hub.power.gated = false) (f : State → State) : s.command engine m busy f = .go (f s) := by
  simp [State.command, hw, hb, hg]

/-- A command word of two words that nothing holds. -/
theorem State.commandWord_ready {s t : State} {i : WordInfo} {engine : Nat} {m : Fin 32} {busy : State → Bool} {f : State → State}
    (hc : s.clear i = true) (hw : s.commandWait engine m = none) (hb : busy s = false) (hg : s.hub.power.gated = false)
    (hl : i.words.length = 2) (hf : f s = t) :
    s.word i (fun s => s.command engine m (busy s) f) = .next (t.issued i (s.myFlow.pc + 8)) := by
  rw [State.word_go hc (State.command_ready hw hb hg f), State.nextPc, hl, hf]
  rfl

/-! ## What a synchronised sequencer sees (R177, R179, R196) -/

theorem Core.order_le_orderWith (k : Core) (q : Seq) (y : Ring) (posted : Bool) : k.order q ≤ k.orderWith q y posted := by
  simp only [Core.orderWith]
  split
  · exact le_rfl
  · split <;> split <;> simp

/-- A sequencer ordered after every replacement sees the value that stands, and nothing is drawn. -/
theorem State.seen_of_synced {s : State} (h : s.me.synced s.cur.q = true) (y : Ring) (old : Old → Option α) (now : α) :
    s.seen y old now = (now, s) := by
  have ho : s.me.aux.prior.now ≤ s.me.order s.cur.q := by simpa [Core.synced] using h
  exact if_pos (ho.trans (Core.order_le_orderWith ..))

theorem State.seenK_of_synced {s : State} (h : s.me.synced s.cur.q = true) (y : Ring) (k : Fin 16) :
    s.seenK y k = (s.me.k.at k, s) := State.seen_of_synced h y _ _

theorem State.seenWins_of_synced {s : State} (h : s.me.synced s.cur.q = true) (y : Ring) : s.seenWins y = (s.me.wins, s) := by
  have step : ∀ l : List (Fin 16), l.foldl (fun r n =>
      let (w, t) := r.2.seen y (fun o => match o with | .win m v => if m = n then some v else none | _ => none) (s.me.wins.at n)
      (r.1.put n w, t)) (s.me.wins, s) = (s.me.wins, s) := by
    intro l
    induction l with
    | nil => rfl
    | cons n r ih => simpa [State.seen_of_synced h] using ih
  exact step _

/-! ## A command enters its queue (R20, R21) -/

theorem Core.markDone_setMark (k : Core) (m n : Fin 32) (v : Bool) : (k.setMark m v).markDone n = if n = m then v else k.markDone n := by
  have bit : (BitVec.ofNat 32 (1 <<< m.val)).getLsbD n.val = decide (n = m) := by
    rw [BitVec.getLsbD_ofNat, Nat.one_shiftLeft, Nat.testBit_two_pow]
    simp [n.isLt, Fin.ext_iff, eq_comm]
  have clear : ((1 : W32) <<< m.val).getLsbD n.val = decide (n = m) := by
    exact bit
  have set : ((1 <<< m.val : Nat) : W32).getLsbD n.val = decide (n = m) := bit
  simp only [Core.markDone, Core.setMark, Core.modCr_self]
  cases v
  · rw [if_neg Bool.false_ne_true, BitVec.getLsbD_and, BitVec.getLsbD_not, clear]
    by_cases h : n = m <;> simp [h]
  · rw [if_pos rfl, BitVec.getLsbD_or, set]
    by_cases h : n = m <;> simp [h]
/-- The issue of a command, where its sequencer sees every window as it stands: the command as built from the state at issue, in the
fabric's queue or among the core's, with its mark pending. -/
theorem State.enqueue_of_synced {s : State} (h : s.me.synced s.cur.q = true) (y : Ring) (m : Fin 32) (w : Waits) (body : CmdBody) :
    s.enqueue y m w body =
      let d := s.newCmd s.nextUid (some m) w s.me.wins body
      let t := ({ s with nextUid := s.nextUid + 1 } : State).modMe fun k => k.setMark m false
      (s.nextUid, if body.engine = 8 then t.modDie (dieOf s.cur.core) fun e => { e with fabQ := e.fabQ ++ [d] }
        else t.modMe fun k => { k with cmds := k.cmds ++ [d] }) := by
  have h' : s.uid.2.me.synced s.uid.2.cur.q = true := h
  simp only [State.enqueue, State.seenWins_of_synced h']
  rfl

/-- Whichever queue it enters, a command changes of the core only its mark and its list of commands. -/
theorem State.enqueue_me {s : State} (h : s.me.synced s.cur.q = true) (y : Ring) (m : Fin 32) (w : Waits) (body : CmdBody) :
    (s.enqueue y m w body).2.me = { s.me.setMark m false with
      cmds := if body.engine = 8 then s.me.cmds else s.me.cmds ++ [s.newCmd s.nextUid (some m) w s.me.wins body] } := by
  have key : (({ s with nextUid := s.nextUid + 1 } : State).modMe fun k => k.setMark m false).me = s.me.setMark m false := State.modMe_me ..
  rw [State.enqueue_of_synced h]
  by_cases he : body.engine = 8
  · simp only [he, if_true]
    exact key
  · simp only [he, if_false]
    rw [State.modMe_me, key]
    rfl

theorem State.enqueue_cur {s : State} (h : s.me.synced s.cur.q = true) (y : Ring) (m : Fin 32) (w : Waits) (body : CmdBody) :
    (s.enqueue y m w body).2.cur = s.cur := by
  rw [State.enqueue_of_synced h]
  dsimp only
  split <;> rfl

theorem State.enqueue_destOf {s : State} (h : s.me.synced s.cur.q = true) (y : Ring) (m : Fin 32) (w : Waits) (body : CmdBody)
    (x : Fin 4) (n : Fin 32) : (s.enqueue y m w body).2.me.destOf x n = s.me.destOf x n := by
  rw [State.enqueue_me h]
  rfl

/-- A command finds room while its mark is complete and its queue is not full (R206, R283, R312). -/
theorem State.commandWait_none {s : State} {e : Nat} {m : Fin 32} (hm : s.me.markDone m = true)
    (hr : if e = 8 then (s.dies.at (dieOf s.cur.core)).fabQ.length < 32 else (s.engineCmds s.cur.core e).length < if e = 7 then 8 else 16) :
    s.commandWait e m = none := by
  by_cases he : e = 8
  · subst he
    simp only [if_true] at hr
    simp [State.commandWait, hm, hr]
  · simp only [he, if_false] at hr
    simp [State.commandWait, hm, he, hr]

/-- The name of the command, which its results carry. -/
theorem State.enqueue_fst {s : State} (h : s.me.synced s.cur.q = true) (y : Ring) (m : Fin 32) (w : Waits) (body : CmdBody) :
    (s.enqueue y m w body).1 = s.nextUid := by rw [State.enqueue_of_synced h]

/-- What the queues and the marks hold once a command has entered. -/
theorem State.enqueue_spec {s : State} (h : s.me.synced s.cur.q = true) (y : Ring) (m : Fin 32) (w : Waits) (body : CmdBody) :
    let t := (s.enqueue y m w body).2
    let d : Cmd := s.newCmd s.nextUid (some m) w s.me.wins body
    (t.me.markDone m = false ∧ ∀ n, n ≠ m → t.me.markDone n = s.me.markDone n) ∧ t.mem = s.mem ∧
    (body.engine = 8 → (t.dies.at (dieOf s.cur.core)).fabQ = (s.dies.at (dieOf s.cur.core)).fabQ ++ [d] ∧ t.me.cmds = s.me.cmds) ∧
    (body.engine ≠ 8 → t.me.cmds = s.me.cmds ++ [d] ∧ t.dies = s.dies) := by
  intro t d
  have hme : t.me = _ := State.enqueue_me h y m w body
  have hmark : ∀ n, t.me.markDone n = (s.me.setMark m false).markDone n := fun n => by rw [hme]; rfl
  refine ⟨⟨by simp [hmark, Core.markDone_setMark], fun n hn => by simp [hmark, Core.markDone_setMark, hn]⟩, ?_, fun he => ⟨?_, ?_⟩, fun he => ⟨?_, ?_⟩⟩
  · simp only [t, State.enqueue_of_synced h]
    split <;> rfl
  · simp only [t, State.enqueue_of_synced h, he, if_true, State.modDie, File.at_mod_self]
    rfl
  · simp only [hme, he, if_true]
  · simp only [hme, he, if_false]
    rfl
  · simp only [t, State.enqueue_of_synced h, he, if_false]
    rfl

/-! ## The command words -/

theorem State.busyRegs_eq_false {s : State} {r : List (Fin 32)} (h : s.isSt = true ∨ s.busyS r = false) : s.busyRegs r = false := by
  rcases h with h | h <;> simp [State.busyRegs, h]

/-- The issue of a Warren command (R292). -/
theorem State.warren_of_synced {s : State} (h : s.me.synced s.cur.q = true) (y : Ring) (m : Fin 32) (w : Waits) (d1 d2 : Dest) (p : Fin 8)
    (body : CmdBody) :
    s.warren y m w d1 d2 p body = (s.enqueue y m w body).2.awaitResult ⟨s.nextUid, d1, d2, some p, false⟩ := by
  rw [← State.enqueue_fst h y m w body]
  unfold State.warren
  generalize s.enqueue y m w body = e
  rfl

/-- The issue of a `famo` (R314): the registers of its pair, named in the state that holds the command, await its result. -/
def State.issueFamo (s : State) (y : Ring) (d : Fin 32) (k : Fin 16) (x m : Fin 32) (w : Waits) (o : FamoOp) (c : Scope) (z : Bool) : State :=
  let e := s.enqueue y m w (.famo o c z (s.readK k) (s.readS x) (s.readS d) (s.readS (d + 1)))
  e.2.awaitResult ⟨e.1, e.2.me.destOf e.2.cur.x d, e.2.me.destOf e.2.cur.x (d + 1), none, false⟩

theorem exec_famo (y : Ring) (d : Fin 32) (k : Fin 16) (x m : Fin 32) (w : Waits) (o : FamoOp) (c : Scope) (z : Bool) (s : State) :
    exec (.famo y d k x m w o c z) s = s.word (s.plain y (.famo y d k x m w o c z)) fun s =>
      s.command 8 m (s.busyS [d, d + 1, x]) fun s => s.issueFamo y d k x m w o c z := by
  change execFamo y d k x m w o c z s = _
  unfold execFamo State.issueFamo State.plain
  congr 1

theorem State.issueFamo_of_synced {s : State} (h : s.me.synced s.cur.q = true) (y : Ring) (d : Fin 32) (k : Fin 16) (x m : Fin 32) (w : Waits)
    (o : FamoOp) (c : Scope) (z : Bool) :
    s.issueFamo y d k x m w o c z = (s.enqueue y m w (.famo o c z (s.me.k.at k) (s.readS x) (s.readS d) (s.readS (d + 1)))).2.awaitResult
      ⟨s.nextUid, s.me.destOf s.cur.x d, s.me.destOf s.cur.x (d + 1), none, false⟩ := by
  unfold State.issueFamo State.readK
  simp only [State.enqueue_fst h, State.enqueue_cur h, State.enqueue_destOf h]

/-- Settles O25: each command word reduces to `State.commandWord_ready`, and what entering the queue leaves is `State.enqueue_spec`. -/
theorem engineCommands : Obligations.EngineCommands := by
  unfold Obligations.EngineCommands
  refine ⟨?_, ?_, ?_⟩
  · intro s y m w body h t d
    obtain ⟨hmark, hmem, hfab, hcore⟩ := State.enqueue_spec h y m w body
    exact ⟨hmark, hmem, rfl, hfab, hcore, fun e hm hr => State.commandWait_none hm hr⟩
  · intro s y d x k t m w o ty u f g i engine r b v hi hc hw hr he hg
    have hs : engine = 8 → s.busyS r = false := fun h => by simpa [he h] using hr
    simp only [List.mem_cons, List.not_mem_nil, or_false, Prod.mk.injEq] at hi
    rcases hi with ⟨rfl, rfl, rfl, rfl, rfl⟩ | ⟨rfl, rfl, rfl, rfl, rfl⟩ | ⟨rfl, rfl, rfl, rfl, rfl⟩ | ⟨rfl, rfl, rfl, rfl, rfl⟩ |
      ⟨rfl, rfl, rfl, rfl, rfl⟩ | ⟨rfl, rfl, rfl, rfl, rfl⟩ | ⟨rfl, rfl, rfl, rfl, rfl⟩
    case inl | inr.inl => exact State.commandWord_ready hc hw (State.busyRegs_eq_false hr) hg rfl rfl
    all_goals exact State.commandWord_ready hc hw (hs rfl) hg rfl rfl
  · intro s y d x k m w p q o c z i engine r rd b d1 d2 pr hi hc hw hr hd hp hg h
    have hrr : s.busyRegs r = false := State.busyRegs_eq_false (.inr hr)
    have hdd : s.busyDests rd = false := by simp [State.busyDests, hd]
    simp only [List.mem_cons, List.not_mem_nil, or_false, Prod.mk.injEq] at hi
    rcases hi with ⟨rfl, rfl, rfl, rfl, rfl, rfl, rfl, rfl⟩ | ⟨rfl, rfl, rfl, rfl, rfl, rfl, rfl, rfl⟩ | ⟨rfl, rfl, rfl, rfl, rfl, rfl, rfl, rfl⟩ |
      ⟨rfl, rfl, rfl, rfl, rfl, rfl, rfl, rfl⟩
    case inl => exact State.commandWord_ready hc hw (by simp [hrr, hp]) hg rfl (State.warren_of_synced h ..)
    case inr.inl | inr.inr.inl => exact State.commandWord_ready hc hw (by simp [hdd, hp]) hg rfl (State.warren_of_synced h ..)
    case inr.inr.inr =>
      rw [exec_famo]
      exact State.commandWord_ready hc hw hr hg rfl (State.issueFamo_of_synced h ..)

end Sys2Proof.Machine
end

section
/-! PROOFS. The issue of a word of any sequencer, EX included, and the Sett words with their checks (R17, R20, R236 to R241, R269 to R271). -/

namespace Sys2Proof.Machine

/-! ## What an EX cycle and the issue of a word leave as they are -/

/-- Opening what spilled frames hold draws values and nothing else (R112). -/
theorem smearFrames_draws (l : List Frame) (s : State) : ∃ n, (smearFrames l s).2 = { s with draws := n } := by
  induction l generalizing s with
  | nil => exact ⟨s.draws, rfl⟩
  | cons f r ih =>
    simp only [smearFrames]
    split
    · exact ih s
    · obtain ⟨n, hn⟩ := ih _
      exact ⟨n, hn⟩

theorem State.SameButCores.refl (s : State) : s.SameButCores s := by constructor <;> rfl

theorem State.SameButCores.trans {s t u : State} (h : s.SameButCores t) (g : t.SameButCores u) : s.SameButCores u :=
  ⟨g.mem.trans h.mem, g.poison.trans h.poison, g.setts.trans h.setts, g.tus.trans h.tus, g.dies.trans h.dies, g.hub.trans h.hub,
    g.agenda.trans h.agenda, g.cur.trans h.cur⟩

theorem State.modCore_sameButCores (s : State) (c : CoreId) (f : Core → Core) : s.SameButCores (s.modCore c f) := by constructor <;> rfl

theorem State.smearSpill_sameButCores (s : State) (c : CoreId) : s.SameButCores (s.smearSpill c) := by
  obtain ⟨n, hn⟩ := smearFrames_draws (s.core c).frames s
  simp only [State.smearSpill, hn]
  constructor <;> rfl

theorem State.exTick_sameButCores (s : State) (c : CoreId) : s.SameButCores (s.exTick c) := by
  simp only [State.exTick]
  split
  · exact (State.modCore_sameButCores ..).trans (State.smearSpill_sameButCores ..)
  · exact State.modCore_sameButCores ..

/-- The state in which the ring field of a word acts: EX has passed one of its cycles (R230). -/
def State.ticked (s : State) : State := if s.cur.q == .ex then s.exTick s.cur.core else s

theorem State.ticked_sameButCores (s : State) : s.SameButCores s.ticked := by
  simp only [State.ticked]
  split
  · exact State.exTick_sameButCores ..
  · exact .refl s

theorem State.ticked_marks (s : State) : s.ticked.me.cr.marks = s.me.cr.marks := by
  rw [State.me, (State.ticked_sameButCores s).cur, State.ticked]
  split
  · exact (State.exTick_same s s.cur.core).marks
  · rfl

/-- The ring field of a word, and the round robin among contexts (R13, R28). -/
def Core.issueRings (k : Core) (q : Seq) (x : Fin 4) (i : WordInfo) : Core :=
  let f := k.flow q x
  let k := if f.posted then k else k.takeRing q i.y
  let k := if f.posted || i.memory then k else k.postRing q i.y
  if q == .ctl then k.modAux fun a => { a with lastCtx := x } else k

theorem Core.issueRings_same (k : Core) (q : Seq) (x : Fin 4) (i : WordInfo) : Core.SameButRings k (k.issueRings q x i) := by
  have take : Core.SameButRings k (if (k.flow q x).posted then k else k.takeRing q i.y) := by
    split
    · exact .refl _
    · exact Core.takeRing_same ..
  refine take.trans ?_
  simp only [Core.issueRings]
  generalize (if (k.flow q x).posted = true then k else k.takeRing q i.y) = u
  have post : Core.SameButRings u (if ((k.flow q x).posted || i.memory) = true then u else u.postRing q i.y) := by
    split
    · exact .refl _
    · exact Core.postRing_same ..
  refine post.trans ?_
  generalize (if ((k.flow q x).posted || i.memory) = true then u else u.postRing q i.y) = v
  split
  · constructor <;> rfl
  · exact .refl _

/-- The core after the issue of a word of any sequencer: its ring field has acted, and the flow of its stream has gone on. -/
theorem State.issued_core (s : State) (i : WordInfo) (pc : W32) :
    ∃ f : Flow → Flow, (s.issued i pc).me = (s.ticked.me.issueRings s.cur.q s.cur.x i).modFlow s.cur.q s.cur.x f ∧ ∀ g, (f g).pc = pc := by
  rw [← (State.ticked_sameButCores s).cur]
  exact ⟨_, State.modMe_me s.ticked _, fun _ => rfl⟩

theorem State.issued_sameButCores_all (s : State) (i : WordInfo) (pc : W32) : s.SameButCores (s.issued i pc) :=
  (State.ticked_sameButCores s).trans (by constructor <;> rfl)

theorem State.issued_pc (s : State) (i : WordInfo) (pc : W32) : (s.issued i pc).myFlow.pc = pc := by
  obtain ⟨f, hf, hpc⟩ := State.issued_core s i pc
  rw [State.myFlow, hf, (State.issued_sameButCores_all s i pc).cur, Core.modFlow_flow_self, hpc]

theorem State.issued_markDone (s : State) (i : WordInfo) (pc : W32) (m : Fin 32) : (s.issued i pc).me.markDone m = s.me.markDone m := by
  obtain ⟨f, hf, -⟩ := State.issued_core s i pc
  simp only [Core.markDone, hf, Core.modFlow_cr, (Core.issueRings_same ..).cr, State.ticked_marks]

/-! ## A Sett command enters its queue (R17, R20, R236) -/

/-- The mark that a Sett command produces, if it produces one, becomes pending. -/
def Core.pendMark (k : Core) : Option (Fin 32) → Core
  | some m => k.setMark m false
  | none => k

/-- The state once a Sett command has entered its queue: its mark is pending, the lease counts it, and ends with the 64th. -/
def State.enterSett (s : State) (m : Option (Fin 32)) (w : Waits) (body : CmdBody) : State :=
  let t := (({ s with nextUid := s.nextUid + 1 } : State).modMe fun k => k.pendMark m).modSett
    (settOf s.cur.core) fun t => { t with queue := t.queue ++ [s.newCmd s.nextUid m w s.me.wins body], count := t.count + 1 }
  if 64 ≤ s.mySett.count + 1 then t.endLease s.cur.core else t

/-- A Sett command word of the lessee that finds its mark complete and room in the queue, and that no gating holds. -/
theorem State.settWord_ready {s : State} {m : Option (Fin 32)} (hl : s.mySett.lessee = some s.cur.core) (hq : s.mySett.queue.length < 16)
    (hm : ∀ k, m = some k → s.me.markDone k = true) (hg : s.hub.power.gated = false) (w : Waits) (body : CmdBody) :
    s.settWord m w body = .go (s.enterSett m w body) := by
  have hf : (m.filter fun m => !s.me.markDone m) = none := by
    cases m with
    | none => rfl
    | some k => simp [Option.filter, hm k rfl]
  simp only [State.settWord, hl, ne_eq, not_true_eq_false, if_false, Nat.not_le.mpr hq, hf, hg, Bool.false_eq_true]
  rfl

theorem State.endLease_sett (s : State) (c : CoreId) :
    (s.endLease c).setts.at (settOf c) = if (s.setts.at (settOf c)).lessee = some c then
      { s.setts.at (settOf c) with lessee := none, count := 0, last := inGroup c } else s.setts.at (settOf c) := by
  simp only [State.endLease, State.modSett, File.at_mod_self]

/-- What a Sett, the marks and everything else hold once a command of the lessee has entered. -/
theorem State.enterSett_spec {s : State} (hl : s.mySett.lessee = some s.cur.core) (m : Option (Fin 32)) (w : Waits) (body : CmdBody) :
    let r := s.enterSett m w body
    let t := r.setts.at (settOf s.cur.core)
    r.cur = s.cur ∧ r.mem = s.mem ∧ t.queue = s.mySett.queue ++ [s.newCmd s.nextUid m w s.me.wins body] ∧
    (∀ k, m = some k → r.me.markDone k = false) ∧
    (s.mySett.count < 63 → t.count = s.mySett.count + 1 ∧ t.lessee = some s.cur.core) ∧ (63 ≤ s.mySett.count → t.lessee = none) := by
  intro r t
  let u := (({ s with nextUid := s.nextUid + 1 } : State).modMe fun k => k.pendMark m).modSett
    (settOf s.cur.core) fun t => { t with queue := t.queue ++ [s.newCmd s.nextUid m w s.me.wins body], count := t.count + 1 }
  have hu : u.setts.at (settOf s.cur.core) =
      { s.mySett with queue := s.mySett.queue ++ [s.newCmd s.nextUid m w s.me.wins body], count := s.mySett.count + 1 } :=
    File.at_mod_self ..
  have hul : (u.setts.at (settOf s.cur.core)).lessee = some s.cur.core := by rw [hu]; exact hl
  have hme : u.me = s.me.pendMark m := State.modMe_me ({ s with nextUid := s.nextUid + 1 } : State) fun k => k.pendMark m
  have hmark : ∀ k, m = some k → u.me.markDone k = false := by
    rintro k rfl
    simp [hme, Core.pendMark, Core.markDone_setMark]
  by_cases h : 64 ≤ s.mySett.count + 1
  · have hr : r = u.endLease s.cur.core := if_pos h
    have ht : t = { u.setts.at (settOf s.cur.core) with lessee := none, count := 0, last := inGroup s.cur.core } := by
      simp only [t, hr, State.endLease_sett, hul, if_true]
    refine ⟨by rw [hr]; rfl, by rw [hr]; rfl, by rw [ht, hu], fun k hk => by rw [hr]; exact hmark k hk, fun h' => by omega, fun _ => by rw [ht]⟩
  · have hr : r = u := if_neg h
    have ht : t = u.setts.at (settOf s.cur.core) := by rw [← hr]
    refine ⟨by rw [hr]; rfl, by rw [hr]; rfl, by rw [ht, hu], fun k hk => by rw [hr]; exact hmark k hk, fun _ => ⟨by rw [ht, hu], by rw [ht, hul]⟩,
      fun h' => by omega⟩

/-! ## The Sett words -/

/-- A word of one word that nothing holds, whose command enters its Sett. -/
theorem State.settWord_enters {s : State} {i : WordInfo} {body : State → Act} {m : Option (Fin 32)} {w : Waits} {b : CmdBody}
    (hc : s.clear i = true) (hn : i.words.length = 1) (hb : body s = .go (s.enterSett m w b)) (hl : s.mySett.lessee = some s.cur.core) :
    ∃ r : State, s.word i body = .next r ∧ r.myFlow.pc = s.myFlow.pc + 4 ∧ r.mem = s.mem ∧
      (r.setts.at (settOf s.cur.core)).queue = s.mySett.queue ++ [s.newCmd s.nextUid m w s.me.wins b] ∧
      (∀ k, m = some k → r.me.markDone k = false) ∧
      (s.mySett.count < 63 → (r.setts.at (settOf s.cur.core)).count = s.mySett.count + 1 ∧
        (r.setts.at (settOf s.cur.core)).lessee = some s.cur.core) ∧
      (63 ≤ s.mySett.count → (r.setts.at (settOf s.cur.core)).lessee = none) := by
  obtain ⟨hcur, hmem, hq, hmark, hcount, hend⟩ := State.enterSett_spec hl m w b
  have same := State.issued_sameButCores_all (s.enterSett m w b) i (s.nextPc i)
  refine ⟨_, State.word_go hc hb, ?_, same.mem.trans hmem, ?_, fun k hk => ?_, ?_, ?_⟩
  · rw [State.issued_pc, State.nextPc, hn]
    rfl
  · rw [same.setts, hq]
  · rw [State.issued_markDone, hmark k hk]
  · rwa [same.setts]
  · rwa [same.setts]

/-- A word that nothing holds and whose check fails raises its trap at its own PC. -/
theorem State.word_trap {s : State} {i : WordInfo} {body : State → Act} {cause : BitVec 8} {detail item : Nat} (hc : s.clear i = true)
    (hb : body s = .trap cause detail item) : s.word i body = .next (s.trapHere cause detail item) := by
  rw [State.word_clear hc, hb]; rfl

/-- A product within the allotment, of legal rows and marks and of types that make one, is a Sett command (R238, R241, R269). -/
theorem State.product_legal {s : State} {n : Fin 64} {a b : Fin 16} {l : Fin 7} (hn : n.val < s.allotment)
    (ha : 1 ≤ dRows (s.me.ex.dsc.at (a + 1)) ∧ dRows (s.me.ex.dsc.at (a + 1)) ≤ 128)
    (hb : 1 ≤ dRows (s.me.ex.dsc.at (b + 1)) ∧ dRows (s.me.ex.dsc.at (b + 1)) ≤ 64)
    (hw : dWait (s.me.ex.dsc.at (b + 1)) = true → dMark (s.me.ex.dsc.at (b + 1)) ≠ dMark (s.me.ex.dsc.at (a + 1)))
    (hf : fmtPair (s.me.ex.fmtOf l) = true) (clear u v : Bool) :
    s.product clear n a b l u v = s.settWord (some (dMark (s.me.ex.dsc.at (a + 1))))
      ⟨if dWait (s.me.ex.dsc.at (b + 1)) then some (dMark (s.me.ex.dsc.at (b + 1))) else none, none, none⟩
      (.mma clear n.val (s.me.ex.dsc.at a) (s.me.ex.dsc.at (a + 1)) (s.me.ex.dsc.at b) (s.me.ex.dsc.at (b + 1)) u v (s.me.ex.fmtOf l)) := by
  have h1 := Nat.not_le.mpr hn
  have h2 := Nat.not_lt.mpr ha.1
  have h3 := Nat.not_lt.mpr ha.2
  have h4 := Nat.not_lt.mpr hb.1
  have h5 := Nat.not_lt.mpr hb.2
  have h6 : (dWait (s.me.ex.dsc.at (b + 1)) && dMark (s.me.ex.dsc.at (b + 1)) == dMark (s.me.ex.dsc.at (a + 1))) = false := by
    simpa using hw
  simp only [State.product, h1, h2, h3, h4, h5, h6, hf, decide_false, Bool.not_true, Bool.or_false, Bool.false_eq_true, if_false]

/-- A product past the allotment, of a rows field out of range, that awaits its own mark, or of types that make none, is illegal (R238, R241). -/
theorem State.product_illegal {s : State} {n : Fin 64} {a b : Fin 16} {l : Fin 7}
    (h : s.allotment ≤ n.val ∨ (dRows (s.me.ex.dsc.at (a + 1)) < 1 ∨ 128 < dRows (s.me.ex.dsc.at (a + 1))) ∨
      dRows (s.me.ex.dsc.at (b + 1)) < 1 ∨ 64 < dRows (s.me.ex.dsc.at (b + 1)) ∨
      (dWait (s.me.ex.dsc.at (b + 1)) = true ∧ dMark (s.me.ex.dsc.at (b + 1)) = dMark (s.me.ex.dsc.at (a + 1))) ∨
      fmtPair (s.me.ex.fmtOf l) = false) (clear u v : Bool) : s.product clear n a b l u v = .trap cILLEGAL 3 0 := by
  refine if_pos ?_
  simp only [Bool.or_eq_true, Bool.and_eq_true, Bool.not_eq_true', decide_eq_true_eq, beq_iff_eq]
  tauto

/-- What an `mmov` does once nothing stands before it (R270). -/
def State.mmovBody (s : State) (n : Fin 64) (a : Fin 16) (l : Fin 7) : Act :=
  let f := s.me.ex.fmtOf l
  let pd' := s.me.ex.dsc.at (a + 1)
  if s.allotment ≤ n.val || dRows pd' < 1 || 128 < dRows pd' || fmtOT f = 3 || (fmtOT f = 2 && (qtWidth (fmtQT f)).isNone) then .trap cILLEGAL 3 0
  else s.settWord (some (dMark pd')) ⟨none, none, none⟩ (.mmov n.val (s.me.ex.dsc.at a) pd' f)

theorem exec_mmov (s : State) (y : Ring) (n : Fin 64) (a : Fin 16) (l : Fin 7) :
    exec (.mmov y n a l) s = s.word (s.plain y (.mmov y n a l)) fun s => s.mmovBody n a l := rfl

theorem State.mmovBody_legal {s : State} {n : Fin 64} {a : Fin 16} {l : Fin 7} (hn : n.val < s.allotment)
    (ha : 1 ≤ dRows (s.me.ex.dsc.at (a + 1)) ∧ dRows (s.me.ex.dsc.at (a + 1)) ≤ 128) (hf : fmtOT (s.me.ex.fmtOf l) ≠ 3)
    (hq : fmtOT (s.me.ex.fmtOf l) = 2 → (qtWidth (fmtQT (s.me.ex.fmtOf l))).isSome = true) :
    s.mmovBody n a l = s.settWord (some (dMark (s.me.ex.dsc.at (a + 1)))) ⟨none, none, none⟩
      (.mmov n.val (s.me.ex.dsc.at a) (s.me.ex.dsc.at (a + 1)) (s.me.ex.fmtOf l)) := by
  refine if_neg ?_
  simp only [Bool.or_eq_true, Bool.and_eq_true, decide_eq_true_eq, not_or, not_and]
  refine ⟨⟨⟨⟨by omega, by omega⟩, by omega⟩, hf⟩, fun h => ?_⟩
  have := hq h
  simp [Option.isSome_iff_ne_none.mp this]

theorem State.mmovBody_illegal {s : State} {n : Fin 64} {a : Fin 16} {l : Fin 7}
    (h : s.allotment ≤ n.val ∨ dRows (s.me.ex.dsc.at (a + 1)) < 1 ∨ 128 < dRows (s.me.ex.dsc.at (a + 1))) :
    s.mmovBody n a l = .trap cILLEGAL 3 0 := by
  refine if_pos ?_
  simp only [Bool.or_eq_true, decide_eq_true_eq]
  tauto

/-- What an `mclr` does once nothing stands before it (R271). -/
def State.mclrBody (s : State) (n : Fin 64) : Act :=
  if s.allotment ≤ n.val then .trap cILLEGAL 3 0 else s.settWord none ⟨none, none, none⟩ (.mclr n.val)

theorem exec_mclr (s : State) (y : Ring) (n : Fin 64) :
    exec (.mclr y n) s = s.word (s.plain y (.mclr y n)) fun s => s.mclrBody n := rfl

/-- Settles O39: a legal word enters its Sett as `State.enterSett_spec` says, an illegal one fails its check before it looks at the lease. -/
theorem settWords : Obligations.SettWords := by
  unfold Obligations.SettWords
  refine ⟨?_, ?_⟩
  · intro s y n a b l u v i m w body e pa pa' pb pb' f t rows legal hlegal hc hl hq hm hg d
    have enters : ∀ {act : Act}, act = s.settWord m w body → act = .go (s.enterSett m w body) :=
      fun h => h.trans (State.settWord_ready hl hq hm hg w body)
    obtain ⟨hn, ⟨hi, ha, hb, hw, hf, rfl, rfl, hk⟩ | ⟨rfl, ha, hf, hqt, rfl, rfl, rfl⟩ | ⟨rfl, rfl, rfl, rfl⟩⟩ := hlegal
    · rcases hk with ⟨rfl, rfl⟩ | ⟨rfl, rfl⟩
      · exact State.settWord_enters hc rfl (enters (State.product_legal hn ha hb hw hf false u v)) hl
      · exact State.settWord_enters hc rfl (enters (State.product_legal hn ha hb hw hf true u v)) hl
    · rw [exec_mmov]
      exact State.settWord_enters hc rfl (enters (State.mmovBody_legal hn ha hf hqt)) hl
    · rw [exec_mclr]
      exact State.settWord_enters hc rfl (enters (if_neg (Nat.not_le.mpr hn))) hl
  · intro s y n a b l u v i e pa' pb' h hc
    rcases h with ⟨h, rfl | rfl | rfl | rfl⟩ | ⟨h, rfl | rfl | rfl⟩ | ⟨h, rfl | rfl⟩
    · exact State.word_trap hc (State.product_illegal (.inl h) false u v)
    · exact State.word_trap hc (State.product_illegal (.inl h) true u v)
    · exact State.word_trap hc (State.mmovBody_illegal (.inl h))
    · exact State.word_trap hc (if_pos h)
    · exact State.word_trap hc (State.product_illegal (.inr (.inl h)) false u v)
    · exact State.word_trap hc (State.product_illegal (.inr (.inl h)) true u v)
    · exact State.word_trap hc (State.mmovBody_illegal (.inr h))
    · exact State.word_trap hc (State.product_illegal (.inr (.inr h)) false u v)
    · exact State.word_trap hc (State.product_illegal (.inr (.inr h)) true u v)

end Sys2Proof.Machine
end

section
/-! PROOFS. The lease of a Sett, the landing of EX's results, and the steps of a Sett (R17, R103, R230, R236, R268 to R271). -/

namespace Sys2Proof.Machine

/-! ## The lease (R17, R268) -/

/-- How far behind the last lessee of its group the round robin reaches a core (R17). -/
def leaseDistance (last : Fin 12) (d : CoreId) : Nat := ((inGroup d).val + 11 - last.val) % 12

/-- The step of the search for the core that the round robin reaches first. -/
def nearerLessee (last : Fin 12) (acc : Option CoreId) (c : CoreId) : Option CoreId :=
  match acc with
  | none => some c
  | some d => if leaseDistance last c < leaseDistance last d then some c else some d

theorem nextLessee_eq (last : Fin 12) (l : List CoreId) : nextLessee last l = l.foldl (nearerLessee last) none := rfl

/-- The search finds the nearest of the core found before and those of the list. -/
theorem foldl_nearerLessee (last : Fin 12) (l : List CoreId) (d : CoreId) :
    ∃ e, l.foldl (nearerLessee last) (some d) = some e ∧ (e = d ∨ e ∈ l) ∧ leaseDistance last e ≤ leaseDistance last d ∧
      ∀ c ∈ l, leaseDistance last e ≤ leaseDistance last c := by
  induction l generalizing d with
  | nil => exact ⟨d, rfl, .inl rfl, le_rfl, by simp⟩
  | cons c r ih =>
    by_cases h : leaseDistance last c < leaseDistance last d
    · obtain ⟨e, he, hm, hle, hall⟩ := ih c
      refine ⟨e, ?_, ?_, by omega, ?_⟩
      · simpa [nearerLessee, h] using he
      · rcases hm with rfl | hm
        · exact .inr (List.mem_cons_self ..)
        · exact .inr (List.mem_cons_of_mem _ hm)
      · simpa using ⟨hle, hall⟩
    · obtain ⟨e, he, hm, hle, hall⟩ := ih d
      refine ⟨e, ?_, hm.imp_right (List.mem_cons_of_mem _), hle, ?_⟩
      · simpa [nearerLessee, h] using he
      · simpa using ⟨by omega, hall⟩

/-- Of waiting cores one is next: it waits, and the round robin reaches no other before it. -/
theorem nextLessee_spec {last : Fin 12} {l : List CoreId} (h : l ≠ []) :
    ∃ e ∈ l, nextLessee last l = some e ∧ ∀ d ∈ l, leaseDistance last e ≤ leaseDistance last d := by
  obtain ⟨c, r, rfl⟩ := List.exists_cons_of_ne_nil h
  obtain ⟨e, he, hm, hle, hall⟩ := foldl_nearerLessee last r c
  exact ⟨e, by simpa using hm, he, by simpa using ⟨hle, hall⟩⟩

theorem exec_leaseGrant_grants {s : State} {g : Fin 64} {e : CoreId} (hl : (s.setts.at g).lessee = none)
    (hn : nextLessee (s.setts.at g).last (s.setts.at g).waiting = some e) :
    exec (.leaseGrant g) s =
      .next (s.modSett g fun t => { t with lessee := some e, count := 0, waiting := t.waiting.filter fun d => d != e }) := by
  change execLeaseGrant g s = _
  simp only [execLeaseGrant, hl, hn]

theorem exec_leaseGrant_waits {s : State} {g : Fin 64} (h : (s.setts.at g).lessee ≠ none ∨ (s.setts.at g).waiting = []) :
    exec (.leaseGrant g) s = .next s := by
  change execLeaseGrant g s = _
  rcases h with h | h
  · obtain ⟨c, hc⟩ := Option.ne_none_iff_exists'.mp h
    simp only [execLeaseGrant, hc]
  · simp only [execLeaseGrant, h, nextLessee, List.foldl_nil]
    split <;> simp_all

theorem State.askLease_waiting (s : State) : s.cur.core ∈ (s.askLease.setts.at (settOf s.cur.core)).waiting := by
  simp only [State.askLease, State.modSett, File.at_mod_self]
  split <;> simp_all

/-! ## Landing (R230) -/

theorem Core.spadSet_ex (k : Core) (o : Nat) (v : Byte) : (k.spadSet o v).ex = k.ex := by
  simp only [Core.spadSet]
  split
  · split <;> rfl
  · rfl

theorem Core.spadFold_ex (f : Nat → Nat) (g : Nat → Byte) (l : List Nat) (k : Core) :
    (l.foldl (fun k i => k.spadSet (f i) (g i)) k).ex = k.ex := by
  induction l generalizing k with
  | nil => rfl
  | cons i r ih => exact (ih _).trans (Core.spadSet_ex ..)

/-- A landing result leaves EX's cycle and what else is in flight. -/
theorem Core.landOne_flight (k : Core) (f : InFlight) : (k.landOne f).ex.cycle = k.ex.cycle ∧ (k.landOne f).ex.flight = k.ex.flight := by
  simp only [Core.landOne]
  generalize List.range 256 = l
  split
  case h_8 =>
    rw [Core.spadFold_ex]
    split <;> exact ⟨rfl, rfl⟩
  all_goals split <;> simp only [Core.modEx_self, Core.fillSlot, Core.modFlow, Core.modCr, and_self]

theorem Core.landAll_flight (l : List InFlight) (k : Core) :
    (k.landAll l).ex.cycle = k.ex.cycle ∧ (k.landAll l).ex.flight = k.ex.flight := by
  induction l generalizing k with
  | nil => exact ⟨rfl, rfl⟩
  | cons f r ih =>
    obtain ⟨h1, h2⟩ := ih (k.landOne f)
    obtain ⟨g1, g2⟩ := Core.landOne_flight k f
    exact ⟨h1.trans g1, h2.trans g2⟩

/-- An EX cycle counts, and what stays in flight lands later. -/
theorem Core.exTick_flight (k : Core) :
    k.exTick.ex.cycle = k.ex.cycle + 1 ∧ ∀ f ∈ k.exTick.ex.flight, f ∈ k.ex.flight ∧ k.ex.cycle + 1 < f.land := by
  simp only [Core.exTick, Core.landDue]
  refine ⟨(Core.landAll_flight _ _).1, fun f hf => ?_⟩
  rw [(Core.landAll_flight _ _).2] at hf
  obtain ⟨h1, h2⟩ := List.mem_filter.mp hf
  exact ⟨h1, Nat.lt_of_not_le (of_decide_eq_false ((Bool.not_eq_true' _).mp h2))⟩

/-! ## Charges (R43, R213) -/

/-- What is seen of a replaced value costs a draw at most. -/
theorem State.seenFrom_draws (s : State) (c : CoreId) (n : Nat) (old : Old → Option α) (now : α) :
    ∃ m, (s.seenFrom c n old now).2 = { s with draws := m } := by
  simp only [State.seenFrom]
  split
  · exact ⟨s.draws, rfl⟩
  · split
    · exact ⟨s.draws, rfl⟩
    · exact ⟨s.draws + 1, rfl⟩

/-- A charge without a poisoned sector counts on the core, may leave causes due in the flow, and draws at most a value. -/
theorem State.charge_unpoisoned (s : State) (w : Who) (pc : W32) {a : Acct} (h : a.poison = none) :
    ∃ (m : Nat) (f : Flow → Flow), s.charge w pc a = ({ s with draws := m } : State).modCore w.core fun k => (k.owes w.q a).modFlow w.q w.x f := by
  simp only [State.charge, h]
  cases a.oox with
  | false => exact ⟨s.draws, _, rfl⟩
  | true =>
    simp only [State.seenBy, if_true]
    rw [(State.seenFrom_draws s w.core _ _ _).choose_spec]
    exact ⟨_, _, rfl⟩

theorem State.charge_sameButCores (s : State) (w : Who) (pc : W32) {a : Acct} (h : a.poison = none) : s.SameButCores (s.charge w pc a) := by
  obtain ⟨m, f, e⟩ := State.charge_unpoisoned s w pc h
  rw [e]
  constructor <;> rfl

theorem Core.owes_marks (k : Core) (q : Seq) (a : Acct) : (k.owes q a).cr.marks = k.cr.marks := by
  simp only [Core.owes]
  split <;> rfl

theorem State.charge_markDone (s : State) (w : Who) (pc : W32) {a : Acct} (h : a.poison = none) (m : Fin 32) :
    ((s.charge w pc a).core w.core).markDone m = (s.core w.core).markDone m := by
  obtain ⟨n, f, e⟩ := State.charge_unpoisoned s w pc h
  rw [e, State.modCore_core_self, Core.markDone, Core.modFlow_cr, Core.owes_marks]
  rfl

/-! ## The accesses of a Sett command (R103, R203) -/

theorem State.spadRead_sameButCores (s : State) (c : CoreId) (o : Nat) : s.SameButCores (s.spadRead c o).2 := by
  simp only [State.spadRead]
  split
  · exact State.SameButCores.trans (by constructor <;> rfl) (State.smearSpill_sameButCores s.freeNat.2 c)
  · exact .refl s

theorem State.ownRead_sameButCores (s : State) (c : CoreId) (addrs : List Nat) : s.SameButCores (s.ownRead c addrs).2.2 := by
  have key : ∀ (l : List Nat) (acc : List Byte × Bool × State), s.SameButCores acc.2.2 →
      s.SameButCores (l.foldl (fun (acc : List Byte × Bool × State) a =>
        match acc.2.2.ownOffset c a with
        | none => (0 :: acc.1, true, acc.2.2)
        | some o =>
          let (b, s) := acc.2.2.spadRead c o
          (b :: acc.1, acc.2.1, s)) acc).2.2 := by
    intro l
    induction l with
    | nil => exact fun acc h => h
    | cons a r ih =>
      intro acc h
      refine ih _ ?_
      dsimp only
      split
      · exact h
      · exact h.trans (State.spadRead_sameButCores ..)
  exact key addrs ([], false, s) (.refl s)

theorem State.keepAccess_sameButCores (s : State) (c : CoreId) (a : Access) : s.SameButCores (s.keepAccess c a) := by constructor <;> rfl

theorem State.dropAccess_sameButCores (s : State) (c : CoreId) (uid base : Nat) : s.SameButCores (s.dropAccess c uid base) := by
  simp only [State.dropAccess]
  split
  · exact .refl s
  · constructor <;> rfl

theorem State.settRead_sameButCores (s : State) (d : Cmd) (addrs : List Nat) (u : Option Nat) : s.SameButCores (s.settRead d addrs u).s := by
  simp only [State.settRead]
  split
  · exact State.ownRead_sameButCores ..
  · split
    · exact (State.ownRead_sameButCores ..).trans (State.dropAccess_sameButCores ..)
    · exact (State.ownRead_sameButCores ..).trans (State.keepAccess_sameButCores ..)

/-- A step that names no part performs all that is left. -/
theorem How.pick_all (g : Grain) (all todo : List (Nat × Nat)) : (How.by none g).pick all todo = todo.map (·.1) := by
  simp [How.pick, How.by]

/-- A read that names no part is at its end. -/
theorem State.settRead_all (s : State) (d : Cmd) (addrs : List Nat) : ∃ l, (s.settRead d addrs none).data = some l := by
  simp only [State.settRead, How.pick_all, List.length_map, beq_self_eq_true, Bool.and_true, if_true]
  split <;> exact ⟨_, rfl⟩

/-! ## The steps of a Sett (R236, R269 to R271) -/

/-- The reads of a product at the head of its Sett. -/
def Cmd.operands (d : Cmd) : List Nat := d.body.settReads.1 ++ d.body.settReads.2

/-- A product has read its operands: its mark is complete (R103, R236). -/
def State.operandsRead (s : State) (g : Fin 64) (d : Cmd) (l : List Byte) : State :=
  (s.modSettCmd g d.uid fun e => { e with started := true, marked := true, stage := 1, opA := l.take d.body.settReads.1.length,
                                          opB := l.drop d.body.settReads.1.length }).modCore d.core fun k =>
    match d.mark with | some m => k.setMark m true | none => k

/-- What the step of a product that may read its operands does, with what its read gives. -/
def State.readStep (s : State) (g : Fin 64) (d : Cmd) (u : Option Nat) : State :=
  let r := s.settRead d d.operands u
  match r.data with
  | none => r.s.modSettCmd g d.uid fun d => { d with started := true }
  | some l => (r.s.operandsRead g d l).chargeSett d r.acct.oox

theorem State.readStep_none {s : State} (g : Fin 64) {d : Cmd} {u : Option Nat} (h : (s.settRead d d.operands u).data = none) :
    s.readStep g d u = (s.settRead d d.operands u).s.modSettCmd g d.uid fun d => { d with started := true } := by
  simp only [State.readStep, h]

theorem State.readStep_some {s : State} (g : Fin 64) {d : Cmd} {u : Option Nat} {l : List Byte} (h : (s.settRead d d.operands u).data = some l) :
    s.readStep g d u =
      ((s.settRead d d.operands u).s.operandsRead g d l).chargeSett d (s.settRead d d.operands u).acct.oox := by
  simp only [State.readStep, h]

section
variable {s : State} {g : Fin 64} {d : Cmd} {clear : Bool} {n : Nat} {pa pa' pb pb' : W64} {ta tb : Bool} {f : W32}
  (hh : s.settHead g = some d) (hb : d.body = .mma clear n pa pa' pb pb' ta tb f)
include hh hb

theorem exec_settOperandsRead_waits (u : Option Nat)
    (h : d.marked = true ∨ (d.started = false ∧ (s.core d.core).waitsDone d.waits = false)) : exec (.settOperandsRead ⟨g, u⟩) s = .next s := by
  change execSettOperandsRead ⟨g, u⟩ s = _
  simp only [execSettOperandsRead, hh, hb]
  exact if_pos (by rcases h with h | ⟨h, h'⟩ <;> simp [*])

theorem exec_settOperandsRead (u : Option Nat) (hm : d.marked = false)
    (h : d.started = true ∨ (s.core d.core).waitsDone d.waits = true) : exec (.settOperandsRead ⟨g, u⟩) s = .next (s.readStep g d u) := by
  have hc : ¬((d.marked || (!d.started && !(s.core d.core).waitsDone d.waits)) = true) := by
    rcases h with h | h <;> simp [hm, h]
  change execSettOperandsRead ⟨g, u⟩ s = _
  have hop : (CmdBody.mma clear n pa pa' pb pb' ta tb f).settReads.1 ++ (CmdBody.mma clear n pa pa' pb pb' ta tb f).settReads.2 = d.operands := by
    rw [Cmd.operands, hb]
  simp only [execSettOperandsRead, hh, hb, if_neg hc, hop]
  split
  next hd => rw [State.readStep_none g hd]
  next hd => simp only [State.readStep_some g hd, State.operandsRead, hb] <;> rfl

theorem exec_settCommandFinish_waits (u : Option Nat) (h : d.stage ≠ 1) : exec (.settCommandFinish ⟨g, u⟩) s = .next s := by
  change execSettCommandFinish ⟨g, u⟩ s = _
  simp only [execSettCommandFinish, hh, hb]
  exact if_pos h

/-- A product that has read its operands accumulates and frees its entry. -/
theorem exec_settCommandFinish_product (u : Option Nat) (h : d.stage = 1) :
    exec (.settCommandFinish ⟨g, u⟩) s =
      .next ((s.modSett g fun t => (if clear then t.clearTile d.core n else t).accumulate d n pa' pb' ta tb f).modSett g fun t =>
        { t with queue := t.queue.filter fun e => e.uid != d.uid }) := by
  change execSettCommandFinish ⟨g, u⟩ s = _
  simp only [execSettCommandFinish, hh, hb]
  exact if_neg (not_not_intro h)

end

theorem State.chargeSett_sameButCores (s : State) (d : Cmd) (oox : Bool) : s.SameButCores (s.chargeSett d oox) :=
  State.charge_sameButCores s d.who d.pc rfl

theorem State.readStep_mem (s : State) (g : Fin 64) (d : Cmd) (u : Option Nat) : (s.readStep g d u).mem = s.mem := by
  have hr : (s.settRead d d.operands u).s.mem = s.mem := (State.settRead_sameButCores ..).mem
  simp only [State.readStep]
  split
  · exact hr
  · exact (State.chargeSett_sameButCores ..).mem.trans hr

/-- A product that reads all that is left of its operands makes its mark complete. -/
theorem State.readStep_mark (s : State) (g : Fin 64) (d : Cmd) {m : Fin 32} (hm : d.mark = some m) :
    ((s.readStep g d none).core d.core).markDone m = true := by
  obtain ⟨l, hl⟩ := State.settRead_all s d d.operands
  simp only [State.readStep, hl]
  refine (State.charge_markDone _ d.who d.pc rfl m).trans ?_
  change (State.core (State.modCore _ d.core _) d.core).markDone m = true
  rw [State.modCore_core_self, hm]
  simp [Core.markDone_setMark]

/-- An `mclr` clears its tile and frees its entry (R271). -/
theorem exec_settCommandFinish_mclr {s : State} {g : Fin 64} {d : Cmd} {n : Nat} (hh : s.settHead g = some d) (hb : d.body = .mclr n) (u : Option Nat) :
    exec (.settCommandFinish ⟨g, u⟩) s = .next ((s.modSett g fun t => t.clearTile d.core n).modSett g fun t =>
      { t with queue := t.queue.filter fun e => e.uid != d.uid }) := by
  change execSettCommandFinish ⟨g, u⟩ s = _
  simp only [execSettCommandFinish, hh, hb]

/-- A command that frees its entry no longer stands in the queue. -/
theorem State.freeEntry_queue (s : State) (g : Fin 64) (u : Nat) :
    ∀ e ∈ ((s.modSett g fun t => { t with queue := t.queue.filter fun e => e.uid != u }).setts.at g).queue, e.uid ≠ u := by
  intro e he
  rw [State.modSett, File.at_mod_self] at he
  simpa using (List.mem_filter.mp he).2

/-- A step of EX after its `halt` (R230). -/
theorem exec_exResultLands (s : State) (c : CoreId) :
    exec (.exResultLands c) s = .next (if (s.core c).mode == .running && (s.core c).ex.flow.halted && !(s.core c).aux.hold && (s.core c).aux.trap.isNone
      then s.exTick c else s) := rfl

/-- Settles O38. -/
theorem leaseAndLanding : Obligations.LeaseAndLanding := by
  unfold Obligations.LeaseAndLanding
  refine ⟨?_, ?_⟩
  · intro s y g c t
    refine ⟨fun hc => ⟨fun hl => ?_, fun hl => ⟨?_, State.askLease_waiting s⟩⟩, fun hc => ?_, fun hl => ?_, fun hl => ?_, fun hn d hd => ?_, exec_leaseGrant_waits⟩
    · exact State.word_go hc (if_pos hl)
    · exact (State.word_clear hc _).trans (congrArg (fun a => Host.Outcome.next (s.act (s.plain y (.lse y)) a)) (if_neg hl))
    · exact State.word_go hc rfl
    · simp only [State.endLease_sett, hl, if_true, and_self]
    · rw [State.endLease_sett, if_neg hl]
    · obtain ⟨e, he, hne, hall⟩ := nextLessee_spec (last := (s.setts.at g).last) (List.ne_nil_of_mem hd)
      refine ⟨_, e, exec_leaseGrant_grants hn hne, he, ?_⟩
      rw [State.modSett, File.at_mod_self]
      exact ⟨rfl, rfl, rfl, by simp, hall d hd⟩
  · intro s c g u d
    refine ⟨⟨fun h1 h2 h3 h4 => ?_, fun h => ?_, Core.exTick_flight _⟩, fun hh => ⟨fun clear n pa pa' pb pb' ta tb f hb => ?_, fun n hb => ?_⟩⟩
    · rw [exec_exResultLands]
      simp [h1, h2, h3, h4]
    · rw [exec_exResultLands]
      simp [h]
    · refine ⟨exec_settOperandsRead_waits hh hb u, exec_settCommandFinish_waits hh hb u, fun hm h => ⟨⟨_, exec_settOperandsRead hh hb u hm h, ?_⟩,
        _, exec_settOperandsRead hh hb none hm h, fun m => State.readStep_mark s g d, ?_⟩, fun h => ⟨_, exec_settCommandFinish_product hh hb u h, ?_⟩⟩
      · exact State.readStep_mem ..
      · exact State.readStep_mem ..
      · exact ⟨State.freeEntry_queue _ g d.uid, rfl, rfl⟩
    · refine ⟨_, exec_settCommandFinish_mclr hh hb u, State.freeEntry_queue _ g d.uid, rfl, ?_⟩
      simp only [State.modSett, File.at_mod_self, Sett.clearTile]
      rfl

end Sys2Proof.Machine
end

section
/-! PROOFS. The completion of the memory words of LD and ST, and their completion posts (R13, R92, R93, R212 to R214). -/

namespace Sys2Proof.Machine

/-! ## Performing a memory word (R212, R213) -/

/-- The word of LD or ST whose access the step performs. -/
def lsWho (c : CoreId) (st : Bool) : Who := ⟨c, if st then .st else .ld, 0⟩

/-- A word that must wait is left as it is. -/
theorem exec_ldstWordComplete_waits {s : State} {c : CoreId} {st : Bool} {n : Nat} {p : LsPend} (m : Option Nat)
    (hp : ((s.core c).lseq st).pend[n]? = some p) (hw : s.lsMustWait c st p = true) : exec (.ldstWordComplete c st ⟨n, m⟩) s = .next s := by
  change execLdstWordComplete c st ⟨n, m⟩ s = _
  simp [execLdstWordComplete, hp, hw]

/-- The state in which the effect of a performed word falls: one that has awaited answers forgets its requests. -/
def LsPend.performed (p : LsPend) (c : CoreId) (s : State) : State :=
  match p.op with | .ldq _ _ | .strel _ _ => s.dropReqs (dieOf c) p.uid | _ => s

/-- A word that need not wait makes its access, and is charged and complete once the access is at its end. -/
theorem exec_ldstWordComplete {s : State} {c : CoreId} {st : Bool} {n : Nat} {p : LsPend} (m : Option Nat)
    (hp : ((s.core c).lseq st).pend[n]? = some p) (hd : p.done = false) (hw : s.lsMustWait c st p = false) :
    let g := s.wordAccess (lsWho c st) p m
    exec (.ldstWordComplete c st ⟨n, m⟩) s = .next (match g.data with
      | none => g.s
      | some b => ((p.performed c g.s).modCore c fun k => (k.wordEffect p b).wordDone st p.uid).charge (lsWho c st) p.pc g.acct) := by
  intro g
  change execLdstWordComplete c st ⟨n, m⟩ s = _
  simp only [execLdstWordComplete, hp, hd, hw, Bool.or_self, Bool.false_eq_true, if_false]
  change (match g.data with | none => _ | some b => _) = _
  cases g.data with
  | none => rfl
  | some b => unfold LsPend.performed; cases p.op <;> rfl

/-! ## Completion posts (R13, R93) -/

theorem Core.drain_of_open {k : Core} {st : Bool} {p : LsPend} {r : List LsPend} (m : Nat) (hk : (k.lseq st).pend = p :: r)
    (hd : p.done = false) : k.drain st (m + 1) = k := by
  simp [Core.drain, hk, hd]

theorem Core.drain_of_heldSa {k : Core} {st : Bool} {p : LsPend} {r : List LsPend} (m : Nat) (hk : (k.lseq st).pend = p :: r)
    (ha : p.sa = true) (hh : (k.lseq st).heldSa = true) : k.drain st (m + 1) = k := by
  simp [Core.drain, hk, ha, hh]

/-- A complete word without posts lets the next one post. -/
theorem Core.drain_of_silent {k : Core} {st : Bool} {p : LsPend} {r : List LsPend} (m : Nat) (hk : (k.lseq st).pend = p :: r)
    (hd : p.done = true) (ha : p.sa = false) (hb : p.sb = false) :
    k.drain st (m + 1) = (k.modLseq st fun l => { l with pend := r }).drain st m := by
  simp [Core.drain, hk, hd, ha, hb]

/-- A held completion post (R13). -/
def Core.heldPost (k : Core) (st a : Bool) : Bool := if a then (k.lseq st).heldSa else (k.lseq st).heldSb

/-- The counter to which the sequencer's completion posts go, after and before (R12). -/
def postCounter (st a : Bool) : Fin 8 := if a then ringSa (if st then .st else .ld) else ringSb (if st then .st else .ld)

theorem exec_heldCompletionPost_applies {s : State} {c : CoreId} {st a : Bool} (hh : (s.core c).heldPost st a = true)
    (hr : (s.core c).rings.at (postCounter st a) ≠ 63) :
    let free := (s.core c).modLseq st fun l => if a then { l with heldSa := false } else { l with heldSb := false }
    exec (.heldCompletionPost c st a) s =
      .next (s.modCore c fun _ => (free.post (if st then .st else .ld) (postCounter st a)).drain st (free.lseq st).pend.length) := by
  intro free
  have hl : (free.lseq st).pend = ((s.core c).lseq st).pend := by
    simp only [free, Core.modLseq_self]
    split <;> rfl
  rw [hl]
  refine congrArg Host.Outcome.next (congrArg (s.setCore c) (if_pos ?_))
  rw [Bool.and_eq_true, bne_iff_ne]
  exact ⟨hh, hr⟩

theorem exec_heldCompletionPost_holds {s : State} {c : CoreId} {st a : Bool}
    (h : (s.core c).heldPost st a = false ∨ (s.core c).rings.at (postCounter st a) = 63) :
    exec (.heldCompletionPost c st a) s = .next (s.modCore c fun k => k) := by
  refine congrArg Host.Outcome.next (congrArg (s.setCore c) (if_neg ?_))
  rw [Bool.and_eq_true, bne_iff_ne]
  rintro ⟨hh, hr⟩
  rcases h with h | h
  · exact Bool.false_ne_true (h.symm.trans hh)
  · exact hr h

/-- Settles O29. -/
theorem memoryWordsComplete : Obligations.MemoryWordsComplete := by
  unfold Obligations.MemoryWordsComplete
  refine ⟨?_, ?_⟩
  · intro s c st n m p hp hd
    refine ⟨exec_ldstWordComplete_waits m hp, ?_, ?_⟩
    · intro b hw _ w g u
      have key := exec_ldstWordComplete m hp hd hw
      refine ⟨fun hg => ?_, fun hg => ?_⟩
      · rw [key, show (s.wordAccess (lsWho c st) p m).data = none from hg]
        rfl
      · rw [key, show (s.wordAccess (lsWho c st) p m).data = some b from hg]
        rfl
    · intro k r p m hk
      exact ⟨Core.drain_of_open m hk, fun _ => Core.drain_of_heldSa m hk, Core.drain_of_silent m hk⟩
  · intro s c st a k q n held
    refine ⟨exec_heldCompletionPost_applies, fun h => ⟨_, exec_heldCompletionPost_holds h, ?_, rfl, fun d hd => ?_⟩⟩
    · exact State.modCore_core_self ..
    · exact State.modCore_core_ne s hd.symm _

end Sys2Proof.Machine
end

section
/-! PROOFS. The start and the completion of engine commands, copies and gathers (R20, R94, R206, R208, R223, R224). -/

namespace Sys2Proof.Machine

/-! ## Starting (R20) -/

theorem exec_engineCommandStart {s : State} {c : CoreId} {u : Nat} {d : Cmd}
    (h : ((s.allCmds c).find? fun d => d.uid == u && d.body.engine != 9) = some d) :
    exec (.engineCommandStart c u) s = .next (if s.mayStart d then s.modCmd u fun d => { d with started := true } else s) := by
  change execEngineCommandStart c u s = _
  simp only [execEngineCommandStart, h]

/-! ## Running under the windows that stand (R196) -/

theorem State.running_of_started {s : State} {c : CoreId} {u : Nat} {d : Cmd} (h : s.coreCmd c u = some d) (hs : d.started = true) :
    s.running c u = some d := by
  simp [State.running, h, hs]

theorem State.viewWins_of_same {s : State} {d : Cmd} (h : d.wins = (s.core d.core).wins) : s.viewWins d = (d, s) := by
  simp [State.viewWins, h]

section
variable {s : State} {c : CoreId} {u : Nat} {d : Cmd} (hc : s.coreCmd c u = some d) (hs : d.started = true)
  (hw : d.wins = (s.core d.core).wins)
include hc hs hw

theorem exec_copyCommandComplete (n : Option Nat) {toMem : Bool} {tok off loc shape : W64} {f : Nat}
    (hb : d.body = .copy toMem tok off loc shape f) :
    exec (.copyCommandComplete c ⟨u, n⟩) s = .next (s.runCopy d n toMem tok off loc shape f) := by
  change execCopyCommandComplete c ⟨u, n⟩ s = _
  simp only [execCopyCommandComplete, State.running_of_started hc hs, State.viewWins_of_same hw, hb]

theorem exec_gatherCommandComplete (n : Option Nat) {toMem : Bool} {tok off loc count : W64} {wide : Bool} {e : Nat}
    (hb : d.body = .gather toMem tok off loc count wide e) :
    exec (.gatherCommandComplete c ⟨u, n⟩) s = .next (s.runGather d n toMem tok off loc count wide e) := by
  change execGatherCommandComplete c ⟨u, n⟩ s = _
  simp only [execGatherCommandComplete, State.running_of_started hc hs, State.viewWins_of_same hw, hb]

end

/-! ## A copy to local space (R94, R223) -/

/-- A copy moves no byte exactly where the rows of its shape are empty. -/
theorem copyBytes_eq_nil (off loc shape : W64) (f : Nat) : copyBytes off loc shape f = [] ↔ shapeLen shape = 0 := by
  simp only [copyBytes, List.flatMap_eq_nil_iff, List.mem_range, List.map_eq_nil_iff, List.range_eq_nil]
  exact ⟨fun h => h 0 (Nat.succ_pos _), fun h _ _ => h⟩

theorem State.runCopy_empty (s : State) (d : Cmd) (n : Option Nat) (toMem : Bool) (tok off loc : W64) {shape : W64} (f : Nat)
    (h : shapeLen shape = 0) : s.runCopy d n toMem tok off loc shape f = s.finishCmd d Acct.none := by
  simp only [State.runCopy, (copyBytes_eq_nil off loc shape f).mpr h, List.isEmpty_nil, if_true]

theorem State.runGather_empty (s : State) (d : Cmd) (n : Option Nat) (toMem : Bool) (tok off loc : W64) {count : W64} (wide : Bool) {e : Nat}
    (h : bitsOf count.toNat 0 24 / e = 0) : s.runGather d n toMem tok off loc count wide e = s.finishCmd d Acct.none := by
  simp only [State.runGather, h, if_true]

/-- The command of a move whose read is at its end. -/
def Cmd.hasRead (d : Cmd) (m : Move) (a : Acct) (b : List Byte) : Cmd := { d.owe a with stage := m.stage + 1, opB := b }

section
variable {s : State} {d : Cmd} {m : Move} (hd : d.stage = m.stage) (fin : State → Cmd → Acct → State)
include hd

/-- A whole step of a move whose read waits only reads. -/
theorem State.runMove_reads (hg : (m.read s none).data = none) : s.runMove d none m fin = (m.read s none).s := by
  simp [State.runMove, hd, hg]

/-- A whole step of a move whose read is at its end writes what it has read, unless an earlier command of its sequencer has still to read
there. -/
theorem State.runMove_writes {b : List Byte} (hg : (m.read s none).data = some b) :
    let e := d.hasRead m (m.read s none).acct b
    let v := (m.read s none).s.modCmd d.uid fun _ => e
    m.waits v = false →
    let r := m.write v (m.slots.map fun j => match j with | some j => b.getD j 0 | none => 0) none fun _ => true
    s.runMove d none m fin = match r.data with | none => r.s | some _ => fin r.s e r.acct := by
  intro e v hw r
  have hne : (m.stage + 1 == m.stage) = false := by simp
  have same : ∀ g : Got, g = r → (match g.data with | none => g.s | some _ => fin g.s e g.acct) =
      match r.data with | none => r.s | some _ => fin r.s e r.acct := by rintro g rfl; rfl
  unfold State.runMove
  simp only [Option.isNone_none, Bool.not_true, ne_eq, hd, not_true_eq_false, decide_false, Bool.or_self, Bool.false_eq_true, if_false,
    Option.map_none, hg, hne, Bool.false_and, Bool.false_or, Bool.not_false, Bool.true_or]
  refine (if_neg (Bool.eq_false_iff.mp hw)).trans (same _ ?_)
  refine congrArg (m.write v _ none) (funext fun i => ?_)
  split <;> rfl

end

/-- A copy that moves bytes is a move of them (R223). -/
theorem State.runCopy_move (s : State) (d : Cmd) (n : Option Nat) (toMem : Bool) (tok off loc : W64) {shape : W64} (f : Nat)
    (h : shapeLen shape ≠ 0) :
    s.runCopy d n toMem tok off loc shape f =
      s.runMove d n (d.move toMem tok ((copyBytes off loc shape f).map (·.1)) ((copyBytes off loc shape f).map (·.2))) State.finishCmd := by
  refine if_neg ?_
  rw [List.isEmpty_iff, copyBytes_eq_nil]
  exact h

/-- The bytes that a move writes, in their order, are those that it has read. -/
theorem Cmd.move_bytes (d : Cmd) (toMem : Bool) (tok : W64) (moffs locs : List Nat) (b : List Byte) :
    ((d.move toMem tok moffs locs).slots.map fun j => match j with | some j => b.getD j 0 | none => 0) =
      (List.range moffs.length).map fun j => b.getD j 0 := by
  simp only [Cmd.move, List.map_map]
  rfl

/-- A whole step of a move to local space whose read is at its end (R94, R223). -/
theorem State.runMove_toLocal {s : State} {d : Cmd} {tok : W64} {moffs locs : List Nat} {b : List Byte} (hd : d.stage = 0)
    (fin : State → Cmd → Acct → State) :
    let g := s.tokRead d.who d.uid 0 tok moffs true false none (How.by none .units)
    let e : Cmd := { d.owe g.acct with stage := 1, opB := b }
    let v := g.s.modCmd d.uid fun _ => e
    g.data = some b → v.cmdWaits d tok [] locs = false →
    let r := v.cmdLocWrite d (2 ^ 20) (locs.zip ((List.range moffs.length).map fun j => b.getD j 0)) ⟨none, .sectors, fun _ => true, some .any⟩
    (r.data = none → s.runMove d none (d.move false tok moffs locs) fin = r.s) ∧
    (r.data.isSome = true → s.runMove d none (d.move false tok moffs locs) fin = fin r.s e r.acct) := by
  intro g e v hg hw r
  have key := State.runMove_writes (m := d.move false tok moffs locs) hd fin hg hw
  rw [Cmd.move_bytes] at key
  have key : s.runMove d none (d.move false tok moffs locs) fin = match r.data with | none => r.s | some _ => fin r.s e r.acct := key
  refine ⟨fun h => by rw [key, h], fun h => ?_⟩
  obtain ⟨x, hx⟩ := Option.isSome_iff_exists.mp h
  rw [key, hx]

/-! ## Completion (R20, R213) -/

/-- A step leaves memory, and of a core its commands and marks. -/
structure State.SameTasks (c : CoreId) (s t : State) : Prop where
  mem : t.mem = s.mem
  cmds : (t.core c).cmds = (s.core c).cmds
  marks : (t.core c).cr.marks = (s.core c).cr.marks

theorem State.SameTasks.refl (c : CoreId) (s : State) : State.SameTasks c s s := ⟨rfl, rfl, rfl⟩

theorem State.SameTasks.trans {c : CoreId} {s t u : State} (h : State.SameTasks c s t) (g : State.SameTasks c t u) : State.SameTasks c s u :=
  ⟨g.mem.trans h.mem, g.cmds.trans h.cmds, g.marks.trans h.marks⟩

/-- A change of one core that keeps its commands and marks. -/
theorem State.modCore_sameTasks (s : State) (c : CoreId) {f : Core → Core} (h1 : (f (s.core c)).cmds = (s.core c).cmds)
    (h2 : (f (s.core c)).cr.marks = (s.core c).cr.marks) : State.SameTasks c s (s.modCore c f) :=
  ⟨rfl, by rw [State.modCore_core_self, h1], by rw [State.modCore_core_self, h2]⟩

theorem State.countPosted_sameTasks (s : State) (c : CoreId) (uid : Nat) (a : Acct) : State.SameTasks c s (s.countPosted c uid a) := by
  simp only [State.countPosted]
  split
  · exact .refl c s
  · exact State.modCore_sameTasks s c rfl rfl

theorem State.dropReqs_sameTasks (s : State) (c : CoreId) (d : Fin 4) (uid : Nat) : State.SameTasks c s (s.dropReqs d uid) := by
  simp only [State.dropReqs]
  split
  · exact .refl c s
  · exact ⟨rfl, rfl, rfl⟩

theorem State.dropAccesses_sameTasks (s : State) (c : CoreId) (uid : Nat) : State.SameTasks c s (s.dropAccesses c uid) := by
  simp only [State.dropAccesses]
  split
  · exact .refl c s
  · exact State.modCore_sameTasks s c rfl rfl

theorem Core.owes_cmds (k : Core) (q : Seq) (a : Acct) : (k.owes q a).cmds = k.cmds := by
  simp only [Core.owes]
  split <;> rfl

/-- A command of CTL is charged without an error: its core keeps its commands and marks. -/
theorem State.chargeCtl_sameTasks (s : State) (c : CoreId) (x : Fin 4) (pc : W32) (gone : Bool) {a : Acct} (h : a.poison = none) :
    State.SameTasks c s (s.chargeCtl c x pc gone a) := by
  simp only [State.chargeCtl, h]
  split
  · exact State.modCore_sameTasks s c (Core.owes_cmds ..) (Core.owes_marks ..)
  · obtain ⟨n, f, e⟩ := State.charge_unpoisoned s ⟨c, .ctl, x⟩ pc h
    rw [e]
    refine State.SameTasks.trans (t := { s with draws := n }) ⟨rfl, rfl, rfl⟩ (State.modCore_sameTasks _ c ?_ ?_)
    · rw [Core.modFlow_cmds, Core.owes_cmds]
    · rw [Core.modFlow_cr, Core.owes_marks]

/-- The core of a command of CTL once the command has left it, its mark complete. -/
def Core.retireCmd (k : Core) (d : Cmd) (m : Fin 32) : Core := { k with cmds := k.cmds.filter fun e => e.uid != d.uid }.setMark m true

/-- The charges of a completed command, and the end of what it waited for (R213). -/
def State.settleCmd (s : State) (d : Cmd) (a : Acct) : State :=
  (((s.countPosted d.core d.uid a).dropReqs (dieOf d.core) d.uid).dropAccesses d.core d.uid).chargeCmd d a

theorem State.settleCmd_sameTasks (s : State) {d : Cmd} {a : Acct} (hq : d.q = .ctl) (ha : a.poison = none) :
    State.SameTasks d.core s (s.settleCmd d a) := by
  have charged : ∀ t : State, t.chargeCmd d a = t.chargeCtl d.core d.x d.pc ((t.core d.core).goneItem d.x d.uid) a := by
    intro t
    simp only [State.chargeCmd, State.chargeAt, hq]
    rfl
  rw [State.settleCmd, charged]
  exact (((State.countPosted_sameTasks ..).trans (State.dropReqs_sameTasks ..)).trans (State.dropAccesses_sameTasks ..)).trans
    (State.chargeCtl_sameTasks _ _ _ _ _ ha)

/-- A command leaves the queue of its die's fabric engine. -/
def State.leaveFabric (s : State) (d : Cmd) : State :=
  if d.body.engine = 8 then s.modDie (dieOf d.core) fun e => { e with fabQ := e.fabQ.filter fun e => e.uid != d.uid } else s

/-- A command of CTL that completes leaves its queue with its mark complete; what follows are its charges (R20, R213). -/
theorem State.finishCmd_ctl (s : State) {d : Cmd} (a : Acct) {m : Fin 32} (hm : d.mark = some m) (hq : d.q = .ctl) :
    s.finishCmd d a = ((s.leaveFabric d).modCore d.core fun k => k.retireCmd d m).settleCmd d (d.acct.join a) := by
  unfold State.finishCmd
  simp only [hm, hq]
  rfl

theorem State.leaveFabric_mem (s : State) (d : Cmd) : (s.leaveFabric d).mem = s.mem := by
  simp only [State.leaveFabric]
  split <;> rfl

theorem State.finishCmd_spec (s : State) {d : Cmd} (a : Acct) {m : Fin 32} (hm : d.mark = some m) (hq : d.q = .ctl)
    (ha : (d.acct.join a).poison = none) :
    ((s.finishCmd d a).core d.core).markDone m = true ∧ (∀ e ∈ ((s.finishCmd d a).core d.core).cmds, e.uid ≠ d.uid) ∧
      (s.finishCmd d a).mem = s.mem := by
  obtain ⟨hmem, hcmds, hmarks⟩ := State.settleCmd_sameTasks ((s.leaveFabric d).modCore d.core fun k => k.retireCmd d m) hq ha
  rw [← State.finishCmd_ctl s a hm hq] at hmem hcmds hmarks
  rw [State.modCore_core_self] at hcmds hmarks
  refine ⟨?_, fun e he => ?_, hmem.trans (State.leaveFabric_mem s d)⟩
  · rw [Core.markDone, hmarks]
    exact (Core.markDone_setMark _ m m true).trans (if_pos rfl)
  · rw [hcmds] at he
    simpa using (List.mem_filter.mp he).2

/-- Settles O30: a started copy or gather that sees the windows as they stand runs at once (`exec_copyCommandComplete`), a whole step of a
copy to local space is `State.runMove_toLocal`, and a completion `State.finishCmd_spec`. -/
theorem engineSteps : Obligations.EngineSteps := by
  unfold Obligations.EngineSteps
  intro s c u n d
  refine ⟨fun hf => ⟨fun h => ?_, fun h => ?_⟩, fun hc hs hw hcore => ?_, fun a m hm hq ha => State.finishCmd_spec s a hm hq ha⟩
  · rw [exec_engineCommandStart hf, if_pos h]
  · rw [exec_engineCommandStart hf, if_neg (Bool.eq_false_iff.mp h)]
  subst hcore
  refine ⟨?_, ?_, ?_⟩
  · intro b tok off loc shape f hb h0
    rw [exec_copyCommandComplete hc hs hw n hb, State.runCopy_empty s d n b tok off loc f h0]
  · intro b h tok off loc count e hb h0
    rw [exec_gatherCommandComplete hc hs hw n hb, State.runGather_empty s d n b tok off loc h h0]
  · intro tok off loc shape f b hb hne hst l g e v
    have hx := exec_copyCommandComplete hc hs hw none hb
    rw [State.runCopy_move s d none false tok off loc f hne] at hx
    have hr : ∀ t, _ = t → exec (.copyCommandComplete d.core ⟨u, none⟩) s = .next t := fun t ht => hx.trans (congrArg Host.Outcome.next ht)
    refine ⟨fun hg => hr _ (State.runMove_reads hst _ hg), fun hg hv => ?_⟩
    obtain ⟨hwait, hend⟩ := State.runMove_toLocal hst State.finishCmd hg hv
    rw [List.length_map] at hwait hend
    exact ⟨fun h => hr _ (hwait h), fun h => hr _ (hend h)⟩

end Sys2Proof.Machine
end

section
/-! PROOFS. Dispatch, start and retirement of tile runs, and the digits of an ordinal (R22 to R24, R109, R201, R333, R337 to R339). -/

namespace Sys2Proof.Machine

/-! ## The digits of an ordinal (R22) -/

/-- The number of index combinations of some levels: the product of the extents of those that count. -/
def levelsTotal (ls : List Level) : Nat := ls.foldr (fun l n => if 2 ≤ l.kind then n * l.extent else n) 1

/-- The digits of a number over some levels, and what is left of it past the first of them. -/
def levelDigits (ls : List Level) (n : Nat) : List Nat × Nat :=
  ls.foldr (fun l (r : List Nat × Nat) => if 2 ≤ l.kind then (r.2 % l.extent :: r.1, r.2 / l.extent) else (0 :: r.1, r.2)) ([], n)

/-- The number that digits over some levels stand for, after the number that the levels before them gave. -/
def digitsValue (ls : List Level) (ds : List Nat) (m : Nat) : Nat :=
  (ls.zip ds).foldl (fun m e => if 2 ≤ e.1.kind then m * e.1.extent + e.2 else m) m

theorem OpRec.indices_eq (o : OpRec) (n : Nat) : o.indices n = (levelDigits o.levels n).1 := rfl

/-- The product from the first level on is the one from the last. -/
theorem foldl_extents (ls : List Level) (m : Nat) :
    ls.foldl (fun n l => if 2 ≤ l.kind then n * l.extent else n) m = m * levelsTotal ls := by
  induction ls generalizing m with
  | nil => simp [levelsTotal]
  | cons l r ih =>
    have hc : levelsTotal (l :: r) = if 2 ≤ l.kind then levelsTotal r * l.extent else levelsTotal r := rfl
    rw [List.foldl_cons, ih, hc]
    split
    · ring
    · rfl

theorem OpRec.total_eq (o : OpRec) : o.total = levelsTotal o.levels := (foldl_extents o.levels 1).trans (Nat.one_mul _)

/-- Past the digits the quotient by the number of combinations is left. -/
theorem levelDigits_rest (ls : List Level) (n : Nat) : (levelDigits ls n).2 = n / levelsTotal ls := by
  induction ls with
  | nil => exact (Nat.div_one n).symm
  | cons l r ih =>
    rw [levelDigits, levelsTotal, List.foldr_cons, List.foldr_cons, ← levelDigits, ← levelsTotal]
    split
    · exact (congrArg (· / l.extent) ih).trans (Nat.div_div_eq_div_mul ..)
    · exact ih

theorem levelDigits_cons (l : Level) (r : List Level) (n : Nat) :
    (levelDigits (l :: r) n).1 = (if 2 ≤ l.kind then n / levelsTotal r % l.extent else 0) :: (levelDigits r n).1 := by
  rw [← levelDigits_rest, levelDigits, List.foldr_cons, ← levelDigits]
  split <;> rfl

theorem levelDigits_length (ls : List Level) (n : Nat) : (levelDigits ls n).1.length = ls.length := by
  induction ls with
  | nil => rfl
  | cons l r ih => simp [levelDigits_cons, ih]

/-- The digits stand for the number modulo the number of combinations. -/
theorem digitsValue_levelDigits (ls : List Level) (n m : Nat) :
    digitsValue ls (levelDigits ls n).1 m = m * levelsTotal ls + n % levelsTotal ls := by
  induction ls generalizing m with
  | nil => simp [digitsValue, levelsTotal, Nat.mod_one]
  | cons l r ih =>
    have hv : digitsValue (l :: r) (levelDigits (l :: r) n).1 m = digitsValue r (levelDigits r n).1
        (if 2 ≤ l.kind then m * l.extent + (if 2 ≤ l.kind then n / levelsTotal r % l.extent else 0) else m) := by
      rw [levelDigits_cons]
      rfl
    have hc : levelsTotal (l :: r) = if 2 ≤ l.kind then levelsTotal r * l.extent else levelsTotal r := rfl
    rw [hv, ih, hc]
    split
    · rw [Nat.mod_mul]
      ring
    · rfl

/-- Each digit is below the extent of its level; a level that does not count has 0. -/
theorem levelDigits_bound {ls : List Level} (h : ∀ l ∈ ls, 2 ≤ l.kind → 1 ≤ l.extent) (n : Nat) :
    ∀ e ∈ ls.zip (levelDigits ls n).1, if 2 ≤ e.1.kind then e.2 < e.1.extent else e.2 = 0 := by
  induction ls with
  | nil => simp
  | cons l r ih =>
    rw [List.forall_mem_cons] at h
    obtain ⟨hl, hr⟩ := h
    rw [levelDigits_cons, List.zip_cons_cons, List.forall_mem_cons]
    refine ⟨?_, ih hr⟩
    split
    next hk => exact Nat.mod_lt _ (hl hk)
    next => rfl

/-! ## Places and assignment (R22, R338) -/

theorem State.placeFor_spec {s : State} {t : Part} {o : OpRec} {ix : List Nat} {c : CoreId} (h : s.placeFor t o ix = some c) :
    (s.core c).isFree = true ∧ t.clusters.getLsbD (clusterOf c).val = true := by
  simp only [State.placeFor] at h
  have hf := List.find?_some h
  simp only [Bool.and_eq_true] at hf
  obtain ⟨⟨hcl, hfree⟩, -⟩ := hf
  exact ⟨hfree, hcl⟩

section
variable (s : State) (k : Queue) (pk : Packet) (o : OpStat) (n : Nat)

theorem State.assign_mem (c : CoreId) : (s.assign k pk o n c).mem = s.mem := rfl

theorem State.assign_core_self (c : CoreId) :
    (s.assign k pk o n c).core c = (s.core c).modAux fun a => { a with next := some (tileRun k pk o n) } :=
  State.modCore_core_self ..

theorem State.assign_core_ne {c d : CoreId} (h : c ≠ d) : (s.assign k pk o n c).core d = s.core d := State.modCore_core_ne _ h _

/-- A core that is given a tile run is no longer free. -/
theorem State.assign_isFree_self (c : CoreId) : ((s.assign k pk o n c).core c).isFree = false := by
  simp [State.assign_core_self, Core.isFree, Core.modAux]

end

theorem State.assignFrom_zero (t : Part) (k : Queue) (pk : Packet) (o : OpStat) (n : Nat) (s : State) :
    State.assignFrom t k pk o 0 n s = some s := rfl

/-- One more tile run to assign: the next one, where it finds a core, and then the others. `placeFor` stands for any choice here, since to
evaluate it is to search all the cores. -/
theorem State.assignFrom_succ (t : Part) (k : Queue) (pk : Packet) (o : OpStat) (left n : Nat) (s : State) :
    State.assignFrom t k pk o (left + 1) n s =
      (s.placeFor t o.op (o.op.indices n)).bind fun c => State.assignFrom t k pk o left (n + 1) (s.assign k pk o n c) := by
  delta State.assignFrom State.assignFrom._f
  generalize State.placeFor = place
  dsimp only [Nat.brecOn]
  cases place s t o.op (o.op.indices n)
  · rfl
  · rfl

/-- Tile runs given in order go to different free cores: each stands in its core's bank at the end, and a core that was not free is as before. -/
theorem State.assignFrom_spec {t : Part} {k : Queue} {pk : Packet} {o : OpStat} {u : State} (left n : Nat) {s : State}
    (h : State.assignFrom t k pk o left n s = some u) :
    (∀ d, (s.core d).isFree = false → u.core d = s.core d) ∧
      ∀ i, n ≤ i → i < n + left → ∃ d, (s.core d).isFree = true ∧ (u.core d).aux.next = some (tileRun k pk o i) := by
  induction left generalizing n s with
  | zero =>
    obtain rfl : s = u := Option.some.inj h
    exact ⟨fun _ _ => rfl, fun i _ _ => by omega⟩
  | succ left ih =>
    rw [State.assignFrom_succ, Option.bind_eq_some_iff] at h
    obtain ⟨c, hc, h⟩ := h
    obtain ⟨hfree, -⟩ := State.placeFor_spec hc
    obtain ⟨hkeep, hgive⟩ := ih (n + 1) h
    have hother {d : CoreId} (hd : c ≠ d) := s.assign_core_ne k pk o n hd
    refine ⟨fun d hd => ?_, fun i hi hlt => ?_⟩
    · have hcd : c ≠ d := by rintro rfl; simp [hfree] at hd
      rw [hkeep d (by rw [hother hcd]; exact hd), hother hcd]
    · rcases Nat.eq_or_lt_of_le hi with rfl | hi
      · refine ⟨c, hfree, ?_⟩
        rw [hkeep c (s.assign_isFree_self ..), s.assign_core_self]
        rfl
      · obtain ⟨d, hd, hn⟩ := hgive i hi (by omega)
        have hcd : c ≠ d := by rintro rfl; simp [s.assign_isFree_self] at hd
        exact ⟨d, by rw [← hother hcd]; exact hd, hn⟩

theorem State.dispatchOf_single {s : State} {t : Part} (k : Queue) (pk : Packet) {o : OpStat} {c : CoreId}
    (h : s.placeFor t o.op (o.op.indices o.dispatched) = some c) (hr : o.op.resident = false) :
    s.dispatchOf t k pk o = some (s.assign k pk o o.dispatched c) := by
  simp [State.dispatchOf, hr, State.assignFrom_succ t k pk o 0, h, State.assignFrom_zero]

theorem State.dispatchOf_resident {s : State} {t : Part} {k : Queue} {pk : Packet} {o : OpStat} {u : State} (hr : o.op.resident = true)
    (h : s.dispatchOf t k pk o = some u) :
    o.total - o.dispatched ≤ 768 ∧ State.assignFrom t k pk o (o.total - o.dispatched) o.dispatched s = some u := by
  by_cases hn : 768 < o.total - o.dispatched
  · simp [State.dispatchOf, hr, hn] at h
  · exact ⟨Nat.le_of_not_lt hn, by simpa [State.dispatchOf, hr, hn] using h⟩

/-! ## Dispatch (R333, R363) -/

theorem State.settle_cores (s : State) (q : Fin 4096) : (s.settle q).cores = s.cores := rfl

theorem State.settle_mem (s : State) (q : Fin 4096) : (s.settle q).mem = s.mem := rfl

theorem exec_tileRunDispatch {s u : State} {p : Fin 16} {t : Part} {k : Queue} (ht : s.hub.parts.at p = some t) (hp : t.pre = .none)
    (hd : s.diesUp = true) (ho : s.offer t (s.offers p t.rr) = some (k, u)) :
    ∃ v : State, exec (.tileRunDispatch p) s = .next v ∧ v.cores = u.cores ∧ v.mem = u.mem := by
  change ∃ v : State, execTileRunDispatch p s = .next v ∧ _
  have hb : (t.pre != .none || !s.diesUp) = false := by simp [hp, hd]
  simp only [execTileRunDispatch, ht, hb, ho, Bool.false_eq_true, if_false]
  refine ⟨_, rfl, ?_⟩
  rw [State.settle_cores, State.settle_mem]
  split
  · simp
  · simp

theorem exec_tileRunDispatch_waits {s : State} {p : Fin 16} {t : Part} (ht : s.hub.parts.at p = some t)
    (h : t.pre ≠ .none ∨ s.diesUp = false) : exec (.tileRunDispatch p) s = .next s := by
  change execTileRunDispatch p s = _
  have hb : (t.pre != .none || !s.diesUp) = true := by simpa using h
  simp only [execTileRunDispatch, ht, hb, if_true]

/-! ## The start (R109, R201, R337) -/

theorem File.at_ofFn {α : Type} {n : Nat} (f : Fin n → α) (i : Fin n) : File.at (Vector.ofFn f) i = f i := by
  simp [File.at]

theorem exec_shadowBankFill_next {s : State} {c : CoreId} {r : TileRun} (h : (s.core c).aux.next = some r) :
    exec (.shadowBankFill c) s = .next (s.fill c ⟨r.queue, r.launch, r.record, r.op⟩) := by
  change execShadowBankFill c s = _
  simp only [execShadowBankFill, h]

/-- A core that runs tile run r from its start: the registers of R109, with the loop indices in every sequencer. -/
structure Core.Begins (u : Core) (r : TileRun) : Prop where
  running : u.mode = .running
  run : u.aux.run = some r
  next : u.aux.next = none
  resv : u.aux.resv = r.op.reserve
  pinBase : u.cr.pinBase = r.op.pinbase
  asid : u.cr.asid = r.op.asid
  trapVec : u.cr.trapVec = r.op.tvec
  marks : u.cr.marks = 0xFFFFFFFF
  pc : ∀ q, (u.flow q 0).pc = 0
  regs : ∀ n : Fin 7, (u.ctx.at 0).s.at n = if n.val < 6 then BitVec.ofNat 64 (r.ix.getD n.val 0) else BitVec.ofNat 64 r.ordinal
  ix : ∀ n : Fin 6, u.ld.ix.at n = BitVec.ofNat 64 (r.ix.getD n.val 0) ∧ u.ex.ix.at n = u.ld.ix.at n ∧ u.st.ix.at n = u.ld.ix.at n
  toks : ∀ n : Fin 16, u.k.at n = r.toks.getD n.val 0
  fmt : ∀ n : Fin 16, u.ex.fmt.at n = r.op.fmt.getD n.val 0
  frames : u.frames = [⟨Fin.ofNat 512 (512 - r.op.frame), r.op.frame, 0, none, 0, false, none, false⟩]

theorem Core.started_ctx (k : Core) (r : TileRun) (m : Bool) : (k.started r m).ctx.at 0 =
    { Ctx.reset with live := true, flow := (k.started r m).ld.flow,
                     s := Vector.ofFn fun n => if n.val < 6 then BitVec.ofNat 64 (r.ix.getD n.val 0) else BitVec.ofNat 64 r.ordinal } :=
  File.at_put_self ..

theorem Core.started_begins (k : Core) (r : TileRun) (m : Bool) : (k.started r m).Begins r := by
  constructor
  case pc =>
    intro q
    cases q
    · exact congrArg (·.flow.pc) (k.started_ctx r m)
    · rfl
    · rfl
    · rfl
  case regs =>
    intro n
    rw [Core.started_ctx]
    exact File.at_ofFn ..
  case ix => exact fun n => ⟨File.at_ofFn .., rfl, rfl⟩
  case toks => exact fun n => File.at_ofFn ..
  case fmt => exact fun n => File.at_ofFn ..
  all_goals rfl

theorem exec_shadowBankSwap {s : State} {c : CoreId} {r : TileRun} (h : (s.core c).aux.next = some r) (hm : (s.core c).mode = .free)
    (hh : (s.core c).aux.hold = false) (hb : (s.core c).aux.shadow = some ⟨r.queue, r.launch, r.record, r.op⟩) (hd : s.depMet r = true) :
    ∃ t : State, exec (.shadowBankSwap c) s = .next t ∧ (t.core c).Begins r := by
  change ∃ t : State, execShadowBankSwap c s = .next t ∧ _
  simp only [execShadowBankSwap, h, hm, hh, hb, hd, bne_self_eq_false, Bool.or_false, Bool.not_true, Bool.false_eq_true, if_false]
  refine ⟨_, rfl, ?_⟩
  rw [State.modSett_core, State.modCore_core_self]
  exact Core.started_begins ..

theorem exec_shadowBankSwap_waits {s : State} {c : CoreId} {r : TileRun} (h : (s.core c).aux.next = some r)
    (hw : (s.core c).mode ≠ .free ∨ (s.core c).aux.shadow = none) : exec (.shadowBankSwap c) s = .next s := by
  change execShadowBankSwap c s = _
  have hb : ((s.core c).mode != .free || (s.core c).aux.hold || (s.core c).aux.shadow != some ⟨r.queue, r.launch, r.record, r.op⟩ ||
      !s.depMet r) = true := by
    rcases hw with hw | hw
    · simp [hw]
    · simp [hw]
  simp only [execShadowBankSwap, h, hb, if_true]

/-! ## Retirement (R24, R339) -/

/-- The count of a retired tile run is in its packet: the cores are as before. -/
theorem State.countRun_cores (s : State) (r : TileRun) : (s.countRun r).cores = s.cores := rfl

theorem State.dropContext_cores (s : State) (asid : BitVec 11) (base : BitVec 52) : (s.dropContext asid base).cores = s.cores := by
  rw [State.dropContext]
  split
  · rfl
  · rfl

/-- The core whose tile run retires or has ended. -/
def Core.isDone (k : Core) : Bool := (k.mode == .running && k.allHalted && k.postsApplied) || k.mode == .ended

theorem exec_tileRunRetire {s : State} {c : CoreId} {r : TileRun} (h : (s.core c).aux.run = some r) (hk : (s.core c).isDone = true)
    (hd : s.drained c = true) :
    ∃ (t : State) (k : Core), exec (.tileRunRetire c) s = .next t ∧ t.core c = k.retired := by
  change ∃ (t : State) (k : Core), execTileRunRetire c s = .next t ∧ t.core c = k.retired
  rw [Core.isDone] at hk
  simp only [execTileRunRetire, h, hk, hd, Bool.not_true, Bool.or_false, Bool.false_eq_true, if_false]
  refine ⟨_, (((s.mergeCore c).endLease c).dropWait c).core c, rfl, ?_⟩
  rw [State.core, State.dropContext_cores, State.countRun_cores]
  exact State.modCore_core_self ..

theorem exec_tileRunRetire_waits {s : State} {c : CoreId} {r : TileRun} (h : (s.core c).aux.run = some r)
    (hd : s.drained c = false) : exec (.tileRunRetire c) s = .next s := by
  change execTileRunRetire c s = _
  simp only [execTileRunRetire, h, hd, Bool.not_false, Bool.or_true, if_true]

/-- Settles O44: the tile runs of a resident operator go to different cores because a core given one is free no more
(`State.assignFrom_spec`), and the digits of an ordinal follow by induction on the levels (`digitsValue_levelDigits`). -/
theorem tileRuns : Obligations.TileRuns := by
  unfold Obligations.TileRuns
  refine ⟨fun s c p => ⟨?_, ?_, ?_, ?_, ?_, ?_⟩, fun o n hl hn => ⟨levelDigits_length .., ?_, levelDigits_bound hl n⟩⟩
  case refine_1 => exact fun t k u => exec_tileRunDispatch
  case refine_2 => exact fun t => exec_tileRunDispatch_waits
  case refine_3 =>
    intro t k pk o hp hr
    obtain ⟨hfree, hcl⟩ := State.placeFor_spec hp
    refine ⟨hfree, hcl, _, tileRun k pk o o.dispatched, State.dispatchOf_single k pk hp hr, ?_, rfl, rfl, rfl, rfl, rfl, rfl, rfl,
      State.assign_mem .., fun d hd => State.assign_core_ne _ _ _ _ _ hd.symm⟩
    rw [State.assign_core_self]
    rfl
  case refine_4 =>
    intro t k pk o u hr hu
    obtain ⟨hle, ha⟩ := State.dispatchOf_resident hr hu
    obtain ⟨-, hgive⟩ := State.assignFrom_spec _ _ ha
    exact ⟨hle, fun n hn hlt => hgive n hn (by omega)⟩
  case refine_5 =>
    intro r h
    refine ⟨exec_shadowBankFill_next h, fun hm hh hb hd => ?_, exec_shadowBankSwap_waits h⟩
    obtain ⟨t, ht, hu⟩ := exec_shadowBankSwap h hm hh hb hd
    exact ⟨t, ht, hu.running, hu.run, hu.next, hu.resv, hu.pinBase, hu.asid, hu.trapVec, hu.marks, hu.pc, hu.regs, hu.ix, hu.toks, hu.fmt,
      hu.frames⟩
  case refine_6 =>
    intro r h
    refine ⟨fun hw hd => ?_, exec_tileRunRetire_waits h⟩
    have hk : (s.core c).isDone = true := by simpa [Core.isDone, and_assoc] using hw
    obtain ⟨t, k, ht, hu⟩ := exec_tileRunRetire h hk hd
    refine ⟨t, ht, ?_⟩
    rw [hu]
    exact ⟨rfl, rfl, rfl, rfl, rfl, rfl⟩
  case refine_7 =>
    rw [OpRec.total_eq] at hn
    calc digitsValue o.levels (o.indices n) 0 = 0 * levelsTotal o.levels + n % levelsTotal o.levels := digitsValue_levelDigits ..
      _ = n := by rw [Nat.zero_mul, Nat.zero_add, Nat.mod_eq_of_lt hn]

end Sys2Proof.Machine
end

section
/-! PROOFS. The bytes that an access through a token reads and writes (R43, R136). Once every update-only line has merged, the L1 of no core
stands between an access and memory (R105): its reads and writes only move lines, as `State.Merged` follows them. -/

namespace Sys2Proof.Machine

/-! ## Bytes written one after another -/

/-- The bytes with a list of addresses written, each with its byte, the first of the list first. -/
def Bytes.put (m : Bytes) (l : List (Nat × Byte)) : Bytes := l.foldl (fun m e => m.set e.1 e.2) m

theorem Bytes.put_cons (m : Bytes) (e : Nat × Byte) (l : List (Nat × Byte)) : m.put (e :: l) = (m.set e.1 e.2).put l := rfl

/-- An address that is not written keeps its byte. -/
theorem Bytes.get_put_of_notMem {m : Bytes} (h : m.wf = true) {l : List (Nat × Byte)} {a : Nat} (ha : a ∉ l.map (·.1)) :
    (m.put l).get a = m.get a := by
  induction l generalizing m with
  | nil => rfl
  | cons e l ih =>
    rw [List.map_cons, List.mem_cons, not_or] at ha
    obtain ⟨hne, hl⟩ := ha
    rw [Bytes.put_cons, ih (Bytes.set_wf h e.1 e.2) hl, Bytes.get_set_ne h (Ne.symm hne)]

/-- An address that is written once reads as written. -/
theorem Bytes.get_put_of_mem {m : Bytes} (h : m.wf = true) {l : List (Nat × Byte)} (hn : (l.map (·.1)).Nodup) {p : Nat × Byte}
    (hp : p ∈ l) : (m.put l).get p.1 = p.2 := by
  induction l generalizing m with
  | nil => exact absurd hp List.not_mem_nil
  | cons e l ih =>
    rw [List.map_cons, List.nodup_cons] at hn
    obtain ⟨he, hl⟩ := hn
    have hw := Bytes.set_wf h e.1 e.2
    rw [Bytes.put_cons]
    rcases List.mem_cons.mp hp with rfl | hp
    · rw [Bytes.get_put_of_notMem hw he, Bytes.get_set_self h]
    · exact ih hw hl hp

theorem State.putBytes_mem (s : State) (l : List (Nat × Byte)) : (s.putBytes l).mem = s.mem.put l := by
  simp only [State.putBytes, State.cleanse]
  split <;> rfl

/-- An access through a token that is not watched leaves no trace with the race detector (R107). -/
theorem State.watchIn_off (s : State) (w : Who) (keys : List Nat) (write atomic : Bool) (sc : Scope) (seen : Seen) :
    s.watchIn w false keys write atomic sc seen = ⟨s, false, seen⟩ := rfl

/-! ## The L1 once every update-only line has merged (R105, R199, R277) -/

/-- No core holds an update-only line, and memory holds the bytes `m`. -/
structure State.Merged (s : State) (m : Bytes) : Prop where
  mem : s.mem = m
  lines : ∀ c l, l ∈ (s.core c).l1 → l.isUpdate = false

namespace State.Merged

variable {s : State} {m : Bytes}

theorem l1Find_isUpdate (h : s.Merged m) {c : CoreId} {line : Nat} {l : L1Line} (hl : (s.core c).l1Find line = some l) :
    l.isUpdate = false := h.lines c l (List.mem_of_find?_eq_some hl)

/-- A change of a core that adds no update-only line. -/
theorem modCore (h : s.Merged m) {c : CoreId} {f : Core → Core} (hf : ∀ l ∈ (f (s.core c)).l1, l.isUpdate = false) :
    (s.modCore c f).Merged m := by
  refine ⟨h.mem, fun d l hl => ?_⟩
  by_cases e : c = d
  · subst e
    rw [State.modCore_core_self] at hl
    exact hf l hl
  · rw [State.modCore_core_ne s e] at hl
    exact h.lines d l hl

theorem l1Drop (h : s.Merged m) (c : CoreId) (line : Nat) : (s.modCore c fun k => k.l1Drop line).Merged m :=
  h.modCore fun l hl => h.lines c l (List.mem_of_mem_filter hl)

theorem mergeLine (h : s.Merged m) (c : CoreId) (line : Nat) : s.mergeLine c line = s := by
  unfold State.mergeLine
  split
  · next hl => exact nomatch h.l1Find_isUpdate hl
  · rfl

theorem dropCopies (h : s.Merged m) (line : Nat) : (s.dropCopies line).Merged m := by
  refine ⟨h.mem, fun c l hl => h.lines c l ?_⟩
  have e : (s.dropCopies line).core c = if (s.core c).l1.any fun l => l.line == line && !l.isUpdate then
      { s.core c with l1 := (s.core c).l1.filter fun l => !(l.line == line && !l.isUpdate) } else s.core c := by
    simp [State.dropCopies, State.core, File.at]
  rw [e] at hl
  split at hl
  · exact List.mem_of_mem_filter hl
  · exact hl

theorem homeWrite (h : s.Merged m) (line : Nat) : (s.homeWrite line).Merged m := by
  rw [State.homeWrite, State.mergeAll_quiet h.lines]
  exact h.dropCopies line

/-- A line that is not update-only enters an L1, a line of a full set being replaced. -/
theorem l1Put (h : s.Merged m) (c : CoreId) (line : Nat) (secs : BitVec 4) {st : L1State}
    (hst : ∀ n, L1Line.isUpdate ⟨line, secs, st, n⟩ = false) : (s.l1Put c line secs st).Merged m := by
  have enter : ∀ {t : State} {n : Core → Nat}, t.Merged m →
      (t.modCore c fun k => { k with l1 := ⟨line, secs, st, n k⟩ :: k.l1 }).Merged m := fun ht => ht.modCore fun l hl => by
    rcases List.mem_cons.mp hl with rfl | hl
    · exact hst _
    · exact ht.lines c l hl
  have hd := h.l1Drop c line
  simp only [State.l1Put]
  split
  · exact enter hd
  · rw [hd.mergeLine]
    exact enter (hd.l1Drop c _)

theorem l1Read (h : s.Merged m) (c : CoreId) (line : Nat) (secs : BitVec 4) : (s.l1Read c line secs).Merged m := by
  simp only [State.l1Read, h.mergeLine, State.homeRead_quiet h.lines]
  split
  · next l hl =>
    have hst := h.l1Find_isUpdate hl
    split
    · exact h.l1Put c line _ fun _ => hst
    · exact h.l1Put c line _ fun _ => hst
  · exact h.l1Put c line _ fun _ => rfl

theorem l1Write (h : s.Merged m) (c : CoreId) (line : Nat) (secs : BitVec 4) : (s.l1Write c line secs).Merged m := by
  simp only [State.l1Write, h.mergeLine]
  split
  · exact h.l1Put c line _ fun _ => rfl
  · exact (h.homeWrite line).l1Put c line _ fun _ => rfl
  · exact (h.homeWrite line).l1Put c line _ fun _ => rfl

theorem l1Reads (h : s.Merged m) (c : CoreId) (lines : List Nat) (secs : Nat → BitVec 4) :
    (lines.foldl (fun t l => t.l1Read c l (secs l)) s).Merged m :=
  List.foldlRecOn (motive := fun t => State.Merged t m) lines _ h fun _ ht l _ => ht.l1Read c l (secs l)

theorem l1Writes (h : s.Merged m) (c : CoreId) (lines : List Nat) (secs : Nat → BitVec 4) :
    (lines.foldl (fun t l => t.l1Write c l (secs l)) s).Merged m :=
  List.foldlRecOn (motive := fun t => State.Merged t m) lines _ h fun _ ht l _ => ht.l1Write c l (secs l)

/-! ## Places read and written -/

theorem readKeys (h : s.Merged m) (w : Who) (ks : List (Option (Nat × Bool))) (sc : Option Scope) (seen : Seen) :
    (s.readKeys w false ks sc seen).data = some (ks.map fun k => k.elim 0 fun p => m.get p.1) ∧
      (s.readKeys w false ks sc seen).s.mem = m := by
  simp only [State.readKeys, State.watchIn_off, (h.l1Reads w.core _ _).mem, and_true]
  refine congrArg some (List.map_congr_left fun k _ => ?_)
  cases k <;> rfl

theorem writeKeys (h : s.Merged m) (w : Who) (sc : Scope) (kv : List (Option (Nat × Bool) × Byte)) (seen : Seen) :
    (s.writeKeys w false sc kv seen).s.mem = m.put (kv.filterMap fun e => e.1.map fun k => (k.1, e.2)) := by
  simp only [State.writeKeys, State.watchIn_off, State.putBytes_mem, (h.l1Writes w.core _ _).mem]

end State.Merged

/-! ## An access performed whole -/

theorem State.dropAccess_of_none {s : State} {c : CoreId} {uid base : Nat} (h : (s.core c).access uid base = none) :
    s.dropAccess c uid base = s := by
  simp [State.dropAccess, h]

/-- An access of which nothing is under way is looked up now. -/
theorem State.lookup_of_none {s : State} {c : CoreId} {uid base : Nat} (h : (s.core c).access uid base = none) (tok : W64) (rd wr : Bool) :
    s.lookup c uid base tok rd wr = s.pin c tok rd wr := by
  simp [State.lookup, h]

theorem State.accessOf_of_none {s : State} {c : CoreId} {uid base : Nat} (h : (s.core c).access uid base = none) (pin : Option Pin)
    (tok : W64) : s.accessOf c uid base pin tok =
      Access.fresh uid base pin ((s.core c).cr.pinBase, tokIndex tok) ((s.core c).modeOf uid) := by
  simp [State.accessOf, h]

/-- An access without parts performs every position that is left. -/
theorem How.all_pick (all todo : List (Nat × Nat)) : How.all.pick all todo = todo.map (·.1) := How.pick_all .whole all todo

theorem How.all_ready (i : Nat) : How.all.ready i = true := rfl

theorem How.all_clash : How.all.clash = none := rfl

theorem State.readPart_all (s : State) (w : Who) {a : Access} (hd : a.done = []) (watched : Bool) (ks : List (Option (Nat × Bool)))
    (sc : Option Scope) :
    s.readPart w a watched ks sc How.all = (s.dropAccess w.core a.uid a.base).readKeys w watched ks sc ⟨a.mode, a.secs⟩ := by
  simp [State.readPart, How.all_pick, hd]

theorem State.writePart_all (s : State) (w : Who) {a : Access} (hd : a.done = []) (watched : Bool) (sc : Scope)
    (kv : List (Option (Nat × Bool) × Byte)) :
    s.writePart w a watched sc kv How.all = (s.dropAccess w.core a.uid a.base).writeKeys w watched sc kv ⟨a.mode, a.secs⟩ := by
  simp [State.writePart, How.all_pick, How.all_ready, How.all_clash, hd]

/-! ## Through a token (R43, R136) -/

/-- The place of an offset of a token whose entry has a length and runs: none past the extent (R43). -/
def tokPlace (tok : W64) (len : Nat) (runs : List Run) (o : Nat) : Option (Nat × Bool) :=
  if o < min len (tokLen tok) then locate runs o else none

section
variable {s u : State} {w : Who} {uid pb : Nat} {tok : W64} {rd wr lost : Bool} {len : Nat} {runs : List Run}

theorem State.tokRead_stale (hs : (s.core w.core).access uid pb = none) (hu : (u.core w.core).access uid pb = none)
    (hp : s.pin w.core tok rd wr = (.stale lost, u)) (offs : List Nat) (sc : Option Scope) :
    (s.tokRead w uid pb tok offs rd wr sc).data = some (offs.map fun _ => 0) ∧ (s.tokRead w uid pb tok offs rd wr sc).s = u := by
  simp only [State.tokRead, State.lookup_of_none hs, hp, State.dropAccess_of_none hu, and_self]

theorem State.tokWrite_stale (hs : (s.core w.core).access uid pb = none) (hu : (u.core w.core).access uid pb = none)
    (hp : s.pin w.core tok false true = (.stale lost, u)) (kv : List (Nat × Byte)) (word : Option W32) (sc : Scope) :
    (s.tokWrite w uid pb tok kv word sc).s = u := by
  simp only [State.tokWrite, State.lookup_of_none hs, hp, State.dropAccess_of_none hu]

/-- A read through the token of a resident entry reads the places of its offsets. -/
theorem State.tokRead_near (hs : (s.core w.core).access uid pb = none) (hu : (u.core w.core).access uid pb = none)
    (hp : s.pin w.core tok rd wr = (.near len runs, u)) (offs : List Nat) (sc : Option Scope) :
    s.tokRead w uid pb tok offs rd wr sc =
      u.readKeys w (tokWatch tok) (offs.map (tokPlace tok len runs)) sc ⟨(u.core w.core).modeOf uid, []⟩ := by
  simp only [State.tokRead, State.lookup_of_none hs, hp, State.accessOf_of_none hu]
  rw [State.readPart_all u w rfl]
  simp only [Access.fresh, State.dropAccess_of_none hu]
  rfl

/-- A write through the token of a resident entry writes the places of its offsets, where no divided atomic is under way (R189). -/
theorem State.tokWrite_near (hs : (s.core w.core).access uid pb = none) (hu : (u.core w.core).access uid pb = none)
    (hh : u.hub.halves = []) (hp : s.pin w.core tok false true = (.near len runs, u)) (kv : List (Nat × Byte)) (word : Option W32)
    (sc : Scope) :
    s.tokWrite w uid pb tok kv word sc =
      u.writeKeys w (tokWatch tok) sc (kv.map fun e => (tokPlace tok len runs e.1, e.2)) ⟨(u.core w.core).modeOf uid, []⟩ := by
  simp only [State.tokWrite, State.lookup_of_none hs, hp, State.accessOf_of_none hu, hh, List.isEmpty_nil, Bool.not_true, Bool.false_and,
    Bool.false_eq_true, if_false]
  rw [State.writePart_all u w rfl]
  simp only [Access.fresh, State.dropAccess_of_none hu]
  rfl

end

/-- Settles O21: a whole access is a read or write of the places of its offsets (`State.tokRead_near`, `State.tokWrite_near`), which, with
every update-only line merged, touches memory only there (`State.Merged.readKeys`, `State.Merged.writeKeys`). -/
theorem tokenAccess : Obligations.TokenAccess := by
  unfold Obligations.TokenAccess
  intro s u w uid pb tok rd wr offs kv word sc hwf hquiet hwatch hs hu hh
  have merged : u.mem = s.mem → u.cores = s.cores → u.Merged s.mem := fun hm hc =>
    ⟨hm, fun c => by rw [State.core, hc]; exact hquiet c⟩
  refine ⟨fun lost hp => State.tokRead_stale hs hu hp offs none, fun lost hp => State.tokWrite_stale hs hu hp kv word sc, ?_, ?_⟩
  · intro len runs hp hm hc
    obtain ⟨hdata, hmem⟩ := (merged hm hc).readKeys w (offs.map (tokPlace tok len runs)) none ⟨(u.core w.core).modeOf uid, []⟩
    rw [State.tokRead_near hs hu hp, hwatch]
    refine ⟨hdata.trans (congrArg some ?_), hmem⟩
    rw [List.map_map]
    refine List.map_congr_left fun o _ => ?_
    simp only [Function.comp, tokPlace]
    split
    · cases locate runs o <;> rfl
    · rfl
  · intro len runs hp hm hc places t
    have hplaces : (kv.map fun e => (tokPlace tok len runs e.1, e.2)).filterMap (fun e => e.1.map fun k => (k.1, e.2)) = places := by
      rw [List.filterMap_map]
      refine List.filterMap_congr fun e _ => ?_
      simp only [Function.comp, tokPlace]
      split <;> rfl
    have ht : t.mem = s.mem.put places := by
      simp only [t, State.tokWrite_near hs hu hh hp, hwatch]
      rw [(merged hm hc).writeKeys, hplaces]
    rw [ht]
    exact ⟨fun a => Bytes.get_put_of_notMem hwf, fun hn p => Bytes.get_put_of_mem hwf hn⟩

end Sys2Proof.Machine
end

section
/-! PROOFS. Encoding, decoding, and the step that runs what it decodes (R46 to R63, R11). -/

namespace Sys2Proof.Laws.Encoding

/-- The round trip of every instruction. -/
theorem decodeBytes_encode (i : Instr) : Statement i := by
  cases i with
  | nop => apply nop
  | halt => apply halt
  | pbr => apply pbr
  | br => apply br
  | loop => apply loop
  | loopI => apply loopI
  | lb => apply lb
  | lx => apply lx
  | budget => apply budget
  | mwait => apply mwait
  | gen => apply gen
  | phase => apply phase
  | seg => apply seg
  | recv => apply recv
  | add => apply add
  | addS => apply addS
  | sub => apply sub
  | subS => apply subS
  | and => apply and
  | or => apply or
  | xor => apply xor
  | shl => apply shl
  | shr => apply shr
  | sra => apply sra
  | mul => apply mul
  | mulS => apply mulS
  | mulh => apply mulh
  | mulhn => apply mulhn
  | div => apply div
  | divn => apply divn
  | rem => apply rem
  | remn => apply remn
  | min => apply min
  | max => apply max
  | minn => apply minn
  | maxn => apply maxn
  | clz => apply clz
  | popc => apply popc
  | addi => apply addi
  | andi => apply andi
  | ori => apply ori
  | xori => apply xori
  | shli => apply shli
  | shri => apply shri
  | srai => apply srai
  | li => apply li
  | lih => apply lih
  | cmp => apply cmp
  | cmpi => apply cmpi
  | pset => apply pset
  | sel => apply sel
  | ext => apply ext
  | ins => apply ins
  | pbrr => apply pbrr
  | call => apply call
  | enter => apply enter
  | ret => apply ret
  | relc => apply relc
  | tjoin => apply tjoin
  | tend => apply tend
  | xlat => apply xlat
  | xlatR => apply xlatR
  | xrel => apply xrel
  | xinfo => apply xinfo
  | bind => apply bind
  | unbind => apply unbind
  | lds => apply lds
  | sts => apply sts
  | amo => apply amo
  | cas => apply cas
  | acq => apply acq
  | rel => apply rel
  | fence => apply fence
  | fenceAcq => apply fenceAcq
  | fenceRel => apply fenceRel
  | fenceAll => apply fenceAll
  | wadr => apply wadr
  | wfe => apply wfe
  | sev => apply sev
  | send => apply send
  | bqp => apply bqp
  | win => apply win
  | trap => apply trap
  | rett => apply rett
  | ecall => apply ecall
  | brk => apply brk
  | mfc => apply mfc
  | mtc => apply mtc
  | bk => apply bk
  | bkred => apply bkred
  | wqPush => apply wqPush
  | wqPop => apply wqPop
  | wqPeek => apply wqPeek
  | xall => apply xall
  | fred => apply fred
  | fput => apply fput
  | fget => apply fget
  | famo => apply famo
  | fbar => apply fbar
  | ldq => apply ldq
  | stq => apply stq
  | strel => apply strel
  | pf => apply pf
  | upd => apply upd
  | aadd => apply aadd
  | aaddi => apply aaddi
  | ali => apply ali
  | acmp => apply acmp
  | ldsp => apply ldsp
  | stsp => apply stsp
  | gth => apply gth
  | sct => apply sct
  | faddF32 => apply faddF32
  | faddBf16 => apply faddBf16
  | fsubF32 => apply fsubF32
  | fsubBf16 => apply fsubBf16
  | fmulF32 => apply fmulF32
  | fmulBf16 => apply fmulBf16
  | fmaF32 => apply fmaF32
  | fmaBf16 => apply fmaBf16
  | fmsF32 => apply fmsF32
  | fmsBf16 => apply fmsBf16
  | fnmaF32 => apply fnmaF32
  | fnmaBf16 => apply fnmaBf16
  | fmaxF32 => apply fmaxF32
  | fmaxBf16 => apply fmaxBf16
  | fminF32 => apply fminF32
  | fminBf16 => apply fminBf16
  | fcmpF32 => apply fcmpF32
  | fcmpBf16 => apply fcmpBf16
  | fselF32 => apply fselF32
  | fselBf16 => apply fselBf16
  | funaF32 => apply funaF32
  | exp2F32 => apply exp2F32
  | lg2F32 => apply lg2F32
  | rcpF32 => apply rcpF32
  | rsqF32 => apply rsqF32
  | iaddI32 => apply iaddI32
  | iaddI16 => apply iaddI16
  | iaddI8 => apply iaddI8
  | iaddI32S => apply iaddI32S
  | iaddI16S => apply iaddI16S
  | iaddI8S => apply iaddI8S
  | iaddN32S => apply iaddN32S
  | iaddN16S => apply iaddN16S
  | iaddN8S => apply iaddN8S
  | isubI32 => apply isubI32
  | isubI16 => apply isubI16
  | isubI8 => apply isubI8
  | isubI32S => apply isubI32S
  | isubI16S => apply isubI16S
  | isubI8S => apply isubI8S
  | isubN32S => apply isubN32S
  | isubN16S => apply isubN16S
  | isubN8S => apply isubN8S
  | imulI32 => apply imulI32
  | imulI16 => apply imulI16
  | imulI8 => apply imulI8
  | imacI32 => apply imacI32
  | imacI16 => apply imacI16
  | imacI8 => apply imacI8
  | iand => apply iand
  | ior => apply ior
  | ixor => apply ixor
  | ishlI32 => apply ishlI32
  | ishlI16 => apply ishlI16
  | ishlI8 => apply ishlI8
  | ishrI32 => apply ishrI32
  | ishrI16 => apply ishrI16
  | ishrI8 => apply ishrI8
  | israI32 => apply israI32
  | israI16 => apply israI16
  | israI8 => apply israI8
  | iminI32 => apply iminI32
  | iminI16 => apply iminI16
  | iminI8 => apply iminI8
  | iminN32 => apply iminN32
  | iminN16 => apply iminN16
  | iminN8 => apply iminN8
  | imaxI32 => apply imaxI32
  | imaxI16 => apply imaxI16
  | imaxI8 => apply imaxI8
  | imaxN32 => apply imaxN32
  | imaxN16 => apply imaxN16
  | imaxN8 => apply imaxN8
  | icmpI32 => apply icmpI32
  | icmpI16 => apply icmpI16
  | icmpI8 => apply icmpI8
  | mov => apply mov
  | movMasked => apply movMasked
  | bcst => apply bcst
  | perm => apply perm
  | rot => apply rot
  | redF32 => apply redF32
  | redI32 => apply redI32
  | scanF32 => apply scanF32
  | cvt => apply cvt
  | qmax => apply qmax
  | qcvt => apply qcvt
  | deq => apply deq
  | zld => apply zld
  | zst => apply zst
  | mset => apply mset
  | mlog => apply mlog
  | zli => apply zli
  | lse => apply lse
  | lsr => apply lsr
  | mma => apply mma
  | mmaz => apply mmaz
  | mmov => apply mmov
  | mclr => apply mclr
  | dset => apply dset
  | fmtset => apply fmtset
  | fmtsetFbase => apply fmtsetFbase
  -- a step of another agent stands in no stream
  | _ => exact fun _ _ h => (no_stream (Instr.streams_of_wf h)).elim

/-- Settles O1, by the round trip of each instruction. -/
theorem encodeDecode : Obligations.EncodeDecode := by
  unfold Obligations.EncodeDecode
  exact fun i q rest => decodeBytes_encode i q rest

/-- Settles O3: each word decodes by computation. -/
theorem decodeSamples : Obligations.DecodeSamples := by
  unfold Obligations.DecodeSamples
  exact ⟨rfl, rfl, rfl, rfl, rfl, rfl, rfl, rfl, rfl, rfl, rfl, rfl, rfl⟩

end Sys2Proof.Laws.Encoding

namespace Sys2Proof.Machine

/-! ## A step runs what the bytes at the PC decode to (R63, R11) -/

theorem step_issue {s : State} {c : CoreId} {q : Seq} {x : Fin 4} {r : List Turn} (h : s.agenda = .issue c q x :: r) :
    step s = ({ s with agenda := r } : State).issueTurn c q x := by
  rw [step, h]; rfl

theorem step_event {s : State} {e : Instr} {r : List Turn} (h : s.agenda = .event e :: r) :
    step s = ({ s with agenda := r } : State).eventTurn e := by
  rw [step, h]; rfl

theorem State.eventTurn_of_encode_nil {s : State} {e : Instr} (h : encode .ctl e = []) : s.eventTurn e = exec e s := by
  rw [State.eventTurn, h]

section
variable {s u : State} {c : CoreId} {q : Seq} {x : Fin 4}

theorem State.issueTurn_poison {n : Nat} (h : (s.atTurn c q x).fetch = (.poison n, u)) :
    s.issueTurn c q x = .next (u.fetchError n) := by
  simp only [State.issueTurn, h]

theorem State.issueTurn_ok {b : List (Nat × Byte)} {i : Instr} (h : (s.atTurn c q x).fetch = (.bytes b, u))
    (hd : (decodeBytes q (bytesAt b (s.atTurn c q x).fetchKeys)).1 = .ok i) : s.issueTurn c q x = exec i u := by
  simp only [State.issueTurn, h, hd]

theorem State.issueTurn_bad {b : List (Nat × Byte)} {n : Nat} (h : (s.atTurn c q x).fetch = (.bytes b, u))
    (hd : (decodeBytes q (bytesAt b (s.atTurn c q x).fetchKeys)).1 = .bad n) :
    s.issueTurn c q x = .next (u.illegalWord n) := by
  simp only [State.issueTurn, h, hd]

end

/-- Bytes by place that are a memory's, and hold every place of a list, are read in its order as the memory's. -/
theorem bytesAt_eq_map_get {b : List (Nat × Byte)} {keys : List Nat} {m : Bytes} (hm : ∀ e ∈ b, e.2 = m.get e.1)
    (hall : ∀ a ∈ keys, ∃ e ∈ b, e.1 = a) : bytesAt b keys = keys.map m.get := by
  refine List.map_congr_left fun a ha => ?_
  obtain ⟨e, he, hea⟩ := hall a ha
  cases hf : b.find? fun e => e.1 == a with
  | none => exact absurd (List.find?_eq_none.mp hf e he) (by simp [hea])
  | some e' =>
    have hplace : e'.1 = a := by simpa using List.find?_some hf
    simp [hm e' (List.mem_of_find?_eq_some hf), hplace]

/-- The lines of a list of places are those of its places. -/
theorem mem_linesOf {keys : List Nat} {l : Nat} : l ∈ linesOf keys ↔ ∃ a ∈ keys, lineOf a = l := by
  have step : ∀ (keys acc : List Nat), l ∈ keys.foldl (fun ls k => if ls.contains (lineOf k) then ls else ls ++ [lineOf k]) acc ↔
      l ∈ acc ∨ ∃ a ∈ keys, lineOf a = l := by
    intro keys
    induction keys with
    | nil => simp
    | cons k keys ih =>
      intro acc
      rw [List.foldl_cons, ih]
      split <;> grind
  simpa [linesOf] using step keys []

/-- Where the instruction cache agrees with memory, no update-only line is held and no place is poisoned, a fetch brings the bytes of memory. -/
theorem State.fetch_spec {t : State} (ha : CodeAgrees t t.cur.core t.cur.q t.fetchKeys) (hq : NoUpdates t)
    (hp : t.poisoned t.fetchKeys = none) :
    ∃ b u, t.fetch = (.bytes b, u) ∧ bytesAt b t.fetchKeys = t.fetchKeys.map t.mem.get ∧ SameButCode t u := by
  obtain ⟨b, u, hf, hsame, hmem, hall⟩ := State.fetchLines_spec t.cur.core t.cur.q t.fetchKeys (linesOf t.fetchKeys) t hq ha hp
  refine ⟨b, u, hf, bytesAt_eq_map_get hmem fun a h => hall a h (mem_linesOf.mpr ⟨a, h, rfl⟩), hsame⟩

/-- Settles O2: a turn is `State.issueTurn` or `State.eventTurn`, case by case; what a fetch brings from a cache that agrees with memory is
`State.fetch_spec`. -/
theorem stepRunsDecoded : Obligations.StepRunsDecoded := by
  unfold Obligations.StepRunsDecoded
  intro s r
  refine ⟨?_, fun e h he => ?_⟩
  · intro c q x h t
    refine ⟨fun n u hf => ?_, fun b u hf => ⟨fun i hi => ?_, fun n hn => ?_⟩, fun ha hq hp => ?_⟩
    · rw [step_issue h, State.issueTurn_poison hf]
    · rw [step_issue h, State.issueTurn_ok hf hi]
    · rw [step_issue h, State.issueTurn_bad hf hn]
    · obtain ⟨b, u, hf, hb, hmem, -, hhub, hcur, hcore⟩ := State.fetch_spec (t := t) ha hq hp
      exact ⟨b, u, hf, hb, hmem, hhub, hcur, hcore⟩
  · rw [step_event h, State.eventTurn_of_encode_nil he]

end Sys2Proof.Machine
end

section
/-! PROOFS. The special values of EX's arithmetic (R69, R71, R72, R248, R249, R251, R252). -/

namespace Sys2Proof.Machine

/-! ## NaNs among values -/

theorem FV.eq_nan_of_isNaN {x : FV} (h : x.isNaN = true) : ∃ s, x = .nan s := by
  cases x with
  | nan s => exact ⟨s, rfl⟩
  | inf _ | fin _ _ _ => cases h

theorem FV.lt_of_isNaN {x y : FV} (h : x.isNaN = true ∨ y.isNaN = true) : x.lt y = false := by
  rcases h with h | h <;> obtain ⟨s, rfl⟩ := FV.eq_nan_of_isNaN h
  · rfl
  · cases x <;> rfl

theorem FV.eqv_of_isNaN {x y : FV} (h : x.isNaN = true ∨ y.isNaN = true) : x.eqv y = false := by
  rcases h with h | h <;> simp [FV.eqv, h]

/-- NV reports signalling NaNs only (R71, R72). -/
theorem snanFlag_of_not_isNaN {l : List FV} (h : ∀ v ∈ l, v.isNaN = false) : snanFlag l = 0 := by
  refine if_neg fun hs => ?_
  obtain ⟨v, hv, he⟩ := List.any_eq_true.mp hs
  rw [eq_of_beq he] at hv
  exact Bool.noConfusion (h _ hv)

theorem snanFlag_nan (s : Bool) : snanFlag [.nan s] = if s then flNV else 0 := by
  cases s <;> rfl

/-! ## Words of two and three operands: a NaN among the operands, and none (R71, R248, R249, R252) -/

section
variable {p : Prec} {m : RMode} {a b : Nat}

section
variable (h : (fpVal p a).isNaN = true ∨ (fpVal p b).isNaN = true)
include h

theorem fpAdd_of_isNaN : fpAdd p m a b = (fpNaN p, snanFlag [fpVal p a, fpVal p b]) :=
  if_pos (Bool.or_eq_true_iff.mpr h)

theorem fpSub_of_isNaN : fpSub p m a b = (fpNaN p, snanFlag [fpVal p a, fpVal p b]) :=
  if_pos (Bool.or_eq_true_iff.mpr h)

theorem fpMul_of_isNaN : fpMul p m a b = (fpNaN p, snanFlag [fpVal p a, fpVal p b]) :=
  if_pos (Bool.or_eq_true_iff.mpr h)

theorem fpMinMax_of_isNaN (w : Bool) : fpMinMax p w a b = (fpNaN p, snanFlag [fpVal p a, fpVal p b]) :=
  if_pos (Bool.or_eq_true_iff.mpr h)

theorem fpCmp_un_of_isNaN : fpCmp p .un a b = (true, snanFlag [fpVal p a, fpVal p b]) :=
  congrArg (·, _) (Bool.or_eq_true_iff.mpr h)

theorem fpCmp_ne_of_isNaN : fpCmp p .ne a b = (true, snanFlag [fpVal p a, fpVal p b]) := by
  simp [fpCmp, FV.eqv_of_isNaN h]

/-- Every ordered condition is false where an operand is a NaN (R252). -/
theorem fpCmp_ordered_of_isNaN {c : Cond} (hc : c ∈ [Cond.eq, .lt, .le, .gt, .ge]) :
    fpCmp p c a b = (false, snanFlag [fpVal p a, fpVal p b]) := by
  have hun : ((fpVal p a).isNaN || (fpVal p b).isNaN) = true := Bool.or_eq_true_iff.mpr h
  simp only [List.mem_cons, List.not_mem_nil, or_false] at hc
  rcases hc with rfl | rfl | rfl | rfl | rfl
  case inl => simp [fpCmp, FV.eqv_of_isNaN h]
  case inr.inl => simp [fpCmp, FV.lt_of_isNaN h]
  case inr.inr.inr.inl => simp [fpCmp, FV.lt_of_isNaN h.symm]
  all_goals simp only [fpCmp, hun, Bool.not_true, Bool.false_and]

end

theorem fpFma_of_isNaN {d : Nat} (h : (fpVal p a).isNaN = true ∨ (fpVal p b).isNaN = true ∨ (fpVal p d).isNaN = true) (g k : Bool) :
    fpFma p m g k a b d = (fpNaN p, snanFlag [fpVal p a, fpVal p b, fpVal p d]) :=
  if_pos (by simpa only [Bool.or_eq_true, or_assoc] using h)

section
variable (hx : (fpVal p a).isNaN = false) (hz : (fpVal p b).isNaN = false)
include hx hz

theorem fpAdd_of_not_isNaN : fpAdd p m a b = addVal p m (fpVal p a) (fpVal p b) := by
  simp [fpAdd, hx, hz]

theorem fpSub_of_not_isNaN : fpSub p m a b = addVal p m (fpVal p a) (fpVal p b).flip := by
  simp [fpSub, hx, hz]

theorem fpMul_of_none (h : mulVal (fpVal p a) (fpVal p b) = none) : fpMul p m a b = (fpNaN p, flNV) := by
  simp [fpMul, hx, hz, h]

theorem fpMul_of_some {v : FV} (h : mulVal (fpVal p a) (fpVal p b) = some v) : fpMul p m a b = roundVal p m v := by
  simp [fpMul, hx, hz, h]

theorem fpMinMax_of_not_isNaN (w : Bool) : fpMinMax p w a b =
    (if ((fpVal p a).lt (fpVal p b) || ((fpVal p a).eqv (fpVal p b) && (fpVal p a).neg && !(fpVal p b).neg)) == w then b else a, 0) := by
  simp [fpMinMax, hx, hz]

/-- A comparison of numbers raises nothing (R252). -/
theorem fpCmp_flags (c : Cond) : (fpCmp p c a b).2 = 0 :=
  snanFlag_of_not_isNaN (by simp [hx, hz])

theorem fpCmp_un_of_not_isNaN : (fpCmp p .un a b).1 = false := by
  simp [fpCmp, hx, hz]

/-- The larger or the smaller of two numbers is one of them, unchanged and without a flag (R249). -/
theorem fpMinMax_mem (w : Bool) : (fpMinMax p w a b).2 = 0 ∧ ((fpMinMax p w a b).1 = a ∨ (fpMinMax p w a b).1 = b) := by
  rw [fpMinMax_of_not_isNaN hx hz]
  exact ⟨rfl, (ite_eq_or_eq ..).symm⟩

end

/-! ## Infinities and zeros (R69, R72, R248, R249) -/

theorem addVal_inf_inf (g h : Bool) : addVal p m (.inf g) (.inf h) = if g = h then (fpInf p g, 0) else (fpNaN p, flNV) := rfl

/-- An exact sum of zeros is zero. -/
theorem addExact_zero (g h : Bool) (e f : Int) : (addExact g 0 e h 0 f).1 = 0 := by
  cases g <;> cases h <;> simp [addExact, sgn]

theorem addVal_zero_zero (g h : Bool) (e f : Int) :
    addVal p m (.fin g 0 e) (.fin h 0 f) = (fpZero p (if g = h then g else m == .rd), 0) := by
  simp [addVal, roundInt, addExact_zero]

theorem mulVal_inf_inf (g h : Bool) : mulVal (.inf g) (.inf h) = some (.inf (g != h)) := rfl

theorem mulVal_inf_zero (g h : Bool) (e : Int) : mulVal (.inf g) (.fin h 0 e) = none := rfl

theorem mulVal_zero_zero (g h : Bool) (e f : Int) : mulVal (.fin g 0 e) (.fin h 0 f) = some (.fin (g != h) 0 (e + f)) := rfl

theorem FV.lt_zero_zero (g h : Bool) (e f : Int) : (FV.fin g 0 e).lt (.fin h 0 f) = false := by
  simp [FV.lt, addExact_zero]

theorem FV.eqv_zero_zero (g h : Bool) (e f : Int) : (FV.fin g 0 e).eqv (.fin h 0 f) = true := by
  simp [FV.eqv, FV.isNaN, FV.lt_zero_zero]

/-- Of two zeros the negative one is the smaller (R249). -/
theorem fpMinMax_zero_zero {g h : Bool} {e f : Int} (hx : fpVal p a = .fin g 0 e) (hz : fpVal p b = .fin h 0 f) (w : Bool) :
    fpMinMax p w a b = (if (g && !h) == w then b else a, 0) := by
  rw [fpMinMax_of_not_isNaN (by rw [hx]; rfl) (by rw [hz]; rfl), hx, hz]
  simp [FV.lt_zero_zero, FV.eqv_zero_zero, FV.neg]

end

/-! ## Functions of one operand (R251) -/

section
variable {m : RMode} {a : Nat} {g : Bool}

theorem fpExp2_nan (h : fpVal pF32 a = .nan g) : fpExp2 m a = (fpNaN pF32, snanFlag [.nan g]) := by
  simp only [fpExp2, h, snanFlag_nan]

theorem fpLg2_nan (h : fpVal pF32 a = .nan g) : fpLg2 m a = (fpNaN pF32, snanFlag [.nan g]) := by
  simp only [fpLg2, h, snanFlag_nan]

theorem fpRcp_nan (h : fpVal pF32 a = .nan g) : fpRcp m a = (fpNaN pF32, snanFlag [.nan g]) := by
  simp only [fpRcp, h, snanFlag_nan]

theorem fpRsq_nan (h : fpVal pF32 a = .nan g) : fpRsq m a = (fpNaN pF32, snanFlag [.nan g]) := by
  simp only [fpRsq, h, snanFlag_nan]

/-- The functions at an infinity. -/
theorem functions_inf (h : fpVal pF32 a = .inf g) :
    fpExp2 m a = (if g then 0 else fpInf pF32 false, 0) ∧ fpLg2 m a = (if g then (fpNaN pF32, flNV) else (fpInf pF32 false, 0)) ∧
    fpRcp m a = (fpZero pF32 g, 0) ∧ fpRsq m a = (if g then (fpNaN pF32, flNV) else (0, 0)) := by
  simp only [fpExp2, fpLg2, fpRcp, fpRsq, h, and_self]

/-- The functions at a zero: all but `exp2` divide by it or take its logarithm. -/
theorem functions_zero {e : Int} (h : fpVal pF32 a = .fin g 0 e) :
    fpExp2 m a = (0x3F800000, 0) ∧ fpLg2 m a = (fpInf pF32 true, flDZ) ∧ fpRcp m a = (fpInf pF32 g, flDZ) ∧
    fpRsq m a = (fpInf pF32 g, flDZ) := by
  simp only [fpExp2, fpLg2, fpRcp, fpRsq, h, if_true, and_self]

/-- The logarithm and the root of a number below zero are invalid. -/
theorem functions_negative {n : Nat} {e : Int} (h : fpVal pF32 a = .fin true n e) (hn : n ≠ 0) :
    fpLg2 m a = (fpNaN pF32, flNV) ∧ fpRsq m a = (fpNaN pF32, flNV) := by
  simp only [fpLg2, fpRsq, h, hn, if_true, if_false, and_self]

end

/-- Settles O34: one clause for each kind of special operand, from the lemmas of the functions. -/
theorem specialValues : Obligations.SpecialValues := by
  unfold Obligations.SpecialValues
  intro p m a b d g h _ nv x z
  refine ⟨?nans, fun hn => fpFma_of_isNaN hn g h, ?numbers, ?infinities, ?invalidProduct, ?zeros, ?functions⟩
  case nans =>
    exact fun hn => ⟨fpAdd_of_isNaN hn, fpSub_of_isNaN hn, fpMul_of_isNaN hn, fpMinMax_of_isNaN hn, fpCmp_un_of_isNaN hn,
      fpCmp_ne_of_isNaN hn, fun _ => fpCmp_ordered_of_isNaN hn⟩
  case numbers =>
    exact fun hx hz => ⟨fpCmp_un_of_not_isNaN hx hz, rfl, fpCmp_flags hx hz, fpMinMax_mem hx hz⟩
  case infinities =>
    intro (hx : fpVal p a = .inf g) (hz : fpVal p b = .inf h)
    have hxn : (fpVal p a).isNaN = false := by rw [hx]; rfl
    have hzn : (fpVal p b).isNaN = false := by rw [hz]; rfl
    refine ⟨?_, ?_, fpMul_of_some hxn hzn (by rw [hx, hz, mulVal_inf_inf])⟩
    · rw [fpAdd_of_not_isNaN hxn hzn, hx, hz, addVal_inf_inf]
    · rw [fpSub_of_not_isNaN hxn hzn, hx, hz, FV.flip, addVal_inf_inf]
      cases g <;> cases h <;> rfl
  case invalidProduct =>
    intro e (hx : fpVal p a = .inf g) (hz : fpVal p b = .fin h 0 e)
    exact fpMul_of_none (by rw [hx]; rfl) (by rw [hz]; rfl) (by rw [hx, hz, mulVal_inf_zero])
  case zeros =>
    intro e f (hx : fpVal p a = .fin g 0 e) (hz : fpVal p b = .fin h 0 f)
    have hxn : (fpVal p a).isNaN = false := by rw [hx]; rfl
    have hzn : (fpVal p b).isNaN = false := by rw [hz]; rfl
    refine ⟨?_, fpMul_of_some hxn hzn (by rw [hx, hz, mulVal_zero_zero]), ?_, ?_⟩
    · rw [fpAdd_of_not_isNaN hxn hzn, hx, hz, addVal_zero_zero]
    · rw [fpMinMax_zero_zero hx hz, beq_true]
    · rw [fpMinMax_zero_zero hx hz, beq_false]
      cases g <;> cases h <;> rfl
  case functions =>
    rintro rfl
    refine ⟨fun v hv hn => ?_, functions_inf, fun e => functions_zero, fun n e hx hn => functions_negative hx hn⟩
    obtain ⟨s, hs⟩ := FV.eq_nan_of_isNaN hn
    have hflag : nv [x] = snanFlag [.nan s] := by rw [← hs]; rfl
    simp only [List.mem_cons, List.not_mem_nil, or_false] at hv
    rw [hflag]
    rcases hv with rfl | rfl | rfl | rfl
    · exact fpExp2_nan hs
    · exact fpLg2_nan hs
    · exact fpRcp_nan hs
    · exact fpRsq_nan hs

end Sys2Proof.Machine
end

section
/-! PROOFS. Contributions to an ordered-slot reduction and the commands of the Warren (R88, R287, R290 to R292). -/

namespace Sys2Proof.Machine

/-! ## Contributions (R287, R288) -/

section
variable {s : State} {die : Fin 4} {a : Arrival}

theorem State.contribute_rank (h : a.parties ≤ a.rank) : s.contribute die a = (.discarded, s) := if_pos h

section
variable {r : Reduction} (hr : a.rank < a.parties) (hf : ((s.dies.at die).reds.find? fun r => r.key == a.key) = some r)
include hr hf

/-- A contribution of a rank that stands already, or that does not fit the reduction of its key, is discarded. -/
theorem State.contribute_unfit
    (h : r.got.any (fun g => g.rank == a.rank) = true ∨ r.parties ≠ a.parties ∨ r.t ≠ a.t ∨ r.u ≠ a.u ∨ r.count ≠ a.elems.length) :
    s.contribute die a = (.discarded, s) := by
  have hbad : (r.t != a.t || r.u != a.u || r.parties != a.parties || r.count != a.elems.length ||
      r.got.any fun g => g.rank == a.rank) = true := by
    simp only [Bool.or_eq_true, bne_iff_ne]
    tauto
  simp only [State.contribute, Nat.not_le.mpr hr, hf, hbad, if_true, if_false]

/-- A contribution that fits joins the reduction of its key, which closes with the last rank. -/
theorem State.contribute_fit (hg : r.got.any (fun g => g.rank == a.rank) = false) (hp : r.parties = a.parties) (ht : r.t = a.t)
    (hu : r.u = a.u) (hc : r.count = a.elems.length) :
    s.contribute die a =
      let got := r.got ++ [⟨a.rank, a.uid, a.flit, a.elems⟩]
      let others := (s.dies.at die).reds.filter fun r => r.key != a.key
      if got.length < r.parties then (.taken, s.modDie die fun k => { k with reds := others ++ [{ r with got := got }] })
      else (.taken, got.foldl (fun s g => s.ackPart g.uid g.flit r.key false)
        ((s.modDie die fun k => { k with reds := others }).closeWrite r.key (recSize r.u) (reduceBytes r.t r.u got))) := by
  have hbad : (r.t != a.t || r.u != a.u || r.parties != a.parties || r.count != a.elems.length ||
      r.got.any fun g => g.rank == a.rank) = false := by
    simp [hg, hp, ht, hu, hc]
  simp only [State.contribute, Nat.not_le.mpr hr, hf, hbad, Option.isNone_some, Bool.false_and, Bool.false_eq_true, if_false]

end

/-- The first contribution of several parties opens the reduction of its key, where its bank has a slot. -/
theorem State.contribute_first (hr : a.rank < a.parties) (hp : 1 < a.parties)
    (hf : ((s.dies.at die).reds.find? fun r => r.key == a.key) = none)
    (hs : ((s.dies.at die).reds.filter fun r => bankOf r.key == bankOf a.key).length < 16) :
    s.contribute die a = (.taken, s.modDie die fun k => { k with reds := ((s.dies.at die).reds.filter fun r => r.key != a.key) ++
      [⟨a.key, a.t, a.u, a.parties, a.elems.length, [⟨a.rank, a.uid, a.flit, a.elems⟩]⟩] }) := by
  simp only [State.contribute, Nat.not_le.mpr hr, hf, Nat.not_le.mpr hs, decide_false, Bool.and_false, Bool.false_eq_true, if_false,
    List.length_singleton, hp, if_true]

end

/-! ## The entry of a queue that a pop or a peek names (R291) -/

/-- The number of entries of a queue whose keys are below one. -/
def keysBelow (l : List WarrenEnt) (k : Nat) : Nat := (l.filter fun e => decide (e.key.toNat < k)).length

/-- The key at a place, as the choice of an entry reads it. -/
def keyAt (l : List WarrenEnt) (i : Nat) : Nat := ((l[i]?).map fun e => e.key.toNat).getD 0

theorem keyAt_of_lt {l : List WarrenEnt} {i : Nat} (h : i < l.length) : keyAt l i = l[i].key.toNat := by
  simp [keyAt, h]

theorem getD_key {l : List WarrenEnt} {i : Nat} (h : i < l.length) (d : WarrenEnt) : (l.getD i d).key.toNat = keyAt l i := by
  simp [keyAt, h]

theorem map_keyAt_range (l : List WarrenEnt) : (List.range l.length).map (keyAt l) = l.map fun e => e.key.toNat :=
  List.ext_getElem (by simp) fun i _ h => by simp [keyAt_of_lt (by simpa using h)]

/-- The places of a queue in the order of their keys. -/
def placesByKey (l : List WarrenEnt) : List Nat := (List.range l.length).mergeSort fun a b => keyAt l a ≤ keyAt l b

theorem placesByKey_perm (l : List WarrenEnt) : (placesByKey l).Perm (List.range l.length) := List.mergeSort_perm ..

theorem length_placesByKey (l : List WarrenEnt) : (placesByKey l).length = l.length := by
  simpa using (placesByKey_perm l).length_eq

theorem placesByKey_sorted (l : List WarrenEnt) : (placesByKey l).Pairwise fun a b => keyAt l a ≤ keyAt l b :=
  (List.pairwise_mergeSort (fun a b c h g => by simp only [decide_eq_true_eq] at *; omega) (fun a b => by simp; omega) _).imp
    fun h => of_decide_eq_true h

/-- Counted over the places in any order, the keys below one are those of the entries. -/
theorem keysBelow_eq_countP (l : List WarrenEnt) (k : Nat) :
    keysBelow l k = (placesByKey l).countP fun i => decide (keyAt l i < k) := by
  rw [(placesByKey_perm l).countP_eq, ← Function.comp_def (fun n => decide (n < k)) (keyAt l), ← List.countP_map, map_keyAt_range,
    List.countP_map, keysBelow, ← List.countP_eq_length_filter]
  rfl

/-- In a list sorted by a function, at most n members lie below the member at place n. -/
theorem countP_lt_getElem_le {α : Type} {f : α → Nat} {l : List α} (h : l.Pairwise fun a b => f a ≤ f b) {n : Nat} (hn : n < l.length) :
    (l.countP fun a => decide (f a < f l[n])) ≤ n := by
  have hdrop : ((l.drop n).countP fun a => decide (f a < f l[n])) = 0 := by
    rw [List.countP_eq_zero]
    intro b hb
    obtain ⟨j, hj, rfl⟩ := List.getElem_of_mem hb
    rw [List.getElem_drop]
    have hle : f l[n] ≤ f (l[n + j]'(by simp at hj; omega)) := by
      rcases Nat.eq_zero_or_pos j with rfl | hpos
      · rfl
      · exact List.pairwise_iff_getElem.mp h n (n + j) hn _ (by omega)
    simpa using hle
  calc (l.countP fun a => decide (f a < f l[n]))
      = (l.take n).countP (fun a => decide (f a < f l[n])) + (l.drop n).countP fun a => decide (f a < f l[n]) := by
        rw [← List.countP_append, List.take_append_drop]
    _ ≤ n := by rw [hdrop]; exact List.countP_le_length.trans (List.length_take_le ..)

/-- The entry at a place in the order of keys has as many keys below its own as its place at most. -/
theorem keysBelow_placesByKey {l : List WarrenEnt} {n : Nat} (hn : n < (placesByKey l).length) :
    keysBelow l (keyAt l (placesByKey l)[n]) ≤ n := by
  rw [keysBelow_eq_countP]
  exact countP_lt_getElem_le (placesByKey_sorted l) hn

/-- The places of a key. -/
def placesOfKey (l : List WarrenEnt) (k : Nat) : List Nat := (List.range l.length).filter fun i => keyAt l i == k

theorem mem_placesOfKey {l : List WarrenEnt} {k i : Nat} : i ∈ placesOfKey l k ↔ i < l.length ∧ keyAt l i = k := by
  simp [placesOfKey]

/-- A number reduced by the length of a list names a member of it. -/
theorem getD_mod_length_mem {α : Type} {l : List α} {a : α} (h : a ∈ l) (m : Nat) (d : α) : l.getD (m % l.length) d ∈ l := by
  have hm : m % l.length < l.length := Nat.mod_lt _ (List.length_pos_of_mem h)
  rw [List.getD_eq_getElem _ _ hm]
  exact List.getElem_mem hm

/-- `State.chooseEntry` draws one of the 32 lowest places in the order of keys, and then any place of the key that stands there. -/
theorem State.chooseEntry_spec {s : State} {l : List WarrenEnt} (h : l ≠ []) :
    ∃ i t n, ∃ hn : n < (placesByKey l).length, s.chooseEntry l = (some i, t) ∧ n < 32 ∧ i < l.length ∧
      keyAt l i = keyAt l (placesByKey l)[n] := by
  let n := s.freeNat.1 % min 32 l.length
  have hpos : 0 < l.length := List.length_pos_iff.mpr h
  have hmin : n < min 32 l.length := Nat.mod_lt _ (by omega)
  have hn : n < (placesByKey l).length := by rw [length_placesByKey]; omega
  have hself : (placesByKey l)[n] ∈ placesOfKey l (keyAt l (placesByKey l)[n]) :=
    mem_placesOfKey.mpr ⟨List.mem_range.mp ((placesByKey_perm l).mem_iff.mp (List.getElem_mem hn)), rfl⟩
  obtain ⟨hlt, hkey⟩ := mem_placesOfKey.mp (getD_mod_length_mem hself s.freeNat.2.freeNat.1 0)
  refine ⟨_, s.freeNat.2.freeNat.2, n, hn, ?_, by omega, hlt, hkey⟩
  rw [State.chooseEntry, if_neg (by simpa using h), ← List.getD_eq_getElem _ 0 hn]
  rfl

/-- A pop or a peek of a queue that holds an entry chooses one with fewer than 32 keys below its own. -/
theorem State.chooseEntry_rank {s : State} {l : List WarrenEnt} (h : l ≠ []) :
    ∃ i t, s.chooseEntry l = (some i, t) ∧ i < l.length ∧ keysBelow l (keyAt l i) < 32 := by
  obtain ⟨i, t, n, hn, hc, hlow, hlt, hkey⟩ := State.chooseEntry_spec (s := s) h
  refine ⟨i, t, hc, hlt, ?_⟩
  calc keysBelow l (keyAt l i) = keysBelow l (keyAt l (placesByKey l)[n]) := by rw [hkey]
    _ ≤ n := keysBelow_placesByKey hn
    _ < 32 := hlow

/-- A pop takes an entry that is due, which has the rank too, or chooses one. -/
theorem State.popEntry_rank {s : State} {l : List WarrenEnt} (h : l ≠ []) :
    ∃ i t, s.popEntry l = (some i, t) ∧ i < l.length ∧ keysBelow l (keyAt l i) < 32 := by
  simp only [State.popEntry]
  split
  case h_2 => exact State.chooseEntry_rank h
  case h_1 i hdue =>
    have hlt : i < l.length := List.mem_range.mp (List.mem_of_find?_eq_some hdue)
    have hrank := List.find?_some hdue
    simp only [List.getElem?_eq_getElem hlt, Bool.and_eq_true, decide_eq_true_eq] at hrank
    refine ⟨i, s, rfl, hlt, ?_⟩
    rw [keyAt_of_lt hlt]
    exact Nat.lt_succ_of_le hrank.2

theorem State.chooseEntry_nil (s : State) : s.chooseEntry [] = (none, s) := rfl

theorem State.popEntry_nil (s : State) : s.popEntry [] = (none, s) := rfl

/-! ## What a pop leaves (R291) -/

/-- A list numbered from k, without the member of number k + i, is the list without its place i. -/
theorem map_filter_zip_range' {α : Type} (l : List α) (k i : Nat) :
    (((List.range' k l.length).zip l).filter fun e => e.1 != k + i).map (·.2) = l.eraseIdx i := by
  induction l generalizing k i with
  | nil => rfl
  | cons x l ih =>
    rw [List.length_cons, List.range'_succ, List.zip_cons_cons]
    cases i with
    | zero =>
      have hall : ((List.range' (k + 1) l.length).zip l).filter (fun e => e.1 != k + 0) = (List.range' (k + 1) l.length).zip l := by
        refine List.filter_eq_self.mpr fun e he => ?_
        have hk := (List.mem_range'_1.mp (List.of_mem_zip he).1).1
        simp; omega
      rw [List.filter_cons_of_neg (by simp), hall, List.map_snd_zip (by simp)]
      rfl
    | succ i =>
      rw [List.filter_cons_of_pos (by simp), List.map_cons, List.eraseIdx_cons_succ, ← ih (k + 1) i]
      simp only [Nat.add_assoc, Nat.add_comm 1 i]

/-- A pop changes no key and no payload of the entries that it leaves. -/
theorem map_popped (l : List WarrenEnt) (i : Nat) :
    (popped l i).map (fun e => (e.key, e.payload)) = (l.eraseIdx i).map fun e => (e.key, e.payload) := by
  have hleft := map_filter_zip_range' l 0 i
  rw [Nat.zero_add, ← List.range_eq_range'] at hleft
  rw [← hleft, popped, List.map_map, List.map_map]
  rfl

/-! ## Warren commands (R290, R292) -/

section
variable {s : State} {c : CoreId} {u : Nat} {d : Cmd} {q : Fin 64} {key payload : W64}

theorem State.warrenRefuses_iff {w : WarrenQueue} : s.warrenRefuses c w = true ↔ w.cap = 0 ∨ s.partOf c ≠ some w.owner := by
  simp [State.warrenRefuses]

/-- Changes the entries of a Warren queue of a core's die. -/
def State.setEntries (s : State) (c : CoreId) (q : Fin 64) (l : List WarrenEnt) : State :=
  s.modDie (dieOf c) fun e => { e with warren := e.warren.mod q fun w => { w with ents := l } }

variable (hr : s.running c u = some d)
include hr

/-- A command of a queue that is not its partition's counts once in `l2.err`, and gives 0, 0 and false. -/
theorem exec_warren_refused (hb : d.body = .push q key payload ∨ d.body = .pop q ∨ d.body = .peek q)
    (hw : s.warrenRefuses c ((s.dies.at (dieOf c)).warren.at q) = true) :
    exec (.warrenCommandPerformed c u) s =
      .next ((s.modCore c fun k => k.modCr fun r => { r with l2Err := satInc r.l2Err }).finishWith d 0 0 false) := by
  change execWarrenCommandPerformed c u s = _
  rcases hb with hb | hb | hb <;> simp only [execWarrenCommandPerformed, hr, hb, hw, if_true]

variable (hw : s.warrenRefuses c ((s.dies.at (dieOf c)).warren.at q) = false)
include hw

theorem exec_warren_push (hb : d.body = .push q key payload) :
    exec (.warrenCommandPerformed c u) s =
      let w := (s.dies.at (dieOf c)).warren.at q
      if w.ents.length < w.cap then .next ((s.setEntries c q (w.ents ++ [⟨key.setWidth 32, payload, none⟩])).finishWith d 0 0 true)
      else .next (s.finishWith d 0 0 false) := by
  change execWarrenCommandPerformed c u s = _
  simp only [execWarrenCommandPerformed, hr, hb, hw, Bool.false_eq_true, if_false]
  rfl

theorem exec_warren_pop_none {t : State} (hb : d.body = .pop q)
    (hp : s.popEntry ((s.dies.at (dieOf c)).warren.at q).ents = (none, t)) :
    exec (.warrenCommandPerformed c u) s = .next (t.finishWith d 0 0 false) := by
  change execWarrenCommandPerformed c u s = _
  simp only [execWarrenCommandPerformed, hr, hb, hw, hp, Bool.false_eq_true, if_false]

theorem exec_warren_pop_some {i : Nat} {t : State} (hb : d.body = .pop q)
    (hp : s.popEntry ((s.dies.at (dieOf c)).warren.at q).ents = (some i, t)) :
    exec (.warrenCommandPerformed c u) s =
      let l := ((s.dies.at (dieOf c)).warren.at q).ents
      .next ((t.setEntries c q (popped l i)).finishWith d ((l.getD i ⟨0, 0, none⟩).key.setWidth 64) (l.getD i ⟨0, 0, none⟩).payload true) := by
  change execWarrenCommandPerformed c u s = _
  simp only [execWarrenCommandPerformed, hr, hb, hw, hp, Bool.false_eq_true, if_false]
  rfl

theorem exec_warren_peek_none {t : State} (hb : d.body = .peek q)
    (hp : s.chooseEntry ((s.dies.at (dieOf c)).warren.at q).ents = (none, t)) :
    exec (.warrenCommandPerformed c u) s = .next (t.finishWith d 0 0 false) := by
  change execWarrenCommandPerformed c u s = _
  simp only [execWarrenCommandPerformed, hr, hb, hw, hp, Bool.false_eq_true, if_false]

theorem exec_warren_peek_some {i : Nat} {t : State} (hb : d.body = .peek q)
    (hp : s.chooseEntry ((s.dies.at (dieOf c)).warren.at q).ents = (some i, t)) :
    exec (.warrenCommandPerformed c u) s =
      let l := ((s.dies.at (dieOf c)).warren.at q).ents
      .next (t.finishWith d ((l.getD i ⟨0, 0, none⟩).key.setWidth 64) (BitVec.ofNat 64 l.length) true) := by
  change execWarrenCommandPerformed c u s = _
  simp only [execWarrenCommandPerformed, hr, hb, hw, hp, Bool.false_eq_true, if_false]

end

/-- Settles O41: a contribution case by case from `State.contribute`; a Warren command by what its queue holds, where the entry that a pop or
a peek names has fewer than 32 keys below its own because the places are sorted by key (`keysBelow_placesByKey`). -/
theorem reductionsAndWarren : Obligations.ReductionsAndWarren := by
  unfold Obligations.ReductionsAndWarren
  refine ⟨?contributions, ?warren⟩
  case contributions =>
    intro s e a reds new
    refine ⟨State.contribute_rank, fun r hr hf => ⟨State.contribute_unfit hr hf, fun hg hp ht hu hc => ?_⟩,
      fun hr hp hf hs hother => ?_⟩
    · intro got others
      rw [State.contribute_fit hr hf hg hp ht hu hc]
      exact ⟨fun h => if_pos h, fun h => if_neg (Nat.not_lt.mpr h)⟩
    · rw [State.contribute_first hr hp hf hs, hother]
  case warren =>
    intro s c u d q key payload hd hs hb w ents
    have hr : s.running c u = some d := State.running_of_started hd hs
    refine ⟨fun h => exec_warren_refused hr hb (State.warrenRefuses_iff.mpr h), fun hcap hown => ?_, fun hne r hchoice => ?_,
      fun i _ => map_popped w.ents i⟩
    · have hw : s.warrenRefuses c w = false := by simp [State.warrenRefuses, hcap, hown]
      refine ⟨fun hp hroom => ?_, fun hp hfull => ?_, fun hpp hnil => ?_, fun i t he hp => exec_warren_pop_some hr hw hp he,
        fun i t he hp => exec_warren_peek_some hr hw hp he⟩
      · rw [exec_warren_push hr hw hp]
        exact if_pos hroom
      · rw [exec_warren_push hr hw hp]
        exact if_neg (Nat.not_lt.mpr hfull)
      · rcases hpp with hp | hp
        · exact exec_warren_pop_none hr hw hp (by rw [hnil]; exact State.popEntry_nil s)
        · exact exec_warren_peek_none hr hw hp (by rw [hnil]; exact State.chooseEntry_nil s)
    · have hrank : ∃ i t, r = (some i, t) ∧ i < w.ents.length ∧ keysBelow w.ents (keyAt w.ents i) < 32 := by
        rcases hchoice with rfl | rfl
        · exact State.chooseEntry_rank hne
        · exact State.popEntry_rank hne
      obtain ⟨i, t, hri, hlt, hbelow⟩ := hrank
      exact ⟨i, t, hri, hlt, by rw [getD_key hlt]; exact hbelow⟩

end Sys2Proof.Machine
end

section
/-! PROOFS. The host's registers, written and read, its answers to page requests, the event ring, its vectors and its accesses to device memory
(R106, R330, R347 to R352, R355 to R357). -/

namespace Sys2Proof.Machine

/-! ## Answers to page requests (R357) -/

section
variable {s : State} {v : Fin 16} {w : W64}

/-- The id in an answer is its low 16 bits. -/
theorem presp_id (w : W64) : BitVec.ofNat 16 (bitsOf w.toNat 0 16) = w.setWidth 16 :=
  BitVec.eq_of_toNat_eq (by simp [bitsOf])

/-- An answer names the page request of its partition, with its id, that stands in the ring. -/
theorem presp_names (v : Fin 16) (w : W64) :
    (fun r : PageReq => r.part == v && r.id == BitVec.ofNat 16 (bitsOf w.toNat 0 16) && r.written) =
      fun r => decide (r.part = v ∧ r.id = w.setWidth 16 ∧ r.written = true) := by
  funext r
  simp [presp_id, beq_eq_decide, Bool.and_assoc]

/-- An answer to a request that is not outstanding is ignored. -/
theorem exec_presp_none (h : s.hub.preqs.find? (fun r => decide (r.part = v ∧ r.id = w.setWidth 16 ∧ r.written = true)) = none) :
    exec (.presp v w) s = .next s := by
  change execPresp v w s = _
  simp only [execPresp, presp_names, h]

/-- An answer with a code that has no meaning is ignored. -/
theorem exec_presp_badCode (h : 2 ≤ bitsOf w.toNat 16 2) : exec (.presp v w) s = .next s := by
  change execPresp v w s = _
  simp only [execPresp, h, if_true]
  split
  · rfl
  · rfl

/-- An answer takes the request it names off the list and answers whoever waits on it. -/
theorem exec_presp_some {r : PageReq}
    (h : s.hub.preqs.find? (fun r => decide (r.part = v ∧ r.id = w.setWidth 16 ∧ r.written = true)) = some r)
    (hcode : bitsOf w.toNat 16 2 < 2) :
    exec (.presp v w) s = .next ((s.modHub fun h => { h with
      preqs := h.preqs.filter fun q => !(q.part == v && q.id == w.setWidth 16) }).answerPage r (bitsOf w.toNat 16 2 == 1)) := by
  change execPresp v w s = _
  rw [← presp_names] at h
  simp only [execPresp, h, if_neg (Nat.not_le.mpr hcode)]
  rw [presp_id]

/-- Whatever an answer names, the host's write of it goes on. -/
theorem exec_presp_goes : ∃ t, exec (.presp v w) s = .next t := by
  cases h : s.hub.preqs.find? fun r => decide (r.part = v ∧ r.id = w.setWidth 16 ∧ r.written = true) with
  | none => exact ⟨s, exec_presp_none h⟩
  | some r =>
    rcases Nat.lt_or_ge (bitsOf w.toNat 16 2) 2 with hc | hc
    · exact ⟨_, exec_presp_some h hc⟩
    · exact ⟨s, exec_presp_badCode hc⟩

end

/-! ## The event ring (R352) -/

/-- No event, no ring, or a full ring: nothing is written. -/
theorem exec_eventRecordWrite_waits {s : State}
    (h : s.hub.mbox.events = [] ∨ s.hub.mbox.evBase = 0 ∨ 64 ≤ (s.hub.mbox.evWr - s.hub.mbox.evRd).toNat) :
    exec .eventRecordWrite s = .next s := by
  change execEventRecordWrite s = _
  cases hev : s.hub.mbox.events with
  | nil => simp only [execEventRecordWrite, hev]
  | cons r rest =>
    simp only [execEventRecordWrite, hev]
    exact if_pos (by simpa [hev] using h)

/-- The oldest event is written where the ring has room. -/
theorem exec_eventRecordWrite_room {s : State} {r : Rec} {rest : List Rec} (hev : s.hub.mbox.events = r :: rest)
    (hbase : s.hub.mbox.evBase ≠ 0) (hroom : (s.hub.mbox.evWr - s.hub.mbox.evRd).toNat < 64) :
    exec .eventRecordWrite s =
      .next (((s.homePut ((List.range 64).map (memKey 2 (s.hub.mbox.evBase.toNat + 64 * (s.hub.mbox.evWr.toNat % 64)) + ·))
        r.bytes).modMbox fun m => { m with evWr := m.evWr + 1, events := rest }).msi 16 0) := by
  change execEventRecordWrite s = _
  simp only [execEventRecordWrite, hev]
  exact if_neg (by simp only [Bool.or_eq_true, decide_eq_true_eq, hbase, false_or, Nat.not_le.mpr hroom, not_false_eq_true])

/-! ## Functions and their vectors (R330, R347, R348) -/

theorem State.hasFunction_pf (s : State) : s.hasFunction 16 = true := rfl

/-- A virtual function exists while its partition is configured. -/
theorem State.hasFunction_vf (s : State) (v : Fin 16) : s.hasFunction (v.castLE (by decide)) = (s.hub.parts.at v).isSome := by
  have hne : (v.castLE (by decide) : Fin 17) ≠ 16 := fun e => by
    have := congrArg Fin.val e
    simp at this
    omega
  have hv : Fin.ofNat 16 (v.castLE (by decide) : Fin 17).val = v := Fin.ext (Nat.mod_eq_of_lt v.isLt)
  simp only [State.hasFunction, hne, hv, decide_false, Bool.false_or]

theorem State.unmask_absent {s : State} {f : Fin 17} (h : s.hasFunction f = false) (n : Nat) : s.unmask f n = s := by
  simp [State.unmask, h]

/-- A vector of a function that exists is unmasked, and the interrupt that it held is sent. -/
theorem State.unmask_present {s : State} {f : Fin 17} (h : s.hasFunction f = true) (n : Nat) :
    s.unmask f n = s.modHub fun h => { h with msix := {
      masked := h.msix.masked.filter (· != (f, n)), held := h.msix.held.filter (· != (f, n)),
      sent := if h.msix.held.contains (f, n) && h.msix.masked.contains (f, n) then h.msix.sent ++ [(f, n)] else h.msix.sent } } := by
  simp [State.unmask, h]

theorem exec_msixVectorUnmask_absent {s : State} {f : Fin 17} (h : s.hasFunction f = false) (j : Fin 2048) :
    exec (.msixVectorUnmask f j) s = .next s := congrArg Host.Outcome.next (State.unmask_absent h j.val)

theorem exec_msixVectorUnmask_present {s : State} {f : Fin 17} (h : s.hasFunction f = true) (j : Fin 2048) :
    ∃ t : State, exec (.msixVectorUnmask f j) s = .next t ∧ t.mem = s.mem ∧ t.cores = s.cores ∧ (f, j.val) ∉ t.hub.msix.masked ∧
      (∀ e, e ≠ (f, j.val) → (e ∈ t.hub.msix.masked ↔ e ∈ s.hub.msix.masked)) ∧
      t.hub.msix.sent = (if (f, j.val) ∈ s.hub.msix.masked ∧ (f, j.val) ∈ s.hub.msix.held then s.hub.msix.sent ++ [(f, j.val)]
        else s.hub.msix.sent) := by
  refine ⟨_, congrArg Host.Outcome.next (State.unmask_present h j.val), rfl, rfl, ?_, fun e he => ?_, ?_⟩
  · simp
  · simp [he]
  · simp [and_comm]

theorem State.hasCapability_absent {s : State} {f : Fin 17} (h : s.hasFunction f = false) (c : Capability) : s.hasCapability f c = false := by
  simp [State.hasCapability, h]

theorem State.hasCapability_interrupts {s : State} {f : Fin 17} (h : s.hasFunction f = true) :
    s.hasCapability f .msix = true ∧ s.hasCapability f .flr = true := by
  simp [State.hasCapability, h]

theorem State.hasCapability_recovery {s : State} (h : s.hub.brock.boot = .recovery) (f : Fin 17) :
    s.hasCapability f .cache = false ∧ s.hasCapability f .mem = false := by
  simp [State.hasCapability, State.inRecovery, h]

/-! ## Register writes (R349 to R353) -/

section
variable {s : State} {v : Fin 16} {z : Bool} {w : W64}

theorem exec_registerWrite_unaligned {r : HostReg} {o : Nat} (h : o % (if z then 8 else 4) ≠ 0) :
    exec (.registerWrite r o z w) s = .next s := if_pos h

/-- An offset that is aligned for 8 bytes is aligned for both sizes. -/
theorem aligned_of_mod_eight {o : Nat} (h : o % 8 = 0) (z : Bool) : ¬ o % (if z then 8 else 4) ≠ 0 := by
  cases z <;> simp <;> omega

theorem exec_registerWrite_mailbox {o : Nat} (h : o % 8 = 0) : exec (.registerWrite .mailbox o z w) s = .next (s.writeMailbox o z w) :=
  if_neg (aligned_of_mod_eight h z)

theorem exec_registerWrite_partition {o : Nat} (h : o % 8 = 0) :
    exec (.registerWrite (.partition v) o z w) s = .next (s.writePage v none o w) :=
  if_neg (aligned_of_mod_eight h z)

theorem exec_registerWrite_doorbell {o j : Nat} (h : o % 8 = 0) :
    exec (.registerWrite (.doorbell v j) o z w) s = .next (s.writePage v (some j) o w) :=
  if_neg (aligned_of_mod_eight h z)

/-- The state after an outcome that goes on is its next state. -/
theorem next_nextOr {e : Host.Outcome State Fault Refusal} (h : ∃ t, e = .next t) : .next (nextOr s e) = e := by
  obtain ⟨t, rfl⟩ := h
  rfl

theorem exec_registerWrite_evRd : exec (.registerWrite .mailbox 0x18 z w) s = exec (.evRd (w.setWidth 32)) s := by
  have hw : BitVec.ofNat 32 (w.toNat % 2 ^ 32) = w.setWidth 32 := by
    apply BitVec.eq_of_toNat_eq
    simp
  rw [exec_registerWrite_mailbox (by rfl), ← hw]
  rfl

theorem exec_registerWrite_evBase : exec (.registerWrite .mailbox 0x20 true w) s = exec (.evBase w) s :=
  exec_registerWrite_mailbox (by rfl)

theorem exec_registerWrite_rlogRd : exec (.registerWrite (.partition v) 8 z w) s = exec (.rlogRd v (w.setWidth 32)) s :=
  exec_registerWrite_partition (by rfl)

theorem exec_registerWrite_preqRd : exec (.registerWrite (.partition v) 0x18 z w) s = exec (.preqRd v (w.setWidth 32)) s :=
  exec_registerWrite_partition (by rfl)

theorem exec_registerWrite_presp : exec (.registerWrite (.partition v) 0x20 z w) s = exec (.presp v w) s :=
  (exec_registerWrite_partition (by rfl)).trans (next_nextOr exec_presp_goes)

/-- A doorbell never stops the machine. -/
theorem exec_doorbellTail_goes {j : Nat} {n : W32} : ∃ t, exec (.doorbellTail v j n) s = .next t := by
  change ∃ t, execDoorbellTail v j n s = .next t
  unfold execDoorbellTail
  split
  · exact ⟨_, rfl⟩
  · split
    · exact ⟨_, rfl⟩
    · exact ⟨_, rfl⟩

theorem exec_completionHead_goes {j : Nat} {n : W32} : ∃ t, exec (.completionHead v j n) s = .next t := by
  change ∃ t, execCompletionHead v j n s = .next t
  unfold execCompletionHead
  split
  · exact ⟨_, rfl⟩
  · exact ⟨_, rfl⟩

theorem exec_registerWrite_tail {j : Nat} :
    exec (.registerWrite (.doorbell v j) 0 z w) s = exec (.doorbellTail v j (w.setWidth 32)) s :=
  (exec_registerWrite_doorbell (by rfl)).trans (next_nextOr exec_doorbellTail_goes)

theorem exec_registerWrite_chead {j : Nat} :
    exec (.registerWrite (.doorbell v j) 0x10 z w) s = exec (.completionHead v j (w.setWidth 32)) s :=
  (exec_registerWrite_doorbell (by rfl)).trans (next_nextOr exec_completionHead_goes)

/-- The write of 0 to the mask bit of a vector unmasks it. -/
theorem exec_registerWrite_unmask {f : Fin 17} {j : Fin 2048} (h : w.getLsbD 0 = false) :
    exec (.registerWrite (.msixMask f j) 0 true w) s = exec (.msixVectorUnmask f j) s := by
  change Host.Outcome.next (if !s.hasFunction f then s else if w.getLsbD 0 then _ else s.unmask f j.val) = .next (s.unmask f j.val)
  rw [h]
  cases hf : s.hasFunction f with
  | false => rw [State.unmask_absent hf]; rfl
  | true => rfl

end

/-! ## Device memory (R106, R355) -/

/-- The place of a device physical address below 3 × 2^39. -/
def dpaPlace (x : Nat) : Nat := memKey 0 (if x < 2 ^ 39 then Config.hbmBase + x else Config.tier2Base + (x - 2 ^ 39))

theorem dpaKey_of_lt {x : Nat} (h : x < 3 * 2 ^ 39) : dpaKey x = some (dpaPlace x) := by
  unfold dpaKey dpaPlace
  rw [if_pos h]
  split
  · rfl
  · rfl

theorem dpaKey_of_le {x : Nat} (h : 3 * 2 ^ 39 ≤ x) : dpaKey x = none := by
  unfold dpaKey
  rw [if_neg (by omega), if_neg (by omega)]

theorem mapM_dpaKey {l : List Nat} (h : ∀ x ∈ l, x < 3 * 2 ^ 39) : l.mapM dpaKey = some (l.map dpaPlace) := by
  induction l with
  | nil => rfl
  | cons x xs ih =>
    rw [List.forall_mem_cons] at h
    simp [dpaKey_of_lt h.1, ih h.2]

theorem mapM_dpaKey_none {l : List Nat} {x : Nat} (hx : x ∈ l) (h : 3 * 2 ^ 39 ≤ x) : l.mapM dpaKey = none := by
  induction l with
  | nil => cases hx
  | cons y ys ih =>
    rcases List.mem_cons.mp hx with rfl | hx
    · simp [dpaKey_of_le h]
    · simp [ih hx]

/-- The bytes from an address on lie at their places where they all exist. -/
theorem mapM_dpaKey_range {a n : Nat} (h : a + n ≤ 3 * 2 ^ 39) :
    ((List.range n).map (a + ·)).mapM dpaKey = some ((List.range n).map fun x => dpaPlace (a + x)) := by
  rw [mapM_dpaKey, List.map_map]
  · rfl
  · intro x hx
    obtain ⟨i, hi, rfl⟩ := List.mem_map.mp hx
    have := List.mem_range.mp hi
    omega

/-- Of the bytes from an address on, one does not exist where they end past 3 × 2^39. -/
theorem mapM_dpaKey_range_none {a n : Nat} (hn : 0 < n) (h : 3 * 2 ^ 39 < a + n) : ((List.range n).map (a + ·)).mapM dpaKey = none :=
  mapM_dpaKey_none (x := a + (n - 1)) (List.mem_map.mpr ⟨n - 1, List.mem_range.mpr (by omega), rfl⟩) (by omega)

section
variable {s : State} {a n : Nat} {b : List Byte}

theorem State.inRecovery_iff : s.inRecovery = true ↔ s.hub.brock.boot = .recovery := beq_iff_eq

theorem exec_hostMemRead_recovery (h : s.hub.brock.boot = .recovery) : exec (.hostMemRead a n) s = .next s :=
  if_pos (State.inRecovery_iff.mpr h)

theorem exec_hostMemWrite_recovery (h : s.hub.brock.boot = .recovery) : exec (.hostMemWrite a b) s = .next s :=
  if_pos (State.inRecovery_iff.mpr h)

theorem exec_hostMemRead_live (h : s.hub.brock.boot ≠ .recovery) (hn : a + n ≤ 3 * 2 ^ 39) :
    let ks := (List.range n).map fun x => dpaPlace (a + x)
    let t := (linesOf ks).foldl (fun s l => s.homeRead l) s
    exec (.hostMemRead a n) s = .next (t.modHub fun h => { h with hostData := ks.map t.mem.get }) := by
  change execHostMemRead a n s = _
  unfold execHostMemRead
  rw [if_neg (mt State.inRecovery_iff.mp h), mapM_dpaKey_range hn]

theorem exec_hostMemRead_past (h : s.hub.brock.boot ≠ .recovery) (hn : 0 < n) (hp : 3 * 2 ^ 39 < a + n) :
    exec (.hostMemRead a n) s = .fault .noSuchDpa := by
  change execHostMemRead a n s = _
  unfold execHostMemRead
  rw [if_neg (mt State.inRecovery_iff.mp h), mapM_dpaKey_range_none hn hp]

theorem exec_hostMemWrite_live (h : s.hub.brock.boot ≠ .recovery) (hn : a + b.length ≤ 3 * 2 ^ 39) :
    exec (.hostMemWrite a b) s = .next (s.homePut ((List.range b.length).map fun x => dpaPlace (a + x)) b) := by
  change execHostMemWrite a b s = _
  unfold execHostMemWrite
  rw [if_neg (mt State.inRecovery_iff.mp h), mapM_dpaKey_range hn]

theorem exec_hostMemWrite_past (h : s.hub.brock.boot ≠ .recovery) (hn : 0 < b.length) (hp : 3 * 2 ^ 39 < a + b.length) :
    exec (.hostMemWrite a b) s = .fault .noSuchDpa := by
  change execHostMemWrite a b s = _
  unfold execHostMemWrite
  rw [if_neg (mt State.inRecovery_iff.mp h), mapM_dpaKey_range_none hn hp]

end

/-! ## Host memory (R106, R192) -/

/-- The core with every `wadr` of its contexts woken. -/
def Core.wakeWadr (k : Core) : Core :=
  if (List.finRange 4).any fun x => ((k.ctx.at x).wadr).isSome then
    { k with ctx := k.ctx.map fun c => { c with wadr := c.wadr.map fun w => { w with awake := true } } } else k

theorem File.at_map {α β : Type} {n : Nat} (f : File α n) (g : α → β) (i : Fin n) : File.at (f.map g) i = g (f.at i) := by
  simp [File.at]

theorem Core.wakeWadr_wadr (k : Core) (x : Fin 4) :
    (k.wakeWadr.ctx.at x).wadr = (k.ctx.at x).wadr.map fun e => { e with awake := true } := by
  unfold Core.wakeWadr
  split
  · rw [File.at_map]
  · next h =>
    have hnone : (k.ctx.at x).wadr = none := by simpa using fun hx => h (List.any_eq_true.mpr ⟨x, List.mem_finRange x, hx⟩)
    rw [hnone]
    rfl

/-- A write of the host to its own memory lies at its place, and wakes every `wadr` (notes/assumptions/46.md). -/
theorem exec_hostWriteInvalidation (s : State) (a : Nat) (b : List Byte) :
    let u := s.homePut ((List.range b.length).map fun i => memKey 2 (a + i)) b
    exec (.hostWriteInvalidation a b) s = .next { u with cores := u.cores.map Core.wakeWadr } := rfl

/-! ## Register reads (R5, R6, R349 to R352) -/

section
variable {s : State} {r : HostReg} {o : Nat} {z : Bool}

theorem State.registerRead_unaligned (h : o % (if z then 8 else 4) ≠ 0) : s.registerRead r o z = 0 := if_pos h

/-- A read of a place whose 8 bytes hold no register gives 0. -/
theorem State.registerRead_zero (h : s.hostReg r (o / 8 * 8) = 0) : s.registerRead r o z = 0 := by
  by_cases ha : o % (if z then 8 else 4) ≠ 0
  · exact State.registerRead_unaligned ha
  · refine (if_neg ha).trans ?_
    cases z with
    | true =>
      have ho : o / 8 * 8 = o := Nat.div_mul_cancel (Nat.dvd_of_mod_eq_zero (not_not.mp ha))
      rw [← ho, h]
      rfl
    | false =>
      rw [h]
      simp [bitsOf]

/-- A read of 8 bytes gives the whole register. -/
theorem State.registerRead_whole (h : o % 8 = 0) : s.registerRead r o true = BitVec.ofNat 64 (s.hostReg r o) :=
  if_neg (aligned_of_mod_eight h true)

/-- A register of 32 bits reads the same by 4 and by 8 bytes. -/
theorem State.registerRead_word {x : W32} (h : o % 8 = 0) (hx : s.hostReg r o = x.toNat) : s.registerRead r o z = x.setWidth 64 := by
  cases z with
  | true => rw [State.registerRead_whole h, hx, BitVec.ofNat_toNat]
  | false =>
    have ho : o / 8 * 8 = o := by omega
    have hlow : bitsOf x.toNat 0 32 = x.toNat := by simp [bitsOf, Nat.mod_eq_of_lt x.isLt]
    refine (if_neg (aligned_of_mod_eight h false)).trans ?_
    rw [ho, hx, h, Nat.zero_mul, hlow, BitVec.ofNat_toNat]
    rfl

end

theorem Part.reg_none {t : Part} {o : Nat} (h : 0x20 ≤ o) : t.reg o = 0 := by
  unfold Part.reg
  rw [if_neg (by omega), if_neg (by omega), if_neg (by omega), if_neg (by omega)]

theorem Queue.reg_none {q : Queue} {o : Nat} (h : 0x20 ≤ o) : q.reg o = 0 := by
  unfold Queue.reg
  rw [if_neg (by omega), if_neg (by omega), if_neg (by omega), if_neg (by omega)]

/-- Between its last register and its payload, and past its payload, the mailbox page holds no register. -/
theorem Mailbox.reg_none {m : Mailbox} {o : Nat} (h : 0x28 ≤ o) (hp : o < 0x100 ∨ 0x900 ≤ o) : m.reg o = 0 := by
  have hpay : ¬ ((decide (0x100 ≤ o) && decide (o < 0x900)) = true) := by simp; omega
  unfold Mailbox.reg
  rw [if_neg (by omega), if_neg (by omega), if_neg (by omega), if_neg (by omega), if_neg hpay]

theorem Mailbox.reg_payload {m : Mailbox} {o : Nat} (h : 0x100 ≤ o) (hp : o < 0x900) : m.reg o = m.payload.num (o - 0x100) 8 := by
  have hpay : (decide (0x100 ≤ o) && decide (o < 0x900)) = true := by simp [h, hp]
  unfold Mailbox.reg
  rw [if_neg (by omega), if_neg (by omega), if_neg (by omega), if_neg (by omega), if_pos hpay]

/-- The status register of the mailbox is a word of 32 bits. -/
theorem Mailbox.reg_status_lt (m : Mailbox) : m.reg 8 < 2 ^ 32 := by
  have hdetail := m.detail.isLt
  have hoverrun := m.overrun.toNat_lt
  have herror := m.error.toNat_lt
  have hbusy := m.busy.toNat_lt
  change m.detail.toNat * 2 ^ 16 + m.overrun.toNat * 4 + m.error.toNat * 2 + m.busy.toNat < _
  omega

/-- The fields of a word that holds the status register: `busy`, `error`, `overrun`, 13 reserved bits, `detail`. -/
theorem Mailbox.status_fields {m : Mailbox} {n : W64} (h : n.toNat = m.reg 8) :
    n.getLsbD 0 = m.busy ∧ n.getLsbD 1 = m.error ∧ n.getLsbD 2 = m.overrun ∧ (n >>> 16).setWidth 16 = m.detail ∧
      (n >>> 3).setWidth 13 = 0 ∧ n >>> 32 = 0 := by
  change n.toNat = m.detail.toNat * 2 ^ 16 + m.overrun.toNat * 4 + m.error.toNat * 2 + m.busy.toNat at h
  have hdetail := m.detail.isLt
  have hoverrun := m.overrun.toNat_lt
  have herror := m.error.toNat_lt
  have hbusy := m.busy.toNat_lt
  have bit : ∀ (i : Nat) (b : Bool), n.toNat / 2 ^ i % 2 = b.toNat → n.getLsbD i = b := by
    intro i b hb
    rw [BitVec.getLsbD, Nat.testBit_eq_decide_div_mod_eq, hb]
    cases b <;> rfl
  refine ⟨bit 0 _ (by omega), bit 1 _ (by omega), bit 2 _ (by omega), ?_, ?_, ?_⟩ <;>
    · apply BitVec.eq_of_toNat_eq
      simp only [BitVec.toNat_setWidth, BitVec.toNat_ushiftRight, Nat.shiftRight_eq_div_pow, BitVec.ofNat_eq_ofNat, BitVec.toNat_ofNat]
      omega

section
variable {s : State}

theorem State.mailbox_word {o : Nat} {x : W32} (z : Bool) (h : o % 8 = 0) (hx : s.hub.mbox.reg o = x.toNat) :
    s.registerRead .mailbox o z = x.setWidth 64 := State.registerRead_word h hx

/-- `cmd` can only be written, and reads 0. -/
theorem State.mailbox_cmd (s : State) (z : Bool) : s.registerRead .mailbox 0 z = 0 := State.registerRead_zero rfl

theorem State.mailbox_status (s : State) (z : Bool) : (s.registerRead .mailbox 8 z).toNat = s.hub.mbox.reg 8 := by
  have hlt := s.hub.mbox.reg_status_lt
  have hx : s.hub.mbox.reg 8 = (BitVec.ofNat 32 (s.hub.mbox.reg 8)).toNat := (Nat.mod_eq_of_lt hlt).symm
  rw [State.mailbox_word z rfl hx, BitVec.toNat_setWidth, ← hx]
  exact Nat.mod_eq_of_lt (by omega)

theorem State.mailbox_evBase (s : State) (z : Bool) :
    s.registerRead .mailbox 0x20 z = if z then s.hub.mbox.evBase else (s.hub.mbox.evBase.setWidth 32).setWidth 64 := by
  cases z with
  | true => exact (BitVec.ofNat_toNat 64 _).trans (BitVec.setWidth_eq _)
  | false =>
    apply BitVec.eq_of_toNat_eq
    rw [if_neg Bool.false_ne_true, BitVec.toNat_setWidth, BitVec.toNat_setWidth]
    change s.hub.mbox.evBase.toNat / 1 % 2 ^ 32 % 2 ^ 64 = _
    rw [Nat.div_one]

theorem State.mailbox_evBase_high (s : State) : s.registerRead .mailbox 0x24 false = s.hub.mbox.evBase >>> 32 := by
  have hb := s.hub.mbox.evBase.isLt
  apply BitVec.eq_of_toNat_eq
  change s.hub.mbox.evBase.toNat / 2 ^ 32 % 2 ^ 32 % 2 ^ 64 = s.hub.mbox.evBase.toNat >>> 32
  rw [Nat.shiftRight_eq_div_pow]
  omega

theorem State.mailbox_none {o : Nat} (z : Bool) (h : 0x28 ≤ o) (hp : o < 0x100 ∨ 0x900 ≤ o) : s.registerRead .mailbox o z = 0 :=
  State.registerRead_zero (Mailbox.reg_none (by omega) (by omega))

theorem State.mailbox_payload {o : Nat} (h : 0x100 ≤ o) (hp : o + 8 ≤ 0x900) (ha : o % 8 = 0) :
    s.registerRead .mailbox o true = BitVec.ofNat 64 (s.pay (o - 0x100) 0 64) := by
  have hreg : s.hostReg .mailbox o = s.hub.mbox.payload.num (o - 0x100) 8 := Mailbox.reg_payload h (by omega)
  rw [State.registerRead_whole ha, hreg]
  apply BitVec.eq_of_toNat_eq
  simp [State.pay, bitsOf]

section
variable {v : Fin 16} {t : Part} (ht : s.hub.parts.at v = some t)
include ht

theorem State.hostReg_partition (o : Nat) : s.hostReg (.partition v) o = t.reg o := by
  simp only [State.hostReg, ht]

/-- The registers of the page of a partition. -/
theorem State.partition_registers (z : Bool) :
    s.registerRead (.partition v) 0 z = t.rlogWr.setWidth 64 ∧ s.registerRead (.partition v) 8 z = t.rlogRd.setWidth 64 ∧
      s.registerRead (.partition v) 0x10 z = t.preqWr.setWidth 64 ∧ s.registerRead (.partition v) 0x18 z = t.preqRd.setWidth 64 :=
  ⟨State.registerRead_word rfl (State.hostReg_partition ht 0), State.registerRead_word rfl (State.hostReg_partition ht 8),
    State.registerRead_word rfl (State.hostReg_partition ht 0x10), State.registerRead_word rfl (State.hostReg_partition ht 0x18)⟩

theorem State.partition_none {o : Nat} (z : Bool) (h : 0x20 ≤ o) : s.registerRead (.partition v) o z = 0 :=
  State.registerRead_zero ((State.hostReg_partition ht _).trans (Part.reg_none (by omega)))

end

/-- Every page of a virtual function that does not exist reads 0. -/
theorem State.partition_absent {v : Fin 16} (h : s.hub.parts.at v = none) (o : Nat) (z : Bool) : s.registerRead (.partition v) o z = 0 :=
  State.registerRead_zero (by simp only [State.hostReg, h])

section
variable {v : Fin 16} {j : Nat} {q : Queue} {w : QueueWork} (hq : s.pageQueue v j = some (q, w))
include hq

theorem State.hostReg_doorbell (o : Nat) : s.hostReg (.doorbell v j) o = q.reg o := by
  simp only [State.hostReg, hq]

/-- The registers of the doorbell page of a queue. -/
theorem State.doorbell_registers (z : Bool) :
    s.registerRead (.doorbell v j) 0 z = q.tail.setWidth 64 ∧ s.registerRead (.doorbell v j) 8 z = q.head.setWidth 64 ∧
      s.registerRead (.doorbell v j) 0x10 z = q.chead.setWidth 64 ∧ s.registerRead (.doorbell v j) 0x18 z = q.ctail.setWidth 64 :=
  ⟨State.registerRead_word rfl (State.hostReg_doorbell hq 0), State.registerRead_word rfl (State.hostReg_doorbell hq 8),
    State.registerRead_word rfl (State.hostReg_doorbell hq 0x10), State.registerRead_word rfl (State.hostReg_doorbell hq 0x18)⟩

theorem State.doorbell_none {o : Nat} (z : Bool) (h : 0x20 ≤ o) : s.registerRead (.doorbell v j) o z = 0 :=
  State.registerRead_zero ((State.hostReg_doorbell hq _).trans (Queue.reg_none (by omega)))

end

/-- A doorbell page that no queue has reads 0. -/
theorem State.doorbell_absent {v : Fin 16} {j : Nat} (h : s.pageQueue v j = none) (o : Nat) (z : Bool) :
    s.registerRead (.doorbell v j) o z = 0 :=
  State.registerRead_zero (by simp only [State.hostReg, h])

end

/-- Settles O51: each write is the named step of its register (the lemmas `exec_registerWrite_*`), an access to device memory reaches the places of
`mapM_dpaKey_range` or no place at all, and a read gives the register of its page, word by word (`State.registerRead_word`). That a host write
wakes every `wadr` is the model's choice (notes/assumptions/46.md). -/
theorem hostInterface : Obligations.HostInterface := by
  unfold Obligations.HostInterface
  refine ⟨fun s v n w => ⟨rfl, rfl, rfl, rfl, ?presp, ?event, fun f j h => exec_msixVectorUnmask_absent h j,
    fun f j h => exec_msixVectorUnmask_present h j, fun r o z h => exec_registerWrite_unaligned h, ?named,
    exec_registerWrite_evBase, ?doorbells, fun f j h => exec_registerWrite_unmask h, ?memory⟩,
    fun s v o z => ⟨fun r h => State.registerRead_unaligned h, ?mailbox, ?partition, ?doorbell, s.hasFunction_pf, ?capabilities⟩⟩
  case presp =>
    intro asked
    refine ⟨fun h => ?_, fun r hr hc => exec_presp_some hr hc⟩
    rcases h with h | h
    · exact exec_presp_none (List.find?_eq_none.mpr fun r hr => by simpa only [decide_eq_true_eq] using h r hr)
    · exact exec_presp_badCode h
  case event =>
    exact ⟨exec_eventRecordWrite_waits, fun r rest hev hb hroom => exec_eventRecordWrite_room hev hb hroom⟩
  case named =>
    intro z i r o h
    simp only [List.mem_cons, Prod.mk.injEq, List.not_mem_nil, or_false] at h
    obtain ⟨rfl, rfl, rfl⟩ | ⟨rfl, rfl, rfl⟩ | ⟨rfl, rfl, rfl⟩ | ⟨rfl, rfl, rfl⟩ := h
    · exact exec_registerWrite_evRd
    · exact exec_registerWrite_rlogRd
    · exact exec_registerWrite_preqRd
    · exact exec_registerWrite_presp
  case doorbells =>
    intro z j
    obtain ⟨t, ht⟩ := exec_doorbellTail_goes (s := s) (v := v) (j := j) (n := w.setWidth 32)
    obtain ⟨u, hu⟩ := exec_completionHead_goes (s := s) (v := v) (j := j) (n := w.setWidth 32)
    exact ⟨⟨t, exec_registerWrite_tail.trans ht, ht⟩, ⟨u, exec_registerWrite_chead.trans hu, hu⟩⟩
  case memory =>
    intro a len b place ks live
    refine ⟨fun h => ?_, exec_hostMemRead_live, exec_hostMemRead_past, exec_hostMemWrite_live, exec_hostMemWrite_past,
      _, exec_hostWriteInvalidation s a b, rfl, rfl, fun c x => ?_⟩
    · exact ⟨exec_hostMemRead_recovery (not_not.mp h), exec_hostMemWrite_recovery (not_not.mp h)⟩
    · simp only [State.core, File.at_map, Core.wakeWadr_wadr]
  case mailbox =>
    obtain ⟨hbusy, herror, hoverrun, hdetail, hmiddle, hhigh⟩ := Mailbox.status_fields (s.mailbox_status z)
    exact ⟨s.mailbox_cmd z, State.mailbox_word z rfl rfl, State.mailbox_word z rfl rfl, s.mailbox_evBase z, s.mailbox_evBase_high,
      hbusy, herror, hoverrun, hdetail, hmiddle, hhigh, State.mailbox_none z, fun _ => State.mailbox_payload⟩
  case partition =>
    refine ⟨fun t ht => ?_, fun h => ⟨State.partition_absent h o z, ?_⟩⟩
    · obtain ⟨hrlogWr, hrlogRd, hpreqWr, hpreqRd⟩ := State.partition_registers ht z
      exact ⟨hrlogWr, hrlogRd, hpreqWr, hpreqRd, State.partition_none ht z⟩
    · rw [State.hasFunction_vf, h]
      rfl
  case doorbell =>
    refine fun j => ⟨fun q w hq => ?_, fun h => State.doorbell_absent h o z⟩
    obtain ⟨htail, hhead, hchead, hctail⟩ := State.doorbell_registers hq z
    exact ⟨htail, hhead, hchead, hctail, State.doorbell_none hq z⟩
  case capabilities =>
    exact fun f c => ⟨fun h => State.hasCapability_absent h c, Bool.and_false _, Bool.and_false _, State.hasCapability_interrupts,
      fun h => State.hasCapability_recovery h f⟩

end Sys2Proof.Machine
end

section
/-! PROOFS. The scalar registers of CTL: where a register maps to, and which registers show a write (R111, R145). -/

namespace Sys2Proof.Machine

/-- A register maps to no place, to a global register of its own context, or to a cell of the window file (R111). -/
theorem Core.destOf_cases (k : Core) (x : Fin 4) (n : Fin 32) :
    k.destOf x n = .none ∨ (∃ r, k.destOf x n = .glob x r) ∨ ∃ c, k.destOf x n = .cell c := by
  simp only [Core.destOf]
  split
  · exact .inl rfl
  · split
    · exact .inr (.inl ⟨_, rfl⟩)
    · split
      · exact .inl rfl
      · exact .inr (.inr ⟨_, rfl⟩)

/-- s0 to s7 map to no cell: they are the context's own (R111). -/
theorem Core.destOf_global (k : Core) (x : Fin 4) {n : Fin 32} (h : n.val < 8) :
    k.destOf x n = .none ∨ ∃ r, k.destOf x n = .glob x r := by
  by_cases h0 : n.val = 0
  · exact .inl (if_pos h0)
  · exact .inr ⟨_, (if_neg h0).trans (dif_pos h)⟩

theorem Core.readS_of_none {k : Core} {x : Fin 4} {n : Fin 32} (h : k.destOf x n = .none) : k.readS x n = 0 := by
  rw [Core.readS, h]

theorem Core.writeS_of_none {k : Core} {x : Fin 4} {n : Fin 32} (h : k.destOf x n = .none) (v : W64) : k.writeS x n v = k := by
  rw [Core.writeS, h, Core.supersede_none]; rfl

@[simp] theorem Core.destOf_writeS (k : Core) (x y : Fin 4) (n m : Fin 32) (v : W64) : (k.writeS x n v).destOf y m = k.destOf y m := by
  rw [Core.writeS, Core.destOf_writeDest, Core.destOf_supersede]

/-- A write by one context leaves s1 to s7 of every other context. -/
theorem Core.writeS_s_ne (k : Core) {x c : Fin 4} (h : c ≠ x) (n : Fin 32) (v : W64) :
    ((k.writeS x n v).ctx.at c).s = (k.ctx.at c).s := by
  rw [Core.writeS]
  obtain hd | ⟨r, hd⟩ | ⟨m, hd⟩ := k.destOf_cases x n <;> rw [hd]
  · exact Core.supersede_s ..
  · simp only [Core.writeDest, Core.modCtx_ctx, File.at_mod, if_neg (Ne.symm h), Core.supersede_s]
  · exact Core.supersede_s ..

theorem Core.readS_writeS_ctx_ne (k : Core) {x c : Fin 4} (h : c ≠ x) (n : Fin 32) (v : W64) {r : Fin 32} (hr : r.val < 8) :
    (k.writeS x n v).readS c r = k.readS c r := by
  simp only [Core.readS, Core.destOf_writeS]
  obtain hd | ⟨i, hd⟩ := k.destOf_global c hr <;> rw [hd]
  simp only [Core.writeS_s_ne k h]

/-- Settles O8: a write goes to the place of its register (`Core.readS_writeS`), to none where that is `.none`, and s0 to s7 are each context's
own. -/
theorem registerWrites : Obligations.RegisterWrites := by
  unfold Obligations.RegisterWrites
  intro k x n m v
  refine ⟨?_, rfl, fun h => ⟨Core.readS_of_none h, Core.writeS_of_none h v⟩, fun c hc r hr => k.readS_writeS_ctx_ne hc n v hr⟩
  rw [Core.readS_writeS]
  exact if_congr and_comm rfl rfl

end Sys2Proof.Machine
end

section
/-! PROOFS. Taking a trap, the words that trap, and the return from the handler (R113, R114, R119 to R121, R173, R175). -/

namespace Sys2Proof.Machine

/-! ## The stop of a core (R120) -/

/-- What of a core the steps of R120 before the entry into the handler leave as it is. -/
structure Core.Stops (a b : Core) : Prop where
  mode : b.mode = a.mode
  vec : b.cr.trapVec = a.cr.trapVec
  s : ∀ x, (b.ctx.at x).s = (a.ctx.at x).s
  p : ∀ x, (b.ctx.at x).flow.p = (a.ctx.at x).flow.p
  pc : ∀ x, (b.ctx.at x).flow.pc = (a.ctx.at x).flow.pc
  link : ∀ x, (b.ctx.at x).link = (a.ctx.at x).link

theorem Core.Stops.trans {a b c : Core} (h : Core.Stops a b) (g : Core.Stops b c) : Core.Stops a c :=
  ⟨g.mode.trans h.mode, g.vec.trans h.vec, fun x => (g.s x).trans (h.s x), fun x => (g.p x).trans (h.p x),
    fun x => (g.pc x).trans (h.pc x), fun x => (g.link x).trans (h.link x)⟩

/-- A core with the same mode, handler address and contexts. -/
theorem Core.Stops.of_ctx {a b : Core} (hm : b.mode = a.mode) (hv : b.cr.trapVec = a.cr.trapVec) (hc : b.ctx = a.ctx) :
    Core.Stops a b := by
  constructor <;> simp only [hm, hv, hc, implies_true]

theorem Core.Stops.refl (k : Core) : Core.Stops k k := .of_ctx rfl rfl rfl

/-- A change of a context that leaves its registers, predicates, PC and link. -/
theorem Core.Stops.modCtx (k : Core) (y : Fin 4) (f : Ctx → Ctx) (hs : ∀ c, (f c).s = c.s) (hp : ∀ c, (f c).flow.p = c.flow.p)
    (hpc : ∀ c, (f c).flow.pc = c.flow.pc) (hl : ∀ c, (f c).link = c.link) : Core.Stops k (k.modCtx y f) := by
  constructor
  case mode => rfl
  case vec => rfl
  all_goals
    intro x
    rw [Core.modCtx_ctx, File.at_mod]
    split
    case isFalse => rfl
    case isTrue h => subst h; simp only [hs, hp, hpc, hl]

theorem Core.leavePhase_stops (k : Core) : Core.Stops k k.leavePhase := by
  have ctx := Core.Stops.modCtx k 0 (fun c => { c with flow := { c.flow with atPhase := none } }) (fun _ => rfl) (fun _ => rfl)
    (fun _ => rfl) fun _ => rfl
  exact ctx.trans (.of_ctx rfl rfl rfl)

/-- A core none of whose contexts waits in a `wadr`, one by one. -/
theorem Core.dropWadrs_stops (l : List (Fin 4)) (k : Core) :
    Core.Stops k (l.foldl (fun k x => k.modCtx x fun d => { d with wadr := none }) k) := by
  induction l generalizing k with
  | nil => exact .refl k
  | cons y r ih =>
    have ctx := Core.Stops.modCtx k y (fun d => { d with wadr := none }) (fun _ => rfl) (fun _ => rfl) (fun _ => rfl) fun _ => rfl
    exact ctx.trans (ih _)

theorem State.dropWadr_stops (s : State) (c : CoreId) : Core.Stops (s.core c) ((s.dropWadr c).core c) := by
  simp only [State.dropWadr, State.modCore_core_self, State.modDie_core]
  refine Core.Stops.trans ?_ (Core.dropWadrs_stops ..)
  exact .of_ctx rfl rfl rfl

theorem State.dropWadr_core_ne (s : State) {c d : CoreId} (h : c ≠ d) : (s.dropWadr c).core d = s.core d := State.modCore_core_ne _ h _

/-- The machine once a core has stopped for a trap: its lease and waits are ended, EX stands, no stream stands at its `phase` (R120). -/
def State.stopped (s : State) (c : CoreId) : State :=
  ((((s.endLease c).dropWait c).dropWadr c).stopEx c).modCore c fun k => k.leavePhase.modAux fun a => { a with trap := none }

theorem State.stopped_stops (s : State) (c : CoreId) : Core.Stops (s.core c) ((s.stopped c).core c) := by
  have wadr : Core.Stops (s.core c) ((((s.endLease c).dropWait c).dropWadr c).core c) := State.dropWadr_stops ..
  rw [State.stopped, State.modCore_core_self]
  generalize ((s.endLease c).dropWait c).dropWadr c = t at wadr
  have ex := t.stopEx_same c
  generalize (t.stopEx c).core c = k at ex
  have trap : Core.Stops k.leavePhase (k.leavePhase.modAux fun a => { a with trap := none }) := .of_ctx rfl rfl rfl
  exact ((wadr.trans (.of_ctx ex.mode ex.vec ex.ctx)).trans k.leavePhase_stops).trans trap

theorem State.stopped_core_ne (s : State) {c d : CoreId} (h : c ≠ d) : (s.stopped c).core d = s.core d := by
  rw [State.stopped, State.modCore_core_ne _ h, State.stopEx_core_ne _ h, State.dropWadr_core_ne _ h]
  rfl

/-! ## The end of a tile run by a trap (R120, R121) -/

theorem State.postRun_cores (s : State) (c : CoreId) (a b d e f : Nat) : (s.postRun c a b d e f).cores = s.cores := by
  simp only [State.postRun]; split <;> rfl

theorem State.modCore_cores_congr {s t : State} (h : t.cores = s.cores) (c : CoreId) (f : Core → Core) :
    (t.modCore c f).cores = (s.modCore c f).cores := by
  simp only [State.modCore, State.setCore, State.core, h]

/-- The end of a run changes no core but its own, which has ended with the trap as its report. -/
theorem State.endRun_cores (s : State) (c : CoreId) (t : Trap) :
    (s.endRun c t).cores = (s.modCore c fun k => ({ k with mode := .ended }).modAux fun a => { a with fault := some t }).cores := by
  have post := s.postRun_cores c 1 t.cause.toNat t.x.val t.pc.toNat t.info.toNat
  rw [State.endRun]
  refine State.modCore_cores_congr ?_ c _
  split <;> exact post

/-! ## Step 4 of R120 -/

/-- The core of a handler that begins: the trap's registers are written, c0's own are saved, and c0 stands at the handler as after a call. -/
def Core.enterHandler (k : Core) (t : Trap) : Core :=
  let c0 := k.ctx.at 0
  let h : Handler := ⟨c0.s, c0.flow.p, c0.link, c0.flow.posted, c0.flow.halted, c0.fix, c0.acc, c0.ties, t.q, t.x⟩
  let l : CallLink := ⟨c0.flow.pc, ((k.framesOf 0).head?).map (·.base), true⟩
  let k' := k.modCr fun r =>
    { r with trapCause := t.cause, trapPc := t.pc &&& 0xFFFFFFFC, trapInfo := t.info, trapResume := t.resume &&& 0xFFFFFFFC }
  ({ k' with mode := .handler, hand := some h } : Core).modCtx 0 fun d =>
    { d with
      loads := d.loads.map fun l => { l with dest := l.dest.toBank },
      res := d.res.map fun r => { r with d1 := r.d1.toBank, d2 := r.d2.toBank, banked := true },
      link := some l, fix := none, acc := none, ties := none,
      flow := { d.flow with pc := k.cr.trapVec, stall := 0, wait := none, halted := false, posted := false, atPhase := none } }

theorem State.enterTrap_eq (s : State) (c : CoreId) (t : Trap) :
    s.enterTrap c t = if ((s.stopped c).core c).mode = .handler || ((s.stopped c).core c).cr.trapVec = 0 then (s.stopped c).endRun c t
      else (s.stopped c).modCore c fun k => k.enterHandler t := rfl

theorem State.takeTrap_eq {s : State} {c : CoreId} {t : Trap} (h : (s.core c).xlatOutstanding t = false) :
    s.takeTrap c t = if (s.core c).mode = .handler ∨ (s.core c).cr.trapVec = 0 then (s.stopped c).endRun c t
      else (s.stopped c).modCore c fun k => k.enterHandler t := by
  have st := s.stopped_stops c
  rw [State.takeTrap, h, if_neg Bool.false_ne_true, State.enterTrap_eq, st.mode, st.vec]
  simp only [Bool.or_eq_true, decide_eq_true_eq]

/-- A trap with a handler, outside handler mode. -/
theorem State.takeTrap_handler {s : State} {c : CoreId} {t : Trap} (h : (s.core c).xlatOutstanding t = false)
    (hm : (s.core c).mode ≠ .handler) (hv : (s.core c).cr.trapVec ≠ 0) :
    s.takeTrap c t = (s.stopped c).modCore c fun k => k.enterHandler t :=
  (State.takeTrap_eq h).trans (if_neg (not_or.mpr ⟨hm, hv⟩))

/-- A trap in handler mode, or without a handler. -/
theorem State.takeTrap_ends {s : State} {c : CoreId} {t : Trap} (h : (s.core c).xlatOutstanding t = false)
    (hk : (s.core c).mode = .handler ∨ (s.core c).cr.trapVec = 0) : s.takeTrap c t = (s.stopped c).endRun c t :=
  (State.takeTrap_eq h).trans (if_pos hk)

theorem State.endRun_core_self (s : State) (c : CoreId) (t : Trap) :
    (s.endRun c t).core c = ({ s.core c with mode := .ended }).modAux fun a => { a with fault := some t } :=
  (congrArg (File.at · c) (s.endRun_cores c t)).trans (State.modCore_core_self ..)

theorem State.endRun_core_ne (s : State) {c d : CoreId} (h : c ≠ d) (t : Trap) : (s.endRun c t).core d = s.core d :=
  (congrArg (File.at · d) (s.endRun_cores c t)).trans (State.modCore_core_ne _ h _)

/-- A trap changes no other core. -/
theorem State.takeTrap_core_ne {s : State} {c d : CoreId} {t : Trap} (h : (s.core c).xlatOutstanding t = false) (hd : c ≠ d) :
    (s.takeTrap c t).core d = s.core d := by
  rw [State.takeTrap_eq h]
  split
  · rw [State.endRun_core_ne _ hd, State.stopped_core_ne _ hd]
  · rw [State.modCore_core_ne _ hd, State.stopped_core_ne _ hd]

/-- Settles O13: the stop of the core keeps what step 4 of R120 reads (`State.stopped_stops`); then either the handler begins
(`Core.enterHandler`) or the run ends with its report (`State.endRun_core_self`). -/
theorem trapEntry : Obligations.TrapEntry := by
  unfold Obligations.TrapEntry
  intro s c t h
  have st := s.stopped_stops c
  refine ⟨fun hm hv => ?handler, fun hk => ?ends, s.takeTrap_mem c t, fun d hd => State.takeTrap_core_ne h hd.symm⟩
  case handler =>
    rw [State.takeTrap_handler h hm hv, State.modCore_core_self]
    refine ⟨rfl, rfl, rfl, rfl, rfl, ?_, ⟨_, rfl, st.s 0, st.p 0, st.link 0, rfl, rfl⟩, ?_⟩
    · rw [Core.enterHandler, Core.modCtx_ctx, File.at_mod_self, ← st.vec]
    · rw [Core.enterHandler, Core.modCtx_ctx, File.at_mod_self]
      exact ⟨_, rfl, st.pc 0, rfl⟩
  case ends =>
    rw [State.takeTrap_ends h hk, State.endRun_core_self]
    exact ⟨rfl, rfl⟩

/-! ## The words that trap (R113, R114, R119, R173) -/

theorem trapInfo_ctl (x : Fin 4) (detail item : Nat) : trapInfo .ctl x detail item = BitVec.ofNat 64 (item * 2 ^ 16 + detail * 2 ^ 4 + x.val) := by
  rw [trapInfo, if_pos rfl, Seq.num, Nat.zero_mul, Nat.add_zero]

/-- A precise trap of a word of CTL names its own PC, where it is resumed. -/
theorem State.trapHere_ctl {s : State} (h : s.cur.q = .ctl) (cause : BitVec 8) (detail : Nat) :
    s.trapHere cause detail 0 = s.takeTrap s.cur.core
      ⟨cause, .ctl, s.cur.x, s.myFlow.pc, s.myFlow.pc, BitVec.ofNat 64 (detail * 2 ^ 4 + s.cur.x.val)⟩ := by
  rw [State.trapHere, h, trapInfo_ctl, Nat.zero_mul, Nat.zero_add]

/-- A word of CTL of one word that nothing holds, and that completes and then traps. -/
theorem State.word_delivers {s : State} {i : WordInfo} {body : State → Act} {cause : BitVec 8} {item : Nat} (h : s.cur.q = .ctl)
    (hc : s.clear i = true) (hb : body s = .deliver s cause item) (hl : i.words.length = 1) :
    s.word i body = .next ((s.issued i (s.myFlow.pc + 4)).takeTrap s.cur.core
      ⟨cause, .ctl, s.cur.x, s.myFlow.pc, s.myFlow.pc + 4, BitVec.ofNat 64 (item * 2 ^ 16 + s.cur.x.val)⟩) := by
  rw [State.word_clear hc, hb, State.act, State.nextPc, hl, h, trapInfo_ctl, Nat.zero_mul, Nat.add_zero]
  rfl

theorem exec_trap (y : Ring) (n : BitVec 8) (s : State) :
    exec (.trap y n) s = s.word (s.plain y (.trap y n)) fun s => .deliver s cSOFTWARE n.toNat := rfl

theorem exec_brk (y : Ring) (n : BitVec 8) (s : State) :
    exec (.brk y n) s = s.word (s.plain y (.brk y n)) fun s => .deliver s cBREAK n.toNat := rfl

/-- `ret` in a frame that has no caller, or in none (R113). -/
theorem exec_ret_badFrame {s : State} {y : Ring} (hc : s.clear (s.plain y (.ret y)) = true)
    (h : ∀ f, s.me.frameOf s.cur.x = some f → f.caller = none) : exec (.ret y) s = .next (s.trapHere cFRAME 3 0) := by
  refine State.word_trap hc ?_
  cases hf : s.me.frameOf s.cur.x with
  | none => simp only
  | some f => simp only [h f hf, Option.isNone_none, Bool.true_or, if_true]

/-- `tend` outside a tail (R113). -/
theorem exec_tend_badFrame {s : State} {y : Ring} (hc : s.clear (s.plain y (.tend y)) = true) (h : s.me.isTail s.cur.x = false) :
    exec (.tend y) s = .next (s.trapHere cFRAME 4 0) := by
  refine State.word_trap hc ?_
  simp only [h, Bool.not_false, if_true]

/-- `rett` outside handler mode (R113). -/
theorem exec_rett_badFrame {s : State} {y : Ring} (hc : s.clear (s.plain y (.rett y)) = true) (h : s.me.mode ≠ .handler) :
    exec (.rett y) s = .next (s.trapHere cFRAME 5 0) := by
  have hm : (s.me.mode == .handler) = false := beq_false_of_ne h
  refine State.word_trap hc ?_
  simp only [hm, Bool.false_and, Bool.false_eq_true, if_false]
  split <;> rfl

/-- `call` in a tail (R114). -/
theorem exec_call_inTail {s : State} (y : Ring) (b : Fin 4) (hq : s.cur.q = .ctl) (hi : s.mayIssue = true) (hd : s.myFlow.due = [])
    (ht : s.me.isTail s.cur.x = true) : exec (.call y b) s = .next (s.trapHere cTAIL 0 0) := by
  have hb : s.barred { s.plain y (.call y b) with noTail := true } = true := by
    simp only [State.barred, hq, ht, beq_self_eq_true, Bool.true_or, Bool.true_and]
  refine congrArg Host.Outcome.next ?_
  obtain h | ⟨-, d, r, h, -⟩ | ⟨-, -, -, h⟩ | ⟨-, -, h, -⟩ | ⟨-, -, h, -⟩ | ⟨h, -⟩ :=
    s.runWord_cases { s.plain y (.call y b) with noTail := true } _
  · exact absurd (h.1.symm.trans hi) Bool.false_ne_true
  · exact absurd (hd.symm.trans h) (List.cons_ne_nil d r).symm
  · exact h
  · exact absurd (h.symm.trans hb) Bool.false_ne_true
  · exact absurd (h.symm.trans hb) Bool.false_ne_true
  · simp only [State.clear, hb, Bool.not_true, Bool.and_false, Bool.false_and, Bool.false_eq_true] at h

/-- Settles O14: `trap` and `brk` issue and then deliver their cause; each other word raises a precise trap at its own PC. -/
theorem trapsOfWords : Obligations.TrapsOfWords := by
  unfold Obligations.TrapsOfWords
  intro s y n hq
  refine ⟨fun i cause hi hc => ?delivers, fun i d hc hi => ?badFrame, fun b hi hd ht => ?inTail⟩
  case delivers =>
    simp only [List.mem_cons, Prod.mk.injEq, List.not_mem_nil, or_false] at hi
    obtain ⟨rfl, rfl⟩ | ⟨rfl, rfl⟩ := hi
    · exact (exec_trap y n s).trans (State.word_delivers hq hc rfl rfl)
    · exact (exec_brk y n s).trans (State.word_delivers hq hc rfl rfl)
  case badFrame =>
    have trap : exec i s = .next (s.trapHere cFRAME d 0) := by
      obtain ⟨rfl, rfl, h⟩ | ⟨rfl, rfl, h⟩ | ⟨rfl, rfl, h⟩ := hi
      · exact exec_ret_badFrame hc h
      · exact exec_tend_badFrame hc h
      · exact exec_rett_badFrame hc h
    rw [trap, State.trapHere_ctl hq]
    rfl
  case inTail =>
    rw [exec_call_inTail y b hq hi hd ht, State.trapHere_ctl hq, Nat.zero_mul, Nat.zero_add]
    rfl

/-! ## The return from the handler (R120, R175) -/

theorem Core.clearStalls_ctx (k : Core) (x : Fin 4) :
    k.clearStalls.ctx.at x = { k.ctx.at x with flow := { (k.ctx.at x).flow with stall := 0 } } := by
  simp only [Core.clearStalls, List.foldl, Core.modFlow, Core.modCtx, File.at_mod]
  fin_cases x <;> rfl

theorem Core.clearStalls_flow (k : Core) (q : Seq) (x : Fin 4) : k.clearStalls.flow q x = { k.flow q x with stall := 0 } := by
  cases q with
  | ctl => exact congrArg Ctx.flow (k.clearStalls_ctx x)
  | _ => rfl

/-- A change to the flow of another stream leaves a context as it is. -/
theorem Core.modFlow_ctx_ne (k : Core) {q : Seq} {x y : Fin 4} (h : ¬(q = .ctl ∧ x = y)) (f : Flow → Flow) :
    (k.modFlow q x f).ctx.at y = k.ctx.at y := by
  cases q with
  | ctl => rw [Core.modFlow, Core.modCtx_ctx, File.at_mod, if_neg fun e => h ⟨rfl, e⟩]
  | _ => rfl

/-- The stream that trapped is c0. -/
def Handler.mine (h : Handler) : Bool := h.q == .ctl && h.x == 0

theorem Handler.mine_iff {h : Handler} : h.mine = true ↔ h.q = .ctl ∧ h.x = 0 := by
  rw [Handler.mine, Bool.and_eq_true, beq_iff_eq, beq_iff_eq]

/-- c0 with its hidden bank back, at the PC where it goes on (R120, R175). -/
def Handler.restore (h : Handler) (resume ret : W32) (c : Ctx) : Ctx :=
  let at0 := if h.mine then resume else ret
  { c with
    s := h.s, link := h.link, fix := if at0 == ret then h.fix else none, acc := if at0 == ret then h.acc else none,
    ties := if at0 == ret then h.ties else none,
    loads := c.loads.map fun l => { l with dest := l.dest.fromBank },
    res := c.res.map fun r => { r with d1 := r.d1.fromBank, d2 := r.d2.fromBank, banked := false },
    flow := { c.flow with p := h.p, pc := at0, posted := h.posted && at0 == ret, halted := h.halted, wait := none } }

/-- A core whose handler has returned, before its streams are released: c0 is restored, and the stream that trapped stands at
`trap.resume`. -/
def Core.returned (k : Core) (h : Handler) (ret : W32) : Core :=
  let k' := k.popFrame.modCtx 0 (h.restore k.cr.trapResume ret)
  if h.mine then k' else k'.modFlow h.q h.x fun f => { f with pc := k.cr.trapResume, posted := f.posted && f.pc == k.cr.trapResume }

/-- Every stream of a core is released, with its stall counter at 0 (R175). -/
def Core.released (k : Core) : Core := ({ k with mode := .running, hand := none }).clearStalls.resumeEx

theorem Core.leaveHandler_eq (k : Core) (h : Handler) (ret : W32) : k.leaveHandler h ret = (k.returned h ret).released := rfl

theorem Core.released_ctx (k : Core) (x : Fin 4) :
    k.released.ctx.at x = { k.ctx.at x with flow := { (k.ctx.at x).flow with stall := 0 } } :=
  Core.clearStalls_ctx { k with mode := .running, hand := none } x

theorem Core.released_flow (k : Core) (q : Seq) (x : Fin 4) : k.released.flow q x = { k.flow q x with stall := 0 } := by
  have stalls := Core.clearStalls_flow { k with mode := .running, hand := none } q x
  cases q <;> exact stalls

theorem Core.returned_ctx (k : Core) (h : Handler) (ret : W32) :
    (k.returned h ret).ctx.at 0 = h.restore k.cr.trapResume ret (k.popFrame.ctx.at 0) := by
  have c0 : (k.popFrame.modCtx 0 (h.restore k.cr.trapResume ret)).ctx.at 0 = h.restore k.cr.trapResume ret (k.popFrame.ctx.at 0) := by
    rw [Core.modCtx_ctx, File.at_mod_self]
  rw [Core.returned]
  split
  case isTrue => exact c0
  case isFalse hm => rw [Core.modFlow_ctx_ne _ (mt Handler.mine_iff.mpr hm), c0]

theorem Core.returned_pc (k : Core) (h : Handler) (ret : W32) : ((k.returned h ret).flow h.q h.x).pc = k.cr.trapResume := by
  by_cases hm : h.mine = true
  · obtain ⟨hq, hx⟩ := Handler.mine_iff.mp hm
    rw [hq, hx, Core.flow, Core.returned_ctx]
    exact if_pos hm
  · rw [Core.returned, if_neg hm, Core.modFlow_flow_self]

/-- A word that nothing holds and whose body says itself what the state becomes. -/
theorem State.word_moved {s t : State} {i : WordInfo} {body : State → Act} (hc : s.clear i = true) (hb : body s = .moved t) :
    s.word i body = .next t := by
  rw [State.word_clear hc, hb]; rfl

/-- `rett` in the handler's entry frame (R175). -/
theorem exec_rett_entry {s : State} {y : Ring} {h : Handler} {f : Frame} (hc : s.clear (s.plain y (.rett y)) = true)
    (hh : s.me.hand = some h) (hf : s.me.frameOf 0 = some f) (he : f.entry = true) (hm : s.me.mode = .handler) (hx : s.cur.x = 0) :
    exec (.rett y) s = .next (s.modMe fun k => k.leaveHandler h f.retPc) := by
  refine State.word_moved hc ?_
  simp only [hh, hf, hm, hx, he, beq_self_eq_true, Bool.and_self, if_true]

/-- Settles O15: the core is the one before with its handler returned (`Core.returned`) and its streams released (`Core.released`). -/
theorem returnFromTrap : Obligations.ReturnFromTrap := by
  unfold Obligations.ReturnFromTrap
  intro s y h f hc hh hf he hm hx
  refine ⟨_, exec_rett_entry hc hh hf he hm hx, ?_⟩
  rw [State.modMe_me, Core.leaveHandler_eq, Core.released_ctx, Core.returned_ctx]
  refine ⟨rfl, rfl, rfl, rfl, rfl, ?resume, fun hn => ?own, fun q x => ?stall, rfl⟩
  case resume => rw [Core.released_flow, ← s.me.returned_pc h f.retPc]
  case own => exact if_neg (mt Handler.mine_iff.mp hn)
  case stall => rw [Core.released_flow]

end Sys2Proof.Machine
end

section
/-! PROOFS. Blocking waits and their codes, the stall budget, and the ring counters at the issue of a word (R12, R13, R117, R118). -/

namespace Sys2Proof.Machine

/-! ## Stalled cycles (R117, R118) -/

/-- A stream whose next word is held by the blocking wait of a code. -/
def State.waiting (s : State) (c : CoreId) (q : Seq) (x : Fin 4) (code : Nat) : State :=
  s.modCore c fun k => k.modFlow q x fun f => { f with wait := some code }

/-- A cycle in which the stream's stall counter counts. -/
def State.counted (s : State) (c : CoreId) (q : Seq) (x : Fin 4) : State :=
  s.modCore c fun k => k.modFlow q x fun f => { f with stall := f.stall + 1 }

theorem State.waiting_flow (s : State) (c : CoreId) (q : Seq) (x : Fin 4) (code : Nat) :
    ((s.waiting c q x code).core c).flow q x = { (s.core c).flow q x with wait := some code } := by
  rw [State.waiting, State.modCore_core_self, Core.modFlow_flow_self]

theorem State.counted_pc (s : State) (c : CoreId) (q : Seq) (x : Fin 4) :
    (((s.counted c q x).core c).flow q x).pc = ((s.core c).flow q x).pc := by
  rw [State.counted, State.modCore_core_self, Core.modFlow_flow_self]

theorem State.stallCycle_eq (s : State) (c : CoreId) (q : Seq) (x : Fin 4) (code : Nat) :
    s.stallCycle c q x code =
      if (s.waiting c q x code).paused c q x then s.waiting c q x code
      else if ((s.core c).flow q x).budget.toNat ≤ ((s.core c).flow q x).stall + 1 then
        ((s.waiting c q x code).counted c q x).stallTrap c q x code
      else (s.waiting c q x code).counted c q x := by
  have flow := s.waiting_flow c q x code
  rw [State.waiting] at flow
  rw [State.stallCycle, flow]
  rfl

/-- The trap of the budget is precise: it names the held word, which is resumed at. -/
theorem State.stallTrap_takes (s : State) (c : CoreId) (q : Seq) (x : Fin 4) (code : Nat) :
    ∃ info, s.stallTrap c q x code = s.takeTrap c ⟨cSTALL, q, x, ((s.core c).flow q x).pc, ((s.core c).flow q x).pc, info⟩ := ⟨_, rfl⟩

/-! ## The words that wait (R117) -/

/-- A word that nothing stands before and whose body waits. -/
theorem State.word_wait {s : State} {i : WordInfo} {body : State → Act} {code : Nat} (hc : s.clear i = true) (hb : body s = .wait code) :
    s.word i body = .next (s.stallCycle s.cur.core s.cur.q s.cur.x code) := by
  rw [State.word_clear hc, hb]; rfl

/-- c0's join is held while a tail lives (R116). -/
theorem State.join_waits {s : State} (hq : s.cur.q = .ctl) (hx : s.cur.x = 0) (ht : s.me.tailsLive = true) (f : State → Act) :
    s.join f = .wait 0x2B := by
  simp only [State.join, hq, hx, ht, beq_self_eq_true, Bool.and_self, if_true]

/-- Of one mark waited on, a pending one is the lowest pending. -/
theorem Core.lowestPending_single {k : Core} {m : Fin 32} (h : k.markDone m = false) :
    k.lowestPending (Waits.list ⟨some m, none, none⟩) = some m := by
  have list : Waits.list ⟨some m, none, none⟩ = [m] := rfl
  have only : ∀ i, ([m].contains i && !k.markDone i) = true ↔ i = m := by
    intro i
    rw [Bool.and_eq_true, List.contains_iff_mem, List.mem_singleton, Bool.not_eq_true']
    exact and_iff_left_of_imp fun e => e ▸ h
  rw [list, Core.lowestPending]
  cases hi : (List.finRange 32).find? fun i => [m].contains i && !k.markDone i with
  | none => exact absurd ((only m).mpr rfl) (List.find?_eq_none.mp hi m (List.mem_finRange m))
  | some i =>
    have pending := List.find?_some hi
    rw [(only i).mp pending]

/-! ## Ring counters (R12, R13) -/

/-- A cell of a file after a change of one cell where a condition holds. -/
theorem File.at_mod_if {α : Type} {n : Nat} (f : File α n) (i j : Fin n) (g : α → α) (b : Bool) :
    (if b then f.mod i g else f).at j = if j = i ∧ b = true then g (f.at j) else f.at j := by
  cases b
  case false => simp only [Bool.false_eq_true, if_false, and_false]
  case true =>
    simp only [if_true, and_true, File.at_mod]
    by_cases h : i = j
    · rw [if_pos h, if_pos h.symm, h]
    · rw [if_neg h, if_neg (Ne.symm h)]

/-- Two changes of different cells: a cell is changed by one of them or by none. -/
theorem ite_ite_of_ne {α ι : Type} [DecidableEq ι] (g : α → α) (v : α) (n : ι) {a b : ι} (ne : a ≠ b) (p q : Bool) :
    (if n = b ∧ q = true then g (if n = a ∧ p = true then g v else v) else if n = a ∧ p = true then g v else v) =
      if n = a ∧ p = true ∨ n = b ∧ q = true then g v else v := by
  by_cases hb : n = b ∧ q = true
  · have ha : ¬(n = a ∧ p = true) := fun ha => ne (ha.1.symm.trans hb.1)
    rw [if_pos hb, if_neg ha, if_pos (.inr hb)]
  · simp only [hb, if_false, or_false]

theorem Core.take_rings (k : Core) (q : Seq) (n : Fin 8) : (k.take q n).rings = k.rings.mod n (· - 1) := by
  simp only [Core.take, Core.follow]; split <;> rfl

theorem Core.post_rings (k : Core) (q : Seq) (n : Fin 8) : (k.post q n).rings = k.rings.mod n (· + 1) := rfl

theorem Core.takeRing_rings (k : Core) (q : Seq) (y : Ring) (n : Fin 8) :
    (k.takeRing q y).rings.at n =
      if n = ringWb q ∧ y.wb = true ∨ n = ringWa q ∧ y.wa = true then k.rings.at n - 1 else k.rings.at n := by
  have ne : ringWb q ≠ ringWa q := by cases q <;> decide
  rw [← ite_ite_of_ne (· - 1) (k.rings.at n) n ne, Core.takeRing]
  simp only [apply_ite Core.rings, Core.take_rings, File.at_mod_if]

theorem Core.postRing_rings (k : Core) (q : Seq) (y : Ring) (n : Fin 8) :
    (k.postRing q y).rings.at n =
      if n = ringSb q ∧ y.sb = true ∨ n = ringSa q ∧ y.sa = true then k.rings.at n + 1 else k.rings.at n := by
  have ne : ringSb q ≠ ringSa q := by cases q <;> decide
  rw [← ite_ite_of_ne (· + 1) (k.rings.at n) n ne, Core.postRing]
  simp only [apply_ite Core.rings, Core.post_rings, File.at_mod_if]

/-- A word whose ring field has not acted, and whose posts do not wait for its completion, takes and posts at its issue. -/
theorem Core.issueRings_rings {k : Core} {q : Seq} {x : Fin 4} {i : WordInfo} (hp : (k.flow q x).posted = false) (hm : i.memory = false)
    (n : Fin 8) : (k.issueRings q x i).rings.at n = ((k.takeRing q i.y).postRing q i.y).rings.at n := by
  simp only [Core.issueRings, hp, hm, Bool.or_self, Bool.false_eq_true, if_false]
  split <;> rfl

theorem State.issued_rings_ctl {s : State} (hq : s.cur.q = .ctl) (i : WordInfo) (pc : W32) :
    (s.issued i pc).me.rings = (s.me.issueRings .ctl s.cur.x i).rings := by
  obtain ⟨f, hf, -⟩ := State.issued_core s i pc
  have ticked : s.ticked = s := by
    rw [State.ticked, hq]; rfl
  rw [hf, Core.modFlow_rings, ticked, hq]

/-- Settles O16: a stalled cycle has three outcomes (`State.stallCycle_eq`), each wait is the body of its word (`State.word_wait`), and a word of
CTL takes from tq_sc and tq_lc and posts to tq_cs and tq_cl. -/
theorem waitsAndRings : Obligations.WaitsAndRings := by
  unfold Obligations.WaitsAndRings
  refine ⟨fun s c q x code => ⟨fun hp => ?paused, fun hp => ⟨fun hb => ?counts, fun hb => ?traps⟩⟩, fun s y i code hc hi => ?codes,
    fun s w pc n hq hp hm => ?rings⟩
  case paused => exact (s.stallCycle_eq c q x code).trans (if_pos hp)
  case counts =>
    exact ((s.stallCycle_eq c q x code).trans (if_neg (ne_true_of_eq_false hp))).trans (if_neg (Nat.not_le.mpr hb))
  case traps =>
    obtain ⟨info, htrap⟩ := ((s.waiting c q x code).counted c q x).stallTrap_takes c q x code
    rw [State.counted_pc, State.waiting_flow] at htrap
    exact ⟨info, (((s.stallCycle_eq c q x code).trans (if_neg (ne_true_of_eq_false hp))).trans (if_pos hb)).trans htrap⟩
  case codes =>
    obtain ⟨d, rfl, h, rfl⟩ | ⟨b, n, rfl, h, rfl⟩ | ⟨g, a, rfl, h, rfl⟩ | ⟨g, n, p, rfl, h, rfl⟩ | ⟨rfl, h, rfl⟩ | ⟨rfl, hq, hx, h, rfl⟩ |
      ⟨m, j, rfl, h, rfl, rfl⟩ := hi
    case inl => exact State.word_wait hc (by simp only [h])
    case inr.inl => exact State.word_wait hc (by simp only [h])
    case inr.inr.inl => exact State.word_wait hc (if_pos h)
    case inr.inr.inr.inl => exact State.word_wait hc (if_pos h)
    case inr.inr.inr.inr.inl => exact State.word_wait hc (if_neg (ne_true_of_eq_false h))
    case inr.inr.inr.inr.inr.inl => exact State.word_wait hc (State.join_waits hq hx h _)
    case inr.inr.inr.inr.inr.inr => exact State.word_wait hc (by simp only [Core.lowestPending_single h])
  case rings =>
    rw [State.myFlow, hq] at hp
    rw [State.issued_rings_ctl hq, Core.issueRings_rings hp hm, Core.postRing_rings, Core.takeRing_rings]
    by_cases hn : n = 3 ∧ w.y.wb = true ∨ n = 4 ∧ w.y.wa = true
    · have other : ¬(n = 7 ∧ w.y.sb = true ∨ n = 0 ∧ w.y.sa = true) := by
        obtain ⟨rfl, -⟩ | ⟨rfl, -⟩ := hn <;> simp
      exact (if_neg other).trans ((if_pos hn).trans (if_pos hn).symm)
    · exact (if_congr Iff.rfl (congrArg (· + 1) (if_neg hn)) (if_neg hn)).trans (if_neg hn).symm

end Sys2Proof.Machine
end

section
/-! PROOFS. The mailbox commands about translation and queues (R125, R131, R139 to R141, R324, R331). -/

namespace Sys2Proof.Machine

/-! ## A command at an idle mailbox (R352, R376) -/

/-- A command has been done: no error, and no detail code. -/
def State.succeeds (t : State) : State := t.modMbox fun m => { m with error := false, detail := 0 }

/-- What a command that has run leaves, outside recovery mode: the error with its detail code, or its effect with both cleared. -/
def Ran.ended (s : State) : Ran → State
  | .rejected d => s.mboxReject d
  | .rejectedIn d t => t.mboxReject d
  | .done t => t.succeeds

section
variable {s : State}

theorem State.modMbox_idle (h : s.hub.mbox.busy = false) : (s.modMbox fun m => { m with busy := false }) = s := by
  have hm : ({ s.hub.mbox with busy := false } : Mailbox) = s.hub.mbox := by rw [← h]
  simp only [State.modMbox, State.modHub, hm]

variable (hb : s.hub.mbox.busy = false) (hr : s.hub.brock.boot ≠ .recovery)
include hb hr

theorem State.mboxRun_idle (code : Nat) (inRec : Bool) (body : State → Ran) : s.mboxRun code inRec body = (body s).ended s := by
  have hoff : s.inRecovery = false := Bool.eq_false_iff.mpr fun h => hr (State.inRecovery_iff.mp h)
  simp only [State.mboxRun, State.mboxEnd, hb, Bool.false_and, Bool.false_eq_true, if_false, State.modMbox_idle hb, hoff]
  cases body s <;> rfl

theorem exec_configureQueue_idle : exec .configureQueue s = .next (s.runConfigureQueue.ended s) :=
  congrArg Host.Outcome.next (State.mboxRun_idle hb hr ..)

theorem exec_setRoot_idle : exec .setRoot s = .next (s.runSetRoot.ended s) := congrArg Host.Outcome.next (State.mboxRun_idle hb hr ..)

theorem exec_flushAsid_idle : exec .flushAsid s = .next (s.runFlushAsid.ended s) := congrArg Host.Outcome.next (State.mboxRun_idle hb hr ..)

theorem exec_revoke_idle : exec .revoke s = .next (s.runRevoke.ended s) := congrArg Host.Outcome.next (State.mboxRun_idle hb hr ..)

theorem exec_resume_idle : exec .resume s = .next (s.runResume.ended s) := congrArg Host.Outcome.next (State.mboxRun_idle hb hr ..)

end

theorem firstOf_cons_true {b : Bool} (h : b = true) (d : Nat) (l : List (Bool × Nat)) : firstOf ((b, d) :: l) = some d := by
  rw [firstOf, if_pos h]

theorem firstOf_cons_false {b : Bool} (h : b = false) (d : Nat) (l : List (Bool × Nat)) : firstOf ((b, d) :: l) = firstOf l := by
  rw [firstOf, if_neg (Bool.eq_false_iff.mp h)]

theorem Ran.check_rejected {b : Bool} (h : b = true) (d : Nat) (t : State) : Ran.check [(b, d)] t = .rejected d := by
  rw [Ran.check, firstOf_cons_true h]

theorem Ran.check_done {b : Bool} (h : b = false) (d : Nat) (t : State) : Ran.check [(b, d)] t = .done t := by
  rw [Ran.check, firstOf_cons_false h, firstOf]

/-! ## SET_ROOT and FLUSH_ASID (R125, R131) -/

/-- A search by key in a list from which a key has been removed. -/
theorem find?_filter_key {α β : Type} [DecidableEq β] (f : α → β) (l : List α) (k a : β) :
    (l.filter fun r => f r != k).find? (fun r => f r == a) = if a = k then none else l.find? fun r => f r == a := by
  rw [List.find?_filter]
  split
  · next h => exact List.find?_eq_none.mpr fun r _ => by simp [h]
  · next h =>
    congr 1
    funext r
    by_cases hr : f r = a <;> simp [hr, h]

/-- The roots once that of an address space is installed. -/
theorem find?_installed (l : List (BitVec 11 × Fin 4 × Nat)) (k a : BitVec 11) (b : Fin 4 × Nat) :
    ((k, b) :: l.filter fun r => r.1 != k).find? (fun r => r.1 == a) = if a = k then some (k, b) else l.find? fun r => r.1 == a := by
  rw [List.find?_cons, find?_filter_key (fun r : BitVec 11 × Fin 4 × Nat => r.1)]
  by_cases h : a = k
  · simp [h]
  · simp [h, beq_false_of_ne (Ne.symm h)]

/-- The state with what walks of an address space have cached dropped. -/
def State.flushed (s : State) (asid : BitVec 11) : State :=
  { s with tus := s.tus.map fun t => { t with walk := t.walk.filter fun e => e.asid != asid, leaf := t.leaf.filter fun e => e.asid != asid } }

theorem State.runFlushAsid_eq (s : State) : s.runFlushAsid = .done (s.flushed (BitVec.ofNat 11 (s.pay 0 0 11))) := rfl

theorem State.mem_flushed_cached {s : State} {asid : BitVec 11} {u : Fin 16} {e : TlbEntry} :
    e ∈ ((s.flushed asid).tus.at u).walk ++ ((s.flushed asid).tus.at u).leaf ↔
      e ∈ (s.tus.at u).walk ++ (s.tus.at u).leaf ∧ e.asid ≠ asid := by
  rw [State.flushed, File.at_map, ← List.filter_append, List.mem_filter, bne_iff_ne]

/-! ## What a freeze leaves of the hub (R139) -/

/-- The REVOKEs that stand and the payload of the mailbox are as they were. -/
structure State.KeepsRevokes (s t : State) : Prop where
  revokes : t.hub.revokes = s.hub.revokes
  payload : t.hub.mbox.payload = s.hub.mbox.payload

namespace State.KeepsRevokes

theorem of_hub {s t : State} (h : t.hub = s.hub) : s.KeepsRevokes t := ⟨by rw [h], by rw [h]⟩

theorem refl (s : State) : s.KeepsRevokes s := ⟨rfl, rfl⟩

theorem trans {s t u : State} (h : s.KeepsRevokes t) (g : t.KeepsRevokes u) : s.KeepsRevokes u :=
  ⟨g.revokes.trans h.revokes, g.payload.trans h.payload⟩

theorem foldl {α : Type} {f : State → α → State} (h : ∀ t a, State.KeepsRevokes t (f t a)) (l : List α) (s : State) :
    s.KeepsRevokes (l.foldl f s) :=
  List.foldlRecOn (motive := fun t => s.KeepsRevokes t) l f (refl s) fun t ht a _ => ht.trans (h t a)

theorem badSector (s : State) (n : Nat) : s.KeepsRevokes (s.badSector n) := by
  unfold State.badSector State.setReplace
  split
  · split <;> exact ⟨rfl, rfl⟩
  · exact ⟨rfl, rfl⟩

theorem machineCheck (s : State) (c : CoreId) (what addr d0 d1 d2 : Nat) : s.KeepsRevokes (s.machineCheck c what addr d0 d1 d2) := by
  unfold State.machineCheck
  cases (s.core c).aux.run <;> exact ⟨rfl, rfl⟩

theorem consumeError (s : State) (c : CoreId) (what addr : Nat) (next : Bool) : s.KeepsRevokes (s.consumeError c what addr next) := by
  simp only [State.consumeError]
  split
  · exact refl s
  · split
    · exact ⟨rfl, rfl⟩
    · exact machineCheck ..

theorem consumePoison (s : State) (c : CoreId) (n : Nat) : s.KeepsRevokes (s.consumePoison c n) :=
  ((of_hub rfl : s.KeepsRevokes s.freeWord.2).trans (badSector _ n)).trans (consumeError ..)

theorem combineAll (o : UpdOp) (y : Ty) (n : Nat) (l : List Nat) (s : State) : s.KeepsRevokes (combineAll o y n l s).2 := by
  induction n generalizing l s with
  | zero => exact refl s
  | succ n ih =>
    simp only [Machine.combineAll]
    split
    · exact refl s
    · exact (of_hub rfl : s.KeepsRevokes s.freeNat.2.freeNat.2).trans (ih ..)

theorem mergeElement (s : State) (c : CoreId) (o : UpdOp) (y : Ty) (key : Nat) (vs : List W32) :
    s.KeepsRevokes (s.mergeElement c o y key vs) := by
  simp only [State.mergeElement]
  split
  · exact consumePoison ..
  · exact (combineAll o y _ _ s).trans (of_hub rfl)

theorem mergeLine (s : State) (c : CoreId) (line : Nat) : s.KeepsRevokes (s.mergeLine c line) := by
  unfold State.mergeLine
  split
  · exact (of_hub rfl : s.KeepsRevokes ((s.dropCopies line).modCore c fun k => k.l1Drop line)).trans (foldl (fun _ _ => mergeElement ..) _ _)
  · exact refl s

theorem mergeHolders (line n : Nat) (hs : List CoreId) (s : State) : s.KeepsRevokes (State.mergeHolders line n hs s) := by
  induction n generalizing hs s with
  | zero => exact refl s
  | succ n ih =>
    have hd : s.KeepsRevokes s.freeNat.2 := of_hub rfl
    simp only [State.mergeHolders]
    split
    · exact hd
    · exact (hd.trans (mergeLine ..)).trans (ih ..)

theorem mergeAll (s : State) (line : Nat) : s.KeepsRevokes (s.mergeAll line) := by
  unfold State.mergeAll
  exact mergeHolders ..

theorem dropCopies (s : State) (line : Nat) : s.KeepsRevokes (s.dropCopies line) := of_hub rfl

theorem homeWrite (s : State) (line : Nat) : s.KeepsRevokes (s.homeWrite line) := by
  unfold State.homeWrite
  exact (mergeAll ..).trans (dropCopies ..)

theorem withMem (s : State) (m : Bytes) : s.KeepsRevokes { s with mem := m } := of_hub rfl

theorem notePin (s : State) (base : BitVec 52) (i : Nat) (frozen : Bool) : s.KeepsRevokes (s.notePin base i frozen) := ⟨rfl, rfl⟩

theorem putPinState (s : State) (base : BitVec 52) (i st : Nat) : s.KeepsRevokes (s.putPinState base i st) := by
  unfold State.putPinState
  exact (homeWrite ..).trans (withMem ..)

theorem setPinState (s : State) (base : BitVec 52) (i st : Nat) (frozen : Bool) : s.KeepsRevokes (s.setPinState base i st frozen) := by
  unfold State.setPinState
  dsimp only
  split
  · exact putPinState ..
  · exact (putPinState ..).trans (notePin ..)

end State.KeepsRevokes

/-! ## REVOKE, RESUME and QUIESCED (R139 to R141) -/

/-- The pin entries that a range of an address space touches. -/
def State.touched (s : State) (asid : BitVec 11) (va len : Nat) : List (BitVec 52 × Nat) := (s.pinBases asid).flatMap (s.toFreeze asid va len)

/-- The state with pin entries FROZEN by a REVOKE. -/
def State.freeze (s : State) (ents : List (BitVec 52 × Nat)) : State := ents.foldl (fun t e => t.setPinState e.1 e.2 2 true) s

theorem State.freeze_keepsRevokes (s : State) (ents : List (BitVec 52 × Nat)) : s.KeepsRevokes (s.freeze ents) :=
  .foldl (fun _ _ => .setPinState ..) ents s

/-- A cached entry that a REVOKE leaves. -/
def TlbEntry.outlives (asid : BitVec 11) (va len : Nat) (e : TlbEntry) : Bool :=
  !((e.asid == asid || pteG e.pte.toNat) && meets va len e.span.1 e.span.2)

/-- An ingress MMU's copy of a pin entry after a REVOKE. -/
def PinRuns.iced (asid : BitVec 11) (va len : Nat) (p : PinRuns) : PinRuns :=
  if p.asid == asid && meets va len p.va p.len && (p.state == 1 || p.state == 3) then { p with state := 2 } else p

/-- The state with what is cached over a range dropped, and the copies of its pin entries FROZEN. -/
def State.dropRange (s : State) (asid : BitVec 11) (va len : Nat) : State :=
  { s with
    tus := s.tus.map fun u => { u with
      walk := u.walk.filter (TlbEntry.outlives asid va len), leaf := u.leaf.filter (TlbEntry.outlives asid va len) },
    dies := s.dies.map fun e => { e with pins := e.pins.map (PinRuns.iced asid va len) } }

/-- A REVOKE stands, its pin entries in memory being FROZEN. -/
def State.withRevoke (s : State) (r : Revoke) : State :=
  (s.dropRange r.asid r.va r.len).modHub fun h => { h with revokes := h.revokes ++ [r] }

theorem TlbEntry.outlives_iff {asid : BitVec 11} {va len : Nat} {e : TlbEntry} :
    e.outlives asid va len = true ↔
      ¬ ((e.asid = asid ∨ pteG e.pte.toNat = true) ∧ va < e.span.1 + e.span.2 ∧ e.span.1 < va + len) := by
  simp only [TlbEntry.outlives, meets, Bool.not_eq_true', ← Bool.not_eq_true, Bool.and_eq_true, Bool.or_eq_true, beq_iff_eq, decide_eq_true_eq]

theorem State.dropRange_cached {s : State} {asid : BitVec 11} {va len : Nat} {u : Fin 16} {e : TlbEntry}
    (h : e ∈ ((s.dropRange asid va len).tus.at u).walk ++ ((s.dropRange asid va len).tus.at u).leaf) : e.outlives asid va len = true := by
  simp only [State.dropRange, File.at_map] at h
  rw [← List.filter_append] at h
  exact List.of_mem_filter h

theorem PinRuns.iced_state {asid : BitVec 11} {va len : Nat} {p : PinRuns} (ha : (p.iced asid va len).asid = asid)
    (hm : meets va len (p.iced asid va len).va (p.iced asid va len).len = true) :
    (p.iced asid va len).state ≠ 1 ∧ (p.iced asid va len).state ≠ 3 := by
  unfold PinRuns.iced at ha hm ⊢
  split at ha
  · next h => rw [if_pos h]; exact ⟨(by decide : (2 : BitVec 3) ≠ 1), (by decide : (2 : BitVec 3) ≠ 3)⟩
  · next h =>
    rw [if_neg h] at hm ⊢
    simpa [ha, hm] using h

theorem State.dropRange_pins {s : State} {asid : BitVec 11} {va len : Nat} {d : Fin 4} {p : PinRuns}
    (h : p ∈ ((s.dropRange asid va len).dies.at d).pins) (ha : p.asid = asid) (hm : meets va len p.va p.len = true) :
    p.state ≠ 1 ∧ p.state ≠ 3 := by
  simp only [State.dropRange, File.at_map] at h
  obtain ⟨q, -, rfl⟩ := List.mem_map.mp h
  exact PinRuns.iced_state ha hm

/-- What stands once a REVOKE is done, whose freeze has made of the state `s` the state `v`. -/
theorem State.withRevoke_spec {s v : State} (hk : s.KeepsRevokes v) (r : Revoke) :
    let hit := fun (a n : Nat) => r.va < a + n ∧ a < r.va + r.len
    ∃ t, (v.withRevoke r).succeeds = t ∧ t.hub.mbox.error = false ∧ t.hub.mbox.detail = 0 ∧ t.hub.mbox.payload = s.hub.mbox.payload ∧
    t.hub.revokes = s.hub.revokes ++ [r] ∧ t.mem = v.mem ∧
    (∀ u e, e ∈ (t.tus.at u).walk ++ (t.tus.at u).leaf → ¬ ((e.asid = r.asid ∨ pteG e.pte.toNat = true) ∧ hit e.span.1 e.span.2)) ∧
    (∀ d p, p ∈ (t.dies.at d).pins → p.asid = r.asid → hit p.va p.len → p.state ≠ 1 ∧ p.state ≠ 3) :=
  ⟨_, rfl, rfl, rfl, hk.payload, congrArg (· ++ [r]) hk.revokes, rfl, fun _ _ he => TlbEntry.outlives_iff.mp (State.dropRange_cached he),
    fun _ _ hp ha hh => State.dropRange_pins hp ha (by simpa [meets] using hh)⟩

theorem State.runRevoke_eq (s : State) :
    let asid := BitVec.ofNat 11 (s.pay 0 0 11)
    let va := s.pay 8 0 57
    let len := s.pay 0x10 0 58
    let ents := s.touched asid va len
    s.runRevoke = Ran.check [(len == 0 || decide (2 ^ 57 < len), 3)]
      ((s.freeze ents).withRevoke ⟨asid, va, len, s.runsOf asid va len, ents, false, false⟩) := rfl

/-- The REVOKEs that stand once those of an address space are released. -/
def resumed (asid : BitVec 11) (l : List Revoke) : List Revoke :=
  (l.map fun r => if r.asid = asid then { r with released := true } else r).filter fun r => !(r.released && r.quiesced)

theorem released_of_mem_resumed {asid : BitVec 11} {l : List Revoke} {r : Revoke} (h : r ∈ resumed asid l) (ha : r.asid = asid) :
    r.released = true ∧ r.quiesced = false := by
  obtain ⟨hm, hk⟩ := List.mem_filter.mp h
  obtain ⟨q, -, rfl⟩ := List.mem_map.mp hm
  have hr : (if q.asid = asid then { q with released := true } else q).released = true := by
    split at ha
    · next hq => rw [if_pos hq]
    · next hq => exact absurd ha hq
  exact ⟨hr, by simpa [hr] using hk⟩

theorem mem_resumed_of_ne {asid : BitVec 11} {l : List Revoke} {r : Revoke} (h : r ∈ l) (ha : r.asid ≠ asid) (hr : r.released = false) :
    r ∈ resumed asid l :=
  List.mem_filter.mpr ⟨List.mem_map.mpr ⟨r, h, if_neg ha⟩, by simp [hr]⟩

section
variable {s : State} {k : Nat} {r : Revoke}

theorem exec_quiesced_none (h : (s.hub.revokes.filter fun r => !r.quiesced)[k]? = none) : exec (.quiesced k) s = .next s := by
  change execQuiesced k s = _
  simp only [execQuiesced, h]

theorem exec_quiesced_waits (h : (s.hub.revokes.filter fun r => !r.quiesced)[k]? = some r)
    (hw : s.openReds r.runs = true ∨ s.reaching r = true) : exec (.quiesced k) s = .next s := by
  change execQuiesced k s = _
  simp only [execQuiesced, h, Bool.or_eq_true, hw, if_true]

/-- A REVOKE whose QUIESCED has posted: gone once it is released. -/
def Revoke.posted (r : Revoke) (l : List Revoke) : List Revoke := if r.released then l.erase r else l.replace r { r with quiesced := true }

/-- The QUIESCED of a REVOKE posts (R140, R141). -/
def State.postQuiesced (s : State) (r : Revoke) : State :=
  let s := s.postEvent 8 0 r.va r.asid.toNat
  let l := s.hub.revokes.erase r
  s.modHub fun h => { h with revokes := if r.released then l else h.revokes.replace r { r with quiesced := true } }

theorem State.postQuiesced_eq (s : State) (r : Revoke) :
    let u := s.postEvent 8 0 r.va r.asid.toNat
    let l := if r.released then u.hub.revokes.erase r else u.hub.revokes.replace r { r with quiesced := true }
    s.postQuiesced r = u.modHub fun h => { h with revokes := l } := rfl

theorem exec_quiesced_posts (h : (s.hub.revokes.filter fun r => !r.quiesced)[k]? = some r) (ho : s.openReds r.runs = false)
    (hr : s.reaching r = false) : exec (.quiesced k) s = .next (((s.mergeRuns r.runs).mergeSpace r.asid).postQuiesced r) := by
  change execQuiesced k s = _
  simp only [execQuiesced, State.postQuiesced, h, ho, hr, Bool.or_self, Bool.false_eq_true, if_false]

end

/-! ## CONFIGURE_QUEUE (R324, R331) -/

/-- The state without a queue. -/
def State.withoutQueue (s : State) (q : Fin 4096) : State := s.modHub fun h => { h with queues := h.queues.filter fun e => e.1.num != q }

section
variable {s : State}

/-- The state with a queue configured anew. -/
def State.withQueue (s : State) (k : Queue) : State :=
  (s.withoutQueue k.num).modHub fun h => { h with queues := h.queues ++ [(k, ⟨[], [], 0, 0⟩)] }

theorem State.described_num (s : State) : s.described.num.val = s.pay 0 0 12 := Nat.mod_eq_of_lt (Nat.mod_lt _ (by decide))

theorem State.runConfigureQueue_bad (h : s.descBad s.described = true) :
    s.runConfigureQueue = .rejectedIn 3 (s.withoutQueue s.described.num) := by
  unfold State.runConfigureQueue
  extract_lets k t
  rw [firstOf_cons_true h]
  rfl

theorem State.runConfigureQueue_refused (h : s.descBad s.described = false) (hr : s.refuses s.described = true) :
    s.runConfigureQueue = .rejectedIn 6 (s.withoutQueue s.described.num) := by
  unfold State.runConfigureQueue
  extract_lets k t
  rw [firstOf_cons_false h, firstOf_cons_true hr]
  rfl

theorem State.runConfigureQueue_done (h : s.descBad s.described = false) (hr : s.refuses s.described = false) :
    s.runConfigureQueue = .done (s.withQueue s.described) := by
  unfold State.runConfigureQueue
  extract_lets k t
  rw [firstOf_cons_false h, firstOf_cons_false hr]
  rfl

theorem State.withQueue_queue (s : State) (k : Queue) (q : Fin 4096) :
    (s.withQueue k).queue q = if q = k.num then some (k, ⟨[], [], 0, 0⟩) else s.queue q := by
  simp only [State.withQueue, State.withoutQueue, State.queue, State.modHub]
  rw [List.find?_append, find?_filter_key (fun e : Queue × QueueWork => e.1.num)]
  by_cases h : q = k.num
  · simp [h]
  · simp [h, Ne.symm h]

theorem State.refuses_idle {k : Queue} (h : k.budget = 0) : s.refuses k = false := by simp [State.refuses, h]

theorem State.refuses_large {k : Queue} {p : Part} (hp : s.hub.parts.at k.part = some p) (h0 : 0 < k.budget)
    (h : k.period * p.cores < k.budget) : s.refuses k = true := by
  simp [State.refuses, hp, h, Nat.ne_of_gt h0]

end

/-- Settles O49: outside recovery mode a command at an idle mailbox ends as its body says (`State.mboxRun_idle`). A REVOKE freezes pin entries
in memory, at whose home update-only lines merge and errors may be met; neither touches the REVOKEs that stand (`State.KeepsRevokes`). The model's own
choices among what is proved are those of notes/assumptions/23.md, 34.md, 38.md and 48.md. -/
theorem mailboxTranslation : Obligations.MailboxTranslation := by
  unfold Obligations.MailboxTranslation
  intro s hb hr asid cached ended
  refine ⟨?badRoot, ?root, ?flush, ?revoke, ?resume, ?quiesced, ?queue⟩
  case badRoot =>
    intro h
    rw [exec_setRoot_idle hb hr, State.runSetRoot, Ran.check_rejected (by simpa using h)]
    rfl
  case root =>
    intro hm hf
    rw [exec_setRoot_idle hb hr, State.runSetRoot, Ran.check_done (by simpa using ⟨hm, hf⟩)]
    exact ⟨_, rfl, ⟨rfl, rfl, rfl⟩, rfl, rfl, fun a => find?_installed ..⟩
  case flush =>
    rw [exec_flushAsid_idle hb hr, State.runFlushAsid_eq]
    exact ⟨_, rfl, ⟨rfl, rfl, rfl⟩, rfl, rfl, fun u e => State.mem_flushed_cached⟩
  case revoke =>
    intro va len hit ents
    rw [exec_revoke_idle hb hr, State.runRevoke_eq]
    refine ⟨fun h => ?_, fun h0 hl => ?_⟩
    · rw [Ran.check_rejected (by simpa using h)]
      rfl
    · rw [Ran.check_done (by simpa using ⟨Nat.ne_of_gt h0, hl⟩)]
      obtain ⟨t, ht, herr, hdet, hpay, hrev, hmem, hcached, hpins⟩ := State.withRevoke_spec (s.freeze_keepsRevokes (s.touched asid va len))
        ⟨asid, va, len, s.runsOf asid va len, s.touched asid va len, false, false⟩
      exact ⟨t, congrArg Host.Outcome.next ht, ⟨herr, hdet, hpay⟩, hrev, hmem, hcached, hpins⟩
  case resume =>
    rw [exec_resume_idle hb hr]
    exact ⟨_, rfl, ⟨rfl, rfl, rfl⟩, rfl, rfl, fun r hm ha => released_of_mem_resumed hm ha, fun r hm ha hn => mem_resumed_of_ne hm ha hn⟩
  case quiesced =>
    intro k left
    refine ⟨exec_quiesced_none, fun r h => ⟨exec_quiesced_waits h, fun ho hq => ?_⟩⟩
    exact (exec_quiesced_posts h ho hq).trans (congrArg Host.Outcome.next (State.postQuiesced_eq ..))
  case queue =>
    intro k f bad without
    have hk : k.num.val = s.pay 0 0 12 := s.described_num
    have hnum : ∀ e : Queue × QueueWork, e.1.num ≠ k.num ↔ e.1.num.val ≠ s.pay 0 0 12 := fun e => by rw [ne_eq, Fin.ext_iff, hk]
    have hbad : s.descBad k = true ↔ bad := by
      simp only [State.descBad, State.descReserved, Bool.or_eq_true, bne_iff_ne, decide_eq_true_eq, beq_iff_eq, Option.isNone_iff_eq_none,
        List.any_eq_true, Bool.and_eq_true, hnum, or_assoc, and_assoc]
      rfl
    have hgood : ¬ bad → s.descBad k = false := fun h => Bool.eq_false_iff.mpr fun e => h (hbad.mp e)
    rw [exec_configureQueue_idle hb hr]
    refine ⟨fun h => ?_, fun h hq => ?_, fun h hq => ?_, State.refuses_idle (k := k), fun p => State.refuses_large (k := k)⟩
    · rw [State.runConfigureQueue_bad (hbad.mpr h)]
      rfl
    · rw [State.runConfigureQueue_refused (hgood h) hq]
      rfl
    · rw [State.runConfigureQueue_done (hgood h) hq]
      exact ⟨_, rfl, ⟨rfl, rfl, rfl⟩, rfl, rfl, (State.withQueue_queue ..).trans (if_pos rfl),
        fun q hne => (State.withQueue_queue ..).trans (if_neg hne)⟩

end Sys2Proof.Machine
end

section
/-! PROOFS. Requests at the ingress of a die and responses at their source (R138, R196, R282, R305, R306, R308, R316 to R319). -/

namespace Sys2Proof.Machine

/-! ## Taking a record (R306, R308) -/

/-- What a die makes of a request, once what becomes of it is known. -/
def State.concludes (d : Fin 4) (f : Flit) : Served × State → State
  | (.held, t) => t
  | (.taken, t) => t.removeFlit d f
  | (.done r, t) => (t.removeFlit d f).answer d f r

/-- The entry of the deduplication table that answers a request. -/
def State.answered (s : State) (d : Fin 4) (f : Flit) : Option Dedupe :=
  (s.dies.at d).dedupe.find? fun x => x.src.val == f.src && x.tag == f.tag && x.epoch == f.epoch && !Flit.longRead f

/-- A request of a kind has come to a die, the first of its source on its channel, and is no duplicate. -/
structure State.Asks (s : State) (d : Fin 4) (kind k : Nat) (f : Flit) : Prop where
  arrived : s.arrived d kind k = some f
  first : s.isFirst d f = true
  unknown : s.answered d f = none

section
variable {s : State} {d : Fin 4} {kind k : Nat} {f : Flit} {act : State → Flit → Served × State}

theorem State.serve_none (h : s.arrived d kind k = none) : s.serve d kind k act = s := by simp only [State.serve, h]

theorem State.serve_waits (h : s.arrived d kind k = some f) (hf : s.isFirst d f = false) : s.serve d kind k act = s := by
  simp only [State.serve, h, hf, Bool.not_false, if_true]

theorem State.serve_duplicate {x : Dedupe} (h : s.arrived d kind k = some f) (hf : s.isFirst d f = true) (hx : s.answered d f = some x) :
    s.serve d kind k act = if x.open_ = 0 then (s.removeFlit d f).respond d f x.result else s.removeFlit d f := by
  rw [State.answered] at hx
  simp only [State.serve, h, hf, hx, Bool.not_true, Bool.false_eq_true, if_false]

theorem State.serve_new (h : s.Asks d kind k f) : s.serve d kind k act = State.concludes d f (act s f) := by
  obtain ⟨ha, hf, hx⟩ := h
  rw [State.answered] at hx
  simp only [State.serve, ha, hf, hx, Bool.not_true, Bool.false_eq_true, if_false]
  obtain ⟨o, t⟩ := act s f
  cases o <;> rfl

end

/-- A step at an ingress, and the kind of record that it takes. -/
def IngressStep (d : Fin 4) (k : Nat) (n : Option Nat) (i : Instr) (kind : Nat) : Prop :=
  (i, kind) ∈ [(Instr.fabricRead d ⟨k, n⟩, 0), (.fabricWrite d ⟨k, n⟩, 1), (.fabricAtomic d k, 2), (.fabricBankUpdate d k, 3),
    (.windowRead d ⟨k, n⟩, 4), (.windowWrite d ⟨k, n⟩, 5), (.ready d k, 6), (.xallPiece d ⟨k, n⟩, 7),
    (.fredContribution d k, 8), (.fbarArrival d k, 9)]

theorem IngressStep.exec_eq {d : Fin 4} {k kind : Nat} {n : Option Nat} {i : Instr} (h : IngressStep d k n i kind) :
    ∃ act, ∀ s, exec i s = .next (s.serve d kind k act) := by
  simp only [IngressStep, List.mem_cons, List.not_mem_nil, or_false, Prod.mk.injEq] at h
  rcases h with h | h | h | h | h | h | h | h | h | h <;> obtain ⟨rfl, rfl⟩ := h <;> exact ⟨_, fun s => rfl⟩

/-- The step that takes a kind of record. -/
theorem IngressStep.step_of_kind {d : Fin 4} {k kind : Nat} {n : Option Nat} {i : Instr} (h : IngressStep d k n i kind) :
    (kind = 0 → i = .fabricRead d ⟨k, n⟩) ∧ (kind = 1 → i = .fabricWrite d ⟨k, n⟩) ∧ (kind = 2 → i = .fabricAtomic d k) ∧
    (kind = 3 → i = .fabricBankUpdate d k) ∧ (kind = 4 → i = .windowRead d ⟨k, n⟩) ∧ (kind = 5 → i = .windowWrite d ⟨k, n⟩) ∧
    (kind = 6 → i = .ready d k) ∧ (kind = 7 → i = .xallPiece d ⟨k, n⟩) ∧ (kind = 8 → i = .fredContribution d k) ∧
    (kind = 9 → i = .fbarArrival d k) := by
  simp only [IngressStep, List.mem_cons, List.not_mem_nil, or_false, Prod.mk.injEq] at h
  rcases h with h | h | h | h | h | h | h | h | h | h <;> obtain ⟨rfl, rfl⟩ := h <;> simp

/-! ## Through a remote token (R138, R305) -/

section
variable {s t : State} {d : Fin 4} {f : Flit} {act : State → Nat → List Run → Served × State}

theorem State.throughPin_held (h : s.ingressLookup d f = (.held, t)) : s.throughPin d f act = (.held, t) := by
  simp only [State.throughPin, h]

theorem State.throughPin_stale {lost : Bool} (h : s.ingressLookup d f = (.stale lost, t)) :
    s.throughPin d f act = (.done [if lost then 3 else 1], t) := by
  simp only [State.throughPin, h]
  cases lost <;> rfl

theorem State.throughPin_near {len : Nat} {runs : List Run} (h : s.ingressLookup d f = (.near len runs, t)) :
    s.throughPin d f act = act t len runs := by
  simp only [State.throughPin, h]

end

/-- An element update at the places of a record (R282, R284). -/
def State.updateElement (d : Fin 4) (f : Flit) (s : State) (len : Nat) (runs : List Run) : Served × State :=
  match BkOp.ofCode (f.op % 16), Ty.ofCode (f.op / 16) with
  | some o, some ty =>
    let n := recSize ty
    match (Pin.places len runs f n).mapM id with
    | none => outside s
    | some l =>
      let (w, on, sc) := s.watcher f
      let plain := sc == .cr
      let r := s.watchIn w (on && plain) (l.map (·.1)) true false sc Seen.none
      let g := r.s.bankElement (.req d f) w (on && !plain) o ty (natOfBytes (f.data.drop n)) l (f.data.take n)
      Got.served { g with acct := { g.acct with race := g.acct.race || r.race } }
  | _, _ => outside s

theorem exec_fabricBankUpdate_element {s : State} {d : Fin 4} {k : Nat} {f : Flit} (h : s.Asks d 3 k f) (hop : f.op ≠ 0xFF) :
    exec (.fabricBankUpdate d k) s = .next (State.concludes d f (s.throughPin d f (State.updateElement d f))) :=
  congrArg Host.Outcome.next ((State.serve_new h).trans (congrArg (State.concludes d f) (if_neg hop)))

/-- What a step does through the token of a record of kinds 0 to 3, a piece of a contribution apart. -/
theorem IngressStep.exec_token {s : State} {d : Fin 4} {k kind : Nat} {n : Option Nat} {i : Instr} {f : Flit} (hi : IngressStep d k n i kind)
    (h : s.Asks d kind k f) (hk : kind ≤ 3) (hr : ¬ (kind = 3 ∧ f.op = 0xFF)) :
    ∃ act, exec i s = .next (State.concludes d f (s.throughPin d f act)) := by
  simp only [IngressStep, List.mem_cons, List.not_mem_nil, or_false, Prod.mk.injEq] at hi
  rcases hi with ⟨rfl, rfl⟩ | ⟨rfl, rfl⟩ | ⟨rfl, rfl⟩ | ⟨rfl, rfl⟩ |
    ⟨-, rfl⟩ | ⟨-, rfl⟩ | ⟨-, rfl⟩ | ⟨-, rfl⟩ | ⟨-, rfl⟩ | ⟨-, rfl⟩
  · exact ⟨_, congrArg Host.Outcome.next (State.serve_new h)⟩
  · exact ⟨_, congrArg Host.Outcome.next (State.serve_new h)⟩
  · exact ⟨_, congrArg Host.Outcome.next (State.serve_new h)⟩
  · exact ⟨_, exec_fabricBankUpdate_element h fun e => hr ⟨rfl, e⟩⟩
  all_goals exact absurd hk (by decide)

/-! ## The parts of a request (R99, R102, R214) -/

theorem mem_positions {l : List (Option Nat)} {i k : Nat} : (i, k) ∈ positions l ↔ l[i]? = some (some k) := by
  simp only [positions, List.mem_filterMap]
  constructor
  · rintro ⟨⟨j, o⟩, hm, ho⟩
    obtain ⟨m, hz, e⟩ := List.mem_iff_getElem.mp hm
    have hl : m < l.length := by simpa using hz
    simp only [List.getElem_zip, List.getElem_range, Prod.mk.injEq] at e
    obtain ⟨rfl, rfl⟩ := e
    obtain ⟨k', hk', e⟩ := Option.map_eq_some_iff.mp ho
    obtain ⟨rfl, rfl⟩ := Prod.mk.injEq .. ▸ e
    exact List.getElem?_eq_some_iff.mpr ⟨hl, hk'⟩
  · intro h
    obtain ⟨hl, e⟩ := List.getElem?_eq_some_iff.mp h
    exact ⟨(i, l[i]), List.mem_iff_getElem.mpr ⟨i, by simpa using hl, by simp⟩, by simp [e]⟩

/-- What is done at each position that has a place. -/
theorem filterMap_positions {α : Type} (l : List (Option Nat)) (g : Nat → Nat → α) :
    ((positions l).map (·.1)).filterMap (fun i => ((l[i]?).getD none).map (g i)) = (positions l).map fun p => g p.1 p.2 := by
  rw [List.filterMap_map, ← List.filterMap_eq_map]
  refine List.filterMap_congr fun p hp => ?_
  simp [mem_positions.mp hp]

theorem map_snd_positions (l : List (Option Nat)) : (positions l).map (·.2) = l.filterMap id := by
  have h : ((List.range l.length).zip l).map (·.2) = l := List.map_snd_zip (by simp)
  conv_rhs => rw [← h]
  rw [positions, List.map_filterMap, List.filterMap_map]
  congr 1
  funext e
  cases h : e.2 <;> simp [h]

theorem filterMap_positions_place (l : List (Option Nat)) :
    ((positions l).map (·.1)).filterMap (fun i => (l[i]?).getD none) = (positions l).map (·.2) := by
  simpa using filterMap_positions l fun _ k => k

/-- The places of a list of places with their kinds of memory. -/
theorem map_snd_positions_places (l : List (Option (Nat × Bool))) :
    (positions (l.map (·.map (·.1)))).map (·.2) = l.filterMap (·.map (·.1)) := by
  rw [map_snd_positions, List.filterMap_map]
  rfl

theorem any_isNone_places (l : List (Option (Nat × Bool))) : (l.map (·.map (·.1))).any (·.isNone) = l.any (·.isNone) := by
  rw [List.any_map]
  congr 1
  funext o
  cases o <;> rfl

/-- Positions of a list that has a value beside each. -/
theorem map_positions_getD (l : List (Option Nat)) (v : List Byte) (h : v.length = l.length) :
    (positions l).map (fun p => (p.2, v.getD p.1 0)) = (l.zip v).filterMap fun e => e.1.map fun p => (p, e.2) := by
  have hz : l.zip v = ((List.range l.length).zip l).map fun e => (e.2, v.getD e.1 0) := by
    refine List.ext_getElem (by simp [h]) fun i h1 h2 => ?_
    have hi : i < v.length := by simp at h1; exact h1.2
    simp [List.getD, hi]
  rw [hz, positions, List.map_filterMap, List.filterMap_map]
  congr 1
  funext e
  cases h : e.2 <;> simp [h]

theorem find?_positions (l : List (Option Nat)) (i : Nat) : (positions l).find? (fun p => p.1 == i) = ((l[i]?).getD none).map (i, ·) := by
  cases h : (l[i]?).getD none with
  | none =>
    refine List.find?_eq_none.mpr fun p hp hi => ?_
    have hm := mem_positions.mp hp
    rw [beq_iff_eq] at hi
    simp [← hi, hm] at h
  | some k =>
    have hk : l[i]? = some (some k) := by
      cases hl : l[i]? with
      | none => simp [hl] at h
      | some o => simpa [hl] using h
    obtain ⟨q, hq⟩ := Option.isSome_iff_exists.mp (List.find?_isSome.mpr ⟨(i, k), mem_positions.mpr hk, by simp⟩ :
      ((positions l).find? fun p => p.1 == i).isSome = true)
    have hqi : q.1 = i := by simpa using List.find?_some hq
    have hql := mem_positions.mp (List.mem_of_find?_eq_some hq)
    have hqk : q.2 = k := by simpa [hqi, hk] using hql.symm
    rw [hq, ← hqi, ← hqk]
    rfl

/-- A party that the race detector does not watch. -/
theorem State.watcher_off {s : State} {f : Flit} (h : (s.watcher f).2.1 = false) : s.watcher f = (nobody, false, .cr) := by
  unfold State.watcher at h ⊢
  split at h
  · exact nomatch h
  · rfl

theorem Got.served_held {g : Got} (h : g.data = none) : g.served = (.held, g.s) := by simp only [Got.served, h]
theorem Got.served_done {g : Got} {l : List Byte} (h : g.data = some l) : g.served = (.done (g.acct.flags :: l), g.s) := by simp only [Got.served, h]

section
variable {s t : State} {d : Fin 4} {k : Nat} {f : Flit} {len : Nat} {runs : List Run}

theorem State.updateElement_eq {o : BkOp} {y : Ty} {l : List (Nat × Bool)} (ho : BkOp.ofCode (f.op % 16) = some o)
    (hy : Ty.ofCode (f.op / 16) = some y) (hl : (Pin.places len runs f (recSize y)).mapM id = some l) (hw : (t.watcher f).2.1 = false) :
    State.updateElement d f t len runs =
      (t.bankElement (.req d f) nobody false o y (natOfBytes (f.data.drop (recSize y))) l (f.data.take (recSize y))).served := by
  simp only [State.updateElement, ho, hy, hl, State.watcher_off hw, Bool.false_and, State.watchIn_off, Bool.or_false]

theorem exec_fabricAtomic_near (h : s.Asks d 2 k f) (hl : s.ingressLookup d f = (.near len runs, t)) {o : FamoOp} {key : Nat} {cached : Bool}
    {r : List (Nat × Bool)} (ho : FamoOp.ofCode (f.op % 16) = some o)
    (hp : (Pin.places len runs f (2 ^ (f.op / 16 % 4))).mapM id = some ((key, cached) :: r)) :
    let n := 2 ^ (f.op / 16 % 4)
    let x := fun (m : Nat) => BitVec.ofNat 64 (natOfBytes ((f.data.drop m).take n))
    let w := t.watcher f
    exec (.fabricAtomic d k) s =
      .next (State.concludes d f (t.atomicAt (.req d f) w.1 w.2.1 w.2.2 key n cached (famoNew o n (x 0) (x n))).served) := by
  intro n x w
  refine congrArg Host.Outcome.next ((State.serve_new h).trans (congrArg (State.concludes d f) ?_))
  rw [State.throughPin_near hl]
  simp only [ho, hp]
  rfl

end

/-! ## The parts of a request, performed at once -/

/-- A request of which nothing is done, at a lookup. -/
def Access.begun (pin : Option Pin) : Access := .fresh 0 0 pin (0, 0) none

theorem Access.begun_todo (pin : Option Pin) (l : List (Option Nat)) : (Access.begun pin).todo l = positions l :=
  List.filter_eq_self.mpr fun _ _ => rfl

section
variable {t : State} {d : Fin 4} {f : Flit}

theorem State.servingOf_fresh (h : (t.dies.at d).serving.any (fun e => e.1 == f) = false) (pin : Option Pin) :
    t.servingOf d f pin = Access.begun pin := by
  have hn : (t.dies.at d).serving.find? (fun e => e.1 == f) = none := List.find?_eq_none.mpr fun e he =>
    Bool.not_eq_true _ ▸ List.any_eq_false.mp h e he
  rw [State.servingOf, hn]
  rfl

/-- A step that names no part of a request of which nothing is done performs the whole of it. -/
theorem State.servePart_whole {pin : Option Pin} {l : List (Option Nat)} {act : State → Access → List Nat → List Byte × Got} {b : List Byte}
    {g : Got} (h : act t (.begun pin) ((positions l).map (·.1)) = (b, g)) (hg : g.acct = Acct.none) :
    t.servePart d f (.begun pin) l none act =
      (some ({ Acct.none with oox := l.any (·.isNone) },
        (List.range l.length).map ((Access.begun pin).more (((positions l).map (·.1)).zip b) g).byte), g.s) := by
  have hnow : (How.by none .units).pick (positions l) (positions l) = (positions l).map (·.1) := How.pick_all ..
  have hacct : ((Access.begun pin).more (((positions l).map (·.1)).zip b) g).acct = Acct.none := by
    rw [Access.more, hg]
    rfl
  simp only [State.servePart, Access.begun_todo, hnow, h, List.length_map, beq_self_eq_true, if_true, hacct]
  rfl

end

theorem Acct.flags_oox (b : Bool) : Acct.flags { Acct.none with oox := b } = if b then 8 else 0 := by cases b <;> rfl

/-- The bytes of a request that is performed whole: at each position that of its place, 0 where there is none. -/
theorem Access.begun_bytes (pin : Option Pin) (l : List (Option Nat)) (h : Nat → Byte) (g : Got) :
    (List.range l.length).map ((Access.begun pin).more (((positions l).map (·.1)).zip (((positions l).map (·.2)).map h)) g).byte =
      l.map fun o => o.elim 0 h := by
  refine List.ext_getElem (by simp) fun i hi _ => ?_
  have hl : i < l.length := by simpa using hi
  have hz : ((positions l).map (·.1)).zip (((positions l).map (·.2)).map h) = (positions l).map fun p => (p.1, h p.2) := by
    rw [List.map_map, List.zip_map']
    rfl
  simp only [List.getElem_map, List.getElem_range, Access.byte, Access.more, hz]
  change (((([] : List (Nat × Byte)) ++ _).find? _).map _).getD 0 = _
  rw [List.nil_append, List.find?_map]
  change (((positions l).find? fun p => p.1 == i).map _ |>.map _).getD 0 = _
  rw [find?_positions, List.getElem?_eq_getElem hl]
  cases l[i] <;> rfl

/-- The byte of memory at a place. -/
def placeByte (m : Bytes) (p : Option (Nat × Bool)) : Byte := p.elim 0 fun a => m.get a.1

theorem map_elim_places (m : Bytes) (l : List (Option (Nat × Bool))) :
    (l.map (·.map (·.1))).map (fun o => o.elim 0 m.get) = l.map (placeByte m) := by
  rw [List.map_map]
  congr 1
  funext o
  cases o <;> rfl

section
variable {s t : State} {d : Fin 4} {k : Nat} {f : Flit} {len : Nat} {runs : List Run}

theorem exec_fabricRead_whole (h : s.Asks d 0 k f) (hl : s.ingressLookup d f = (.near len runs, t))
    (hf : (t.dies.at d).serving.any (fun e => e.1 == f) = false) (hw : (t.watcher f).2.1 = false) :
    let ps := Pin.places len runs f f.count
    let keys := ps.filterMap (·.map (·.1))
    let u := (linesOf keys).foldl (fun s l => s.homeRead l) t
    u.poisoned keys = none → exec (.fabricRead d ⟨k, none⟩) s =
      .next ((u.removeFlit d f).answer d f ((if ps.any (·.isNone) then 8 else 0) :: ps.map (placeByte u.mem))) := by
  intro ps keys u hu
  refine congrArg Host.Outcome.next ((State.serve_new h).trans ?_)
  rw [State.throughPin_near hl]
  dsimp only
  rw [State.watcher_off hw, State.servingOf_fresh hf]
  dsimp only
  have hkeys : (positions (ps.map (·.map (·.1)))).map (·.2) = keys := map_snd_positions_places ps
  rw [State.servePart_whole (b := ((positions (ps.map (·.map (·.1)))).map (·.2)).map u.mem.get)
    (g := ⟨u, none, Acct.none, Seen.none⟩) ?act rfl]
  case act =>
    simp only [filterMap_positions_place, hkeys, State.watchIn_off, ps]
    change (_, (⟨u, none, { Acct.none with race := false, poison := u.poisoned keys }, Seen.none⟩ : Got)) = _
    rw [hu]
    rfl
  dsimp only
  rw [Acct.flags_oox, any_isNone_places, Access.begun_bytes, map_elim_places]
  rfl

/-- The places of a write that has one, each with its byte. -/
def placedBytes (ps : List (Option (Nat × Bool))) (b : List Byte) : List (Nat × Byte) := (ps.zip b).filterMap fun e => e.1.map fun p => (p.1, e.2)

theorem filterMap_positions_bytes {ps : List (Option (Nat × Bool))} {b : List Byte} (h : b.length = ps.length) :
    ((positions (ps.map (·.map (·.1)))).map (·.1)).filterMap (fun i => (((ps.map (·.map (·.1)))[i]?).getD none).map fun p => (p, b.getD i 0)) =
      placedBytes ps b := by
  rw [filterMap_positions _ fun i p => (p, b.getD i 0), map_positions_getD _ _ (by simpa using h), List.zip_map_left, List.filterMap_map, placedBytes]
  congr 1
  funext e
  cases h : e.1 <;> simp [h]

theorem exec_fabricWrite_held (h : s.Asks d 1 k f) (hl : s.ingressLookup d f = (.near len runs, t)) (n : Option Nat)
    (ha : t.atomicHeld ((Pin.places len runs f f.data.length).filterMap (·.map (·.1))) = true) : exec (.fabricWrite d ⟨k, n⟩) s = .next t := by
  refine congrArg Host.Outcome.next ((State.serve_new h).trans ?_)
  rw [State.throughPin_near hl]
  dsimp only
  rw [List.filterMap_map]
  change State.concludes d f (match t.watcher f with
    | (w, on, sc) => if t.atomicHeld ((Pin.places len runs f f.data.length).filterMap (·.map (·.1))) then (.held, t) else _) = _
  rw [ha]
  rfl

theorem exec_fabricWrite_whole (h : s.Asks d 1 k f) (hl : s.ingressLookup d f = (.near len runs, t))
    (hf : (t.dies.at d).serving.any (fun e => e.1 == f) = false) (hw : (t.watcher f).2.1 = false)
    (ha : t.atomicHeld ((Pin.places len runs f f.data.length).filterMap (·.map (·.1))) = false) :
    let ps := Pin.places len runs f f.data.length
    let kv := placedBytes ps f.data
    exec (.fabricWrite d ⟨k, none⟩) s =
      .next (((t.homePut (kv.map (·.1)) (kv.map (·.2))).removeFlit d f).answer d f [if ps.any (·.isNone) then 8 else 0]) := by
  intro ps kv
  refine congrArg Host.Outcome.next ((State.serve_new h).trans ?_)
  rw [State.throughPin_near hl]
  dsimp only
  have hkeys : (ps.map (·.map (·.1))).filterMap id = ps.filterMap (·.map (·.1)) := List.filterMap_map ..
  rw [State.watcher_off hw, State.servingOf_fresh hf]
  dsimp only
  rw [hkeys, ha, if_neg Bool.false_ne_true]
  rw [State.servePart_whole (b := kv.map (·.2)) (g := ⟨t.homePut (kv.map (·.1)) (kv.map (·.2)), none, Acct.none, Seen.none⟩) ?act rfl]
  case act =>
    rw [filterMap_positions_bytes (by simp [Pin.places])]
    rfl
  dsimp only
  rw [Acct.flags_oox, any_isNone_places]
  rfl

end

/-! ## Windows (R196, R305) -/

theorem Flit.winPlaces_length (f : Flit) (n : Nat) : (Flit.winPlaces f n).length = n := by simp [Flit.winPlaces]

theorem positions_winPlaces (f : Flit) (n : Nat) : (positions (Flit.winPlaces f n)).map (·.1) = List.range n := by
  have hz : (List.range n).zip (Flit.winPlaces f n) = (List.range n).map fun j => (j, some (f.tgt 0 19 + j)) := by
    rw [Flit.winPlaces, ← List.zip_map']
    simp
  simp [positions, Flit.winPlaces_length, hz, List.filterMap_map, Function.comp_def]

/-- Bytes of a scratchpad, read one by one behind bytes read already. -/
def State.spadReads (c : CoreId) (g : Nat → Nat) (l : List Nat) (r : List Byte × State) : List Byte × State :=
  l.foldl (fun r j =>
    let (b, s) := r.2.spadRead c (g j)
    (r.1 ++ [b], s)) r

theorem State.spadReads_mem (c : CoreId) (g : Nat → Nat) (l : List Nat) (r : List Byte × State) : (State.spadReads c g l r).2.mem = r.2.mem := by
  induction l generalizing r with
  | nil => rfl
  | cons j l ih => exact (ih _).trans (State.spadRead_sameButCores r.2 c (g j)).mem

section
variable {s t : State} {d : Fin 4} {k n : Nat} {f : Flit} {c : CoreId}

theorem exec_windowWrite_whole (h : s.Asks d 5 k f) (hc : s.windowTarget d f f.data.length = (some c, n, t))
    (hf : (t.dies.at d).serving.any (fun e => e.1 == f) = false) :
    exec (.windowWrite d ⟨k, none⟩) s = .next ((((List.range n).foldl (fun s j => s.spadWrite c (f.tgt 0 19 + j) (f.data.getD j 0)) t).removeFlit
      d f).answer d f [if n < f.data.length then 8 else 0]) := by
  refine congrArg Host.Outcome.next ((State.serve_new h).trans ?_)
  rw [hc]
  dsimp only
  rw [State.servingOf_fresh hf, State.servePart_whole (b := (List.range n).map fun _ => 0)
    (g := ⟨(List.range n).foldl (fun s j => s.spadWrite c (f.tgt 0 19 + j) (f.data.getD j 0)) t, none, Acct.none, Seen.none⟩) ?act rfl]
  case act => rw [positions_winPlaces]
  dsimp only
  rw [Acct.flags_oox]
  simp only [decide_eq_true_eq]
  rfl

theorem exec_windowRead_whole (h : s.Asks d 4 k f) (hc : s.windowTarget d f f.count = (some c, n, t))
    (hf : (t.dies.at d).serving.any (fun e => e.1 == f) = false) :
    ∃ (u : State) (b : List Byte), exec (.windowRead d ⟨k, none⟩) s =
      .next ((u.removeFlit d f).answer d f ((if n < f.count then 8 else 0) :: b)) ∧ b.length = n ∧ u.mem = t.mem := by
  obtain ⟨⟨b, u⟩, hr⟩ : ∃ r, State.spadReads c (f.tgt 0 19 + ·) (List.range n) ([], t) = r := ⟨_, rfl⟩
  have hmem : u.mem = t.mem := (congrArg (·.2.mem) hr).symm.trans (State.spadReads_mem ..)
  refine ⟨u, (List.range n).map ((Access.begun none).more ((List.range n).zip b) ⟨u, none, Acct.none, Seen.none⟩).byte,
    congrArg Host.Outcome.next ((State.serve_new h).trans ?_), by simp, hmem⟩
  rw [hc]
  dsimp only
  rw [State.servingOf_fresh hf, State.servePart_whole (b := b) (g := ⟨u, none, Acct.none, Seen.none⟩) ?act rfl]
  case act =>
    rw [positions_winPlaces]
    change ((State.spadReads c _ _ _).1, (⟨(State.spadReads c _ _ _).2, none, Acct.none, Seen.none⟩ : Got)) = _
    rw [hr]
  dsimp only
  rw [Acct.flags_oox, Flit.winPlaces_length, positions_winPlaces]
  simp only [decide_eq_true_eq]
  rfl

theorem exec_windowRead_outside (h : s.Asks d 4 k f) (hc : s.windowTarget d f f.count = (none, n, t)) (m : Option Nat) :
    exec (.windowRead d ⟨k, m⟩) s = .next ((t.removeFlit d f).answer d f [8]) := by
  refine congrArg Host.Outcome.next ((State.serve_new h).trans ?_)
  rw [hc]
  rfl

theorem exec_windowWrite_outside (h : s.Asks d 5 k f) (hc : s.windowTarget d f f.data.length = (none, n, t)) (m : Option Nat) :
    exec (.windowWrite d ⟨k, m⟩) s = .next ((t.removeFlit d f).answer d f [8]) := by
  refine congrArg Host.Outcome.next ((State.serve_new h).trans ?_)
  rw [hc]
  rfl

/-! ## Collectives (R316 to R319) -/

theorem exec_ready_new (h : s.Asks d 6 k f) : exec (.ready d k) s = .next (((s.modDie d fun e =>
    { e with ready := e.ready ++ [⟨Flit.group f, Flit.rank f, f.data⟩] }).removeFlit d f).answer d f [0]) :=
  congrArg Host.Outcome.next (State.serve_new h)

theorem exec_fbarArrival_new (h : s.Asks d 9 k f) : exec (.fbarArrival d k) s = .next (((s.modDie d fun e =>
    let b := e.bar (Flit.group f)
    e.setBar { b with got := (Flit.rank f, max (b.of (Flit.rank f)) (Flit.first f)) :: b.got.filter fun x => x.1 != Flit.rank f }).removeFlit
      d f).answer d f [0]) :=
  congrArg Host.Outcome.next (State.serve_new h)

theorem exec_xallPiece_absent (h : s.Asks d 7 k f) (hx : s.xallOn d (Flit.group f) = none) (m : Option Nat) :
    exec (.xallPiece d ⟨k, m⟩) s = .next ((s.removeFlit d f).answer d f [0]) := by
  refine congrArg Host.Outcome.next ((State.serve_new h).trans ?_)
  rw [hx]
  rfl

/-- The elements of a piece of an `xall`, each at its offsets in the destination (R316). -/
def xallBytes (f : Flit) (off : Nat) (p : Nat) (ds : Desc) : List (Nat × Byte) :=
  (List.range (f.data.length / ds.e)).flatMap fun j =>
    (offs (off + (ds.place p (Flit.rank f) (Flit.first f + j)).2) ds.e).zip (elemBytes ds.e f.data j)

section
variable {x : Cmd} {tok off src loc so : W64} {g : Fin 64} {gr : Group} {ds : Desc}

theorem exec_xallPiece_near (h : s.Asks d 7 k f) (hx : s.xallOn d (Flit.group f) = some (x, none)) (hb : x.body = .xall tok off src loc so g)
    (hg : s.hub.fab.groups.at (Flit.group f) = some gr) (hd : readDesc gr.parties.length x.opA = some ds) (m : Option Nat) :
    let w := s.tokWrite x.who x.uid (2 ^ 60 + (Flit.rank f * 2 ^ 32 + Flit.first f) * 2 ^ 9) tok (xallBytes f off.toNat gr.parties.length ds)
      none .cr (How.by m .units)
    (w.data = none → exec (.xallPiece d ⟨k, m⟩) s = .next w.s) ∧
    (w.data ≠ none → exec (.xallPiece d ⟨k, m⟩) s = .next (((w.s.modCmd x.uid fun c =>
      { c.owe w.acct with parts := c.parts ++ [(f.data.length / ds.e, true)] }).removeFlit d f).answer d f [0])) := by
  intro w
  have key : exec (.xallPiece d ⟨k, m⟩) s = .next (State.concludes d f (match w.data with
      | none => (.held, w.s)
      | some _ => (.done [0], w.s.modCmd x.uid fun c => { c.owe w.acct with parts := c.parts ++ [(f.data.length / ds.e, true)] }))) := by
    refine congrArg Host.Outcome.next ((State.serve_new h).trans (congrArg (State.concludes d f) ?_))
    rw [hx]
    dsimp only
    rw [hb, hg]
    dsimp only
    rw [hd]
    rfl
  refine ⟨fun hn => by rw [key, hn]; rfl, fun hn => ?_⟩
  obtain ⟨b, hs⟩ := Option.ne_none_iff_exists'.mp hn
  rw [key, hs]
  rfl

end

end

/-! ## Contributions (R287, R318) -/

section
variable {s t : State} {d : Fin 4} {f : Flit} {part : Bool} {make : State → RedPiece → List (List Byte) → Served × State} {r : RedPiece}

/-- The pieces of a contribution are kept no more. -/
def State.forgetPieces (s : State) (d : Fin 4) (f : Flit) : State := s.modDie d fun e => { e with gathered := e.gathered.filter fun g => !g.isOf f }

theorem State.takePiece_partial (hr : readRed f.data = some r) (he : (s.gather d f r).elems (redWidth r.t r.u part) = none) :
    s.takePiece d f part make =
      (.done [0], s.modDie d fun e => { e with gathered := s.gather d f r :: (s.dies.at d).gathered.filter fun g => !g.isOf f }) := by
  simp only [State.takePiece, hr, he]

theorem State.takePiece_held {elems : List (List Byte)} (hr : readRed f.data = some r)
    (he : (s.gather d f r).elems (redWidth r.t r.u part) = some elems) (hm : make s r elems = (.held, t)) :
    s.takePiece d f part make = (.held, t) := by
  simp only [State.takePiece, hr, he, hm]

theorem State.takePiece_made {elems : List (List Byte)} {o : Served} (hr : readRed f.data = some r)
    (he : (s.gather d f r).elems (redWidth r.t r.u part) = some elems) (hm : make s r elems = (o, t)) (ho : o ≠ .held) :
    s.takePiece d f part make = (o, t.forgetPieces d f) := by
  cases o
  · exact absurd rfl ho
  · simp only [State.takePiece, hr, he, hm, State.forgetPieces]
  · simp only [State.takePiece, hr, he, hm, State.forgetPieces]

theorem State.watchArrivals_off (s : State) (w : Who) (l : List Arrival) : s.watchArrivals w false l = (false, s) := by
  induction l with
  | nil => rfl
  | cons a l ih => exact ih

/-- What becomes of a request whose one contribution has been offered to its home bank. -/
def State.offered (s : State) (d : Fin 4) (f : Flit) : Taken × State → Served × State
  | (.wait, _) => (.held, s)
  | (.taken, w) => (.taken, w)
  | (.discarded, w) => (.taken, w.partDone d f true)

/-- A contribution of one part, of a party that the race detector does not watch. -/
theorem State.contributeFlit_one (hw : (s.watcher f).2.1 = false) (a : Arrival) :
    s.contributeFlit d f [a] = s.offered d f ((s.noteTaken d f 1 [0]).contribute (homeDie a.key) a) := by
  simp only [State.contributeFlit, State.watcher_off hw, State.watchArrivals_off, List.isEmpty_cons, List.foldl_cons, List.foldl_nil]
  change _ = s.offered d f ((s.noteTaken d f [a].length [Acct.flags { Acct.none with race := false }]).contribute (homeDie a.key) a)
  generalize State.contribute _ _ a = c
  obtain ⟨o, w⟩ := c
  cases o <;> rfl

theorem exec_fredContribution_new {k : Nat} (h : s.Asks d 8 k f) : exec (.fredContribution d k) s =
    .next (State.concludes d f (s.takePiece d f true fun s r elems =>
      s.contributeFlit d f [⟨f.tgt 0 52, r.t, r.u, r.parties, r.rank, 0, some f, elems⟩])) :=
  congrArg Host.Outcome.next (State.serve_new h)

/-- A piece of a contribution through a remote token. -/
theorem exec_fabricBankUpdate_piece {k : Nat} (h : s.Asks d 3 k f) (hop : f.op = 0xFF) :
    ∃ act : RedPiece → List (List Byte) → State → Nat → List Run → Served × State,
    exec (.fabricBankUpdate d k) s = .next (State.concludes d f (s.takePiece d f false fun s r elems => s.throughPin d f (act r elems))) :=
  ⟨_, congrArg Host.Outcome.next ((State.serve_new h).trans (congrArg (State.concludes d f) (if_pos hop)))⟩

end

/-! ## Responses (R306) -/

/-- The request that a response answers. -/
abbrev Req.Fits (f : Flit) (r : Req) : Prop := r.answer = none ∧ r.dst.val = f.src ∧ r.tag = f.tag ∧ r.flit.epoch = f.epoch

theorem Req.fits_eq (f : Flit) (r : Req) :
    (r.answer.isNone && r.dst.val == f.src && r.tag == f.tag && r.flit.epoch == f.epoch) = decide (r.Fits f) := by
  rw [Bool.eq_iff_iff]
  simp [and_assoc]

/-- A request with its answer, the flags of which come before its data. -/
def Req.answeredBy (f : Flit) (r : Req) : Req := { r with answer := some (BitVec.ofNat 8 f.op :: f.data) }

theorem State.removeFlit_reqs (s : State) (d : Fin 4) (f : Flit) : ((s.removeFlit d f).dies.at d).reqs = (s.dies.at d).reqs := by
  simp only [State.removeFlit, State.setStops, State.modDie, File.at_mod_self]
  rfl

section
variable {s : State} {d : Fin 4} {k : Nat} {f : Flit}

theorem exec_response_none (h : s.arrived d 10 k = none) : exec (.response d k) s = .next s := by
  change execResponse d k s = _
  simp only [execResponse, h]

theorem exec_response_dropped (h : s.arrived d 10 k = some f) (hr : ∀ r ∈ (s.dies.at d).reqs, ¬ r.Fits f) :
    exec (.response d k) s = .next (s.removeFlit d f) := by
  have hn : ((s.removeFlit d f).dies.at d).reqs.find? (fun r => decide (r.Fits f)) = none := by
    rw [State.removeFlit_reqs]
    exact List.find?_eq_none.mpr fun r hm => by simpa only [decide_eq_true_eq] using hr r hm
  change execResponse d k s = _
  simp only [execResponse, h, Req.fits_eq, hn]

section
variable {r : Req} (h : s.arrived d 10 k = some f) (hr : (s.dies.at d).reqs.find? (fun r => decide (r.Fits f)) = some r)
include h hr

theorem exec_response_over (h0 : r.uid = 0) : exec (.response d k) s = .next (((s.removeFlit d f).modDie d fun e =>
    { e with reqs := e.reqs.filter fun q => !decide (q.Fits f) }).loseLocal (r.answeredBy f)) := by
  change execResponse d k s = _
  rw [← State.removeFlit_reqs s d f] at hr
  simp only [execResponse, h, Req.fits_eq, hr, h0, if_true]
  rfl

theorem exec_response_answers (h0 : r.uid ≠ 0) :
    let v := (s.removeFlit d f).modDie d fun e => { e with reqs := e.reqs.map fun q => if q.Fits f then r.answeredBy f else q }
    exec (.response d k) s = .next (((v.loseLocal (r.answeredBy f)).postedDone d (r.answeredBy f)).settleLoose d r.uid) := by
  change execResponse d k s = _
  rw [← State.removeFlit_reqs s d f] at hr
  simp only [execResponse, h, Req.fits_eq, hr, h0, if_false, decide_eq_true_eq]
  rfl

end

end

/-- Settles O54: a step at an ingress is `State.serve`, whose cases are stated once; a record of kinds 0 to 3 goes on through its token, and one
that names no part of a request of which nothing is done performs the whole of it (`State.servePart_whole`). The layouts of
flags, operations and pieces are the model's own choice (notes/assumptions/18.md), as are the stored answers and the one lookup (notes/assumptions/40.md). -/
theorem ingressAndResponses : Obligations.IngressAndResponses := by
  unfold Obligations.IngressAndResponses
  refine ⟨?requests, ?responses⟩
  case requests =>
    intro s d k kind n i f hmem known fresh done
    have hi : IngressStep d k n i kind := hmem
    obtain ⟨hread, hwrite, hatomic, hupdate, hwinRead, hwinWrite, hready, hxall, hfred, hfbar⟩ := hi.step_of_kind
    obtain ⟨act, hact⟩ := hi.exec_eq
    refine ⟨fun ha => by rw [hact, State.serve_none ha], fun ha => ⟨fun hf => by rw [hact, State.serve_waits ha hf], fun hf => ⟨fun x hx => ?_,
      fun hx => ?_⟩⟩⟩
    · rw [hact, State.serve_duplicate ha hf hx]
    have h : s.Asks d kind k f := ⟨ha, hf, hx⟩
    refine ⟨?token, ?window, ?outside, ?ready, ?xallAbsent, ?xall, ?contribution, ?fbar⟩
    case token =>
      intro hk hr t
      obtain ⟨a, hexec⟩ := hi.exec_token h hk hr
      refine ⟨fun hl => ?_, fun lost hl => ?_, fun len runs hl => ?_⟩
      · rw [hexec, State.throughPin_held hl]
        rfl
      · rw [hexec, State.throughPin_stale hl]
        rfl
      intro at_ keys past
      refine ⟨?read, ?writeHeld, ?write, ?atomic, ?update⟩
      case read =>
        intro hkind hn hfr hw u hu
        subst hkind hn
        rw [hread rfl, exec_fabricRead_whole h hl hfr hw hu]
        refine congrArg (fun l => Host.Outcome.next (done u (past (at_ f.count) :: l))) (List.map_congr_left fun p _ => ?_)
        cases p <;> rfl
      case writeHeld =>
        intro hkind hheld
        subst hkind
        rw [hwrite rfl, exec_fabricWrite_held h hl n hheld]
      case write =>
        intro hkind hheld hn hfr hw
        subst hkind hn
        rw [hwrite rfl, exec_fabricWrite_whole h hl hfr hw hheld]
        rfl
      case atomic =>
        intro hkind o key cached r m x w ho hp
        subst hkind
        rw [hatomic rfl, exec_fabricAtomic_near h hl ho hp]
        exact ⟨fun hg => by rw [Got.served_held hg]; rfl, fun l hg => by rw [Got.served_done hg]; rfl⟩
      case update =>
        intro hkind hw o y l m ho hy hp
        subst hkind
        rw [hupdate rfl, exec_fabricBankUpdate_element h fun e => hr ⟨rfl, e⟩, State.throughPin_near hl, State.updateElement_eq ho hy hp hw]
        exact ⟨fun hg => by rw [Got.served_held hg]; rfl, fun x hg => by rw [Got.served_done hg]; rfl⟩
    case window =>
      intro c m t hc hn hfr
      subst hn
      refine ⟨fun hkind => ?_, fun hkind => ?_⟩ <;> subst hkind
      · rw [hwinWrite rfl, exec_windowWrite_whole h hc hfr]
      · rw [hwinRead rfl]
        exact exec_windowRead_whole h hc hfr
    case outside =>
      intro m t hc hkind
      rcases hkind with hkind | hkind <;> subst hkind
      · rw [hwinRead rfl, exec_windowRead_outside h hc]
      · rw [hwinWrite rfl, exec_windowWrite_outside h hc]
    case ready =>
      intro hkind
      subst hkind
      rw [hready rfl, exec_ready_new h]
    case xallAbsent =>
      intro hkind hn
      subst hkind
      rw [hxall rfl, exec_xallPiece_absent h hn]
    case xall =>
      intro hkind c tok off src loc so g gr ds hc hb hg hd
      subst hkind
      rw [hxall rfl]
      exact exec_xallPiece_near h hc hb hg hd n
    case contribution =>
      intro hkind r hr g others clear
      refine ⟨fun he => ?_, fun elems he => ⟨fun h3 t hl => ?_, fun h3 lost t hl => ?_, fun h8 hw => ?_⟩⟩
      · rcases hkind with ⟨hkind, hop⟩ | hkind <;> subst hkind
        · obtain ⟨a, hexec⟩ := exec_fabricBankUpdate_piece h hop
          rw [hupdate rfl, hexec, State.takePiece_partial (part := false) hr he]
          rfl
        · rw [hfred rfl, exec_fredContribution_new h, State.takePiece_partial (part := true) hr he]
          rfl
      · subst h3
        obtain ⟨a, hexec⟩ := exec_fabricBankUpdate_piece h (hkind.resolve_right (by decide)).2
        rw [hupdate rfl, hexec, State.takePiece_held (part := false) hr he (State.throughPin_held hl)]
        rfl
      · subst h3
        obtain ⟨a, hexec⟩ := exec_fabricBankUpdate_piece h (hkind.resolve_right (by decide)).2
        rw [hupdate rfl, hexec, State.takePiece_made (part := false) hr he (State.throughPin_stale hl) (by simp)]
        rfl
      · subst h8
        intro a v
        have hone := State.contributeFlit_one (d := d) hw a
        rw [hfred rfl, exec_fredContribution_new h]
        refine ⟨fun w hv => ?_, fun w hv => ?_, fun w hv => ?_⟩ <;>
          rw [show (s.noteTaken d f 1 [0]).contribute (homeDie a.key) a = _ from hv] at hone
        · rw [State.takePiece_made (part := true) hr he hone (by simp)]
          rfl
        · rw [State.takePiece_held (part := true) hr he hone]
          rfl
        · rw [State.takePiece_made (part := true) hr he hone (by simp)]
          rfl
    case fbar =>
      intro hkind
      subst hkind
      rw [hfbar rfl, exec_fbarArrival_new h]
  case responses =>
    intro s d k
    exact ⟨exec_response_none, fun f ha =>
      ⟨exec_response_dropped ha, fun r hr => ⟨exec_response_answers ha hr, exec_response_over ha hr⟩⟩⟩

end Sys2Proof.Machine
end

section
/-! PROOFS. The scalar words of CTL: what a word that nothing holds does once its body has gone on, waited or jumped, and the values of the
arithmetic, comparison, selection and field words (R144, R159 to R165, R187). -/

namespace Sys2Proof

/-- A word of CTL above the common group, and of one word, is read by CTL's own map. -/
theorem decode_ctl_one {w : Nat} {v : Option Nat} (m : Nat) (hm : fld w 22 6 = m)
    (h : (decide (13 ≤ m) && !(m == 0x2C || m == 0x2D || m == 0x3A || m == 0x3B)) = true) : decode .ctl w v = decodeCtl w 0 := by
  simp only [Bool.and_eq_true, decide_eq_true_eq, Bool.not_eq_true', Bool.or_eq_false_iff, beq_eq_false_iff_ne] at h
  have one : twoWord .ctl w = false := by simp [twoWord, hm, h]; omega
  simp only [decode, one, hm, Nat.not_lt.mpr h.1, Bool.false_eq_true, if_false]

theorem PsetOp.ofCode_none {c : Nat} (h5 : 5 ≤ c) (h7 : c ≤ 7) : PsetOp.ofCode c = none := by
  obtain rfl | rfl | rfl : c = 5 ∨ c = 6 ∨ c = 7 := by omega
  all_goals rfl

theorem decodeCtl_pset_bad {w c : Nat} (hm : fld w 22 6 = 0x19) (hc : fld w 10 3 = c) (hz : fld w 0 10 = 0) (hn : PsetOp.ofCode c = none) :
    decodeCtl w 0 = .bad 3 := by
  have arm : decodeCtl w 0 = need (fld w 0 10 = 0) (withCode (PsetOp.ofCode (fld w 10 3)) fun o =>
      .ok (.pset (Ring.ofWord w) (fin 3 w 19) (fin 3 w 16) (fin 3 w 13) o)) := by
    delta decodeCtl
    rw [hm]
    rfl
  rw [arm, hc, hn, need, withCode, hz]
  rfl

/-- A code of `pset` past its five operations is an illegal encoding (R163). -/
theorem decode_pset_bad (y : Ring) (p q r : Fin 8) {c w : Nat} (h5 : 5 ≤ c) (h7 : c ≤ 7)
    (hw : w = pack [(4, y.code), (6, 0x19), (3, p.val), (3, q.val), (3, r.val), (3, c), (10, 0)]) : decode .ctl w none = .bad 3 := by
  have fits : Fits [(4, y.code), (6, 0x19), (3, p.val), (3, q.val), (3, r.val), (3, c), (10, 0)] :=
    ⟨y.code_lt, by decide, p.isLt, q.isLt, r.isLt, by omega, by decide, trivial⟩
  have major : fld w 22 6 = 0x19 := fieldAt hw fits 1 (by simp)
  have code : fld w 10 3 = c := fieldAt hw fits 5 (by simp)
  have low : fld w 0 10 = 0 := fieldAt hw fits 6 (by simp)
  rw [decode_ctl_one _ major rfl, decodeCtl_pset_bad major code low (PsetOp.ofCode_none h5 h7)]

theorem decodeCtl_field_bad {w : Nat} (hm : fld w 22 6 = 0x1B ∨ fld w 22 6 = 0x1C) (h : ¬ fld w 6 6 + fld w 0 6 < 64) :
    decodeCtl w 0 = .bad 3 := by
  have arm : ∃ r, decodeCtl w 0 = need (fld w 6 6 + fld w 0 6 < 64) r := by
    delta decodeCtl
    obtain hm | hm := hm
    · exact ⟨.ok (.ext (Ring.ofWord w) (fin 5 w 17) (fin 5 w 12) (fin 6 w 6) (fin 6 w 0)), by rw [hm]; rfl⟩
    · exact ⟨.ok (.ins (Ring.ofWord w) (fin 5 w 17) (fin 5 w 12) (fin 6 w 6) (fin 6 w 0)), by rw [hm]; rfl⟩
  obtain ⟨r, hr⟩ := arm
  rw [hr, need, if_neg (by rwa [decide_eq_true_eq])]

/-- A field that reaches past bit 63 is an illegal encoding of `ext` and of `ins` (R165). -/
theorem decode_field_bad (y : Ring) (d a : Fin 32) (p n : Fin 64) (h : 64 ≤ p.val + n.val) {m w : Nat} (hm : m = 0x1B ∨ m = 0x1C)
    (hw : w = pack [(4, y.code), (6, m), (5, d.val), (5, a.val), (6, p.val), (6, n.val)]) : decode .ctl w none = .bad 3 := by
  have fits : Fits [(4, y.code), (6, m), (5, d.val), (5, a.val), (6, p.val), (6, n.val)] :=
    ⟨y.code_lt, by omega, d.isLt, a.isLt, p.isLt, n.isLt, trivial⟩
  have major : fld w 22 6 = m := fieldAt hw fits 1 (by simp)
  have pos : fld w 6 6 = p.val := fieldAt hw fits 4 (by simp)
  have width : fld w 0 6 = n.val := fieldAt hw fits 5 (by simp)
  have one : (decide (13 ≤ m) && !(m == 0x2C || m == 0x2D || m == 0x3A || m == 0x3B)) = true := by
    obtain rfl | rfl := hm <;> rfl
  rw [decode_ctl_one m major one, decodeCtl_field_bad (by rwa [major]) (by rw [pos, width]; exact Nat.not_lt.mpr h)]

end Sys2Proof

namespace Sys2Proof.Machine

/-! ## What a word does with what its body did -/

/-- A word of one word that nothing holds and whose body goes on. -/
theorem State.word_issues {s t : State} {i : WordInfo} {body : State → Act} (hc : s.clear i = true) (hb : body s = .go t)
    (hl : i.words.length = 1) : s.word i body = .next (t.issued i (s.myFlow.pc + 4)) := by
  rw [State.word_go hc hb, State.nextPc, hl]
  rfl

/-- A word that nothing stands before and that an interlock holds. -/
theorem State.word_holds {s t : State} {i : WordInfo} {body : State → Act} (hc : s.clear i = true) (hb : body s = .hold t) :
    s.word i body = .next t.heldOff := by
  rw [State.word_clear hc, hb]; rfl

/-- A word that nothing holds and whose body jumps. -/
theorem State.word_jumps {s t : State} {i : WordInfo} {body : State → Act} {pc : W32} (hc : s.clear i = true) (hb : body s = .jump t pc) :
    s.word i body = .next (t.issued i pc) := by
  rw [State.word_clear hc, hb]; rfl

/-- A word that writes a scalar register: it waits for the results of the registers it reads, and for one to its destination that a later
word may not overtake, and issues where none is to come (R144, R187, R292). -/
theorem State.word_writesS {s : State} {i : WordInfo} {body : State → Act} {r : List (Fin 32)} {d : Fin 32} {u v : W64}
    (hc : s.clear i = true) (hl : i.words.length = 1) (hb : body s = if s.busyS r || s.busyD [d] then .hold s else .go (s.writeS d u))
    (hv : u = v) :
    (s.busyS r = false → s.busyD [d] = false → s.word i body = .next ((s.writeS d v).issued i (s.myFlow.pc + 4))) ∧
    (s.busyS r = true ∨ s.busyD [d] = true → s.word i body = .next s.heldOff) := by
  subst hv
  refine ⟨fun hr hd => State.word_issues hc ?_ hl, fun h => State.word_holds hc ?_⟩
  · simp only [hb, hr, hd, Bool.or_self, Bool.false_eq_true, if_false]
  · simp only [hb, Bool.or_eq_true, h, if_true]

/-! ## Values (R159 to R161) -/

theorem W64.ofInt_sub (a b : W64) : a - b = BitVec.ofInt 64 (a.toInt - b.toInt) := by
  apply BitVec.eq_of_toInt_eq
  rw [BitVec.toInt_sub, BitVec.toInt_ofInt]

theorem addSat_eq (a b : W64) : addSat a b = BitVec.ofInt 64 (max (-2 ^ 63) (min (2 ^ 63 - 1) (a.toInt + b.toInt))) := by
  rw [addSat, satS_eq]

theorem subSat_eq (a b : W64) : subSat a b = BitVec.ofInt 64 (max (-2 ^ 63) (min (2 ^ 63 - 1) (a.toInt - b.toInt))) := by
  rw [subSat, satS_eq]

theorem mulSat_eq (a b : W64) : mulSat a b = BitVec.ofInt 64 (max (-2 ^ 63) (min (2 ^ 63 - 1) (a.toInt * b.toInt))) := by
  rw [mulSat, satS_eq]

/-- A shift count of an immediate word is below 64, so that it is itself (R160). -/
theorem shiftCount_toNat (n : Fin 64) : (BitVec.ofNat 64 n.val).toNat = n.val := by
  rw [BitVec.toNat_ofNat, Nat.mod_eq_of_lt (n.isLt.trans (by decide))]

theorem shlVal_imm (a : W64) (n : Fin 64) : shlVal a (BitVec.ofNat 64 n.val) = BitVec.ofNat 64 (a.toNat * 2 ^ n.val) := by
  rw [shlVal_eq, shiftCount_toNat, if_neg (Nat.not_le.mpr n.isLt)]

theorem shrVal_imm (a : W64) (n : Fin 64) : shrVal a (BitVec.ofNat 64 n.val) = BitVec.ofNat 64 (a.toNat / 2 ^ n.val) := by
  rw [shrVal_eq, shiftCount_toNat, if_neg (Nat.not_le.mpr n.isLt)]

theorem sraVal_imm (a : W64) (n : Fin 64) : sraVal a (BitVec.ofNat 64 n.val) = BitVec.ofInt 64 (a.toInt / 2 ^ n.val) := by
  rw [sraVal_eq, shiftCount_toNat, if_neg (Nat.not_le.mpr n.isLt)]

/-- What `lih` makes of the value that stands in its register (R161). -/
def lihVal (x : W64) (h : BitVec 16) : W64 := BitVec.ofNat 64 (x.toNat % 2 ^ 48 * 2 ^ 16 + h.toNat)

/-- `li` of the top 16 bits and three `lih` make any constant (R161). -/
theorem lihVal_li_parts (c : W64) :
    lihVal (lihVal (lihVal (((c >>> 48).setWidth 17).signExtend 64) ((c >>> 32).setWidth 16)) ((c >>> 16).setWidth 16)) (c.setWidth 16) =
      c := by
  have top : (((c >>> 48).setWidth 17).signExtend 64).toNat = c.toNat / 2 ^ 48 := by
    have small : (c >>> 48).toNat < 2 ^ 16 := by
      rw [BitVec.toNat_ushiftRight, Nat.shiftRight_eq_div_pow]; omega
    have positive : ((c >>> 48).setWidth 17).msb = false := by
      rw [BitVec.msb_eq_decide, BitVec.toNat_setWidth]
      exact decide_eq_false (by omega)
    rw [BitVec.signExtend_eq_setWidth_of_msb_false positive, BitVec.toNat_setWidth, BitVec.toNat_setWidth, BitVec.toNat_ushiftRight,
      Nat.shiftRight_eq_div_pow]
    omega
  apply BitVec.eq_of_toNat_eq
  simp only [lihVal, BitVec.toNat_ofNat, BitVec.toNat_setWidth, BitVec.toNat_ushiftRight, Nat.shiftRight_eq_div_pow, top]
  omega

/-- Settles O5: each word's body is an interlock and a write (`State.word_writesS`), of the value that the lemma of its function states. -/
theorem scalarResults : Obligations.ScalarResults := by
  unfold Obligations.ScalarResults
  refine ⟨?_, ?_⟩
  · intro s y d a b i v A B hi hc
    simp only [List.mem_cons, Prod.mk.injEq, List.not_mem_nil, or_false] at hi
    obtain ⟨rfl, rfl⟩ | ⟨rfl, rfl⟩ | ⟨rfl, rfl⟩ | ⟨rfl, rfl⟩ | ⟨rfl, rfl⟩ | ⟨rfl, rfl⟩ | ⟨rfl, rfl⟩ | ⟨rfl, rfl⟩ | ⟨rfl, rfl⟩ | ⟨rfl, rfl⟩ |
      ⟨rfl, rfl⟩ | ⟨rfl, rfl⟩ | ⟨rfl, rfl⟩ | ⟨rfl, rfl⟩ | ⟨rfl, rfl⟩ | ⟨rfl, rfl⟩ | ⟨rfl, rfl⟩ | ⟨rfl, rfl⟩ | ⟨rfl, rfl⟩ | ⟨rfl, rfl⟩ |
      ⟨rfl, rfl⟩ | ⟨rfl, rfl⟩ := hi
    · exact State.word_writesS hc rfl rfl (BitVec.add_def ..)
    · exact State.word_writesS hc rfl rfl (addSat_eq ..)
    · exact State.word_writesS hc rfl rfl (W64.ofInt_sub ..)
    · exact State.word_writesS hc rfl rfl (subSat_eq ..)
    · exact State.word_writesS hc rfl rfl rfl
    · exact State.word_writesS hc rfl rfl rfl
    · exact State.word_writesS hc rfl rfl rfl
    · exact State.word_writesS hc rfl rfl (shlVal_eq ..)
    · exact State.word_writesS hc rfl rfl (shrVal_eq ..)
    · exact State.word_writesS hc rfl rfl (sraVal_eq ..)
    · exact State.word_writesS hc rfl rfl (BitVec.mul_def ..)
    · exact State.word_writesS hc rfl rfl (mulSat_eq ..)
    · exact State.word_writesS hc rfl rfl rfl
    · exact State.word_writesS hc rfl rfl rfl
    · exact State.word_writesS hc rfl rfl rfl
    · exact State.word_writesS hc rfl rfl rfl
    · exact State.word_writesS hc rfl rfl (remVal_eq ..)
    · exact State.word_writesS hc rfl rfl (remnVal_eq ..)
    · exact State.word_writesS hc rfl rfl (minVal_eq ..)
    · exact State.word_writesS hc rfl rfl (maxVal_eq ..)
    · exact State.word_writesS hc rfl rfl (minnVal_eq ..)
    · exact State.word_writesS hc rfl rfl (maxnVal_eq ..)
  · intro s y d a m n l h i r v A high z
    refine ⟨rfl, rfl, rfl, rfl, rfl, lihVal_li_parts, fun hi hc => ?_⟩
    simp only [List.mem_cons, Prod.mk.injEq, List.not_mem_nil, or_false] at hi
    obtain ⟨rfl, rfl, rfl⟩ | ⟨rfl, rfl, rfl⟩ | ⟨rfl, rfl, rfl⟩ | ⟨rfl, rfl, rfl⟩ | ⟨rfl, rfl, rfl⟩ | ⟨rfl, rfl, rfl⟩ | ⟨rfl, rfl, rfl⟩ |
      ⟨rfl, rfl, rfl⟩ | ⟨rfl, rfl, rfl⟩ | ⟨rfl, rfl, rfl⟩ | ⟨rfl, rfl, rfl⟩ := hi
    · exact State.word_writesS hc rfl rfl (clzVal_eq ..)
    · exact State.word_writesS hc rfl rfl (popcVal_eq ..)
    · exact State.word_writesS hc rfl rfl rfl
    · exact State.word_writesS hc rfl rfl rfl
    · exact State.word_writesS hc rfl rfl rfl
    · exact State.word_writesS hc rfl rfl rfl
    · exact State.word_writesS hc rfl rfl (shlVal_imm ..)
    · exact State.word_writesS hc rfl rfl (shrVal_imm ..)
    · exact State.word_writesS hc rfl rfl (sraVal_imm ..)
    · exact State.word_writesS hc rfl rfl rfl
    · exact State.word_writesS hc rfl rfl (lih_eq ..)

/-! ## Predicates (R162, R163) -/

/-- A register of no place awaits nothing: s0 among the sources of a word changes no interlock (R145). -/
theorem State.busyS_pair_zero (s : State) (a : Fin 32) : s.busyS [a, 0] = s.busyS [a] := by
  have zero : s.me.isAmong s.cur.x 0 s.me.pending = false := rfl
  simp only [State.busyS, List.any_cons, List.any_nil, zero, Bool.or_self]

/-- p0 awaits nothing. -/
theorem State.busyP_zero (s : State) (l : List (Fin 8)) : s.busyP (l ++ [0]) = s.busyP l := by
  simp only [State.busyP, List.any_append, List.any_cons, List.any_nil, bne_self_eq_false, Bool.false_and, Bool.or_false]

theorem State.readP_zero (s : State) : s.readP 0 = true := rfl

/-- A comparison word that waits for nothing (R162). -/
theorem State.word_test {s : State} {i : WordInfo} {p : Fin 8} {a b : Fin 32} {f : W64 → W64 → Bool} {v : Bool} (hc : s.clear i = true)
    (hl : i.words.length = 1) (hs : s.busyS [a, b] = false) (hp : s.busyP [p] = false) (hv : f (s.readS a) (s.readS b) = v) :
    s.word i (fun s => s.test p a b f) = .next ((s.writeP p v).issued i (s.myFlow.pc + 4)) :=
  State.word_issues hc ((State.test_ready hs hp f).trans (by rw [hv])) hl

/-- `pset` where no predicate of it awaits a result (R163). -/
theorem exec_pset {s : State} {y : Ring} {p q r : Fin 8} {o : PsetOp} {v : Bool} (hc : s.clear (s.plain y (.pset y p q r o)) = true)
    (hp : s.busyP [p, q, r] = false) (hv : psetVal o (s.readP q) (s.readP r) = v) :
    exec (.pset y p q r o) s = .next ((s.writeP p v).issued (s.plain y (.pset y p q r o)) (s.myFlow.pc + 4)) := by
  subst hv
  exact State.word_issues hc (if_neg (ne_true_of_eq_false hp)) rfl

/-- Each condition holds as the values compare (R53, R162). -/
theorem condHolds_of_mem {A B : W64} {c : Cond} {v : Bool}
    (h : (c, v) ∈ [(Cond.eq, decide (A = B)), (.ne, decide (A ≠ B)), (.lt, decide (A.toInt < B.toInt)), (.le, decide (A.toInt ≤ B.toInt)),
      (.gt, decide (B.toInt < A.toInt)), (.ge, decide (B.toInt ≤ A.toInt)), (.lo, decide (A.toNat < B.toNat)),
      (.ls, decide (A.toNat ≤ B.toNat)), (.hi, decide (B.toNat < A.toNat)), (.hs, decide (B.toNat ≤ A.toNat))]) :
    condHolds c A B = v := by
  obtain ⟨eq, ne, lt, le, gt, ge, lo, ls, hi, hs⟩ := condHolds_eq A B
  simp only [List.mem_cons, Prod.mk.injEq, List.not_mem_nil, or_false] at h
  obtain ⟨rfl, rfl⟩ | ⟨rfl, rfl⟩ | ⟨rfl, rfl⟩ | ⟨rfl, rfl⟩ | ⟨rfl, rfl⟩ | ⟨rfl, rfl⟩ | ⟨rfl, rfl⟩ | ⟨rfl, rfl⟩ | ⟨rfl, rfl⟩ | ⟨rfl, rfl⟩ := h <;>
    assumption

/-- An illegal word at its stream's turn raises its trap precisely (R63). -/
theorem State.illegalWord_traps {s : State} (hi : s.mayIssue = true) (hd : s.myFlow.due = []) (n : Nat) :
    s.illegalWord n = s.trapHere cILLEGAL n 0 := by
  simp only [State.illegalWord, hi, Bool.not_true, Bool.false_eq_true, if_false, hd]

/-- Settles O6: a comparison is `State.word_test` with the condition of `condHolds_of_mem`, a combination is `exec_pset`. -/
theorem predicateResults : Obligations.PredicateResults := by
  unfold Obligations.PredicateResults
  intro s y p q r a b m A
  refine ⟨fun B c v hv hp => ⟨?cmp, ?cmpi⟩, fun o v hv hc hp => ?pset, rfl,
    fun c h5 h7 => decode_pset_bad y p q r h5 h7 (by simp only [w6, pack, bits]; omega), fun hi hd => State.illegalWord_traps hi hd 3,
    s.readP_zero, fun o v hv hc hp => ?p0⟩
  case cmp =>
    rintro rfl hc hs
    exact State.word_test hc rfl hs hp (condHolds_of_mem hv)
  case cmpi =>
    rintro rfl hc hs
    exact State.word_test (b := 0) (f := fun v _ => condHolds c v (m.signExtend 64)) hc rfl ((s.busyS_pair_zero a).trans hs) hp
      (condHolds_of_mem hv)
  case pset =>
    refine exec_pset hc hp ?_
    simp only [List.mem_cons, Prod.mk.injEq, List.not_mem_nil, or_false] at hv
    obtain ⟨rfl, rfl⟩ | ⟨rfl, rfl⟩ | ⟨rfl, rfl⟩ | ⟨rfl, rfl⟩ | ⟨rfl, rfl⟩ := hv
    all_goals rfl
  case p0 =>
    refine exec_pset hc (((s.busyP_zero [p, 0]).trans (s.busyP_zero [p])).trans hp) ?_
    simp only [List.mem_cons, Prod.mk.injEq, List.not_mem_nil, or_false] at hv
    obtain ⟨rfl, rfl⟩ | ⟨rfl, rfl⟩ := hv
    all_goals rfl

/-! ## Selection and fields (R164, R165) -/

/-- `sel` where nothing of it awaits a result (R164). -/
theorem exec_sel {s : State} {y : Ring} {d a b : Fin 32} {p : Fin 8} {n : Bool} (hc : s.clear (s.plain y (.sel y d a b p n)) = true)
    (hs : s.busyS [a, b] = false) (hd : s.busyD [d] = false) (hp : s.busyP [p] = false) :
    exec (.sel y d a b p n) s =
      .next ((s.writeS d (if s.readP p ^^ n then s.readS a else s.readS b)).issued (s.plain y (.sel y d a b p n)) (s.myFlow.pc + 4)) :=
  State.word_issues hc ((if_neg (ne_true_of_eq_false hp)).trans (State.alu_ready hs hd _)) rfl

/-- Settles O7: the values of `ext` and `ins` are `extVal_bit` and `insVal_bit`. -/
theorem selectAndFields : Obligations.SelectAndFields := by
  unfold Obligations.SelectAndFields
  intro s y d a b p n j w
  refine ⟨exec_sel, fun _ hc hs hd => ⟨extVal (s.readS a) j.val (w.val + 1), fun k hk => ?extBits, ?ext⟩,
    fun _ hc hs hd => ⟨insVal (s.readS d) (s.readS a) j.val (w.val + 1), fun k hk => ?insBits, ?ins⟩, fun h v hv => ?past,
    s.readP_zero, fun hc hs hd => ?p0⟩
  case extBits => simp only [extVal_bit _ hk, Nat.lt_succ_iff]
  case ext => exact State.word_issues hc (State.alu1_ready hs hd _) rfl
  case insBits => simp only [insVal_bit _ _ hk, ← Nat.add_assoc, Nat.lt_succ_iff]
  case ins => exact State.word_issues hc (State.alu_ready hs hd _) rfl
  case past =>
    obtain rfl | rfl := List.mem_pair.mp hv
    · exact decode_field_bad y d a j w h (.inl rfl) (by simp only [w6, pack, bits]; omega)
    · exact decode_field_bad y d a j w h (.inr rfl) (by simp only [w6, pack, bits]; omega)
  case p0 =>
    rw [exec_sel hc hs hd (s.busyP_zero []), s.readP_zero]
    cases n <;> rfl

end Sys2Proof.Machine
end

section
/-! PROOFS. The flow of every stream: the common control group, branches and loops, the queues from CTL, `halt` and `phase` (R15, R146 to
R155, R158, R194, R234). -/

namespace Sys2Proof.Machine

/-! ## The flow of a stream at the issue of a word -/

/-- The flow of a stream whose word issues and goes to a PC (R117, R156). -/
def WordInfo.onward (i : WordInfo) (handler : Bool) (pc : W32) (f : Flow) : Flow :=
  { f with pc := pc, stall := 0, wait := none, posted := false, atPhase := none,
           seg := if handler || i.quiet then f.seg else f.seg.observe i.words }

theorem Core.SameButRings.flow {a b : Core} (h : Core.SameButRings a b) (q : Seq) (x : Fin 4) : b.flow q x = a.flow q x := by
  cases q <;> simp only [Core.flow, h.ctx, h.ld, h.ex, h.st]

/-- The core after the issue of a word: its ring field has acted, and its flow has gone on. -/
theorem State.issued_me_eq (s : State) (i : WordInfo) (pc : W32) :
    (s.issued i pc).me = (s.ticked.me.issueRings s.cur.q s.cur.x i).modFlow s.cur.q s.cur.x (i.onward (s.me.mode == .handler) pc) := by
  rw [← (State.ticked_sameButCores s).cur]
  exact State.modMe_me s.ticked _

theorem State.issued_flow (s : State) (i : WordInfo) (pc : W32) :
    (s.issued i pc).myFlow = i.onward (s.me.mode == .handler) pc s.ticked.myFlow := by
  rw [State.myFlow, State.issued_me_eq, (State.issued_sameButCores_all s i pc).cur, Core.modFlow_flow_self, (Core.issueRings_same ..).flow,
    State.myFlow, (State.ticked_sameButCores s).cur]

/-- A result that lands may leave EX a delivered cause, and changes nothing else of its flow. -/
theorem Core.landOne_exFlow (k : Core) (f : InFlight) : ∃ l, (k.landOne f).ex.flow = { k.ex.flow with due := l } := by
  simp only [Core.landOne]
  generalize List.range 256 = l
  split
  case h_8 =>
    rw [Core.spadFold_ex]
    split <;> exact ⟨_, rfl⟩
  all_goals split <;> exact ⟨_, rfl⟩

theorem Core.landAll_exFlow (l : List InFlight) (k : Core) : ∃ d, (k.landAll l).ex.flow = { k.ex.flow with due := d } := by
  induction l generalizing k with
  | nil => exact ⟨_, rfl⟩
  | cons f r ih =>
    obtain ⟨d, hd⟩ := k.landOne_exFlow f
    obtain ⟨e, he⟩ := ih (k.landOne f)
    exact ⟨e, by rw [Core.landAll, List.foldl_cons, ← Core.landAll, he, hd]⟩

theorem State.smearSpill_ex (s : State) (c : CoreId) : ((s.smearSpill c).core c).ex = (s.core c).ex := by
  rw [State.smearSpill, State.modCore_core_self, smearFrames_core]

theorem State.exTick_exFlow (s : State) (c : CoreId) : ∃ d, ((s.exTick c).core c).ex.flow = { (s.core c).ex.flow with due := d } := by
  obtain ⟨d, hd⟩ := Core.landAll_exFlow ((s.core c).ex.flight.filter fun f => f.land ≤ (s.core c).ex.next)
    (((s.core c).modEx fun e => { e with cycle := e.next }).modEx fun e =>
      { e with flight := e.flight.filter fun f => !(f.land ≤ (s.core c).ex.next) })
  have lands : ((s.modCore c Core.exTick).core c).ex.flow = { (s.core c).ex.flow with due := d } := by
    rw [State.modCore_core_self]; exact hd
  rw [State.exTick]
  split
  · exact ⟨d, by rw [State.smearSpill_ex, lands]⟩
  · exact ⟨d, lands⟩

/-- The EX cycle before the issue of a word of EX changes at most the delivered causes of its flow. -/
theorem State.ticked_flow (s : State) : ∃ d, s.ticked.myFlow = { s.myFlow with due := d } := by
  simp only [State.myFlow, State.me, (State.ticked_sameButCores s).cur]
  rw [State.ticked]
  by_cases hq : s.cur.q = .ex
  · rw [hq, beq_self_eq_true, if_pos rfl]
    exact s.exTick_exFlow s.cur.core
  · rw [if_neg (ne_true_of_eq_false (beq_false_of_ne hq))]
    exact ⟨_, rfl⟩

/-! ## Words that do not branch -/

/-- Of marks all complete none is pending. -/
theorem Core.lowestPending_none {k : Core} {l : List (Fin 32)} (h : ∀ i ∈ l, k.markDone i = true) : k.lowestPending l = none := by
  refine List.find?_eq_none.mpr fun i _ => ?_
  rw [Bool.and_eq_true, List.contains_iff_mem, Bool.not_eq_true']
  rintro ⟨hi, hd⟩
  exact Bool.false_ne_true (hd.symm.trans (h i hi))

theorem Waits.mem_list {m : Waits} {i : Fin 32} : i ∈ Waits.list m ↔ some i ∈ [m.w1, m.w2, m.w3] := by
  simp only [Waits.list, List.mem_filterMap, id_eq, exists_eq_right]

/-- `mwait` on complete marks (R152). -/
theorem exec_mwait {s : State} {y : Ring} {m : Waits} (hc : s.clear (s.plain y (.mwait y m)) = true)
    (h : ∀ j ∈ [m.w1, m.w2, m.w3], ∀ i ∈ j, s.me.markDone i = true) :
    exec (.mwait y m) s = .next (s.issued (s.plain y (.mwait y m)) (s.myFlow.pc + 4)) := by
  have done := Core.lowestPending_none fun i hi => h (some i) (Waits.mem_list.mp hi) i rfl
  exact State.word_issues hc (by simp only [done]) rfl

/-- `gen` while no command that has not started is 32,767 generations old (R21, R153). -/
theorem exec_gen {s : State} {y : Ring} (hc : s.clear (s.plain y (.gen y)) = true)
    (h : ∀ d ∈ s.allCmds s.cur.core, d.started = true ∨ (s.me.cr.genno - d.gen).toNat ≠ 32767) :
    exec (.gen y) s = .next ((s.modMe fun k => k.modCr fun r => { r with genno := r.genno + 1 }).issued (s.plain y (.gen y))
      (s.myFlow.pc + 4)) := by
  refine State.word_issues hc (if_neg ?_) rfl
  rw [List.any_eq_true]
  rintro ⟨d, hd, old⟩
  rw [Bool.and_eq_true, Bool.not_eq_true', beq_iff_eq] at old
  obtain hs | hg := h d hd
  · exact Bool.false_ne_true (old.1.symm.trans hs)
  · exact hg old.2

/-- A segment that opens where none closes with a difference and no token cause waits (R136, R155). -/
theorem exec_seg {s : State} {y : Ring} {k : BitVec 16} {crc : W32} (hc : s.clear { s.plain y (.seg y k crc) with quiet := true } = true)
    (hm : s.myFlow.seg.mismatch = false) (ht : s.me.tokCause s.cur.q = none) :
    exec (.seg y k crc) s = .next ((s.modMyFlow fun f => { f with seg := ⟨true, k, crc, 0, 0xFFFFFFFF⟩ }).issued
      { s.plain y (.seg y k crc) with quiet := true } (s.myFlow.pc + 8)) := by
  have cause : (s.modMyFlow fun f => { f with seg := ⟨true, k, crc, 0, 0xFFFFFFFF⟩ }).me.tokCause s.cur.q = none := by
    rw [State.modMyFlow_def, State.modMe_me, Core.tokCause, Core.modFlow_aux]
    exact ht
  refine State.word_go hc ?_
  simp only [hm, Bool.false_eq_true, if_false, State.syncGo, State.modMyFlow_cur, cause]

/-! ## Branches (R147, R149, R150) -/

/-- A word of one word that nothing holds and whose body branches, where it leaves the branch targets. -/
theorem State.word_branches {s t : State} {i : WordInfo} {body : State → Act} {b : Fin 4} {c : Bool} (hc : s.clear i = true)
    (hb : body s = t.branch b c) (hl : i.words.length = 1) (ht : t.myFlow = s.myFlow) :
    s.word i body = .next (t.issued i (if c then s.myFlow.bt.at b else s.myFlow.pc + 4)) := by
  cases c with
  | false => exact State.word_issues hc hb hl
  | true => rw [← ht]; exact State.word_jumps hc hb

theorem exec_br_outcome {s : State} {y : Ring} {b : Fin 4} {n v : Bool} {r : List Bool}
    (hc : s.clear (s.plain y (.br y b n .bq)) = true) (ho : s.me.outcomes.at (queueOf s.cur.q) = v :: r) :
    exec (.br y b n .bq) s = .next ((s.modMe fun k => ({ k with outcomes := k.outcomes.put (queueOf s.cur.q) r } : Core).takeOutcome
      s.cur.q (r.length + 1)).issued (s.plain y (.br y b n .bq)) (if v != n then s.myFlow.bt.at b else s.myFlow.pc + 4)) := by
  refine State.word_branches hc (by simp only [ho]) rfl ?_
  rw [State.myFlow, State.modMe_me, State.modMe_cur, Core.takeOutcome_flow]
  cases hq : s.cur.q <;> simp only [State.myFlow, hq] <;> rfl

/-- A loop counter and the PC after an `lb`, and the row base of EX (R149, R234). -/
theorem exec_lb {s : State} {y : Ring} {c : Fin 4} {o : BitVec 20} (hc : s.clear (s.plain y (.lb y c o)) = true) :
    exec (.lb y c o) s = .next (
      ((if s.cur.q = .ex then s.modMe fun k => k.modEx fun e => { e with zbase := e.zbase + Fin.ofNat 16 (s.rotation c) } else s).modMyFlow
        fun f => { f with lc := f.lc.put c (if (s.myFlow.lc.at c).toNat ≤ 1 then 0 else s.myFlow.lc.at c - 1) }).issued
        (s.plain y (.lb y c o))
        (if (s.myFlow.lc.at c).toNat ≤ 1 then s.myFlow.pc + 4 else s.myFlow.pc + BitVec.ofInt 32 (4 * o.toInt))) := by
  by_cases h : (s.myFlow.lc.at c).toNat ≤ 1
  · simp only [if_pos h]
    refine State.word_issues hc ?_ rfl
    simp only [Nat.not_lt.mpr h, if_false, beq_iff_eq]
  · simp only [if_neg h]
    refine State.word_jumps hc ?_
    simp only [Nat.lt_of_not_le h, if_true, beq_iff_eq]
    rfl

theorem exec_lx {s : State} {y : Ring} {c : Fin 4} {n : Bool} {p : Fin 8} {o : BitVec 15} (hc : s.clear (s.plain y (.lx y c n p o)) = true)
    (hp : s.busyP [p] = false) :
    exec (.lx y c n p o) s = .next (
      if s.readP p != n then (s.modMyFlow fun f => { f with lc := f.lc.put c 0 }).issued (s.plain y (.lx y c n p o))
        (s.myFlow.pc + BitVec.ofInt 32 (4 * o.toInt))
      else s.issued (s.plain y (.lx y c n p o)) (s.myFlow.pc + 4)) := by
  by_cases h : (s.readP p != n) = true
  · rw [if_pos h]
    exact State.word_jumps hc ((if_neg (ne_true_of_eq_false hp)).trans (if_pos h))
  · rw [if_neg h]
    exact State.word_issues hc ((if_neg (ne_true_of_eq_false hp)).trans (if_neg h)) rfl

/-! ## Queues from CTL (R15, R158, R194) -/

theorem exec_send {s : State} {y : Ring} {g : Target} {a : Fin 32} (hc : s.clear (s.plain y (.send y g a)) = true)
    (hr : (s.me.values.at (targetQueue g)).length < 16) (hs : s.busyS [a] = false) :
    exec (.send y g a) s = .next ((s.modMe fun k => k.sendValue (targetQueue g) (s.readS a)).issued (s.plain y (.send y g a))
      (s.myFlow.pc + 4)) :=
  State.word_issues hc ((if_neg (Nat.not_le.mpr hr)).trans (if_neg (ne_true_of_eq_false hs))) rfl

theorem exec_bqp {s : State} {y : Ring} {g : Target} {n : Bool} {p : Fin 8} (hc : s.clear (s.plain y (.bqp y g n p)) = true)
    (hr : (s.me.outcomes.at (targetQueue g)).length < 32) (hp : s.busyP [p] = false) :
    exec (.bqp y g n p) s = .next ((s.modMe fun k => k.sendOutcome (targetQueue g) (s.readP p != n)).issued (s.plain y (.bqp y g n p))
      (s.myFlow.pc + 4)) :=
  State.word_issues hc ((if_neg (Nat.not_le.mpr hr)).trans (if_neg (ne_true_of_eq_false hp))) rfl

theorem exec_recv {s : State} {y : Ring} {d : Fin 16} {v : W64} {r : List W64} (hc : s.clear (s.plain y (.recv y d)) = true)
    (hv : s.me.values.at (queueOf s.cur.q) = v :: r) :
    let t := s.modMe fun k => ({ k with values := k.values.put (queueOf s.cur.q) r } : Core).takeValue s.cur.q (r.length + 1)
    exec (.recv y d) s = .next (
      (if s.cur.q = .ex then t.modMe fun k => k.modEx fun e => { e with b := e.b.put (Fin.ofNat 8 d.val) v } else t.writeA d v).issued
        (s.plain y (.recv y d)) (s.myFlow.pc + 4)) :=
  State.word_issues hc (by simp only [hv, beq_iff_eq]) rfl

theorem Core.sendValue_values (k : Core) (g : Fin 3) (v : W64) : (k.sendValue g v).values = k.values.put g (k.values.at g ++ [v]) := rfl
theorem Core.sendOutcome_outcomes (k : Core) (g : Fin 3) (v : Bool) :
    (k.sendOutcome g v).outcomes = k.outcomes.put g (k.outcomes.at g ++ [v]) := rfl

/-- Settles O9, a lemma for each word. -/
theorem streamFlow : Obligations.StreamFlow := by
  unfold Obligations.StreamFlow
  refine ⟨?control, ?branches, ?queues⟩
  case control =>
    intro s y b c o l n e m k crc
    refine ⟨fun hc => State.word_issues hc rfl rfl, fun i f hi hc => ?_, exec_mwait, exec_gen, exec_seg⟩
    simp only [List.mem_cons, Prod.mk.injEq, List.not_mem_nil, or_false] at hi
    obtain ⟨rfl, rfl⟩ | ⟨rfl, rfl⟩ | ⟨rfl, rfl⟩ | ⟨rfl, rfl⟩ := hi
    all_goals exact State.word_issues hc rfl rfl
  case branches =>
    intro s y b c n p o o'
    exact ⟨fun hc hp => State.word_branches hc (if_neg (ne_true_of_eq_false hp)) rfl rfl, fun v r hc ho => exec_br_outcome hc ho,
      exec_lb, exec_lx⟩
  case queues =>
    intro s y g a n p d j
    have queue : j = targetQueue g := by cases g <;> rfl
    rw [queue]
    exact ⟨exec_send, exec_bqp, fun k v b => ⟨k.sendValue_values _ v, rfl, k.sendOutcome_outcomes _ b, rfl⟩, fun v r hc hv => exec_recv hc hv⟩

/-! ## `halt` and `phase` (R25, R116, R146, R154, R155, R208) -/

/-- `halt` once nothing is awaited: the join is done, the segment closes, and the PC stays. -/
theorem exec_halt {s : State} {y : Ring}
    (hc : s.clear { s.plain y (.halt y) with noTail := true, noHandler := true, quiet := true } = true)
    (hj : s.cur.q = .ctl ∧ s.cur.x = 0 → s.me.tailsLive = false ∧ s.me.tailsBusy = false) (hr : s.resPending = false)
    (ht : s.me.tokCause s.cur.q = none) (hm : s.myFlow.seg.mismatch = false) :
    exec (.halt y) s = .next ((((if s.cur.q = .ctl ∧ s.cur.x = 0 then s.modMe Core.freeTails else s).modMyFlow fun f =>
      { f with halted := true, seg := { f.seg with isOpen := false } }).issued
        { s.plain y (.halt y) with noTail := true, noHandler := true, quiet := true } (s.myFlow.pc + 4)).modMyFlow
          fun f => { f with pc := s.myFlow.pc }) := by
  refine (State.word_clear hc _).trans (congrArg Host.Outcome.next ?_)
  rw [State.join_ready hj]
  have flow : (if s.cur.q = .ctl ∧ s.cur.x = 0 then s.modMe Core.freeTails else s).myFlow = s.myFlow := by
    split
    · exact s.freeTails_flow
    · rfl
  have res : (if s.cur.q = .ctl ∧ s.cur.x = 0 then s.modMe Core.freeTails else s).resPending = false := by
    split
    · exact s.freeTails_resPending.trans hr
    · exact hr
  have cause : (if s.cur.q = .ctl ∧ s.cur.x = 0 then s.modMe Core.freeTails else s).me.tokCause
      (if s.cur.q = .ctl ∧ s.cur.x = 0 then s.modMe Core.freeTails else s).cur.q = none := by
    split
    · rw [State.modMe_me]; exact ht
    · exact ht
  simp only [res, Bool.false_eq_true, if_false, cause, State.act, flow, hm]
  rfl

/-- A stream that halts stands at its `halt`, its segment closed, and issues nothing more. -/
theorem State.halted_issued (u : State) {w : WordInfo} (hw : w.quiet = true) (pc pc' : W32) :
    let t := ((u.modMyFlow fun f => { f with halted := true, seg := { f.seg with isOpen := false } }).issued w pc').modMyFlow
      fun f => { f with pc := pc }
    t.myFlow.halted = true ∧ t.myFlow.pc = pc ∧ t.myFlow.seg.isOpen = false ∧ t.mayIssue = false := by
  intro t
  let v := u.modMyFlow fun f => { f with halted := true, seg := { f.seg with isOpen := false } }
  obtain ⟨d, hd⟩ := v.ticked_flow
  have stop : v.myFlow = { u.myFlow with halted := true, seg := { u.myFlow.seg with isOpen := false } } := by
    simp only [v, State.myFlow, State.modMyFlow_def, State.modMe_me, State.modMe_cur, Core.modFlow_flow_self]
  have flow : t.myFlow = { w.onward (v.me.mode == .handler) pc' v.ticked.myFlow with pc := pc } := by
    rw [← State.issued_flow]
    simp only [t, v, State.myFlow, State.modMyFlow_def, State.modMe_me, State.modMe_cur, Core.modFlow_flow_self]
  have halted : t.myFlow.halted = true := by rw [flow, hd, stop]; rfl
  refine ⟨halted, by rw [flow], ?_, by simp only [State.mayIssue, halted, Bool.not_true, Bool.false_and]⟩
  rw [flow, hd, stop]
  simp only [WordInfo.onward, hw, Bool.or_true, if_true]

/-- A word that nothing stands before and whose body waits, with what the wait itself changes. -/
theorem State.word_waitsIn {s t : State} {i : WordInfo} {body : State → Act} {code : Nat} (hc : s.clear i = true)
    (hb : body s = .waitIn t code) : s.word i body = .next (t.stallCycle s.cur.core s.cur.q s.cur.x code) := by
  rw [State.word_clear hc, hb]; rfl

/-- A word of CTL for which `phase` is a `nop` (R154). -/
theorem State.phase_isNop (s : State) :
    (s.cur.q == .ctl && (s.cur.x != 0 || s.me.isTail s.cur.x || s.me.mode == .handler)) = true ↔
      s.cur.q = .ctl ∧ (s.cur.x ≠ 0 ∨ s.me.isTail s.cur.x = true ∨ s.me.mode = .handler) := by
  simp only [Bool.and_eq_true, Bool.or_eq_true, beq_iff_eq, bne_iff_ne, or_assoc]

/-- Settles O10: `halt` is `exec_halt` and what its stream stands at `State.halted_issued`; `phase` decides by the arrivals of the four units. -/
theorem haltAndPhase : Obligations.HaltAndPhase := by
  unfold Obligations.HaltAndPhase
  refine ⟨?halt, ?phase⟩
  case halt =>
    intro s y w u hc hj hr ht hm
    obtain ⟨halted, pc, closed, idle⟩ := State.halted_issued u (w := w) rfl s.myFlow.pc (s.myFlow.pc + 4)
    exact ⟨_, exec_halt hc hj hr ht hm, halted, pc, closed, idle, rfl⟩
  case phase =>
    intro s y t all hc
    refine ⟨fun hn => State.word_issues hc (if_pos (s.phase_isNop.mpr hn)) rfl, fun hn => ⟨fun h => ?last, fun h => ?early⟩⟩
    case last => exact State.word_moved hc ((if_neg (mt s.phase_isNop.mp hn)).trans (if_pos h))
    case early => exact State.word_waitsIn hc ((if_neg (mt s.phase_isNop.mp hn)).trans (if_neg (ne_true_of_eq_false h)))

end Sys2Proof.Machine
end

section
/-! PROOFS. What the issue of a word of CTL leaves of its core, and the control registers (R62, R122, R124, R145, R176, R177, R289, R310). -/

namespace Sys2Proof.Machine

/-! ## The core after the issue of a word of CTL -/

/-- What the issue of a word of a context leaves of the core: its ring counters, the order they carry, and the progress of the context's own flow
apart, everything. -/
structure Core.SameButProgress (x : Fin 4) (a b : Core) : Prop where
  mode : b.mode = a.mode
  ld : b.ld = a.ld
  ex : b.ex = a.ex
  st : b.st = a.st
  cells : b.cells = a.cells
  frames : b.frames = a.frames
  k : b.k = a.k
  binds : b.binds = a.binds
  wins : b.wins = a.wins
  cr : b.cr = a.cr
  hand : b.hand = a.hand
  values : b.values = a.values
  outcomes : b.outcomes = a.outcomes
  streams : b.streams = a.streams
  spad : b.spad = a.spad
  l1 : b.l1 = a.l1
  cmds : b.cmds = a.cmds
  other : ∀ y, y ≠ x → b.ctx.at y = a.ctx.at y
  own : ∃ i h pc, b.ctx.at x = { a.ctx.at x with flow := WordInfo.onward i h pc (a.ctx.at x).flow }

theorem State.ticked_of_ne {s : State} (h : s.cur.q ≠ .ex) : s.ticked = s := by
  rw [State.ticked, if_neg (ne_true_of_eq_false (beq_false_of_ne h))]

theorem State.issued_progress {s : State} (hq : s.cur.q = .ctl) (i : WordInfo) (pc : W32) :
    Core.SameButProgress s.cur.x s.me (s.issued i pc).me := by
  have rings := s.me.issueRings_same .ctl s.cur.x i
  rw [State.issued_me_eq, State.ticked_of_ne (by rw [hq]; decide), hq]
  refine ⟨rings.mode, rings.ld, rings.ex, rings.st, rings.cells, rings.frames, rings.k, rings.binds, rings.wins, rings.cr, rings.hand,
    rings.values, rings.outcomes, rings.streams, rings.spad, rings.l1, rings.cmds, fun y hy => ?_,
    i, s.me.mode == .handler, pc, ?_⟩
  · rw [Core.modFlow_ctx_ne _ fun h => hy h.2.symm, rings.ctx]
  · rw [Core.modFlow, Core.modCtx_ctx, File.at_mod_self, rings.ctx]

/-- Where a register maps depends on the frames, the mode of the core and that of its context alone (R111). -/
theorem Core.destOf_congr {a b : Core} {x : Fin 4} (hf : b.frames = a.frames) (hm : b.mode = a.mode)
    (hx : (b.ctx.at x).mode = (a.ctx.at x).mode) (n : Fin 32) : b.destOf x n = a.destOf x n := by
  have frames : b.framesOf x = a.framesOf x := by rw [Core.framesOf, Core.framesOf, hf]
  have tail : b.isTail x = a.isTail x := by rw [Core.isTail, Core.isTail, hm, hx]
  have cell : b.cellOf x n.val = a.cellOf x n.val := by rw [Core.cellOf, Core.cellOf, frames, tail]
  rw [Core.destOf, Core.destOf, cell]

theorem Core.readS_congr {a b : Core} {x : Fin 4} (hf : b.frames = a.frames) (hm : b.mode = a.mode)
    (hx : (b.ctx.at x).mode = (a.ctx.at x).mode) (hs : (b.ctx.at x).s = (a.ctx.at x).s) (hc : b.cells = a.cells) (n : Fin 32) :
    b.readS x n = a.readS x n := by
  simp only [Core.readS, Core.destOf_congr hf hm hx, hc]
  obtain hd | ⟨r, hd⟩ | ⟨c, hd⟩ := a.destOf_cases x n <;> simp only [hd, hs]

theorem Core.SameButProgress.readS {a b : Core} {x : Fin 4} (h : Core.SameButProgress x a b) (y : Fin 4) (n : Fin 32) :
    b.readS y n = a.readS y n := by
  obtain ⟨i, hm, pc, own⟩ := h.own
  by_cases hy : y = x
  · subst hy
    exact Core.readS_congr h.frames h.mode (by rw [own]) (by rw [own]) h.cells n
  · exact Core.readS_congr h.frames h.mode (by rw [h.other y hy]) (by rw [h.other y hy]) h.cells n

/-! ## `mfc` and `mtc` -/

/-- `mtc` changes the control registers, and beside them only what LD, EX and ST may still see of what it replaces (R177). -/
theorem Core.writeCr_eq (k : Core) (c : CReg) (v : W64) : ∃ a, k.writeCr c v = { k with cr := k.cr.write c v, aux := a } := by
  cases c <;> exact ⟨_, rfl⟩

theorem exec_mtc {s : State} {y : Ring} {a : Fin 32} {c : CReg} (hc : s.clear (s.plain y (.mtc y a c)) = true)
    (ha : s.busyS [a] = false) :
    exec (.mtc y a c) s =
      .next ((s.modMe fun k => k.writeCr c (s.readS a)).issued (s.plain y (.mtc y a c)) (s.myFlow.pc + 4)) :=
  State.word_issues hc (if_neg (ne_true_of_eq_false ha)) rfl

/-- What `mtc` leaves of a machine: the control registers it writes apart, every register, predicate and byte of memory. -/
theorem State.mtc_leaves {s : State} (hq : s.cur.q = .ctl) (w : WordInfo) (pc : W32) (c : CReg) (v : W64) :
    let t := (s.modMe fun k => k.writeCr c v).issued w pc
    t.me.cr = s.me.cr.write c v ∧ t.myFlow.pc = pc ∧ t.mem = s.mem ∧ t.myFlow.p = s.myFlow.p ∧ (∀ n, t.readS n = s.readS n) ∧
      t.me.k = s.me.k ∧ t.me.hand = s.me.hand ∧ ∀ d, d ≠ s.cur.core → t.core d = s.core d := by
  intro t
  let u := s.modMe fun k => k.writeCr c v
  obtain ⟨a, ha⟩ := s.me.writeCr_eq c v
  have hu : u.me = { s.me with cr := s.me.cr.write c v, aux := a } := (State.modMe_me ..).trans ha
  have same := State.issued_sameButCores_all u w pc
  have prog := State.issued_progress (s := u) hq w pc
  have cur : t.cur = s.cur := same.cur
  obtain ⟨i, h, pc', own⟩ := prog.own
  refine ⟨by rw [prog.cr, hu], State.issued_pc u w pc, same.mem, ?_, fun n => ?_, by rw [prog.k, hu], by rw [prog.hand, hu], fun d hd => ?_⟩
  · simp only [State.myFlow, cur, hq, Core.flow]
    refine (congrArg (fun d : Ctx => d.flow.p) own).trans ?_
    change (u.me.ctx.at s.cur.x).flow.p = _
    rw [hu]
  · rw [State.readS, State.readS, cur]
    exact (prog.readS s.cur.x n).trans (Core.readS_congr (by rw [hu]) (by rw [hu]) (by rw [hu]) (by rw [hu]) (by rw [hu]) n)
  · have ne : u.cur.q ≠ .ex := by rw [show u.cur.q = _ from hq]; decide
    exact (State.issued_core_ne ne w pc hd).trans (State.modMe_core_ne _ hd.symm _)

/-- Settles O17: what `mfc` reads is `State.readCr`, register by register; what `mtc` leaves is `State.mtc_leaves`. -/
theorem controlRegisters : Obligations.ControlRegisters := by
  unfold Obligations.ControlRegisters
  refine ⟨?mfc, ?mtc⟩
  case mfc =>
    intro s y d c v r hi hc hd
    have reads : s.readCr c = v := by
      simp only [List.mem_cons, Prod.mk.injEq, List.not_mem_nil, or_false] at hi
      obtain ⟨rfl, rfl⟩ | ⟨rfl, rfl⟩ | ⟨rfl, rfl⟩ | ⟨rfl, rfl⟩ | ⟨rfl, rfl⟩ | ⟨rfl, rfl⟩ | ⟨rfl, rfl⟩ | ⟨rfl, rfl⟩ | ⟨rfl, rfl⟩ |
        ⟨rfl, rfl⟩ | ⟨rfl, rfl⟩ | ⟨rfl, rfl⟩ | ⟨rfl, rfl⟩ | ⟨rfl, rfl⟩ | ⟨rfl, rfl⟩ | ⟨rfl, rfl⟩ | ⟨rfl, rfl⟩ | ⟨rfl, rfl⟩ |
        ⟨rfl, rfl⟩ | ⟨rfl, rfl⟩ | ⟨rfl, rfl⟩ | ⟨rfl, rfl⟩ | ⟨rfl, rfl⟩ | ⟨rfl, rfl⟩ := hi
      all_goals rfl
    subst reads
    exact State.word_issues hc (if_neg (ne_true_of_eq_false hd)) rfl
  case mtc =>
    intro s y a c r v o hi hq hc ha
    have writes : s.me.cr.write c v = r := by
      simp only [List.mem_cons, Prod.mk.injEq, List.not_mem_nil, or_false] at hi
      obtain ⟨rfl, rfl⟩ | ⟨rfl, rfl⟩ | ⟨rfl, rfl⟩ | ⟨rfl, rfl⟩ | ⟨rfl, rfl⟩ | ⟨rfl, rfl⟩ | ⟨rfl, rfl⟩ | ⟨rfl, rfl⟩ | ⟨rfl, rfl⟩ |
        ⟨rfl, rfl⟩ | ⟨rfl, rfl⟩ | ⟨rfl, rfl⟩ | ⟨rfl, rfl⟩ | ⟨rfl, rfl⟩ | ⟨rfl, rfl⟩ | ⟨rfl, rfl⟩ | ⟨rfl, rfl⟩ | ⟨rfl, rfl⟩ |
        ⟨rfl, rfl⟩ | ⟨rfl, rfl⟩ | ⟨rfl, rfl⟩ | ⟨rfl, rfl⟩ | ⟨rfl, rfl⟩ | ⟨rfl, rfl⟩ := hi
      all_goals rfl
    subst writes
    exact ⟨_, exec_mtc hc ha, State.mtc_leaves hq ..⟩

end Sys2Proof.Machine
end

section
/-! PROOFS. Calls, returns and frames of the window file, and tails (R104, R111 to R116, R120, R166 to R172). -/

namespace Sys2Proof.Machine

/-! ## Calls and returns (R166, R167, R169) -/

theorem exec_pbrr {s : State} {y : Ring} {b : Fin 4} {a : Fin 32} (hc : s.clear (s.plain y (.pbrr y b a)) = true)
    (ha : s.busyS [a] = false) :
    exec (.pbrr y b a) s = .next ((s.modMyFlow fun f => { f with bt := f.bt.put b ((s.readS a).setWidth 32 &&& 0xFFFFFFFC) }).issued
      (s.plain y (.pbrr y b a)) (s.myFlow.pc + 4)) :=
  State.word_issues hc (if_neg (ne_true_of_eq_false ha)) rfl

theorem exec_call {s : State} {y : Ring} {b : Fin 4} (hc : s.clear { s.plain y (.call y b) with noTail := true } = true)
    (hr : s.resPending = false) :
    exec (.call y b) s = .next ((s.modMyCtx fun c => { c with link := some ⟨c.flow.pc + 4, (s.me.frameOf s.cur.x).map (·.base),
      false⟩ }).issued { s.plain y (.call y b) with noTail := true } (s.myFlow.bt.at b)) :=
  State.word_jumps hc (if_neg (ne_true_of_eq_false hr))

/-- `ret` in a frame that has a caller, outside tails: it joins first in c0 outside the handler (R116, R120, R169). -/
theorem exec_ret {s : State} {y : Ring} {f : Frame} (hq : s.cur.q = .ctl) (hc : s.clear (s.plain y (.ret y)) = true)
    (hf : s.me.frameOf s.cur.x = some f) (hk : f.caller.isSome = true) (ht : s.me.isTail s.cur.x = false) (hr : s.resPending = false)
    (hj : s.me.mode ≠ .handler ∧ s.cur.x = 0 → s.me.tailsLive = false ∧ s.me.tailsBusy = false) :
    exec (.ret y) s = .next (((if s.me.mode ≠ .handler ∧ s.cur.x = 0 then s.modMe Core.freeTails else s).modMe Core.popFrame).issued
      (s.plain y (.ret y)) f.retPc) := by
  have caller : f.caller.isNone = false := by rw [← Option.not_isSome, hk]; rfl
  refine State.word_jumps hc ?_
  simp only [hf, caller, ht, Bool.or_self, Bool.false_eq_true, if_false, beq_iff_eq]
  by_cases hm : s.me.mode = .handler
  · simp only [hm, if_true, hr, Bool.false_eq_true, if_false, ne_eq, not_true_eq_false, false_and]
  · rw [if_neg hm, State.join_ready fun h => hj ⟨hm, h.2⟩]
    simp only [hq, hm, true_and, ne_eq, not_false_eq_true]
    split
    · simp only [State.freeTails_resPending, hr, Bool.false_eq_true, if_false]
    · simp only [hr, Bool.false_eq_true, if_false]

/-! ## New frames (R111, R112, R168) -/

/-- Each value drawn for a cell of a new frame is one of those that it may hold. -/
theorem State.freshCells_mem {s : State} {k : Core} {n : Nat} {v : W64} (h : v ∈ (s.freshCells k n).1) : v ∈ k.everHeld := by
  obtain ⟨i, -, rfl⟩ := List.mem_map.mp h
  have inside : Config.freeNat (s.draws + i) % k.everHeld.length < k.everHeld.length := Nat.mod_lt _ (Nat.succ_pos _)
  rw [List.getD_eq_getElem _ _ inside]
  exact List.getElem_mem inside

theorem State.freshCells_length (s : State) (k : Core) (n : Nat) : (s.freshCells k n).1.length = n := by
  rw [State.freshCells, List.length_map, List.length_range]

/-- A core with a new frame: its cells are written, and the bytes of the link join those of the spill region (R112, R168). -/
def Core.enterFrame (k : Core) (base : Fin 512) (size : Nat) (x : Fin 4) (l : CallLink) (ws : List W64) : Core :=
  let m := (k.putCells base ws).noteRegion l.bytes
  { m with frames := ⟨base, size, l.retPc, l.base, x, false, none, l.handler⟩ :: m.frames }

theorem Core.putCells_frames (k : Core) (b : Fin 512) (l : List W64) : (k.putCells b l).frames = k.frames := by
  induction l generalizing k b with
  | nil => rfl
  | cons v r ih => exact ih (k.setCell b v) (b + 1)

theorem Core.enterFrame_frames (k : Core) (base : Fin 512) (size : Nat) (x : Fin 4) (l : CallLink) (ws : List W64) :
    (k.enterFrame base size x l ws).frames = ⟨base, size, l.retPc, l.base, x, false, none, l.handler⟩ :: k.frames := by
  rw [Core.enterFrame]
  generalize l.bytes = bytes
  exact congrArg (List.cons _) (k.putCells_frames base ws)

theorem Core.enterFrame_cells (k : Core) (base : Fin 512) (size : Nat) (x : Fin 4) (l : CallLink) (ws : List W64) :
    (k.enterFrame base size x l ws).cells = (k.putCells base ws).cells := by
  rw [Core.enterFrame]
  generalize l.bytes = bytes
  rfl

/-- The machine with a new frame of the context's, in a core where room has been made (R168): its cells are drawn, and the link is taken. -/
def State.enterFrame (s : State) (k : Core) (size : Nat) (l : CallLink) : State :=
  let e := (s.modMe fun _ => k).freshCells k size
  (e.2.modMe fun m => m.enterFrame (k.allocPoint - Fin.ofNat 512 size) size s.cur.x l e.1).modMyCtx fun c => { c with link := none }

theorem State.modMyCtx_me (s : State) (f : Ctx → Ctx) : (s.modMyCtx f).me = s.me.modCtx s.cur.x f := State.modMe_me ..

theorem State.modMyCtx_myCtx (s : State) (f : Ctx → Ctx) : (s.modMyCtx f).myCtx = f s.myCtx := by
  rw [State.myCtx, State.modMyCtx_me, Core.modCtx_ctx, State.modMyCtx_cur, File.at_mod_self, State.myCtx]

/-- What a new frame is: it stands below the allocation point, has taken the link, and its cells hold 0 or what some cell has held. -/
theorem State.enterFrame_spec (s : State) (k : Core) {size : Nat} (hs : size < 512) (l : CallLink) :
    let t := s.enterFrame k size l
    t.myCtx.link = none ∧
    t.me.frames = ⟨k.allocPoint - Fin.ofNat 512 size, size, l.retPc, l.base, s.cur.x, false, none, l.handler⟩ :: k.frames ∧
    (∀ j, j < size → t.me.cells.at (k.allocPoint - Fin.ofNat 512 size + Fin.ofNat 512 j) ∈ 0 :: k.cells.toList ++ k.aux.past) := by
  simp only [State.enterFrame]
  generalize k.allocPoint - Fin.ofNat 512 size = base
  have len := (s.modMe fun _ => k).freshCells_length k size
  have drawn : ∀ v ∈ ((s.modMe fun _ => k).freshCells k size).1, v ∈ 0 :: k.cells.toList ++ k.aux.past :=
    fun _ hv => State.freshCells_mem hv
  have room : ((s.modMe fun _ => k).freshCells k size).2.me = k := State.modMe_me s fun _ => k
  generalize (s.modMe fun _ => k).freshCells k size = e at len drawn room
  rw [State.modMyCtx_myCtx, State.modMyCtx_me, State.modMe_me, room, Core.modCtx_frames, Core.modCtx_cells, Core.enterFrame_frames,
    Core.enterFrame_cells]
  refine ⟨rfl, rfl, fun j hj => ?_⟩
  rw [Core.putCells_at e.1 k base (by rwa [len]) j (by rwa [len])]
  exact drawn _ (List.getElem_mem _)

theorem frameSize_lt (n : FrameSize) : frameSize n < 512 := by cases n <;> decide

theorem exec_enter_noCall {s : State} {y : Ring} {n : FrameSize} (hc : s.clear { s.plain y (.enter y n) with isEnter := true } = true)
    (hl : s.myCtx.link = none) : exec (.enter y n) s = .next (s.trapHere cFRAME 2 0) :=
  State.word_trap hc (by simp only [hl])

section
variable {s : State} {y : Ring} {n : FrameSize} {l : CallLink} (hc : s.clear { s.plain y (.enter y n) with isEnter := true } = true)
  (hl : s.myCtx.link = some l)
include hc hl

theorem exec_enter_noRoom (hr : Core.makeRoom 512 s.me (frameSize n) = none) : exec (.enter y n) s = .next (s.trapHere cSPILL 0 0) :=
  State.word_trap hc (by simp only [hl, hr])

variable {k : Core} (hr : Core.makeRoom 512 s.me (frameSize n) = some k)
include hr

/-- A cell to be spilled awaits a result (notes/assumptions/53.md). -/
theorem exec_enter_awaits (ha : s.me.spillAwaits k = true) : exec (.enter y n) s = .next s.heldOff :=
  State.word_holds hc (by simp only [hl, hr, ha, if_true])

theorem exec_enter_makes (ha : s.me.spillAwaits k = false) :
    exec (.enter y n) s = .next ((s.enterFrame k (frameSize n) l).issued { s.plain y (.enter y n) with isEnter := true }
      (s.myFlow.pc + 4)) := by
  refine State.word_issues hc ?_ rfl
  simp only [hl, hr, ha, Bool.false_eq_true, if_false]
  rfl

end

/-- Settles O11: `enter` makes the frame of `State.enterFrame`, whose cells are drawn from those that `State.freshCells_mem` names. -/
theorem callsAndFrames : Obligations.CallsAndFrames := by
  unfold Obligations.CallsAndFrames
  refine ⟨?calls, ?enter⟩
  case calls =>
    intro s y b a hq
    exact ⟨exec_pbrr, exec_call, fun f hc hf hk ht hr hj => exec_ret hq hc hf hk ht hr hj⟩
  case enter =>
    intro s y n w size hc
    have hs : size = frameSize n := by cases n <;> rfl
    clear_value size
    subst hs
    refine ⟨exec_enter_noCall hc, fun l hl => ⟨exec_enter_noRoom hc hl, fun k hr => ⟨exec_enter_awaits hc hl hr, fun ha => ?_⟩⟩⟩
    exact ⟨_, exec_enter_makes hc hl hr ha, s.enterFrame_spec k (frameSize_lt n) l⟩

/-! ## Tails (R104, R114 to R116, R170 to R172) -/

/-- The machine once a `relc` has started a tail in context x: the tail goes on in the caller with copies of the registers, and has the running
frame f (R114, R170). -/
def State.startTail (s : State) (x : Fin 4) (f : Frame) : State :=
  let c := s.myCtx
  let flow : Flow := { Flow.reset with
    pc := c.flow.pc + 4, p := c.flow.p, bt := c.flow.bt, lc := c.flow.lc, bound := c.flow.bound, budget := c.flow.budget }
  s.modMe fun k =>
    { k.modCtx x fun o => { Ctx.reset with
        live := true, flow := flow, s := c.s, mode := .tail, loads := o.loads, stores := o.stores, born := s.nextUid } with
      frames := k.frames.map fun g => if g == f then { g with owner := x } else g }

section
variable {s : State} {y : Ring} {f : Frame}
  (hc : s.clear { s.plain y (.relc y) with noTail := true, noHandler := true } = true) (hf : s.me.frameOf s.cur.x = some f)
  (hk : f.caller.isSome = true) (hr : s.resPending = false) (hg : s.globPending = false) (ha : s.accessesOut = false)
include hc hf hk hr hg ha

theorem exec_relc_starts {x : Fin 4} (hx : s.me.freeCtx = some x) :
    exec (.relc y) s = .next ((s.startTail x f).issued { s.plain y (.relc y) with noTail := true, noHandler := true } f.retPc) := by
  have caller : f.caller.isNone = false := by rw [← Option.not_isSome, hk]; rfl
  refine State.word_jumps hc ?_
  simp only [hf, caller, hr, hg, ha, Bool.or_self, Bool.false_eq_true, if_false, hx]
  rfl

theorem exec_relc_degrades (hx : s.me.freeCtx = none) :
    exec (.relc y) s = .next ((s.modMyCtx fun c => { c with mode := .degraded ⟨c.s, c.flow.p, c.flow.bt, c.flow.lc, c.flow.bound⟩ }).issued
      { s.plain y (.relc y) with noTail := true, noHandler := true } (s.myFlow.pc + 4)) := by
  have caller : f.caller.isNone = false := by rw [← Option.not_isSome, hk]; rfl
  refine State.word_issues hc ?_ rfl
  simp only [hf, caller, hr, hg, ha, Bool.or_self, Bool.false_eq_true, if_false, hx]

end

theorem exec_tjoin {s : State} {y : Ring} (hq : s.cur.q = .ctl) (hc : s.clear (s.plain y (.tjoin y)) = true)
    (hj : s.cur.x = 0 → s.me.tailsLive = false ∧ s.me.tailsBusy = false) :
    exec (.tjoin y) s = .next ((if s.cur.x = 0 then s.modMe Core.freeTails else s).issued (s.plain y (.tjoin y)) (s.myFlow.pc + 4)) := by
  refine State.word_issues hc ((State.join_ready (fun h => hj h.2) _).trans ?_) rfl
  simp only [hq, true_and]

section
variable {s : State} {y : Ring} (hc : s.clear (s.plain y (.tend y)) = true) (ht : s.me.isTail s.cur.x = true) (hr : s.resPending = false)
include hc ht hr

theorem exec_tend_tail (hm : s.myCtx.mode = .tail) :
    exec (.tend y) s = .next (((s.modMe fun k =>
      { k with frames := k.frames.map (fun g => if some g = s.me.frameOf s.cur.x then { g with ended := true } else g) }).modMyCtx
        Ctx.ended).issued (s.plain y (.tend y)) (s.myFlow.pc + 4)) := by
  refine State.word_issues hc ?_ rfl
  simp only [ht, Bool.not_true, Bool.false_eq_true, if_false, hr, hm]

/-- The end of a degraded tail gives back what its `relc` kept, and frees its frame (R115, R172). -/
theorem exec_tend_degraded {d : Degraded} {f : Frame} (hm : s.myCtx.mode = .degraded d) (hg : s.globPending = false)
    (hf : s.me.frameOf s.cur.x = some f) :
    exec (.tend y) s = .next (((s.modMe fun k => { k with frames := k.frames.filter fun g => some g != some f }).modMyCtx fun c =>
      { c with s := d.s, mode := .no, flow := { c.flow with p := d.p, bt := d.bt, lc := d.lc, bound := d.bound } }).issued
      (s.plain y (.tend y)) f.retPc) := by
  refine State.word_jumps hc ?_
  simp only [ht, Bool.not_true, Bool.false_eq_true, if_false, hr, hm, hg, hf]

end

theorem State.myFlow_of_ctl {s : State} (h : s.cur.q = .ctl) : s.myFlow = s.myCtx.flow := by
  rw [State.myFlow, h]; rfl

/-- Settles O12: `relc` starts the tail of `State.startTail` or degrades; `tend` ends what it finds. -/
theorem tails : Obligations.Tails := by
  unfold Obligations.Tails
  intro s y hq
  have flow := State.myFlow_of_ctl hq
  refine ⟨?relc, exec_tjoin hq, fun hc ht hr => ⟨exec_tend_tail hc ht hr, fun d f hm hg hf => ?degraded⟩⟩
  case relc =>
    intro f w hc hf hk hr hg ha
    refine ⟨fun x hx => ?_, exec_relc_degrades hc hf hk hr hg ha⟩
    have me : (s.startTail x f).me = _ := State.modMe_me s _
    refine ⟨_, exec_relc_starts hc hf hk hr hg ha hx, ?_⟩
    rw [me, Core.modCtx_ctx, File.at_mod_self, flow]
    exact ⟨rfl, rfl, rfl, rfl, rfl, rfl, by simp only [beq_iff_eq]⟩
  case degraded =>
    refine ⟨_, exec_tend_degraded hc ht hr hm hg hf, ?_⟩
    have q : ∀ g h, ((s.modMe g).modMyCtx h).cur.q = .ctl := fun _ _ => hq
    rw [State.myFlow_of_ctl (q _ _), State.modMyCtx_myCtx, State.modMyCtx_me, State.modMe_me]
    exact ⟨rfl, rfl, rfl, rfl, rfl, rfl⟩

end Sys2Proof.Machine
end

section
/-! PROOFS. Completion records and their interrupts, doorbells, and the tick of the timer (R174, R325, R329 to R332, R374). -/

namespace Sys2Proof.Machine

/-! ## Records (R174, R329, R330) -/

theorem exec_ecallRecordAccepted {s : State} {c : CoreId} {r : Rec} (h : (s.core c).aux.ecall = some r) :
    exec (.ecallRecordAccepted c) s = .next ((s.modCore c fun k => k.modAux fun a => { a with ecall := none }).postRec
      (Fin.ofNat 4096 (bitsOf (r.w.at 0).toNat 16 12)) r) := by
  change execEcallRecordAccepted c s = _
  simp only [execEcallRecordAccepted, h]

section
variable {s : State} {q : Fin 4096} {k : Queue} {w : QueueWork} (hq : s.queue q = some (k, w))
include hq

theorem exec_completionRecordWrite_idle (hw : w.waiting = []) : exec (.completionRecordWrite q) s = .next s := by
  change execCompletionRecordWrite q s = _
  simp only [execCompletionRecordWrite, hq, hw]

theorem exec_holdoffTimerExpiry :
    exec (.holdoffTimerExpiry q) s =
      .next (if 0 < w.unreported ∧ k.holdoff ≤ (s.hub.timer - BitVec.ofNat 48 w.oldest).toNat then s.interrupt k else s) := by
  change execHoldoffTimerExpiry q s = _
  simp only [execHoldoffTimerExpiry, hq, Bool.and_eq_true, decide_eq_true_eq]
  rfl

variable {r : Rec} {rest : List Rec} (hw : w.waiting = r :: rest)
include hw

theorem exec_completionRecordWrite_full (hf : 2 ^ k.clsize ≤ (k.ctail - k.chead).toNat) : exec (.completionRecordWrite q) s = .next s := by
  change execCompletionRecordWrite q s = _
  simp only [execCompletionRecordWrite, hq, hw, hf, if_true]

variable (hf : (k.ctail - k.chead).toNat < 2 ^ k.clsize)
include hf

theorem exec_completionRecordWrite_missing (hm : s.ringMissing k.host k.cring k.clsize k.ctail = true) :
    exec (.completionRecordWrite q) s = .fault .noSuchRing := by
  change execCompletionRecordWrite q s = _
  simp only [execCompletionRecordWrite, hq, hw, Nat.not_le.mpr hf, if_false, hm, if_true]

theorem exec_completionRecordWrite_writes (hm : s.ringMissing k.host k.cring k.clsize k.ctail = false) :
    let a := ringKey k.host k.cring k.clsize k.ctail
    let t := s.homePut ((List.range 64).map (a + ·)) r.bytes
    let u := t.modQueue q fun e => ({ e.1 with ctail := e.1.ctail + 1 }, { e.2 with
      waiting := rest, unreported := w.unreported + 1, oldest := if w.unreported = 0 then t.hub.timer.toNat else w.oldest })
    exec (.completionRecordWrite q) s = .next (if k.thresh + 1 ≤ w.unreported + 1 ∨ k.holdoff = 0 then u.interrupt k else u) := by
  change execCompletionRecordWrite q s = _
  simp only [execCompletionRecordWrite, hq, hw, Nat.not_le.mpr hf, if_false, hm, Bool.false_eq_true, Bool.or_eq_true, decide_eq_true_eq]

end

/-! ## Doorbells (R325) -/

section
variable {s : State} {v : Fin 16} {j : Nat}

theorem exec_doorbell_none (h : s.pageQueue v j = none) (n : W32) :
    exec (.doorbellTail v j n) s = .next s ∧ exec (.completionHead v j n) s = .next s := by
  change execDoorbellTail v j n s = _ ∧ execCompletionHead v j n s = _
  simp only [execDoorbellTail, execCompletionHead, h, and_self]

variable {k : Queue} {w : QueueWork} (h : s.pageQueue v j = some (k, w)) {n : W32}
include h

theorem exec_doorbellTail_takes (hn : (n - k.tail).msb = false) :
    exec (.doorbellTail v j n) s = .next ((s.modQueue k.num fun e => ({ e.1 with tail := n }, e.2)).settle k.num) := by
  change execDoorbellTail v j n s = _
  simp only [execDoorbellTail, h, hn, Bool.false_eq_true, if_false]

/-- A tail that would go back changes nothing. -/
theorem exec_doorbellTail_back (hn : (n - k.tail).msb = true) : exec (.doorbellTail v j n) s = .next s := by
  change execDoorbellTail v j n s = _
  simp only [execDoorbellTail, h, hn, if_true]

theorem exec_completionHead : exec (.completionHead v j n) s = .next (s.modQueue k.num fun e => ({ e.1 with chead := n }, e.2)) := by
  change execCompletionHead v j n s = _
  simp only [execCompletionHead, h]

end

/-! ## The tick of the timer and its charges (R332, R374) -/

/-- A server charged at a tick: its deadline and its budget where it is not postponed. -/
theorem Queue.charge_keeps {q : Queue} {n : Nat} {work : Bool} (h : work = false ∨ q.budget = 0 ∨ 0 < q.srv.2 - n) :
    (q.charge n work).srv = (q.srv.1, q.srv.2 - n) := by
  have cond : ¬ (work && 0 < q.budget && decide (q.srv.2 - n ≤ 0)) = true := by
    simp only [Bool.and_eq_true, decide_eq_true_eq]
    rintro ⟨⟨hw, hb⟩, hc⟩
    obtain h | h | h := h
    · exact Bool.false_ne_true (h.symm.trans hw)
    · omega
    · omega
  rw [Queue.charge, if_neg cond]

/-- A server that has used its budget is postponed by whole periods, until its budget is positive again: (-c) / b + 1 of them. -/
theorem Queue.charge_postpones {q : Queue} {n : Nat} (hb : 0 < q.budget) (hc : q.srv.2 - n ≤ 0) :
    (q.charge n true).srv = (q.srv.1 + (-(q.srv.2 - n) / q.budget + 1) * q.period,
      q.srv.2 - n + (-(q.srv.2 - n) / q.budget + 1) * q.budget) := by
  rw [Queue.charge, if_pos (by simp only [hb, hc, decide_true, Bool.and_self])]

/-- What is left of a budget after it has been topped up just often enough to be positive lies between 1 and the budget. -/
theorem topped_up_between {c b : Int} (hb : 0 < b) : 0 < c + (-c / b + 1) * b ∧ c + (-c / b + 1) * b ≤ b := by
  have rest := Int.emod_nonneg (-c) hb.ne'
  have less := Int.emod_lt_of_pos (-c) hb
  have split : -c / b * b + -c % b = -c := Int.mul_comm b _ ▸ Int.mul_ediv_add_emod (-c) b
  rw [Int.add_mul, Int.one_mul]
  omega

theorem Queue.charge_spec (q : Queue) (n : Nat) (hb : 0 < q.budget) :
    ∃ k : Nat, (q.charge n true).srv.1 = q.srv.1 + k * q.period ∧ (q.charge n true).srv.2 = q.srv.2 - n + k * q.budget ∧
      0 < (q.charge n true).srv.2 ∧ (1 ≤ k → (q.charge n true).srv.2 ≤ q.budget) := by
  by_cases hc : q.srv.2 - n ≤ 0
  · have times : 0 ≤ -(q.srv.2 - n) / (q.budget : Int) + 1 :=
      Int.add_nonneg (Int.ediv_nonneg (by omega) (Int.natCast_nonneg _)) Int.one_nonneg
    obtain ⟨k, hk⟩ := Int.eq_ofNat_of_zero_le times
    obtain ⟨positive, bounded⟩ := topped_up_between (c := q.srv.2 - n) (Int.natCast_pos.mpr hb)
    rw [Queue.charge_postpones hb hc, hk]
    rw [hk] at positive bounded
    exact ⟨k, rfl, rfl, positive, fun _ => bounded⟩
  · rw [Queue.charge_keeps (.inr (.inr (Int.not_le.mp hc)))]
    exact ⟨0, by simp, by simp, Int.not_le.mp hc, fun h => by omega⟩

/-- What a tick does: the timer advances, every server of a running partition is charged, deadlines move as the timer wraps, gating ends. -/
theorem exec_timerTick (s : State) :
    ∃ t : State, exec .timerTick s = .next t ∧ t.hub.timer = s.hub.timer + 1 ∧ t.hub.power.gated = false ∧ t.mem = s.mem ∧
      t.cores = s.cores ∧ t.hub.queues = s.hub.queues.map fun e =>
        let q := if 0 < e.1.budget ∧ s.runs e.1.part = true then e.1.charge (s.runningOf e.1.num) (hasWork e) else e.1
        (if s.hub.timer + 1 = 0 then { q with srv := (q.srv.1 - 2 ^ 48, q.srv.2) } else q, e.2) := by
  refine ⟨_, rfl, rfl, rfl, rfl, rfl, List.map_congr_left fun e _ => ?_⟩
  simp only [Bool.and_eq_true, decide_eq_true_eq, Queue.wrapped]

/-- Settles O47: each step case by case, and the arithmetic of a charge in `Queue.charge_spec`. That a tick ends gating
(notes/assumptions/43.md) and that deadlines move as the timer wraps are the model's own choices. -/
theorem recordsAndTimer : Obligations.RecordsAndTimer := by
  unfold Obligations.RecordsAndTimer
  refine ⟨?records, ?timer⟩
  case records =>
    intro s q k w c v j n
    refine ⟨fun r => exec_ecallRecordAccepted, fun hq => ⟨fun r rest hw => ?_, exec_completionRecordWrite_idle hq, exec_holdoffTimerExpiry hq⟩,
      fun h => ⟨exec_doorbellTail_takes h, exec_doorbellTail_back h, exec_completionHead h⟩, fun h => exec_doorbell_none h n⟩
    exact ⟨exec_completionRecordWrite_full hq hw, fun hf =>
      ⟨exec_completionRecordWrite_missing hq hw hf, exec_completionRecordWrite_writes hq hw hf⟩⟩
  case timer =>
    intro s
    exact ⟨exec_timerTick s, Queue.charge_spec, fun q n => Queue.charge_keeps (.inl rfl)⟩

end Sys2Proof.Machine
end

section
/-! PROOFS. Why the frame of the scalar words, as O58 states it, fails: a write takes its place from the pending loads of every context (R187). -/

namespace Sys2Proof.Machine

/-- A load of one word of token 0 that a tail left pending when it ended (R172), for cell 0 of the window file. -/
def loadLeft : CtlLoad := ⟨0, 0, .cell 0, 0, 0, 8, .load false, true⟩

/-- A frame of eight cells from cell 0, which c0 runs. -/
def frameAgain : Frame := ⟨0, 8, 0, some 0, 0, false, none, false⟩

/-- c0 of a running core runs a frame over cell 0, which the load of a tail that has ended in c1 still awaits. -/
def placeTaken : State :=
  { State.reset.modCore 0 fun k =>
      (({ k with mode := .running, frames := [frameAgain] }.modCtx 0 fun c => { c with live := true }).modCtx 1 fun c =>
        { c with loads := [loadLeft] }) with cur := ⟨0, .ctl, 0⟩ }

/-- The word `li s8, 5`. -/
def li8 : Instr := .li ⟨false, false, false, false⟩ 8 5

/-- Every condition of the clause for scalar words that issue is met. -/
theorem placeTaken_issues :
    placeTaken.cur.q = .ctl ∧ placeTaken.clear (placeTaken.plain ⟨false, false, false, false⟩ li8) = true ∧
      placeTaken.busyS [] = false ∧ placeTaken.busyD [8] = false ∧ placeTaken.busyP [0] = false := by decide +kernel

/-- The load of c1 is pending before the word and has no place after it. -/
theorem exec_li8_placeTaken :
    ∃ t, exec li8 placeTaken = .next t ∧ (placeTaken.me.ctx.at 1).loads = [loadLeft] ∧
      (t.me.ctx.at 1).loads = [{ loadLeft with dest := .none }] := by
  have h : (match exec li8 placeTaken with
      | .next t => decide ((t.me.ctx.at 1).loads = [{ loadLeft with dest := .none }])
      | _ => false) = true := by decide +kernel
  split at h
  next t ht => exact ⟨t, ht, by decide +kernel, of_decide_eq_true h⟩
  next => cases h

/-- Refutes O58: c0 writes s8, whose cell a pending load of another context was to write. `Core.supersede` takes that place from the load
(R187), so the context of the load does not stay as it was, as the last clause on scalar words asks. -/
theorem not_registerWordFrames : ¬ Obligations.RegisterWordFrames := by
  unfold Obligations.RegisterWordFrames
  intro h
  obtain ⟨t, ht, before, after⟩ := exec_li8_placeTaken
  obtain ⟨hq, hclear, hS, hD, hP⟩ := placeTaken_issues
  obtain ⟨scalar, -⟩ := h placeTaken t ⟨false, false, false, false⟩ 8 0 0 0 false 0 0 0 5 0 .zero .zero .zero li8 ht
  obtain ⟨-, -, issues⟩ := scalar [] (by simp [li8])
  obtain ⟨-, -, -, -, -, -, -, -, -, -, -, -, -, -, -, -, -, -, -, -, -, -, -, others⟩ := issues hq hclear hS hD hP (by decide)
  have same : (t.me.ctx.at 1).loads = (placeTaken.me.ctx.at 1).loads := congrArg Ctx.loads (others 1 (by decide))
  rw [before, after] at same
  exact absurd same (by decide)

end Sys2Proof.Machine
end

section
/-! PROOFS. What a write at the home of a line leaves of the cores, the changes of pin entries and leaves among them: it may merge update-only
lines, and so meet an error (R130, R135, R277, R281, R345). -/

namespace Sys2Proof.Machine

/-- The token registers of every core and the unit whose word is executed are as they were, and no core has a trap begin to wait for an
`xlat`. -/
structure State.KeepsTokens (s t : State) : Prop where
  cur : t.cur = s.cur
  k : ∀ c, (t.core c).k = (s.core c).k
  trap : ∀ c, (s.core c).aux.trap = none → (t.core c).aux.trap = none

namespace State.KeepsTokens

theorem of_cores {s t : State} (hc : t.cur = s.cur) (h : t.cores = s.cores) : s.KeepsTokens t :=
  ⟨hc, fun c => by rw [State.core, h]; rfl, fun c hn => by rw [State.core, h]; exact hn⟩

theorem refl (s : State) : s.KeepsTokens s := of_cores rfl rfl

theorem trans {s t u : State} (h : s.KeepsTokens t) (g : t.KeepsTokens u) : s.KeepsTokens u :=
  ⟨g.cur.trans h.cur, fun c => (g.k c).trans (h.k c), fun c hn => g.trap c (h.trap c hn)⟩

theorem foldl {α : Type} {f : State → α → State} (h : ∀ t a, State.KeepsTokens t (f t a)) (l : List α) (s : State) :
    s.KeepsTokens (l.foldl f s) :=
  List.foldlRecOn (motive := fun t => s.KeepsTokens t) l f (refl s) fun t ht a _ => ht.trans (h t a)

theorem modCore {s : State} {c : CoreId} {f : Core → Core} (hk : (f (s.core c)).k = (s.core c).k)
    (ht : (s.core c).aux.trap = none → (f (s.core c)).aux.trap = none) : s.KeepsTokens (s.modCore c f) := by
  refine ⟨rfl, fun d => ?_, fun d => ?_⟩
  · by_cases h : c = d
    · subst h
      rw [State.modCore_core_self]
      exact hk
    · rw [State.modCore_core_ne s h]
  · by_cases h : c = d
    · subst h
      rw [State.modCore_core_self]
      exact ht
    · rw [State.modCore_core_ne s h]
      exact id

theorem modHub (s : State) (f : Hub → Hub) : s.KeepsTokens (s.modHub f) := of_cores rfl rfl

theorem badSector (s : State) (n : Nat) : s.KeepsTokens (s.badSector n) := by
  unfold State.badSector State.setReplace
  split
  · split <;> exact of_cores rfl rfl
  · exact modHub ..

theorem scree (s : State) (unit : Fin 5) (code : Nat) (detail : W64) : s.KeepsTokens (s.scree unit code detail) := of_cores rfl rfl

theorem postRec (s : State) (q : Fin 4096) (r : Rec) : s.KeepsTokens (s.postRec q r) := of_cores rfl rfl

theorem stopChain (s : State) (q : Fin 4096) (launch : Nat) : s.KeepsTokens (s.stopChain q launch) := of_cores rfl rfl

theorem leaveSett (s : State) (c : CoreId) : s.KeepsTokens ((s.endLease c).dropWait c) := of_cores rfl rfl

/-- A core whose commands have left it, each with its mark complete (R345). -/
def discards (l : List Cmd) (k : Core) : Core := l.foldl (fun k d => match d.mark with | some m => k.setMark m true | none => k) k

theorem discards_same (l : List Cmd) (k : Core) : (discards l k).k = k.k ∧ (discards l k).aux = k.aux := by
  refine List.foldlRecOn (motive := fun t : Core => t.k = k.k ∧ t.aux = k.aux) l _ ⟨rfl, rfl⟩ fun t ht d _ => ?_
  cases d.mark <;> exact ht

theorem discardUnstarted (s : State) (c : CoreId) : s.KeepsTokens (s.discardUnstarted c) := by
  let keep := fun (d : Cmd) => d.core != c || d.started
  let f := fun (k : Core) => discards ((s.allCmds c).filter fun d => !d.started) { k with cmds := k.cmds.filter keep }
  have core : s.KeepsTokens (s.modCore c f) := modCore (discards_same ..).1 fun h => (congrArg CoreAux.trap (discards_same ..).2).trans h
  exact core.trans (of_cores rfl rfl)

/-- The last part of a machine check (R345). -/
theorem checked (s : State) (c : CoreId) (detail : W64) :
    s.KeepsTokens (((((s.endLease c).dropWait c).scree (screeUnit c) 0x11 detail).discardUnstarted c).modCore c fun k =>
      (({ k with mode := .checked }).modEx fun e => { e with flight := [] }).modAux fun a => { a with trap := none }) :=
  (((leaveSett s c).trans (scree ..)).trans (discardUnstarted ..)).trans (modCore rfl fun _ => rfl)

theorem machineCheck (s : State) (c : CoreId) (what addr d0 d1 d2 : Nat) : s.KeepsTokens (s.machineCheck c what addr d0 d1 d2) := by
  unfold State.machineCheck
  cases (s.core c).aux.run with
  | none => exact checked ..
  | some r =>
    refine State.KeepsTokens.trans ?_ (checked ..)
    exact (postRec s r.queue _).trans (stopChain ..)

theorem consumeError (s : State) (c : CoreId) (what addr : Nat) (next : Bool) : s.KeepsTokens (s.consumeError c what addr next) := by
  simp only [State.consumeError]
  split
  · exact refl s
  · split
    · exact (scree ..).trans (modCore rfl fun _ => rfl)
    · exact machineCheck ..

theorem consumePoison (s : State) (c : CoreId) (n : Nat) : s.KeepsTokens (s.consumePoison c n) :=
  ((of_cores rfl rfl : s.KeepsTokens s.freeWord.2).trans (badSector _ n)).trans (consumeError ..)

theorem combineAll (o : UpdOp) (y : Ty) (n : Nat) (l : List Nat) (s : State) : s.KeepsTokens (combineAll o y n l s).2 := by
  induction n generalizing l s with
  | zero => exact refl s
  | succ n ih =>
    simp only [Machine.combineAll]
    split
    · exact refl s
    · exact (of_cores rfl rfl : s.KeepsTokens s.freeNat.2.freeNat.2).trans (ih ..)

theorem mergeElement (s : State) (c : CoreId) (o : UpdOp) (y : Ty) (key : Nat) (vs : List W32) :
    s.KeepsTokens (s.mergeElement c o y key vs) := by
  simp only [State.mergeElement]
  split
  · exact consumePoison ..
  · exact (combineAll o y _ _ s).trans (of_cores rfl rfl)

theorem dropCopies (s : State) (line : Nat) : s.KeepsTokens (s.dropCopies line) := by
  have core : ∀ c, (s.dropCopies line).core c = if (s.core c).l1.any fun l => l.line == line && !l.isUpdate then
      { s.core c with l1 := (s.core c).l1.filter fun l => !(l.line == line && !l.isUpdate) } else s.core c :=
    fun c => File.at_map s.cores _ c
  refine ⟨rfl, fun c => ?_, fun c h => ?_⟩
  · rw [core]
    split <;> rfl
  · rw [core]
    split <;> exact h

theorem mergeLine (s : State) (c : CoreId) (line : Nat) : s.KeepsTokens (s.mergeLine c line) := by
  unfold State.mergeLine
  split
  · exact ((dropCopies s line).trans (modCore (f := fun k => k.l1Drop line) rfl id)).trans (foldl (fun _ _ => mergeElement ..) _ _)
  · exact refl s

theorem mergeHolders (line n : Nat) (hs : List CoreId) (s : State) : s.KeepsTokens (State.mergeHolders line n hs s) := by
  induction n generalizing hs s with
  | zero => exact refl s
  | succ n ih =>
    have hd : s.KeepsTokens s.freeNat.2 := of_cores rfl rfl
    simp only [State.mergeHolders]
    split
    · exact hd
    · exact (hd.trans (mergeLine ..)).trans (ih ..)

theorem homeWrite (s : State) (line : Nat) : s.KeepsTokens (s.homeWrite line) := by
  unfold State.homeWrite State.mergeAll
  exact (mergeHolders ..).trans (dropCopies ..)

theorem withMem (s : State) (m : Bytes) : s.KeepsTokens { s with mem := m } := of_cores rfl rfl

theorem notePin (s : State) (base : BitVec 52) (i : Nat) (frozen : Bool) : s.KeepsTokens (s.notePin base i frozen) := modHub ..

theorem setPinState (s : State) (base : BitVec 52) (i st : Nat) : s.KeepsTokens (s.setPinState base i st) := by
  have put : s.KeepsTokens (s.putPinState base i st) := (homeWrite ..).trans (withMem ..)
  unfold State.setPinState
  dsimp only
  split
  · exact put
  · exact put.trans (notePin ..)

theorem takePin (s : State) (base : BitVec 52) (i va len : Nat) (asid : BitVec 11) (rd wr remote : Bool) (die : Nat) :
    s.KeepsTokens (s.takePin base i va len asid rd wr remote die).2 :=
  ((homeWrite ..).trans (withMem ..)).trans (notePin ..)

theorem modTu (s : State) (t : Fin 16) (f : Tu → Tu) : s.KeepsTokens (s.modTu t f) := of_cores rfl rfl

theorem orLeaf (s : State) (w : Bool) (e : TlbEntry) : s.KeepsTokens (s.orLeaf w e) :=
  foldl (fun _ _ => (homeWrite ..).trans (withMem ..)) _ _

theorem markLeaf (s : State) (t : Fin 16) (w : Bool) (l : Leaf) : s.KeepsTokens (s.markLeaf t w l) := by
  simp only [State.markLeaf]
  split
  · exact refl s
  · exact (orLeaf ..).trans (modTu ..)

theorem markLeaves (s : State) (t : Fin 16) (w : Bool) (ls : List Leaf) : s.KeepsTokens (s.markLeaves t w ls) :=
  foldl (fun _ _ => markLeaf ..) ls s

theorem storePin (s : State) (t : Fin 16) (p : PinRuns) : s.KeepsTokens (s.storePin t p) := modTu ..

end State.KeepsTokens

end Sys2Proof.Machine
end

section
/-! PROOFS. The issue of `xlat` and the end of its walk (R41, R132, R134, R179 to R181). -/

namespace Sys2Proof.Machine

/-! ## The issue of `xlat` (R41, R180, R181) -/

/-- The target of an `xlat`: none for the core's own die (R181). -/
def State.xlatDie (s : State) (far : Option (Fin 64)) : Option (Fin 64) := if far = some (s.hub.fab.dieAddr (dieOf s.cur.core)) then none else far

/-- A target lies in the fabric reach of the core's partition (R181, R311). -/
def State.reaches (s : State) : Option (Fin 64) → Bool
  | none => true
  | some d => s.hub.fab.exists? d && (match s.partOf s.cur.core with | some p => s.fabReach p d | none => false)

theorem State.reaches_iff {s : State} {die : Option (Fin 64)} : s.reaches die = true ↔
    ∀ d, die = some d → s.hub.fab.exists? d = true ∧ ∃ p, s.partOf s.cur.core = some p ∧ s.fabReach p d = true := by
  cases die with
  | none => simp [State.reaches]
  | some d => cases h : s.partOf s.cur.core <;> simp [State.reaches, h]

theorem extentOk_iff (base len : Nat) : extentOk base len = true ↔ base < 2 ^ 57 ∧ 1 ≤ len ∧ len ≤ 2 ^ 30 ∧ base + len ≤ 2 ^ 57 := by
  simp only [extentOk, Bool.and_eq_true, decide_eq_true_eq, and_assoc]

section
variable {s : State} {y : Ring} {ws : List Nat} {t : Fin 16} {a b : Fin 32} {r w : Bool} {far : Option (Fin 64)}

/-- What an `xlat` does at its issue, by the first of its checks that fails (R132, R180, R181). -/
theorem State.xlatBody_eq : s.xlatBody y ws t a b r w far =
    if !extentOk (s.readS a).toNat (s.readS b).toNat then .trapIn (s.setFva s.cur.core (s.readS a).toNat) cPERM 0 0
    else if !s.reaches (s.xlatDie far) then .trapIn (s.setFva s.cur.core (s.readS a).toNat) cRANGE 0 0
    else if (s.freePin s.me.cr.pinBase).isNone then .trapIn (s.setFva s.cur.core (s.readS a).toNat) cFRAGMENT 0 0
    else s.xlatIssue y ⟨t, (s.readS a).toNat, (s.readS b).toNat, r, w, s.xlatDie far, s.myFlow.pc, none, none, false, ws, false⟩ := by
  cases hd : s.xlatDie far with
  | none =>
    unfold State.xlatDie at hd
    simp only [State.xlatBody, hd, State.reaches, Bool.not_true, Bool.false_eq_true, if_false]
  | some d =>
    unfold State.xlatDie at hd
    cases hp : s.partOf s.cur.core <;> simp only [State.xlatBody, hd, hp, State.reaches]

end

/-- The state in which a context holds at its `xlat`, whose ring field has acted once (R41). -/
def State.xlatHeld (s : State) (y : Ring) (p : PendXlat) : State :=
  s.hadSlot.modMe fun k => (if (k.flow s.cur.q s.cur.x).posted then k else (k.takeRing s.cur.q y).postRing s.cur.q y).modCtx s.cur.x fun c =>
    { c with xl := some p, flow := { c.flow with posted := true, stall := 0, wait := none } }

theorem State.hadSlot_cur (s : State) : s.hadSlot.cur = s.cur := by
  simp only [State.hadSlot]
  split <;> rfl

theorem State.hadSlot_mem (s : State) : s.hadSlot.mem = s.mem := by
  simp only [State.hadSlot]
  split <;> rfl

theorem State.hadSlot_same (s : State) : Core.SameButRings s.me s.hadSlot.me := by
  simp only [State.hadSlot]
  split
  · rw [State.modMe_me]
    constructor <;> rfl
  · exact .refl _

theorem State.xlatHeld_spec {s : State} (hq : s.cur.q = .ctl) (y : Ring) (p : PendXlat) :
    (s.xlatHeld y p).myFlow.pc = s.myFlow.pc ∧ (s.xlatHeld y p).myFlow.posted = true ∧ (s.xlatHeld y p).myFlow.stall = 0 ∧
      (s.xlatHeld y p).myCtx.xl = some p ∧ (s.xlatHeld y p).mem = s.mem ∧ (s.xlatHeld y p).me.k = s.me.k := by
  let k := if (s.hadSlot.me.flow s.cur.q s.cur.x).posted then s.hadSlot.me else (s.hadSlot.me.takeRing s.cur.q y).postRing s.cur.q y
  have rings : Core.SameButRings s.me k := by
    refine s.hadSlot_same.trans ?_
    simp only [k]
    split
    · exact .refl _
    · exact (Core.takeRing_same ..).trans (Core.postRing_same ..)
  have cur : (s.xlatHeld y p).cur = s.cur := s.hadSlot_cur
  have me : (s.xlatHeld y p).me = k.modCtx s.cur.x fun c =>
      { c with xl := some p, flow := { c.flow with posted := true, stall := 0, wait := none } } := State.modMe_me ..
  have ctx : (s.xlatHeld y p).myCtx = { s.myCtx with xl := some p, flow := { s.myCtx.flow with posted := true, stall := 0, wait := none } } := by
    rw [State.myCtx, me, cur, Core.modCtx_ctx, File.at_mod_self, rings.ctx]
    rfl
  have flow : (s.xlatHeld y p).myFlow = { s.myFlow with posted := true, stall := 0, wait := none } := by
    rw [State.myFlow_of_ctl (by rw [cur, hq]), State.myFlow_of_ctl hq, ctx]
  rw [flow, ctx]
  exact ⟨rfl, rfl, rfl, rfl, s.hadSlot_mem, by rw [me]; exact rings.k⟩

/-- The word of an `xlat`, of one's own die or of another, with its registers there. -/
theorem exec_xlat {s : State} {y : Ring} {t : Fin 16} {a b c : Fin 32} {r w : Bool} {i : Instr} {far : Option (Fin 64)} {regs : List (Fin 32)}
    (hi : (i, far, regs) ∈ [(Instr.xlat y t a b r w, none, [a, b]),
      (.xlatR y t a b r w c, some (Fin.ofNat 64 (s.readS c).toNat), [a, b, c])])
    (hc : s.clear { s.plain y i with isXlat := true } = true) (hr : s.busyS regs = false) :
    exec i s = .next (s.act { s.plain y i with isXlat := true } (s.xlatBody y (s.wordsOf i) t a b r w far)) := by
  simp only [List.mem_cons, List.not_mem_nil, or_false, Prod.mk.injEq] at hi
  obtain ⟨rfl, rfl, rfl⟩ | ⟨rfl, rfl, rfl⟩ := hi
  · exact (State.word_clear hc _).trans (congrArg (fun b => Host.Outcome.next (s.act _ b)) (if_neg (ne_true_of_eq_false hr)))
  · exact (State.word_clear hc _).trans (congrArg (fun b => Host.Outcome.next (s.act _ b)) (if_neg (ne_true_of_eq_false hr)))

/-! ## The end of a walk (R132, R134, R179) -/

theorem Core.take_aux_trap (k : Core) (q : Seq) (n : Fin 8) : (k.take q n).aux.trap = k.aux.trap := by
  simp only [Core.take, Core.follow]
  split <;> rfl

/-- The ring field of a word leaves a trap that waits as it is. -/
theorem Core.issueRings_trap (k : Core) (q : Seq) (x : Fin 4) (i : WordInfo) : (k.issueRings q x i).aux.trap = k.aux.trap := by
  have takes : ∀ k : Core, (k.takeRing q i.y).aux.trap = k.aux.trap := fun k => by
    simp only [Core.takeRing]
    split <;> split <;> simp only [Core.take_aux_trap]
  have posts : ∀ k : Core, (k.postRing q i.y).aux.trap = k.aux.trap := fun k => by
    simp only [Core.postRing]
    split <;> split <;> rfl
  simp only [Core.issueRings]
  have lasts : ∀ k : Core, (if q == .ctl then k.modAux fun a => { a with lastCtx := x } else k).aux.trap = k.aux.trap := fun k => by
    split <;> rfl
  rw [lasts]
  split <;> split <;> simp only [takes, posts]

theorem State.resumeTrap_of_none {s : State} {c : CoreId} (h : (s.core c).aux.trap = none) : s.resumeTrap c = s := by
  simp only [State.resumeTrap, h]

/-- The unit of a context of CTL. -/
def State.asCtl (s : State) (c : CoreId) (x : Fin 4) : State := { s with cur := ⟨c, .ctl, x⟩ }

/-- A word that issues as one of a context of CTL leaves the core but for the progress of the context. -/
theorem State.asCtl_issued (s : State) (c : CoreId) (x : Fin 4) (i : WordInfo) (pc : W32) :
    Core.SameButProgress x (s.core c) (((s.asCtl c x).issued i pc).core c) ∧
      ((((s.asCtl c x).issued i pc).core c).ctx.at x).flow.pc = pc ∧
      (((s.asCtl c x).issued i pc).core c).aux.trap = (s.core c).aux.trap := by
  have cur : ((s.asCtl c x).issued i pc).cur = ⟨c, .ctl, x⟩ := (State.issued_sameButCores_all ..).cur
  have core : ((s.asCtl c x).issued i pc).core c = ((s.asCtl c x).issued i pc).me := by rw [State.me, cur]
  have hpc := State.issued_pc (s.asCtl c x) i pc
  rw [State.myFlow, cur] at hpc
  have ticked : (s.asCtl c x).ticked = s.asCtl c x := rfl
  rw [core]
  refine ⟨State.issued_progress (s := s.asCtl c x) rfl i pc, hpc, ?_⟩
  rw [State.issued_me_eq, Core.modFlow_aux, Core.issueRings_trap, ticked]
  rfl

/-- The state in which the register of an `xlat` holds its token (R132, R179). -/
def State.xlatWritten (s : State) (c : CoreId) (x : Fin 4) (p : PendXlat) (tok : W64) : State :=
  s.modCore c fun k => (k.writeK p.t tok).modCtx x fun d => { d with xl := none }

theorem State.xlatDone_core {s : State} {c : CoreId} {x : Fin 4} {p : PendXlat} {tok : W64} {v : State}
    (hv : ((s.xlatWritten c x p tok).asCtl c x).issued (plainWord ⟨false, false, false, false⟩ p.words) (p.pc + 4) = v)
    (ht : (v.core c).aux.trap = none) : (s.xlatDone c x p tok).core c = v.core c := by
  have stays : State.resumeTrap { v with cur := s.cur } c = { v with cur := s.cur } := State.resumeTrap_of_none ht
  subst hv
  exact (congrArg (fun t : State => t.core c) stays).trans rfl

/-- An `xlat` ends with a token while no trap waits (R132, R179). -/
theorem State.xlatDone_spec {s : State} {c : CoreId} (ht : (s.core c).aux.trap = none) (x : Fin 4) (p : PendXlat) (tok : W64) :
    (((s.xlatDone c x p tok).core c).ctx.at x).xl = none ∧ (((s.xlatDone c x p tok).core c).ctx.at x).flow.pc = p.pc + 4 ∧
      ((s.xlatDone c x p tok).core c).k.at p.t = tok ∧ ((s.xlatDone c x p tok).core c).binds.at p.t = none := by
  have written : (s.xlatWritten c x p tok).core c = ((s.core c).writeK p.t tok).modCtx x fun d => { d with xl := none } :=
    State.modCore_core_self ..
  obtain ⟨same, hpc, trap⟩ := State.asCtl_issued (s.xlatWritten c x p tok) c x (plainWord ⟨false, false, false, false⟩ p.words) (p.pc + 4)
  obtain ⟨i, h, pc, own⟩ := same.own
  rw [written] at trap own
  rw [State.xlatDone_core rfl (trap.trans ht)]
  refine ⟨?_, hpc, ?_, ?_⟩
  · exact (congrArg Ctx.xl own).trans (by rw [Core.modCtx_ctx, File.at_mod_self])
  · exact (congrArg (·.at p.t) (same.k.trans (congrArg Core.k written))).trans (File.at_put_self ..)
  · exact (congrArg (·.at p.t) (same.binds.trans (congrArg Core.binds written))).trans (File.at_put_self ..)

/-- An `xlat` that finds a free entry takes it, and ends with its token (R132, R134). -/
theorem State.xlatPin_of_free {s : State} {c : CoreId} {i : Nat} (hi : s.freePin (s.core c).cr.pinBase = some i) (x : Fin 4) (p : PendXlat)
    (part : Fin 16) (die : Fin 64) {store : State → BitVec 10 → BitVec 12 → State} (hs : ∀ t i g, State.KeepsTokens t (store t i g)) :
    ∃ (v : State) (watch : Bool) (g : Nat), s.KeepsTokens v ∧
      s.xlatPin c x p part die store = v.xlatDone c x p (mkToken p.len die.val p.die.isSome p.r p.w watch g i) := by
  unfold State.xlatPin
  dsimp only
  rw [hi]
  exact ⟨_, _, _, (State.KeepsTokens.takePin ..).trans (hs ..), rfl⟩

section
variable {s u : State} {c : CoreId} {x : Fin 4} {p : PendXlat} {part : Fin 16} {runs : List Run} {ls : List Leaf}

/-- The walk of an `xlat` in its own package finds every page, and no revocation holds it (R132, R139). -/
theorem exec_xlatWalkComplete_found (hx : ((s.core c).ctx.at x).xl = some p) (hp : s.partOf c = some part) (hr : p.req = none)
    (hf : p.refused = false) (hd : p.die = none)
    (hw : s.walkExtent (tuOf c) ⟨part, (s.core c).cr.asid, p.w, false, p.bypass.toList⟩ p.base p.len = (.ok runs ls, u))
    (hv : u.revoked (s.core c).cr.asid p.base p.len = false) :
    exec (.xlatWalkComplete c x) s = .next (u.xlatPin c x p part 0 fun t i g => (t.markLeaves (tuOf c) p.w ls).storePin (tuOf c)
      ⟨(s.core c).cr.pinBase, (s.core c).cr.asid, i, g, none, 1, p.base, p.len, runs⟩) := by
  change execXlatWalkComplete c x s = _
  simp only [execXlatWalkComplete, hx, hp, hr, hf, hd, hw, hv, Option.isSome_none, Bool.false_eq_true, if_false, Option.map_none]

end

/-- Settles O18: the checks of an `xlat` at its issue, in their order, are `State.xlatBody_eq`, and a walk that finds every page ends with the
token of the entry it takes (`State.xlatPin_of_free`, `State.xlatDone_spec`). -/
theorem xlat : Obligations.Xlat := by
  unfold Obligations.Xlat
  refine ⟨?issue, ?ends⟩
  case issue =>
    intro s y t a b c r w i far regs hi info base len die legal reach hq hc hb
    have step : exec i s = .next (s.act info (s.xlatBody y (s.wordsOf i) t a b r w far)) := exec_xlat hi hc hb
    have hlegal : extentOk (s.readS a).toNat (s.readS b).toNat = true ↔ legal := extentOk_iff ..
    have hreach : s.reaches (s.xlatDie far) = true ↔ reach := State.reaches_iff
    rw [step, State.xlatBody_eq]
    refine ⟨fun hl hr hf => ?_, fun hl => ?_, fun hl hr => ?_, fun hl hr hf => ?_⟩
    · obtain ⟨hpc, hposted, hstall, hxl, hmem, hk⟩ := State.xlatHeld_spec hq y
        ⟨t, base, len, r, w, die, s.myFlow.pc, none, none, false, s.wordsOf i, false⟩
      refine ⟨_, ?_, hpc, hposted, hstall, hxl, hmem, hk⟩
      simp only [hlegal.mpr hl, hreach.mpr hr, Option.isNone_eq_false_iff.mpr hf, Bool.not_true, Bool.false_eq_true, if_false]
      rfl
    · simp only [Bool.eq_false_iff.mpr (hlegal.not.mpr hl), Bool.not_false, if_true]
      rfl
    · simp only [hlegal.mpr hl, Bool.eq_false_iff.mpr (hreach.not.mpr hr), Bool.not_true, Bool.not_false, Bool.false_eq_true, if_false, if_true]
      rfl
    · simp only [hlegal.mpr hl, hreach.mpr hr, hf, Option.isNone_none, Bool.not_true, Bool.false_eq_true, if_false, if_true]
      rfl
  case ends =>
    intro s u c x p part runs ls i hx hp hr hf hd hw hv ht hb hi _
    rw [exec_xlatWalkComplete_found hx hp hr hf hd hw hv]
    obtain ⟨v, watch, g, keeps, ends⟩ := State.xlatPin_of_free (hb ▸ hi) x p part 0 fun t i g =>
      (State.KeepsTokens.markLeaves t (tuOf c) p.w ls).trans (State.KeepsTokens.storePin _ (tuOf c)
        ⟨(s.core c).cr.pinBase, (s.core c).cr.asid, i, g, none, 1, p.base, p.len, runs⟩)
    obtain ⟨done, hpc, hk, hbind⟩ := State.xlatDone_spec (keeps.trap c ht) x p (mkToken p.len (0 : Fin 64).val p.die.isSome p.r p.w watch g i)
    rw [← ends] at done hpc hk hbind
    rw [hd, Option.isSome_none, Fin.val_zero] at hk
    exact ⟨_, rfl, done, hpc, g, watch, hk, hbind⟩

end Sys2Proof.Machine
end

section
/-! PROOFS. The token words `xrel`, `xinfo`, `bind` and `unbind` of CTL (R143, R182 to R185). -/

namespace Sys2Proof.Machine

/-! ## `xrel` (R143, R182) -/

/-- The entry of a token leaves the pin stores of the package. -/
def State.dropPins (s : State) (base : BitVec 52) (i : Nat) : State :=
  { s with tus := s.tus.map fun v => { v with pins := v.pins.filter fun p => !(p.base == base && p.index.toNat == i) } }

/-- The entry of a token leaves the ingress MMU of its die, where it is remote and in the package (R138). -/
def State.dropIngress (s : State) (tok : W64) (src : Fin 64) (asid : BitVec 11) : State :=
  match tokRemote tok, s.hub.fab.dieOf (tokDie tok).val with
  | true, some d => s.modDie d fun e =>
    { e with pins := e.pins.filter fun p => !(p.src == some src && p.asid == asid && p.index.toNat == tokIndex tok) }
  | _, _ => s

/-- The state after an `xrel` of a token that names its entry (R182). -/
def State.release (s : State) (tok : W64) : State :=
  ((((s.setPinState s.me.cr.pinBase (tokIndex tok) 0).dropPins s.me.cr.pinBase (tokIndex tok)).dropIngress tok
    (s.hub.fab.dieAddr (dieOf s.cur.core)) s.me.cr.asid).modMe fun k => k.clearBinds (tokIndex tok))

section
variable {s : State} {y : Ring} {t : Fin 16}

/-- `xrel` of a token that does not name its entry. -/
theorem exec_xrel_stale (hc : s.clear (s.plain y (.xrel y t)) = true) (h : s.currentTok s.me.cr.pinBase (s.me.k.at t) = false) :
    exec (.xrel y t) s = .next (s.issued (s.plain y (.xrel y t)) (s.myFlow.pc + 4)) := by
  refine State.word_issues hc ?_ rfl
  simp only [State.readK, h, Bool.not_false, if_true]

/-- No access of the context holds the release of an entry that is FROZEN, or of which it awaits none (R143, R182). -/
theorem State.xrel_free (h : s.frozenTok s.me (s.me.k.at t) = true ∨ (∀ l ∈ s.myCtx.openLoads, tokIndex l.tok ≠ tokIndex (s.me.k.at t)) ∧
      (∀ l ∈ s.myCtx.openStores, tokIndex l.tok ≠ tokIndex (s.me.k.at t))) :
    (!s.frozenTok s.me (s.me.k.at t) && (s.myCtx.openLoads.any (fun l => tokIndex l.tok == tokIndex (s.me.k.at t)) ||
      s.myCtx.openStores.any fun l => tokIndex l.tok == tokIndex (s.me.k.at t))) = false := by
  obtain h | ⟨hl, hs⟩ := h
  · rw [h]; rfl
  · have loads : s.myCtx.openLoads.any (fun l => tokIndex l.tok == tokIndex (s.me.k.at t)) = false := by simpa using hl
    have stores : s.myCtx.openStores.any (fun l => tokIndex l.tok == tokIndex (s.me.k.at t)) = false := by simpa using hs
    rw [loads, stores, Bool.or_false, Bool.and_false]

/-- `xrel` of a token that names its entry, at once where the entry is FROZEN, else with no access of the context through it left. -/
theorem exec_xrel_current (hc : s.clear (s.plain y (.xrel y t)) = true) (h : s.currentTok s.me.cr.pinBase (s.me.k.at t) = true)
    (hf : s.frozenTok s.me (s.me.k.at t) = true ∨ (∀ l ∈ s.myCtx.openLoads, tokIndex l.tok ≠ tokIndex (s.me.k.at t)) ∧
      (∀ l ∈ s.myCtx.openStores, tokIndex l.tok ≠ tokIndex (s.me.k.at t))) :
    exec (.xrel y t) s = .next ((s.release (s.me.k.at t)).issued (s.plain y (.xrel y t)) (s.myFlow.pc + 4)) := by
  refine State.word_issues hc ?_ rfl
  simp only [State.readK, h, Bool.not_true, Bool.false_eq_true, if_false, State.xrel_free hf]
  rfl

end

theorem State.dropIngress_sameButDies (s : State) (tok : W64) (src : Fin 64) (asid : BitVec 11) :
    ∃ d, s.dropIngress tok src asid = { s with dies := d } := by
  unfold State.dropIngress
  split
  · exact ⟨_, rfl⟩
  · exact ⟨_, rfl⟩

theorem State.dropPins_pins (s : State) (base : BitVec 52) (i : Nat) (c : Fin 16) : ((s.dropPins base i).tus.at c).pins =
    (s.tus.at c).pins.filter fun p => !(p.base == base && p.index.toNat == i) := congrArg Tu.pins (File.at_map ..)

/-- A release makes the entry FREE in memory, and leaves the token registers; none that names the entry is bound, and no pin store holds it
(R182). -/
theorem State.release_spec {s u : State} {tok : W64} (hu : s.setPinState s.me.cr.pinBase (tokIndex tok) 0 = u) :
    (s.release tok).mem = u.mem ∧ (s.release tok).me.k = s.me.k ∧
      (∀ n, tokIndex (s.me.k.at n) = tokIndex tok → (s.release tok).me.binds.at n = none) ∧
      (∀ c p, p ∈ ((s.release tok).tus.at c).pins → ¬ (p.base = s.me.cr.pinBase ∧ p.index.toNat = tokIndex tok)) := by
  obtain ⟨d, hd⟩ := (u.dropPins s.me.cr.pinBase (tokIndex tok)).dropIngress_sameButDies tok (s.hub.fab.dieAddr (dieOf s.cur.core)) s.me.cr.asid
  have freed : s.release tok = State.modMe { u.dropPins s.me.cr.pinBase (tokIndex tok) with dies := d } fun k => k.clearBinds (tokIndex tok) := by
    rw [State.release, hu, hd]
  have me : (s.release tok).me = u.me.clearBinds (tokIndex tok) := by
    rw [freed]
    exact State.modMe_me ..
  have tus : (s.release tok).tus = (u.dropPins s.me.cr.pinBase (tokIndex tok)).tus := by
    rw [freed]
    rfl
  have hk : u.me.k = s.me.k := by
    have keeps := State.KeepsTokens.setPinState s s.me.cr.pinBase (tokIndex tok) 0
    rw [hu] at keeps
    rw [State.me, keeps.cur]
    exact keeps.k s.cur.core
  refine ⟨by rw [freed]; rfl, by rw [me]; exact hk, fun n hn => ?_, fun c p hp => ?_⟩
  · rw [me, Core.clearBinds, File.at_ofFn, hk, hn, beq_self_eq_true, if_pos rfl]
  · rw [tus, State.dropPins_pins] at hp
    rintro ⟨hbase, hindex⟩
    have stays := (List.mem_filter.mp hp).2
    simp [hbase, hindex] at stays

/-! ## `xinfo`, `bind` and `unbind` (R183 to R185) -/

section
variable {s : State} {y : Ring} {t k : Fin 16} {d x v : Fin 32} {m : Fin 8}

theorem exec_xinfo_reads (hc : s.clear (s.plain y (.xinfo y d t m)) = true) (hm : m ≠ 7) (hd : s.busyD [d] = false) :
    exec (.xinfo y d t m) s = .next ((s.writeS d (s.info (s.me.k.at t) m.val)).issued (s.plain y (.xinfo y d t m)) (s.myFlow.pc + 4)) := by
  have hv : m.val ≠ 7 := fun h => hm (Fin.ext h)
  refine State.word_issues hc ?_ rfl
  simp only [hv, hd, Bool.false_eq_true, if_false]
  rfl

theorem exec_xinfo_writes (hc : s.clear (s.plain y (.xinfo y d t 7)) = true) (hd : s.busyS [d] = false) :
    exec (.xinfo y d t 7) s = .next ((s.writeK t (s.readS d)).issued (s.plain y (.xinfo y d t 7)) (s.myFlow.pc + 4)) :=
  State.word_issues hc ((if_pos rfl).trans (if_neg (ne_true_of_eq_false hd))) rfl

theorem exec_bind (hc : s.clear (s.plain y (.bind y t k x v)) = true) (hx : s.busyS [x] = false) :
    exec (.bind y t k x v) s = .next ((s.modMe fun c => { c with binds := c.binds.put t (some
      ⟨BitVec.ofNat 10 (tokIndex (s.me.k.at t)), s.me.k.at k, BitVec.ofNat 64 (alignTo 8 (ctlOffset (s.readS x) (8 * v.val)))⟩) }).issued (s.plain y (.bind y t k x v))
        (s.myFlow.pc + 4)) :=
  State.word_issues hc (if_neg (ne_true_of_eq_false hx)) rfl

theorem exec_unbind (hc : s.clear (s.plain y (.unbind y t)) = true) :
    exec (.unbind y t) s = .next ((s.modMe fun c => { c with binds := c.binds.put t none }).issued (s.plain y (.unbind y t)) (s.myFlow.pc + 4)) :=
  State.word_issues hc rfl rfl

end

/-- Settles O19: the body of each word goes on, `xrel` to the state of `State.release_spec`. -/
theorem tokenWords : Obligations.TokenWords := by
  unfold Obligations.TokenWords
  intro s y t k d x v m
  refine ⟨fun hc => ⟨exec_xrel_stale hc, fun h hf => ?_⟩, fun hc => ⟨exec_xinfo_reads hc, fun hm hd => ?_⟩, ⟨rfl, rfl⟩, exec_bind,
    exec_unbind⟩
  · exact ⟨_, exec_xrel_current hc h hf, State.release_spec rfl⟩
  · subst hm
    exact exec_xinfo_writes hc hd

end Sys2Proof.Machine
end

section
/-! PROOFS. The scalar accesses of CTL: their issue, and their completion, whole or part by part (R92 to R94, R99, R186 to R188, R197). -/

namespace Sys2Proof.Machine

/-! ## Issue (R186 to R188) -/

/-- A load or atomic as it stands once issued (R187): of the next name, awaited by its register, with its offset and operands fixed. -/
def State.newLoad (s : State) (d : Fin 32) (k : Fin 16) (off size : Nat) (op : LoadOp) : CtlLoad :=
  ⟨s.nextUid, s.myFlow.pc, s.me.destOf s.cur.x d, s.me.k.at k, off, size, op, false⟩

/-- A load joins those that its context awaits, and an earlier one of its register writes it no more (R187). -/
def State.withLoad (s : State) (l : CtlLoad) : State :=
  (({ s with nextUid := s.nextUid + 1 } : State).modMe fun k => k.supersede l.dest).modMyCtx fun c => { c with loads := c.loads ++ [l] }

theorem State.issueLoad_room {s : State} (h : s.myCtx.openLoads.length < 8) (d : Fin 32) (k : Fin 16) (off size : Nat) (op : LoadOp) :
    s.issueLoad d k off size op = .go (s.withLoad (s.newLoad d k off size op)) := by
  have room : s.myCtx.loadRoom = true := decide_eq_true h
  simp only [State.issueLoad, room, Bool.not_true, Bool.false_eq_true, if_false]
  rfl

section
variable {s : State} {y : Ring} {d x v b n : Fin 32} {k : Fin 16} {z : Size} {o : AmoOp} {c : Scope}

/-- `lds` with its registers there and room for it (R186, R187). -/
theorem exec_lds (hl : s.myCtx.openLoads.length < 8) (hc : s.clear (s.plain y (.lds y d k x z v)) = true) (hr : s.busyS [x] = false)
    (hd : s.busyD [d] = false) :
    exec (.lds y d k x z v) s = .next ((s.withLoad (s.newLoad d k ((s.readS x).toNat + v.val * sizeBytes z) (sizeBytes z)
      (.load (sizeSigned z)))).issued (s.plain y (.lds y d k x z v)) (s.myFlow.pc + 4)) := by
  refine State.word_issues hc ?_ rfl
  simp only [hr, hd, Bool.or_self, Bool.false_eq_true, if_false]
  exact State.issueLoad_room hl ..

/-- `amo`, its offset aligned to its size (R188). -/
theorem exec_amo (hl : s.myCtx.openLoads.length < 8) (hc : s.clear (s.plain y (.amo y d k x z v b o c)) = true) (hr : s.busyS [x, b] = false)
    (hd : s.busyD [d] = false) :
    exec (.amo y d k x z v b o c) s = .next ((s.withLoad (s.newLoad d k (alignTo (sizeBytes z) ((s.readS x).toNat + v.val * sizeBytes z))
      (sizeBytes z) (.amo o (s.readS b) c))).issued (s.plain y (.amo y d k x z v b o c)) (s.myFlow.pc + 8)) := by
  refine State.word_go hc ?_
  simp only [hr, hd, Bool.or_self, Bool.false_eq_true, if_false]
  exact State.issueLoad_room hl ..

/-- `cas`, its offset aligned to its size (R188). -/
theorem exec_cas (hl : s.myCtx.openLoads.length < 8) (hc : s.clear (s.plain y (.cas y d k x z v b n c)) = true)
    (hr : s.busyS [x, b, n] = false) (hd : s.busyD [d] = false) :
    exec (.cas y d k x z v b n c) s = .next ((s.withLoad (s.newLoad d k (alignTo (sizeBytes z) ((s.readS x).toNat + v.val * sizeBytes z))
      (sizeBytes z) (.cas (s.readS b) (s.readS n) c))).issued (s.plain y (.cas y d k x z v b n c)) (s.myFlow.pc + 8)) := by
  refine State.word_go hc ?_
  simp only [hr, hd, Bool.or_self, Bool.false_eq_true, if_false]
  exact State.issueLoad_room hl ..

/-- `sts` with its registers there and room for it (R186, R187). -/
theorem exec_sts (hl : s.myCtx.openStores.length < 16) (hc : s.clear (s.plain y (.sts y d k x z v)) = true) (hr : s.busyS [d, x] = false) :
    exec (.sts y d k x z v) s = .next ((({ s with nextUid := s.nextUid + 1 } : State).modMyCtx fun e => { e with stores := e.stores ++
      [⟨s.nextUid, s.myFlow.pc, s.me.k.at k, (s.readS x).toNat + v.val * sizeBytes z, sizeBytes z, s.readS d, false⟩] }).issued
        (s.plain y (.sts y d k x z v)) (s.myFlow.pc + 4)) := by
  have room : s.myCtx.storeRoom = true := decide_eq_true hl
  refine State.word_issues hc ?_ rfl
  simp only [hr, room, Bool.not_true, Bool.or_self, Bool.false_eq_true, if_false]
  rfl

end

/-! ## Completion (R92 to R94, R99, R187) -/

section
variable {s : State} {c : CoreId} {x : Fin 4} {k : Nat} (n : Option Nat)

section
variable {l : CtlLoad} (hl : ((s.core c).ctx.at x).loads[k]? = some l)
include hl

/-- A load or atomic that must wait changes nothing (R92 to R94). -/
theorem exec_ldsDataReturn_waits (hw : s.mustWait c x l.uid l.gone l.tok l.off l.size l.op.writes = true) :
    exec (.ldsDataReturn c x ⟨k, n⟩) s = .next s := by
  change execLdsDataReturn c x ⟨k, n⟩ s = _
  simp only [execLdsDataReturn, hl, hw, if_true]

/-- A load or atomic of which more is left (R99). -/
theorem exec_ldsDataReturn_part (hw : s.mustWait c x l.uid l.gone l.tok l.off l.size l.op.writes = false)
    (hg : (s.loadAccess ⟨c, .ctl, x⟩ l n).data = none) :
    exec (.ldsDataReturn c x ⟨k, n⟩) s = .next (s.loadAccess ⟨c, .ctl, x⟩ l n).s := by
  change execLdsDataReturn c x ⟨k, n⟩ s = _
  simp only [execLdsDataReturn, hl, hw, hg, Bool.false_eq_true, if_false]

/-- The last part of a load or atomic: its data comes back (R187). -/
theorem exec_ldsDataReturn_data (hw : s.mustWait c x l.uid l.gone l.tok l.off l.size l.op.writes = false) {b : List Byte}
    (hg : (s.loadAccess ⟨c, .ctl, x⟩ l n).data = some b) :
    exec (.ldsDataReturn c x ⟨k, n⟩) s = .next (((((s.loadAccess ⟨c, .ctl, x⟩ l n).s.modCore c fun k => (k.modCtx x fun d =>
      { d with loads := d.loads.filter fun m => m.uid != l.uid }).writeDest l.dest (extend l.op.signed l.size (natOfBytes b))).dropReqs
      (dieOf c) l.uid).chargeCtl c x l.pc l.gone (s.loadAccess ⟨c, .ctl, x⟩ l n).acct)) := by
  change execLdsDataReturn c x ⟨k, n⟩ s = _
  simp only [execLdsDataReturn, hl, hw, hg, Bool.false_eq_true, if_false]

end

/-- The access of a pending store (R187). -/
def State.storeAccess (s : State) (w : Who) (l : CtlStore) (n : Option Nat) : Got :=
  s.tokWrite w l.uid 0 l.tok ((offs l.off l.size).zip (bytesOfNat l.size l.data.toNat)) (some l.pc) .cr (How.by n (scalarGrain l.off l.size))

section
variable {l : CtlStore} (hl : ((s.core c).ctx.at x).stores[k]? = some l)
include hl

/-- A store that must wait changes nothing (R92 to R94). -/
theorem exec_stsAccepted_waits (hw : s.mustWait c x l.uid l.gone l.tok l.off l.size true = true) :
    exec (.stsAccepted c x ⟨k, n⟩) s = .next s := by
  change execStsAccepted c x ⟨k, n⟩ s = _
  simp only [execStsAccepted, hl, hw, if_true]

/-- A store of which more is left (R99). -/
theorem exec_stsAccepted_part (hw : s.mustWait c x l.uid l.gone l.tok l.off l.size true = false)
    (hg : (s.storeAccess ⟨c, .ctl, x⟩ l n).data = none) :
    exec (.stsAccepted c x ⟨k, n⟩) s = .next (s.storeAccess ⟨c, .ctl, x⟩ l n).s := by
  unfold State.storeAccess at hg
  change execStsAccepted c x ⟨k, n⟩ s = _
  simp only [execStsAccepted, hl, hw, hg, Bool.false_eq_true, if_false, State.storeAccess]

/-- The last part of a store: it is accepted (R187). -/
theorem exec_stsAccepted_last (hw : s.mustWait c x l.uid l.gone l.tok l.off l.size true = false)
    (hg : (s.storeAccess ⟨c, .ctl, x⟩ l n).data.isSome = true) :
    exec (.stsAccepted c x ⟨k, n⟩) s = .next (((s.storeAccess ⟨c, .ctl, x⟩ l n).s.modCore c fun k => k.modCtx x fun d =>
      { d with stores := d.stores.filter fun m => m.uid != l.uid }).chargeCtl c x l.pc l.gone (s.storeAccess ⟨c, .ctl, x⟩ l n).acct) := by
  obtain ⟨b, hb⟩ := Option.isSome_iff_exists.mp hg
  unfold State.storeAccess at hb
  change execStsAccepted c x ⟨k, n⟩ s = _
  simp only [execStsAccepted, hl, hw, hb, Bool.false_eq_true, if_false, State.storeAccess]

end

end

/-- Settles O20: each word issues its access with the operands that it reads (`exec_lds`, `exec_amo`, `exec_cas`, `exec_sts`), and a step of an
access that need not wait performs a part of it, or its last. -/
theorem scalarAccesses : Obligations.ScalarAccesses := by
  unfold Obligations.ScalarAccesses
  refine ⟨?issue, fun s c x k n => ⟨fun l b hl hw => ?load, fun l hl hw => ?store, fun l hl hw => exec_ldsDataReturn_waits n hl hw,
    fun l hl hw => exec_stsAccepted_waits n hl hw⟩⟩
  case issue =>
    intro s y d k x v b n z o c size signed off u load
    have hsize : size = sizeBytes z := by cases z <;> rfl
    have hsigned : signed = sizeSigned z := by cases z <;> rfl
    simp only [load, off, hsize, hsigned]
    exact ⟨fun hl => ⟨exec_lds hl, exec_amo hl, exec_cas hl⟩, exec_sts⟩
  case load => exact ⟨exec_ldsDataReturn_part n hl hw, exec_ldsDataReturn_data n hl hw⟩
  case store => exact ⟨exec_stsAccepted_part n hl hw, exec_stsAccepted_last n hl hw⟩

end Sys2Proof.Machine
end

section
/-! PROOFS. Fences, acquires and releases of CTL (R27, R96 to R98, R107, R190, R191). -/

namespace Sys2Proof.Machine

/-! ## Synchronisation points (R136) -/

theorem State.syncGo_of_none {s : State} (h : s.me.tokCause s.cur.q = none) : s.syncGo = .go s := by
  simp only [State.syncGo, h]

/-- The charges of an access that met no poisoned sector. -/
theorem Acct.set_poison_none {a : Acct} (h : a.poison = Option.none) : { a with poison := Option.none } = a := by
  rw [← h]

/-- The word of an access that has been made without meeting poison, where no token cause waits (R190). -/
theorem State.afterAccess_made {s : State} {uid : Nat} {tok : W64} {g : Got} {f : State → State} {t : State} (hd : g.data.isSome = true)
    (hp : g.acct.poison = none)
    (ht : f (((g.s.dropReqs (dieOf s.cur.core) uid).modMyCtx fun e => { e with acc := none }).charge ⟨s.cur.core, s.cur.q, s.cur.x⟩
      s.myFlow.pc g.acct) = t)
    (hc : t.me.tokCause t.cur.q = none) : s.afterAccess uid tok g f = .go t := by
  obtain ⟨b, hb⟩ := Option.isSome_iff_exists.mp hd
  simp only [State.afterAccess, hb, hp, Acct.set_poison_none hp, ht, State.syncGo_of_none hc]

theorem State.accUid_of_none {s : State} (h : s.myCtx.acc = none) : s.accUid = (s.nextUid, { s with nextUid := s.nextUid + 1 }) := by
  simp only [State.accUid, h]
  rfl

/-! ## The work that a `fence.all` fixes (R27, R191) -/

/-- A context fixes the bound of the work that its `fence.all` waits for. -/
def Core.fixAt (k : Core) (x : Fin 4) (n : Nat) : Core := k.modCtx x fun c => { c with fix := some n }

section
variable (k : Core) (x y : Fin 4) (n : Nat)

theorem Core.fixAt_ctx : (k.fixAt x n).ctx.at y = { k.ctx.at y with fix := ((k.fixAt x n).ctx.at y).fix } := by
  simp only [Core.fixAt, Core.modCtx_ctx, File.at_mod]
  split
  · next h => rw [h]
  · rfl

@[simp] theorem Core.fixAt_live : ((k.fixAt x n).ctx.at y).live = (k.ctx.at y).live := by rw [Core.fixAt_ctx]
@[simp] theorem Core.fixAt_ctxFlow : ((k.fixAt x n).ctx.at y).flow = (k.ctx.at y).flow := by rw [Core.fixAt_ctx]
@[simp] theorem Core.fixAt_xl : ((k.fixAt x n).ctx.at y).xl = (k.ctx.at y).xl := by rw [Core.fixAt_ctx]
@[simp] theorem Core.fixAt_latch : ((k.fixAt x n).ctx.at y).latch = (k.ctx.at y).latch := by rw [Core.fixAt_ctx]
@[simp] theorem Core.fixAt_wadr : ((k.fixAt x n).ctx.at y).wadr = (k.ctx.at y).wadr := by rw [Core.fixAt_ctx]
@[simp] theorem Core.fixAt_link : ((k.fixAt x n).ctx.at y).link = (k.ctx.at y).link := by rw [Core.fixAt_ctx]
@[simp] theorem Core.fixAt_ctxMode : ((k.fixAt x n).ctx.at y).mode = (k.ctx.at y).mode := by rw [Core.fixAt_ctx]
@[simp] theorem Core.fixAt_aux : (k.fixAt x n).aux = k.aux := rfl
@[simp] theorem Core.fixAt_mode : (k.fixAt x n).mode = k.mode := rfl

@[simp] theorem Core.fixAt_flow (q : Seq) : (k.fixAt x n).flow q y = k.flow q y := by
  cases q
  case ctl => exact Core.fixAt_ctxFlow k x y n
  all_goals rfl

end

/-- The state in which the context of the unit has fixed a bound. -/
def State.fixTo (s : State) (n : Nat) : State := s.modMyCtx fun c => { c with fix := some n }

section
variable (s : State) (n : Nat) (i : WordInfo)

@[simp] theorem State.fixTo_cur : (s.fixTo n).cur = s.cur := rfl
@[simp] theorem State.fixTo_me : (s.fixTo n).me = s.me.fixAt s.cur.x n := State.modMe_me ..
@[simp] theorem State.fixTo_core_self : (s.fixTo n).core s.cur.core = s.me.fixAt s.cur.x n := State.fixTo_me s n
@[simp] theorem State.fixTo_myFlow : (s.fixTo n).myFlow = s.myFlow := by simp [State.myFlow]

/-- What holds the streams of the core holds them as before. -/
theorem State.fixTo_stillHeld (q : Seq) (x : Fin 4) (code : Nat) :
    (s.fixTo n).stillHeld s.cur.core q x code = s.stillHeld s.cur.core q x code := by
  simp only [State.stillHeld, State.fixTo_core_self, Core.fixAt_flow, Core.fixAt_latch, Core.fixAt_wadr, Core.tailsLive, Core.fixAt_live]
  rfl

theorem State.fixTo_slotOf (x : Fin 4) : (s.fixTo n).slotOf s.cur.core x = s.slotOf s.cur.core x := by
  simp only [State.slotOf, State.ready, State.fixTo_stillHeld, State.fixTo_core_self, Core.fixAt_aux, Core.fixAt_mode, Core.fixAt_live,
    Core.fixAt_ctxFlow, Core.fixAt_xl]
  rfl

theorem State.fixTo_mayIssue : (s.fixTo n).mayIssue = s.mayIssue := by
  simp only [State.mayIssue, State.myCtx, State.fixTo_myFlow, State.fixTo_me, State.fixTo_cur, State.fixTo_slotOf, Core.fixAt_aux,
    Core.fixAt_mode, Core.fixAt_live, Core.fixAt_xl]

theorem State.fixTo_barred : (s.fixTo n).barred i = s.barred i := by
  simp only [State.barred, Core.isTail, State.fixTo_me, State.fixTo_cur, Core.fixAt_ctxMode, Core.fixAt_mode]

theorem State.fixTo_enterDue : (s.fixTo n).enterDue i = s.enterDue i := by
  simp only [State.enterDue, State.myCtx, State.fixTo_me, State.fixTo_cur, Core.fixAt_link]

theorem State.fixTo_ringHold : (s.fixTo n).ringHold i = s.ringHold i := by
  simp only [State.ringHold, State.fixTo_myFlow, State.fixTo_me, State.fixTo_cur]
  rfl

end

/-- A word that stands as the next one of its unit, and whose ring field waits (R117). -/
theorem State.word_ringWaits {s : State} {i : WordInfo} {code : Nat} (hm : s.mayIssue = true) (hd : s.myFlow.due = [])
    (hb : s.barred i = false) (he : s.enterDue i = false) (hr : s.ringHold i = some code) (body : State → Act) :
    s.word i body = .next (s.stallCycle s.cur.core s.cur.q s.cur.x code) := by
  simp [State.word, State.runWord, hm, hd, hb, he, hr]

/-- A `fence.all` fixes its work at its first turn as the next word of its context. -/
theorem State.fixWork_first {s : State} {i : WordInfo} (hm : s.mayIssue = true) (hd : s.myFlow.due = []) (hb : s.barred i = false)
    (he : s.enterDue i = false) (hf : s.myCtx.fix = none) : s.fixWork i = s.fixTo s.nextUid := by
  simp only [State.fixWork, hm, hd, hb, he, hf, List.isEmpty_nil, Bool.not_false, Option.isNone_none, Bool.and_self, if_true]
  rfl

/-! ## The words -/

section
variable {s : State} {y : Ring} {c : Scope} {k : Fin 16} {x v : Fin 32}

/-- `fence` and `fence.rel` whose work is done (R98, R107, R191). -/
theorem exec_fence {i : Instr} (hi : i = .fence y c ∨ i = .fenceRel y c) (hc : s.clear (s.plain y i) = true)
    (hr : (s.mergeFor c).released c = true)
    (ht : (s.mergeFor c).nextInterval.me.tokCause (s.mergeFor c).nextInterval.cur.q = none) :
    exec i s = .next ((s.mergeFor c).nextInterval.issued (s.plain y i) (s.myFlow.pc + 4)) := by
  have done : (if (s.mergeFor c).released c then (s.mergeFor c).nextInterval.syncGo else .hold (s.mergeFor c)) =
      Act.go (s.mergeFor c).nextInterval := by rw [if_pos hr, State.syncGo_of_none ht]
  obtain rfl | rfl := hi
  · exact State.word_issues hc done rfl
  · exact State.word_issues hc done rfl

/-- `fence.acq` with no load of its context outstanding (R98, R191). -/
theorem exec_fenceAcq (hc : s.clear (s.plain y (.fenceAcq y c)) = true) (hl : s.myCtx.openLoads = []) (ht : s.me.tokCause s.cur.q = none) :
    exec (.fenceAcq y c) s = .next (s.issued (s.plain y (.fenceAcq y c)) (s.myFlow.pc + 4)) := by
  refine State.word_issues hc ?_ rfl
  simp only [hl, List.isEmpty_nil, if_true, State.syncGo_of_none ht]

/-- `fence.all` once the work that it has fixed is done (R107, R191). -/
theorem exec_fenceAll {f t : State} (hf : s.fixWork (s.plain y (.fenceAll y)) = f)
    (ht : ((f.mergeFor .sy).modMyCtx fun e => { e with fix := none }).nextInterval = t) (hc : f.clear (s.plain y (.fenceAll y)) = true)
    (hr : (f.mergeFor .sy).releasedBefore (f.myCtx.fix.getD f.nextUid) = true)
    (hw : (f.mergeFor .sy).finishedBefore (f.myCtx.fix.getD f.nextUid) = true) (hk : t.me.tokCause t.cur.q = none) :
    exec (.fenceAll y) s = .next (t.issued (s.plain y (.fenceAll y)) (f.myFlow.pc + 4)) := by
  subst hf
  refine State.word_issues hc ?_ rfl
  exact (if_pos (Bool.and_eq_true_iff.mpr ⟨hr, hw⟩)).trans ((congrArg State.syncGo ht).trans (State.syncGo_of_none hk))

/-- `fence.all` at its first turn as the next word, its ring field waiting: it has fixed its work already (R27, R191). -/
theorem exec_fenceAll_ringWaits {code : Nat} (hm : s.mayIssue = true) (hd : s.myFlow.due = [])
    (hb : s.barred (s.plain y (.fenceAll y)) = false) (he : s.enterDue (s.plain y (.fenceAll y)) = false)
    (hr : s.ringHold (s.plain y (.fenceAll y)) = some code) (hf : s.myCtx.fix = none) :
    exec (.fenceAll y) s = .next ((s.fixWork (s.plain y (.fenceAll y))).stallCycle s.cur.core s.cur.q s.cur.x code) := by
  have fixes := State.fixWork_first hm hd hb he hf
  have waits := State.word_ringWaits (i := s.plain y (.fenceAll y)) ((State.fixTo_mayIssue s s.nextUid).trans hm)
    ((congrArg Flow.due (State.fixTo_myFlow s s.nextUid)).trans hd) ((State.fixTo_barred s s.nextUid _).trans hb)
    ((State.fixTo_enterDue s s.nextUid _).trans he) ((State.fixTo_ringHold s s.nextUid _).trans hr)
  rw [fixes]
  change execFenceAll y s = _
  unfold execFenceAll
  exact (congrArg (fun t : State => t.word (s.plain y (.fenceAll y)) _) fixes).trans (waits _)

/-- `acq` whose access is made at its first turn (R190). -/
theorem exec_acq {g : Got} {t : State} (ha : s.myCtx.acc = none) (hx : s.busyS [x] = false) (hc : s.clear (s.plain y (.acq y c k x v)) = true)
    (hw : s.mustWait s.cur.core s.cur.x s.nextUid false (s.me.k.at k) (alignTo 8 (ctlOffset (s.readS x) (8 * v.val))) 8 false = false)
    (hg : ({ s with nextUid := s.nextUid + 1 } : State).tokRead ⟨s.cur.core, s.cur.q, s.cur.x⟩ s.nextUid 0 (s.me.k.at k)
      (offs (alignTo 8 (ctlOffset (s.readS x) (8 * v.val))) 8) true false (some c) = g)
    (hd : g.data.isSome = true) (hp : g.acct.poison = none)
    (ht : ((g.s.dropReqs (dieOf s.cur.core) s.nextUid).modMyCtx fun e => { e with acc := none }).charge ⟨s.cur.core, s.cur.q, s.cur.x⟩
      s.myFlow.pc g.acct = t)
    (hk : t.me.tokCause t.cur.q = none) :
    exec (.acq y c k x v) s = .next (t.issued (s.plain y (.acq y c k x v)) (s.myFlow.pc + 4)) := by
  refine State.word_issues hc ?_ rfl
  simp only [hx, State.readK, hw, State.accUid_of_none ha, hg, Bool.false_eq_true, if_false]
  exact State.afterAccess_made hd hp ht hk

end

/-- A context whose `rel` has seen its bindings first (R185, R190). -/
def State.tied (s : State) (ties : List (Nat × Nat)) : State := s.modMyCtx fun e => { e with ties := some ties }

theorem State.tied_acc (s : State) (ties : List (Nat × Nat)) : (s.tied ties).myCtx.acc = s.myCtx.acc := by
  rw [State.tied, State.modMyCtx_myCtx]

/-- The access of a `rel` (R190): it adds 1 to its doubleword. -/
def State.relAccess (s : State) (uid : Nat) (tok : W64) (off : Nat) (c : Scope) : Got :=
  s.tokAtomic ⟨s.cur.core, s.cur.q, s.cur.x⟩ uid 0 tok off 8 true true c 2 (AmoOp.code .add) (operandBytes 8 [1])
    fun old => some (amoNew .add 64 1 old)

/-- `rel` whose access is made at its first turn, where no update-only line of its core waits to be merged (R190). -/
theorem exec_rel {s : State} {y : Ring} {c : Scope} {k : Fin 16} {x v : Fin 32} {ties : List (Nat × Nat)} {off : Nat} {r : State} {g : Got}
    {t : State} (ho : alignTo 8 (ctlOffset (s.readS x) (8 * v.val)) = off) (hties : s.myCtx.ties.getD (s.me.tiesTo (s.me.k.at k) off) = ties)
    (hr : s.tied ties = r) (ha : s.myCtx.acc = none) (hx : s.busyS [x] = false) (hc : s.clear (s.plain y (.rel y c k x v)) = true)
    (hm : s.mergeCore s.cur.core = s) (hb : r.boundDone ties = true)
    (hw : r.mustWait s.cur.core s.cur.x s.nextUid false (s.me.k.at k) off 8 true = false)
    (hg : ({ r with nextUid := s.nextUid + 1 } : State).relAccess s.nextUid (s.me.k.at k) off c = g)
    (hd : g.data.isSome = true) (hp : g.acct.poison = none)
    (ht : ((((g.s.dropReqs (dieOf s.cur.core) s.nextUid).modMyCtx fun e => { e with acc := none }).charge ⟨s.cur.core, s.cur.q, s.cur.x⟩
      r.myFlow.pc g.acct).modMyCtx fun e => { e with ties := none }).nextInterval = t)
    (hk : t.me.tokCause t.cur.q = none) :
    exec (.rel y c k x v) s = .next (t.issued (s.plain y (.rel y c k x v)) (s.myFlow.pc + 4)) := by
  subst hr
  have acc := State.accUid_of_none ((s.tied_acc ties).trans ha)
  unfold State.tied at acc hb hw hg ht
  unfold State.relAccess at hg
  refine State.word_issues hc ?_ rfl
  simp only [hx, State.readK, ho, hties, hm, hb, acc, Bool.not_true, Bool.false_or, Bool.false_eq_true, if_false]
  refine (if_neg (ne_true_of_eq_false hw)).trans ?_
  exact (congrArg (fun g => State.afterAccess _ _ _ g _) hg).trans (State.afterAccess_made hd hp ht hk)

/-- Settles O22: the body of each word goes on, `acq` and `rel` past their access (`State.afterAccess_made`), and the bound that a `fence.all`
fixes changes nothing of what its turn depends on (`State.fixTo_mayIssue`). -/
theorem fencesAndReleases : Obligations.FencesAndReleases := by
  unfold Obligations.FencesAndReleases
  intro s y c k x v m
  refine ⟨fun i hi hc hr ht => exec_fence hi hc hr ht, exec_fenceAcq, ⟨exec_fenceAll rfl rfl, fun code hm hd hb he hr hf =>
    ⟨State.fixWork_first hm hd hb he hf, exec_fenceAll_ringWaits hm hd hb he hr hf⟩⟩, ?_⟩
  intro who o off ha hx
  exact ⟨fun hc hw hd hp hk => exec_acq ha hx hc hw rfl hd hp rfl hk,
    fun hc hm hb hw hd hp hk => exec_rel rfl rfl rfl ha hx hc hm hb hw rfl hd hp rfl hk⟩

end Sys2Proof.Machine
end

section
/-! PROOFS. Element updates of the bank ALUs, and the steps of `bk` and `bkred` (R189, R206, R282 to R288). -/

namespace Sys2Proof.Machine

/-! ## Bytes and the numbers they hold (R4) -/

theorem bytesOfNat_natOfBytes (l : List Byte) : bytesOfNat l.length (natOfBytes l) = l := by
  induction l with
  | nil => rfl
  | cons b r ih =>
    have low : BitVec.ofNat 8 (natOfBytes (b :: r)) = b := by
      refine BitVec.eq_of_toNat_eq ?_
      rw [BitVec.toNat_ofNat, natOfBytes]
      omega
    have rest : natOfBytes (b :: r) / 256 = natOfBytes r := by
      rw [natOfBytes]
      omega
    rw [List.length_cons, bytesOfNat, low, rest, ih]

theorem Bytes.read_eq_map (m : Bytes) (a n : Nat) : m.read a n = ((List.range n).map (a + ·)).map m.get := by
  induction n generalizing a with
  | zero => rfl
  | succ n ih =>
    rw [Bytes.read, ih, List.range_succ_eq_map]
    simp [Function.comp_def, Nat.add_comm, Nat.add_left_comm]

theorem length_bytesOfNat (n v : Nat) : (bytesOfNat n v).length = n := by
  induction n generalizing v with
  | zero => rfl
  | succ n ih => rw [bytesOfNat, List.length_cons, ih]

/-- A place that is not among those written. -/
theorem Bytes.get_put_zip {m : Bytes} (h : m.wf = true) {keys : List Nat} (b : List Byte) {a : Nat} (ha : a ∉ keys) :
    (m.put (keys.zip b)).get a = m.get a := by
  refine Bytes.get_put_of_notMem h fun hm => ha ?_
  obtain ⟨p, hp, rfl⟩ := List.mem_map.mp hm
  exact (List.of_mem_zip hp).1

/-- Places that are each written once, read back together. -/
theorem Bytes.map_get_put_zip {m : Bytes} (h : m.wf = true) {keys : List Nat} (hn : keys.Nodup) {b : List Byte} (hl : b.length = keys.length) :
    keys.map (m.put (keys.zip b)).get = b := by
  have firsts : (keys.zip b).map (·.1) = keys := List.map_fst_zip hl.ge
  have seconds : (keys.zip b).map (·.2) = b := List.map_snd_zip hl.le
  calc keys.map (m.put (keys.zip b)).get
      = ((keys.zip b).map (·.1)).map (m.put (keys.zip b)).get := by rw [firsts]
    _ = (keys.zip b).map fun p => (m.put (keys.zip b)).get p.1 := List.map_map ..
    _ = (keys.zip b).map (·.2) := List.map_congr_left fun p hp => Bytes.get_put_of_mem h (by rwa [firsts]) hp
    _ = b := seconds

/-! ## An element update at its home (R189, R284) -/

/-- A state in which no core holds an update-only line, no sector is poisoned and no divided atomic is under way, with memory `m`. -/
structure State.AtHome (s : State) (m : Bytes) : Prop where
  merged : s.Merged m
  poison : s.poison = []
  halves : s.hub.halves = []

namespace State.AtHome

variable {s : State} {m : Bytes}

theorem homeWrite (h : s.AtHome m) (line : Nat) : (s.homeWrite line).AtHome m := by
  refine ⟨h.merged.homeWrite line, ?_, ?_⟩
  · rw [State.homeWrite, State.mergeAll_quiet h.merged.lines]
    exact h.poison
  · rw [State.homeWrite, State.mergeAll_quiet h.merged.lines]
    exact h.halves

theorem homeWrites (h : s.AtHome m) (lines : List Nat) : (lines.foldl (fun t l => t.homeWrite l) s).AtHome m :=
  List.foldlRecOn (motive := fun t => State.AtHome t m) lines _ h fun _ ht l _ => ht.homeWrite l

theorem poisoned (h : s.AtHome m) (keys : List Nat) : s.poisoned keys = none := by
  simp [State.poisoned, h.poison]

theorem atomicHeld (h : s.AtHome m) (keys : List Nat) : s.atomicHeld keys = false := by
  simp [State.atomicHeld, h.halves]

end State.AtHome

/-- What an update leaves in memory: the new value at its places, where there is one. -/
def Bytes.update (m : Bytes) (keys : List Nat) (new : Option Nat) : Bytes :=
  new.elim m fun n => m.put (keys.zip (bytesOfNat keys.length n))

/-- An update that reads the bytes at its places and writes what a function makes of their value, in one step. -/
structure Got.Updates (g : Got) (m : Bytes) (keys : List Nat) (f : Nat → Option Nat) : Prop where
  data : g.data = some (keys.map m.get)
  mem : g.s.mem = m.update keys (f (natOfBytes (keys.map m.get)))

section
variable {s : State} {m : Bytes} (h : s.AtHome m) (ow : Owner) (w : Who) (sc : Scope) (f : Nat → Option Nat) (seen : Seen)
include h

theorem State.atomicKeys_updates (key n : Nat) :
    (s.atomicKeys w false sc key n f seen).Updates m ((List.range n).map (key + ·)) f := by
  have home := h.homeWrite (lineOf key)
  have num : m.num key n = natOfBytes (((List.range n).map (key + ·)).map m.get) := by rw [Bytes.num, Bytes.read_eq_map]
  have back : bytesOfNat n (m.num key n) = ((List.range n).map (key + ·)).map m.get := by
    rw [num]
    convert bytesOfNat_natOfBytes _
    simp
  simp only [State.atomicKeys, home.poisoned, State.watchIn_off, home.merged.mem, back]
  refine ⟨rfl, ?_⟩
  rw [← num]
  cases f (m.num key n) with
  | none => exact home.merged.mem
  | some v => simp only [State.putBytes_mem, home.merged.mem, Bytes.update, Option.elim, List.length_map, List.length_range]

/-- An atomic on the device's own memory is one step (R189). -/
theorem State.atomicAt_updates {key : Nat} (hk : key < 2 ^ 52) (n : Nat) (cached : Bool) :
    (s.atomicAt ow w false sc key n cached f seen).Updates m ((List.range n).map (key + ·)) f := by
  have whole : divides key cached sc = false := by
    rw [divides, decide_eq_false (Nat.not_le.mpr hk), Bool.false_and]
  simp only [State.atomicAt, h.halves, List.find?_nil, h.atomicHeld, whole, Bool.false_eq_true, if_false, Bool.not_false, if_true]
  exact State.atomicKeys_updates h w sc f seen key n

/-- An element update other than `rq` reads its target and writes the new one in one step, its places consecutive or not (R284). -/
theorem State.bankElement_updates {o : BkOp} (ho : o ≠ .rq) (ty : Ty) (v : Nat) {places : List (Nat × Bool)} (x : List Byte)
    (hk : ∀ k ∈ places.map (·.1), k < 2 ^ 52) :
    (s.bankElement ow w false o ty v places x seen).Updates m (places.map (·.1)) fun old => bankNew o ty v old (natOfBytes x) := by
  have head : (places.map (·.1)).headD 0 < 2 ^ 52 := by
    cases e : places.map (·.1) with
    | nil => exact Nat.two_pow_pos 52
    | cons k r => exact hk k (by rw [e]; exact List.mem_cons_self ..)
  simp only [State.bankElement, ne_eq, ho, not_false_eq_true, decide_true, Bool.true_and, if_false]
  split
  · next hc =>
    have g := State.atomicAt_updates h ow w (bankScope w.core ((places.map (·.1)).headD 0)) (fun old => bankNew o ty v old (natOfBytes x)) seen
      head (places.map (·.1)).length (places.all (·.2))
    rwa [← beq_iff_eq.mp hc] at g
  · have home := h.homeWrites (linesOf (places.map (·.1)))
    simp only [h.atomicHeld, Bool.false_eq_true, if_false, State.watchIn_off, home.poisoned, home.merged.mem]
    refine ⟨rfl, ?_⟩
    cases bankNew o ty v (natOfBytes ((places.map (·.1)).map m.get)) (natOfBytes x) with
    | none => exact home.merged.mem
    | some n => simp only [State.putBytes_mem, home.merged.mem, Bytes.update, Option.elim]

/-- An `rq` writes its record (R284). -/
theorem State.bankElement_rq (ty : Ty) (v : Nat) (places : List (Nat × Bool)) (x : List Byte) :
    (s.bankElement ow w false .rq ty v places x seen).s.mem = m.put ((places.map (·.1)).zip x) := by
  have home := h.homeWrites (linesOf (places.map (·.1)))
  simp only [State.bankElement, ne_eq, not_true_eq_false, decide_false, Bool.false_and, Bool.false_eq_true, if_false, h.atomicHeld,
    State.watchIn_off, if_true, State.putBytes_mem, home.merged.mem]

/-- Whatever the operation, a byte that is not of the element stays. -/
theorem State.bankElement_get (hw : m.wf = true) (o : BkOp) (ty : Ty) (v : Nat) {places : List (Nat × Bool)} (x : List Byte)
    (hk : ∀ k ∈ places.map (·.1), k < 2 ^ 52) {a : Nat} (ha : a ∉ places.map (·.1)) :
    (s.bankElement ow w false o ty v places x seen).s.mem.get a = m.get a := by
  by_cases ho : o = .rq
  · subst ho
    rw [State.bankElement_rq h]
    exact Bytes.get_put_zip hw x ha
  · rw [(State.bankElement_updates h ow w seen ho ty v x hk).mem]
    cases bankNew o ty v (natOfBytes ((places.map (·.1)).map m.get)) (natOfBytes x) with
    | none => rfl
    | some n => exact Bytes.get_put_zip hw _ ha

end

/-! ## The steps of a `bk` (R206, R284) -/

section
variable {s : State} {c : CoreId} {u : Nat} {d : Cmd} (hc : s.coreCmd c u = some d) (hs : d.started = true)
  (hw : d.wins = (s.core d.core).wins) (k : Option Nat)
include hc hs hw

theorem exec_bankCommandComplete_bank {o : BkOp} {ty : Ty} {fetch : Bool} {tok off src v : W64}
    (hb : d.body = .bank o ty fetch tok off src v) :
    exec (.bankCommandComplete c ⟨u, k⟩) s = .next (s.runBank d k o ty fetch tok off src v) := by
  change execBankCommandComplete c ⟨u, k⟩ s = _
  simp only [execBankCommandComplete, State.running_of_started hc hs, State.viewWins_of_same hw, hb]

theorem exec_bankCommandComplete_reduce {t v : Ty} {tok off src w : W64} (hb : d.body = .reduce t v tok off src w) :
    exec (.bankCommandComplete c ⟨u, k⟩) s = .next (s.reduceDone d) := by
  change execBankCommandComplete c ⟨u, k⟩ s = _
  simp only [execBankCommandComplete, State.running_of_started hc hs, State.viewWins_of_same hw, hb]

theorem exec_bkredContribution {t v : Ty} {tok off src w : W64} (hb : d.body = .reduce t v tok off src w) :
    exec (.bkredContribution c ⟨u, k⟩) s = .next (if 2 ≤ d.stage then s else s.runReduce d k t v tok off src w) := by
  change execBkredContribution c ⟨u, k⟩ s = _
  simp only [execBkredContribution, State.running_of_started hc hs, State.viewWins_of_same hw, hb]

end

/-- The elements of a `bk` (R284): whole blocks where it writes records. -/
def bankCount (o : BkOp) (src : W64) : Nat := if o = .rq then srcCount src / 32 * 32 else srcCount src

section
variable {s : State} {d : Cmd} (k : Option Nat) {o : BkOp} {ty : Ty} {tok off src v : W64}

theorem State.runBank_empty (fetch : Bool) (h : bankCount o src = 0) : s.runBank d k o ty fetch tok off src v = s.finishCmd d Acct.none :=
  if_pos h

/-- A command that has its source reads it no more. -/
theorem State.readSource_done (hd : d.stage ≠ 0) (addr n e : Nat) : s.readSource d k addr n e = (some d, s) := if_pos hd

/-- What a `bk` without a fetch does with what the update of its elements has come to. -/
def State.bankAfter (r : Option Cmd × State) : State :=
  match r.1 with
  | none => r.2
  | some d => r.2.finishCmd d Acct.none

/-- A `bk` without a fetch that has its source (R284): its elements are updated, unless they are already or an earlier access holds them. -/
theorem State.runBank_sourced (h : bankCount o src ≠ 0) (hd : d.stage ≠ 0) :
    s.runBank d k o ty false tok off src v = State.bankAfter (if d.stage = 2 then (some d, s)
      else if s.cmdWaits d tok (offs (alignTo (recSize ty) off.toNat) (bankCount o src * recSize ty)) [] then (none, s)
      else s.bankUpdate d k o ty tok off v (bankCount o src)) := by
  have source := s.readSource_done k hd (srcAddr src) (bankWidth o ty v) (bankCount o src)
  unfold bankCount at h source ⊢
  simp only [State.runBank, h, if_false, source]
  generalize (if d.stage = 2 then (some d, s) else _) = r
  obtain ⟨_ | e, t⟩ := r
  · rfl
  · rfl

end

/-! ## The steps of a `bkred` (R206, R287, R288) -/

/-- A contribution whose parts have all been written in its own package (R287). -/
theorem State.reduceDone_written {s : State} {d : Cmd} (hd : d.stage = 2) (hp : d.parts.all (·.2) = true) :
    s.reduceDone d = s.finishCmd d Acct.none := by
  simp only [State.reduceDone, hd, hp, decide_true, Bool.and_self, if_true]

/-- A contribution whose pieces have all been answered by another die (R287, R288). -/
theorem State.reduceDone_answered {s : State} {d : Cmd} (hd : d.stage = 3)
    (hp : ∀ p ∈ d.parts, (s.answerOf d.who.die d.uid p.1).isSome = true) :
    let t := ((d.parts.map (·.1)).filterMap (s.answerOf d.who.die d.uid)).foldl (fun s r => s.countDiscards d.core r) s
    s.reduceDone d = t.finishCmd d (Acct.none.join (t.answerAcct d.who.die d.uid (d.parts.map (·.1)))) := by
  have all : ((d.parts.map (·.1)).all fun n => (s.answerOf d.who.die d.uid n).isSome) = true := by
    rw [List.all_map, List.all_eq_true]
    exact hp
  have two : ¬ (decide (d.stage = 2) && d.parts.all (·.2)) = true := by simp [hd]
  exact (if_neg two).trans ((if_pos hd).trans (if_pos all))

theorem State.runReduce_empty {s : State} {d : Cmd} (n : Option Nat) {t u : Ty} {src : W64} (tok off v : W64) (h : redCount t u src = 0) :
    s.runReduce d n t u tok off src v = s.finishCmd d Acct.none := if_pos h

/-- Settles O40: an element update reads and writes its places in one step (`State.bankElement_updates`), whatever its operation leaving every
other byte (`State.bankElement_get`); a `bk` that has its source does what the update of its elements has come to (`State.runBank_sourced`), and
a `bkred` what its stage says. -/
theorem bankCommands : Obligations.BankCommands := by
  unfold Obligations.BankCommands
  refine ⟨?element, ?commands⟩
  case element =>
    intro s ow w o ty v places x keys hwf hquiet hpoison hhalves hnodup hkeys r
    have home : s.AtHome s.mem := ⟨⟨rfl, hquiet⟩, hpoison, hhalves⟩
    refine ⟨fun a ha => State.bankElement_get home ow w Seen.none hwf o ty v x hkeys ha, fun ho => ?_, fun t y => ⟨rfl, rfl, rfl, rfl, rfl⟩⟩
    obtain ⟨hdata, hmem⟩ := State.bankElement_updates home ow w Seen.none ho ty v x hkeys
    refine ⟨hdata, fun n hn => ?_, fun hn => hmem.trans (congrArg (s.mem.update keys) hn)⟩
    have hr : r.s.mem = s.mem.put (keys.zip (bytesOfNat keys.length n)) := hmem.trans (congrArg (s.mem.update keys) hn)
    rw [hr]
    exact Bytes.map_get_put_zip hwf hnodup (length_bytesOfNat ..)
  case commands =>
    intro s c u k d hc hs hcore hw
    subst hcore
    refine ⟨fun o ty fetch tok off src v hb => ?bank, fun t v tok off src w hb => ?reduce⟩
    case bank =>
      intro e
      have step := exec_bankCommandComplete_bank hc hs hw k hb
      refine ⟨fun he => ?_, fun he hd hf => ?_, ?_⟩
      · rw [step, State.runBank_empty k fetch he]
      · subst hf
        rw [step, State.runBank_sourced k he (by omega), if_pos hd]
        rfl
      · intro len runs t he hf hd n at0 hwait hl b items places did a todo now r olds f
        subst hf
        have updates : s.bankUpdate d k o ty tok off v e = if (todo.all fun it => did r.2 it.1) = true then f
            else (none, r.1.keepAccess d.core r.2) := by
          unfold State.bankUpdate
          rw [hl]
          rfl
        have performs : exec (.bankCommandComplete d.core ⟨u, k⟩) s = .next (State.bankAfter (s.bankUpdate d k o ty tok off v e)) := by
          rw [step, State.runBank_sourced k he (by omega), if_neg (by omega)]
          exact congrArg (fun r => Host.Outcome.next (State.bankAfter r)) (if_neg (ne_true_of_eq_false hwait))
        rw [performs, updates]
        refine ⟨fun done => ?_, fun left => ?_⟩
        · rw [if_pos done]
          rfl
        · rw [if_neg (ne_true_of_eq_false left)]
          rfl
    case reduce =>
      have done := exec_bankCommandComplete_reduce hc hs hw k hb
      have contributes := exec_bkredContribution hc hs hw k hb
      refine ⟨fun hd hp => ?_, fun hd hp => ?_, fun hd => ?_, fun hd => ?_, fun hr hd => ?_⟩
      · rw [done, State.reduceDone_written hd hp]
      · rw [done, State.reduceDone_answered hd hp]
      · rw [contributes, if_pos hd]
      · rw [contributes, if_neg (Nat.not_le.mpr hd)]
      · rw [contributes, if_neg (Nat.not_le.mpr hd), State.runReduce_empty k tok off w hr]

end Sys2Proof.Machine
end

section
/-! PROOFS. The copy and gather words of LD and ST at their issue (R206, R208, R212, R222 to R224). -/

namespace Sys2Proof.Machine

/-! ## The word reads its token, then its registers (R179, R222) -/

/-- What a word sees of a token register costs a draw at most. -/
theorem State.seenK_draws (s : State) (y : Ring) (k : Fin 16) : ∃ n, (s.seenK y k).2 = { s with draws := n } :=
  State.seenFrom_draws ..

@[simp] theorem State.seenK_readA (s : State) (y : Ring) (k n : Fin 16) : (s.seenK y k).2.readA n = s.readA n := by
  obtain ⟨m, hm⟩ := s.seenK_draws y k
  rw [hm]
  rfl

/-! ## A pause is one of the windows written (R223) -/

/-- Whether a command is held for a pause depends on the local addresses that it writes alone. -/
theorem State.pausedOn_congr (s : State) {b c : CmdBody} (h : b.localWrites = c.localWrites) : s.pausedOn b = s.pausedOn c := by
  simp only [State.pausedOn, h]

/-- Words that write no local space are never held for a pause. -/
theorem State.pausedOn_of_no_writes (s : State) {b : CmdBody} (h : b.localWrites = []) : s.pausedOn b = false := by
  simp only [State.pausedOn, h]

/-- A word to local space looks for a pause before its token is read: the bytes that it writes are the same whatever the token. -/
theorem State.pausedOn_copy_seen (s : State) (y : Ring) (k x a l : Fin 16) (tok : W64) (f : Nat) :
    s.pausedOn (.copy false tok ((s.seenK y k).2.readA x) ((s.seenK y k).2.readA a) ((s.seenK y k).2.readA l) f) =
      s.pausedOn (.copy false 0 (s.readA x) (s.readA a) (s.readA l) f) := by
  simp only [State.seenK_readA]
  exact s.pausedOn_congr rfl

theorem State.pausedOn_gather_seen (s : State) (y : Ring) (k x a l : Fin 16) (tok : W64) (n : Bool) (e : Nat) :
    s.pausedOn (.gather false tok ((s.seenK y k).2.readA x) ((s.seenK y k).2.readA a) ((s.seenK y k).2.readA l) n e) =
      s.pausedOn (.gather false 0 (s.readA x) (s.readA a) (s.readA l) n e) := by
  simp only [State.seenK_readA]
  exact s.pausedOn_congr rfl

/-! ## The issue of a command of LD or ST (R206, R212, R223) -/

/-- A command that finds room, and that an interlock holds (R117). -/
theorem State.command_held {s : State} {engine : Nat} {m : Fin 32} {busy : Bool} (hw : s.commandWait engine m = none) (hb : busy = true)
    (f : State → State) : s.command engine m busy f = .hold s := by
  simp [State.command, hw, hb]

/-- A copy or gather word with room: it holds at its issue for a pause, and otherwise its command enters the queue, its word stands among the
memory words, and the log takes its entry. -/
theorem State.memCommand_holds_or_issues {s t : State} {i : WordInfo} {engine : Nat} {y : Ring} {m : Fin 32} {w : Waits} {busy : State → Bool}
    {body : State → CmdBody × State} {b : CmdBody} (hc : s.clear i = true) (hw : s.commandWait engine m = none)
    (hg : s.hub.power.gated = false) (hl : i.words.length = 2) (hbody : body s = (b, t)) (hbusy : s.pausedOn b = busy s) :
    let word := s.word i fun s => s.command engine m (busy s) fun s => s.memCommand y m w body
    let e := t.enqueue y m w b
    let p : LsPend := ⟨e.1, e.2.myFlow.pc, y.sb, y.sa, 0, 0, .eng e.1, false⟩
    (s.pausedOn b = true → word = .next s.heldOff) ∧
    (s.pausedOn b = false →
      word = .next (((e.2.modMe fun c => c.modLseq e.2.isSt fun l => { l with pend := l.pend ++ [p] }).logCopy b).issued i
        (s.myFlow.pc + 8))) := by
  intro word e p
  rw [hbusy]
  refine ⟨fun held => State.word_holds hc (State.command_held hw held _), fun free => ?_⟩
  refine State.commandWord_ready hc hw free hg hl ?_
  simp only [State.memCommand, hbody]
  rfl

/-- Settles O28: each of the four words is a `State.memCommand_holds_or_issues`. `ldsp` and `gth` hold where the bytes that they write meet a
pause, whatever their token (`State.pausedOn_congr`); `stsp` and `sct` write no local space. -/
theorem copyAndGatherWords : Obligations.CopyAndGatherWords := by
  unfold Obligations.CopyAndGatherWords
  intro s y l k x a m w f n g i engine b hi hc hw hg
  simp only [List.mem_cons, List.not_mem_nil, or_false, Prod.mk.injEq] at hi
  rcases hi with ⟨rfl, rfl, rfl⟩ | ⟨rfl, rfl, rfl⟩ | ⟨rfl, rfl, rfl⟩ | ⟨rfl, rfl, rfl⟩
  case inl => exact State.memCommand_holds_or_issues hc hw hg rfl rfl (s.pausedOn_copy_seen ..)
  case inr.inl => exact State.memCommand_holds_or_issues hc hw hg rfl rfl (s.pausedOn_of_no_writes rfl)
  case inr.inr.inl => exact State.memCommand_holds_or_issues hc hw hg rfl rfl (s.pausedOn_gather_seen ..)
  case inr.inr.inr => exact State.memCommand_holds_or_issues hc hw hg rfl rfl (s.pausedOn_of_no_writes rfl)

/-! ## A word that holds (R196, R223) -/

/-- LD of core 0, which runs, has its turn; a0 holds a shape of sixteen bytes and a1 the first address of window 0. -/
def loadTurn : State :=
  { State.reset.modCore 0 fun k => { k with mode := .running }.modLseq false fun l => { l with a := (l.a.put 0 16).put 1 0x2000000 } with
    cur := ⟨0, .ld, 0⟩ }

/-- Window 0 with an allowance of one unit, to core 0 of cluster 0 of die 1. -/
def narrowWindow : File Window 16 := loadTurn.me.wins.put 0 (.opened 1 0 0 1)

/-- A started copy of LD of sixteen bytes to the window. -/
def pausedCopy : Cmd :=
  { loadTurn.newCmd 7 (some 31) ⟨none, none, none⟩ narrowWindow (.copy false 0 0 0x2000000 16 0) with started := true }

/-- Core 0 where that copy pauses: the one unit of the window is out. -/
def windowFull : State :=
  loadTurn.modMe fun k => { k with wins := narrowWindow, cmds := [pausedCopy] }.modAux fun b =>
    { b with posted := [⟨9, 0, 1, 7, .ld, 0, 0, false, false⟩] }

/-- The word `ldsp a1, [k0, a2, 0], a0, 0, m30`, which copies to the same bytes. -/
def windowWord : Instr := .ldsp ⟨false, false, false, false⟩ 0 0 2 1 30 ⟨none, none, none⟩ 0

/-- The premises of O28 can be met where an earlier copy pauses: the word holds at its issue. -/
theorem exec_windowWord_windowFull : exec windowWord windowFull = .next windowFull.heldOff := by
  obtain ⟨holds, -⟩ := copyAndGatherWords windowFull ⟨false, false, false, false⟩ 0 0 2 1 30 ⟨none, none, none⟩ 0 false 0 windowWord 4 _
    (List.mem_cons_self ..) (by decide +kernel) (by decide +kernel) (by decide +kernel)
  exact holds (by decide +kernel)

end Sys2Proof.Machine
end

section
/-! PROOFS. What the machine holds right after reset (R17, R62, R199, R374, R378). -/

namespace Sys2Proof.Machine

theorem State.reset_core (c : CoreId) : State.reset.core c = Core.reset := File.at_all ..

theorem State.reset_sett (g : Fin 64) : State.reset.setts.at g = Sett.reset := File.at_all ..

/-- After reset every store of bytes lists nothing. -/
theorem State.reset_canonical : State.reset.Canonical where
  mem := rfl
  spad c := by rw [State.reset_core]; rfl
  saved _ h := absurd h List.not_mem_nil
  payload := rfl
  staging := rfl

/-- Settles O4: every core and every Sett is as at reset, and the stores list nothing. -/
theorem resetValues : Obligations.ResetValues := by
  refine ⟨fun _ => rfl, fun g => ?_, rfl, fun c => ?_, State.reset_canonical⟩
  · rw [State.reset_sett]
    exact ⟨rfl, rfl⟩
  · rw [State.reset_core]
    exact ⟨rfl, rfl, rfl, rfl, rfl⟩

end Sys2Proof.Machine
end

section
/-! PROOFS. The address group of LD and ST, their memory words at issue, and the prefetch (R211 to R221). -/

namespace Sys2Proof.Machine

/-! ## The address group (R216) -/

theorem State.writeA_readA (s : State) (d e : Fin 16) (v : W64) : (s.writeA d v).readA e = if d = e then v else s.readA e := by
  have turn : (s.writeA d v).isSt = s.isSt := rfl
  rw [State.readA, turn, State.writeA_def, State.modMe_me, Core.modLseq_self, File.at_put]
  rfl

/-- Settles O26: each word writes one register of its sequencer, and a write shows in its register alone. -/
theorem addressGroup : Obligations.AddressGroup := by
  unfold Obligations.AddressGroup
  intro s y d a b m n p c
  refine ⟨fun i v hi hc => ?_, fun hc hb => State.word_issues hc (by rw [hb]; rfl) rfl, fun v _ => ⟨?_, fun e he => ?_⟩⟩
  · simp only [List.mem_cons, List.not_mem_nil, or_false, Prod.mk.injEq] at hi
    rcases hi with ⟨rfl, rfl⟩ | ⟨rfl, rfl⟩ | ⟨rfl, rfl⟩
    all_goals exact State.word_issues hc rfl rfl
  · rw [State.writeA_readA, if_pos rfl]
  · rw [State.writeA_readA, if_neg he.symm]

/-! ## Memory words (R211, R217 to R219, R221) -/

theorem State.popStream_readA (s : State) (q x : Fin 16) : (s.modMe fun k => k.popStream q).readA x = s.readA x := by
  have turn : (s.modMe fun k => k.popStream q).isSt = s.isSt := rfl
  rw [State.readA, turn, State.modMe_me]
  cases h : s.isSt <;> simp only [State.readA, h] <;> rfl

/-- A word of ST whose line has come and that finds a place pops it. -/
theorem State.storeLine_ready {s : State} {q : Fin 16} {uid se : Nat} {l : Line} {r : List StreamSlot}
    (h : s.me.streams.at q = ⟨uid, some l, se⟩ :: r) (ho : s.me.st.openWords < 16) (f : Line → State → Act) :
    s.storeLine q f = f l (s.modMe fun k => k.popStream q) := by
  simp only [State.storeLine, h, Nat.not_le.mpr ho, if_false]

/-- A word of ST waits for its line (R117). -/
theorem State.storeLine_waits {s : State} {q : Fin 16} (h : s.me.streams.at q = []) (f : Line → State → Act) :
    s.storeLine q f = .wait (0x10 + q.val) := by
  simp only [State.storeLine, h]

theorem State.word_waits {s : State} {i : WordInfo} {body : State → Act} {code : Nat} (hc : s.clear i = true) (hb : body s = .wait code) :
    s.word i body = .next (s.stallCycle s.cur.core s.cur.q s.cur.x code) := by
  rw [State.word_clear hc, hb]; rfl

/-! ## The prefetch (R220) -/

/-- What a `pf` does once it has its token and its offset. -/
def State.prefetch (s : State) (tok : W64) (off : Nat) : Act :=
  match s.runsAt s.cur.core tok with
  | none => .go s
  | some runs =>
    if tokLen tok ≤ off then .go s
    else match locate runs off with
    | some (key, true) => if (s.me.l1Find (lineOf key)).isSome then .go s else .go (s.l1Read s.cur.core (lineOf key) 15)
    | _ => .go s

theorem exec_pf (y : Ring) (k x : Fin 16) (v : Fin 1024) (s : State) :
    exec (.pf y k x v) s = s.word (s.plain y (.pf y k x v)) fun s =>
      (s.seenK y k).2.prefetch (s.seenK y k).1 (offsetOf (s.readA x) (128 * v.val)) := rfl

/-- A `pf` issues with what its lookup does, its token seen as it stands. -/
theorem exec_pf_issues {s t : State} {y : Ring} {k x : Fin 16} {v : Fin 1024} (hc : s.clear (s.plain y (.pf y k x v)) = true)
    (h : s.me.synced s.cur.q = true) (ht : s.prefetch (s.me.k.at k) (offsetOf (s.readA x) (128 * v.val)) = .go t) :
    exec (.pf y k x v) s = .next (t.issued (s.plain y (.pf y k x v)) (s.myFlow.pc + 4)) := by
  rw [exec_pf]
  refine State.word_issues hc ?_ rfl
  rw [State.seenK_of_synced h]
  exact ht

/-- Settles O27: a memory word is `State.issueMem` behind its stream register, a prefetch a read of one line. -/
theorem memoryWordsAndPrefetch : Obligations.MemoryWordsAndPrefetch := by
  unfold Obligations.MemoryWordsAndPrefetch
  refine ⟨?_, ?_⟩
  · intro s y q k x v c e o t f opened at'
    refine ⟨?_, ?_, ?_, fun h => State.seenK_of_synced h y k⟩
    · intro hc hf ho
      refine State.word_issues hc ?_ rfl
      simp only [hf, Bool.not_true, Bool.false_eq_true, if_false, Nat.not_le.mpr ho]
      rfl
    · intro uid se l r hq ho popped
      have ready : s.me.lineReady q = true := by simp only [Core.lineReady, hq, Option.isSome_some]
      refine ⟨fun hc => State.word_issues hc ?_ rfl, fun hc => State.word_issues hc ?_ rfl, fun hc hm hr => State.word_issues hc ?_ rfl⟩
      · rw [State.storeLine_ready hq ho, State.popStream_readA]
        rfl
      · rw [State.storeLine_ready hq ho, State.popStream_readA]
        rfl
      · simp only [ready, hm, hr, Bool.not_true, Bool.false_eq_true, if_false, State.storeLine_ready hq ho, State.popStream_readA]
        rfl
    · intro i hi hc hq
      rcases hi with rfl | rfl | rfl
      · exact State.word_waits hc (State.storeLine_waits hq _)
      · exact State.word_waits hc (State.storeLine_waits hq _)
      · have empty : s.me.lineReady q = false := by simp only [Core.lineReady, hq]
        refine State.word_waits hc ?_
        simp only [empty, Bool.not_false, if_true]
  · intro s y k x v hc h off on
    refine ⟨fun hr => ?_, fun runs hr hl => ?_, fun runs key hr hl hk h1 => ?_, fun line secs hq => ?_⟩
    · exact exec_pf_issues hc h (by simp only [State.prefetch, hr])
    · exact exec_pf_issues hc h (by simp only [State.prefetch, hr]; exact if_pos hl)
    · refine exec_pf_issues hc h ?_
      have found : locate runs (offsetOf (s.readA x) (128 * v.val)) = some (key, true) := hk
      have inside : ¬ tokLen (s.me.k.at k) ≤ offsetOf (s.readA x) (128 * v.val) := Nat.not_le.mpr hl
      have absent : (s.me.l1Find (lineOf key)).isSome = false := h1
      simp only [State.prefetch, hr, found, inside, absent, if_false, Bool.false_eq_true]
      rfl
    · exact (State.Merged.l1Read ⟨rfl, hq⟩ _ line secs).mem

end Sys2Proof.Machine
end

section
/-! PROOFS. The issue of a word of EX, and the floating-point words: those of two sources, those with an addend, the functions (R230, R243
to R251). -/

namespace Sys2Proof.Machine

/-! ## The issue of a word of EX (R230, R243) -/

/-- A word of EX that nothing holds, whose stream registers are ready and whose body gives a value, issues: its result goes in flight. -/
theorem State.exWord_issues {s t : State} {i : WordInfo} {srcs : List Opnd} {dst : Place} {lat : Nat} {lanes : W64}
    {f : State → Option (Line × BitVec 7 × State)} {body : State → Act} {v : Line} {fl : BitVec 7} (hc : s.clear i = true)
    (hl : i.words.length = 1) (hb : body s = s.exWord srcs dst lat f lanes)
    (hw : s.me.streamWait (Opnd.sources srcs) dst.stream = none) (hf : f s = some (v, fl, t)) :
    s.word i body = .next ((t.exSend srcs dst lat v fl lanes).issued i (s.myFlow.pc + 4)) := by
  refine State.word_issues hc ?_ hl
  simp only [hb, State.exWord, hw, hf]

/-- Settles O31: each word is `State.exTwo`, whose body reads its operands and the mode seen. -/
theorem floatTwoSources : Obligations.FloatTwoSources := by
  unfold Obligations.FloatTwoSources
  intro s y d a b i lk lat f m hi hc hw r
  simp only [List.mem_cons, List.not_mem_nil, or_false, Prod.mk.injEq] at hi
  rcases hi with ⟨rfl, rfl, rfl, rfl⟩ | ⟨rfl, rfl, rfl, rfl⟩ | ⟨rfl, rfl, rfl, rfl⟩ | ⟨rfl, rfl, rfl, rfl⟩ | ⟨rfl, rfl, rfl, rfl⟩ |
    ⟨rfl, rfl, rfl, rfl⟩ | ⟨rfl, rfl, rfl, rfl⟩ | ⟨rfl, rfl, rfl, rfl⟩ | ⟨rfl, rfl, rfl, rfl⟩ | ⟨rfl, rfl, rfl, rfl⟩
  all_goals exact State.exWord_issues hc rfl rfl hw rfl

/-- Settles O33: each word is `State.exThree` or `State.exOne`, whose body reads its operands, the destination's among them. -/
theorem addendsAndFunctions : Obligations.AddendsAndFunctions := by
  unfold Obligations.AddendsAndFunctions
  intro s y d a b o m
  refine ⟨?_, ?_, fun h => by rw [State.seenMode, State.seen_of_synced h]⟩
  · intro i lk lat f hi hc hw r
    simp only [List.mem_cons, List.not_mem_nil, or_false, Prod.mk.injEq] at hi
    rcases hi with ⟨rfl, rfl, rfl, rfl⟩ | ⟨rfl, rfl, rfl, rfl⟩ | ⟨rfl, rfl, rfl, rfl⟩ | ⟨rfl, rfl, rfl, rfl⟩ | ⟨rfl, rfl, rfl, rfl⟩ |
      ⟨rfl, rfl, rfl, rfl⟩ | ⟨rfl, rfl, rfl, rfl⟩ | ⟨rfl, rfl, rfl, rfl⟩ | ⟨rfl, rfl, rfl, rfl⟩
    all_goals exact State.exWord_issues hc rfl rfl hw rfl
  · intro i lat f hi hc hw r
    simp only [List.mem_cons, List.not_mem_nil, or_false, Prod.mk.injEq] at hi
    rcases hi with ⟨rfl, rfl, rfl⟩ | ⟨rfl, rfl, rfl⟩ | ⟨rfl, rfl, rfl⟩ | ⟨rfl, rfl, rfl⟩ | ⟨rfl, rfl, rfl⟩
    all_goals exact State.exWord_issues hc rfl rfl hw rfl

end Sys2Proof.Machine
end

section
/-! PROOFS. The integer lane words of EX: what each makes of two lanes, in the integers of R66 (R243, R244, R254). -/

namespace Sys2Proof.Machine

/-! ## Integer lanes (R66, R254) -/

theorem toSigned_bounds (w v : Nat) : -(2 : Int) ^ w ≤ toSigned w v ∧ toSigned w v < 2 ^ w := by
  have hv : v % 2 ^ w < 2 ^ w := Nat.mod_lt _ (Nat.two_pow_pos w)
  have hp : ((2 ^ w : Nat) : Int) = 2 ^ w := by push_cast; rfl
  simp only [toSigned]
  rw [← hp]
  split <;> omega

/-- A signed lane has the bits of the lane. -/
theorem toSigned_emod (w v : Nat) : toSigned w v % (2 ^ w : Int) = ((v % 2 ^ w : Nat) : Int) := by
  have hp : ((2 ^ w : Nat) : Int) = 2 ^ w := by push_cast; rfl
  rw [← hp, toSigned]
  split
  · exact Int.emod_eq_of_lt (Int.natCast_nonneg _) (by exact_mod_cast Nat.mod_lt v (Nat.two_pow_pos w))
  · rw [Int.sub_emod_right]
    exact Int.emod_eq_of_lt (Int.natCast_nonneg _) (by exact_mod_cast Nat.mod_lt v (Nat.two_pow_pos w))

theorem wrapTo_eq (w : Nat) (v : Int) : wrapTo w v = (v % 2 ^ w).toNat := by
  rw [wrapTo]; push_cast; rfl

/-- SatS as the nearest of the values that w bits hold (R66). -/
theorem satS_clamp {w : Nat} {lo hi : Int} (hlo : lo = -2 ^ (w - 1)) (hhi : hi = 2 ^ (w - 1) - 1) (v : Int) :
    satS w v = min hi (max lo v) := by
  have hp : (0 : Int) < 2 ^ (w - 1) := Int.pow_pos (by decide)
  subst hlo hhi
  simp only [satS]
  push_cast
  generalize (2 : Int) ^ (w - 1) = m at *
  split
  · omega
  · split <;> omega

theorem satN_clamp {w : Nat} {hi : Int} (hhi : hi = 2 ^ w - 1) (v : Int) : satN w v = min hi (max 0 v) := by
  have hp : (0 : Int) < 2 ^ w := Int.pow_pos (by decide)
  subst hhi
  simp only [satN]
  push_cast
  generalize (2 : Int) ^ w = m at *
  split
  · omega
  · split <;> omega

theorem laneAdd_eq (w x z : Nat) : laneAdd w x z = (((x : Int) + z) % 2 ^ w % 2 ^ w).toNat := by
  rw [Int.emod_emod_of_dvd _ (dvd_refl _), laneAdd]
  exact_mod_cast (Int.toNat_natCast ((x + z) % 2 ^ w)).symm

theorem laneMul_eq (w x z : Nat) : laneMul w x z = (((x : Int) * z) % 2 ^ w % 2 ^ w).toNat := by
  rw [Int.emod_emod_of_dvd _ (dvd_refl _), laneMul]
  exact_mod_cast (Int.toNat_natCast (x * z % 2 ^ w)).symm

theorem laneSub_eq (w x z : Nat) : laneSub w x z = (((x : Int) - z) % 2 ^ w % 2 ^ w).toNat := by
  have hz : z % 2 ^ w ≤ x + 2 ^ w := (Nat.mod_lt z (Nat.two_pow_pos w)).le.trans (Nat.le_add_left ..)
  have key : ((laneSub w x z : Nat) : Int) = ((x : Int) - z) % 2 ^ w := by
    rw [laneSub, Int.natCast_emod, Int.natCast_sub hz]
    push_cast
    rw [Int.sub_emod, Int.add_emod_right, Int.emod_emod_of_dvd _ (dvd_refl _), ← Int.sub_emod]
  rw [Int.emod_emod_of_dvd _ (dvd_refl _), ← key, Int.toNat_natCast]

section
variable {w : Nat} {lo hi : Int} (hlo : lo = -2 ^ (w - 1)) (hhi : hi = 2 ^ (w - 1) - 1) (x z : Nat)
include hlo hhi

theorem laneAddS_eq : laneAddS w x z = (min hi (max lo (toSigned w x + toSigned w z)) % 2 ^ w).toNat := by
  rw [laneAddS, wrapTo_eq, satS_clamp hlo hhi]

theorem laneSubS_eq : laneSubS w x z = (min hi (max lo (toSigned w x - toSigned w z)) % 2 ^ w).toNat := by
  rw [laneSubS, wrapTo_eq, satS_clamp hlo hhi]

end

theorem laneAddN_eq {w : Nat} {hi : Int} (hhi : hi = 2 ^ w - 1) (x z : Nat) :
    laneAddN w x z = (min hi (max 0 ((x : Int) + z)) % 2 ^ w).toNat := by
  rw [laneAddN, wrapTo_eq, satN_clamp hhi]

theorem laneSubN_eq {w : Nat} {hi : Int} (hhi : hi = 2 ^ w - 1) (x z : Nat) :
    laneSubN w x z = (min hi (max 0 ((x : Int) - z)) % 2 ^ w).toNat := by
  rw [laneSubN, wrapTo_eq, satN_clamp hhi]

theorem laneShl_eq {w : Nat} {n : Int} (hn : n = w) (x z : Nat) :
    laneShl w x z = ((if n ≤ (z : Int) then 0 else (x : Int) * 2 ^ (z : Int).toNat % 2 ^ w) % 2 ^ w).toNat := by
  subst hn
  simp only [laneShl, Int.ofNat_le, Int.toNat_natCast]
  split
  · simp
  · rw [Int.emod_emod_of_dvd _ (dvd_refl _)]
    exact_mod_cast (Int.toNat_natCast (x * 2 ^ z % 2 ^ w)).symm

theorem laneShr_eq {w : Nat} {n : Int} (hn : n = w) {x : Nat} (hx : x < 2 ^ w) (z : Nat) :
    laneShr w x z = ((if n ≤ (z : Int) then 0 else (x : Int) / 2 ^ (z : Int).toNat) % 2 ^ w).toNat := by
  subst hn
  simp only [laneShr, Int.ofNat_le, Int.toNat_natCast]
  split
  · simp
  · have small : x / 2 ^ z % 2 ^ w = x / 2 ^ z := Nat.mod_eq_of_lt ((Nat.div_le_self ..).trans_lt hx)
    have cast : (x : Int) / 2 ^ z % 2 ^ w = ((x / 2 ^ z % 2 ^ w : Nat) : Int) := by push_cast; rfl
    rw [cast, Int.toNat_natCast, small]

/-- A shift by w leaves the sign of a lane of w bits. -/
theorem toSigned_div_pow (w x : Nat) : toSigned w x / (2 : Int) ^ w = if toSigned w x < 0 then -1 else 0 := by
  obtain ⟨low, high⟩ := toSigned_bounds w x
  have hp : (0 : Int) < 2 ^ w := Int.pow_pos (by decide)
  split
  · rw [Int.ediv_eq_iff_of_pos hp]; omega
  · exact Int.ediv_eq_zero_of_lt (by omega) high

theorem laneSra_eq (w x z : Nat) :
    laneSra w x z = ((if w ≤ z then (if toSigned w x < 0 then -1 else 0) else toSigned w x / 2 ^ z) % 2 ^ w).toNat := by
  rw [laneSra, wrapTo_eq]
  push_cast
  split
  · rw [toSigned_div_pow]
  · rfl

theorem intMinMax_min (w x z : Nat) : intMinMax w true false x z = (min (toSigned w x) (toSigned w z) % 2 ^ w).toNat := by
  simp only [intMinMax, if_true, beq_false, Bool.not_eq_true', decide_eq_false_iff_not]
  split
  · rw [min_eq_right (by omega), toSigned_emod, Int.toNat_natCast]
  · rw [min_eq_left (by omega), toSigned_emod, Int.toNat_natCast]

theorem intMinMax_max (w x z : Nat) : intMinMax w true true x z = (max (toSigned w x) (toSigned w z) % 2 ^ w).toNat := by
  simp only [intMinMax, if_true, beq_true, decide_eq_true_eq]
  split
  · rw [max_eq_right (by omega), toSigned_emod, Int.toNat_natCast]
  · rw [max_eq_left (by omega), toSigned_emod, Int.toNat_natCast]

section
variable {w x z : Nat} (hx : x < 2 ^ w) (hz : z < 2 ^ w)
include hx hz

theorem intMinMax_minN : intMinMax w false false x z = (min (x : Int) z % 2 ^ w).toNat := by
  have cast : (min (x : Int) z % 2 ^ w) = ((min x z % 2 ^ w : Nat) : Int) := by push_cast; rfl
  rw [cast, Int.toNat_natCast, Nat.mod_eq_of_lt ((Nat.min_le_left x z).trans_lt hx)]
  simp only [intMinMax, Bool.false_eq_true, if_false, beq_false, Bool.not_eq_true', decide_eq_false_iff_not, Nat.mod_eq_of_lt hx,
    Nat.mod_eq_of_lt hz]
  split <;> omega

theorem intMinMax_maxN : intMinMax w false true x z = (max (x : Int) z % 2 ^ w).toNat := by
  have cast : (max (x : Int) z % 2 ^ w) = ((max x z % 2 ^ w : Nat) : Int) := by push_cast; rfl
  rw [cast, Int.toNat_natCast, Nat.mod_eq_of_lt (Nat.max_lt.mpr ⟨hx, hz⟩)]
  simp only [intMinMax, Bool.false_eq_true, if_false, beq_true, decide_eq_true_eq, Nat.mod_eq_of_lt hx, Nat.mod_eq_of_lt hz]
  split <;> omega

end

/-- A bitwise word of numbers below 2^w, as the statements write it. -/
theorem bitwise_eq {w n : Nat} (hn : n < 2 ^ w) : n = ((n : Int) % 2 ^ w).toNat := by
  have cast : (n : Int) % 2 ^ w = ((n % 2 ^ w : Nat) : Int) := by push_cast; rfl
  rw [cast, Int.toNat_natCast, Nat.mod_eq_of_lt hn]

theorem State.mem_lanes_lt {s : State} {o : Opnd} {lk : LaneKind} {x : Nat} (h : x ∈ s.lanes o lk) : x < 2 ^ lk.width := by
  obtain ⟨j, -, rfl⟩ := List.mem_map.mp h
  exact Nat.mod_lt _ (Nat.two_pow_pos _)

/-- An integer word that issues, by a function that agrees with its own on lanes of its width. -/
theorem State.exInt_issues {s : State} {i : WordInfo} {d a b : Opnd} {w : Nat} {g h : Nat → Nat → Nat} (hc : s.clear i = true)
    (hl : i.words.length = 1) (hw : s.me.streamWait (Opnd.sources [a, b]) (Place.opnd d).stream = none)
    (hg : ∀ x z, x < 2 ^ w → z < 2 ^ w → g x z = h x z) :
    s.word i (fun s => s.exInt d a b w 1 g) = .next ((s.exSend [a, b] (.opnd d) 1
      (lineFrom w (((s.lanes a (.int w)).zip (s.lanes b (.int w))).map fun e => h e.1 e.2)) 0 (BitVec.allOnes 64)).issued i
      (s.myFlow.pc + 4)) := by
  have same : ((s.lanes a (.int w)).zip (s.lanes b (.int w))).map (fun e => g e.1 e.2) =
      ((s.lanes a (.int w)).zip (s.lanes b (.int w))).map fun e => h e.1 e.2 :=
    List.map_congr_left fun e he =>
      hg _ _ (State.mem_lanes_lt (List.of_mem_zip he).1) (State.mem_lanes_lt (List.of_mem_zip he).2)
  rw [← same]
  exact State.exWord_issues hc hl rfl hw rfl

/-- Settles O32: each word is `State.exInt`, and its function on lanes is that of R254. -/
theorem integerTwoSources : Obligations.IntegerTwoSources := by
  unfold Obligations.IntegerTwoSources
  refine ⟨?_, ?_⟩
  · intro s y d a b i w f signed wide sat hi hc hw val r
    suffices h : ∃ g, exec i s = s.word (s.plain y i) (fun s => s.exInt d a b w 1 g) ∧ (s.plain y i).words.length = 1 ∧
        ∀ x z, x < 2 ^ w → z < 2 ^ w → g x z = (f (val x) (val z) % 2 ^ w).toNat by
      obtain ⟨g, he, hl, hg⟩ := h
      rw [he, State.exInt_issues hc hl hw hg]
    simp only [List.mem_cons, List.not_mem_nil, or_false, Prod.mk.injEq] at hi
    rcases hi with h | h | h | h | h | h | h | h | h | h | h | h | h | h | h | h | h | h | h | h | h | h | h | h | h | h | h | h | h | h | h |
      h | h | h | h | h | h | h | h | h | h | h
    all_goals
      obtain ⟨rfl, rfl, rfl, rfl⟩ := h
      refine ⟨_, rfl, rfl, fun x z hx hz => ?_⟩
    exacts [laneAdd_eq .., laneSub_eq .., laneMul_eq .., laneAddS_eq rfl rfl .., laneSubS_eq rfl rfl .., laneAddN_eq rfl ..,
      laneSubN_eq rfl .., intMinMax_min .., intMinMax_max .., intMinMax_minN hx hz, intMinMax_maxN hx hz, laneShl_eq rfl .., laneShr_eq rfl hx ..,
      laneAdd_eq .., laneSub_eq .., laneMul_eq .., laneAddS_eq rfl rfl .., laneSubS_eq rfl rfl .., laneAddN_eq rfl ..,
      laneSubN_eq rfl .., intMinMax_min .., intMinMax_max .., intMinMax_minN hx hz, intMinMax_maxN hx hz, laneShl_eq rfl .., laneShr_eq rfl hx ..,
      laneAdd_eq .., laneSub_eq .., laneMul_eq .., laneAddS_eq rfl rfl .., laneSubS_eq rfl rfl .., laneAddN_eq rfl ..,
      laneSubN_eq rfl .., intMinMax_min .., intMinMax_max .., intMinMax_minN hx hz, intMinMax_maxN hx hz, laneShl_eq rfl .., laneShr_eq rfl hx ..,
      bitwise_eq (Nat.and_lt_two_pow x hz), bitwise_eq (Nat.or_lt_two_pow hx hz), bitwise_eq (Nat.xor_lt_two_pow hx hz)]
  · intro s y d a b i w hi hc hw g r
    simp only [List.mem_cons, List.not_mem_nil, or_false, Prod.mk.injEq] at hi
    rcases hi with ⟨rfl, rfl⟩ | ⟨rfl, rfl⟩ | ⟨rfl, rfl⟩
    all_goals exact State.exInt_issues hc rfl hw fun x z _ _ => laneSra_eq _ x z

end Sys2Proof.Machine
end

section
/-! PROOFS. Comparisons, selections and movements of EX (R252, R253, R255, R256). -/

namespace Sys2Proof.Machine

/-! ## Comparisons, selections and movements (R252, R253, R255, R256) -/

/-- The bits of a line made of lanes of one bit. -/
theorem testBit_ofLanes_one (l : List Nat) (j : Nat) : (ofLanes 1 l).testBit j = decide (l.getD j 0 % 2 = 1) := by
  induction l generalizing j with
  | nil => simp [ofLanes]
  | cons x r ih =>
    cases j with
    | zero =>
      rw [Nat.testBit_zero, ofLanes, List.getD_cons_zero]
      congr 1
      exact propext (by omega)
    | succ j =>
      have half : (x % 2 ^ 1 + 2 ^ 1 * ofLanes 1 r) / 2 = ofLanes 1 r := by omega
      rw [ofLanes, Nat.testBit_succ, half, ih, List.getD_cons_succ]

/-- The elements that a group of a list holds satisfy a condition: those whose number lies in the group do. -/
theorem all_group_iff {r : List (Bool × α)} {per j : Nat} (hp : 0 < per) :
    ((r.drop (j * per)).take per).all (·.1) = true ↔ ∀ k e, r[k]? = some e → k / per = j → e.1 = true := by
  simp only [List.all_eq_true, List.mem_iff_getElem?, List.getElem?_take, List.getElem?_drop]
  refine ⟨fun h k e hk hj => ?_, fun h e ⟨n, hn⟩ => ?_⟩
  · refine h e ⟨k - j * per, ?_⟩
    have low : j * per ≤ k := by rw [← hj]; exact Nat.div_mul_le_self ..
    have high : k < j * per + per := by
      rw [← hj, ← Nat.succ_mul, Nat.mul_comm]; exact Nat.lt_mul_div_succ k hp
    rw [if_pos (by omega), show j * per + (k - j * per) = k by omega, hk]
  · split at hn
    next hlt => exact h _ e hn (by rw [Nat.mul_comm, Nat.mul_add_div hp, Nat.div_eq_of_lt hlt, Nat.add_zero])
    next => cases hn

/-- The mask that a comparison writes. -/
theorem compareBits_iff {r : List (Bool × BitVec 7)} {w per j : Nat} (hw : w * per = 32) (hj : j < 64) :
    (BitVec.ofNat 2048 (ofLanes 1 ((List.range 64).map fun j => (((r.drop (j * per)).take per).all (·.1)).toNat))).getLsbD j = true ↔
      ∀ k e, r[k]? = some e → k * w / 32 = j → e.1 = true := by
  have hp : 0 < per := Nat.pos_of_ne_zero fun h => by simp [h] at hw
  have hw0 : 0 < w := Nat.pos_of_ne_zero fun h => by simp [h] at hw
  have group : ∀ k, k * w / 32 = k / per := fun k => by rw [← hw, Nat.mul_comm k, Nat.mul_div_mul_left _ _ hw0]
  have lane : ((List.range 64).map fun j => (((r.drop (j * per)).take per).all (·.1)).toNat).getD j 0 =
      (((r.drop (j * per)).take per).all (·.1)).toNat := by
    rw [List.getD_eq_getElem?_getD, List.getElem?_map, List.getElem?_range hj]
    rfl
  rw [BitVec.getLsbD_ofNat, testBit_ofLanes_one, lane]
  simp only [group]
  rw [← all_group_iff hp]
  cases ((r.drop (j * per)).take per).all (·.1) <;> simp [show j < 2048 by omega]

/-- Settles O35: each word is `State.exCompare`, whose mask is `compareBits_iff`, or a word of EX that moves lanes. -/
theorem comparesAndMoves : Obligations.ComparesAndMoves := by
  unfold Obligations.ComparesAndMoves
  intro s y d a b c m n v i x z lm fl
  refine ⟨?_, ?_⟩
  · intro lk lat f hi hc hw r
    suffices h : exec i s = s.word (s.plain y i) (fun s => s.exCompare m a b lk lat f) ∧ (s.plain y i).words.length = 1 ∧
        lk.width * (32 / lk.width) = 32 by
      obtain ⟨he, hl, hd⟩ := h
      exact ⟨_, he.trans (State.exWord_issues hc hl rfl hw rfl), fun j hj => compareBits_iff hd hj⟩
    simp only [List.mem_cons, List.not_mem_nil, or_false, Prod.mk.injEq] at hi
    rcases hi with h | h | h | h | h
    all_goals
      obtain ⟨rfl, rfl, rfl, rfl⟩ := h
      exact ⟨rfl, rfl, rfl⟩
  · intro srcs lat f lanes hi hc hw
    simp only [List.mem_cons, List.not_mem_nil, or_false, Prod.mk.injEq] at hi
    rcases hi with h | h | h | h | h | h | h | h
    all_goals
      obtain ⟨rfl, rfl, rfl, rfl, rfl⟩ := h
      exact State.exWord_issues hc rfl rfl hw rfl

end Sys2Proof.Machine
end

section
/-! PROOFS. Rows of the scratchpad, masks, descriptors and formats of EX (R262 to R267). -/

namespace Sys2Proof.Machine

/-! ## Rows, masks, descriptors and formats (R262 to R267) -/

theorem State.modCore_eq_self {s : State} {c : CoreId} {f : Core → Core} (h : f (s.core c) = s.core c) : s.modCore c f = s := by
  have same : s.cores.put c (s.core c) = s.cores := File.put_at ..
  rw [State.modCore, h, State.setCore, same]

theorem Core.modFlow_eq_self {k : Core} {q : Seq} {x : Fin 4} {f : Flow → Flow} (h : f (k.flow q x) = k.flow q x) : k.modFlow q x f = k := by
  cases q
  case ctl =>
    have flow : f (k.ctx.at x).flow = (k.ctx.at x).flow := h
    have same : k.ctx.put x (k.ctx.at x) = k.ctx := File.put_at ..
    rw [Core.modFlow, Core.modCtx, File.mod, flow, same]
  all_goals
    simp only [Core.flow] at h
    simp only [Core.modFlow, h]

/-- An access that is to be charged with nothing changes nothing (R213). -/
theorem State.charge_nothing (s : State) (w : Who) (pc : W32) : s.charge w pc Acct.none = s := by
  have owes : (s.core w.core).owes w.q Acct.none = s.core w.core := rfl
  change s.modCore w.core (fun k => (k.owes w.q Acct.none).modFlow w.q w.x fun f => { f with due := f.due ++ [] ++ [] }) = s
  refine State.modCore_eq_self ?_
  rw [owes]
  exact Core.modFlow_eq_self (by simp only [List.append_nil])

theorem State.raceRows_empty {s : State} {c : CoreId} (h : (s.core c).ex.flight = []) : s.raceRows c = s := by
  rw [State.raceRows, h]; rfl

/-- The number that a mask of `mset` is made from: ones from lane f on (R264). -/
theorem testBit_ones_shifted (f c j : Nat) : ((2 ^ c - 1) * 2 ^ f).testBit j = decide (f ≤ j ∧ j < f + c) := by
  rw [Nat.mul_comm, Nat.testBit_two_pow_mul, Nat.testBit_two_pow_sub_one, Bool.decide_and]
  by_cases h : f ≤ j
  · have shift : (j - f < c) = (j < f + c) := propext (by omega)
    simp only [h, decide_true, shift]
  · simp [h]

/-- The low bits of a register as the line toward a narrower one. -/
theorem lowBits_line (v : W64) (w : Nat) : BitVec.ofNat 2048 (v.toNat % 2 ^ w) = (v.setWidth w).setWidth 2048 := by
  apply BitVec.eq_of_toNat_eq
  simp only [BitVec.toNat_ofNat, BitVec.toNat_setWidth]

/-- A word of EX without source, whose result goes to a register of EX. -/
theorem State.exWord_toReg {s : State} {i : WordInfo} {body : State → Act} {r : ExDest} {v u : Line} (hc : s.clear i = true)
    (hl : i.words.length = 1) (hb : body s = s.exWord [] (.other r) 1 fun s => some (v, 0, s)) (hv : v = u) :
    s.word i body = .next ((s.exSend [] (.other r) 1 u 0 (BitVec.allOnes 64)).issued i (s.myFlow.pc + 4)) := by
  subst hv
  exact State.exWord_issues hc hl hb (List.find?_eq_none.mpr fun q _ => by simp [Opnd.sources, Place.stream]) rfl

/-- Settles O37: a `zst` sends what it read, a `zld` reads the scratchpad as it stands, the others send a value to a register. -/
theorem rowsMasksDescriptors : Obligations.RowsMasksDescriptors := by
  unfold Obligations.RowsMasksDescriptors
  intro s y d n x m k l f c o b e row addrs toReg
  have start : row = rowStart (e.dsc.at n) (e.dsc.at (n + 1)) 0 x.val := by simp only [row, rowStart, Nat.zero_mul, Nat.add_zero]
  have rows : s.me.ex.rowAddrs n x.val = addrs := by rw [Ex.rowAddrs, ← start]
  refine ⟨?_, ?_, ⟨BitVec.ofNat 64 ((2 ^ c.val - 1) * 2 ^ f.val), fun hc => State.exWord_toReg hc rfl rfl rfl, fun _ j hj => ?_⟩, ?_,
    fun hc => State.exWord_toReg hc rfl rfl ?_, fun hc => State.exWord_toReg hc rfl rfl (lowBits_line ..),
    fun hc => State.exWord_toReg hc rfl rfl (lowBits_line ..)⟩
  · intro hc hin r
    have inside : ((s.me.ex.rowAddrs n x.val).any fun a => (s.ownOffset s.cur.core a).isNone) = false := by
      rw [rows, List.any_eq_false]
      intro a ha
      simpa using Option.isSome_iff_ne_none.mp (hin a ha)
    refine State.word_issues hc ?_ rfl
    simp only [inside, r, start]
    rfl
  · intro hc hw hf hr
    refine State.exWord_issues hc rfl rfl hw ?_
    have same : (s.modCore s.cur.core fun k => { k with spad := s.me.spad }) = s := State.modCore_eq_self rfl
    have read := hr
    rw [← rows] at read
    simp only [State.raceRows_empty hf, read, same]
    rw [show ({ Acct.none with oox := false } : Acct) = Acct.none from rfl, State.charge_nothing, rows]
  · rw [BitVec.getLsbD_ofNat, testBit_ones_shifted]
    simp [hj]
  · intro hc
    cases o <;> exact State.exWord_toReg hc rfl rfl rfl
  · rw [Nat.mod_eq_of_lt (e.b.at b).isLt]
    exact BitVec.ofNat_toNat ..

end Sys2Proof.Machine
end

section
/-! PROOFS. How the mailbox runs, ignores and rejects commands, and which command a code runs (R352, R353, R364, R376). -/

namespace Sys2Proof.Machine

/-! ## The step of a command (R352, R364, R376) -/

theorem State.pay_lt (s : State) (off lo n : Nat) : s.pay off lo n < 2 ^ n := Nat.mod_lt _ (Nat.two_pow_pos n)

section
variable {s : State} {code : Nat} {inRec : Bool} {body : State → Ran}

/-- A command's step while another runs (R352). -/
theorem State.mboxRun_overrun (hb : s.hub.mbox.busy = true) (hc : s.hub.mbox.cmd.toNat ≠ code) :
    s.mboxRun code inRec body = s.modMbox fun m => { m with overrun := true } := by
  simp only [State.mboxRun, hb, Bool.true_and, bne_iff_ne, ne_eq, hc, not_false_eq_true, if_true]

theorem State.mboxRun_ends (h : s.hub.mbox.busy = false ∨ s.hub.mbox.cmd.toNat = code) : s.mboxRun code inRec body = s.mboxEnd inRec body := by
  rcases h with h | h <;> simp [State.mboxRun, h]

/-- Recovery mode keeps a command from running (R364). -/
def State.barredInRecovery (s : State) (inRec : Bool) : Bool := s.inRecovery && !inRec

theorem State.barredInRecovery_iff : s.barredInRecovery inRec = true ↔ s.hub.brock.boot = .recovery ∧ inRec = false := by
  rw [State.barredInRecovery, Bool.and_eq_true, State.inRecovery_iff, Bool.not_eq_true']

/-- What the end of a command makes of what its body gave. -/
theorem State.mboxEnd_eq (s : State) (inRec : Bool) (body : State → Ran) :
    let u := s.modMbox fun m => { m with busy := false }
    s.mboxEnd inRec body = match body u with
      | .rejected d => u.mboxReject (if s.barredInRecovery inRec then min d 4 else d)
      | .rejectedIn d t => if s.barredInRecovery inRec then u.mboxReject (min d 4) else t.mboxReject d
      | .done t => if s.barredInRecovery inRec then u.mboxReject 4 else t.succeeds := by
  intro u
  rfl

end

/-! ## Which command a code runs (R353) -/

/-- A code, with the payload, whose step is an instruction's. -/
structure State.Runs (s : State) (i : Instr) (inRec : Bool) (body : State → Ran) (code : Nat) : Prop where
  exec : exec i s = .next (s.mboxRun code inRec body)
  known : s.mboxKnown code = true

theorem State.mboxKnown_of_ne {s : State} {code : Nat} (h1 : 1 ≤ code) (h2 : code ≤ 0x10) (h : code ≠ 0x0B ∨ s.pay 0 0 2 ≠ 3) :
    s.mboxKnown code = true := by
  rcases h with h | h <;> simp [State.mboxKnown, h1, h2, h]

/-- A code of a command with one form. -/
theorem State.runs_of_exec {s : State} {i : Instr} {inRec : Bool} {body : State → Ran} {code : Nat}
    (he : Machine.exec i s = .next (s.mboxRun code inRec body)) (h1 : 1 ≤ code) (h2 : code ≤ 0x10) (h : code ≠ 0x0B) :
    s.Runs i inRec body code := ⟨he, State.mboxKnown_of_ne h1 h2 (.inl h)⟩

/-- A form of SET_FABRIC. -/
theorem State.runs_fabric {s : State} {i : Instr} {body : State → Ran} {op : Nat} (hop : s.pay 0 0 2 = op) (h3 : op ≠ 3)
    (he : Machine.exec i s = .next (if s.pay 0 0 2 = op then s.mboxRun 0x0B false body else s)) : s.Runs i false body 0x0B :=
  ⟨he.trans (by rw [if_pos hop]), State.mboxKnown_of_ne (by decide) (by decide) (.inr (hop ▸ h3))⟩

/-- PREEMPT runs in the form that its payload names. -/
theorem State.exec_preempt (s : State) :
    Machine.exec (if s.pay 0 8 1 = 1 then .preemptForced else .preemptNode) s = .next (s.mboxRun 0x06 false State.runPreempt) := by
  by_cases h : s.pay 0 8 1 = 1
  · rw [if_pos h]
    exact congrArg _ (if_pos h)
  · have h0 : s.pay 0 8 1 = 0 := by have := s.pay_lt 0 8 1; omega
    rw [if_neg h]
    exact congrArg _ (if_pos h0)

/-- SET_PARTITION runs in the form that its payload names. -/
theorem State.exec_setPartition (s : State) :
    Machine.exec (if s.pay 0 8 1 = 1 then .setPartitionRemove else .setPartition) s =
      .next (s.mboxRun 0x08 false (if s.pay 0 8 1 = 1 then State.runRemovePartition else State.runSetPartition)) := by
  by_cases h : s.pay 0 8 1 = 1
  · rw [if_pos h, if_pos h]
    exact congrArg _ (if_pos h)
  · have h0 : s.pay 0 8 1 = 0 := by have := s.pay_lt 0 8 1; omega
    rw [if_neg h, if_neg h]
    exact congrArg _ (if_pos h0)

/-! ## Writes to `cmd` (R352) -/

theorem exec_writeCmd (s : State) (z : Bool) (n : W64) :
    exec (.registerWrite .mailbox 0 z n) s = .next (s.writeCmd (n.toNat % 2 ^ 16)) := by
  cases z <;> rfl

section
variable {s : State} (hb : s.hub.mbox.busy = false)
include hb

theorem State.writeCmd_known {code : Nat} (h : s.mboxKnown code = true) :
    s.writeCmd code = s.modMbox fun m => { m with busy := true, cmd := BitVec.ofNat 16 code } := by
  simp only [State.writeCmd, hb, h, Bool.false_eq_true, if_false, if_true]

theorem State.writeCmd_unknown {code : Nat} (h : s.mboxKnown code = false) :
    s.writeCmd code = (s.modMbox fun m => { m with busy := false }).mboxReject (if code = 0x0B then 3 else 1) := by
  simp only [State.writeCmd, hb, h, Bool.false_eq_true, if_false, State.mboxEnd, Bool.not_true, Bool.and_false]

end

/-- Settles O48: every command's step is `State.mboxRun` with its code and body, and a code written to `cmd` is known where it names one. The
model's own reading of a step where no command runs is that of notes/assumptions/38.md. -/
theorem mailboxRules : Obligations.MailboxRules := by
  unfold Obligations.MailboxRules
  intro s i inRec body code hi off m u
  have runs : s.Runs i inRec body code := by
    simp only [List.mem_cons, List.not_mem_nil, or_false, Prod.mk.injEq] at hi
    rcases hi with (h | h | h | h | h | h | h | h | h | h | h | h | h | h | h) | ⟨rfl, rfl, ⟨h, rfl, rfl⟩ | ⟨h, rfl, rfl⟩ | ⟨h, rfl, rfl⟩⟩
    case inr.inl => exact State.runs_fabric h (by decide) rfl
    case inr.inr.inl => exact State.runs_fabric h (by decide) rfl
    case inr.inr.inr => exact State.runs_fabric h (by decide) rfl
    all_goals obtain ⟨rfl, rfl, rfl, rfl⟩ := h
    case inl.inr.inr.inr.inr.inr.inl => exact State.runs_of_exec s.exec_preempt (by decide) (by decide) (by decide)
    case inl.inr.inr.inr.inr.inr.inr.inr.inl => exact State.runs_of_exec s.exec_setPartition (by decide) (by decide) (by decide)
    all_goals exact State.runs_of_exec rfl (by decide) (by decide) (by decide)
  refine ⟨fun hb hc => ?_, fun h => ?_, ?_⟩
  · rw [runs.exec, State.mboxRun_overrun hb hc]
  · rw [runs.exec, State.mboxRun_ends h, State.mboxEnd_eq]
    have stops : off → s.barredInRecovery inRec = true := State.barredInRecovery_iff.mpr
    have goes : ¬ off → s.barredInRecovery inRec = false := fun h => Bool.eq_false_iff.mpr (mt State.barredInRecovery_iff.mp h)
    refine ⟨fun d hd => ?_, fun d t hd => ?_, fun t hd => ?_⟩
    all_goals
      simp only [u] at hd
      rw [hd]
      exact ⟨fun h => by rw [stops h]; rfl, fun h => by rw [goes h]; rfl⟩
  · intro z n o
    have ho : o = .next (s.writeCmd (n.toNat % 2 ^ 16)) := exec_writeCmd s z n
    rw [ho]
    refine ⟨fun hb => ?_, fun hb => ⟨fun hn => ?_, fun hn => ?_, fun hn hp => ?_⟩⟩
    · rw [State.writeCmd, if_pos hb]
    · rw [hn, State.writeCmd_known hb runs.known]
    · have unknown : s.mboxKnown (n.toNat % 2 ^ 16) = false := by simp [State.mboxKnown]; omega
      rw [State.writeCmd_unknown hb unknown, if_neg (by omega)]
    · rw [hn, State.writeCmd_unknown hb (by simp [State.mboxKnown, hp]), if_pos rfl]

end Sys2Proof.Machine
end

section
/-! PROOFS. Pinning of operators, the end of a LAUNCH, and the packets of the command queues (R325 to R327, R335, R336, R339). -/

namespace Sys2Proof.Machine

variable {s : State} {q : Fin 4096} {k : Queue} {w : QueueWork} {p : Packet}

/-! ## Pinning (R335) -/

section
variable {o : OpStat} {t : Fin 16} {part : Part}

/-- A queue that waits for no page makes the next pin of its operator. -/
theorem exec_operatorPinning (hq : s.queue q = some (k, w)) (hcur : w.current = some p) (hpart : s.hub.parts.at k.part = some part)
    (hfirst : part.firstCluster = some t) (hpin : p.pinning = some o) (hruns : s.runs k.part = true)
    (hpage : (s.hub.preqs.any fun r => r.queue == some q) = false) :
    exec (.operatorPinning q) s = .next ((s.pinOne k p o t).settle q) := by
  have hclust : (s.hub.parts.at k.part).bind Part.firstCluster = some t := by rw [hpart]; exact hfirst
  have hwaits : (!s.runs k.part || s.hub.preqs.any fun r => r.queue == some q) = false := by rw [hruns, hpage]; rfl
  change execOperatorPinning q s = _
  simp only [execOperatorPinning, hq, hcur, hclust, hpin, hwaits]
  rfl

theorem State.pinOne_absent (h : o.pinExtent = none) :
    s.pinOne k p o t = s.modOp k.num p.uid o.record fun o => o.pinned [] 0 := by
  simp only [State.pinOne, h]

theorem State.pinOne_refused {va len : Nat} {rd wr : Bool} (h : o.pinExtent = some (va, len, rd, wr))
    (bad : o.refused = true ∨ extentOk va len = false) :
    s.pinOne k p o t = s.rejectOp k p o.record (if o.pins < 4 then 6 else 7) (if o.refused then 0x14 else 0x10) := by
  cases hr : o.refused with
  | true => simp [State.pinOne, h, hr, cREFUSED]
  | false =>
    have he : extentOk va len = false := bad.resolve_left (by simp [hr])
    simp [State.pinOne, h, hr, he, cPERM]

theorem State.pinOne_code {va len : Nat} {rd wr : Bool} {runs : List Run} {ls : List Leaf} {u : State}
    (h : o.pinExtent = some (va, len, rd, wr)) (hcode : o.pins < 4) (hr : o.refused = false) (he : extentOk va len = true)
    (hwalk : s.walkExtent t ⟨k.part, o.op.asid, wr, true, o.bypass.toList⟩ va len = (.ok runs ls, u)) :
    s.pinOne k p o t = (u.markLeaves t wr ls).modOp k.num p.uid o.record fun o => o.pinned runs 0 := by
  simp [State.pinOne, h, hr, he, hcode, hwalk]

end

/-! ## The end of a LAUNCH (R327, R339) -/

theorem exec_launchComplete (hq : s.queue q = some (k, w)) (hp : w.packets.find? Packet.isOver = some p)
    (hl : (s.looseOf fun c => s.partOf c == some k.part) = false) :
    exec (.launchComplete q) s = .next ((s.completePacket k p (if p.aborted || p.stopped then 1 else 0)).settle q) := by
  change execLaunchComplete q s = _
  simp [execLaunchComplete, hq, hp, hl]

theorem exec_launchComplete_none (hq : s.queue q = some (k, w)) (hp : w.packets.find? Packet.isOver = none) :
    exec (.launchComplete q) s = .next s := by
  change execLaunchComplete q s = _
  simp [execLaunchComplete, hq, hp]

/-- Settles O45, by the cases of `pinOne` and of the end of a LAUNCH. -/
theorem pinningAndLaunchEnd : Obligations.PinningAndLaunchEnd := by
  unfold Obligations.PinningAndLaunchEnd
  intro s q k w hq
  refine ⟨fun p o t part hcur hpart hfirst hpin hruns hpage => ?_, fun p hp hl => exec_launchComplete hq hp hl,
    fun hp => exec_launchComplete_none hq hp, fun p reason => ?_⟩
  · have goes := exec_operatorPinning hq hcur hpart hfirst hpin hruns hpage
    refine ⟨fun h => ?_, fun va len rd wr runs ls u h hcode hr he hwalk => ?_, fun va len rd wr h bad => ?_⟩
    · rw [goes, State.pinOne_absent h]
    · rw [goes, State.pinOne_code h hcode hr he hwalk]
    · rw [goes, State.pinOne_refused h bad]
  · intro u
    refine ⟨fun h0 hn => ?_, fun h => ?_⟩
    · simp [State.completePacket, h0, hn, u]
    · have : (decide (reason ≠ 0) || p.notify) = true := by simpa using h
      simp only [State.completePacket, this]
      rfl

/-! ## What the merging of update-only lines keeps (R105, R277) -/

/-- A relation between a state and a later one that every change made in merging an update-only line keeps. -/
structure Merging (R : State → State → Prop) : Prop where
  refl : ∀ s, R s s
  trans : ∀ {s t u}, R s t → R t u → R s u
  draw : ∀ s : State, R s s.freeNat.2
  mem : ∀ (s : State) (m : Bytes), R s { s with mem := m }
  drop : ∀ (s : State) (line : Nat), R s (s.dropCopies line)
  leave : ∀ (s : State) (c : CoreId) (line : Nat), R s (s.modCore c fun k => k.l1Drop line)
  poison : ∀ (s : State) (c : CoreId) (sector : Nat), R s (s.consumePoison c sector)

namespace Merging

variable {R : State → State → Prop} (h : Merging R)
include h

theorem foldl {α : Type} {f : State → α → State} (hf : ∀ t a, R t (f t a)) (l : List α) (s : State) : R s (l.foldl f s) :=
  List.foldlRecOn (motive := R s) l f (h.refl s) fun t ht a _ => h.trans ht (hf t a)

theorem combineAll (o : UpdOp) (y : Ty) (n : Nat) (l : List Nat) (s : State) : R s (Machine.combineAll o y n l s).2 := by
  induction n generalizing l s with
  | zero => exact h.refl s
  | succ n ih =>
    simp only [Machine.combineAll]
    split
    · exact h.refl s
    · exact h.trans (h.trans (h.draw s) (h.draw _)) (ih ..)

theorem mergeElement (s : State) (c : CoreId) (o : UpdOp) (y : Ty) (key : Nat) (vs : List W32) : R s (s.mergeElement c o y key vs) := by
  simp only [State.mergeElement]
  split
  · exact h.poison ..
  · exact h.trans (h.combineAll o y _ _ s) (h.mem ..)

theorem mergeLine (s : State) (c : CoreId) (line : Nat) : R s (s.mergeLine c line) := by
  unfold State.mergeLine
  split
  · exact h.trans (h.trans (h.drop s line) (h.leave _ c line)) (h.foldl (fun _ _ => h.mergeElement ..) _ _)
  · exact h.refl s

theorem mergeHolders (line n : Nat) (hs : List CoreId) (s : State) : R s (State.mergeHolders line n hs s) := by
  induction n generalizing hs s with
  | zero => exact h.refl s
  | succ n ih =>
    simp only [State.mergeHolders]
    split
    · exact h.draw s
    · exact h.trans (h.trans (h.draw s) (h.mergeLine ..)) (ih ..)

theorem homeRead (s : State) (line : Nat) : R s (s.homeRead line) := h.mergeHolders ..

theorem homeWrite (s : State) (line : Nat) : R s (s.homeWrite line) := h.trans (h.homeRead s line) (h.drop _ line)

theorem mergeCore (s : State) (c : CoreId) : R s (s.mergeCore c) := h.foldl (fun t (l : L1Line) => h.mergeLine t c l.line) _ s

end Merging

/-! ## What a read at the home of a line leaves of the queues (R277, R345) -/

/-- What the front end has taken of a queue: all but its server and how its chains have been stopped. -/
def takenOf (e : Queue × QueueWork) : Queue × List Packet :=
  ({ e.1 with srv := (0, 0), ready := false }, e.2.packets.map fun p => { p with stopped := false })

/-- The partitions, and what has been taken of every queue, are as they were. -/
structure State.KeepsTaken (s t : State) : Prop where
  parts : t.hub.parts = s.hub.parts
  queues : t.hub.queues.map takenOf = s.hub.queues.map takenOf

namespace State.KeepsTaken

theorem of_hub {s t : State} (h : t.hub = s.hub) : s.KeepsTaken t := ⟨by rw [h], by rw [h]⟩

theorem refl (s : State) : s.KeepsTaken s := of_hub rfl

theorem trans {s t u : State} (h : s.KeepsTaken t) (g : t.KeepsTaken u) : s.KeepsTaken u :=
  ⟨g.parts.trans h.parts, g.queues.trans h.queues⟩

theorem modQueue (s : State) (q : Fin 4096) {f : Queue × QueueWork → Queue × QueueWork} (h : ∀ e, takenOf (f e) = takenOf e) :
    s.KeepsTaken (s.modQueue q f) := by
  refine ⟨rfl, ?_⟩
  simp only [State.modQueue, State.modHub, List.map_map]
  refine List.map_congr_left fun e _ => ?_
  by_cases hn : e.1.num = q <;> simp [hn, h]

theorem postRec (s : State) (q : Fin 4096) (r : Rec) : s.KeepsTaken (s.postRec q r) := modQueue s q fun _ => rfl

theorem settle (s : State) (q : Fin 4096) : s.KeepsTaken (s.settle q) := by
  refine modQueue s q fun e => ?_
  simp only [takenOf, Queue.becomeReady]
  split
  · split <;> rfl
  · rfl

theorem stopChain (s : State) (q : Fin 4096) (launch : Nat) : s.KeepsTaken (s.stopChain q launch) := by
  refine (modQueue s q fun e => ?_).trans (settle ..)
  simp only [takenOf, List.map_map, Prod.mk.injEq, true_and]
  refine List.map_congr_left fun p _ => ?_
  by_cases h : p.uid = launch <;> simp [h]

theorem badSector (s : State) (n : Nat) : s.KeepsTaken (s.badSector n) := by
  unfold State.badSector State.setReplace
  split
  · split <;> exact ⟨rfl, rfl⟩
  · exact ⟨rfl, rfl⟩

/-- The last part of a machine check (R345). -/
theorem checked (s : State) (c : CoreId) (detail : W64) (f : Core → Core) :
    s.KeepsTaken (((((s.endLease c).dropWait c).scree (screeUnit c) 0x11 detail).discardUnstarted c).modCore c f) := ⟨rfl, rfl⟩

theorem machineCheck (s : State) (c : CoreId) (what addr d0 d1 d2 : Nat) : s.KeepsTaken (s.machineCheck c what addr d0 d1 d2) := by
  unfold State.machineCheck
  cases (s.core c).aux.run with
  | none => exact checked ..
  | some r => exact ((postRec s r.queue _).trans (stopChain ..)).trans (checked ..)

theorem consumeError (s : State) (c : CoreId) (what addr : Nat) (next : Bool) : s.KeepsTaken (s.consumeError c what addr next) := by
  simp only [State.consumeError]
  split
  · exact refl s
  · split
    · exact ⟨rfl, rfl⟩
    · exact machineCheck ..

theorem consumePoison (s : State) (c : CoreId) (n : Nat) : s.KeepsTaken (s.consumePoison c n) :=
  ((of_hub rfl : s.KeepsTaken s.freeWord.2).trans (badSector _ n)).trans (consumeError ..)

theorem merging : Merging State.KeepsTaken where
  refl := refl
  trans := trans
  draw s := of_hub (s := s) rfl
  mem s _ := of_hub (s := s) rfl
  drop s _ := of_hub (s := s) rfl
  leave s _ _ := of_hub (s := s) rfl
  poison := consumePoison

/-- A queue keeps its number and partition and where it has read, and each packet all but whether its chain has been stopped. -/
theorem queue {s t : State} (h : s.KeepsTaken t) (q : Fin 4096) : (t.queue q).map takenOf = (s.queue q).map takenOf := by
  have found (l : List (Queue × QueueWork)) :
      (l.find? fun e => e.1.num == q).map takenOf = (l.map takenOf).find? fun e => e.1.num == q := by
    rw [List.find?_map]
    rfl
  rw [State.queue, State.queue, found, found, h.queues]

theorem queue_some {s t : State} (h : s.KeepsTaken t) {q : Fin 4096} {e : Queue × QueueWork} (hq : s.queue q = some e) :
    ∃ f, t.queue q = some f ∧ takenOf f = takenOf e := by
  have := h.queue q
  rw [hq] at this
  exact Option.map_eq_some_iff.mp this

end State.KeepsTaken

/-- Where one record of what has been taken agrees with another, so does which packet waits to start. -/
theorem find?_unstarted_none {e f : Queue × QueueWork} (h : takenOf f = takenOf e)
    (hn : e.2.packets.find? (fun p => !p.started) = none) : f.2.packets.find? (fun p => !p.started) = none := by
  have unstarted (g : Queue × QueueWork) :
      g.2.packets.find? (fun p => !p.started) = none ↔ (takenOf g).2.find? (fun p => !p.started) = none := by
    simp [takenOf]
  rw [unstarted, h, ← unstarted]
  exact hn

theorem State.queue_modQueue (s : State) (q : Fin 4096) {f : Queue × QueueWork → Queue × QueueWork} (h : ∀ e, (f e).1.num = e.1.num) :
    (s.modQueue q f).queue q = (s.queue q).map f := by
  simp only [State.queue, State.modQueue, State.modHub, List.find?_map]
  have same : ((fun e : Queue × QueueWork => e.1.num == q) ∘ fun e => if e.1.num = q then f e else e) = fun e => e.1.num == q := by
    funext e
    by_cases hn : e.1.num = q <;> simp [hn, h]
  rw [same]
  cases hf : s.hub.queues.find? (fun e => e.1.num == q) with
  | none => rfl
  | some e => simp [show e.1.num = q by simpa using List.find?_some hf]

theorem State.queue_num (h : s.queue q = some (k, w)) : k.num = q := by simpa using List.find?_some h

theorem State.settle_queue_num (hq : s.queue q = some (k, w)) : s.settle k.num = s.settle q := by rw [State.queue_num hq]

/-! ## The turn of a queue (R325 to R327) -/

section
variable {isTy : Nat → Bool} {act : State → Queue → Packet → Option State}

theorem State.packetTurn_waits (hq : s.queue q = some (k, w)) (hruns : s.runs k.part = true)
    (hp : w.packets.find? (fun p => !p.started) = some p) (hty : isTy p.ty = true) (hb : w.mayBegin p = false) :
    s.packetTurn q isTy act = .next (s.settle q) := by
  simp [State.packetTurn, hq, hruns, hp, hty, hb]

theorem State.packetTurn_starts {u : State} (hq : s.queue q = some (k, w)) (hruns : s.runs k.part = true)
    (hp : w.packets.find? (fun p => !p.started) = some p) (hty : isTy p.ty = true) (hb : w.mayBegin p = true) (ha : act s k p = some u) :
    s.packetTurn q isTy act = .next (u.settle q) := by
  simp [State.packetTurn, hq, hruns, hp, hty, hb, ha]

theorem State.packetTurn_idle (hq : s.queue q = some (k, w)) (hruns : s.runs k.part = true)
    (hp : w.packets.find? (fun p => !p.started) = none) (hn : k.tail = k.head ∨ w.waiting ≠ []) :
    s.packetTurn q isTy act = .next s := by
  have : (decide (k.tail = k.head) || !w.waiting.isEmpty) = true := by simpa using hn
  simp only [State.packetTurn, hq, hruns, hp, this]
  rfl

theorem State.takePacket_snd (s : State) (k : Queue) :
    (s.takePacket k).2 = (s.homeRead (lineOf (ringKey k.host k.ring k.lsize k.head))).uid.2.modQueue k.num fun e =>
      ({ e.1 with head := e.1.head + 1 }, { e.2 with packets := e.2.packets ++ [(s.takePacket k).1] }) := by
  simp only [State.takePacket]

theorem State.takePacket_unstarted (s : State) (k : Queue) : (s.takePacket k).1.started = false := by simp only [State.takePacket]

theorem State.KeepsTaken.uid (s : State) : s.KeepsTaken s.uid.2 := of_hub rfl

theorem State.KeepsTaken.beforeTaking (s : State) (line : Nat) : s.KeepsTaken (s.homeRead line).uid.2 :=
  (State.KeepsTaken.merging.homeRead s line).trans (State.KeepsTaken.uid _)

/-- A packet taken from the ring stands last in its queue, not started, and the ring's head has advanced past it. -/
theorem State.takePacket_queue (hq : s.queue q = some (k, w)) (hn : w.packets.find? (fun p => !p.started) = none) :
    ∃ k' w', (s.takePacket k).2.queue q = some (k', w') ∧ k'.part = k.part ∧ k'.head = k.head + 1 ∧
      w'.packets.find? (fun p => !p.started) = some (s.takePacket k).1 := by
  have unstarted := State.takePacket_unstarted s k
  rw [State.takePacket_snd]
  generalize (s.takePacket k).1 = p at unstarted ⊢
  generalize hl : lineOf (ringKey k.host k.ring k.lsize k.head) = line
  obtain ⟨⟨k', w'⟩, hq', same⟩ := (State.KeepsTaken.beforeTaking s line).queue_some hq
  have hnone := find?_unstarted_none same hn
  have hhead : k'.head = k.head := congrArg (fun e => e.1.head) same
  refine ⟨{ k' with head := k'.head + 1 }, { w' with packets := w'.packets ++ [p] }, ?_, congrArg (fun e => e.1.part) same,
    congrArg (· + 1) hhead, ?_⟩
  · rw [State.queue_num hq, State.queue_modQueue _ q (by intro e; rfl), hq']
    rfl
  · rw [List.find?_append, hnone]
    simp [unstarted]

theorem State.takePacket_runs (v : Fin 16) : (s.takePacket k).2.runs v = s.runs v := by
  rw [State.takePacket_snd]
  generalize lineOf (ringKey k.host k.ring k.lsize k.head) = line
  simp only [State.runs, State.modQueue, State.modHub, (State.KeepsTaken.beforeTaking s line).parts]

/-- With none taken, the turn of a queue is that at the packet at the head of its ring. -/
theorem State.packetTurn_takes (hq : s.queue q = some (k, w)) (hruns : s.runs k.part = true)
    (hp : w.packets.find? (fun p => !p.started) = none) (ht : k.tail ≠ k.head) (hw : w.waiting = [])
    (hr : s.ringMissing k.host k.ring k.lsize k.head = false) (hty : isTy (s.takePacket k).1.ty = true) :
    s.packetTurn q isTy act = (s.takePacket k).2.packetTurn q isTy act := by
  obtain ⟨k', w', hq', hpart, -, hp'⟩ := State.takePacket_queue hq hp
  have hruns' : (s.takePacket k).2.runs k'.part = true := by rw [hpart, State.takePacket_runs, hruns]
  have hnext : (decide (k.tail = k.head) || !w.waiting.isEmpty) = false := by simp [ht, hw]
  generalize hT : s.takePacket k = T at *
  obtain ⟨p, t⟩ := T
  simp only [State.packetTurn, hq, hq', hruns, hruns', hp, hp', hnext, hr, hT, hty]
  rfl

end

/-! ## Packets of each type (R326, R327, R336) -/

theorem State.pushPacket_taken {n : Fin 64} {d : Fin 4} (hn : n = Fin.ofNat 64 (bitsOf (p.word 1) 0 6)) (hd : d = Fin.ofNat 4 (bitsOf (p.word 1) 8 2))
    (hcap : ((s.dies.at d).warren.at n).cap ≠ 0) (hown : ((s.dies.at d).warren.at n).owner = k.part)
    (hroom : ((s.dies.at d).warren.at n).ents.length < ((s.dies.at d).warren.at n).cap) :
    s.pushPacket k p = (s.modDie d fun e => { e with warren := e.warren.mod n fun w =>
      { w with ents := w.ents ++ [⟨BitVec.ofNat 32 (p.word 2), p.words.at 3, none⟩] } }).completePacket k p 0 := by
  subst hn hd
  refine if_neg ?_
  simp only [Bool.or_eq_true, decide_eq_true_eq, bne_iff_ne, not_or, not_not, Nat.not_le]
  exact ⟨⟨hcap, hown⟩, hroom⟩

theorem State.pushPacket_rejected {n : Fin 64} {d : Fin 4} (hn : n = Fin.ofNat 64 (bitsOf (p.word 1) 0 6))
    (hd : d = Fin.ofNat 4 (bitsOf (p.word 1) 8 2))
    (h : ((s.dies.at d).warren.at n).cap = 0 ∨ ((s.dies.at d).warren.at n).owner ≠ k.part ∨
      ((s.dies.at d).warren.at n).cap ≤ ((s.dies.at d).warren.at n).ents.length) :
    s.pushPacket k p = s.rejectPacket k p 11 := by
  subst hn hd
  refine if_pos ?_
  simpa [or_assoc] using h

theorem bitsOf_word_low (v : Nat) : bitsOf v 0 52 = v % 2 ^ 52 := by simp [bitsOf]

theorem State.signalPacket_bad {pa : Nat} (hpa : pa = p.word 1 % 2 ^ 52)
    (h : p.word 1 % 8 ≠ 0 ∨ bitsOf (p.word 1) 52 11 ≠ 0 ∨
      (bitOf (p.word 1) 63 = false ∧ s.inPart k.part 0 pa 8 = false ∧ s.inPart k.part 1 pa 8 = false)) :
    s.signalPacket k p = s.rejectPacket k p 12 := by
  subst hpa
  refine if_pos ?_
  simpa [bitsOf_word_low, or_assoc, and_assoc] using h

theorem State.signalPacket_writes {pa : Nat} (hpa : pa = p.word 1 % 2 ^ 52)
    (h : ¬ (p.word 1 % 8 ≠ 0 ∨ bitsOf (p.word 1) 52 11 ≠ 0 ∨
      (bitOf (p.word 1) 63 = false ∧ s.inPart k.part 0 pa 8 = false ∧ s.inPart k.part 1 pa 8 = false))) :
    s.signalPacket k p = (s.homePut ((List.range 8).map (memKey (if bitOf (p.word 1) 63 then 2 else 0) pa + ·))
      (bytesOfNat 8 (p.word 2))).completePacket k p 0 := by
  subst hpa
  refine (if_neg ?_).trans (by rw [bitsOf_word_low])
  simpa [bitsOf_word_low, or_assoc, and_assoc] using h

theorem State.startLaunch_plain (hres : p.reservedSet = false) (h1 : p.word 1 % 1024 = 0) (h2 : bitsOf (p.word 2) 12 52 = 0)
    (h3 : p.word 3 = 0) (hext : ∀ n, n < 6 → p.extents.getD n 0 = 0) :
    s.startLaunch k p = some (s.modPacket k.num p.uid fun p => { p with started := true }) := by
  have none_changed : (List.range 6).filter (fun n => p.extents.getD n 0 != 0) = [] := by
    refine List.filter_eq_nil_iff.mpr fun n hn => ?_
    rw [hext n (List.mem_range.mp hn)]
    decide
  simp only [State.startLaunch, hres, h1, h2, h3, none_changed]
  rfl

/-- The events at packets of the types that the spec lists are the turn of a queue at that type. -/
theorem exec_packetTurn {i : Instr} {n : Nat} (h : (i, n) ∈ [(Instr.packetNop q, 0), (.launch q, 1), (.push q, 2), (.signal q, 3)]) :
    ∃ act, ∀ s, exec i s = s.packetTurn q (· == n) act := by
  simp only [List.mem_cons, Prod.mk.injEq, List.not_mem_nil, or_false] at h
  obtain ⟨rfl, rfl⟩ | ⟨rfl, rfl⟩ | ⟨rfl, rfl⟩ | ⟨rfl, rfl⟩ := h
  · exact ⟨_, fun s => (rfl : execPacketNop q s = _)⟩
  · exact ⟨_, fun s => (rfl : execLaunch q s = _)⟩
  · exact ⟨_, fun s => (rfl : execPush q s = _)⟩
  · exact ⟨_, fun s => (rfl : execSignal q s = _)⟩

/-- Settles O46: the turn of a queue at a taken packet by its type, and at the head of the ring by `packetTurn_takes`. -/
theorem packets : Obligations.Packets := by
  unfold Obligations.Packets
  intro s q k w hq hruns
  refine ⟨fun p hp => ⟨fun hb i hi => ?_, fun hb => ⟨fun hty => ?_, fun hty hres h6 h10 => ?_, fun hty hres h3 => ?_,
    fun hty hres h1 h2 h3 hext => ?_, fun hty => ?_⟩⟩, fun hp ht hw hr => ?_, fun hp hn i hi => ?_⟩
  · obtain ⟨act, turn⟩ := exec_packetTurn hi
    rw [turn]
    exact State.packetTurn_waits hq hruns hp (beq_self_eq_true _) hb
  · change execPacketNop q s = _
    exact State.packetTurn_starts (isTy := (· == 0)) hq hruns hp (beq_iff_eq.mpr hty) hb (by rfl)
  · have starts : execPush q s = .next ((s.pushPacket k p).settle q) :=
      State.packetTurn_starts (isTy := (· == 2)) hq hruns hp (beq_iff_eq.mpr hty) hb (by simp [hres, h6, h10])
    intro n d v
    refine ⟨fun hcap hown hroom => ?_, fun h => ?_⟩
    · rw [← State.pushPacket_taken rfl rfl hcap hown hroom]
      exact starts
    · rw [← State.pushPacket_rejected rfl rfl h]
      exact starts
  · have starts : execSignal q s = .next ((s.signalPacket k p).settle q) :=
      State.packetTurn_starts (isTy := (· == 3)) hq hruns hp (beq_iff_eq.mpr hty) hb (by simp [hres, h3])
    intro a pa host bad key
    refine ⟨fun h => ?_, fun h => ?_⟩
    · rw [← State.signalPacket_bad rfl h]
      exact starts
    · rw [← State.signalPacket_writes rfl h]
      exact starts
  · exact State.packetTurn_starts (isTy := (· == 1)) hq hruns hp (beq_iff_eq.mpr hty) hb (State.startLaunch_plain hres h1 h2 h3 hext)
  · change execUnknownPacketType q s = _
    exact State.packetTurn_starts (isTy := fun t => decide (3 < t)) hq hruns hp (decide_eq_true hty) hb (by rfl)
  · intro t
    refine ⟨fun i hi => ?_, fun hty => ?_, fun e he => ?_⟩
    · obtain ⟨act, turn⟩ := exec_packetTurn hi
      rw [turn, turn]
      exact State.packetTurn_takes hq hruns hp ht hw hr (beq_self_eq_true _)
    · change execUnknownPacketType q s = execUnknownPacketType q t.2
      exact State.packetTurn_takes (isTy := fun t => decide (3 < t)) hq hruns hp ht hw hr (decide_eq_true hty)
    · obtain ⟨k', w', hq', -, hhead, -⟩ := State.takePacket_queue hq hp
      cases he.symm.trans hq'
      exact hhead
  · have turns : ∃ isTy act, exec i s = s.packetTurn q isTy act := by
      simp only [List.mem_cons, List.not_mem_nil, or_false] at hi
      obtain rfl | rfl | rfl | rfl | rfl := hi
      · exact ⟨_, _, (rfl : execPacketNop q s = _)⟩
      · exact ⟨_, _, (rfl : execLaunch q s = _)⟩
      · exact ⟨_, _, (rfl : execPush q s = _)⟩
      · exact ⟨_, _, (rfl : execSignal q s = _)⟩
      · exact ⟨_, _, (rfl : execUnknownPacketType q s = _)⟩
    obtain ⟨isTy, act, turn⟩ := turns
    rw [turn]
    exact State.packetTurn_idle hq hruns hp hn

end Sys2Proof.Machine
end

section
/-! PROOFS. Commands of the fabric engine and collectives (R311 to R319). -/

namespace Sys2Proof.Machine

variable {s : State} {e : Fin 4} {u : Nat} {k : Option Nat} {d : Cmd}

/-! ## One-sided copies (R313) -/

theorem State.fabRunning_of_started (hc : s.fabCmd e u = some d) (hs : d.started = true) : s.fabRunning e u = some d := by
  simp [State.fabRunning, hc, hs]

/-- A step of a move whose bytes have been read writes what is left of them, unless an earlier command of its sequencer has still to read
there. -/
theorem State.runMove_written {m : Move} {fin : State → Cmd → Acct → State} (hd : d.stage ≠ m.stage) (hw : m.waits s = false) :
    let r := m.write s (m.slots.map fun j => match j with | some j => d.opB.getD j 0 | none => 0) none fun _ => true
    s.runMove d none m fin = match r.data with | none => r.s | some _ => fin r.s d r.acct := by
  intro r
  have here : (d.stage == m.stage) = false := beq_false_of_ne hd
  have same : ∀ g : Got, g = r → (match g.data with | none => g.s | some _ => fin g.s d g.acct) =
      match r.data with | none => r.s | some _ => fin r.s d r.acct := by rintro g rfl; rfl
  unfold State.runMove
  simp only [Bool.not_true, ne_eq, hd, not_false_eq_true, decide_true, Bool.or_true, if_true, here, Bool.false_and, Bool.or_false, hw,
    Bool.false_eq_true, if_false, Bool.not_false, Option.map_none]
  refine same _ (congrArg (m.write s _ none) (funext fun i => ?_))
  split <;> rfl

section
variable (hc : s.fabCmd e u = some d) (hs : d.started = true) (hw : d.wins = (s.core d.core).wins)
include hc hs hw

theorem exec_fputComplete {tok off loc cnt : W64} (hb : d.body = .fput tok off loc cnt) :
    exec (.fputComplete e ⟨u, k⟩) s = .next (if 2 ^ 30 < moveCount cnt then s.refuseFab d
      else if moveCount cnt = 0 then s.finishCmd d Acct.none
      else s.runMove d k (d.move true tok (moveOffs off (moveCount cnt)) (moveLocs loc (moveCount cnt))) State.finishCmd) := by
  change execFputComplete e ⟨u, k⟩ s = _
  simp only [execFputComplete, State.fabRunning_of_started hc hs, State.viewWins_of_same hw, hb]

theorem exec_fgetComplete {tok off loc cnt : W64} (hb : d.body = .fget tok off loc cnt) :
    exec (.fgetComplete e ⟨u, k⟩) s = .next (if 2 ^ 30 < moveCount cnt then s.refuseFab d
      else if moveCount cnt = 0 then s.finishCmd d Acct.none
      else if d.stage = 2 then (if s.postedOf d then s else s.finishCmd d Acct.none)
      else s.runMove d k (d.move false tok (moveOffs off (moveCount cnt)) (moveLocs loc (moveCount cnt))) fun s d a =>
        if s.postedOf d then s.modCmd u fun c => { c.owe a with stage := 2 } else s.finishCmd d a) := by
  change execFgetComplete e ⟨u, k⟩ s = _
  simp only [execFgetComplete, State.fabRunning_of_started hc hs, State.viewWins_of_same hw, hb]

theorem exec_fredComplete {t v : Ty} {tok off src : W64} {g : Fin 64} (hb : d.body = .fred t v tok off src g) {rank : Nat}
    {parties : List (Fin 64)} (hg : s.groupFor d.core g = some (rank, parties)) :
    (redCount t v src = 0 → exec (.fredComplete e ⟨u, k⟩) s = .next (s.finishCmd d Acct.none)) ∧
    (redCount t v src ≠ 0 → d.stage = 3 → exec (.fredComplete e ⟨u, k⟩) s = .next (s.fredEnd d)) ∧
    (∀ len runs r, redCount t v src ≠ 0 → d.stage = 1 ∨ d.stage = 2 → s.lookup d.core u (2 ^ 20) tok false true = (.near len runs, r) →
      let as := redArrivals t v parties.length rank u none runs (min len (tokLen tok)) off.toNat (redCount t v src)
        ((unflagged (recSize t) (srcItems t (redCount t v src)) d.opA).map fun x => x.getD [])
      exec (.fredComplete e ⟨u, k⟩) s =
        .next (((r.noteAccess d.core u (2 ^ 20) (.near len runs) tok).fredNear d tok as.1 as.2).fredEnd d)) := by
  have goes : ∀ v, execFredComplete e ⟨u, k⟩ s = v → exec (.fredComplete e ⟨u, k⟩) s = v := fun _ h => h
  refine ⟨fun h0 => goes _ ?_, fun h0 h3 => goes _ ?_, fun len runs r h0 hstage hl => goes _ ?_⟩
  · simp only [execFredComplete, State.fabRunning_of_started hc hs, State.viewWins_of_same hw, hb, hg, h0, if_true]
  · simp only [execFredComplete, State.fabRunning_of_started hc hs, State.viewWins_of_same hw, hb, hg, h0, if_false, h3, if_true]
  · have h3 : d.stage ≠ 3 := by rcases hstage with h | h <;> simp [h]
    have source := s.readSource_done (d := d) k (by rcases hstage with h | h <;> simp [h]) (srcAddr src) (recSize t)
      (srcItems t (redCount t v src))
    simp only [execFredComplete, State.fabRunning_of_started hc hs, State.viewWins_of_same hw, hb, hg, h0, if_false, h3, source, hl]

theorem exec_fredComplete_refused {t v : Ty} {tok off src : W64} {g : Fin 64} (hb : d.body = .fred t v tok off src g)
    (hg : s.groupFor d.core g = none) : exec (.fredComplete e ⟨u, k⟩) s = .next (s.refuseFab d) := by
  change execFredComplete e ⟨u, k⟩ s = _
  simp only [execFredComplete, State.fabRunning_of_started hc hs, State.viewWins_of_same hw, hb, hg]

end

theorem moveOffs_length (off : W64) (n : Nat) : (moveOffs off n).length = n := by simp [moveOffs]

theorem moveCount_eq (n : W64) : moveCount n = n.toNat % 2 ^ 31 := by simp [moveCount, bitsOf]

/-- The write of a `fput` that has read its source (R313). -/
theorem State.runMove_fput {tok : W64} {os locs : List Nat} (hd : d.stage = 1) (hw : s.cmdWaits d tok os [] = false) :
    let r := s.tokWrite d.who d.uid (2 ^ 20) tok (os.zip ((List.range os.length).map fun j => d.opB.getD j 0)) none .cr
      ⟨none, .units, fun _ => true, some .any⟩
    (r.data = none → s.runMove d none (d.move true tok os locs) State.finishCmd = r.s) ∧
    (r.data.isSome = true → s.runMove d none (d.move true tok os locs) State.finishCmd = r.s.finishCmd d r.acct) := by
  intro r
  have key := State.runMove_written (m := d.move true tok os locs) (fin := State.finishCmd) (by rw [hd]; exact Nat.one_ne_zero) hw
  have bytes : (d.move true tok os locs).slots.map (fun j => match j with | some j => d.opB.getD j 0 | none => 0) =
      (List.range os.length).map fun j => d.opB.getD j 0 := by simp [Cmd.move]
  rw [bytes] at key
  have key : s.runMove d none (d.move true tok os locs) State.finishCmd = match r.data with | none => r.s | some _ => r.s.finishCmd d r.acct := key
  refine ⟨fun h => by rw [key, h], fun h => ?_⟩
  obtain ⟨x, hx⟩ := Option.isSome_iff_exists.mp h
  rw [key, hx]

/-! ## Remote atomics, barriers (R314, R319) -/

/-- The operands that a remote atomic sends (R305, R314). -/
def famoOperands (o : FamoOp) (a b : W64) : List W64 :=
  match o with
  | .cas => [a, b]
  | _ => [a]

section
variable (hc : s.fabCmd e u = some d) (hs : d.started = true)
include hc hs

theorem exec_famoComplete {o : FamoOp} {sc : Scope} {wide : Bool} {tok off a b : W64} {l : List Byte} (hb : d.body = .famo o sc wide tok off a b)
    (ha : tokRemote tok = true → s.famoAhead e d = false)
    (hw : s.cmdWaits d tok (offs (alignTo (if wide then 8 else 4) off.toNat) (if wide then 8 else 4)) [] = false) :
    let n := if wide then 8 else 4
    let g := s.tokAtomic d.who u 0 tok (alignTo n off.toNat) n true true sc 2 (FamoOp.code o) (operandBytes n (famoOperands o a b)) (famoNew o n a b)
    g.data = some l →
    exec (.famoComplete e u) s = .next ((g.s.modCore d.core fun k => k.giveResults d.q d.x u (some (BitVec.ofNat 64 (natOfBytes l))) none
      false).finishCmd d g.acct) := by
  intro n g hg
  have hahead : (tokRemote tok && s.famoAhead e d) = false := by
    cases h : tokRemote tok with
    | false => rfl
    | true => exact ha h
  have answered : ∀ r : Got, r = g → (match r.data with
      | none => r.s
      | some l => (r.s.modCore d.core fun k => k.giveResults d.q d.x u (some (BitVec.ofNat 64 (natOfBytes l))) none false).finishCmd d r.acct) =
      (g.s.modCore d.core fun k => k.giveResults d.q d.x u (some (BitVec.ofNat 64 (natOfBytes l))) none false).finishCmd d g.acct := by
    rintro r rfl
    rw [hg]
  change execFamoComplete e u s = _
  simp only [execFamoComplete, State.fabRunning_of_started hc hs, hb, hahead, hw, Bool.or_self, Bool.false_eq_true, if_false]
  exact congrArg Host.Outcome.next (answered _ (by cases o <;> rfl))

theorem exec_fbarComplete {g : Fin 64} (hb : d.body = .fbar g) :
    exec (.fbarComplete e u) s = .next (match s.groupFor d.core g with
      | none => s.refuseFab d
      | some (rank, parties) =>
        if d.stage = 2 && (otherRanks parties.length rank).all fun q => decide (((d.parts.head?).map (·.1)).getD 0 ≤ ((s.dies.at e).bar g).of q) then
          s.finishCmd d (s.answerAcct e u ((otherRanks parties.length rank).map (2 ^ 20 + ·)))
        else s) := by
  change execFbarComplete e u s = _
  simp only [execFbarComplete, State.fabRunning_of_started hc hs, hb] <;> rfl

theorem exec_fbarStart {g : Fin 64} (hb : d.body = .fbar g) {rank : Nat} {parties : List (Fin 64)} (hd : d.stage = 0)
    (hg : (s.modCmd u fun d => { d with started := true }).groupFor d.core g = some (rank, parties)) :
    let v := (s.modCmd u fun d => { d with started := true }).mergeCore d.core
    let b := (v.dies.at e).bar g
    let asks := (otherRanks parties.length rank).map fun q => d.ask (2 ^ 20 + q) (parties.getD q 0) 3 9 0 (groupTarget (b.made + 1) rank g) []
    let w := (v.modDie e fun k => k.setBar { b with made := b.made + 1 }).askAll e u asks
    v.coreWritesOut d.core = false →
    exec (.fbarStart e u) s = .next (w.modCmd u fun _ =>
      { d with stage := if w.allAsked e u (asks.map (·.piece)) then 2 else 1, parts := [(b.made + 1, true)] }) := by
  intro v b asks w hout
  change execFbarStart e u s = _
  simp only [execFbarStart, hc, hb, hs, Bool.not_true, Bool.false_and, Bool.false_eq_true, if_false]
  rw [hg]
  have h0 : (decide (d.stage = 2) || v.coreWritesOut d.core) = false := by simp [hd, hout]
  have h1 : ¬ d.stage = 1 := by simp [hd]
  simp only [h0, h1, v] at *
  rfl

end

/-! ## The transposing all-to-all (R315 to R317) -/

/-- A party that an `xall` cannot reach, or whose READY it could not be told (R317). -/
def State.lostParty (s : State) (e : Fin 4) (u : Nat) (parties : List (Fin 64)) (q : Nat) : Bool :=
  (s.hub.fab.path (s.hub.fab.dieAddr e).val (parties.getD q 0).val).isNone || (s.answerOf e u (2 ^ 20 + q)).any (·.failed)

section
variable {tok off src loc so : W64} {g : Fin 64} {rank : Nat} {parties : List (Fin 64)}

theorem State.xallStart_asks (hg : s.groupFor d.core g = some (rank, parties)) (hd : d.stage = 1) :
    let asks := (otherRanks parties.length rank).map fun q => d.ask (2 ^ 20 + q) (parties.getD q 0) 3 6 0 (groupTarget 0 rank g) d.opA
    let w := s.askAll d.who.die d.uid asks
    s.xallStart d k loc g = w.modCmd d.uid fun _ => if w.allAsked d.who.die d.uid (asks.map (·.piece)) then { d with stage := 2 } else d := by
  unfold State.xallStart
  rw [hg]
  simp only [hd, if_true]

theorem exec_xallStart (hc : s.fabCmd e u = some d) (hs : d.started = true) (hu : d.uid = u) (he : dieOf d.core = e)
    (hb : d.body = .xall tok off src loc so g) (hw : ((s.modCmd u fun d => { d with started := true }).core d.core).wins = d.wins) (hd : d.stage = 1)
    (hg : (s.modCmd u fun d => { d with started := true }).groupFor d.core g = some (rank, parties)) :
    let asks := (otherRanks parties.length rank).map fun q => d.ask (2 ^ 20 + q) (parties.getD q 0) 3 6 0 (groupTarget 0 rank g) d.opA
    let w := (s.modCmd u fun d => { d with started := true }).askAll e u asks
    exec (.xallStart e ⟨u, k⟩) s = .next (w.modCmd u fun _ => if w.allAsked e u (asks.map (·.piece)) then { d with stage := 2 } else d) := by
  have started : { d with started := true } = d := by cases d; cases hs; rfl
  have first : d.stage < 2 := by rw [hd]; exact Nat.one_lt_two
  subst hu he
  have goes : execXallStart (dieOf d.core) ⟨d.uid, k⟩ s =
      .next ((s.modCmd d.uid fun d => { d with started := true }).xallStart d k loc g) := by
    simp only [execXallStart, hc, started]
    simp only [hb, hs, Bool.not_true, Bool.false_and, Bool.false_eq_true, if_false, State.viewWins_of_same hw.symm, first, if_true]
  exact goes.trans (congrArg Host.Outcome.next (State.xallStart_asks hg hd))

variable (hc : s.fabCmd e u = some d) (hs : d.started = true) (hu : d.uid = u) (he : dieOf d.core = e) (hb : d.body = .xall tok off src loc so g)

include hc hs hb in
theorem exec_xallComplete (hd : 2 ≤ d.stage) : exec (.xallComplete e ⟨u, k⟩) s = .next (s.xallRun d k tok off src so g) := by
  have h2 : ¬ d.stage < 2 := Nat.not_lt.mpr hd
  change execXallComplete e ⟨u, k⟩ s = _
  simp only [execXallComplete, State.fabRunning_of_started hc hs, hb, h2, if_false]

theorem State.xallRun_refused (hg : s.groupFor d.core g = none) : s.xallRun d k tok off src so g = s.refuseFab d := by
  simp only [State.xallRun, hg]

section
variable (hg : s.groupFor d.core g = some (rank, parties))
include hg

/-- An `xall` that has sent its READYs, once its group is found (R317). -/
theorem State.xallRun_compares (hd : d.stage = 2) :
    let others := otherRanks parties.length rank
    let lost := s.lostParty d.who.die d.uid parties
    let here := fun q => (s.dies.at d.who.die).readyOf g q
    s.xallRun d k tok off src so g =
      if others.any fun q => !lost q && (here q).isNone then s
      else if d.opA.isEmpty || others.any fun q => lost q || (here q).all fun r => r.desc != d.opA then
        (s.modDie d.who.die fun e => e.useReady g others).refuseFab d
      else (s.modDie d.who.die fun e => e.useReady g others).modCmd d.uid fun d => { d with stage := 3 } := by
  simp only [State.xallRun, hg, hd, if_true]
  rfl

theorem State.xallRun_waits (hd : d.stage = 2)
    (h : ∃ q ∈ otherRanks parties.length rank, s.lostParty d.who.die d.uid parties q = false ∧ (s.dies.at d.who.die).readyOf g q = none) :
    s.xallRun d k tok off src so g = s := by
  rw [State.xallRun_compares hg hd]
  refine if_pos (List.any_eq_true.mpr ?_)
  obtain ⟨q, hq, hl, hr⟩ := h
  exact ⟨q, hq, by simp [hl, hr]⟩

theorem State.xallRun_agrees (hd : d.stage = 2)
    (h : ∀ q ∈ otherRanks parties.length rank, s.lostParty d.who.die d.uid parties q = false ∧
      ∃ r, (s.dies.at d.who.die).readyOf g q = some r ∧ r.desc = d.opA) (ha : d.opA ≠ []) :
    s.xallRun d k tok off src so g =
      (s.modDie d.who.die fun e => e.useReady g (otherRanks parties.length rank)).modCmd d.uid fun d => { d with stage := 3 } := by
  rw [State.xallRun_compares hg hd]
  refine (if_neg ?_).trans (if_neg ?_)
  · simp only [List.any_eq_true, not_exists, not_and]
    intro q hq
    obtain ⟨hl, r, hr, -⟩ := h q hq
    simp [hr]
  · simp only [Bool.or_eq_true, List.any_eq_true, not_or, not_exists, not_and]
    refine ⟨by simpa using ha, fun q hq => ?_⟩
    obtain ⟨hl, r, hr, hdesc⟩ := h q hq
    simp [hl, hr, hdesc]

theorem State.xallRun_differs (hd : d.stage = 2)
    (h : ∀ q ∈ otherRanks parties.length rank, s.lostParty d.who.die d.uid parties q = true ∨
      ((s.dies.at d.who.die).readyOf g q).isSome = true)
    (ha : d.opA = [] ∨ ∃ q ∈ otherRanks parties.length rank, s.lostParty d.who.die d.uid parties q = true ∨
      ∃ r, (s.dies.at d.who.die).readyOf g q = some r ∧ r.desc ≠ d.opA) :
    s.xallRun d k tok off src so g = (s.modDie d.who.die fun e => e.useReady g (otherRanks parties.length rank)).refuseFab d := by
  rw [State.xallRun_compares hg hd]
  refine (if_neg ?_).trans (if_pos ?_)
  · simp only [List.any_eq_true, not_exists, not_and]
    intro q hq
    rcases h q hq with hl | hr
    · simp [hl]
    · obtain ⟨r, hr⟩ := Option.isSome_iff_exists.mp hr
      simp [hr]
  · rw [Bool.or_eq_true]
    refine ha.imp (fun h => by simp [h]) fun ⟨q, hq, hl⟩ => List.any_eq_true.mpr ⟨q, hq, ?_⟩
    rcases hl with hl | ⟨r, hr, hdesc⟩
    · simp [hl]
    · simp [hr, hdesc]

theorem State.xallRun_ends (hd : d.stage = 5) {ds : Desc} (hds : readDesc parties.length d.opA = some ds) :
    let asks := d.xallAsks ds rank parties g
    let w := s.askAll d.who.die d.uid asks
    w.allAnswered d.who.die d.uid asks = true → (d.parts.map (·.1)).sum = ds.expected parties.length rank →
    s.xallRun d k tok off src so g = w.finishCmd d (w.answerAcct d.who.die d.uid (asks.map (·.piece))) := by
  intro asks w hall hsum
  have h2 : ¬ d.stage = 2 := by simp [hd]
  have h5 : ¬ d.stage < 5 := by simp [hd]
  have done : (w.allAnswered d.who.die d.uid asks && (d.parts.map (·.1)).sum == ds.expected parties.length rank) = true := by
    simp [hall, hsum]
  simp only [State.xallRun, hg, h2, if_false, hds, h5]
  exact if_pos done

end
end

/-- Settles O42, by the lemmas above on each command and each of its stages. -/
theorem fabricCommands : Obligations.FabricCommands := by
  unfold Obligations.FabricCommands
  refine ⟨fun s e u k d hc hs hu => ?_, fun s e u k d tok off src loc so g rank parties hc hs hu he hb => ?_⟩
  · subst hu
    intro failed
    refine ⟨fun tok off loc cnt hbody hw i hi => ?_, fun o sc wide tok off a b l hb => ?_, fun t v tok off src g hb hw => ?_, fun g hb => ?_⟩
    · intro n
      have count : moveCount cnt = n := moveCount_eq cnt
      rcases hi with ⟨rfl, hb⟩ | ⟨rfl, hb⟩
      · have goes := exec_fputComplete (k := k) hc hs hw hb
        rw [count] at goes
        refine ⟨fun h => ?_, fun h => ?_, fun h0 h1 hd hi hk hwait => ?_, fun _ _ _ hi => (by cases hi)⟩
        · rw [goes, if_pos h]
          rfl
        · rw [goes, h]
          rfl
        · subst hk
          have write := State.runMove_fput (s := s) (tok := tok) (locs := moveLocs loc n) hd hwait
          rw [moveOffs_length] at write
          rw [goes, if_neg (Nat.not_lt.mpr h1), if_neg (Nat.ne_of_gt h0)]
          exact ⟨fun h => congrArg _ (write.1 h), fun h => congrArg _ (write.2 h)⟩
      · have goes := exec_fgetComplete (k := k) hc hs hw hb
        rw [count] at goes
        refine ⟨fun h => ?_, fun h => ?_, fun _ _ _ hi => (by cases hi), fun h0 h1 hd _ hp => ?_⟩
        · rw [goes, if_pos h]
          rfl
        · rw [goes, h]
          rfl
        · have posted : s.postedOf d = false := by simpa [State.postedOf] using hp
          rw [goes, if_neg (Nat.not_lt.mpr h1), if_neg (Nat.ne_of_gt h0), if_pos hd, posted]
          rfl
    · intro n ha hw g hg
      exact exec_famoComplete hc hs hb ha hw hg
    · refine ⟨fun hg => exec_fredComplete_refused hc hs hw hb hg, fun rank parties hg => ?_⟩
      exact exec_fredComplete hc hs hw hb hg
    · have goes := exec_fbarComplete hc hs hb
      refine ⟨fun hg => by rw [goes, hg]; rfl, fun rank parties hg => ?_⟩
      intro m b others
      rw [hg] at goes
      refine ⟨fun hd hall => ?_, fun h => ?_, ?_⟩
      · rw [goes]
        refine congrArg _ (if_pos ?_)
        simpa [hd] using hall
      · rw [goes]
        refine congrArg _ (if_neg ?_)
        simp only [Bool.and_eq_true, decide_eq_true_eq, List.all_eq_true, not_and, not_forall, Nat.not_le]
        intro hd
        obtain ⟨q, hq, hlt⟩ := h.resolve_left (not_not.mpr hd)
        exact ⟨q, hq, hlt⟩
      · intro v hgroup hd hout
        exact exec_fbarStart hc hs hb hd hgroup hout
  · intro others
    have runs := fun hd => exec_xallComplete (k := k) hc hs hb hd
    refine ⟨?_, fun hg => ?_, fun hg hd => by rw [runs hd, State.xallRun_refused hg]; rfl⟩
    · intro v hw hd hg
      exact exec_xallStart hc hs hu he hb hw hd hg
    · subst hu he
      intro lost ready
      refine ⟨fun hd h => ?_, fun hd h ha => ?_, fun hd h ha => ?_, fun ds hd hds => ?_⟩
      · rw [runs (by rw [hd]), State.xallRun_waits hg hd h]
      · rw [runs (by rw [hd]), State.xallRun_agrees hg hd h ha]
        rfl
      · rw [runs (by rw [hd]), State.xallRun_differs hg hd h ha]
        rfl
      · intro asks w hall hsum
        rw [runs (by rw [hd]; decide)]
        exact congrArg _ (State.xallRun_ends hg hd hds hall hsum)

end Sys2Proof.Machine
end

section
/-! PROOFS. Corrected errors, scrubs, rails, power and temperature (R280, R281, R369, R370, R373, R374). -/

namespace Sys2Proof.Machine

variable {s : State}

/-! ## Corrected errors (R369, R370) -/

theorem Errors.countOf_counted (e : Errors) (n o : ErrInst) (w : List (ErrInst × Nat))
    (hw : w = (n, e.countOf n + 1) :: e.counts.filter fun x => x.1 != n) :
    Errors.countOf { e with counts := w } o = if o = n then e.countOf n + 1 else e.countOf o := by
  subst hw
  by_cases h : o = n
  · simp [Errors.countOf, h]
  · have hn : (n == o) = false := beq_false_of_ne (Ne.symm h)
    simp only [Errors.countOf, List.find?_cons, hn, find?_filter_key (fun x : ErrInst × Nat => x.1), if_neg h]

/-- Memory, the cores and the number of the error window are as they were. -/
structure State.KeepsWindow (s t : State) : Prop where
  mem : t.mem = s.mem
  cores : t.cores = s.cores
  window : t.hub.errors.window = s.hub.errors.window

namespace State.KeepsWindow

theorem refl (s : State) : s.KeepsWindow s := ⟨rfl, rfl, rfl⟩

theorem trans {s t u : State} (h : s.KeepsWindow t) (g : t.KeepsWindow u) : s.KeepsWindow u :=
  ⟨g.mem.trans h.mem, g.cores.trans h.cores, g.window.trans h.window⟩

theorem foldl {α : Type} {f : State → α → State} (h : ∀ t a, State.KeepsWindow t (f t a)) (l : List α) (s : State) :
    s.KeepsWindow (l.foldl f s) :=
  List.foldlRecOn (motive := fun t => s.KeepsWindow t) l f (refl s) fun t ht a _ => ht.trans (h t a)

theorem setReplace (s : State) (unit : Fin 5) (bit : Fin 3) (addr what : Nat) : s.KeepsWindow (s.setReplace unit bit addr what) := by
  unfold State.setReplace
  split <;> exact ⟨rfl, rfl, rfl⟩

theorem badSector (s : State) (n : Nat) : s.KeepsWindow (s.badSector n) := by
  unfold State.badSector
  split
  · exact setReplace ..
  · exact ⟨rfl, rfl, rfl⟩

theorem govern (s : State) (n : ErrInst) (low : Option (Fin 4)) : s.KeepsWindow (s.govern n low) := by
  cases low with
  | some d => exact ⟨rfl, rfl, rfl⟩
  | none =>
    simp only [State.govern]
    split
    · exact (⟨rfl, rfl, rfl⟩ : s.KeepsWindow (s.modErrors fun e => { e with strikes := (n, s.hub.errors.window) :: e.strikes })).trans
        (setReplace ..)
    · exact ⟨rfl, rfl, rfl⟩

end State.KeepsWindow

/-- A sector that comes to be found bad keeps the poison that stands. -/
theorem State.badSector_poison (s : State) (n : Nat) : (s.badSector n).poison = s.poison := by
  unfold State.badSector State.setReplace
  split
  · split <;> rfl
  · rfl

/-- An array past its threshold is recorded and acted on (R369, R370). -/
def State.judge (rails : Power) (s : State) (x : ErrInst × Nat) : State :=
  (s.scree (instUnit x.1) 0x10 (BitVec.ofNat 64 (x.2 * 2 ^ 32 + instCode x.1))).govern x.1 (rails.lowRail x.1)

theorem exec_errorWindowEnd (s : State) :
    exec .errorWindowEnd s = .next (((s.hub.errors.counts.filter fun x => decide (threshold x.1 < x.2)).foldl (State.judge s.hub.power) s).modErrors
      fun e => { e with counts := [], window := e.window + 1 }) := rfl

theorem State.KeepsWindow.judge (rails : Power) (s : State) (x : ErrInst × Nat) : s.KeepsWindow (State.judge rails s x) :=
  (⟨rfl, rfl, rfl⟩ : s.KeepsWindow (s.scree ..)).trans (.govern ..)

theorem exec_patrolScrub_outside {n : ErrInst} {a : Nat} {r : ScrubResult} (h : s.inMap a 1 = false) : exec (.patrolScrub n a r) s = .next s := by
  change execPatrolScrub n a r s = _
  simp [execPatrolScrub, h]

theorem exec_patrolScrub {n : ErrInst} {a : Nat} (h : s.inMap a 1 = true) :
    exec (.patrolScrub n a .clean) s = .next s ∧ exec (.patrolScrub n a .corrected) s = .next (s.countCorrected n) ∧
    exec (.patrolScrub n a .uncorrectable) s = .next (State.badSector { s with
      poison := if s.poison.contains (sectorOf (memKey 0 a)) then s.poison else sectorOf (memKey 0 a) :: s.poison } (sectorOf (memKey 0 a))) := by
  have goes (r : ScrubResult) (v) (hv : execPatrolScrub n a r s = v) : exec (.patrolScrub n a r) s = v := hv
  refine ⟨goes _ _ ?_, goes _ _ ?_, goes _ _ ?_⟩ <;> simp [execPatrolScrub, h]

/-! ## Rails (R280, R373) -/

theorem railNum_vcore (d : Fin 4) : (railNum (.vcore d)).val = d.val := by fin_cases d <;> rfl
theorem railNum_vsram (d : Fin 4) : (railNum (.vsram d)).val = 4 + d.val := by fin_cases d <;> rfl

/-- The least voltage of a rail: the nominal one where its undervolting has been withdrawn (R370, R373). -/
def State.railFloor (s : State) (r : Rail) : Nat :=
  if s.hub.errors.floors.getLsbD (railNum r).val then (railRange r).2.2 else (railRange r).1

/-- A voltage within the range of a rail and not below its floor. -/
def State.railOk (s : State) (r : Rail) (m : Nat) : Prop := s.railFloor r ≤ m ∧ m ≤ (railRange r).2.1

section
variable {r : Rail} {m : Nat}

theorem exec_railAdjust_outside (h : ¬ s.railOk r m) : exec (.railAdjust r m) s = .next s := by
  have out : m < s.railFloor r ∨ (railRange r).2.1 < m := by
    by_contra hn
    exact h ⟨Nat.not_lt.mp fun a => hn (.inl a), Nat.not_lt.mp fun a => hn (.inr a)⟩
  have out : (decide (m < s.railFloor r) || decide ((railRange r).2.1 < m)) = true := by simpa using out
  exact congrArg Host.Outcome.next (if_pos out)

theorem exec_railAdjust (h : s.railOk r m) :
    exec (.railAdjust r m) s = .next (if s.hub.power.rail r ≤ m || s.hub.power.lowering.at (railNum r) == some m then s.setRail r m else s.lowerRail r m) := by
  obtain ⟨low, high⟩ := h
  refine congrArg Host.Outcome.next (if_neg ?_)
  simp only [Bool.or_eq_true, decide_eq_true_eq, not_or, Nat.not_lt]
  exact ⟨low, high⟩

theorem exec_railAdjust_lowers (h : s.railOk r m) (hm : m < s.hub.power.rail r) (hl : s.hub.power.lowering.at (railNum r) ≠ some m) :
    exec (.railAdjust r m) s = .next (s.lowerRail r m) := by
  rw [exec_railAdjust h, if_neg]
  simpa using ⟨hm, hl⟩

theorem exec_railAdjust_stands (h : s.railOk r m) (hm : s.hub.power.rail r ≤ m ∨ s.hub.power.lowering.at (railNum r) = some m) :
    exec (.railAdjust r m) s = .next (s.setRail r m) := by
  rw [exec_railAdjust h, if_pos]
  simpa using hm

end

theorem State.lowerRail_spec (s : State) (r : Rail) (m : Nat) :
    (s.lowerRail r m).mem = s.mem ∧ (s.lowerRail r m).cores = s.cores ∧ (∀ q, (s.lowerRail r m).hub.power.rail q = s.hub.power.rail q) ∧
    (s.lowerRail r m).hub.power.lowering.at (railNum r) = some m ∧
    ∀ d, ((s.lowerRail r m).dies.at d).dected = ((s.dies.at d).dected || (decide (r = .vsram d) && decide (m < Config.l2Threshold))) := by
  cases r with
  | vcore e =>
    refine ⟨rfl, rfl, fun q => by cases q <;> rfl, File.at_put_self .., fun d => ?_⟩
    change (s.dies.at d).dected = _
    simp
  | vsram e =>
    refine ⟨rfl, rfl, fun q => by cases q <;> rfl, File.at_put_self .., fun d => ?_⟩
    change ((s.dies.mod e _).at d).dected = _
    rw [File.at_mod]
    by_cases h : e = d
    · subst h
      simp
    · simp [h]

theorem State.setRail_spec (s : State) (r : Rail) (m : Nat) :
    (s.setRail r m).mem = s.mem ∧ (s.setRail r m).cores = s.cores ∧ (s.setRail r m).hub.power.rail r = m ∧
    (s.setRail r m).hub.power.lowering.at (railNum r) = none ∧ (∀ q, q ≠ r → (s.setRail r m).hub.power.rail q = s.hub.power.rail q) ∧
    ∀ d, ((s.setRail r m).dies.at d).dected = (if r = .vsram d then
      decide (m < Config.l2Threshold) || ((s.dies.at d).dected && m == Config.l2Threshold) else (s.dies.at d).dected) := by
  cases r with
  | vcore e =>
    refine ⟨rfl, rfl, File.at_put_self .., File.at_put_self .., fun q hq => ?_, fun d => ?_⟩
    · cases q with
      | vcore d => exact File.at_put_ne _ (fun h => hq (by rw [h])) _
      | vsram d => rfl
    · change (s.dies.at d).dected = _
      simp
  | vsram e =>
    refine ⟨rfl, rfl, File.at_put_self .., File.at_put_self .., fun q hq => ?_, fun d => ?_⟩
    · cases q with
      | vcore d => rfl
      | vsram d => exact File.at_put_ne _ (fun h => hq (by rw [h])) _
    · change ((s.dies.mod e fun k => k.railAt m).at d).dected = _
      rw [File.at_mod]
      by_cases h : e = d
      · subst h
        simp [Die.railAt]
      · simp [h]

/-! ## What a reset of a virtual function leaves of the queues (R358) -/

/-- The same partitions are configured, and no queue has come to be. -/
structure State.Unqueues (s t : State) : Prop where
  parts : ∀ v, (t.hub.parts.at v).isSome = (s.hub.parts.at v).isSome
  queues : ∀ e ∈ t.hub.queues, ∃ f ∈ s.hub.queues, f.1.num = e.1.num ∧ f.1.part = e.1.part

namespace State.Unqueues

theorem of_hub {s t : State} (hp : t.hub.parts = s.hub.parts) (hq : ∀ e ∈ t.hub.queues, e ∈ s.hub.queues) : s.Unqueues t :=
  ⟨fun v => by rw [hp], fun e he => ⟨e, hq e he, rfl, rfl⟩⟩

theorem refl (s : State) : s.Unqueues s := of_hub rfl fun _ => id

theorem trans {s t u : State} (h : s.Unqueues t) (g : t.Unqueues u) : s.Unqueues u := by
  refine ⟨fun v => (g.parts v).trans (h.parts v), fun e he => ?_⟩
  obtain ⟨f, hf, fnum, fpart⟩ := g.queues e he
  obtain ⟨k, hk, knum, kpart⟩ := h.queues f hf
  exact ⟨k, hk, knum.trans fnum, kpart.trans fpart⟩

theorem foldl {α : Type} {f : State → α → State} (h : ∀ t a, State.Unqueues t (f t a)) (l : List α) (s : State) :
    s.Unqueues (l.foldl f s) :=
  List.foldlRecOn (motive := fun t => s.Unqueues t) l f (refl s) fun t ht a _ => ht.trans (h t a)

theorem of_taken {s t : State} (h : s.KeepsTaken t) : s.Unqueues t := by
  refine ⟨fun v => by rw [h.parts], fun e he => ?_⟩
  have : takenOf e ∈ s.hub.queues.map takenOf := h.queues ▸ List.mem_map_of_mem he
  obtain ⟨f, hf, same⟩ := List.mem_map.mp this
  exact ⟨f, hf, congrArg (fun x => x.1.num) same, congrArg (fun x => x.1.part) same⟩

theorem modQueue (s : State) (q : Fin 4096) {f : Queue × QueueWork → Queue × QueueWork}
    (h : ∀ e, (f e).1.num = e.1.num ∧ (f e).1.part = e.1.part) : s.Unqueues (s.modQueue q f) := by
  refine ⟨fun _ => rfl, fun e he => ?_⟩
  obtain ⟨g, hg, rfl⟩ := List.mem_map.mp he
  refine ⟨g, hg, ?_⟩
  split
  · exact ⟨(h g).1.symm, (h g).2.symm⟩
  · exact ⟨rfl, rfl⟩

theorem modHub (s : State) {f : Hub → Hub} (hp : ∀ h, (f h).parts = h.parts) (hq : ∀ h, (f h).queues = h.queues) : s.Unqueues (s.modHub f) :=
  of_hub (hp _) fun _ he => by rwa [State.modHub, hq] at he

theorem dropCopies (s : State) (line : Nat) : s.Unqueues (s.dropCopies line) := of_hub rfl fun _ => id

theorem homePut (s : State) (keys : List Nat) (b : List Byte) : s.Unqueues (s.homePut keys b) := by
  have write (s : State) (line : Nat) : s.Unqueues (s.homeWrite line) := (of_taken (State.KeepsTaken.merging.homeRead s line)).trans (dropCopies ..)
  have put (s : State) (kv : List (Nat × Byte)) : s.Unqueues (s.putBytes kv) := by
    unfold State.putBytes State.cleanse
    dsimp only
    split <;> exact of_hub rfl fun _ => id
  exact (foldl write ..).trans (put ..)

theorem interrupt (s : State) (k : Queue) : s.Unqueues (s.interrupt k) := by
  unfold State.interrupt State.msi
  exact (modQueue s k.num (by intro e; exact ⟨rfl, rfl⟩)).trans (modHub _ (by intro h; rfl) (by intro h; rfl))

theorem recordWrite {s t : State} {q : Fin 4096} (h : execCompletionRecordWrite q s = .next t) : s.Unqueues t := by
  unfold execCompletionRecordWrite at h
  split at h
  · cases h
    exact refl s
  next k w hq =>
    split at h
    · cases h
      exact refl s
    next r rest hw =>
      split at h
      · cases h
        exact refl s
      · split at h
        · cases h
        · cases h
          have written : s.Unqueues (((s.homePut ((List.range 64).map (ringKey k.host k.cring k.clsize k.ctail + ·)) r.bytes)).modQueue q fun e =>
              ({ e.1 with ctail := e.1.ctail + 1 }, { e.2 with waiting := rest, unreported := w.unreported + 1, oldest := if w.unreported = 0 then
                (s.homePut ((List.range 64).map (ringKey k.host k.cring k.clsize k.ctail + ·)) r.bytes).hub.timer.toNat else w.oldest })) :=
            (homePut ..).trans (modQueue _ q (by intro e; exact ⟨rfl, rfl⟩))
          split
          · exact written.trans (interrupt ..)
          · exact written

theorem flrCore (s : State) (c : CoreId) : s.Unqueues (s.flrCore c) := by
  unfold State.flrCore
  dsimp only
  split <;> exact of_hub rfl fun _ => id

end State.Unqueues

/-- A queue that is reset is gone, and no other has come to be. -/
theorem State.flrQueue_spec (s : State) (q : Fin 4096) : s.Unqueues (s.flrQueue q) ∧ ∀ e ∈ (s.flrQueue q).hub.queues, e.1.num ≠ q := by
  unfold State.flrQueue
  split
  next h => exact ⟨.refl s, fun e he hn => by simpa [hn] using List.find?_eq_none.mp h e he⟩
  next k w h =>
    dsimp only
    have writes (t : State) (r : Rec) : t.Unqueues (match execCompletionRecordWrite q t with | .next u => u | _ => t) := by
      cases h : execCompletionRecordWrite q t with
      | next u => exact .recordWrite h
      | fault _ => exact .refl t
      | refused _ => exact .refl t
    generalize hu : List.foldl _ _ _ = u
    have drained : s.Unqueues u := by
      rw [← hu]
      exact (State.Unqueues.modQueue s q (by intro e; exact ⟨rfl, rfl⟩)).trans (State.Unqueues.foldl writes _ _)
    have gone (v : State) (told : u.Unqueues v) :
        let t := v.modHub fun h => { h with queues := h.queues.filter fun e => e.1.num != q }
        s.Unqueues t ∧ ∀ e ∈ t.hub.queues, e.1.num ≠ q :=
      ⟨(drained.trans told).trans (.of_hub rfl fun e he => (List.mem_filter.mp he).1), fun e he => by simpa using (List.mem_filter.mp he).2⟩
    split
    · split
      · exact gone _ (.interrupt ..)
      · exact gone _ (.refl u)
    · exact gone _ (.refl u)

/-- The queues of numbers that have been reset are gone. -/
theorem State.flrQueues_spec (qs : List (Fin 4096)) (s : State) :
    s.Unqueues (qs.foldl State.flrQueue s) ∧ ∀ e ∈ (qs.foldl State.flrQueue s).hub.queues, e.1.num ∉ qs := by
  induction qs generalizing s with
  | nil => exact ⟨.refl s, fun _ _ => List.not_mem_nil⟩
  | cons q qs ih =>
    obtain ⟨one, gone⟩ := s.flrQueue_spec q
    obtain ⟨rest, others⟩ := ih (s.flrQueue q)
    refine ⟨one.trans rest, fun e he hm => ?_⟩
    obtain ⟨f, hf, same, -⟩ := rest.queues e he
    rcases List.mem_cons.mp hm with h | h
    · exact gone f hf (same.trans h)
    · exact others e he h

theorem State.flr_unqueues (s : State) (v : Fin 16) : s.Unqueues (s.flr v) := by
  unfold State.flr
  split
  · exact .refl s
  · refine ((State.Unqueues.foldl State.Unqueues.flrCore _ _).trans (State.flrQueues_spec _ _).1).trans ⟨fun w => ?_, fun e he => ⟨e, he, rfl, rfl⟩⟩
    dsimp only [State.modHub]
    rw [File.at_mod]
    split
    · next h => rw [h, Option.isSome_map]
    · rfl

/-- The reset of a configured virtual function leaves none of its queues. -/
theorem State.flr_queues {s : State} {v : Fin 16} (hv : (s.hub.parts.at v).isSome = true) :
    ∀ e ∈ (s.flr v).hub.queues, e.1.part ≠ v := by
  obtain ⟨t, ht⟩ := Option.isSome_iff_exists.mp hv
  unfold State.flr
  rw [ht]
  intro e he hp
  let qs := (s.hub.queues.filter fun e => e.1.part == v).map (·.1.num)
  obtain ⟨kept, gone⟩ := State.flrQueues_spec qs ((coreIds.filter t.has).foldl State.flrCore s)
  obtain ⟨f, hf, fnum, fpart⟩ := ((State.Unqueues.foldl State.Unqueues.flrCore (coreIds.filter t.has) s).trans kept).queues e he
  refine gone e he (List.mem_map.mpr ⟨f, List.mem_filter.mpr ⟨hf, ?_⟩, fnum⟩)
  simpa [fpart] using hp

/-- After the reset of some virtual functions every queue left belongs to another partition. -/
theorem State.flrs_spec (vs : List (Fin 16)) (s : State) :
    s.Unqueues (vs.foldl State.flr s) ∧
    ∀ v ∈ vs, (s.hub.parts.at v).isSome = true → ∀ e ∈ (vs.foldl State.flr s).hub.queues, e.1.part ≠ v := by
  induction vs generalizing s with
  | nil => exact ⟨.refl s, fun _ h => absurd h List.not_mem_nil⟩
  | cons v vs ih =>
    obtain ⟨rest, others⟩ := ih (s.flr v)
    have one := s.flr_unqueues v
    refine ⟨one.trans rest, fun w hw hs e he hp => ?_⟩
    rcases List.mem_cons.mp hw with rfl | hw
    · obtain ⟨f, hf, -, fpart⟩ := rest.queues e he
      exact State.flr_queues hs f hf (fpart.trans hp)
    · exact others w hw (by rw [one.parts, hs]) e he hp

theorem State.settleUpdates_taken (s : State) : s.KeepsTaken s.settleUpdates := by
  refine State.KeepsTaken.merging.foldl (fun s c => ?_) _ _
  split
  · dsimp only
    split
    · exact (State.KeepsTaken.merging.draw s).trans (State.KeepsTaken.merging.mergeCore ..)
    · exact .of_hub rfl
  · exact .refl s

theorem State.setLink_unqueues (s : State) (d : Fin 4) (p : Port) (st : LinkState) : s.Unqueues (s.setLink d p st) := by
  unfold State.setLink
  split
  · exact .refl s
  · dsimp only
    cases sibling d p <;> exact .of_hub rfl fun _ => id

/-- Every link of the package is down. -/
def State.linksDown (s : State) : State :=
  (List.finRange 4).foldl (fun s d => [Port.xp, .xm, .yp, .ym, .zp, .zm].foldl (fun s p => s.setLink d p .down) s) s

/-- Nothing of the compute dies stays but their links, and no processor of theirs is watched. -/
def State.diesOff (s : State) : State :=
  { s with cores := File.all 768 Core.reset, setts := File.all 64 Sett.reset, tus := File.all 16 Tu.reset,
           dies := s.dies.map fun e => { Die.reset with links := e.links },
           hub := { s.hub with brock := { s.hub.brock with released := s.hub.brock.released.filter fun e =>
             e.1 == .management || e.1 == .memory || e.1 == .frontEnd } } }

theorem State.powerDown_eq (s : State) : s.powerDown = s.settleUpdates.linksDown.diesOff := by
  unfold State.powerDown State.linksDown State.diesOff
  rfl

theorem State.powerDown_unqueues (s : State) : s.Unqueues s.powerDown := by
  have links (t : State) : t.Unqueues t.linksDown := .foldl (fun s d => .foldl (fun s p => s.setLink_unqueues d p .down) _ s) _ t
  have off (t : State) : t.Unqueues t.diesOff := .of_hub rfl fun _ => id
  rw [State.powerDown_eq]
  exact ((State.Unqueues.of_taken s.settleUpdates_taken).trans (links _)).trans (off _)

theorem State.powerDown_core (s : State) (c : CoreId) : s.powerDown.core c = Core.reset := by
  rw [State.powerDown_eq]
  exact File.at_all ..

theorem State.powerDown_sett (s : State) (g : Fin 64) : s.powerDown.setts.at g = Sett.reset := by
  rw [State.powerDown_eq]
  exact File.at_all ..

/-! ## Temperature (R374) -/

theorem exec_powerCapReached (s : State) (w : BitVec 16) :
    let t := s.modPower fun p => { p with watts := w }
    exec (.powerCapReached w) s = .next (if s.hub.power.cap.toNat < w.toNat then
      (t.modPower fun p => { p with gated := true }).scree 4 0x42 (BitVec.ofNat 64 w.toNat) else t) := rfl

theorem exec_thermalTrip_cool {j : Fin 36} {t : BitVec 16} (h : t.toNat < 110) : exec (.thermalTrip j t) s = .next (s.hotter j t) := if_pos h

/-- What a trip leaves on the hub's side once the dies are off. -/
def State.markTripped (s : State) : State := (s.modPower fun p => { p with tripped := true }).freezeScree

theorem State.markTripped_core (s : State) (c : CoreId) : s.markTripped.core c = s.core c := rfl
theorem State.markTripped_setts (s : State) : s.markTripped.setts = s.setts := rfl
theorem State.markTripped_unqueues (s : State) : s.Unqueues s.markTripped := .of_hub rfl fun _ => id
theorem State.markTripped_marks (s : State) : s.markTripped.hub.power.tripped = true ∧ s.markTripped.hub.frozen = true := ⟨rfl, rfl⟩

theorem exec_thermalTrip {j : Fin 36} {t : BitVec 16} (h : 110 ≤ t.toNat) :
    exec (.thermalTrip j t) s = .next ((List.finRange 16).foldl State.flr ((s.hotter j t).scree (sensorUnit j) 0x41
      (BitVec.ofNat 64 j.val))).powerDown.markTripped := by
  change execThermalTrip j t s = _
  unfold execThermalTrip
  rw [if_neg (Nat.not_lt.mpr h)]
  rfl

/-- Settles O57, by the lemmas above on each event; the queues that a thermal trip leaves are those of no partition, by `flrs_spec`. -/
theorem errorsAndPower : Obligations.ErrorsAndPower := by
  unfold Obligations.ErrorsAndPower
  intro s n a m j t e
  refine ⟨⟨_, rfl, rfl, rfl, ?_, fun o ho => ?_⟩, ⟨_, exec_errorWindowEnd s, ?_⟩, fun r => ⟨fun h => ?_, fun ha hr => ?_, fun ha hr => ?_⟩, ?_,
    ⟨_, rfl, ?_⟩, ⟨_, exec_powerCapReached s t, ?_⟩, fun h => exec_thermalTrip_cool h,
    fun h => ⟨_, exec_thermalTrip h, (State.markTripped_marks _).1, (State.markTripped_marks _).2, fun c => ?_, ?_, fun g => ?_⟩⟩
  · exact (e.countOf_counted n n _ rfl).trans (if_pos rfl)
  · exact (e.countOf_counted n o _ rfl).trans (if_neg ho)
  · have kept := State.KeepsWindow.foldl (State.KeepsWindow.judge s.hub.power)
      (s.hub.errors.counts.filter fun x => decide (threshold x.1 < x.2)) s
    refine ⟨kept.mem, kept.cores, rfl, congrArg (· + 1) kept.window, fun h => ?_⟩
    have none_past : (s.hub.errors.counts.filter fun x => decide (threshold x.1 < x.2)) = [] :=
      List.filter_eq_nil_iff.mpr fun x hx => by simpa using h x hx
    rw [none_past]
    rfl
  · rcases h with h | rfl
    · exact exec_patrolScrub_outside h
    · by_cases ha : s.inMap a 1 = true
      · exact (exec_patrolScrub ha).1
      · exact exec_patrolScrub_outside (Bool.eq_false_iff.mpr ha)
  · subst hr
    exact (exec_patrolScrub ha).2.1
  · subst hr
    have kept := State.KeepsWindow.badSector { s with
      poison := if s.poison.contains (sectorOf (memKey 0 a)) then s.poison else sectorOf (memKey 0 a) :: s.poison } (sectorOf (memKey 0 a))
    refine ⟨_, (exec_patrolScrub ha).2.2, kept.mem, kept.cores, fun x => ?_⟩
    rw [State.badSector_poison]
    by_cases h : sectorOf (memKey 0 a) ∈ s.poison
    · simp only [List.contains_iff_mem, h, if_true]
      exact ⟨.inl, fun hx => hx.elim id fun hx => hx ▸ h⟩
    · simp only [List.contains_iff_mem, h, if_false, List.mem_cons]
      exact Or.comm
  · intro low ok p r
    have okIff : ok r ↔ s.railOk r m := by
      cases r with
      | vcore d => simp only [State.railOk, State.railFloor, railNum_vcore]; rfl
      | vsram d => simp only [State.railOk, State.railFloor, railNum_vsram]; rfl
    rw [okIff]
    exact ⟨exec_railAdjust_outside, fun h hm hl => ⟨_, exec_railAdjust_lowers h hm hl, s.lowerRail_spec r m⟩,
      fun h hm => ⟨_, exec_railAdjust_stands h hm, s.setRail_spec r m⟩⟩
  · by_cases h : 100 ≤ t.toNat
    · rw [if_pos h, decide_eq_true h]
      exact ⟨rfl, rfl, File.at_put_self .., rfl⟩
    · rw [if_neg h, decide_eq_false h]
      exact ⟨rfl, rfl, File.at_put_self .., rfl⟩
  · by_cases h : s.hub.power.cap.toNat < t.toNat
    · rw [if_pos h, decide_eq_true h]
      exact ⟨rfl, rfl, rfl, rfl⟩
    · rw [if_neg h, decide_eq_false h]
      exact ⟨rfl, rfl, rfl, rfl⟩
  · rw [State.markTripped_core, State.powerDown_core]
  · generalize hu : ((s.hotter j t).scree (sensorUnit j) 0x41 (BitVec.ofNat 64 j.val)) = u
    have parts : u.hub.parts = s.hub.parts := by rw [← hu]; rfl
    obtain ⟨-, gone⟩ := State.flrs_spec (List.finRange 16) u
    rw [List.all_eq_true]
    intro q hq
    obtain ⟨f, hf, -, fpart⟩ := ((State.powerDown_unqueues _).trans (State.markTripped_unqueues _)).queues q hq
    by_contra hn
    have hs : (u.hub.parts.at q.1.part).isSome = true := by
      rw [parts]
      simpa [Option.isNone_iff_eq_none, Option.isSome_iff_ne_none] using hn
    exact gone q.1.part (List.mem_finRange _) hs f hf fpart
  · rw [State.markTripped_setts, State.powerDown_sett]

end Sys2Proof.Machine
end

section
/-! PROOFS. The reset of a virtual function reaches a core outside its partition, through the record of its queue (R277, R281, R329, R345,
R358). -/

namespace Sys2Proof.Machine

/-- A partition of no core. -/
def partOfNone : Part :=
  { clusters := 0, ranges := [], raceBase := 0, raceK := 0, racePolicy := false, raceMode := false, watch := false, saveBase := 0, preqBase := 0,
    rlogWr := 0, rlogRd := 0, preqWr := 0, preqRd := 0, pre := .none, preStart := 0, seqno := 0, rr := 0, nextId := 0 }

/-- Its queue, whose completion ring stands at the start of host memory. -/
def queueOfNone : Queue :=
  { num := 0, part := 0, page := 0, host := true, ring := 0, lsize := 0, period := 0, budget := 0, cring := 0, clsize := 0, vector := 0, holdoff := 0,
    thresh := 0, tail := 0, head := 0, chead := 0, ctail := 0, srv := (0, 0), ready := false }

/-- A record waits in the queue; core 0, of no partition, runs, and holds an update of the sector, a poisoned one, that the record goes to. -/
def recordOverUpdate : State :=
  { State.reset.modCore 0 fun k => { k with mode := .running, l1 := [⟨2 ^ 45, 1, .update .add .i32 [(0, [1])], 0⟩] } with
    poison := [2 ^ 47],
    hub := { State.reset.hub with
      parts := State.reset.hub.parts.put 0 (some partOfNone),
      queues := [(queueOfNone, ⟨[], [mkRec 0 0 0 0 0 0 0 0], 0, 0⟩)] } }

/-- Where one core holds an update of a line, it alone merges. -/
theorem State.mergeAll_single {s : State} {line : Nat} {c : CoreId}
    (h : ((coreIds.zip s.cores.toList).filter fun e => e.2.l1.any fun l => l.line == line && l.isUpdate).map (·.1) = [c]) :
    s.mergeAll line = s.freeNat.2.mergeLine c line := by
  unfold State.mergeAll
  rw [h]
  simp only [State.mergeHolders, List.length_singleton, Nat.mod_one]
  rfl

theorem State.putBytes_core (s : State) (kv : List (Nat × Byte)) (c : CoreId) : (s.putBytes kv).core c = s.core c := by
  unfold State.putBytes State.cleanse
  dsimp only
  split <;> rfl

theorem State.interrupt_core (s : State) (k : Queue) (c : CoreId) : (s.interrupt k).core c = s.core c := rfl

/-! ## An update that meets an error where it merges (R281, R345) -/

theorem State.dropCopies_running (s : State) (line : Nat) (c : CoreId) :
    ((s.dropCopies line).core c).mode = (s.core c).mode ∧ ((s.dropCopies line).core c).aux = (s.core c).aux := by
  have core : (s.dropCopies line).core c = if (s.core c).l1.any fun l => l.line == line && !l.isUpdate then
      { s.core c with l1 := (s.core c).l1.filter fun l => !(l.line == line && !l.isUpdate) } else s.core c := File.at_map s.cores _ c
  rw [core]
  split <;> exact ⟨rfl, rfl⟩

theorem State.machineCheck_mode (s : State) (c : CoreId) (what addr d0 d1 d2 : Nat) :
    ((s.machineCheck c what addr d0 d1 d2).core c).mode = .checked := by
  unfold State.machineCheck
  rw [State.modCore_core_self]
  rfl

theorem State.badSector_core (s : State) (n : Nat) (c : CoreId) : (s.badSector n).core c = s.core c := by
  unfold State.badSector State.setReplace
  split
  · split <;> rfl
  · rfl

section
variable {s : State} {c : CoreId} (hm : (s.core c).mode = .running) (hr : (s.core c).aux.phases.recoverable = false)
include hm hr

theorem State.consumeError_checks (what addr : Nat) (next : Bool) : ((s.consumeError c what addr next).core c).mode = .checked := by
  simp only [State.consumeError, hm, hr, Bool.false_and]
  exact State.machineCheck_mode ..

theorem State.mergeElement_checks {key : Nat} (hp : s.poison.contains (sectorOf key) = true) (o : UpdOp) (t : Ty) (vs : List W32) :
    ((s.mergeElement c o t key vs).core c).mode = .checked := by
  simp only [State.mergeElement, hp, if_true, State.consumePoison]
  refine State.consumeError_checks ?_ ?_ ..
  · rw [State.badSector_core]
    exact hm
  · rw [State.badSector_core]
    exact hr

/-- A running core, in no recoverable phase, whose update of one element merges in a poisoned sector is checked. -/
theorem State.mergeLine_checks {line slab : Nat} {secs : BitVec 4} {o : UpdOp} {t : Ty} {e : Nat × List W32}
    (hl : (s.core c).l1Find line = some ⟨line, secs, .update o t [e], slab⟩) (hp : s.poison.contains (sectorOf (line * 128 + e.1)) = true) :
    ((s.mergeLine c line).core c).mode = .checked := by
  obtain ⟨mode, aux⟩ := s.dropCopies_running line c
  have hp : (s.dropCopies line).poison.contains (sectorOf (line * 128 + e.1)) = true := hp
  unfold State.mergeLine
  rw [hl]
  generalize s.dropCopies line = u at mode aux hp ⊢
  simp only [List.foldl_cons, List.foldl_nil]
  have left : ((u.modCore c fun k => k.l1Drop line).core c).mode = .running ∧
      ((u.modCore c fun k => k.l1Drop line).core c).aux.phases.recoverable = false := by
    rw [State.modCore_core_self]
    exact ⟨mode.trans hm, (congrArg (fun a => a.phases.recoverable) aux).trans hr⟩
  have hp : (u.modCore c fun k => k.l1Drop line).poison.contains (sectorOf (line * 128 + e.1)) = true := hp
  exact State.mergeElement_checks left.1 left.2 hp o t e.2

end

/-! ## The record of a queue that is reset (R329, R358) -/

/-- The record that waits, and the state at its write, which the packets of the queue have left. -/
def waitingRec : Rec := mkRec 0 0 0 0 0 0 0 0
def recordDue : State := recordOverUpdate.modQueue 0 fun e => (e.1, { e.2 with packets := [], waiting := e.2.waiting ++ [] })

theorem homePut_recordDue (b : List Byte) : ((recordDue.homePut ((List.range 64).map (2 ^ 52 + ·)) b).core 0).mode = .checked := by
  have lines : linesOf ((List.range 64).map (2 ^ 52 + ·)) = [2 ^ 45] := by decide +kernel
  have holder : ((coreIds.zip recordDue.cores.toList).filter fun e => e.2.l1.any fun l => l.line == 2 ^ 45 && l.isUpdate).map (·.1) = [0] := by
    decide +kernel
  have merged : ((recordDue.freeNat.2.mergeLine 0 (2 ^ 45)).core 0).mode = .checked :=
    State.mergeLine_checks (secs := 1) (o := .add) (t := .i32) (e := (0, [1])) (slab := 0) (by decide +kernel) (by decide +kernel) (by decide +kernel)
      (by decide +kernel)
  rw [State.homePut, lines, State.putBytes_core, List.foldl_cons, List.foldl_nil, State.homeWrite, State.mergeAll_single holder]
  exact (State.dropCopies_running _ _ _).1.trans merged

/-- The write of the record merges the update, whose error checks the core. -/
theorem recordWrite_checks : ∃ t, execCompletionRecordWrite 0 recordDue = .next t ∧ (t.core 0).mode = .checked := by
  have hq : recordDue.queue 0 = some (queueOfNone, ⟨[], [waitingRec], 0, 0⟩) := by decide +kernel
  have key : ringKey queueOfNone.host queueOfNone.cring queueOfNone.clsize queueOfNone.ctail = 2 ^ 52 := by decide +kernel
  have at_once : queueOfNone.holdoff = 0 := rfl
  have goes := exec_completionRecordWrite_writes hq rfl (by decide +kernel) (by decide +kernel)
  simp only [key, at_once, or_true, if_true] at goes
  have checked := homePut_recordDue waitingRec.bytes
  generalize recordDue.homePut ((List.range 64).map (2 ^ 52 + ·)) waitingRec.bytes = t at goes checked
  exact ⟨_, goes, checked⟩

/-- The reset of a queue without packets in which one record waits is, for the cores, the write of that record. -/
theorem State.flrQueue_core {s t : State} {q : Fin 4096} {k : Queue} {w : QueueWork} {r : Rec} (hq : s.queue q = some (k, w))
    (hp : w.packets = []) (hw : w.waiting = [r])
    (ht : execCompletionRecordWrite q (s.modQueue q fun e => (e.1, { e.2 with packets := [], waiting := e.2.waiting ++ [] })) = .next t) (c : CoreId) :
    (s.flrQueue q).core c = t.core c := by
  unfold State.flrQueue
  simp only [hq, hp, hw, List.filter_nil, List.map_nil, List.append_nil, List.foldl_cons, List.foldl_nil] at ht ⊢
  rw [ht]
  split
  · split <;> rfl
  · rfl

/-- The reset of a virtual function whose partition has no core and one queue is, for the cores, the reset of that queue. -/
theorem State.flr_core {s : State} {v : Fin 16} {t : Part} {q : Fin 4096} (ht : s.hub.parts.at v = some t) (hc : coreIds.filter t.has = [])
    (hq : (s.hub.queues.filter fun e => e.1.part == v).map (·.1.num) = [q]) (c : CoreId) : (s.flr v).core c = (s.flrQueue q).core c := by
  unfold State.flr
  simp only [ht, hc, hq, List.foldl_nil, List.foldl_cons]
  rfl

theorem flr_checks_outside : ((recordOverUpdate.flr 0).core 0).mode = .checked := by
  obtain ⟨t, written, checked⟩ := recordWrite_checks
  have hq : recordOverUpdate.queue 0 = some (queueOfNone, ⟨[], [waitingRec], 0, 0⟩) := by decide +kernel
  rw [State.flr_core (t := partOfNone) (q := 0) (by decide +kernel) (by decide +kernel) (by decide +kernel), State.flrQueue_core hq rfl rfl written,
    checked]

/-- Refutes O55: the record that the reset writes for a queue of its partition merges an update-only line of a core outside the partition, and
that core meets the error of the poisoned sector. -/
theorem not_resets : ¬ Obligations.Resets := by
  unfold Obligations.Resets
  intro h
  obtain ⟨-, configured, -⟩ := h recordOverUpdate 0 .management
  obtain ⟨u, goes, -, -, -, -, -, -, outside⟩ := configured partOfNone (by decide +kernel)
  obtain rfl : recordOverUpdate.flr 0 = u := Host.Outcome.next.inj goes
  have before : (recordOverUpdate.core 0).mode = .running := by decide +kernel
  have same : ((recordOverUpdate.flr 0).core 0).mode = (recordOverUpdate.core 0).mode := (outside 0 (by decide +kernel)).1
  rw [before, flr_checks_outside] at same
  exact absurd same (by decide)

end Sys2Proof.Machine
end

section
/-! PROOFS. Pre-emption and restore (R338, R340 to R344). -/

namespace Sys2Proof.Machine

variable {s : State} {p : Fin 16} {c : CoreId} {t : Part}

/-! ## PREEMPT and RESTORE (R338, R340, R341, R344) -/

section
variable (hb : s.hub.mbox.busy = false) (hr : s.hub.brock.boot ≠ .recovery)
include hb hr

theorem exec_preempt_idle : exec (if s.pay 0 8 1 = 1 then .preemptForced else .preemptNode) s = .next (s.runPreempt.ended s) :=
  s.exec_preempt.trans (congrArg Host.Outcome.next (State.mboxRun_idle hb hr ..))

theorem exec_restore_idle : exec .restore s = .next (s.runRestore.ended s) := congrArg Host.Outcome.next (State.mboxRun_idle hb hr ..)

end

section
variable {a b : Bool} (d e : Nat) (u : State)

theorem Ran.check_first (ha : a = true) : Ran.check [(a, d), (b, e)] u = .rejected d := by rw [Ran.check, firstOf_cons_true ha]

theorem Ran.check_second (ha : a = false) (hb : b = true) : Ran.check [(a, d), (b, e)] u = .rejected e := by
  rw [Ran.check, firstOf_cons_false ha, firstOf_cons_true hb]

theorem Ran.check_neither (ha : a = false) (hb : b = false) : Ran.check [(a, d), (b, e)] u = .done u := by
  rw [Ran.check, firstOf_cons_false ha, firstOf_cons_false hb, firstOf]

end

/-- A node-boundary pre-emption of a partition with a resident operator is forced (R338). -/
def State.preemptsForced (s : State) (p : Fin 16) : Bool := s.pay 0 8 1 == 1 || s.hasResident p

theorem State.preemptsForced_iff : s.preemptsForced p = true ↔ s.pay 0 8 1 = 1 ∨ s.hasResident p = true := by
  simp [State.preemptsForced]

section
variable (hp : p = Fin.ofNat 16 (s.pay 0 0 4))
include hp

theorem State.runPreempt_unconfigured (h : s.hub.parts.at p = none) : s.runPreempt = .rejected 7 := by
  subst hp
  simp only [State.runPreempt, h]

theorem State.runRestore_unconfigured (h : s.hub.parts.at p = none) : s.runRestore = .rejected 7 := by
  subst hp
  simp only [State.runRestore, h]

variable (h : s.hub.parts.at p = some t)
include h

theorem State.runPreempt_eq : s.runPreempt = Ran.check [(s.preemptsForced p && t.saveBase == 0, 3), (t.pre != .none, 7)] (s.modHub fun h => { h with
    parts := h.parts.put p (some { t with pre := if s.preemptsForced p then .forced else .node, preStart := s.hub.timer.toNat }) }) := by
  subst hp
  simp only [State.runPreempt, h]
  rfl

theorem State.runRestore_eq : s.runRestore = Ran.check [(t.pre != .saved, 7)] (s.modHub fun h => { h with
    parts := h.parts.put p (some { t with pre := .restoring }) }) := by
  subst hp
  simp only [State.runRestore, h]

end

/-! ## The hold of a core (R341) -/

/-- A step leaves memory, the contexts of other cores, and the hold of a core. -/
structure State.Holds (c : CoreId) (s t : State) : Prop where
  mem : t.mem = s.mem
  others : ∀ e, e ≠ c → (t.core e).ctx = (s.core e).ctx
  hold : (t.core c).aux.hold = (s.core c).aux.hold

namespace State.Holds

theorem refl (c : CoreId) (s : State) : State.Holds c s s := ⟨rfl, fun _ _ => rfl, rfl⟩

theorem trans {s t u : State} (h : State.Holds c s t) (g : State.Holds c t u) : State.Holds c s u :=
  ⟨g.mem.trans h.mem, fun e he => (g.others e he).trans (h.others e he), g.hold.trans h.hold⟩

theorem of_cores {s t : State} (hm : t.mem = s.mem) (h : t.cores = s.cores) : State.Holds c s t :=
  ⟨hm, fun e _ => by rw [State.core, h]; rfl, by rw [State.core, h]; rfl⟩

theorem modCore (s : State) {f : Core → Core} (h : (f (s.core c)).aux.hold = (s.core c).aux.hold) : State.Holds c s (s.modCore c f) :=
  ⟨rfl, fun _ he => by rw [State.modCore_core_ne _ he.symm], by rw [State.modCore_core_self, h]⟩

theorem dropWadr (s : State) (c : CoreId) : State.Holds c s (s.dropWadr c) := by
  unfold State.dropWadr
  generalize List.filterMap _ _ = uids
  refine (of_cores rfl rfl : State.Holds c s (s.modDie (dieOf c) fun e => e.endReqs uids.contains)).trans (modCore _ ?_)
  exact List.foldlRecOn (motive := fun k : Core => k.aux.hold = (s.core c).aux.hold) _ _ rfl fun _ hk _ _ => hk

theorem stopEx (s : State) (c : CoreId) : State.Holds c s (s.stopEx c) :=
  ⟨s.stopEx_mem c, fun _ he => by rw [State.stopEx_core_ne _ he.symm], by rw [(s.stopEx_same c).aux]⟩

theorem postRun (s : State) (kind reason x place what : Nat) : State.Holds c s (s.postRun c kind reason x place what) :=
  of_cores (State.postRun_mem ..) (State.postRun_cores ..)

theorem endRun (s : State) (r : Trap) : State.Holds c s (s.endRun c r) :=
  ⟨s.endRun_mem c r, fun _ he => by rw [State.endRun_core_ne _ he.symm], by rw [State.endRun_core_self]; rfl⟩

theorem enterTrap (s : State) (r : Trap) : State.Holds c s (s.enterTrap c r) := by
  have stopped : State.Holds c s (s.stopped c) :=
    ((((of_cores rfl rfl : State.Holds c s ((s.endLease c).dropWait c)).trans (dropWadr _ c)).trans (stopEx _ c))).trans (modCore _ rfl)
  rw [State.enterTrap_eq]
  split
  · exact stopped.trans (endRun ..)
  · exact stopped.trans (modCore _ rfl)

theorem abandonXlat (s : State) (x : Fin 4) : State.Holds c s (s.abandonXlat c x) := by
  have gone : State.Holds c s (s.modCore c fun k => k.modCtx x fun d => { d with xl := none }) := modCore _ rfl
  unfold State.abandonXlat State.resumeTrap
  split
  · exact gone
  · split
    · exact gone
    · exact gone.trans (enterTrap ..)

theorem abandonPages (s : State) (c : CoreId) : State.Holds c s (s.abandonPages c) := by
  refine List.foldlRecOn (motive := State.Holds c s) _ _ (refl c s) fun u hu x _ => hu.trans ?_
  split
  next a _ =>
    split
    · exact refl c u
    · exact (of_cores rfl rfl : State.Holds c u (u.modHub _)).trans (abandonXlat ..)
  · exact refl c u

end State.Holds

theorem State.Holds.leavePhase (s : State) (c : CoreId) : State.Holds c s (s.modCore c Core.leavePhase) := .modCore s rfl

/-- A core that is told to hold, before what runs on it stops. -/
def State.told (s : State) (c : CoreId) : State := ((s.modCore c fun k => k.modAux fun a => { a with hold := true }).endLease c).dropWait c

theorem State.told_spec (s : State) (c : CoreId) :
    (s.told c).mem = s.mem ∧ ((s.told c).core c).aux.hold = true ∧ ∀ e, e ≠ c → (s.told c).core e = s.core e := by
  have core (e : CoreId) : (s.told c).core e = (s.modCore c fun k => k.modAux fun a => { a with hold := true }).core e := rfl
  refine ⟨rfl, ?_, fun e he => ?_⟩
  · rw [core, State.modCore_core_self]
    rfl
  · rw [core, State.modCore_core_ne _ he.symm]

section
variable (hpart : s.partOf c = some p) (ht : s.hub.parts.at p = some t)
include hpart ht

theorem exec_holdReachesCore_waits (h : t.pre ≠ .forced ∨ (s.core c).aux.hold = true) : exec (.holdReachesCore c) s = .next s := by
  have waits : (t.pre != .forced || (s.core c).aux.hold) = true := by simpa using h
  change execHoldReachesCore c s = _
  simp only [execHoldReachesCore, hpart, Option.bind_some, ht, waits, if_true]

theorem exec_holdReachesCore (hp : t.pre = .forced) (hh : (s.core c).aux.hold = false) :
    exec (.holdReachesCore c) s = .next (if (s.core c).mode != .running && (s.core c).mode != .handler then s.told c
      else ((((s.told c).dropWadr c).abandonPages c).stopEx c).modCore c Core.leavePhase) := by
  have goes : (t.pre != .forced || (s.core c).aux.hold) = false := by simp [hp, hh]
  change execHoldReachesCore c s = _
  simp only [execHoldReachesCore, hpart, Option.bind_some, ht, goes, Bool.false_eq_true, if_false]
  split <;> rfl

end

/-- A core that holds issues nothing. -/
theorem State.mayIssue_of_hold (h : (s.core c).aux.hold = true) (q : Seq) (x : Fin 4) : (s.atTurn c q x).mayIssue = false := by
  have held : (s.atTurn c q x).me.aux.hold = true := h
  simp [State.mayIssue, held]

/-! ## PREEMPTED (R340 to R343) -/

/-- Every core that is free and awaits no tile run is so still. -/
structure State.KeepsIdle (s t : State) : Prop where
  idle : ∀ d, (s.core d).mode = .free → (s.core d).aux.next = none → (t.core d).mode = .free ∧ (t.core d).aux.next = none

theorem State.discardUnstarted_core_ne (s : State) {c d : CoreId} (h : c ≠ d) : (s.discardUnstarted c).core d = s.core d := by
  unfold State.discardUnstarted
  rw [State.modDie_core, State.modSett_core, State.modCore_core_ne _ h]

/-- The last part of a machine check changes no other core (R345). -/
theorem State.checked_core_ne (s : State) {c d : CoreId} (h : c ≠ d) (detail : W64) (f : Core → Core) :
    (((((s.endLease c).dropWait c).scree (screeUnit c) 0x11 detail).discardUnstarted c).modCore c f).core d = s.core d := by
  rw [State.modCore_core_ne _ h, State.discardUnstarted_core_ne _ h]
  rfl

theorem State.machineCheck_core_ne (s : State) {c d : CoreId} (h : c ≠ d) (what addr d0 d1 d2 : Nat) :
    (s.machineCheck c what addr d0 d1 d2).core d = s.core d := by
  unfold State.machineCheck
  cases (s.core c).aux.run with
  | none => exact s.checked_core_ne h _ _
  | some r => exact (State.checked_core_ne _ h _ _).trans rfl

namespace State.KeepsIdle

theorem of_cores {s t : State} (h : t.cores = s.cores) : s.KeepsIdle t := ⟨fun d hm hn => by
  rw [State.core, h]
  exact ⟨hm, hn⟩⟩

theorem refl (s : State) : s.KeepsIdle s := of_cores rfl

theorem trans {s t u : State} (h : s.KeepsIdle t) (g : t.KeepsIdle u) : s.KeepsIdle u := ⟨fun d hm hn =>
  g.idle d (h.idle d hm hn).1 (h.idle d hm hn).2⟩

/-- A change of a core that is not free, or that leaves it as idle as it was. -/
theorem modCore (s : State) (c : CoreId) {f : Core → Core}
    (h : (s.core c).mode = .free → (s.core c).aux.next = none → (f (s.core c)).mode = .free ∧ (f (s.core c)).aux.next = none) :
    s.KeepsIdle (s.modCore c f) := ⟨fun d hm hn => by
  by_cases hd : c = d
  · subst hd
    rw [State.modCore_core_self]
    exact h hm hn
  · rw [State.modCore_core_ne _ hd]
    exact ⟨hm, hn⟩⟩

/-- A change of one core, not free, and of what is outside the cores. -/
theorem of_busy {s t : State} {c : CoreId} (h : (s.core c).mode ≠ .free) (ht : ∀ d, d ≠ c → t.core d = s.core d) : s.KeepsIdle t :=
  ⟨fun d hm hn => by
    rw [ht d fun hd => h (hd ▸ hm)]
    exact ⟨hm, hn⟩⟩

theorem badSector (s : State) (n : Nat) : s.KeepsIdle (s.badSector n) := by
  unfold State.badSector State.setReplace
  split
  · split <;> exact of_cores rfl
  · exact of_cores rfl

theorem consumeError (s : State) (c : CoreId) (what addr : Nat) (next : Bool) : s.KeepsIdle (s.consumeError c what addr next) := by
  simp only [State.consumeError]
  split
  · exact refl s
  next hmode =>
    have busy : (s.core c).mode ≠ .free := fun h => hmode (by simp [h])
    split
    · exact of_busy busy fun d hd => State.modCore_core_ne _ hd.symm _
    · exact of_busy busy fun d hd => State.machineCheck_core_ne s hd.symm ..

theorem merging : Merging State.KeepsIdle where
  refl := refl
  trans := trans
  draw s := of_cores (s := s) rfl
  mem s _ := of_cores (s := s) rfl
  drop s line := ⟨fun d hm hn => by
    have core : (s.dropCopies line).core d = if (s.core d).l1.any fun l => l.line == line && !l.isUpdate then
        { s.core d with l1 := (s.core d).l1.filter fun l => !(l.line == line && !l.isUpdate) } else s.core d := File.at_map s.cores _ d
    rw [core]
    split <;> exact ⟨hm, hn⟩⟩
  leave s c _ := modCore s c fun hm hn => ⟨hm, hn⟩
  poison s c n := ((of_cores rfl : s.KeepsIdle s.freeWord.2).trans (badSector _ n)).trans (consumeError ..)

theorem homePut (s : State) (keys : List Nat) (b : List Byte) : s.KeepsIdle (s.homePut keys b) := by
  have put (s : State) (kv : List (Nat × Byte)) : s.KeepsIdle (s.putBytes kv) := by
    unfold State.putBytes State.cleanse
    dsimp only
    split <;> exact of_cores rfl
  exact (merging.foldl merging.homeWrite _ s).trans (put ..)

end State.KeepsIdle

/-- A core that is taken into a save area is idle, and no other becomes busy. -/
theorem State.takeCore_idle (s : State) (c : CoreId) :
    s.KeepsIdle (s.takeCore c) ∧ ((s.takeCore c).core c).mode = .free ∧ ((s.takeCore c).core c).aux.next = none := by
  have withdraw (u : State) (uid : Nat) : u.KeepsIdle (u.withdraw (dieOf c) uid) := .of_cores rfl
  unfold State.takeCore
  dsimp only
  generalize _ ++ List.flatMap _ _ = gone
  have left (u : State) : u.KeepsIdle ((u.endLease c).dropWait c) := .of_cores rfl
  have left : s.KeepsIdle (gone.foldl (fun s u => s.withdraw (dieOf c) u) (((s.mergeCore c).endLease c).dropWait c)) :=
    ((State.KeepsIdle.merging.mergeCore s c).trans (left _)).trans (State.KeepsIdle.merging.foldl withdraw _ _)
  generalize gone.foldl _ _ = u at left ⊢
  have freed (v : State) (f : Core → Core) (hv : v.cores = u.cores) (hf : ∀ k, (f k).mode = .free ∧ (f k).aux.next = none) :
      s.KeepsIdle (v.modCore c f) ∧ ((v.modCore c f).core c).mode = .free ∧ ((v.modCore c f).core c).aux.next = none := by
    refine ⟨(left.trans (.of_cores hv)).trans (.modCore v c fun _ _ => hf _), ?_⟩
    rw [State.modCore_core_self]
    exact hf _
  exact freed _ _ rfl fun k => ⟨rfl, rfl⟩

/-- Every core taken into a save area is idle, and so is every one that was. -/
theorem State.takeCores_idle (cs : List CoreId) (s : State) :
    s.KeepsIdle (cs.foldl State.takeCore s) ∧
    ∀ c ∈ cs, ((cs.foldl State.takeCore s).core c).mode = .free ∧ ((cs.foldl State.takeCore s).core c).aux.next = none := by
  induction cs generalizing s with
  | nil => exact ⟨.refl s, fun _ h => absurd h List.not_mem_nil⟩
  | cons d cs ih =>
    obtain ⟨kept, mode, next⟩ := s.takeCore_idle d
    obtain ⟨rest, taken⟩ := ih (s.takeCore d)
    refine ⟨kept.trans rest, fun c hc => ?_⟩
    rcases List.mem_cons.mp hc with rfl | hc
    · exact rest.idle c mode next
    · exact taken c hc

theorem State.freeRegions_cores (l : List (Nat × Nat)) (s : State) (base : Nat) : (s.freeRegions base l).2.cores = s.cores := by
  induction l generalizing s with
  | nil => rfl
  | cons e r ih => exact ih (s.freeBytes e.2).2

theorem State.coreBlocks_cores (l : List CoreId) (s : State) (base : Nat) : (s.coreBlocks base l).2.cores = s.cores := by
  induction l generalizing s base with
  | nil => rfl
  | cons c r ih =>
    by_cases h : (s.core c).mode = .free
    · simp only [State.coreBlocks, h, if_true]
      exact ih ..
    · simp only [State.coreBlocks, h, if_false]
      exact (ih ..).trans (State.freeRegions_cores ..)

theorem State.writeImage_idle (s : State) (l : List (Nat × List Byte)) : s.KeepsIdle (s.writeImage l) :=
  State.KeepsIdle.merging.foldl (fun _ _ => .homePut ..) l s

/-- The cores that a save takes. -/
def State.toSave (s : State) (t : Part) : List CoreId := (coreIds.filter t.has).filter fun c => (s.core c).mode != .free || (s.core c).aux.next.isSome

/-- The partition as a save leaves it, and what has been saved of it (R341 to R343). -/
def State.withSaved (s : State) (p : Fin 16) (t : Part) (v : Saved) : State :=
  s.modHub fun h => { h with saved := v :: h.saved.filter (fun w => w.part != p),
                             parts := h.parts.put p (some { t with pre := .saved, seqno := t.seqno + 1 }) }

theorem State.save_eq (s : State) (p : Fin 16) (t : Part) :
    ∃ (b : State) (image : List (Nat × List Byte)) (v : Saved) (ctxs : List (BitVec 11 × BitVec 52)), b.cores = s.cores ∧ v.part = p ∧
      v.clusters = t.clusters ∧ s.save p t = ctxs.foldl (fun s e => s.dropContext e.1 e.2)
        (((s.toSave t).foldl State.takeCore (b.writeImage image)).withSaved p t v) := by
  generalize hu : s.save p t = u
  unfold State.save at hu
  dsimp only at hu
  refine ⟨_, _, _, _, ?_, ?_, ?_, hu.symm⟩
  · exact (State.freeRegions_cores ..).trans (State.coreBlocks_cores ..)
  · rfl
  · rfl

/-- A context that is dropped leaves the cores, the partitions and what has been saved (R123). -/
theorem State.dropContexts_spec (l : List (BitVec 11 × BitVec 52)) (s : State) :
    (l.foldl (fun s e => s.dropContext e.1 e.2) s).cores = s.cores ∧ (l.foldl (fun s e => s.dropContext e.1 e.2) s).hub.parts = s.hub.parts ∧
    (l.foldl (fun s e => s.dropContext e.1 e.2) s).hub.saved = s.hub.saved := by
  refine List.foldlRecOn (motive := fun t : State => t.cores = s.cores ∧ t.hub.parts = s.hub.parts ∧ t.hub.saved = s.hub.saved) l _
    ⟨rfl, rfl, rfl⟩ fun t ht e _ => ?_
  unfold State.dropContext
  split
  · exact ht
  · exact ht

/-- A save leaves the partition saved, with its context, and its cores idle. -/
theorem State.save_spec (s : State) (p : Fin 16) (t : Part) :
    (s.save p t).hub.parts.at p = some { t with pre := .saved, seqno := t.seqno + 1 } ∧
    (∃ e ∈ (s.save p t).hub.saved, e.part = p ∧ e.clusters = t.clusters) ∧
    ∀ c ∈ coreIds, t.has c = true → ((s.save p t).core c).mode = .free ∧ ((s.save p t).core c).aux.next = none := by
  obtain ⟨b, image, v, ctxs, hb, hpart, hclusters, he⟩ := s.save_eq p t
  obtain ⟨cores, parts, saved⟩ := State.dropContexts_spec ctxs (((s.toSave t).foldl State.takeCore (b.writeImage image)).withSaved p t v)
  rw [he, parts, saved]
  refine ⟨File.at_put_self .., ⟨v, List.mem_cons_self, hpart, hclusters⟩, fun c hc ht => ?_⟩
  obtain ⟨kept, taken⟩ := State.takeCores_idle (s.toSave t) (b.writeImage image)
  rw [State.core, cores]
  rw [show ∀ u : State, (u.withSaved p t v).cores.at c = u.core c from fun _ => rfl]
  by_cases hs : c ∈ s.toSave t
  · exact taken c hs
  · have idle : (b.core c).mode = .free ∧ (b.core c).aux.next = none := by
      rw [show b.core c = s.core c from congrArg (File.at · c) hb]
      simpa [State.toSave, hc, ht] using hs
    obtain ⟨mode, next⟩ := (b.writeImage_idle image).idle c idle.1 idle.2
    exact kept.idle c mode next

section
variable (ht : s.hub.parts.at p = some t)
include ht

theorem exec_preempted_neither (hn : t.pre ≠ .node) (hf : t.pre ≠ .forced) : exec (.preempted p) s = .next s := by
  change execPreempted p s = _
  simp only [execPreempted, ht]

theorem exec_preempted_node (hn : t.pre = .node) :
    exec (.preempted p) s = .next (if s.hasRun p (fun _ => true) then s else (s.modHub fun h => { h with
      parts := h.parts.put p (some { t with pre := .saved }) }).postPart p 6 0) := by
  change execPreempted p s = _
  simp only [execPreempted, ht, hn]
  split
  · rfl
  · rfl

theorem exec_preempted_forced (hf : t.pre = .forced) :
    exec (.preempted p) s = .next (if (coreIds.filter t.has).all s.passed then
      (if 40 < s.since t.preStart then (s.save p t).scree 4 0x30 (BitVec.ofNat 64 (s.since t.preStart)) else s.save p t).postPart p 6 0 else s) := by
  change execPreempted p s = _
  simp only [execPreempted, ht, hf]
  split <;> rfl

omit ht in
/-- What is told of a forced switch changes neither the cores nor what has been saved. -/
theorem State.preemptedPosts_spec (u : State) (p : Fin 16) (time : Nat) :
    let v := (if 40 < time then u.scree 4 0x30 (BitVec.ofNat 64 time) else u).postPart p 6 0
    v.hub.parts = u.hub.parts ∧ v.hub.saved = u.hub.saved ∧ ∀ c, v.core c = u.core c := by
  by_cases h : 40 < time
  · rw [if_pos h]
    exact ⟨rfl, rfl, fun _ => rfl⟩
  · rw [if_neg h]
    exact ⟨rfl, rfl, fun _ => rfl⟩

/-! ## RESTORED (R344) -/

theorem exec_restored_not (h : t.pre ≠ .restoring) : exec (.restored p) s = .next s := by
  have : (t.pre != .restoring) = true := by simpa using h
  change execRestored p s = _
  simp only [execRestored, ht, this, if_true]

/-- The partition dispatches again, its queues as they are (R344). -/
def State.resumed (s : State) (p : Fin 16) (t : Part) : State :=
  (s.modHub fun h => { h with parts := h.parts.put p (some { t with pre := .none }) }).readyQueues p

theorem exec_restored_nothing (h : t.pre = .restoring) (hs : (s.hub.saved.find? fun v => v.part == p) = none) :
    exec (.restored p) s = .next (((s.unhold t).resumed p t).postPart p 7 0) := by
  have : (t.pre != .restoring) = false := by simp [h]
  change execRestored p s = _
  simp only [execRestored, ht, this, Bool.false_eq_true, if_false, hs]
  rfl

variable {v : Saved}

theorem exec_restored_lost (h : t.pre = .restoring) (hs : (s.hub.saved.find? fun v => v.part == p) = some v) {reason : Nat}
    (hr : s.restoreReason t v = some reason) :
    exec (.restored p) s = .next (((s.unhold t).loseContext p reason).resumed p t) := by
  have : (t.pre != .restoring) = false := by simp [h]
  change execRestored p s = _
  simp only [execRestored, ht, this, Bool.false_eq_true, if_false, hs, hr]
  rfl

theorem exec_restored_resumes (h : t.pre = .restoring) (hs : (s.hub.saved.find? fun v => v.part == p) = some v)
    (hr : s.restoreReason t v = none) :
    exec (.restored p) s = .next ((((((s.unhold t).load v).completeSaved v).modHub fun h => { h with
      saved := h.saved.filter fun w => w.part != p }).resumed p t).postPart p 7 0) := by
  have : (t.pre != .restoring) = false := by simp [h]
  change execRestored p s = _
  simp only [execRestored, ht, this, Bool.false_eq_true, if_false, hs, hr]
  rfl

end

theorem exec_preempted_unconfigured (h : s.hub.parts.at p = none) : exec (.preempted p) s = .next s := by
  change execPreempted p s = _
  simp only [execPreempted, h]

theorem exec_restored_unconfigured (h : s.hub.parts.at p = none) : exec (.restored p) s = .next s := by
  change execRestored p s = _
  simp only [execRestored, h]

/-- Settles O52: the commands by their checks, the hold by what it leaves (`State.Holds`), and the save by the cores that stay or become idle
(`State.KeepsIdle`, `State.save_spec`). That PREEMPT and RESTORE end at acceptance is the model's choice of notes/assumptions/38.md, and what a saved
context holds that of 32.md. -/
theorem preemption : Obligations.Preemption := by
  unfold Obligations.Preemption
  intro s p c
  refine ⟨fun hb hr hp => ?commands, fun hpart t ht => ⟨fun h => exec_holdReachesCore_waits hpart ht h, fun hf hh => ?hold⟩, fun t ht => ?ends,
    fun h => ⟨exec_preempted_unconfigured h, exec_restored_unconfigured h⟩⟩
  case commands =>
    intro mode i done
    have preempts : exec i s = .next (s.runPreempt.ended s) := exec_preempt_idle hb hr
    have restores := exec_restore_idle hb hr
    refine ⟨fun h => ?_, fun t h => ?_⟩
    · rw [preempts, restores, State.runPreempt_unconfigured hp h, State.runRestore_unconfigured hp h]
      exact ⟨rfl, rfl⟩
    · intro forced
      have forcedIff : s.preemptsForced p = true ↔ forced := State.preemptsForced_iff
      have noSpace (hn : ¬ (forced ∧ t.saveBase = 0)) : (s.preemptsForced p && t.saveBase == 0) = false := by
        rw [Bool.eq_false_iff]
        intro h
        simp only [Bool.and_eq_true, beq_iff_eq, forcedIff] at h
        exact hn h
      have free (h : t.pre = .none) : (t.pre != .none) = false := by simp [h]
      rw [preempts, restores, State.runPreempt_eq hp h, State.runRestore_eq hp h]
      refine ⟨fun hf h0 => ?_, fun hn hpre => ?_, fun hf h0 hpre => ?_, fun hf hpre => ?_, fun hpre => ?_, fun hpre => ?_⟩
      · rw [Ran.check_first _ _ _ (by simp [forcedIff.mpr hf, h0])]
        rfl
      · rw [Ran.check_second _ _ _ (noSpace hn) (by simpa using hpre)]
        rfl
      · rw [Ran.check_neither _ _ _ (noSpace fun h => h0 h.2) (free hpre), if_pos (forcedIff.mpr hf)]
        rfl
      · rw [Ran.check_neither _ _ _ (noSpace fun h => hf h.1) (free hpre), if_neg (mt forcedIff.mp hf)]
        rfl
      · rw [Ran.check_rejected (by simpa using hpre)]
        rfl
      · rw [Ran.check_done (by simp [hpre])]
        rfl
  case hold =>
    obtain ⟨mem, hold, others⟩ := s.told_spec c
    have toldHolds : State.Holds c (s.told c) (((((s.told c).dropWadr c).abandonPages c).stopEx c).modCore c Core.leavePhase) :=
      (((State.Holds.dropWadr _ c).trans (.abandonPages _ c)).trans (.stopEx _ c)).trans (.leavePhase _ c)
    have holds : ∀ u, State.Holds c (s.told c) u → (u.core c).aux.hold = true ∧ u.mem = s.mem ∧ (∀ q x, (u.atTurn c q x).mayIssue = false) ∧
        ∀ e, e ≠ c → (u.core e).ctx = (s.core e).ctx := fun u hu =>
      have held := hu.hold.trans hold
      ⟨held, hu.mem.trans mem, State.mayIssue_of_hold held, fun e he => (hu.others e he).trans (by rw [others e he])⟩
    refine ⟨_, exec_holdReachesCore hpart ht hf hh, holds _ ?_⟩
    split
    · exact .refl c _
    · exact toldHolds
  case ends =>
    refine ⟨exec_preempted_neither ht, fun hn h => ?_, fun hn h => ?_, fun hf h => ?_, fun hf h => ?_, exec_restored_not ht, fun h => ?_⟩
    · rw [exec_preempted_node ht hn, h]
      rfl
    · rw [exec_preempted_node ht hn, h]
      rfl
    · obtain ⟨c, hc, hin, hnot⟩ := h
      rw [exec_preempted_forced ht hf, if_neg]
      intro all
      exact Bool.eq_false_iff.mp hnot (List.all_eq_true.mp all c (List.mem_filter.mpr ⟨hc, hin⟩))
    · have all : (coreIds.filter t.has).all s.passed = true :=
        List.all_eq_true.mpr fun c hc => h c (List.mem_filter.mp hc).1 (List.mem_filter.mp hc).2
      refine ⟨_, (exec_preempted_forced ht hf).trans (by rw [if_pos all]), ?_⟩
      obtain ⟨parts, saved, idle⟩ := s.save_spec p t
      obtain ⟨hparts, hsaved, hcore⟩ := State.preemptedPosts_spec (s.save p t) p (s.since t.preStart)
      rw [hparts, hsaved]
      simp only [hcore]
      exact ⟨⟨_, parts, rfl, rfl⟩, saved, idle⟩
    · intro freed resume
      exact ⟨exec_restored_nothing ht h, fun e hs => ⟨fun reason => exec_restored_lost ht h hs, exec_restored_resumes ht h hs⟩⟩

end Sys2Proof.Machine
end

section
/-! PROOFS. Links, paths and keys of the fabric (R297, R299 to R304, R307). -/

namespace Sys2Proof.Machine

variable {s t u : State} {d e : Fin 4} {p q : Port} {f g : Flit}

/-! ## What a state keeps of its links -/

/-- Memory, the cores and every link are as before. -/
structure State.KeepsLinks (s t : State) : Prop where
  mem : t.mem = s.mem
  cores : t.cores = s.cores
  link : ∀ d p, t.link d p = s.link d p

namespace State.KeepsLinks

theorem refl (s : State) : s.KeepsLinks s := ⟨rfl, rfl, fun _ _ => rfl⟩

theorem trans (h : s.KeepsLinks t) (g : t.KeepsLinks u) : s.KeepsLinks u :=
  ⟨g.mem.trans h.mem, g.cores.trans h.cores, fun d p => (g.link d p).trans (h.link d p)⟩

theorem linkRecord (s : State) (d : Fin 4) (code : Nat) (p : Port) (x : Nat) : s.KeepsLinks (s.linkRecord d code p x) :=
  ⟨rfl, rfl, fun _ _ => rfl⟩

theorem postEvent (s : State) (kind reason place what : Nat) : s.KeepsLinks (s.postEvent kind reason place what) :=
  ⟨rfl, rfl, fun _ _ => rfl⟩

theorem scree (s : State) (unit : Fin 5) (code : Nat) (detail : W64) : s.KeepsLinks (s.scree unit code detail) :=
  ⟨rfl, rfl, fun _ _ => rfl⟩

theorem setReplace (s : State) (unit : Fin 5) (bit : Fin 3) (addr what : Nat) : s.KeepsLinks (s.setReplace unit bit addr what) := by
  unfold State.setReplace
  split <;> exact ⟨rfl, rfl, fun _ _ => rfl⟩

end State.KeepsLinks

theorem Port.num_inj : p.num = q.num ↔ p = q := by
  cases p <;> cases q <;> decide

/-- A UCIe port reaches another die (R296). -/
theorem sibling_ne (h : sibling d p = some e) : e ≠ d := by
  revert e d
  cases p <;> decide

theorem linkEnds_nodup (d : Fin 4) (p : Port) : (linkEnds d p).Nodup := by
  cases h : sibling d p with
  | none => simp [linkEnds, h]
  | some e => simp [linkEnds, h, (sibling_ne h).symm]

theorem mem_linkEnds_self (d : Fin 4) (p : Port) : d ∈ linkEnds d p := List.mem_cons_self

theorem State.link_modLink (s : State) (d e : Fin 4) (p q : Port) (f : Link → Link) :
    (s.modLink d p f).link e q = if d = e ∧ p = q then f (s.link e q) else s.link e q := by
  unfold State.link State.modLink State.modDie
  by_cases hd : d = e
  · subst hd
    by_cases hp : p = q
    · subst hp
      simp
    · simp [hp, File.at_mod, Port.num_inj]
  · simp [hd, File.at_mod]

@[simp] theorem State.link_modLink_self (s : State) (d : Fin 4) (p : Port) (f : Link → Link) : (s.modLink d p f).link d p = f (s.link d p) := by
  simp [State.link_modLink]

theorem State.link_modLink_ne (s : State) (f : Link → Link) (h : d ≠ e) : (s.modLink d p f).link e q = s.link e q := by
  simp [State.link_modLink, h]

@[simp] theorem State.modLink_mem (s : State) (d : Fin 4) (p : Port) (f : Link → Link) : (s.modLink d p f).mem = s.mem := rfl
@[simp] theorem State.modLink_cores (s : State) (d : Fin 4) (p : Port) (f : Link → Link) : (s.modLink d p f).cores = s.cores := rfl
@[simp] theorem State.modLink_hub (s : State) (d : Fin 4) (p : Port) (f : Link → Link) : (s.modLink d p f).hub = s.hub := rfl

/-- A change made at one port of every die of a list. -/
def State.modEnds (s : State) (l : List (Fin 4)) (p : Port) (f : Link → Link) : State := l.foldl (fun s e => s.modLink e p f) s

theorem State.modEnds_link (l : List (Fin 4)) (hl : l.Nodup) (p : Port) (f : Link → Link) (s : State) (e : Fin 4) (q : Port) :
    (s.modEnds l p f).link e q = if e ∈ l ∧ p = q then f (s.link e q) else s.link e q := by
  induction l generalizing s with
  | nil => simp [State.modEnds]
  | cons a l ih =>
    obtain ⟨ha, hl⟩ := List.nodup_cons.mp hl
    change ((s.modLink a p f).modEnds l p f).link e q = _
    rw [ih hl, State.link_modLink]
    by_cases h : a = e
    · subst h
      simp [ha]
    · simp [h, Ne.symm h]

theorem State.modEnds_keeps (l : List (Fin 4)) (p : Port) (f : Link → Link) (s : State) :
    (s.modEnds l p f).mem = s.mem ∧ (s.modEnds l p f).cores = s.cores ∧ (s.modEnds l p f).hub = s.hub := by
  induction l generalizing s with
  | nil => exact ⟨rfl, rfl, rfl⟩
  | cons a l ih => exact ih (s.modLink a p f)

/-! ## A change of a link's state (R302) -/

/-- What a link becomes with a new state: one that goes down loses what it carried. -/
def Link.into (l : Link) (st : LinkState) : Link :=
  if st = .down then { Link.reset with lanes32 := l.lanes32, fixed := l.fixed, rxFixed := l.rxFixed, keyCtr := l.keyCtr } else { l with state := st }

@[simp] theorem Link.into_state (l : Link) (st : LinkState) : (l.into st).state = st := by
  unfold Link.into
  split
  · next h => exact h.symm
  · rfl

@[simp] theorem Link.into_lanes32 (l : Link) (st : LinkState) : (l.into st).lanes32 = l.lanes32 := by
  unfold Link.into
  split <;> rfl

/-- A change of a link's state comes to both ends, and keeps the rest. -/
theorem State.setLink_eq (s : State) (h : (s.link d p).state ≠ st) :
    (s.modEnds (linkEnds d p) p (Link.into · st)).KeepsLinks (s.setLink d p st) := by
  have same : (s.setLink d p st) = (((s.modEnds (linkEnds d p) p (Link.into · st)).postEvent 9 st.num 0
      (p.num.val * 2 ^ 8 + ((s.modEnds (linkEnds d p) p (Link.into · st)).hub.fab.dieAddr d).val)).scree (Fin.ofNat 5 d.val) 0x22
        (BitVec.ofNat 64 p.num.val)) := by
    unfold State.setLink
    rw [if_neg h]
    cases hs : sibling d p <;> simp only [linkEnds, hs] <;> rfl
  rw [same]
  exact (State.KeepsLinks.postEvent ..).trans (.scree ..)

theorem State.setLink_state (s : State) (d : Fin 4) (p : Port) (st : LinkState) : ((s.setLink d p st).link d p).state = st := by
  by_cases h : (s.link d p).state = st
  · unfold State.setLink
    rw [if_pos h, h]
  · rw [(s.setLink_eq h).link, State.modEnds_link _ (linkEnds_nodup d p)]
    simp [mem_linkEnds_self]

theorem State.setLink_mem (s : State) (d : Fin 4) (p : Port) (st : LinkState) : (s.setLink d p st).mem = s.mem := by
  by_cases h : (s.link d p).state = st
  · unfold State.setLink
    rw [if_pos h]
  · exact (s.setLink_eq h).mem.trans (State.modEnds_keeps ..).1

/-- A link as it starts to retrain, at 32 lanes from now on where one of its lanes has failed. -/
def Link.restarted (narrow : Bool) (l : Link) : Link :=
  { l with
    state := .retraining, lanes32 := l.lanes32 || narrow, txSeq := 0, rxSeq := 0xFFF, replay := [], wire := [], discards := 0,
    nakSent := false, stop := 0 }

theorem State.retrain_eq (s : State) (narrow : Bool) (h : (s.link d p).state ≠ .down) :
    (s.modEnds (linkEnds d p) p (Link.restarted narrow)).KeepsLinks (s.retrain d p narrow) := by
  unfold State.retrain
  rw [if_neg h]
  exact (State.KeepsLinks.postEvent ..).trans (.linkRecord ..)

/-- A link that retrains restarts at both ends, and memory and the cores are as before. -/
theorem State.retrain_spec (s : State) (narrow : Bool) (h : (s.link d p).state ≠ .down) :
    (s.retrain d p narrow).mem = s.mem ∧ (s.retrain d p narrow).cores = s.cores ∧
      ∀ e ∈ linkEnds d p, (s.retrain d p narrow).link e p = (s.link e p).restarted narrow := by
  obtain ⟨hm, hc, -⟩ := State.modEnds_keeps (linkEnds d p) p (Link.restarted narrow) s
  refine ⟨(s.retrain_eq narrow h).mem.trans hm, (s.retrain_eq narrow h).cores.trans hc, fun e he => ?_⟩
  rw [(s.retrain_eq narrow h).link, State.modEnds_link _ (linkEnds_nodup d p)]
  simp [he]

theorem State.retrain_why (s : State) (d : Fin 4) (p : Port) (narrow : Bool) : (s.retrain d p narrow).hub.errors = s.hub.errors := by
  unfold State.retrain
  split
  · rfl
  · change (s.modEnds (linkEnds d p) p (Link.restarted narrow)).hub.errors = _
    rw [(State.modEnds_keeps ..).2.2]

theorem State.setReplace_replace (s : State) (unit : Fin 5) (bit : Fin 3) (addr what : Nat) :
    (s.setReplace unit bit addr what).hub.errors.replace = true ∨ s.hub.errors.why.getLsbD bit.val = true := by
  unfold State.setReplace
  split
  · next h => exact .inr h
  · exact .inl rfl

theorem Link.up_not_down {l : Link} (h : l.isUp = true) : l.state ≠ .down := by
  intro e
  simp [Link.isUp, e] at h

/-! ## Stop bits and sending (R299, R301) -/

theorem txStops_at (b : Port → Link → BitVec 4) (l : List Port) (ls : File Link 6) (n : Fin 6) :
    ∃ x, (l.foldl (fun ls p => ls.mod p.num fun l => { l with txStop := b p l }) ls).at n = { ls.at n with txStop := x } := by
  induction l generalizing ls with
  | nil => exact ⟨_, rfl⟩
  | cons p l ih =>
    obtain ⟨x, hx⟩ := ih (ls.mod p.num fun l => { l with txStop := b p l })
    refine ⟨x, hx.trans ?_⟩
    rw [File.at_mod]
    split
    · next h => rw [h]
    · rfl

/-- The stop bits are all that `setStops` changes of a link. -/
theorem State.setStops_link (s : State) (d e : Fin 4) (q : Port) : ∃ x, (s.setStops d).link e q = { s.link e q with txStop := x } := by
  unfold State.link State.setStops State.modDie
  rw [File.at_mod]
  split
  · next h =>
    subst h
    exact txStops_at ..
  · exact ⟨_, rfl⟩

theorem State.pump_keeps (s : State) (d : Fin 4) (p : Port) :
    (s.pump d p).mem = s.mem ∧ (s.pump d p).cores = s.cores ∧ (s.pump d p).hub = s.hub := ⟨rfl, rfl, rfl⟩

/-- A link that sends keeps its state, lanes and fixed words. -/
theorem Link.pump_keeps (w : Bool) (n : Nat) (l : Link) :
    (l.pump w n).state = l.state ∧ (l.pump w n).lanes32 = l.lanes32 := by
  induction n generalizing l with
  | zero => exact ⟨rfl, rfl⟩
  | succ n ih =>
    unfold Link.pump
    split
    · exact ⟨rfl, rfl⟩
    · split
      · exact ⟨rfl, rfl⟩
      · exact ih _

/-- A waiting flit that is alone and may be sent is stamped with the link's next sequence number, the acknowledgement and the stop bits. -/
def Link.stamped (l : Link) (f : Flit) : Flit := { f.stamp l.txSeq l.rxSeq l.txStop with iv := l.iv, via := none }

theorem Link.pump_single (w : Bool) (l : Link) (hw : l.waiting = [f]) (hs : l.maySend f = true) :
    l.pump w l.waiting.length = { l with
      waiting := [], txSeq := l.txSeq + 1, keyCtr := l.keyCtr + 1, replay := l.replay ++ [l.stamped f],
      wire := if w then l.wire ++ [l.stamped f] else l.wire } := by
  have first : l.waiting.findIdx? l.maySend = some 0 := by simp [hw, hs]
  have one : l.waiting.length = 0 + 1 := by rw [hw]; rfl
  rw [one, Link.pump, first]
  simp only [hw, List.getElem?_cons_zero, List.eraseIdx_zero, List.tail_cons]
  rfl

/-! ## Fields of a flit's header (R300) -/

theorem Flit.stamp_hdr (f : Flit) (n a : BitVec 12) (b : BitVec 4) :
    (f.stamp n a b).hdr.toNat = n.toNat * 2 ^ 52 + a.toNat * 2 ^ 40 + b.toNat * 2 ^ 36 + f.hdr.toNat % 2 ^ 36 := by
  have hn := n.isLt
  have ha := a.isLt
  have hb := b.isLt
  unfold Flit.stamp
  rw [BitVec.toNat_ofNat]
  omega

@[simp] theorem Flit.stamp_seq (f : Flit) (n a : BitVec 12) (b : BitVec 4) : (f.stamp n a b).seq = n := by
  have hn := n.isLt
  have ha := a.isLt
  have hb := b.isLt
  apply BitVec.eq_of_toNat_eq
  rw [Flit.seq, BitVec.toNat_ofNat, bitsOf, Flit.stamp_hdr]
  omega

@[simp] theorem Flit.stamp_kind (f : Flit) (n a : BitVec 12) (b : BitVec 4) : (f.stamp n a b).kind = f.kind := by
  have ha := a.isLt
  have hb := b.isLt
  rw [Flit.kind, Flit.kind, bitsOf, bitsOf, Flit.stamp_hdr]
  omega

@[simp] theorem Flit.stamp_data (f : Flit) (n a : BitVec 12) (b : BitVec 4) : (f.stamp n a b).data = f.data := by
  rw [Flit.stamp]

theorem Link.stamped_hdr (l : Link) (f : Flit) : (l.stamped f).hdr = (f.stamp l.txSeq l.rxSeq l.txStop).hdr := by
  rw [Link.stamped]

theorem Link.stamped_kind (l : Link) (f : Flit) : (l.stamped f).kind = f.kind := by
  rw [← Flit.stamp_kind f l.txSeq l.rxSeq l.txStop, Flit.kind, Flit.kind, Link.stamped_hdr]

theorem Link.stamped_seq (l : Link) (f : Flit) : (l.stamped f).seq = l.txSeq := by
  rw [← Flit.stamp_seq f l.txSeq l.rxSeq l.txStop, Flit.seq, Flit.seq, Link.stamped_hdr]

theorem Link.stamped_h0 (l : Link) (f : Flit) : (l.stamped f).h0 = f.h0 := by
  rw [Link.stamped, Flit.stamp]

/-- The header of a key-control flit: kind 3 on VC 3 (R303). -/
theorem keyHeader_fields (a : Fin 64) (h0 h1 : W64) (data : List Byte) :
    (⟨hdrWord 3 3 a.val a.val 16 0, h0, h1, data, iv, via⟩ : Flit).kind = 3 ∧
      (⟨hdrWord 3 3 a.val a.val 16 0, h0, h1, data, iv, via⟩ : Flit).vc = 3 := by
  have ha := a.isLt
  obtain ⟨r, hr, fields⟩ : ∃ r < 2 ^ 32, (hdrWord 3 3 a.val a.val 16 0).toNat = 15 * 2 ^ 32 + r :=
    ⟨a.val * 2 ^ 26 + a.val * 2 ^ 20 + 2 ^ 16, by omega, by rw [hdrWord, BitVec.toNat_ofNat]; omega⟩
  simp only [Flit.kind, Flit.vc, bitsOf, fields]
  omega

/-! ## Reception (R299 to R301, R303) -/

theorem hear_noiseless (key : Nat) (fixed : W32) (f : Flit) : hear key fixed f [] = ⟨f, true, f.kind == 3 || (f.iv >>> 64).setWidth 32 == fixed⟩ := rfl

theorem hear_noisy (key : Nat) (fixed : W32) (f : Flit) {put : List (Nat × Byte)} (h : put ≠ []) :
    (hear key fixed f put).crc = (crc64 ((put.foldl (fun b e => b.set e.1 e.2) (imageOf key f)).take 248) ==
        BitVec.ofNat 64 (natOfBytes ((put.foldl (fun b e => b.set e.1 e.2) (imageOf key f)).drop 248))) ∧
      (hear key fixed f put).flit.hdr = BitVec.ofNat 64 (natOfBytes ((put.foldl (fun b e => b.set e.1 e.2) (imageOf key f)).take 8)) := by
  have some : ¬ put.isEmpty = true := by rwa [List.isEmpty_iff]
  unfold hear
  rw [if_neg some]
  exact ⟨rfl, rfl⟩

/-- What a port does with a flit that it has heard. -/
def State.take (s : State) (d : Fin 4) (p : Port) (h : Heard) : State :=
  let f := h.flit
  let good := h.crc && bitsOf f.hdr.toNat 3 9 == 0
  if f.kind = 1 || f.kind = 2 then (if good then s.heed d p f.ack f.stop else s.discard d p false f.seq)
  else if good && h.tag && f.seq == (s.link d p).rxSeq + 1 then
    ((s.modLink d p fun l => { l with rxSeq := f.seq, discards := 0, nakSent := false }).heed d p f.ack f.stop).arrive d p f
  else s.discard d p (good && !h.tag) f.seq

section
variable (at_ : List Nat) (noise : List Byte)

theorem exec_flitReceive_down (hu : (s.link d p).isUp = false) : exec (.flitReceive d p f at_ noise) s = .next s := by
  change execFlitReceive d p f at_ noise s = _
  unfold execFlitReceive
  rw [hu]
  rfl

theorem exec_flitReceive_none (hu : (s.link d p).isUp = true) (hi : s.incoming d p f = (none, t)) :
    exec (.flitReceive d p f at_ noise) s = .next t := by
  change execFlitReceive d p f at_ noise s = _
  unfold execFlitReceive
  rw [hu, hi]
  rfl

theorem exec_flitReceive_some (hu : (s.link d p).isUp = true) (hi : s.incoming d p f = (some g, t)) :
    exec (.flitReceive d p f at_ noise) s = .next (t.take d p (hear (t.direction d p) (t.link d p).rxFixed g (at_.zip noise))) := by
  change execFlitReceive d p f at_ noise s = _
  unfold execFlitReceive State.take
  rw [hu, hi]
  simp only [Bool.not_true, Bool.false_eq_true, if_false]
  split
  · rfl
  · split <;> rfl

end

section
variable {h : Heard}

/-- A flit passes its CRC and has no reserved bit of its header set. -/
theorem heard_good : (h.crc && bitsOf h.flit.hdr.toNat 3 9 == 0) = true ↔ h.crc = true ∧ bitsOf h.flit.hdr.toNat 3 9 = 0 := by
  simp

theorem State.take_control (s : State) (hk : h.flit.kind = 1 ∨ h.flit.kind = 2) :
    ((h.crc = true ∧ bitsOf h.flit.hdr.toNat 3 9 = 0) → s.take d p h = s.heed d p h.flit.ack h.flit.stop) ∧
    (¬ (h.crc = true ∧ bitsOf h.flit.hdr.toNat 3 9 = 0) → s.take d p h = s.discard d p false h.flit.seq) := by
  have control : (h.flit.kind = 1 || h.flit.kind = 2) = true := by simpa using hk
  unfold State.take
  simp only [control, if_true, heard_good]
  exact ⟨fun good => if_pos good, fun bad => if_neg bad⟩

theorem State.take_data (s : State) (h1 : h.flit.kind ≠ 1) (h2 : h.flit.kind ≠ 2) :
    let good := h.crc = true ∧ bitsOf h.flit.hdr.toNat 3 9 = 0
    let bad := fun (b : Bool) => s.take d p h = s.discard d p b h.flit.seq
    (good → h.tag = true → h.flit.seq = (s.link d p).rxSeq + 1 →
      s.take d p h = ((s.modLink d p fun l =>
        { l with rxSeq := h.flit.seq, discards := 0, nakSent := false }).heed d p h.flit.ack h.flit.stop).arrive d p h.flit) ∧
    (good → h.tag = true → h.flit.seq ≠ (s.link d p).rxSeq + 1 → bad false) ∧ (good → h.tag = false → bad true) ∧ (¬ good → bad false) := by
  intro good bad
  have control : (h.flit.kind = 1 || h.flit.kind = 2) = false := by simp [h1, h2]
  have passes : good → (h.crc && bitsOf h.flit.hdr.toNat 3 9 == 0) = true := heard_good.mpr
  have fails : ¬ good → (h.crc && bitsOf h.flit.hdr.toNat 3 9 == 0) = false := fun n => by
    rw [← Bool.not_eq_true, heard_good]
    exact n
  simp only [bad, State.take, control, Bool.false_eq_true, if_false]
  refine ⟨fun hg ht hs => ?_, fun hg ht hs => ?_, fun hg ht => ?_, fun hg => ?_⟩
  · rw [passes hg, ht, hs]
    simp
  · rw [passes hg, ht, Bool.and_self, Bool.true_and, if_neg (by simpa using hs), Bool.not_true, Bool.and_false]
  · rw [passes hg, ht]
    simp
  · rw [fails hg]
    simp

end

theorem State.incoming_outside (s : State) (f : Flit) (h : sibling d p = none) : s.incoming d p f = (some f, s) := by
  unfold State.incoming
  rw [h]

theorem State.incoming_empty (s : State) (h : sibling d p = some e) (hk : f.kind ≠ 1) (hw : (s.link e p).wire = []) :
    s.incoming d p f = (none, s) := by
  unfold State.incoming
  simp only [h, hk, if_false, hw]

theorem State.incoming_wire (s : State) (h : sibling d p = some e) (hk : f.kind ≠ 1) {rest : List Flit} (hw : (s.link e p).wire = g :: rest) :
    s.incoming d p f = (some g, s.modLink e p fun l => { l with wire := rest }) := by
  unfold State.incoming
  simp only [h, hk, if_false, hw]

/-- R299 to R301: what an off-package port, and a UCIe port, do with what they receive. -/
theorem exec_flitReceive_outside (at_ : List Nat) (noise : List Byte) (hu : (s.link d p).isUp = true) (h : sibling d p = none) :
    exec (.flitReceive d p f at_ noise) s = .next (s.take d p (hear (s.direction d p) (s.link d p).rxFixed f (at_.zip noise))) :=
  exec_flitReceive_some at_ noise hu (s.incoming_outside f h)

theorem exec_flitReceive_wire (at_ : List Nat) (noise : List Byte) (hu : (s.link d p).isUp = true) (hs : sibling d p = some e) (hk : f.kind ≠ 1)
    {rest : List Flit} (hw : (s.link e p).wire = g :: rest) (hg : g.kind = 0) (quiet : at_.zip noise = [])
    (hv : (g.iv >>> 64).setWidth 32 = (s.link d p).rxFixed) (hr : bitsOf g.hdr.toNat 3 9 = 0) (hq : g.seq = (s.link d p).rxSeq + 1) :
    exec (.flitReceive d p f at_ noise) s = .next ((((s.modLink e p fun l => { l with wire := rest }).modLink d p fun l =>
      { l with rxSeq := g.seq, discards := 0, nakSent := false }).heed d p g.ack g.stop).arrive d p g) := by
  have here : ((s.modLink e p fun l => { l with wire := rest }).link d p) = s.link d p := State.link_modLink_ne s _ (sibling_ne hs)
  rw [exec_flitReceive_some at_ noise hu (s.incoming_wire hs hk hw), quiet, hear_noiseless]
  refine congrArg Host.Outcome.next ((State.take_data (h := ⟨g, true, _⟩) _ ?_ ?_).1 ⟨rfl, hr⟩ ?_ ?_)
  · simp [hg]
  · simp [hg]
  · simp [here, hv]
  · rw [here]
    exact hq

/-- R305: what arrives; a record of a reserved kind is discarded and recorded. -/
theorem State.arrive_spec (s : State) (d : Fin 4) (p : Port) (f : Flit) :
    (f.kind = 3 → s.arrive d p f = s.modLink d p fun l => { l with rxFixed := f.h0.setWidth 32 }) ∧
      (f.kind ≠ 3 → 11 ≤ f.rkind → s.hub.fab.out (s.hub.fab.dieAddr d).val f.dst f.dirs = none →
        s.arrive d p f = s.linkRecord d 0x24 p f.rkind) := by
  unfold State.arrive
  refine ⟨fun h => if_pos h, fun h hk ho => ?_⟩
  rw [if_neg h, ho]
  simp [hk]

theorem State.discard_spec (s : State) (b : Bool) (n : BitVec 12) (hd : (s.link d p).state ≠ .down) :
    ((s.link d p).discards + 1 < 8 → ((s.discard d p b n).link d p).discards = (s.link d p).discards + 1 ∧
      ((s.discard d p b n).link d p).nakSent = ((s.link d p).nakSent || (s.link d p).discards == 0) ∧
      ((s.discard d p b n).link d p).rxSeq = (s.link d p).rxSeq) ∧
    (8 ≤ (s.link d p).discards + 1 → ((s.discard d p b n).link d p).state = .retraining) := by
  obtain ⟨u, keeps, same⟩ : ∃ u : State, s.KeepsLinks u ∧ s.discard d p b n =
      if 8 ≤ (u.link d p).discards + 1 then u.retrain d p false
      else u.modLink d p fun l => { l with discards := (u.link d p).discards + 1, nakSent := l.nakSent || (u.link d p).discards + 1 == 1 } := by
    refine ⟨if b then s.linkRecord d 0x23 p n.toNat else s, ?_, rfl⟩
    split
    · exact .linkRecord ..
    · exact .refl s
  rw [same, keeps.link]
  refine ⟨fun few => ?_, fun many => ?_⟩
  · rw [if_neg (by omega)]
    simp [keeps.link]
  · rw [if_pos many, (u.retrain_spec false (by rwa [keeps.link])).2.2 d (mem_linkEnds_self d p)]
    rfl

/-! ## Replay (R301) -/

/-- A NAK is due at a port: any at an off-package port, the one that its sibling has sent at a UCIe port. -/
def State.nakDue (s : State) (d : Fin 4) (p : Port) (a : BitVec 12) : Bool :=
  match sibling d p with
  | none => true
  | some e => (s.link e p).nakSent && (s.link e p).rxSeq == a

theorem State.nakDue_iff {a : BitVec 12} :
    s.nakDue d p a = true ↔ ∀ e, sibling d p = some e → (s.link e p).nakSent = true ∧ (s.link e p).rxSeq = a := by
  cases h : sibling d p <;> simp [State.nakDue, h]

/-- The sibling's NAK has come. -/
def State.nakTaken (s : State) (d : Fin 4) (p : Port) : State :=
  match sibling d p with
  | some e => s.modLink e p fun l => { l with nakSent := false }
  | none => s

/-- A link end has replayed every flit after the acknowledged one. -/
def Link.replayed (toWire : Bool) (a : BitVec 12) (l : Link) : Link :=
  let rest := (l.replay.dropWhile fun f => seqLe f.seq a).map fun f => f.stamp f.seq l.rxSeq l.txStop
  { l with replay := rest, wire := if toWire then l.wire ++ rest else l.wire }

theorem exec_nakReceive (s : State) (d : Fin 4) (p : Port) (a : BitVec 12) :
    exec (.nakReceive d p a) s = if !(s.link d p).isUp || !s.nakDue d p a then .next s
      else .next (((s.nakTaken d p).modLink d p (Link.replayed (sibling d p).isSome a)).linkRecord d 0x20 p a.toNat) := rfl

theorem State.nakTaken_spec (s : State) (d : Fin 4) (p : Port) :
    (s.nakTaken d p).mem = s.mem ∧ (s.nakTaken d p).cores = s.cores ∧ (s.nakTaken d p).link d p = s.link d p ∧
      ∀ e, sibling d p = some e → ((s.nakTaken d p).link e p).nakSent = false := by
  unfold State.nakTaken
  cases h : sibling d p with
  | none => exact ⟨rfl, rfl, rfl, nofun⟩
  | some e =>
    refine ⟨rfl, rfl, State.link_modLink_ne s _ (sibling_ne h), fun x hx => ?_⟩
    cases hx
    simp

theorem exec_nakReceive_due {a : BitVec 12} (hu : (s.link d p).isUp = true) (hd : s.nakDue d p a = true) :
    ∃ t : State, exec (.nakReceive d p a) s = .next t ∧ t.mem = s.mem ∧ t.cores = s.cores ∧
      t.link d p = (s.link d p).replayed (sibling d p).isSome a ∧ ∀ e, sibling d p = some e → (t.link e p).nakSent = false := by
  obtain ⟨hm, hc, hl, hn⟩ := s.nakTaken_spec d p
  refine ⟨_, (exec_nakReceive ..).trans (if_neg (by simp [hu, hd])), hm, hc, ?_, fun e he => ?_⟩
  · rw [(State.KeepsLinks.linkRecord ..).link, State.link_modLink_self, hl]
  · rw [(State.KeepsLinks.linkRecord ..).link, State.link_modLink_ne _ _ (sibling_ne he).symm]
    exact hn e he

/-- R301: a NAK replays what follows the acknowledged flit. -/
theorem exec_nakReceive_spec (s : State) (d : Fin 4) (p : Port) (a : BitVec 12) :
    let due := ∀ e, sibling d p = some e → (s.link e p).nakSent = true ∧ (s.link e p).rxSeq = a
    ((s.link d p).isUp = false ∨ ¬ due → exec (.nakReceive d p a) s = .next s) ∧
    ((s.link d p).isUp = true → due →
      ∃ t : State, exec (.nakReceive d p a) s = .next t ∧ t.mem = s.mem ∧ t.cores = s.cores ∧
        (t.link d p).replay.map (·.seq) = ((s.link d p).replay.dropWhile fun f => seqLe f.seq a).map (·.seq) ∧
        (t.link d p).replay.map (·.data) = ((s.link d p).replay.dropWhile fun f => seqLe f.seq a).map (·.data) ∧
        (t.link d p).wire = (s.link d p).wire ++ (if (sibling d p).isSome = true then (t.link d p).replay else []) ∧
        ∀ e, sibling d p = some e → (t.link e p).nakSent = false) := by
  refine ⟨fun no => (exec_nakReceive ..).trans (if_pos ?_), fun hu hd => ?_⟩
  · rw [← State.nakDue_iff, Bool.not_eq_true] at no
    rcases no with h | h <;> simp [h]
  · obtain ⟨t, ht, hm, hc, hl, hn⟩ := exec_nakReceive_due hu (State.nakDue_iff.mpr hd)
    refine ⟨t, ht, hm, hc, ?_, ?_, ?_, hn⟩
    · simp [hl, Link.replayed, Function.comp_def]
    · simp [hl, Link.replayed, Function.comp_def]
    · rw [hl]
      cases (sibling d p).isSome <;> simp [Link.replayed]

/-! ## Retraining (R302, R307) -/

theorem exec_lossOfLock_up (hu : (s.link d p).isUp = true) :
    ∃ t : State, exec (.lossOfLock d p) s = .next t ∧ t.mem = s.mem ∧ t.cores = s.cores ∧
      ∀ e ∈ linkEnds d p, (t.link e p).state = .retraining ∧ (t.link e p).txSeq = 0 ∧ (t.link e p).rxSeq = 0xFFF ∧
        (t.link e p).replay = [] ∧ (t.link e p).lanes32 = (s.link e p).lanes32 := by
  obtain ⟨hm, hc, hl⟩ := s.retrain_spec false (Link.up_not_down hu)
  refine ⟨_, congrArg Host.Outcome.next (if_pos hu), hm, hc, fun e he => ?_⟩
  rw [hl e he]
  simp [Link.restarted]

theorem exec_laneFailure_outside (n : Fin 64) (hd : (s.link d p).state ≠ .down) (h : sibling d p = none) :
    exec (.laneFailure d p n) s = .next (s.setLink d p .down) := by
  change execLaneFailure d p n s = _
  unfold execLaneFailure
  rw [if_neg hd, h]

theorem exec_laneFailure_inside (n : Fin 64) (hd : (s.link d p).state ≠ .down) (h : (sibling d p).isSome = true) :
    ∃ t : State, exec (.laneFailure d p n) s = .next t ∧ t.mem = s.mem ∧
      (∀ e ∈ linkEnds d p, (t.link e p).state = .retraining ∧ (t.link e p).lanes32 = true) ∧
      ((s.link d p).lanes32 = false → t.hub.errors.replace = true ∨ s.hub.errors.why.getLsbD 1 = true) := by
  obtain ⟨e, he⟩ := Option.isSome_iff_exists.mp h
  obtain ⟨hm, -, hl⟩ := s.retrain_spec true hd
  have ends : ∀ e ∈ linkEnds d p, ((s.retrain d p true).link e p).state = .retraining ∧ ((s.retrain d p true).link e p).lanes32 = true :=
    fun e he => by
      rw [hl e he]
      simp [Link.restarted]
  change ∃ t, execLaneFailure d p n s = .next t ∧ _
  unfold execLaneFailure
  rw [if_neg hd, he]
  refine ⟨_, rfl, ?_⟩
  cases hn : (s.link d p).lanes32 with
  | true => exact ⟨hm, ends, nofun⟩
  | false =>
    refine ⟨(State.KeepsLinks.setReplace ..).mem.trans hm, fun e he => ?_, fun _ => ?_⟩
    · simp only [Bool.false_eq_true, if_false, (State.KeepsLinks.setReplace ..).link]
      exact ends e he
    · rw [← s.retrain_why d p true]
      exact State.setReplace_replace ..

theorem exec_retrainComplete_retraining (h : (s.link d p).state = .retraining) :
    exec (.retrainComplete d p) s = .next ((s.setLink d p (if (s.link d p).lanes32 then .half else .full)).resendAcross d p) := by
  change execRetrainComplete d p s = _
  unfold execRetrainComplete
  rw [if_neg (by simp [h])]

theorem exec_retrain_other (h : (s.link d p).state ≠ .retraining) :
    exec (.retrainComplete d p) s = .next s ∧ exec (.retrainTimeout d p) s = .next s := by
  refine ⟨?_, congrArg Host.Outcome.next (if_neg h)⟩
  change execRetrainComplete d p s = _
  unfold execRetrainComplete
  rw [if_pos (by simpa using h)]

/-! ## Link states and silences (R297) -/

/-- A change of every die, each with its number. -/
theorem dies_foldl_modDie (h : Fin 4 → Die → Die) (l : List (Fin 4)) (hl : l.Nodup) (s : State) (e : Fin 4) :
    (l.foldl (fun s d => s.modDie d (h d)) s).dies.at e = if e ∈ l then h e (s.dies.at e) else s.dies.at e := by
  induction l generalizing s with
  | nil => simp
  | cons a l ih =>
    obtain ⟨ha, hl⟩ := List.nodup_cons.mp hl
    rw [List.foldl_cons, ih hl, State.modDie, File.at_mod]
    by_cases h : a = e
    · subst h
      simp [ha]
    · simp [h, Ne.symm h]

theorem foldl_modDie_keeps (h : Fin 4 → Die → Die) (l : List (Fin 4)) (s : State) :
    (l.foldl (fun s d => s.modDie d (h d)) s).hub = s.hub ∧ (l.foldl (fun s d => s.modDie d (h d)) s).mem = s.mem ∧
      (l.foldl (fun s d => s.modDie d (h d)) s).cores = s.cores := by
  induction l generalizing s with
  | nil => exact ⟨rfl, rfl, rfl⟩
  | cons a l ih => exact ih _

/-- A die falls silent toward the destinations to which its path has changed, and stays silent toward the others (R297). -/
theorem Die.fallSilent_silentTo (x : Die) (f g : Fabric) (d : Fin 4) (b : Fin 64) :
    (x.fallSilent f g d).silentTo b = true ↔ x.silentTo b = true ∨
      (b.val < g.size ∧ f.path (f.dieAddr d).val b.val ≠ g.path (g.dieAddr d).val b.val) := by
  have changed : b ∈ changedPaths f g d ↔ b.val < g.size ∧ f.path (f.dieAddr d).val b.val ≠ g.path (g.dieAddr d).val b.val := by
    simp [changedPaths]
  rw [← changed]
  simp only [Die.silentTo, Die.fallSilent, List.any_append, List.any_map, List.any_filter, Bool.or_eq_true, List.any_eq_true,
    Function.comp_apply, Bool.and_eq_true, beq_iff_eq, exists_eq_right, Bool.not_eq_true', List.contains_eq_mem, decide_eq_false_iff_not]
  constructor
  · rintro (h | ⟨y, hy, -, hb⟩)
    · exact .inr h
    · exact .inl ⟨y, hy, hb⟩
  · rintro (⟨y, hy, hb⟩ | h)
    · by_cases hc : b ∈ changedPaths f g d
      · exact .inl hc
      · exact .inr ⟨y, hy, hb ▸ hc, hb⟩
    · exact .inl h

/-- The fabric with the link states of the package and those that the management interface has told of others (R297). -/
def State.retold (s : State) : Fabric :=
  { s.hub.fab with up := s.ownUp s.hub.fab ++ s.hub.fab.told.filter fun e => !((List.finRange 4).map s.hub.fab.dieAddr).contains e.1 }

theorem exec_linkStateUpdate (s : State) :
    ∃ t : State, exec .linkStateUpdate s = .next t ∧ t.hub.fab = s.retold ∧ t.mem = s.mem ∧ t.cores = s.cores ∧
      ∀ e b, (t.dies.at e).silentTo b = true ↔ (s.dies.at e).silentTo b = true ∨
        (b.val < s.retold.size ∧ s.hub.fab.path (s.hub.fab.dieAddr e).val b.val ≠ s.retold.path (s.retold.dieAddr e).val b.val) := by
  let u := s.modHub fun h => { h with fab := s.retold }
  obtain ⟨hh, hm, hc⟩ := foldl_modDie_keeps (fun d x => x.fallSilent s.hub.fab s.retold d) (List.finRange 4) u
  refine ⟨_, rfl, (congrArg Hub.fab hh).trans rfl, hm.trans rfl, hc.trans rfl, fun e b => ?_⟩
  rw [← Die.fallSilent_silentTo]
  refine Eq.congr_left (congrArg (fun x => Die.silentTo x b) ?_)
  exact (dies_foldl_modDie _ _ (List.nodup_finRange 4) u e).trans (if_pos (List.mem_finRange e))

theorem exec_pathSilenceExpiry_none {a : Fin 64} (h : (s.dies.at d).silentTo a = false) : exec (.pathSilenceExpiry d a) s = .next s := by
  have none : (s.dies.at d).silent.find? (fun x => x.1 == a) = none := by
    rw [List.find?_eq_none]
    intro x hx
    simpa using (List.any_eq_false.mp h) x hx
  change execPathSilenceExpiry d a s = _
  unfold execPathSilenceExpiry
  rw [none]

theorem exec_pathSilenceExpiry_some {a : Fin 64} {x : Fin 64 × List (Fin 64 × Port)}
    (h : (s.dies.at d).silent.find? (fun x => x.1 == a) = some x) :
    (s.pathFree d a x.2 = false → exec (.pathSilenceExpiry d a) s = .next s) ∧
    (s.pathFree d a x.2 = true →
      let u := s.modDie d fun e => { e with silent := e.silent.filter (fun x => x.1 != a), replies := e.replies.filter fun f => f.dst != a.val }
      exec (.pathSilenceExpiry d a) s = .next (((s.dies.at d).replies.filter fun f => f.dst == a.val).foldl (fun v f => v.sendReply d f)
        (u.resendAll d fun r => r.dst == a))) := by
  change (_ → execPathSilenceExpiry d a s = _) ∧ (_ → execPathSilenceExpiry d a s = _)
  unfold execPathSilenceExpiry
  rw [h]
  exact ⟨fun held => if_pos (by rw [held]; rfl), fun free => if_neg (by rw [free]; decide)⟩

/-! ## Keys (R303, R304) -/

/-- The key-control flit of a die (R303). -/
def State.keyFlit (s : State) (d : Fin 4) (w : W32) : Flit :=
  { hdr := hdrWord 3 3 (s.hub.fab.dieAddr d).val (s.hub.fab.dieAddr d).val 16 0, h0 := w.setWidth 64, h1 := 0, data := [] }

theorem exec_keyControl_down (w : W32) (hu : (s.link d p).isUp = false) : exec (.keyControl d p w) s = .next s := by
  change execKeyControl d p w s = _
  unfold execKeyControl
  rw [hu]
  rfl

/-- A new key's flit goes at once where nothing waits before it and the link may send it (R303, R304). -/
theorem exec_keyControl_up (w : W32) (hu : (s.link d p).isUp = true) (hw : (s.link d p).waiting = [])
    (hr : (s.link d p).replay.length < 1024) (hv : (s.link d p).stop.getLsbD 3 = false) :
    ∃ (t : State) (f : Flit), exec (.keyControl d p w) s = .next t ∧ t.mem = s.mem ∧ t.cores = s.cores ∧ (t.link d p).fixed = w ∧
      (t.link d p).keyCtr = 1 ∧ (t.link d p).keyHeld = false ∧ (t.link d p).keyLow = false ∧ (t.link d p).replay = (s.link d p).replay ++ [f] ∧
      f.kind = 3 ∧ f.seq = (s.link d p).txSeq ∧ f.h0 = w.setWidth 64 := by
  let f := s.keyFlit d w
  obtain ⟨kind, vc⟩ : f.kind = 3 ∧ f.vc = 3 := keyHeader_fields ..
  let l : Link := { s.link d p with fixed := w, keyCtr := 0, keyHeld := false, keyLow := false, waiting := [f] }
  let u := s.modLink d p fun l => { l with fixed := w, keyCtr := 0, keyHeld := false, keyLow := false, waiting := f :: l.waiting }
  have waits : u.link d p = l := by
    simp only [u, l, State.link_modLink_self, hw]
  have sends : l.maySend f = true := by
    have up : l.isUp = true := hu
    simp [-BitVec.getLsbD_eq_getElem, Link.maySend, up, Link.exhausted, vc, l, hr, hv]
  have sent := Link.pump_single (sibling d p).isSome l rfl sends
  obtain ⟨x, hx⟩ := State.setStops_link (u.modLink d p fun l => Link.pump (sibling d p).isSome l.waiting.length l) d d p
  rw [State.link_modLink_self, waits, sent] at hx
  have final : ((u.pump d p).linkRecord d 0x25 p 0).link d p = _ := ((State.KeepsLinks.linkRecord ..).link d p).trans hx
  refine ⟨(u.pump d p).linkRecord d 0x25 p 0, l.stamped f, if_neg (by simp [hu]), rfl, rfl, ?_⟩
  rw [final]
  refine ⟨rfl, rfl, rfl, rfl, rfl, (Link.stamped_kind ..).trans kind, Link.stamped_seq .., Link.stamped_h0 ..⟩

theorem Link.exhausted_iff {l : Link} : l.exhausted = true ↔ l.keyHeld = true ∨ 2 ^ 40 - 1 ≤ l.keyCtr := by
  simp [Link.exhausted]

theorem State.keyHeld_of_exhausted (h : (s.link d p).exhausted = true) : s.keyHeld = true :=
  List.any_eq_true.mpr ⟨d, List.mem_finRange d, List.any_eq_true.mpr ⟨p.num, List.mem_finRange p.num, h⟩⟩

theorem Link.maySend_exhausted {l : Link} (h : l.exhausted = true) (hk : f.kind ≠ 3) : l.maySend f = false := by
  simp [Link.maySend, h, hk]

/-! ## Settling O53 -/

theorem flitReceive_clauses (s : State) (d : Fin 4) (p : Port) (f : Flit) (at_ : List Nat) (noise : List Byte) :
    let l := s.link d p
    let put := at_.zip noise
    let h := hear (s.direction d p) l.rxFixed f put
    let got := put.foldl (fun b e => b.set e.1 e.2) (imageOf (s.direction d p) f)
    (put = [] → h = ⟨f, true, f.kind == 3 || (f.iv >>> 64).setWidth 32 == l.rxFixed⟩) ∧
    (put ≠ [] → h.crc = (crc64 (got.take 248) == BitVec.ofNat 64 (natOfBytes (got.drop 248))) ∧
      h.flit.hdr = BitVec.ofNat 64 (natOfBytes (got.take 8))) := by
  intro l put h got
  refine ⟨fun quiet => ?_, hear_noisy _ _ f⟩
  simp only [h, quiet, hear_noiseless]

/-- Settles O53, clause by clause: what a port does with a flit is `State.take`; a change of a link's state is a change at both of its ends. -/
theorem links : Obligations.Links := by
  unfold Obligations.Links
  refine ⟨fun s d p => ?_, fun s d p a w => ?_⟩
  · intro l ends
    refine ⟨fun f at_ noise => ?_, s.arrive_spec d p, fun b q t ht hd => ?_, exec_nakReceive_spec s d p, ?_, exec_lossOfLock_up, ?_,
      exec_retrain_other, ?_⟩
    · intro put h got
      obtain ⟨quiet, noisy⟩ := flitReceive_clauses s d p f at_ noise
      refine ⟨quiet, noisy, exec_flitReceive_down at_ noise, fun hu hs => ?_, fun hu e hs hk => ⟨fun hw => ?_, fun g rest hw hg hq hv hr hn => ?_⟩⟩
      · intro g good bad
        have runs := exec_flitReceive_outside (f := f) at_ noise hu hs
        refine ⟨fun hc => ?_, fun h1 h2 => ?_⟩
        · obtain ⟨heeds, discards⟩ := s.take_control (d := d) (p := p) hc
          exact ⟨fun hg => runs.trans (congrArg _ (heeds hg)), fun hg => runs.trans (congrArg _ (discards hg))⟩
        · obtain ⟨takes, late, forged, broken⟩ := s.take_data (d := d) (p := p) h1 h2
          exact ⟨fun hg ht hq => runs.trans (congrArg _ (takes hg ht hq)), fun hg ht hq => runs.trans (congrArg _ (late hg ht hq)),
            fun hg ht => runs.trans (congrArg _ (forged hg ht)), fun hg => runs.trans (congrArg _ (broken hg))⟩
      · exact exec_flitReceive_none at_ noise hu (s.incoming_empty hs hk hw)
      · exact exec_flitReceive_wire at_ noise hu hs hk hw hg hq hv hr hn
    · subst ht
      exact s.discard_spec b q hd
    · exact fun hu => congrArg Host.Outcome.next (if_neg (Bool.eq_false_iff.mp hu))
    · exact fun n => ⟨fun hd => if_pos hd, fun hd hs => ⟨_, exec_laneFailure_outside n hd hs, s.setLink_mem .., s.setLink_state ..⟩,
        exec_laneFailure_inside n⟩
    · intro h
      refine ⟨⟨exec_retrainComplete_retraining h, s.setLink_state ..⟩, congrArg Host.Outcome.next (if_pos h)⟩
  · intro l
    refine ⟨exec_linkStateUpdate s, exec_pathSilenceExpiry_none, fun x => exec_pathSilenceExpiry_some, exec_keyControl_down w,
      exec_keyControl_up w, fun i n f hi => ?_, ?_, ?_, Link.exhausted_iff, State.keyHeld_of_exhausted, fun f => Link.maySend_exhausted,
      fun st => ⟨s.setLink_state .., s.setLink_mem ..⟩⟩
    · simp only [List.mem_cons, Prod.mk.injEq, List.not_mem_nil, or_false] at hi
      rcases hi with ⟨rfl, rfl, rfl⟩ | ⟨rfl, rfl, rfl⟩ <;>
        exact ⟨fun h => congrArg Host.Outcome.next (if_pos h), fun h => congrArg Host.Outcome.next (if_neg (Nat.not_le.mpr h))⟩
    · exact fun h => congrArg Host.Outcome.next (if_pos h)
    · exact fun h => congrArg Host.Outcome.next (if_neg (Bool.eq_false_iff.mp h))

end Sys2Proof.Machine
end

section
/-! PROOFS. Numbers among bytes, and what a command leaves in the payload (R352). -/

namespace Sys2Proof.Machine

/-! ## Numbers of several bytes (R4) -/

theorem natOfBytes_lt (l : List Byte) : natOfBytes l < 256 ^ l.length := by
  induction l with
  | nil => exact Nat.one_pos
  | cons b l ih =>
    have hb := b.isLt
    simp only [natOfBytes, List.length_cons, Nat.pow_succ]
    omega

theorem natOfBytes_bytes (n v : Nat) : natOfBytes (bytesOfNat n v) = v % 256 ^ n := by
  induction n generalizing v with
  | zero => simp [bytesOfNat, natOfBytes, Nat.mod_one]
  | succ n ih =>
    rw [bytesOfNat, natOfBytes, ih, Nat.pow_succ, Nat.mul_comm (256 ^ n) 256, Nat.mod_mul, BitVec.toNat_ofNat]

theorem Bytes.length_read (m : Bytes) (a n : Nat) : (m.read a n).length = n := by
  rw [Bytes.read_eq_map]
  simp

theorem Bytes.num_lt (m : Bytes) (a n : Nat) : m.num a n < 256 ^ n := by
  have := natOfBytes_lt (m.read a n)
  rwa [Bytes.length_read] at this

/-- The lowest bytes of a number. -/
theorem Bytes.num_mod (m : Bytes) (a j k : Nat) : m.num a (j + k) % 256 ^ j = m.num a j := by
  induction j generalizing a with
  | zero => simp [Bytes.num, Bytes.read, natOfBytes, Nat.mod_one]
  | succ j ih =>
    have step : ∀ n, m.num a (n + 1) = (m.get a).toNat + 256 * m.num (a + 1) n := fun n => rfl
    have hb := (m.get a).isLt
    rw [Nat.succ_add, step, step, ← ih (a + 1), Nat.pow_succ, Nat.mul_comm (256 ^ j) 256, Nat.mod_mul, Nat.add_mul_mod_self_left,
      Nat.mod_eq_of_lt hb, Nat.add_mul_div_left _ _ (by decide), Nat.div_eq_of_lt hb, Nat.zero_add]

theorem Bytes.num_congr {m k : Bytes} {a n : Nat} (h : ∀ x, a ≤ x → x < a + n → m.get x = k.get x) : m.num a n = k.num a n := by
  unfold Bytes.num
  rw [Bytes.read_eq_map, Bytes.read_eq_map]
  refine congrArg natOfBytes (List.map_congr_left fun x hx => ?_)
  obtain ⟨i, hi, rfl⟩ := List.mem_map.mp hx
  exact h _ (Nat.le_add_right ..) (Nat.add_lt_add_left (List.mem_range.mp hi) a)

theorem Bytes.read_write_self {m : Bytes} (h : m.wf = true) (a : Nat) (b : List Byte) : (m.write a b).read a b.length = b := by
  induction b generalizing m a with
  | nil => rfl
  | cons v r ih =>
    have first : ((m.set a v).write (a + 1) r).get a = v :=
      (Bytes.get_write_out (Bytes.set_wf h a v) (a + 1) r (.inl (Nat.lt_succ_self a))).trans (Bytes.get_set_self h a v)
    rw [Bytes.write, List.length_cons, Bytes.read, first, ih (Bytes.set_wf h a v)]

/-! ## Numbers written among bytes -/

/-- A span of bytes and the number written there. -/
structure Span where
  off : Nat
  len : Nat
  val : Nat

/-- Two spans share no byte. -/
def Span.apart (e f : Span) : Prop := e.off + e.len ≤ f.off ∨ f.off + f.len ≤ e.off

section
variable {m : Bytes} (h : m.wf = true)
include h

theorem Bytes.putNum_wf (a n v : Nat) : (m.putNum a n v).wf = true := Bytes.write_wf h ..

theorem Bytes.num_putNum_self (a n v : Nat) : (m.putNum a n v).num a n = v % 256 ^ n := by
  have back := Bytes.read_write_self h a (bytesOfNat n v)
  rw [length_bytesOfNat] at back
  rw [Bytes.num, Bytes.putNum, back, natOfBytes_bytes]

theorem Bytes.num_putNum_apart {e f : Span} (apart : e.apart f) : (m.putNum f.off f.len f.val).num e.off e.len = m.num e.off e.len := by
  refine Bytes.num_congr fun x hx hy => Bytes.get_write_out h _ _ ?_
  rw [length_bytesOfNat]
  unfold Span.apart at apart
  omega

end

/-- The bytes with the numbers of a list of spans written in order. -/
def Bytes.putSpans (m : Bytes) (l : List Span) : Bytes := l.foldl (fun m e => m.putNum e.off e.len e.val) m

theorem Bytes.putSpans_wf {m : Bytes} (h : m.wf = true) (l : List Span) : (m.putSpans l).wf = true := by
  induction l generalizing m with
  | nil => exact h
  | cons e l ih => exact ih (Bytes.putNum_wf h ..)

theorem Bytes.num_putSpans_apart {m : Bytes} (h : m.wf = true) {e : Span} {l : List Span} (apart : ∀ f ∈ l, e.apart f) :
    (m.putSpans l).num e.off e.len = m.num e.off e.len := by
  induction l generalizing m with
  | nil => rfl
  | cons f l ih =>
    rw [List.forall_mem_cons] at apart
    exact (ih (Bytes.putNum_wf h ..) apart.2).trans (Bytes.num_putNum_apart h apart.1)

/-- A number that no later one of the list touches stands. -/
theorem Bytes.num_putSpans_last {m : Bytes} (h : m.wf = true) (pre : List Span) {e : Span} {post : List Span} (apart : ∀ f ∈ post, e.apart f) :
    (m.putSpans (pre ++ e :: post)).num e.off e.len = e.val % 256 ^ e.len := by
  have hp := Bytes.putSpans_wf h pre
  unfold Bytes.putSpans
  rw [List.foldl_append, List.foldl_cons]
  exact (Bytes.num_putSpans_apart (Bytes.putNum_wf hp ..) apart).trans (Bytes.num_putNum_self hp ..)

/-- Each number of a list of spans that lie apart stands. -/
theorem Bytes.num_putSpans_mem {m : Bytes} (h : m.wf = true) {l : List Span} (hl : l.Pairwise Span.apart) {e : Span} (he : e ∈ l) :
    (m.putSpans l).num e.off e.len = e.val % 256 ^ e.len := by
  obtain ⟨pre, post, rfl⟩ := List.append_of_mem he
  exact Bytes.num_putSpans_last h pre fun f hf => (List.pairwise_cons.mp (List.pairwise_append.mp hl).2.1).1 f hf

/-! ## The payload -/

/-- The results of a command, written into the payload in order. -/
def State.setSpans (s : State) (l : List Span) : State := l.foldl (fun s e => s.setPay e.off e.len e.val) s

theorem State.setSpans_eq (s : State) (l : List Span) : s.setSpans l = s.modMbox fun m => { m with payload := m.payload.putSpans l } := by
  induction l generalizing s with
  | nil => rfl
  | cons e l ih => exact ih (s.setPay e.off e.len e.val)

section
variable {s : State} (h : s.hub.mbox.payload.wf = true)
include h

/-- What a command has written into the payload and not written over stands. -/
theorem State.num_setSpans_last (pre : List Span) {e : Span} {post : List Span} (apart : ∀ f ∈ post, e.apart f) :
    (s.setSpans (pre ++ e :: post)).hub.mbox.payload.num e.off e.len = e.val % 256 ^ e.len := by
  rw [State.setSpans_eq]
  exact Bytes.num_putSpans_last h pre apart

theorem State.num_setSpans_mem {l : List Span} (hl : l.Pairwise Span.apart) {e : Span} (he : e ∈ l) :
    (s.setSpans l).hub.mbox.payload.num e.off e.len = e.val % 256 ^ e.len := by
  rw [State.setSpans_eq]
  exact Bytes.num_putSpans_mem h hl he

end

/-- The results of a command change the payload alone. -/
theorem State.setSpans_keeps (s : State) (l : List Span) : (s.setSpans l).mem = s.mem ∧ (s.setSpans l).hub.scree = s.hub.scree := by
  rw [State.setSpans_eq]
  exact ⟨rfl, rfl⟩

/-- A field of the lowest two bytes at an offset. -/
theorem State.pay_half (s : State) (off : Nat) : s.pay off 0 16 = s.hub.mbox.payload.num off 2 := by
  rw [State.pay, bitsOf, Nat.pow_zero, Nat.div_one]
  exact Bytes.num_mod _ off 2 6

end Sys2Proof.Machine
end

section
/-! PROOFS. What the resending across a link keeps of memory and of every link's state (R302, R307, R309). -/

namespace Sys2Proof.Machine

/-- Memory, and the state and width of every link, are as before. -/
structure State.KeepsLanes (s t : State) : Prop where
  mem : t.mem = s.mem
  lanes : ∀ d p, (t.link d p).state = (s.link d p).state ∧ (t.link d p).lanes32 = (s.link d p).lanes32

namespace State.KeepsLanes

variable {s t u : State}

theorem of_link (hm : t.mem = s.mem) (hl : ∀ d p, t.link d p = s.link d p) : s.KeepsLanes t :=
  ⟨hm, fun d p => by rw [hl]; exact ⟨rfl, rfl⟩⟩

theorem of_dies (hm : t.mem = s.mem) (hd : t.dies = s.dies) : s.KeepsLanes t :=
  of_link hm fun d p => by rw [State.link, hd]; rfl

theorem refl (s : State) : s.KeepsLanes s := of_dies rfl rfl

theorem trans (h : s.KeepsLanes t) (g : t.KeepsLanes u) : s.KeepsLanes u :=
  ⟨g.mem.trans h.mem, fun d p => ⟨(g.lanes d p).1.trans (h.lanes d p).1, (g.lanes d p).2.trans (h.lanes d p).2⟩⟩

theorem foldl {α : Type} {f : State → α → State} (h : ∀ t a, State.KeepsLanes t (f t a)) (l : List α) (s : State) :
    s.KeepsLanes (l.foldl f s) :=
  List.foldlRecOn (motive := fun t => s.KeepsLanes t) l f (refl s) fun t ht a _ => ht.trans (h t a)

/-- A change of a die that keeps the state and width of its links. -/
theorem modDie (s : State) (d : Fin 4) {f : Die → Die}
    (h : ∀ e n, ((f e).links.at n).state = (e.links.at n).state ∧ ((f e).links.at n).lanes32 = (e.links.at n).lanes32) :
    s.KeepsLanes (s.modDie d f) := by
  refine ⟨rfl, fun e p => ?_⟩
  unfold State.link State.modDie
  by_cases hd : d = e
  · subst hd
    rw [File.at_mod_self]
    exact h _ _
  · rw [File.at_mod, if_neg hd]
    exact ⟨rfl, rfl⟩

theorem modLink (s : State) (d : Fin 4) (p : Port) {f : Link → Link} (h : ∀ l, (f l).state = l.state ∧ (f l).lanes32 = l.lanes32) :
    s.KeepsLanes (s.modLink d p f) := by
  refine ⟨rfl, fun e q => ?_⟩
  rw [State.link_modLink]
  split
  · exact h _
  · exact ⟨rfl, rfl⟩

/-! ## Errors and charges (R209, R213, R345) -/

theorem badSector (s : State) (n : Nat) : s.KeepsLanes (s.badSector n) := by
  unfold State.badSector
  split
  · exact of_link (State.KeepsLinks.setReplace ..).mem (State.KeepsLinks.setReplace ..).link
  · exact of_dies rfl rfl

theorem discardUnstarted (s : State) (c : CoreId) : s.KeepsLanes (s.discardUnstarted c) := by
  unfold State.discardUnstarted
  refine State.KeepsLanes.trans ?_ (modDie _ _ fun _ _ => ⟨rfl, rfl⟩)
  exact of_dies rfl rfl

theorem machineCheck (s : State) (c : CoreId) (what addr d0 d1 d2 : Nat) : s.KeepsLanes (s.machineCheck c what addr d0 d1 d2) := by
  have checked (u : State) (f : Core → Core) :
      u.KeepsLanes (((((u.endLease c).dropWait c).scree (screeUnit c) 0x11 (BitVec.ofNat 64 what)).discardUnstarted c).modCore c f) := by
    have left : u.KeepsLanes (((u.endLease c).dropWait c).scree (screeUnit c) 0x11 (BitVec.ofNat 64 what)) := of_dies rfl rfl
    have done (v : State) : v.KeepsLanes (v.modCore c f) := of_dies rfl rfl
    exact (left.trans (discardUnstarted _ c)).trans (done _)
  unfold State.machineCheck
  cases (s.core c).aux.run with
  | none => exact checked s _
  | some r =>
    refine State.KeepsLanes.trans ?_ (checked _ _)
    exact of_dies rfl rfl

theorem consumeError (s : State) (c : CoreId) (what addr : Nat) (next : Bool) : s.KeepsLanes (s.consumeError c what addr next) := by
  simp only [State.consumeError]
  split
  · exact refl s
  · split
    · exact of_dies rfl rfl
    · exact machineCheck ..

theorem consumePoison (s : State) (c : CoreId) (n : Nat) : s.KeepsLanes (s.consumePoison c n) :=
  ((of_dies rfl rfl : s.KeepsLanes s.freeWord.2).trans (badSector _ n)).trans (consumeError ..)

theorem seenFrom {α : Type} (s : State) (c : CoreId) (n : Nat) (old : Old → Option α) (now : α) : s.KeepsLanes (s.seenFrom c n old now).2 := by
  unfold State.seenFrom
  split
  · exact refl s
  · dsimp only
    split
    · exact refl s
    · exact of_dies rfl rfl

theorem charge (s : State) (w : Who) (pc : W32) (a : Acct) : s.KeepsLanes (s.charge w pc a) := by
  have counted (u : State) (hu : s.KeepsLanes u) (f : Core → Core) :
      s.KeepsLanes (match a.poison with
        | none => u.modCore w.core f
        | some x => (u.modCore w.core f).consumePoison w.core x) := by
    have h : s.KeepsLanes (u.modCore w.core f) := hu.trans (of_dies rfl rfl)
    cases a.poison with
    | none => exact h
    | some x => exact h.trans (consumePoison ..)
  unfold State.charge
  cases ho : a.oox with
  | false => exact counted s (refl s) _
  | true =>
    rw [if_pos rfl]
    split
    next on u seen =>
    have hu : _ = u := congrArg Prod.snd seen
    refine counted u ?_ _
    rw [← hu]
    exact seenFrom ..

theorem chargeAt (s : State) (c : CoreId) (q : Seq) (x : Fin 4) (pc : W32) (uid : Nat) (a : Acct) :
    s.KeepsLanes (s.chargeAt c q x pc uid a) := by
  unfold State.chargeAt State.chargeCtl
  split
  · split
    · have h : s.KeepsLanes (s.modCore c fun k => k.owes .ctl a) := of_dies rfl rfl
      cases a.poison with
      | none => exact h
      | some z => exact h.trans (consumePoison ..)
    · exact charge ..
  · exact charge ..

/-! ## Requests that are over (R196, R213) -/

theorem dropReqs (s : State) (d : Fin 4) (uid : Nat) : s.KeepsLanes (s.dropReqs d uid) := by
  unfold State.dropReqs
  split
  · exact refl s
  · exact modDie _ _ fun _ _ => ⟨rfl, rfl⟩

theorem settleLoose (s : State) (d : Fin 4) (uid : Nat) : s.KeepsLanes (s.settleLoose d uid) := by
  simp only [State.settleLoose]
  split
  · exact refl s
  · split
    · exact (dropReqs ..).trans (chargeAt ..)
    · exact refl s

theorem modCmd (s : State) (u : Nat) (f : Cmd → Cmd) : s.KeepsLanes (s.modCmd u f) := by
  refine of_link rfl fun d p => ?_
  simp only [State.modCmd, State.link, State.modHub, File.at_map]

theorem countPosted (s : State) (c : CoreId) (uid : Nat) (a : Acct) : s.KeepsLanes (s.countPosted c uid a) := by
  unfold State.countPosted
  split
  · exact refl s
  · exact of_dies rfl rfl

theorem postedDone (s : State) (d : Fin 4) (r : Req) : s.KeepsLanes (s.postedDone d r) := by
  have gone (c : CoreId) (f : Core → Core) : s.KeepsLanes ((s.modCore c f).dropReqs d r.uid) :=
    (of_dies rfl rfl : s.KeepsLanes (s.modCore c f)).trans (dropReqs ..)
  unfold State.postedDone
  split
  · exact refl s
  · split
    · exact refl s
    · extract_lets u a b
      have hu : s.KeepsLanes u := gone ..
      split
      · exact hu.trans (modCmd ..)
      · split
        · exact hu
        · exact (hu.trans (countPosted ..)).trans (chargeAt ..)

/-! ## Sending again (R302, R307, R309) -/

theorem setStops (s : State) (d : Fin 4) : s.KeepsLanes (s.setStops d) := by
  refine ⟨rfl, fun e q => ?_⟩
  obtain ⟨x, hx⟩ := s.setStops_link d e q
  rw [hx]
  exact ⟨rfl, rfl⟩

theorem pump (s : State) (d : Fin 4) (p : Port) : s.KeepsLanes (s.pump d p) :=
  (modLink s d p fun l => Link.pump_keeps _ _ l).trans (setStops ..)

theorem forward (s : State) (d : Fin 4) (f : Flit) : s.KeepsLanes (s.forward d f) := by
  simp only [State.forward]
  split
  · exact modDie _ _ fun _ _ => ⟨rfl, rfl⟩
  · refine State.KeepsLanes.trans ?_ (pump ..)
    exact modLink _ _ _ fun _ => ⟨rfl, rfl⟩

theorem resend (s : State) (d : Fin 4) (r : Req) : s.KeepsLanes (s.resend d r) := by
  simp only [State.resend]
  split
  · split
    · exact modDie _ _ fun _ _ => ⟨rfl, rfl⟩
    · refine State.KeepsLanes.trans (State.KeepsLanes.trans ?_ (postedDone ..)) (settleLoose ..)
      exact modDie _ _ fun _ _ => ⟨rfl, rfl⟩
  · refine State.KeepsLanes.trans ?_ (forward ..)
    exact modDie _ _ fun _ _ => ⟨rfl, rfl⟩

theorem resendAll (s : State) (d : Fin 4) (which : Req → Bool) : s.KeepsLanes (s.resendAll d which) := by
  unfold State.resendAll
  refine State.KeepsLanes.trans ?_ (foldl (fun t r => resend t d r) ..)
  split
  · exact refl s
  · refine modDie _ _ fun e n => ?_
    rw [File.at_map]
    exact ⟨rfl, rfl⟩

theorem resendAcross (s : State) (d : Fin 4) (p : Port) : s.KeepsLanes (s.resendAcross d p) :=
  (foldl (fun t e => resendAll t e _) ..).trans (foldl (fun t e => pump t e p) ..)

end State.KeepsLanes

/-! ## The management interface brings a link up (R302) -/

/-- Both ends of a link may use their full width again. -/
def State.widened (s : State) (d : Fin 4) (p : Port) : State := s.modEnds (linkEnds d p) p fun l => { l with lanes32 := false }

theorem State.widened_link (s : State) (d : Fin 4) (p : Port) : (s.widened d p).link d p = { s.link d p with lanes32 := false } := by
  rw [State.widened, State.modEnds_link _ (linkEnds_nodup d p)]
  simp [mem_linkEnds_self]

theorem State.widened_mem (s : State) (d : Fin 4) (p : Port) : (s.widened d p).mem = s.mem := (State.modEnds_keeps ..).1

/-- The state of a link that the management interface has brought up. -/
def LinkState.brought : LinkState → LinkState
  | .down | .full => .full
  | .half | .retraining => .retraining

theorem State.setLink_lanes32 (s : State) (d : Fin 4) (p : Port) (st : LinkState) :
    ((s.setLink d p st).link d p).lanes32 = (s.link d p).lanes32 := by
  by_cases h : (s.link d p).state = st
  · unfold State.setLink
    rw [if_pos h]
  · rw [(s.setLink_eq h).link, State.modEnds_link _ (linkEnds_nodup d p)]
    simp [mem_linkEnds_self]

theorem State.bringUp_spec (s : State) (d : Fin 4) (p : Port) :
    (s.bringUp d p).mem = s.mem ∧ ((s.bringUp d p).link d p).lanes32 = false ∧
      ((s.bringUp d p).link d p).state = (s.link d p).state.brought := by
  have wide := s.widened_link d p
  have mem := s.widened_mem d p
  unfold State.bringUp
  cases h : (s.link d p).state with
  | down =>
    have again := State.KeepsLanes.resendAcross ((s.widened d p).setLink d p .full) d p
    refine ⟨(again.mem.trans (State.setLink_mem ..)).trans mem, ?_, (again.lanes d p).1.trans (State.setLink_state ..)⟩
    refine (again.lanes d p).2.trans ((State.setLink_lanes32 ..).trans ?_)
    rw [wide]
  | half =>
    obtain ⟨hm, -, hl⟩ := (s.widened d p).retrain_spec (d := d) (p := p) false (by rw [wide, h]; decide)
    have restarted := hl d (mem_linkEnds_self d p)
    rw [wide] at restarted
    exact ⟨hm.trans mem, congrArg Link.lanes32 restarted, congrArg Link.state restarted⟩
  | full | retraining =>
    refine ⟨mem, congrArg Link.lanes32 wide, (congrArg Link.state wide).trans h⟩

end Sys2Proof.Machine
end

section
/-! PROOFS. Mailbox commands about partitions, the Commons, the Warren, the fabric, Scree, health and the power cap (R278, R290, R295 to R297,
R311, R346, R348, R366, R368, R372, R374, R377). -/

namespace Sys2Proof.Machine

variable {s : State} {p : Fin 16} {d : Fin 4}

/-! ## The commands at an idle mailbox -/

section
variable (hb : s.hub.mbox.busy = false) (hr : s.hub.brock.boot ≠ .recovery)
include hb hr

theorem exec_setPartition_idle (h : s.pay 0 8 1 = 0) : exec .setPartition s = .next (s.runSetPartition.ended s) :=
  congrArg Host.Outcome.next ((if_pos h).trans (State.mboxRun_idle hb hr ..))

theorem exec_setPartitionRemove_idle (h : s.pay 0 8 1 = 1) : exec .setPartitionRemove s = .next (s.runRemovePartition.ended s) :=
  congrArg Host.Outcome.next ((if_pos h).trans (State.mboxRun_idle hb hr ..))

theorem exec_setCommons_idle : exec .setCommons s = .next (s.runSetCommons.ended s) := congrArg Host.Outcome.next (State.mboxRun_idle hb hr ..)

theorem exec_setWarren_idle : exec .setWarren s = .next (s.runSetWarren.ended s) := congrArg Host.Outcome.next (State.mboxRun_idle hb hr ..)

theorem exec_setFabricGeometry_idle (h : s.pay 0 0 2 = 0) : exec .setFabricGeometry s = .next (s.runGeometry.ended s) :=
  congrArg Host.Outcome.next ((if_pos h).trans (State.mboxRun_idle hb hr ..))

theorem exec_setFabricGroup_idle (h : s.pay 0 0 2 = 1) : exec .setFabricGroup s = .next (s.runGroup.ended s) :=
  congrArg Host.Outcome.next ((if_pos h).trans (State.mboxRun_idle hb hr ..))

theorem exec_setFabricLink_idle (h : s.pay 0 0 2 = 2) : exec .setFabricLink s = .next (s.runLink.ended s) :=
  congrArg Host.Outcome.next ((if_pos h).trans (State.mboxRun_idle hb hr ..))

theorem exec_readScree_idle : exec .readScree s = .next (s.runReadScree.ended s) := congrArg Host.Outcome.next (State.mboxRun_idle hb hr ..)

theorem exec_screeRelease_idle : exec .screeRelease s = .next (s.runScreeRelease.ended s) :=
  congrArg Host.Outcome.next (State.mboxRun_idle hb hr ..)

theorem exec_readHealth_idle : exec .readHealth s = .next (s.runReadHealth.ended s) := congrArg Host.Outcome.next (State.mboxRun_idle hb hr ..)

theorem exec_setPowerCap_idle : exec .setPowerCap s = .next (s.runSetPowerCap.ended s) :=
  congrArg Host.Outcome.next (State.mboxRun_idle hb hr ..)

end

/-- The mailbox reports that a command is done: no error, detail 0. -/
def State.reportsDone (t : State) : Prop := t.hub.mbox.error = false ∧ t.hub.mbox.detail = 0

theorem State.succeeds_reportsDone (t : State) : t.succeeds.reportsDone := ⟨rfl, rfl⟩

theorem State.succeeds_mem (t : State) : t.succeeds.mem = t.mem := rfl

theorem State.succeeds_scree (t : State) : t.succeeds.hub.scree = t.hub.scree := rfl

theorem State.succeeds_payload (t : State) : t.succeeds.hub.mbox.payload = t.hub.mbox.payload := rfl

theorem State.succeeds_pay (t : State) (off lo n : Nat) : t.succeeds.pay off lo n = t.pay off lo n := rfl

/-! ## Partitions (R346, R348, R353) -/

/-- A cluster that another partition holds cannot be given. -/
theorem State.partBad_overlap {t : Part} {q : Fin 16} {o : Part} (hq : q ≠ p) (ho : s.hub.parts.at q = some o) (h : o.clusters &&& t.clusters ≠ 0) :
    s.partBad p t = true := by
  unfold State.partBad
  rw [Bool.or_eq_true]
  refine .inr (List.any_eq_true.mpr ⟨q, List.mem_finRange q, Bool.and_eq_true_iff.mpr ⟨bne_iff_ne.mpr hq, ?_⟩⟩)
  rw [ho]
  exact Bool.or_eq_true_iff.mpr (.inl (bne_iff_ne.mpr h))

/-! ## Commons (R278) -/

/-- A removed range reads 0; every other byte stays. -/
theorem Bytes.get_clear {m : Bytes} (h : m.wf = true) (lo hi a : Nat) : (m.clear lo hi).get a = if lo ≤ a ∧ a < hi then 0 else m.get a := by
  induction m with
  | nil => simp [Bytes.clear, Bytes.get, blank]
  | cons c r ih =>
    obtain ⟨x, b⟩ := c
    have ih := ih (Bytes.wf_tail h)
    have above : a ≤ x → Bytes.get r a = 0 := fun hx => Bytes.get_of_above (Bytes.wf_above h) hx (Bytes.wf_tail h)
    by_cases hx : lo ≤ x ∧ x < hi
    · have gone : Bytes.clear ((x, b) :: r) lo hi = Bytes.clear r lo hi := by simp [Bytes.clear, hx]
      rw [gone, ih]
      by_cases ha : lo ≤ a ∧ a < hi
      · rw [if_pos ha, if_pos ha]
      · rw [if_neg ha, if_neg ha, Bytes.get]
        split
        · exact above (by omega)
        · rw [if_neg (by rintro rfl; exact ha hx)]
    · have kept : Bytes.clear ((x, b) :: r) lo hi = (x, b) :: Bytes.clear r lo hi := by
        rw [Bytes.clear, List.filter_cons, if_pos (by simp only [Bool.not_eq_true', Bool.and_eq_false_iff, decide_eq_false_iff_not]; omega)]
        rfl
      rw [kept, Bytes.get, Bytes.get, ih]
      by_cases ha : lo ≤ a ∧ a < hi
      · have ne : a ≠ x := by rintro rfl; exact hx ha
        rw [if_pos ha, if_pos ha, if_neg ne]
        exact ite_self _
      · rw [if_neg ha, if_neg ha]

/-- An address lies in an 8 MiB block of a Commons slot. -/
def inWay (d : Fin 4) (j a : Nat) : Prop :=
  Config.commonsBase + d.val * 2 ^ 26 + j * 2 ^ 23 ≤ a ∧ a < Config.commonsBase + d.val * 2 ^ 26 + j * 2 ^ 23 + 2 ^ 23

/-- Blocks of a Commons slot are cleared. -/
def State.clearWays (s : State) (d : Fin 4) (l : List Nat) : State := l.foldl (fun t j => t.clearWay d j) s

theorem State.clearWays_keeps (s : State) (d : Fin 4) (l : List Nat) : (s.clearWays d l).hub = s.hub ∧ (s.clearWays d l).dies = s.dies := by
  induction l generalizing s with
  | nil => exact ⟨rfl, rfl⟩
  | cons j l ih => exact ih (s.clearWay d j)

theorem State.clearWays_get (h : s.mem.wf = true) (d : Fin 4) (l : List Nat) (a : Nat) :
    ((∃ j ∈ l, inWay d j a) → (s.clearWays d l).mem.get a = 0) ∧ ((¬ ∃ j ∈ l, inWay d j a) → (s.clearWays d l).mem.get a = s.mem.get a) := by
  induction l generalizing s with
  | nil => exact ⟨fun ⟨_, hj, _⟩ => absurd hj List.not_mem_nil, fun _ => rfl⟩
  | cons j l ih =>
    obtain ⟨zero, kept⟩ := ih (s := s.clearWay d j) (Bytes.clear_wf h ..)
    have here := Bytes.get_clear h (Config.commonsBase + d.val * 2 ^ 26 + j * 2 ^ 23) (Config.commonsBase + d.val * 2 ^ 26 + j * 2 ^ 23 + 2 ^ 23) a
    by_cases later : ∃ i ∈ l, inWay d i a
    · exact ⟨fun _ => zero later, fun no => absurd (later.imp fun i hi => ⟨List.mem_cons_of_mem _ hi.1, hi.2⟩) no⟩
    · refine ⟨fun ⟨i, hi, ha⟩ => ?_, fun no => ?_⟩
      · rcases List.mem_cons.mp hi with rfl | hi
        · exact (kept later).trans (here.trans (if_pos ha))
        · exact absurd ⟨i, hi, ha⟩ later
      · exact (kept later).trans (here.trans (if_neg fun ha => no ⟨j, List.mem_cons_self, ha⟩))

/-! ## The fabric (R295, R311) -/

theorem eraseDups_length_le {α : Type} [DecidableEq α] (l : List α) : l.eraseDups.length ≤ l.length := by
  match l with
  | [] => simp
  | a :: l =>
    have short := List.length_filter_le (fun b => !b == a) l
    have := eraseDups_length_le (l.filter fun b => !b == a)
    rw [List.eraseDups_cons, List.length_cons, List.length_cons]
    omega
termination_by l.length
decreasing_by exact Nat.lt_succ_of_le (List.length_filter_le ..)

/-- A list loses an element with its duplicates exactly where it has one. -/
theorem eraseDups_length_lt_iff {α : Type} [DecidableEq α] (l : List α) : l.eraseDups.length < l.length ↔ ¬ l.Nodup := by
  induction l with
  | nil => simp
  | cons a l ih =>
    rw [List.eraseDups_cons, List.length_cons, List.length_cons, Nat.add_lt_add_iff_right, List.nodup_cons]
    by_cases ha : a ∈ l
    · have shorter : (l.filter fun b => !b == a).length < l.length :=
        List.length_filter_lt_length_iff_exists.mpr ⟨a, ha, by simp⟩
      have := eraseDups_length_le (l.filter fun b => !b == a)
      simp only [ha, not_true, false_and, not_false_iff, iff_true]
      omega
    · have same : (l.filter fun b => !b == a) = l := List.filter_eq_self.mpr fun b hb => by
        simpa using fun e : b = a => ha (e ▸ hb)
      rw [same, ih]
      simp [ha]

/-- The parties that the payload names, and the owner (R311). -/
def State.payParties (s : State) : List (Fin 64) := (List.range (s.pay 8 24 7)).map fun j => Fin.ofNat 64 (s.pay (0x40 + j) 0 6)

def State.payGroupOwner (s : State) : Fin 16 := Fin.ofNat 16 (s.pay 8 16 4)

/-- The owner of a group has a tile run. -/
def State.groupRuns (s : State) (g : Fin 64) : Bool :=
  match s.hub.fab.groups.at g with
  | some r => s.hasRun r.owner fun _ => true
  | none => false

theorem State.groupRuns_iff {g : Fin 64} : s.groupRuns g = true ↔
    ∃ r, s.hub.fab.groups.at g = some r ∧ s.hasRun r.owner (fun _ => true) = true := by
  cases h : s.hub.fab.groups.at g <;> simp [State.groupRuns, h]

/-- The payload breaks a rule of a group's parties. -/
def State.partiesBad (s : State) : Bool :=
  s.pay 8 24 7 == 0 || decide (64 < s.pay 8 24 7) || s.payParties.any (fun d => decide (s.hub.fab.size ≤ d.val)) ||
    decide (s.payParties.eraseDups.length < s.payParties.length)

theorem State.partiesBad_iff : s.partiesBad = true ↔
    s.pay 8 24 7 = 0 ∨ 64 < s.pay 8 24 7 ∨ (∃ a ∈ s.payParties, s.hub.fab.size ≤ a.val) ∨ ¬ s.payParties.Nodup := by
  simp only [State.partiesBad, Bool.or_eq_true, beq_iff_eq, decide_eq_true_eq, or_assoc, List.any_eq_true, eraseDups_length_lt_iff]

theorem State.runGroup_eq (s : State) : s.runGroup =
    let g := Fin.ofNat 64 (s.pay 8 0 6)
    let on := s.pay 8 8 1 == 1
    Ran.check [(s.groupRuns g || (on && s.hasRun s.payGroupOwner fun _ => true), 2), (on && s.partiesBad, 3)]
      (s.modHub fun h => { h with fab := { h.fab with
        groups := h.fab.groups.put g (if on then some ⟨s.payGroupOwner, s.payParties⟩ else none) } }) := rfl

theorem portAt_num (q : Port) : portAt q.num.val = some q := by cases q <;> rfl

theorem portAt_none {n : Nat} (h : 5 < n) : portAt n = none := List.getElem?_eq_none h

/-- What the management interface has been told of the links of other packages, with what it is told now. -/
def tell (l : List (Fin 64 × Port)) (e : Fin 64 × Port) (on : Bool) : List (Fin 64 × Port) :=
  (if on then [e] else []) ++ l.filter fun x => x != e

theorem mem_tell_self (l : List (Fin 64 × Port)) (e : Fin 64 × Port) (on : Bool) : e ∈ tell l e on ↔ on = true := by
  cases on <;> simp [tell]

theorem mem_tell_ne (l : List (Fin 64 × Port)) {e x : Fin 64 × Port} (on : Bool) (h : x ≠ e) : x ∈ tell l e on ↔ x ∈ l := by
  cases on <;> simp [tell, h]

/-- What SET_FABRIC does with a link: one of the package is brought up or goes down, of another one the management interface is told (R297). -/
def State.linkSet (s : State) (a : Nat) (q : Port) (on : Bool) : State :=
  match s.hub.fab.dieOf a with
  | some d => if on then s.bringUp d q else s.setLink d q .down
  | none => s.modHub fun h => { h with fab := { h.fab with told := tell h.fab.told (Fin.ofNat 64 a, q) on } }

theorem State.runLink_port {q : Port} (h : q.num.val = s.pay 8 8 3) : s.runLink =
    Ran.check [(decide (s.hub.fab.size ≤ s.pay 8 0 6) || (s.pay 8 16 1 == 1 && !s.hub.fab.portOk q), 3)]
      (s.linkSet (s.pay 8 0 6) q (s.pay 8 16 1 == 1)) := by
  unfold State.runLink
  rw [← h, portAt_num]
  rfl

theorem State.runLink_none (h : 5 < s.pay 8 8 3) : s.runLink = .rejected 3 := by
  unfold State.runLink
  rw [portAt_none h]

/-! ## Health and Scree (R366, R368, R372) -/

/-- The health block as it is written into the payload (R372). -/
def State.healthSpans (s : State) : List Span :=
  ⟨0, 8, s.hub.errors.why.toNat + s.hub.errors.replace.toNat * 2 ^ 32⟩ ::
    (((List.range 8).map fun r => ⟨8 + r, 1, (s.hub.errors.floors.getLsbD r).toNat⟩) ++
      (((List.finRange 13).map fun n => ⟨0x10 + 2 * n.val, 2, (s.hub.power.temps.at n).toNat⟩) ++
        [⟨0x2A, 6, 0⟩, ⟨0x30, 2, s.hub.power.watts.toNat⟩, ⟨0x32, 6, s.hub.power.cap.toNat⟩]))

theorem State.runReadHealth_eq (s : State) : s.runReadHealth = .done (s.setSpans s.healthSpans) := by
  unfold State.setSpans State.healthSpans
  rw [List.foldl_cons, List.foldl_append, List.foldl_append, List.foldl_map, List.foldl_map]
  rfl

theorem State.healthSpans_apart (s : State) : s.healthSpans.Pairwise Span.apart := by
  refine List.Pairwise.of_map (S := fun e f => e.1 + e.2 ≤ f.1 ∨ f.1 + f.2 ≤ e.1) (fun e : Span => (e.off, e.len)) (fun _ _ => id) ?_
  change ((0, 8) :: (((List.range 8).map fun r => (8 + r, 1)) ++ (((List.finRange 13).map fun n => (0x10 + 2 * n.val, 2)) ++
    [(0x2A, 6), (0x30, 2), (0x32, 6)]))).Pairwise _
  decide

theorem State.mem_healthSpans (s : State) (n : Fin 13) :
    ⟨0, 8, s.hub.errors.why.toNat + s.hub.errors.replace.toNat * 2 ^ 32⟩ ∈ s.healthSpans ∧
      ⟨0x10 + 2 * n.val, 2, (s.hub.power.temps.at n).toNat⟩ ∈ s.healthSpans ∧
      ⟨0x30, 2, s.hub.power.watts.toNat⟩ ∈ s.healthSpans ∧ ⟨0x32, 6, s.hub.power.cap.toNat⟩ ∈ s.healthSpans := by
  unfold State.healthSpans
  refine ⟨List.mem_cons_self, List.mem_cons_of_mem _ (List.mem_append_right _ (List.mem_append_left _ ?_)), ?_, ?_⟩
  · exact List.mem_map.mpr ⟨n, List.mem_finRange n, rfl⟩
  · simp
  · simp

/-- The fields of the health block, where it stands in the payload. -/
theorem State.health_pay (s : State) {t : State} (held : ∀ e ∈ s.healthSpans, t.hub.mbox.payload.num e.off e.len = e.val % 256 ^ e.len) :
    t.pay 0 0 32 = s.hub.errors.why.toNat ∧ t.pay 0 32 1 = s.hub.errors.replace.toNat ∧ t.pay 0x30 0 16 = s.hub.power.watts.toNat ∧
      t.pay 0x32 0 16 = s.hub.power.cap.toNat ∧ ∀ n : Fin 13, t.pay (0x10 + 2 * n.val) 0 16 = (s.hub.power.temps.at n).toNat := by
  obtain ⟨first, -, watts, cap⟩ := s.mem_healthSpans 0
  have first : t.hub.mbox.payload.num 0 8 = (s.hub.errors.why.toNat + s.hub.errors.replace.toNat * 2 ^ 32) % 256 ^ 8 := held _ first
  have watts : t.hub.mbox.payload.num 0x30 2 = s.hub.power.watts.toNat % 256 ^ 2 := held _ watts
  have cap : t.hub.mbox.payload.num 0x32 6 = s.hub.power.cap.toNat % 256 ^ 6 := held _ cap
  have why := s.hub.errors.why.isLt
  have replace : s.hub.errors.replace.toNat ≤ 1 := Bool.toNat_le _
  have hw := s.hub.power.watts.isLt
  have hc := s.hub.power.cap.isLt
  refine ⟨?_, ?_, ?_, ?_, fun n => ?_⟩
  · rw [State.pay, first, bitsOf]
    omega
  · rw [State.pay, first, bitsOf]
    omega
  · rw [State.pay_half, watts]
    omega
  · rw [State.pay_half, ← Bytes.num_mod _ _ 2 4, cap]
    omega
  · have ht := (s.hub.power.temps.at n).isLt
    have temp : t.hub.mbox.payload.num (0x10 + 2 * n.val) 2 = (s.hub.power.temps.at n).toNat % 256 ^ 2 := held _ (s.mem_healthSpans n).2.1
    rw [State.pay_half, temp]
    omega

/-- The copy of Scree that the payload asks for. -/
def State.screeAsked (s : State) : ScreeCopy := s.hub.scree.at (Fin.ofNat 5 (s.pay 0 0 3))

/-- The records that READ_SCREE gives, each with its place and its number (R368). -/
def State.screeOut (s : State) : List (Nat × W64 × W64) :=
  ((List.range s.screeAsked.recs.length).filterMap fun i => (s.screeAsked.recs[s.screeAsked.recs.length - 1 - i]?).map fun r =>
    ((s.screeAsked.count.toNat + 2 ^ 32 - s.screeAsked.recs.length + i) % 2 ^ 32, r)).filter fun e =>
      decide ((e.1 + 2 ^ 32 - s.pay 8 0 32) % 2 ^ 32 < s.pay 0x10 0 5)

/-- The records as they are written into the payload. -/
def recordSpans (l : List (Nat × W64 × W64)) : List Span := ((List.range l.length).zip l).flatMap fun e =>
  [⟨0x10 + 24 * e.1, 8, e.2.1⟩, ⟨0x18 + 24 * e.1, 8, e.2.2.1.toNat⟩, ⟨0x20 + 24 * e.1, 8, e.2.2.2.toNat⟩]

theorem recordSpans_above {l : List (Nat × W64 × W64)} {f : Span} (h : f ∈ recordSpans l) : 0x10 ≤ f.off := by
  obtain ⟨e, -, hf⟩ := List.mem_flatMap.mp h
  simp only [List.mem_cons, List.not_mem_nil, or_false] at hf
  rcases hf with rfl | rfl | rfl <;> exact Nat.le_add_right_of_le (by decide)

/-- The results of READ_SCREE. -/
def State.screeSpans (s : State) : List Span :=
  ⟨0, 8, s.screeAsked.count.toNat + s.screeAsked.dropped.toNat * 2 ^ 32⟩ :: ⟨8, 8, s.hub.frozen.toNat + s.screeOut.length * 2 ^ 8⟩ ::
    recordSpans s.screeOut

theorem State.runReadScree_eq (s : State) : s.runReadScree =
    Ran.check [(decide (4 < s.pay 0 0 3) || s.pay 0x10 0 5 == 0 || decide (16 < s.pay 0x10 0 5), 3)] (s.setSpans s.screeSpans) := by
  unfold State.setSpans State.screeSpans recordSpans
  rw [List.foldl_cons, List.foldl_cons, List.foldl_flatMap]
  rfl

/-- The fields of the head of what READ_SCREE gives. -/
theorem State.scree_pay (h : s.hub.mbox.payload.wf = true) :
    (s.setSpans s.screeSpans).pay 0 0 32 = s.screeAsked.count.toNat ∧ (s.setSpans s.screeSpans).pay 0 32 32 = s.screeAsked.dropped.toNat ∧
      (s.setSpans s.screeSpans).pay 8 0 1 = s.hub.frozen.toNat := by
  have hc := s.screeAsked.count.isLt
  have hd := s.screeAsked.dropped.isLt
  have hf : s.hub.frozen.toNat ≤ 1 := Bool.toNat_le _
  have first : (s.setSpans s.screeSpans).hub.mbox.payload.num 0 8 =
      (s.screeAsked.count.toNat + s.screeAsked.dropped.toNat * 2 ^ 32) % 256 ^ 8 := by
    refine State.num_setSpans_last h [] fun f hf => .inl ?_
    rcases List.mem_cons.mp hf with rfl | hf
    · exact Nat.le_refl 8
    · exact Nat.le_trans (show 0 + 8 ≤ 0x10 by decide) (recordSpans_above hf)
  have second : (s.setSpans s.screeSpans).hub.mbox.payload.num 8 8 = (s.hub.frozen.toNat + s.screeOut.length * 2 ^ 8) % 256 ^ 8 :=
    State.num_setSpans_last h [_] fun f hf => .inl (recordSpans_above hf)
  refine ⟨?_, ?_, ?_⟩
  · rw [State.pay, first, bitsOf]
    omega
  · rw [State.pay, first, bitsOf]
    omega
  · rw [State.pay, second, bitsOf]
    omega

/-! ## The Warren (R290) -/

/-- The queue that the payload gives a Warren queue's place. -/
def State.payUnits (s : State) (q : Fin 64) : Nat := s.pay (0x40 + 2 * q.val) 0 9

def State.payOwner (s : State) (q : Fin 64) : Fin 16 := Fin.ofNat 16 (s.pay (0x40 + 2 * q.val) 12 4)

/-- The payload leaves the configuration of a Warren queue as it stands. -/
def State.warrenStands (s : State) (d : Fin 4) (q : Fin 64) : Bool :=
  ((s.dies.at d).warren.at q).owner == s.payOwner q && ((s.dies.at d).warren.at q).cap == 256 * s.payUnits q

theorem State.warrenStands_iff {q : Fin 64} : s.warrenStands d q = true ↔
    ((s.dies.at d).warren.at q).owner = s.payOwner q ∧ ((s.dies.at d).warren.at q).cap = 256 * s.payUnits q := by
  simp [State.warrenStands]

/-- The owners of a Warren queue with room. -/
def WarrenQueue.owners (w : WarrenQueue) : List (Fin 16) := if w.cap = 0 then [] else [w.owner]

/-- The owners of the queues that the payload changes. -/
def State.warrenOwners (s : State) (d : Fin 4) : List (Fin 16) :=
  ((List.finRange 64).filter fun q => !s.warrenStands d q).flatMap fun q =>
    ((s.dies.at d).warren.at q).owners ++ WarrenQueue.owners ⟨s.payOwner q, 256 * s.payUnits q, []⟩

theorem WarrenQueue.mem_owners {w : WarrenQueue} {p : Fin 16} : p ∈ w.owners ↔ w.cap ≠ 0 ∧ p = w.owner := by
  unfold WarrenQueue.owners
  split <;> simp [*]

theorem State.warrenOwners_busy (s : State) (d : Fin 4) : s.ownersBusy d (s.warrenOwners d) = true ↔
    ∃ q, ¬ s.warrenStands d q = true ∧
      ((((s.dies.at d).warren.at q).cap ≠ 0 ∧ s.hasRun ((s.dies.at d).warren.at q).owner (fun e => e == d) = true) ∨
        (s.payUnits q ≠ 0 ∧ s.hasRun (s.payOwner q) (fun e => e == d) = true)) := by
  have room (q : Fin 64) : 256 * s.payUnits q ≠ 0 ↔ s.payUnits q ≠ 0 := by omega
  simp only [State.ownersBusy, State.warrenOwners, List.any_eq_true, List.mem_flatMap, List.mem_filter, List.mem_finRange, true_and,
    Bool.not_eq_true', Bool.not_eq_true, List.mem_append, WarrenQueue.mem_owners, room]
  constructor
  · rintro ⟨p, ⟨q, moved, ⟨cap, rfl⟩ | ⟨units, rfl⟩⟩, runs⟩
    · exact ⟨q, moved, .inl ⟨cap, runs⟩⟩
    · exact ⟨q, moved, .inr ⟨units, runs⟩⟩
  · rintro ⟨q, moved, ⟨cap, runs⟩ | ⟨units, runs⟩⟩
    · exact ⟨_, ⟨q, moved, .inl ⟨cap, rfl⟩⟩, runs⟩
    · exact ⟨_, ⟨q, moved, .inr ⟨units, rfl⟩⟩, runs⟩

/-- The queues of a die as the payload configures them; one whose configuration changes is emptied. -/
def State.warrenNew (s : State) (d : Fin 4) : File WarrenQueue 64 := Vector.ofFn fun q =>
  if s.warrenStands d q then (s.dies.at d).warren.at q else ⟨s.payOwner q, 256 * s.payUnits q, []⟩

theorem State.warrenNew_at (s : State) (d : Fin 4) (q : Fin 64) : (s.warrenNew d).at q =
    if s.warrenStands d q then (s.dies.at d).warren.at q else ⟨s.payOwner q, 256 * s.payUnits q, []⟩ := File.at_ofFn ..

theorem State.runSetWarren_eq (s : State) : s.runSetWarren =
    let d := Fin.ofNat 4 (s.pay 0 0 2)
    Ran.check [(s.ownersBusy d (s.warrenOwners d), 2),
      ((List.finRange 64).any (fun q => decide (256 < s.payUnits q)) || decide (256 < ((List.finRange 64).map s.payUnits).sum), 3)]
      (s.modDie d fun e => { e with warren := s.warrenNew d }) := rfl

/-! ## Settling O50, command by command -/

section
variable (hb : s.hub.mbox.busy = false) (hr : s.hub.brock.boot ≠ .recovery)
include hb hr

theorem setPartition_clauses (h : s.pay 0 8 1 = 0) :
    let p := Fin.ofNat 16 (s.pay 0 0 4)
    (s.hasRun p (fun _ => true) = true → exec .setPartition s = .next (s.mboxReject 2)) ∧
    (s.hasRun p (fun _ => true) = false → s.partBad p (s.payPart (s.hub.parts.at p)) = true →
      exec .setPartition s = .next (s.mboxReject 3)) ∧
    (s.hasRun p (fun _ => true) = false → s.partBad p (s.payPart (s.hub.parts.at p)) = false →
      ∃ (t : State) (n : Part), exec .setPartition s = .next t ∧ t.reportsDone ∧ t.mem = s.mem ∧ t.cores = s.cores ∧
        t.hub.parts = s.hub.parts.put p (some n) ∧ n.clusters = BitVec.ofNat 16 (s.pay 8 0 16) ∧ n.ranges = s.payRanges ∧
        n.raceBase = s.pay 0x10 0 52 ∧ n.raceK = s.pay 0x18 0 5 ∧ n.saveBase = s.pay 0x20 0 52 ∧ n.preqBase = s.pay 0x28 0 52 ∧
        (∀ o, s.hub.parts.at p = some o → n.pre = o.pre ∧ n.preqWr = o.preqWr ∧ n.rlogWr = o.rlogWr)) := by
  intro p
  rw [exec_setPartition_idle hb hr h, State.runSetPartition]
  refine ⟨fun busy => by rw [Ran.check_first _ _ _ busy]; rfl, fun free bad => by rw [Ran.check_second _ _ _ free bad]; rfl, fun free good => ?_⟩
  rw [Ran.check_neither _ _ _ free good]
  refine ⟨_, s.payPart (s.hub.parts.at p), rfl, State.succeeds_reportsDone _, rfl, rfl, rfl, rfl, rfl, rfl, rfl, rfl, rfl, fun o ho => ?_⟩
  rw [ho]
  exact ⟨rfl, rfl, rfl⟩

theorem removePartition_clauses (h : s.pay 0 8 1 = 1) :
    let p := Fin.ofNat 16 (s.pay 0 0 4)
    (s.hasRun p (fun _ => true) = true → exec .setPartitionRemove s = .next (s.mboxReject 2)) ∧
    (s.hasRun p (fun _ => true) = false →
      ∃ t : State, exec .setPartitionRemove s = .next t ∧ t.reportsDone ∧ t.mem = s.mem ∧ t.hub.parts = s.hub.parts.put p none ∧
        (∀ e ∈ t.hub.queues, e.1.part ≠ p) ∧ (∀ e ∈ s.hub.queues, e.1.part ≠ p → e ∈ t.hub.queues)) := by
  intro p
  rw [exec_setPartitionRemove_idle hb hr h, State.runRemovePartition]
  refine ⟨fun busy => by rw [Ran.check_rejected busy]; rfl, fun free => ?_⟩
  rw [Ran.check_done free]
  refine ⟨_, rfl, State.succeeds_reportsDone _, rfl, rfl, fun e he => ?_, fun e he hp => List.mem_filter.mpr ⟨he, bne_iff_ne.mpr hp⟩⟩
  exact bne_iff_ne.mp (List.mem_filter.mp he).2

theorem setCommons_clauses (hm : s.mem.wf = true) :
    let d := Fin.ofNat 4 (s.pay 0 0 2)
    let n := s.pay 0 8 3
    let owners := (List.range n).map fun j => Fin.ofNat 16 (s.pay 8 (4 * j) 4)
    let old := (s.dies.at d).commons
    let moved := fun (a : Nat) => ∃ j < 7, min n old.length ≤ j ∧ j < max n old.length ∧ inWay d j a
    (s.ownersBusy d (old ++ owners) = true → exec .setCommons s = .next (s.mboxReject 2)) ∧
    (s.ownersBusy d (old ++ owners) = false →
      ∃ t : State, exec .setCommons s = .next t ∧ t.reportsDone ∧ (t.dies.at d).commons = owners ∧
        (∀ e, e ≠ d → (t.dies.at e).commons = (s.dies.at e).commons) ∧ (∀ a, moved a → t.mem.get a = 0) ∧
        ∀ a, ¬ moved a → t.mem.get a = s.mem.get a) := by
  intro d n owners old moved
  let l := (List.range 7).filter fun j => decide (min n old.length ≤ j) && decide (j < max n old.length)
  have mem_l (j : Nat) : j ∈ l ↔ j < 7 ∧ min n old.length ≤ j ∧ j < max n old.length := by simp [l]
  have moves (a : Nat) : moved a ↔ ∃ j ∈ l, inWay d j a := by simp only [moved, mem_l, and_assoc]
  rw [exec_setCommons_idle hb hr, State.runSetCommons]
  refine ⟨fun busy => by rw [Ran.check_rejected busy]; rfl, fun free => ?_⟩
  rw [Ran.check_done free]
  have dies := (s.clearWays_keeps d l).2
  refine ⟨_, rfl, State.succeeds_reportsDone _, ?_, fun e he => ?_, fun a ha => ?_, fun a ha => ?_⟩
  · exact congrArg Die.commons (File.at_mod_self ..)
  · refine congrArg Die.commons ((File.at_mod ..).trans ((if_neg (Ne.symm he)).trans ?_))
    exact congrArg (File.at · e) dies
  · exact (State.clearWays_get hm d l a).1 ((moves a).mp ha)
  · exact (State.clearWays_get hm d l a).2 (mt (moves a).mpr ha)

theorem setWarren_clauses :
    let d := Fin.ofNat 4 (s.pay 0 0 2)
    let old := fun (q : Fin 64) => (s.dies.at d).warren.at q
    let stands := fun (q : Fin 64) => (old q).owner = s.payOwner q ∧ (old q).cap = 256 * s.payUnits q
    let busy := ∃ q, ¬ stands q ∧ (((old q).cap ≠ 0 ∧ s.hasRun (old q).owner (fun e => e == d) = true) ∨
      (s.payUnits q ≠ 0 ∧ s.hasRun (s.payOwner q) (fun e => e == d) = true))
    let bad := (∃ q, 256 < s.payUnits q) ∨ 256 < ((List.finRange 64).map s.payUnits).sum
    (busy → exec .setWarren s = .next (s.mboxReject 2)) ∧
    (¬ busy → bad → exec .setWarren s = .next (s.mboxReject 3)) ∧
    (¬ busy → ¬ bad →
      ∃ t : State, exec .setWarren s = .next t ∧ t.reportsDone ∧ t.mem = s.mem ∧ (∀ e, e ≠ d → t.dies.at e = s.dies.at e) ∧
        ∀ q, (stands q → (t.dies.at d).warren.at q = old q) ∧
          (¬ stands q → (t.dies.at d).warren.at q = ⟨s.payOwner q, 256 * s.payUnits q, []⟩)) := by
  intro d old stands busy bad
  have isBusy : s.ownersBusy d (s.warrenOwners d) = true ↔ busy := by
    rw [State.warrenOwners_busy]
    simp only [State.warrenStands_iff]
    exact Iff.rfl
  have isBad : ((List.finRange 64).any (fun q => decide (256 < s.payUnits q)) || decide (256 < ((List.finRange 64).map s.payUnits).sum)) = true ↔
      bad := by simp [bad]
  rw [exec_setWarren_idle hb hr, State.runSetWarren_eq]
  refine ⟨fun hu => by rw [Ran.check_first _ _ _ (isBusy.mpr hu)]; rfl, fun hu hd => ?_, fun hu hd => ?_⟩
  · rw [Ran.check_second _ _ _ (Bool.eq_false_iff.mpr (mt isBusy.mp hu)) (isBad.mpr hd)]
    rfl
  · rw [Ran.check_neither _ _ _ (Bool.eq_false_iff.mpr (mt isBusy.mp hu)) (Bool.eq_false_iff.mpr (mt isBad.mp hd))]
    refine ⟨_, rfl, State.succeeds_reportsDone _, rfl, fun e he => ?_, fun q => ?_⟩
    · exact (File.at_mod ..).trans (if_neg (Ne.symm he))
    · have here : (((s.modDie d fun e => { e with warren := s.warrenNew d }).dies.at d).warren.at q) =
          if s.warrenStands d q then old q else ⟨s.payOwner q, 256 * s.payUnits q, []⟩ := by
        rw [State.modDie, File.at_mod_self, State.warrenNew_at]
      exact ⟨fun h => here.trans (if_pos (State.warrenStands_iff.mpr h)), fun h => here.trans (if_neg (mt State.warrenStands_iff.mp h))⟩

theorem setGeometry_clauses (h : s.pay 0 0 2 = 0) :
    let x := s.pay 8 0 8
    let y := s.pay 8 8 8
    let z := s.pay 8 16 8
    let bad := x % 2 ≠ 0 ∨ x = 0 ∨ y % 2 ≠ 0 ∨ y = 0 ∨ z = 0 ∨ 64 < x * y * z ∨ x < 2 * s.pay 8 32 8 + 2 ∨ y < 2 * s.pay 8 40 8 + 2 ∨
      z ≤ s.pay 8 48 8
    (bad ∨ s.hub.fab.fixed = true → exec .setFabricGeometry s = .next (s.mboxReject 3)) ∧
    (¬ bad → s.hub.fab.fixed = false → ∃ t : State, exec .setFabricGeometry s = .next t ∧ t.reportsDone ∧ t.mem = s.mem ∧
      t.hub.fab.size = x * y * z ∧ t.hub.fab.fixed = true ∧ t.hub.fab.groups = s.hub.fab.groups ∧
      ∀ e : Fin 4, t.hub.fab.place e = ⟨2 * s.pay 8 32 8 + e.val % 2, 2 * s.pay 8 40 8 + e.val / 2, s.pay 8 48 8⟩) := by
  intro x y z bad
  rw [exec_setFabricGeometry_idle hb hr h, State.runGeometry]
  refine ⟨fun hd => ?_, fun hd hf => ?_⟩
  · rw [Ran.check_rejected (by simpa only [Bool.or_eq_true, bne_iff_ne, beq_iff_eq, decide_eq_true_eq, or_assoc, bad] using hd)]
    rfl
  · rw [Ran.check_done (Bool.eq_false_iff.mpr (by
      simpa only [Bool.or_eq_true, bne_iff_ne, beq_iff_eq, decide_eq_true_eq, or_assoc, hf, Bool.false_eq_true, or_false, bad, ne_eq] using hd))]
    exact ⟨_, rfl, State.succeeds_reportsDone _, rfl, rfl, rfl, rfl, fun e => rfl⟩

theorem setGroup_clauses (h : s.pay 0 0 2 = 1) :
    let g := Fin.ofNat 64 (s.pay 8 0 6)
    let n := s.pay 8 24 7
    let parties := (List.range n).map fun j => Fin.ofNat 64 (s.pay (0x40 + j) 0 6)
    let owner := Fin.ofNat 16 (s.pay 8 16 4)
    let on := s.pay 8 8 1 = 1
    let busy := (∃ r, s.hub.fab.groups.at g = some r ∧ s.hasRun r.owner (fun _ => true) = true) ∨
      (on ∧ s.hasRun owner (fun _ => true) = true)
    let bad := on ∧ (n = 0 ∨ 64 < n ∨ (∃ a ∈ parties, s.hub.fab.size ≤ a.val) ∨ ¬ parties.Nodup)
    (busy → exec .setFabricGroup s = .next (s.mboxReject 2)) ∧
    (¬ busy → bad → exec .setFabricGroup s = .next (s.mboxReject 3)) ∧
    (¬ busy → ¬ bad → ∃ t : State, exec .setFabricGroup s = .next t ∧ t.reportsDone ∧ t.mem = s.mem ∧
      (on → t.hub.fab.groups = s.hub.fab.groups.put g (some ⟨owner, parties⟩)) ∧
      (¬ on → t.hub.fab.groups = s.hub.fab.groups.put g none)) := by
  intro g n parties owner on busy bad
  have isOn : (s.pay 8 8 1 == 1) = true ↔ on := beq_iff_eq
  have isBusy : (s.groupRuns g || (s.pay 8 8 1 == 1 && s.hasRun s.payGroupOwner fun _ => true)) = true ↔ busy := by
    rw [Bool.or_eq_true, Bool.and_eq_true, isOn, State.groupRuns_iff]
    exact Iff.rfl
  have isBad : (s.pay 8 8 1 == 1 && s.partiesBad) = true ↔ bad := by
    rw [Bool.and_eq_true, isOn, State.partiesBad_iff]
    exact Iff.rfl
  rw [exec_setFabricGroup_idle hb hr h, State.runGroup_eq]
  refine ⟨fun hu => by rw [Ran.check_first _ _ _ (isBusy.mpr hu)]; rfl, fun hu hd => ?_, fun hu hd => ?_⟩
  · rw [Ran.check_second _ _ _ (Bool.eq_false_iff.mpr (mt isBusy.mp hu)) (isBad.mpr hd)]
    rfl
  · rw [Ran.check_neither _ _ _ (Bool.eq_false_iff.mpr (mt isBusy.mp hu)) (Bool.eq_false_iff.mpr (mt isBad.mp hd))]
    refine ⟨_, rfl, State.succeeds_reportsDone _, rfl, fun ho => ?_, fun ho => ?_⟩
    · exact congrArg (s.hub.fab.groups.put g) (if_pos (isOn.mpr ho))
    · exact congrArg (s.hub.fab.groups.put g) (if_neg (mt isOn.mp ho))

theorem setLink_clauses (h : s.pay 0 0 2 = 2) :
    let a := s.pay 8 0 6
    let on := s.pay 8 16 1 = 1
    let bad := fun (q : Port) => s.hub.fab.size ≤ a ∨ (on ∧ s.hub.fab.portOk q = false)
    (5 < s.pay 8 8 3 → exec .setFabricLink s = .next (s.mboxReject 3)) ∧
    (∀ q : Port, q.num.val = s.pay 8 8 3 →
      (bad q → exec .setFabricLink s = .next (s.mboxReject 3)) ∧
      (¬ bad q → ∀ e, s.hub.fab.dieOf a = some e →
        ∃ t : State, exec .setFabricLink s = .next t ∧ t.reportsDone ∧ t.mem = s.mem ∧
          (on → (t.link e q).lanes32 = false ∧ (t.link e q).state = (s.link e q).state.brought) ∧
          (¬ on → (t.link e q).state = .down)) ∧
      (¬ bad q → s.hub.fab.dieOf a = none →
        ∃ t : State, exec .setFabricLink s = .next t ∧ t.reportsDone ∧ t.mem = s.mem ∧ t.dies = s.dies ∧
          t.hub.fab.up = s.hub.fab.up ∧ ((Fin.ofNat 64 a, q) ∈ t.hub.fab.told ↔ on) ∧
          ∀ e, e ≠ (Fin.ofNat 64 a, q) → (e ∈ t.hub.fab.told ↔ e ∈ s.hub.fab.told))) := by
  intro a on bad
  rw [exec_setFabricLink_idle hb hr h]
  refine ⟨fun past => by rw [State.runLink_none past]; rfl, fun q hq => ?_⟩
  have isOn : (s.pay 8 16 1 == 1) = true ↔ on := beq_iff_eq
  have isBad : (decide (s.hub.fab.size ≤ a) || (s.pay 8 16 1 == 1 && !s.hub.fab.portOk q)) = true ↔ bad q := by
    simp only [bad, Bool.or_eq_true, decide_eq_true_eq, Bool.and_eq_true, isOn, Bool.not_eq_true']
  have done (good : ¬ bad q) : s.runLink = .done (s.linkSet a q (s.pay 8 16 1 == 1)) := by
    rw [State.runLink_port hq, Ran.check_done (Bool.eq_false_iff.mpr (mt isBad.mp good))]
  refine ⟨fun hd => by rw [State.runLink_port hq, Ran.check_rejected (isBad.mpr hd)]; rfl, fun hd e he => ?_, fun hd he => ?_⟩
  · rw [done hd, State.linkSet, he]
    by_cases ho : on
    · obtain ⟨hm, wide, up⟩ := s.bringUp_spec e q
      simp only [isOn.mpr ho, if_true]
      exact ⟨_, rfl, State.succeeds_reportsDone _, hm, fun _ => ⟨wide, up⟩, fun no => absurd ho no⟩
    · simp only [mt isOn.mp ho]
      exact ⟨_, rfl, State.succeeds_reportsDone _, s.setLink_mem .., fun yes => absurd yes ho, fun _ => s.setLink_state ..⟩
  · rw [done hd, State.linkSet, he]
    exact ⟨_, rfl, State.succeeds_reportsDone _, rfl, rfl, rfl, (mem_tell_self ..).trans isOn, fun x hx => mem_tell_ne _ _ hx⟩

theorem readScree_clauses (hp : s.hub.mbox.payload.wf = true) :
    let c := s.screeAsked
    let want := s.pay 0x10 0 5
    (4 < s.pay 0 0 3 ∨ want = 0 ∨ 16 < want → exec .readScree s = .next (s.mboxReject 3)) ∧
    (s.pay 0 0 3 ≤ 4 → 0 < want → want ≤ 16 →
      ∃ t : State, exec .readScree s = .next t ∧ t.reportsDone ∧ t.mem = s.mem ∧ t.hub.scree = s.hub.scree ∧ t.pay 0 0 32 = c.count.toNat ∧
        t.pay 0 32 32 = c.dropped.toNat ∧ t.pay 8 0 1 = s.hub.frozen.toNat) := by
  intro c want
  rw [exec_readScree_idle hb hr, State.runReadScree_eq]
  refine ⟨fun bad => ?_, fun hn h0 h16 => ?_⟩
  · rw [Ran.check_rejected (by simpa [or_assoc] using bad)]
    rfl
  · rw [Ran.check_done (by simpa using ⟨⟨hn, Nat.ne_of_gt h0⟩, h16⟩)]
    obtain ⟨hm, hs⟩ := s.setSpans_keeps s.screeSpans
    refine ⟨(s.setSpans s.screeSpans).succeeds, rfl, State.succeeds_reportsDone _, (State.succeeds_mem _).trans hm,
      (State.succeeds_scree _).trans hs, ?_⟩
    simp only [State.succeeds_pay]
    exact State.scree_pay hp

theorem readHealth_clauses (hp : s.hub.mbox.payload.wf = true) :
    ∃ t : State, exec .readHealth s = .next t ∧ t.reportsDone ∧ t.mem = s.mem ∧ t.pay 0 0 32 = s.hub.errors.why.toNat ∧
      t.pay 0 32 1 = s.hub.errors.replace.toNat ∧ t.pay 0x30 0 16 = s.hub.power.watts.toNat ∧ t.pay 0x32 0 16 = s.hub.power.cap.toNat ∧
      ∀ n : Fin 13, t.pay (0x10 + 2 * n.val) 0 16 = (s.hub.power.temps.at n).toNat := by
  rw [exec_readHealth_idle hb hr, State.runReadHealth_eq]
  refine ⟨(s.setSpans s.healthSpans).succeeds, rfl, State.succeeds_reportsDone _,
    (State.succeeds_mem _).trans (s.setSpans_keeps _).1, s.health_pay fun e he => ?_⟩
  rw [State.succeeds_payload]
  exact State.num_setSpans_mem hp s.healthSpans_apart he

theorem setPowerCap_clauses :
    let w := s.pay 0 0 16
    (w < 600 ∨ 1600 < w → exec .setPowerCap s = .next (s.mboxReject 3)) ∧
    (600 ≤ w → w ≤ 1600 → exec .setPowerCap s = .next ((s.modHub fun h => { h with power := { h.power with
      cap := BitVec.ofNat 16 w } }).modMbox fun m => { m with error := false, detail := 0 })) := by
  intro w
  rw [exec_setPowerCap_idle hb hr, State.runSetPowerCap]
  refine ⟨fun bad => ?_, fun lo hi => ?_⟩
  · rw [Ran.check_rejected (by simpa using bad)]
    rfl
  · rw [Ran.check_done (by simpa using ⟨lo, hi⟩)]
    rfl

end

/-- Settles O50, command by command at an idle mailbox (`State.mboxRun_idle`). The model's own choices among what is proved are those of
notes/assumptions/35.md, 38.md and 39.md. -/
theorem mailboxResources : Obligations.MailboxResources := by
  unfold Obligations.MailboxResources
  intro s hb hr hp hm p d ended
  refine ⟨fun h => ?_, removePartition_clauses hb hr, setCommons_clauses hb hr hm, setWarren_clauses hb hr, setGeometry_clauses hb hr,
    setGroup_clauses hb hr, fun h => ?_, readScree_clauses hb hr hp, exec_screeRelease_idle hb hr, readHealth_clauses hb hr hp,
    setPowerCap_clauses hb hr⟩
  · obtain ⟨busy, bad, done⟩ := setPartition_clauses hb hr h
    exact ⟨busy, bad, done, fun q o hq ho hc => State.partBad_overlap hq ho hc⟩
  · obtain ⟨past, at_⟩ := setLink_clauses hb hr h
    refine ⟨past, fun q hq => ?_⟩
    obtain ⟨refused, own, other⟩ := at_ q hq
    refine ⟨refused, fun good e he => ?_, other⟩
    obtain ⟨t, ht, done, mem, up, down⟩ := own good e he
    refine ⟨t, ht, done, mem, fun on => ⟨(up on).1, (up on).2.trans ?_⟩, down⟩
    cases (s.link e q).state <;> rfl

end Sys2Proof.Machine
end

section
/-! PROOFS. Where the machine stops (R354, R355). -/

namespace Sys2Proof.Machine

variable {s : State} {q : Fin 4096}

/-- The machine goes on. -/
def Goes (o : Host.Outcome State Fault Refusal) : Prop := ∃ t, o = .next t

/-- The instructions that can stop the machine: those of the host's memory accesses, and those that read a ring or an operator record. -/
def Instr.mayStop : Instr → Bool
  | .hostMemRead .. | .hostMemWrite .. | .shadowBankFill _ | .completionRecordWrite _ | .packetNop _ | .launch _ | .push _ | .signal _
  | .unknownPacketType _ => true
  | _ => false

/-- Every other instruction goes on: a word of a stream by `State.word`, and an event in each branch of its definition. -/
theorem exec_goes {i : Instr} (h : Instr.mayStop i = false) (s : State) : Goes (exec i s) := by
  cases i
  case hostMemRead | hostMemWrite | shadowBankFill | completionRecordWrite | packetNop | launch | push | signal | unknownPacketType =>
    exact nomatch h
  case
    xlatWalkComplete | ldsDataReturn | stsAccepted | ldstWordComplete | engineCommandStart | copyCommandComplete | gatherCommandComplete |
    leaseGrant | settOperandsRead | settCommandFinish | bankCommandComplete | bkredContribution | warrenCommandPerformed | xallStart |
    xallComplete | fputComplete | fgetComplete | famoComplete | fredComplete | fbarStart | fbarComplete | trapTaken | stallBudget |
    uncorrectableErrorConsumed | machineCheckCoreClear | phaseReplay | tileRunRetire | launchComplete | tileRunDispatch |
    operatorPinning | shadowBankSwap | ecallRecordAccepted | holdoffTimerExpiry | doorbellTail | completionHead | presp |
    eventRecordWrite | registerWrite | quiesced | holdReachesCore | preempted | restored | flitReceive | nakReceive | laneFailure |
    retrainComplete | pathSilenceExpiry | keyControl | response | watchdogExpiry | stageReady | stageTimeout | patrolScrub | thermalTrip =>
    simp only [exec,
      execXlatWalkComplete, execLdsDataReturn, execStsAccepted, execLdstWordComplete, execEngineCommandStart, execCopyCommandComplete,
      execGatherCommandComplete, execLeaseGrant, execSettOperandsRead, execSettCommandFinish, execBankCommandComplete,
      execBkredContribution, execWarrenCommandPerformed, execXallStart, execXallComplete, execFputComplete, execFgetComplete,
      execFamoComplete, execFredComplete, execFbarStart, execFbarComplete, execTrapTaken, execStallBudget, execUncorrectableErrorConsumed,
      execMachineCheckCoreClear, execPhaseReplay, execTileRunRetire, execLaunchComplete, execTileRunDispatch, execOperatorPinning,
      execShadowBankSwap, execEcallRecordAccepted, execHoldoffTimerExpiry, execDoorbellTail, execCompletionHead, execPresp,
      execEventRecordWrite, execRegisterWrite, execQuiesced, execHoldReachesCore, execPreempted, execRestored, execFlitReceive,
      execNakReceive, execLaneFailure, execRetrainComplete, execPathSilenceExpiry, execKeyControl, execResponse, execWatchdogExpiry,
      execStageReady, execStageTimeout, execPatrolScrub, execThermalTrip]
    repeat' split
    all_goals exact ⟨_, rfl⟩
  all_goals exact ⟨_, rfl⟩

/-! ## Rings and operator records (R354) -/

/-- The machine goes on, or stops at a ring or record at no memory. -/
def GoesOrNoRing (o : Host.Outcome State Fault Refusal) : Prop := Goes o ∨ o = .fault .noSuchRing

theorem State.packetTurn_goes (s : State) (q : Fin 4096) (isTy : Nat → Bool) (act : State → Queue → Packet → Option State) :
    GoesOrNoRing (s.packetTurn q isTy act) := by
  simp only [State.packetTurn]
  repeat' split
  all_goals simp [GoesOrNoRing, Goes]

theorem exec_packet_goes {i : Instr} (h : i ∈ [Instr.packetNop q, .launch q, .push q, .signal q, .unknownPacketType q]) :
    GoesOrNoRing (exec i s) := by
  simp only [List.mem_cons, List.not_mem_nil, or_false] at h
  rcases h with rfl | rfl | rfl | rfl | rfl <;>
    simp only [exec, execPacketNop, execLaunch, execPush, execSignal, execUnknownPacketType, State.packetTurn_goes]

theorem exec_completionRecordWrite_goes : GoesOrNoRing (exec (.completionRecordWrite q) s) := by
  simp only [exec, execCompletionRecordWrite]
  repeat' split
  all_goals simp [GoesOrNoRing, Goes]

theorem exec_shadowBankFill_goes {c : CoreId} : GoesOrNoRing (exec (.shadowBankFill c) s) := by
  simp only [exec, execShadowBankFill]
  repeat' split
  all_goals simp [GoesOrNoRing, Goes]

/-! ## Accesses of the host (R355) -/

theorem exec_hostMemRead_goes (a n : Nat) (s : State) :
    Goes (exec (.hostMemRead a n) s) ∨ (exec (.hostMemRead a n) s = .fault .noSuchDpa ∧ 3 * 2 ^ 39 < a + n) := by
  by_cases hr : s.hub.brock.boot = .recovery
  · exact .inl ⟨_, exec_hostMemRead_recovery hr⟩
  · by_cases hp : 3 * 2 ^ 39 < a + n
    · rcases Nat.eq_zero_or_pos n with rfl | hn
      · exact .inl ⟨_, if_neg (mt State.inRecovery_iff.mp hr)⟩
      · exact .inr ⟨exec_hostMemRead_past hr hn hp, hp⟩
    · exact .inl ⟨_, exec_hostMemRead_live hr (Nat.not_lt.mp hp)⟩

theorem exec_hostMemWrite_goes (a : Nat) (b : List Byte) (s : State) :
    Goes (exec (.hostMemWrite a b) s) ∨ (exec (.hostMemWrite a b) s = .fault .noSuchDpa ∧ 3 * 2 ^ 39 < a + b.length) := by
  by_cases hr : s.hub.brock.boot = .recovery
  · exact .inl ⟨_, exec_hostMemWrite_recovery hr⟩
  · by_cases hp : 3 * 2 ^ 39 < a + b.length
    · rcases Nat.eq_zero_or_pos b.length with hn | hn
      · rw [List.eq_nil_of_length_eq_zero hn]
        exact .inl ⟨_, if_neg (mt State.inRecovery_iff.mp hr)⟩
      · exact .inr ⟨exec_hostMemWrite_past hr hn hp, hp⟩
    · exact .inl ⟨_, exec_hostMemWrite_live hr (Nat.not_lt.mp hp)⟩

/-! ## Settling O60 -/

/-- What stops the machine, instruction by instruction. -/
theorem exec_stops (i : Instr) (s : State) : Goes (exec i s) ∨
    (exec i s = .fault .noSuchDpa ∧ ((∃ a n, i = .hostMemRead a n ∧ 3 * 2 ^ 39 < a + n) ∨
      ∃ a b, i = .hostMemWrite a b ∧ 3 * 2 ^ 39 < a + b.length)) ∨
    (exec i s = .fault .noSuchRing ∧ ((∃ c, i = .shadowBankFill c) ∨
      ∃ q, i ∈ [Instr.completionRecordWrite q, .packetNop q, .launch q, .push q, .signal q, .unknownPacketType q])) := by
  cases hi : Instr.mayStop i with
  | false => exact .inl (exec_goes hi s)
  | true =>
    cases i
    case hostMemRead a n => exact (exec_hostMemRead_goes a n s).imp_right fun h => .inl ⟨h.1, .inl ⟨a, n, rfl, h.2⟩⟩
    case hostMemWrite a b => exact (exec_hostMemWrite_goes a b s).imp_right fun h => .inl ⟨h.1, .inr ⟨a, b, rfl, h.2⟩⟩
    case shadowBankFill c => exact exec_shadowBankFill_goes.imp_right fun h => .inr ⟨h, .inl ⟨c, rfl⟩⟩
    case completionRecordWrite q => exact exec_completionRecordWrite_goes.imp_right fun h => .inr ⟨h, .inr ⟨q, by simp⟩⟩
    case packetNop q | launch q | push q | signal q | unknownPacketType q =>
      exact (exec_packet_goes (q := q) (by simp)).imp_right fun h => .inr ⟨h, .inr ⟨q, by simp⟩⟩
    all_goals exact nomatch hi

theorem exec_ne_refused (i : Instr) (s : State) (r : Refusal) : exec i s ≠ .refused r := by
  rcases exec_stops i s with ⟨t, h⟩ | ⟨h, -⟩ | ⟨h, -⟩ <;> simp [h]

theorem State.turn_ne_refused (s : State) (t : Turn) (r : Refusal) : s.turn t ≠ .refused r := by
  cases t with
  | issue c q x =>
    simp only [State.turn, State.issueTurn]
    split
    · exact nofun
    · split
      · exact exec_ne_refused _ _ r
      · exact nofun
  | event e =>
    simp only [State.turn, State.eventTurn]
    split
    · exact exec_ne_refused _ _ r
    · exact nofun

/-- Settles O60: every instruction but nine goes on in every state, and no turn is refused. -/
theorem stopsOnlyWhere : Obligations.StopsOnlyWhere := by
  unfold Obligations.StopsOnlyWhere
  refine ⟨exec_stops, fun s r => ?_⟩
  unfold step
  split
  · exact State.turn_ne_refused _ _ r
  · dsimp only
    split
    · exact nofun
    · exact State.turn_ne_refused _ _ r

end Sys2Proof.Machine
end

section
/-! PROOFS. Boot, measurements and recovery (R362 to R364, R366, R368, R375). -/

namespace Sys2Proof.Machine

variable {s t u : State} {b : Brock} {w : Bool}

/-! ## Every processor but Brock in reset -/

/-- A state whose processors have been reset, with what Brock knows from now on. -/
structure State.Reboots (s : State) (b : Brock) (t : State) : Prop where
  mem : t.mem = s.mem
  cores : t.cores = State.reset.cores
  brock : t.hub.brock = b
  timer : t.hub.timer = s.hub.timer
  frozen : t.hub.frozen = s.hub.frozen

theorem State.restarted_reboots (s : State) (f : Brock → Brock) : s.Reboots (f s.hub.brock) (s.restarted.modBrock f) := ⟨rfl, rfl, rfl, rfl, rfl⟩

theorem State.Reboots.bootRecords (h : s.Reboots b t) {α : Type} (code kind : α → Nat) (slot : α → Bool) (l : List α) :
    s.Reboots b (l.foldl (fun t e => t.bootRecord (code e) (kind e) (slot e)) t) := by
  induction l generalizing t with
  | nil => exact h
  | cons e l ih => exact ih ⟨h.mem, h.cores, h.brock, h.timer, h.frozen⟩

theorem State.Reboots.core (h : s.Reboots b t) (c : CoreId) : t.core c = Core.reset := by
  rw [State.core, h.cores]
  exact File.at_all ..

/-! ## The choice of a slot (R363, R364) -/

/-- The slot may be booted: it is valid and has not failed in this boot. -/
def Brock.bootable (b : Brock) (w : Bool) : Bool := !b.failed.getLsbD w.toNat && slotValid b.minSvn (b.slot w)

/-- The version of a slot's first image. -/
def Brock.version (b : Brock) (w : Bool) : Nat := imageNum (slotImage (b.slot w) 1) 8 4

/-- A slot goes before the other one: that one cannot be booted, or has a lower version; A goes before B on a tie. -/
def Brock.Before (b : Brock) (w : Bool) : Prop :=
  b.bootable (!w) = false ∨ b.version (!w) < b.version w ∨ (b.version (!w) = b.version w ∧ w = false)

theorem State.chooseSlot_take (ok : s.hub.brock.bootable w = true) (first : s.hub.brock.Before w) : s.chooseSlot = s.releaseImage w 0 := by
  have ok0 : s.hub.brock.bootable w = (!s.hub.brock.failed.getLsbD w.toNat && slotValid s.hub.brock.minSvn (s.hub.brock.slot w)) := rfl
  have ok1 : s.hub.brock.bootable (!w) = (!s.hub.brock.failed.getLsbD (!w).toNat && slotValid s.hub.brock.minSvn (s.hub.brock.slot !w)) := rfl
  rw [ok] at ok0
  have higher : s.hub.brock.bootable (!w) = true → decide (s.hub.brock.version false < s.hub.brock.version true) = w := by
    intro both
    rcases first with other | lower | ⟨tie, rfl⟩
    · simp [both] at other
    · cases w with
      | false => exact decide_eq_false (Nat.lt_asymm lower)
      | true => exact decide_eq_true lower
    · exact decide_eq_false (Nat.not_lt.mpr (Nat.le_of_eq tie))
  unfold State.chooseSlot
  cases both : s.hub.brock.bootable (!w) with
  | false =>
    rw [both] at ok1
    cases w <;> simp only [Bool.not_false, Bool.not_true] at ok1 <;> simp only [← ok0, ← ok1]
  | true =>
    have taken := higher both
    rw [both] at ok1
    cases w <;> simp only [Bool.not_false, Bool.not_true] at ok1 <;> simp only [← ok0, ← ok1] <;>
      exact congrArg (s.releaseImage · 0) taken

theorem State.chooseSlot_none (a : s.hub.brock.bootable false = false) (b : s.hub.brock.bootable true = false) :
    s.chooseSlot = s.enterRecovery := by
  have a : (!s.hub.brock.failed.getLsbD false.toNat && slotValid s.hub.brock.minSvn (s.hub.brock.slot false)) = false := a
  have b : (!s.hub.brock.failed.getLsbD true.toNat && slotValid s.hub.brock.minSvn (s.hub.brock.slot true)) = false := b
  unfold State.chooseSlot
  simp only [a, b]

/-- The choice of a slot is the release of a first image, or recovery mode. -/
theorem State.chooseSlot_cases (s : State) : (∃ w, s.chooseSlot = s.releaseImage w 0) ∨ s.chooseSlot = s.enterRecovery := by
  unfold State.chooseSlot
  dsimp only
  split
  · exact .inl ⟨_, rfl⟩
  · exact .inl ⟨_, rfl⟩
  · exact .inl ⟨_, rfl⟩
  · exact .inr rfl

theorem State.chooseSlot_keeps (s : State) : s.chooseSlot.mem = s.mem ∧ s.chooseSlot.cores = s.cores ∧
    (s.hub.frozen = true → s.chooseSlot.hub.frozen = true) := by
  rcases s.chooseSlot_cases with ⟨w, h⟩ | h <;> rw [h]
  · exact ⟨rfl, rfl, id⟩
  · exact ⟨rfl, rfl, fun _ => rfl⟩

/-- After a reset, Brock takes a slot. -/
theorem State.Reboots.chooses (h : s.Reboots b t) : t.chooseSlot.mem = s.mem ∧ (∀ c, t.chooseSlot.core c = Core.reset) ∧
    (b.bootable false = false → b.bootable true = false →
      t.chooseSlot.hub.brock.boot = .recovery ∧ t.chooseSlot.hub.brock.log = [] ∧ t.chooseSlot.hub.frozen = true) ∧
    (b.log = [] → b.released = [] → ∀ w, b.bootable w = true → b.Before w →
      t.chooseSlot.hub.brock.boot = .booting w 0 ∧ t.chooseSlot.hub.brock.log = [Config.shake256 (slotImage (b.slot w) 1)] ∧
      t.chooseSlot.hub.brock.released = [(.management, s.hub.timer)] ∧ t.chooseSlot.hub.frozen = s.hub.frozen) := by
  obtain ⟨hm, hc, -⟩ := t.chooseSlot_keeps
  refine ⟨hm.trans h.mem, fun c => ?_, fun a b => ?_, fun log released w ok first => ?_⟩
  · have := h.core c
    rw [State.core] at this ⊢
    rwa [hc]
  · rw [State.chooseSlot_none (by rwa [h.brock]) (by rwa [h.brock])]
    exact ⟨rfl, rfl, rfl⟩
  · rw [State.chooseSlot_take (by rwa [h.brock]) (by rwa [h.brock])]
    simp [State.releaseImage, State.modBrock, State.modHub, procsOf, h.brock, h.timer, h.frozen, log, released]

/-- Brock as a boot starts: no measurement, no slot failed, nothing released. -/
def Brock.fresh (b : Brock) : Brock := { b with boot := .off, log := [], failed := 0, dieReady := 0, released := [] }

theorem State.startBoot_eq (s : State) : ∃ t : State, s.Reboots s.hub.brock.fresh t ∧ s.startBoot = t.chooseSlot :=
  ⟨_, (s.restarted_reboots Brock.fresh).bootRecords (fun _ => 0x02) (fun e : Bool × Nat => e.2) (fun e => e.1) _, rfl⟩

theorem Brock.bootable_fresh (b : Brock) (w : Bool) : b.fresh.bootable w = slotValid b.minSvn (b.slot w) := by
  change (!(0 : BitVec 2).getLsbD w.toNat && slotValid b.minSvn (b.slot w)) = _
  simp

/-- Brock after a stage of a slot was not ready in time. -/
def Brock.afterTimeout (b : Brock) (w : Bool) : Brock :=
  { b with boot := .off, log := [], dieReady := 0, released := [], failed := b.failed ||| (1 <<< w.toNat) }

theorem Brock.bootable_afterTimeout (h : b.failed = 0) (w : Bool) : (b.afterTimeout w).bootable w = false ∧
    (b.afterTimeout w).bootable (!w) = slotValid b.minSvn (b.slot !w) := by
  change (!(b.failed ||| (1 <<< w.toNat)).getLsbD w.toNat && slotValid b.minSvn (b.slot w)) = false ∧
    (!(b.failed ||| (1 <<< w.toNat)).getLsbD (!w).toNat && slotValid b.minSvn (b.slot !w)) = _
  rw [h]
  cases w <;> simp

/-! ## Power-good (R363, R375) -/

theorem exec_powerGood_on (h : s.hub.brock.boot ≠ .off) : exec .powerGood s = .next s := congrArg Host.Outcome.next (if_neg h)

theorem exec_powerGood_off (h : s.hub.brock.boot = .off) :
    let ok := fun (w : Bool) => slotValid s.hub.brock.minSvn (s.hub.brock.slot w)
    let version := fun (w : Bool) => imageNum (slotImage (s.hub.brock.slot w) 1) 8 4
    ∃ t : State, exec .powerGood s = .next t ∧ t.mem = s.mem ∧ (∀ c, t.core c = Core.reset) ∧
      (ok false = false → ok true = false → t.hub.brock.boot = .recovery ∧ t.hub.brock.log = [] ∧ t.hub.frozen = true) ∧
      (∀ w, ok w = true → (ok (!w) = false ∨ version (!w) < version w ∨ (version (!w) = version w ∧ w = false)) →
        t.hub.brock.boot = .booting w 0 ∧ t.hub.brock.log = [Config.shake256 (slotImage (s.hub.brock.slot w) 1)] ∧
        t.hub.brock.released = [(.management, s.hub.timer)] ∧ t.hub.frozen = s.hub.frozen) := by
  intro ok version
  have okEq (w : Bool) : s.hub.brock.fresh.bootable w = ok w := s.hub.brock.bootable_fresh w
  obtain ⟨t, reboots, starts⟩ := s.startBoot_eq
  obtain ⟨mem, cores, recovery, boots⟩ := reboots.chooses
  refine ⟨t.chooseSlot, congrArg Host.Outcome.next ((if_pos h).trans starts), mem, cores, fun a b => ?_, fun w hw first => ?_⟩
  · exact recovery ((okEq false).trans a) ((okEq true).trans b)
  · exact boots rfl rfl w ((okEq w).trans hw) (first.imp_left ((okEq !w).trans ·))

/-! ## Stages (R363, R375) -/

section
variable {n : Fin 4} {d : Fin 4} (hb : s.hub.brock.boot = .booting w n)
include hb

theorem exec_stageReady_next (hn : n.val < 3) :
    ∃ t : State, exec (.stageReady d) s = .next t ∧ t.mem = s.mem ∧ t.cores = s.cores ∧ t.hub.brock.boot = .booting w (n + 1) ∧
      t.hub.brock.log = s.hub.brock.log ++ [Config.shake256 (slotImage (s.hub.brock.slot w) (n.val + 2))] := by
  have next : Fin.ofNat 4 (n.val + 1) = n + 1 := by
    ext
    simp [Fin.val_add]
  have image : (Fin.ofNat 4 (n.val + 1)).val + 1 = n.val + 2 := by simp; omega
  refine ⟨(s.bootRecord 0x01 (n.val + 1) w).releaseImage w (Fin.ofNat 4 (n.val + 1)), ?_, rfl, rfl, ?_, ?_⟩
  · change execStageReady d s = _
    simp only [execStageReady, hb, hn, if_true]
  · exact congrArg (Boot.booting w) next
  · exact congrArg (fun k => s.hub.brock.log ++ [Config.shake256 (slotImage (s.hub.brock.slot w) k)]) image

theorem exec_stageTimeout_early (h : (s.hub.timer - s.hub.brock.stageAt).toNat < 1022611) : exec .stageTimeout s = .next s := by
  change execStageTimeout s = _
  simp only [execStageTimeout, hb, if_neg (Nat.not_le.mpr h)]

theorem exec_stageTimeout_late (h : 1022611 ≤ (s.hub.timer - s.hub.brock.stageAt).toNat) :
    ∃ t : State, exec .stageTimeout s = .next t ∧ t.hub.frozen = true ∧ t.mem = s.mem ∧ (∀ c, t.core c = Core.reset) ∧
      (s.hub.brock.failed = 0 →
        (slotValid s.hub.brock.minSvn (s.hub.brock.slot !w) = true → t.hub.brock.boot = .booting (!w) 0) ∧
        (slotValid s.hub.brock.minSvn (s.hub.brock.slot !w) = false → t.hub.brock.boot = .recovery)) := by
  let u := (s.bootRecord 0x03 (n.val + 1) w).freezeScree
  have reboots : u.Reboots (s.hub.brock.afterTimeout w) (u.restarted.modBrock (Brock.afterTimeout · w)) :=
    u.restarted_reboots (Brock.afterTimeout · w)
  generalize hv : u.restarted.modBrock (Brock.afterTimeout · w) = v at reboots
  obtain ⟨mem, cores, recovery, boots⟩ := reboots.chooses
  refine ⟨v.chooseSlot, ?_, ?_, mem, cores, fun hf => ?_⟩
  · change execStageTimeout s = _
    simp only [execStageTimeout, hb, if_pos h]
    exact congrArg (fun x : State => Host.Outcome.next x.chooseSlot) hv
  · exact (v.chooseSlot_keeps).2.2 reboots.frozen
  · obtain ⟨out, other⟩ := Brock.bootable_afterTimeout hf w
    refine ⟨fun ok => ?_, fun bad => ?_⟩
    · exact (boots rfl rfl (!w) (other.trans ok) (.inl (by rwa [Bool.not_not]))).1
    · cases w with
      | false => exact (recovery out (other.trans bad)).1
      | true => exact (recovery (other.trans bad) out).1

end

theorem exec_stage_other (h : ∀ w n, s.hub.brock.boot ≠ .booting w n) (d : Fin 4) :
    exec (.stageReady d) s = .next s ∧ exec .stageTimeout s = .next s := by
  change execStageReady d s = _ ∧ execStageTimeout s = _
  unfold execStageReady execStageTimeout
  cases hb : s.hub.brock.boot with
  | booting w n => exact absurd hb (h w n)
  | off | running _ | recovery => exact ⟨rfl, rfl⟩

/-! ## The links of the package (R303, R375) -/

/-- Memory, the cores and Brock are as before. -/
structure State.KeepsBrock (s t : State) : Prop where
  mem : t.mem = s.mem
  cores : t.cores = s.cores
  brock : t.hub.brock = s.hub.brock

namespace State.KeepsBrock

theorem trans (h : s.KeepsBrock t) (g : t.KeepsBrock u) : s.KeepsBrock u := ⟨g.mem.trans h.mem, g.cores.trans h.cores, g.brock.trans h.brock⟩

theorem foldl {α : Type} {f : State → α → State} (h : ∀ t a, State.KeepsBrock t (f t a)) (l : List α) (s : State) :
    s.KeepsBrock (l.foldl f s) :=
  List.foldlRecOn (motive := fun t => s.KeepsBrock t) l f ⟨rfl, rfl, rfl⟩ fun t ht a _ => ht.trans (h t a)

theorem setLink (s : State) (d : Fin 4) (p : Port) (st : LinkState) : s.KeepsBrock (s.setLink d p st) := by
  unfold State.setLink
  split
  · exact ⟨rfl, rfl, rfl⟩
  · cases sibling d p <;> exact ⟨rfl, rfl, rfl⟩

end State.KeepsBrock

/-- A link that carries flits at full width keeps doing so while others are brought to it. -/
theorem State.setLink_full {d e : Fin 4} {p q : Port} (h : (s.link e q).state = .full) : ((s.setLink d p .full).link e q).state = .full := by
  by_cases hd : (s.link d p).state = .full
  · unfold State.setLink
    rwa [if_pos hd]
  · rw [(s.setLink_eq hd).link, State.modEnds_link _ (linkEnds_nodup d p)]
    split
    · exact Link.into_state ..
    · exact h

/-- Links brought to full width one after the other. -/
def State.linksFull (s : State) (l : List (Fin 4 × Port)) : State := l.foldl (fun s e => s.setLink e.1 e.2 .full) s

theorem State.linksFull_state (l : List (Fin 4 × Port)) (s : State) {e : Fin 4 × Port} (h : e ∈ l ∨ (s.link e.1 e.2).state = .full) :
    ((s.linksFull l).link e.1 e.2).state = .full := by
  induction l generalizing s with
  | nil => exact h.resolve_left List.not_mem_nil
  | cons a l ih =>
    refine ih (s.setLink a.1 a.2 .full) ?_
    rcases h with h | h
    · rcases List.mem_cons.mp h with rfl | h
      · exact .inr (State.setLink_state ..)
      · exact .inl h
    · exact .inr (State.setLink_full h)

/-- A direction of a link gets its fixed word. -/
def State.keyLink (s : State) (d : Fin 4) (p : Port) : State :=
  let (w, s) := s.freeWord
  let s := s.modLink d p fun l => { l with fixed := w.setWidth 32, keyCtr := 0 }
  match sibling d p with
  | some e => s.modLink e p fun l => { l with rxFixed := w.setWidth 32 }
  | none => s

theorem State.keyLink_keeps (s : State) (d : Fin 4) (p : Port) : s.KeepsLanes (s.keyLink d p) ∧ s.KeepsBrock (s.keyLink d p) := by
  have drawn : s.KeepsLanes s.freeWord.2 := .of_dies rfl rfl
  have fixed := drawn.trans (.modLink _ d p (f := fun l => { l with fixed := s.freeWord.1.setWidth 32, keyCtr := 0 }) fun _ => ⟨rfl, rfl⟩)
  unfold State.keyLink
  cases sibling d p with
  | none => exact ⟨fixed, rfl, rfl, rfl⟩
  | some e =>
    refine ⟨fixed.trans (.modLink _ e p fun _ => ⟨rfl, rfl⟩), rfl, rfl, rfl⟩

/-- The UCIe links of the package, each named from one of its ends. -/
def packageLinks : List (Fin 4 × Port) := [(0, .xp), (2, .xp), (0, .yp), (1, .yp)]

/-- Every direction of the package's links gets its fixed word. -/
def State.keyLinks (s : State) : State := (List.finRange 4).foldl (fun s d => [Port.xp, Port.yp].foldl (fun s p => s.keyLink d p) s) s

theorem State.keyLinks_lanes (s : State) : s.KeepsLanes s.keyLinks :=
  .foldl (fun t d => .foldl (fun u p => (u.keyLink_keeps d p).1) _ t) _ s

theorem State.keyLinks_brock (s : State) : s.KeepsBrock s.keyLinks :=
  .foldl (fun t d => .foldl (fun u p => (u.keyLink_keeps d p).2) _ t) _ s

theorem State.linksFull_brock (s : State) (l : List (Fin 4 × Port)) : s.KeepsBrock (s.linksFull l) := by
  have one (t : State) (e : Fin 4 × Port) : t.KeepsBrock (t.setLink e.1 e.2 .full) := .setLink ..
  exact .foldl one l s

theorem State.trainLinks_eq (s : State) : s.trainLinks = (s.linksFull packageLinks).keyLinks := rfl

theorem State.trainLinks_spec (s : State) : s.KeepsBrock s.trainLinks ∧ ∀ e ∈ packageLinks, (s.trainLinks.link e.1 e.2).state = .full := by
  rw [State.trainLinks_eq]
  exact ⟨(s.linksFull_brock _).trans (State.keyLinks_brock _),
    fun e he => ((State.keyLinks_lanes _).lanes e.1 e.2).1.trans (s.linksFull_state packageLinks (.inl he))⟩

theorem exec_stageReady_last {d : Fin 4} (hb : s.hub.brock.boot = .booting w 3) :
    ∃ t : State, exec (.stageReady d) s = .next t ∧ t.mem = s.mem ∧ t.cores = s.cores ∧
      (s.hub.brock.dieReady ||| (1 <<< d.val) ≠ 15 →
        t.hub.brock.boot = .booting w 3 ∧ t.hub.brock.dieReady = s.hub.brock.dieReady ||| (1 <<< d.val)) ∧
      (s.hub.brock.dieReady ||| (1 <<< d.val) = 15 → t.hub.brock.boot = .running w ∧
        ∀ e ∈ packageLinks, (t.link e.1 e.2).state = .full) := by
  let v := s.modBrock fun b => { b with dieReady := b.dieReady ||| (1 <<< d.val) }
  let r := (v.bootRecord 0x01 4 w).modBrock fun b => { b with boot := .running w }
  have run : exec (.stageReady d) s = .next (if v.hub.brock.dieReady = 15 then r.trainLinks else v) := by
    change execStageReady d s = _
    simp only [execStageReady, hb]
    exact (apply_ite Host.Outcome.next _ _ _).symm
  by_cases all : s.hub.brock.dieReady ||| (1 <<< d.val) = 15
  · obtain ⟨kept, full⟩ := r.trainLinks_spec
    exact ⟨r.trainLinks, run.trans (congrArg Host.Outcome.next (if_pos all)), kept.mem, kept.cores, fun no => absurd all no,
      fun _ => ⟨congrArg Brock.boot kept.brock, full⟩⟩
  · exact ⟨v, run.trans (congrArg Host.Outcome.next (if_neg all)), rfl, rfl, fun _ => ⟨hb, rfl⟩, fun yes => absurd yes all⟩

/-! ## RECOVERY_COMMIT (R366) -/

/-- A command that is accepted in recovery mode runs there as elsewhere. -/
theorem State.mboxRun_accepted (hb : s.hub.mbox.busy = false) (code : Nat) (body : State → Ran) : s.mboxRun code true body = (body s).ended s := by
  simp only [State.mboxRun, State.mboxEnd, hb, Bool.false_and, Bool.false_eq_true, if_false, State.modMbox_idle hb, Bool.not_true, Bool.and_false]
  cases body s <;> rfl

/-- The GB7 runs from the slot, or boots it. -/
def Brock.uses (b : Brock) (w : Bool) : Bool :=
  match b.boot with
  | .booting v _ | .running v => v == w
  | _ => false

theorem Brock.uses_iff : b.uses w = true ↔ (∃ n, b.boot = .booting w n) ∨ b.boot = .running w := by
  unfold Brock.uses
  cases b.boot <;> simp

/-- The lowest security version of the images, at most that which a fuse can hold. -/
def lowestSvn (l : List (List Byte)) : Nat := (l.map fun i => imageNum i 0xC 2).foldl min 0xFFFF

theorem lowestSvn_le (l : List (List Byte)) : lowestSvn l ≤ 0xFFFF := by
  have below (k : List Nat) (a : Nat) : k.foldl min a ≤ a :=
    List.foldlRecOn (motive := fun x => x ≤ a) k min (Nat.le_refl a) fun x hx y _ => (Nat.min_le_left x y).trans hx
  exact below ..

/-- A committed image set stands in its slot; the lowest version accepted rises to its lowest one where the payload says so (R366). -/
def Brock.committed (b : Brock) (w advance : Bool) (l : List (List Byte)) : Brock :=
  { b with
    flash := b.flash.set w.toNat l,
    minSvn := if advance && decide (b.minSvn.toNat < lowestSvn l) then BitVec.ofNat 16 (lowestSvn l) else b.minSvn }

theorem Brock.committed_minSvn (b : Brock) (w advance : Bool) (l : List (List Byte)) : b.minSvn.toNat ≤ (b.committed w advance l).minSvn.toNat := by
  have := lowestSvn_le l
  unfold Brock.committed
  dsimp only
  split
  · next h =>
    simp only [Bool.and_eq_true, decide_eq_true_eq] at h
    rw [BitVec.toNat_ofNat]
    omega
  · exact Nat.le_refl _

/-- What RECOVERY_COMMIT does with an image set. -/
def State.commitImages (s : State) (l : List (List Byte)) : Ran :=
  if !slotValid s.hub.brock.minSvn l then .rejected 5 else .done (s.modBrock fun b => b.committed (s.pay 0 0 1 == 1) (s.pay 0 8 1 == 1) l)

theorem State.commitImages_invalid {l : List (List Byte)} (h : slotValid s.hub.brock.minSvn l = false) : s.commitImages l = .rejected 5 :=
  if_pos (by rw [h]; rfl)

theorem State.commitImages_valid {l : List (List Byte)} (h : slotValid s.hub.brock.minSvn l = true) :
    s.commitImages l = .done (s.modBrock fun b => b.committed (s.pay 0 0 1 == 1) (s.pay 0 8 1 == 1) l) :=
  if_neg (by rw [h]; decide)

theorem State.runRecoveryCommit_used (h : (s.hub.brock.uses (s.pay 0 0 1 == 1) || decide (2 ^ 26 < s.pay 8 0 32)) = true) :
    s.runRecoveryCommit = .rejected 3 := if_pos h

theorem State.runRecoveryCommit_free (h : (s.hub.brock.uses (s.pay 0 0 1 == 1) || decide (2 ^ 26 < s.pay 8 0 32)) = false) :
    s.runRecoveryCommit = (splitImages 4 (s.hub.brock.staging.read 0 (s.pay 8 0 32))).elim (.rejected 5) s.commitImages := by
  refine (if_neg (Bool.eq_false_iff.mp h)).trans ?_
  cases splitImages 4 (s.hub.brock.staging.read 0 (s.pay 8 0 32)) with
  | none => rfl
  | some l => rfl

theorem recoveryCommit_clauses (hb : s.hub.mbox.busy = false) :
    let b := s.hub.brock
    let w := s.pay 0 0 1 == 1
    let len := s.pay 8 0 32
    let inUse := (∃ n, b.boot = .booting w n) ∨ b.boot = .running w
    (inUse ∨ 2 ^ 26 < len → exec .recoveryCommit s = .next (s.mboxReject 3)) ∧
    (¬ inUse → len ≤ 2 ^ 26 →
      (splitImages 4 (b.staging.read 0 len) = none → exec .recoveryCommit s = .next (s.mboxReject 5)) ∧
      (∀ l, splitImages 4 (b.staging.read 0 len) = some l →
        (slotValid b.minSvn l = false → exec .recoveryCommit s = .next (s.mboxReject 5)) ∧
        (slotValid b.minSvn l = true →
          ∃ t : State, exec .recoveryCommit s = .next t ∧ t.mem = s.mem ∧ t.hub.mbox.error = false ∧
            t.hub.brock.flash = b.flash.set w.toNat l ∧ (s.pay 0 8 1 = 0 → t.hub.brock.minSvn = b.minSvn) ∧
            b.minSvn.toNat ≤ t.hub.brock.minSvn.toNat))) := by
  intro b w len inUse
  have run : exec .recoveryCommit s = .next (s.runRecoveryCommit.ended s) := congrArg Host.Outcome.next (State.mboxRun_accepted hb ..)
  have barred : (b.uses w || decide (2 ^ 26 < len)) = true ↔ inUse ∨ 2 ^ 26 < len := by
    rw [Bool.or_eq_true, Brock.uses_iff, decide_eq_true_eq]
  rw [run]
  refine ⟨fun no => by rw [State.runRecoveryCommit_used (barred.mpr no)]; rfl, fun free short => ?_⟩
  rw [State.runRecoveryCommit_free (Bool.eq_false_iff.mpr (mt barred.mp (not_or.mpr ⟨free, Nat.not_lt.mpr short⟩)))]
  refine ⟨fun none => by rw [none]; rfl, fun l hl => ?_⟩
  rw [hl, Option.elim_some]
  refine ⟨fun bad => by rw [State.commitImages_invalid bad]; rfl, fun good => ?_⟩
  rw [State.commitImages_valid good]
  refine ⟨(s.modBrock fun b => b.committed w (s.pay 0 8 1 == 1) l).succeeds, rfl, rfl, rfl, rfl, fun h0 => ?_, Brock.committed_minSvn ..⟩
  have still : (s.pay 0 8 1 == 1) = false := by rw [h0]; rfl
  rw [still]
  rfl

/-- Settles O56. The time of a stage, and when a commit is refused as in use, are the model's own readings (notes/assumptions/38.md, 41.md,
44.md). -/
theorem boot : Obligations.Boot := by
  unfold Obligations.Boot
  intro s d b ok version
  refine ⟨exec_powerGood_on, exec_powerGood_off, fun w n hb => ⟨exec_stageReady_next hb, fun hn => ?_, exec_stageTimeout_early hb,
    exec_stageTimeout_late hb⟩, fun h => exec_stage_other h d, rfl, recoveryCommit_clauses⟩
  subst hn
  exact exec_stageReady_last hb

end Sys2Proof.Machine
end
